-- ==== Sys2Proof/Word.lean ====
section
/-! DEFINITION. The plain word types of the model and the sparse table every indexed register
family and memory is held in. Nothing is computed here; the operations on tables stand in
Machine/Table.lean, those on bit fields and byte orders in Machine/Bits.lean. -/

namespace Sys2Proof

/-- One byte. -/
abbrev Byte := BitVec 8

/-- A run of bytes, lowest address first. -/
abbrev Bytes := List (BitVec 8)

/-- A 32-bit register value. -/
abbrev Word := BitVec 32

/-- A 64-bit register value. -/
abbrev DWord := BitVec 64

/-- A sparse table: index and entry pairs, indexes strictly rising, no entry equal to the
family's default. What an unlisted index holds is the default its accessor names. -/
abbrev Tbl (α : Type) := List (Nat × α)

end Sys2Proof
end

