-- ==== Sys2Proof/Syntax.lean ====
section
/-! DEFINITION. The commands of the block: one constructor of `Instr` per row of
spec/opcode_table.json. The table gives the rows no operands and no bits; a constructor's
arguments are what the governing rule says the step brings with it from outside the model (a
message body, a measured value, an index), and nothing the state already holds. -/

namespace Sys2Proof

/-- A host access to device memory or to the BAR2 aperture (R406, R410). -/
inductive HostAccess where
  /-- A read of `len` bytes. -/
  | read (len : Nat)
  /-- A write of `data`, with the poison indication of the link. -/
  | write (data : Bytes) (poison : Bool)
deriving DecidableEq, Repr

/-- A block as a receiver has it: the header as it stands on the line, first bit high, and the descrambled payload
(R234, R235). -/
structure RxBlock where
  hdr : BitVec 2
  payload : DWord
deriving DecidableEq, Repr

/-- The DRAM population step 7 finds (R302 to R305). `type` is 1 DDR4, 2 DDR5, 0 none. -/
structure DramPop where
  type : Nat
  nch : Nat
  dimms : Nat
  ranks : Nat
  rankGib : Nat
  /-- Speed bin that the SPD of every DIMM reports, MT/s. -/
  bin : Nat
  /-- Rows per bank, the training row included (R306). -/
  rows : Nat
  threeDS : Bool
  /-- DIMMs whose SPD could not be read or describes a part outside Table 10-1: channel and DIMM (R305). -/
  spdBad : List (Nat × Nat)
deriving DecidableEq, Repr

/-- What ends a start-up step (Table 17-5): the results that only the hardware outside the model
can know. A field that the step does not use is ignored. -/
structure StartInfo where
  /-- Step 3: PLLs locked, bit p. -/
  pllLocked : BitVec 8
  /-- Step 4: a regulator that failed, with its cause. -/
  vrmFail : Option (Nat × Nat)
  /-- Step 7: the population found. -/
  pop : DramPop
  /-- Step 7: channels in which a rank failed training: (channel, physical rank, step). -/
  trainFail : List (Nat × Nat × Nat)
  /-- Step 7 of a warm reset: channels whose step-4 margins fail their check, and which run steps 2 to 6 (R335). -/
  marginFail : List Nat
  /-- Step 7: serial number of DIMM `d` of channel `c`, at 2 × c + d (R347). -/
  serials : List Nat
  /-- Step 8: VLCD came up. -/
  vlcdOk : Bool
  /-- Step 8: valid lens temperatures of the first 500 ms, 1/16 °C (R298). -/
  lensTemps : List Int
  /-- Step 8: commons whose recovery faulted (Table 17-5), with the output that was over its current limit, or none where
  the done write failed. -/
  recoverFail : List (Nat × Option Nat)
  /-- Step 9: a rail that failed to ramp. -/
  railFail : Option Nat
  /-- Step 11: the CHAIN_HEAD ball, qualified (R461, R555). -/
  chainHead : Bool
  /-- Step 11: the ball was not stable for 10 ms within 1 s of the step (R555). -/
  headFast : Bool := false
deriving DecidableEq, Repr

/-- A request that a client issues to the memory fabric (R311 to R313): its group by row of Table 10-3 and its member there,
the device address, and for a write its data within one line and its poison mark. -/
structure MemReq where
  group : Nat
  member : Nat
  addr : Nat
  write : Option (Bytes × Bool)
deriving DecidableEq, Repr

/-- A received beacon (R467): the control payload and the two data blocks. -/
structure BeaconMsg where
  ctrl : DWord
  data1 : DWord
  data2 : DWord
deriving DecidableEq, Repr

/-- A PTP Sync (R449, R451). Times are nanosecond counts; `corr` is correctionField in 2^-16 ns. -/
structure SyncMsg where
  master : DWord
  seq : BitVec 16
  twoStep : Bool
  origin : Nat
  corr : Int
  /-- Receive timestamp before the compensation of R450, ns. -/
  rx : Nat
deriving DecidableEq, Repr

/-- A PTP Follow_Up (R449). -/
structure FollowUpMsg where
  master : DWord
  seq : BitVec 16
  origin : Nat
  corr : Int
deriving DecidableEq, Repr

/-- A PTP Announce: the data set the best master clock algorithm compares (R449, R451). -/
structure AnnounceMsg where
  master : DWord
  gm : DWord
  priority1 : BitVec 8
  clockClass : BitVec 8
  accuracy : BitVec 8
  variance : BitVec 16
  priority2 : BitVec 8
  steps : BitVec 16
deriving DecidableEq, Repr

/-- A PTP Delay_Resp or Pdelay_Resp (R449): `t3`, `t4` of the exchange in ns. For a Pdelay_Resp `t4` is
the receive timestamp of the response at this port and `corr` holds the turnaround of the peer. -/
structure DelayRespMsg where
  master : DWord
  seq : BitVec 16
  /-- Transmit timestamp of the client's request, ns, before R450. -/
  t3 : Nat
  /-- Receive timestamp at the responder, ns. -/
  t4 : Nat
  corr : Int
deriving DecidableEq, Repr

/-- One read of a regulator over PMBus (R276 to R278). -/
structure VrmReading where
  status : BitVec 16
  vout : BitVec 16
  /-- The transaction failed PEC or was not acknowledged three times in a row. -/
  busFail : Bool
  /-- VOUT_MODE is not linear mode. -/
  modeFail : Bool
  /-- Level of SMBALERT_N as the regulator is read (R555). -/
  alertHigh : Bool := true
deriving DecidableEq, Repr

/-- The commands. Names are the mnemonics of the table in lower camel case. -/
inductive Instr where
  | coldStart
  | warmReset (hot : Bool)
  | vinLoss
  | vinWarn (mv10 : Nat)
  | vinRecover (mv10 : Nat)
  | startupStepDone (info : StartInfo)
  | functionLevelReset
  | linkDown
  | linkUp (partner : BitVec 3) (speed width : Nat)
  | hostMemRead (addr len : Nat)
  | hostMemWrite (addr : Nat) (data : Bytes) (poison : Bool)
  | apertureAccess (off : Nat) (acc : HostAccess)
  | hdmDecoderCommit (d base size skip ways : Nat)
  | bar0BadAccess (off size : Nat) (isWrite : Bool)
  | registerWrite (off : Nat) (wide : Bool) (v : DWord)
  | tbSecRead (b : Nat)
  | cmdRingDb (r : Nat) (tail : Word)
  | ringEnable (r : Nat)
  | ringDisable (r : Nat)
  | ringReset (r : Nat)
  | cqHeadWrite (r : Nat) (head : BitVec 12)
  | hostVecAck (ack : DWord)
  | genTestForce (src : BitVec 8)
  | timeSelWrite (sel : BitVec 2)
  | timeCntClr
  | timeT0Write (t0 : DWord)
  | tb0StepWrite (ns : Word)
  | tb3SrcWrite (src : BitVec 2)
  | compareArm (n : Nat) (cfg : Word)
  | peakClr
  | ldecClr
  | rmapClr
  | lantClr (l : Nat)
  | scanClr
  | wlnClr
  | mfbClr
  | dmcClr (c : Nat)
  | hleClr
  | bltClr
  | hostErrClr
  | clkClr
  | chnClr
  | nvmClr
  | agingRecalc
  | agingModeWrite (mode : BitVec 2)
  | wlnTrain
  | retrain (g : Nat)
  | railUp
  | railDown
  | mfbFreqGo (target : BitVec 16)
  | pllApply (p : Nat)
  | remeasure
  | logUpdate
  | eventClear (i : Nat) (mask : DWord)
  | firstFatalAck
  | reelWmWrite (v : DWord)
  | descriptorTake
  | nop (r : Nat)
  | reelMap (r : Nat)
  | reelFetch (r : Nat)
  | play (r : Nat)
  | pause (r : Nat)
  | seek (r : Nat)
  | commit (r : Nat)
  | blit (r : Nat)
  | blitComplete
  | hzJob (r : Nat)
  | hzJobStart
  | hzJobEnd (p : Nat)
  | lensSet (r : Nat)
  | nvmRead (r : Nat)
  | nvmReadCopyDone
  | nvmWrite (r : Nat)
  | nvmUnlock (r : Nat)
  | witnessSet (r : Nat)
  | raymapLoad (r : Nat)
  | raymapStageDone
  | uniformityPush (r : Nat)
  | uniUnpackDone
  | goDark (r : Nat)
  | orderlyDarkBlankEnd
  | snuff (r : Nat)
  | structActivate (r : Nat)
  | railLimits (r : Nat)
  | keyLoad (r : Nat)
  | keyRotate (r : Nat)
  | nvmProtect (r : Nat)
  | nvmPassword (r : Nat)
  | snuffRelease (r : Nat)
  | chainPin (r : Nat)
  | chainBroadcast (r : Nat)
  | rankRetire (r : Nat)
  | fwPatch (r : Nat)
  | testEnter (r : Nat)
  | lensForce (r : Nat)
  | tick
  | rowStart (late : BitVec 4)
  | scanRestart
  | boundaryPoint
  | lanternRowDone (l clocks : Nat) (cpar : List Nat)
  | lanternProgressTimeout (l : Nat)
  | lanternCheckFault (l : Nat) (table : Bool)
  | spareJoin (l : Nat)
  | decodeStart
  | recordResident
  | sideUnpackDone
  | decodeDone
  | carryCopyDone
  | fetchUnitLanded (f u : Nat) (data : Bytes)
  | fetchReadError (f u : Nat)
  | fetchComplete (f : Nat)
  | memReadReturn (c : Nat) (issued : List MemReq) (bad : BitVec 18)
  | memWriteAccept (c : Nat) (issued : List MemReq)
  | requestPromote (tag : Nat)
  | arbStarve (tag : Nat)
  | refreshDue (c unit : Nat) (hot : Bool)
  | calibrationDue (c rank : Nat) (dqs : Bool)
  | scrubRead (c rank addr : Nat) (bad : BitVec 18)
  | neighbourRefresh (c : Nat)
  | hammerWindowEnd (c : Nat)
  | pageIdleClose (c rank bank : Nat)
  | ceWindowEnd (c rank : Nat)
  | migrationCopyLine (c : Nat) (bad : BitVec 18)
  | freqChangeDone (upTo : Nat) (fails : List (Nat × Nat))
  | candleHourUpdate
  | tableAck (g : Nat) (payload : DWord)
  | tableAckTimeout (n : Nat)
  | status (g : Nat) (payload : DWord)
  | laneOrder (g : Nat) (payload : DWord)
  | lensTemp (g : Nat) (payload : DWord)
  | returnUnknownBlock (g : Nat)
  | returnLaneLock (g : Nat) (heard : List RxBlock)
  | returnLaneLoss (g : Nat)
  | statusTimeout (g : Nat)
  | trainTimeout (g : Nat)
  | relockLate (n : Nat)
  | adaptFreeze (g : Nat)
  | ctrain (p input : Nat) (heard : List RxBlock)
  | cstat (p : Nat) (payload : DWord)
  | cstatTimer
  | chainLaneFail (p i : Nat)
  | chainLaneReturn (p i : Nat)
  | addrOffer (payload : DWord)
  | addrOfferTimer
  | chainHeadTimeout
  | delayReq (p i : Nat) (seq : BitVec 8) (turn : Word)
  | delayResp (i : Nat) (payload : DWord) (t1 t4 : Nat)
  | beacon (m : BeaconMsg)
  | chainBeaconLoss
  | bcast (ctrl : DWord) (data : Bytes)
  | bcastExecute
  | ptpSync (d : Nat) (m : SyncMsg)
  | announce (d : Nat) (m : AnnounceMsg)
  | ptpDelayResp (d : Nat) (m : DelayRespMsg)
  | ptpIgnoredMessage (d : Nat)
  | arpRequest (target : Word)
  | announceReceiptTimeout (d : Nat)
  | syncTimeout (d : Nat)
  | handoverEnd
  | timeCompare (n : Nat)
  | syncInEdge
  | syncLoss
  | snuffNLow
  | snuffNHigh
  | provEnChange (level : Bool)
  | smbalertNLow (readings : List VrmReading)
  | refLoss (i : Nat)
  | refReturn (i : Nat) (ps : Int)
  | refPpmCheck (ppm : Int)
  | lockWindowEnd (p count : Nat)
  | overshootCheck (p count : Nat)
  | pllLockTimeout (p : Nat)
  | railDelayExpire (i : Nat)
  | railPowerGood (i : Nat) (v : Int)
  | railRampDownDone (i : Nat)
  | railRampTimeout (i : Nat) (v : Int)
  | railFault (i kind : Nat) (measured : Int)
  | vrmPoll (r : Nat) (x : VrmReading)
  | vrmRampTimeout (r : Nat) (status : BitVec 16)
  | lensUpdateStart
  | vlcdSettled
  | lensJournalOpenDone (ok : Bool)
  | lensPhaseEnd
  | lensWaveformEnd
  | lensJournalDoneComplete (ok : Bool)
  | lensOvercurrent (output : Nat)
  | lensNoTemp
  | nvmWriteDone (lens ok : Bool)
  | nvmPatrolRead (kind : Nat)
  | snapshotTimer
  | logSecond
  | thermalSample (readings : List Int)
  | fwWatchdog
  | coreRestartDone
  | followupDone (block index : Nat)
  | ptpFollowUp (d : Nat) (m : FollowUpMsg)
  | ptpPdelayReq (d : Nat) (master : DWord) (seq : BitVec 16) (rx tx : Nat)
  | ptpDelayReqTimer (d : Nat)
  | resetNShortPulse
  | resetNStuck
  | smbalertNStuck
  | rowPeriodInterval
deriving DecidableEq, Repr

end Sys2Proof
end

