-- ==== Sys2Proof/Decode.lean ====
section
/-! DEFINITION. Commands spelled by words. spec/opcode_table.json gives no row any bits: the block's commands
are register accesses, bus transfers, events on pins and things that happen inside it, and none is an
encoded word. -/

namespace Sys2Proof

/-- The command that a word spells by the bits of the opcode table: none, since no row gives bits. -/
def decodeTableWord (_nbits _w : Nat) : Option Instr := none

end Sys2Proof
end

