-- ==== Sys2Proof/Machine/Table.lean ====
section
/-! DEFINITION. Sparse tables in canonical form: the one representation of device memory, of the
register file and of every indexed family. Indexes strictly rise and no entry equals the default
that an unlisted index reads as, so equal contents are equal data. -/

namespace Sys2Proof.Machine

/-- The entry at index `i`; `d` where none is listed. -/
def tblGet {α : Type} (d : α) : Tbl α → Nat → α
  | [], _ => d
  | (j, w) :: t, i => if i = j then w else tblGet d t i

/-- Lists `v` at index `i`, in the place of its index. -/
def tblPut {α : Type} : Tbl α → Nat → α → Tbl α
  | [], i, v => [(i, v)]
  | (j, w) :: t, i, v =>
    if i < j then (i, v) :: (j, w) :: t else if i = j then (i, v) :: t else (j, w) :: tblPut t i v

/-- Drops the entry of index `i`. -/
def tblErase {α : Type} (t : Tbl α) (i : Nat) : Tbl α := t.filter fun p => decide (p.1 ≠ i)

/-- Writes `v` at index `i`, keeping the canonical form: writing the default removes the entry. -/
def tblSet {α : Type} [DecidableEq α] (d : α) (t : Tbl α) (i : Nat) (v : α) : Tbl α :=
  if v = d then tblErase t i else tblPut t i v

/-- Indexes strictly rise. -/
def tblRising {α : Type} : Tbl α → Bool
  | [] => true
  | [_] => true
  | (i, _) :: (j, x) :: t => decide (i < j) && tblRising ((j, x) :: t)

/-- The canonical form: indexes strictly rise and no entry equals the default. -/
def tblWf {α : Type} [DecidableEq α] (d : α) (t : Tbl α) : Bool :=
  tblRising t && t.all fun p => decide (p.2 ≠ d)

/-- Writes a run of entries at rising indexes from `i`. -/
def tblSetRun {α : Type} [DecidableEq α] (d : α) (t : Tbl α) (i : Nat) : List α → Tbl α
  | [] => t
  | v :: vs => tblSetRun d (tblSet d t i v) (i + 1) vs

/-- Reads `n` entries from index `i` on. -/
def tblGetRun {α : Type} (d : α) (t : Tbl α) (i : Nat) : Nat → List α
  | 0 => []
  | n + 1 => tblGet d t i :: tblGetRun d t (i + 1) n

/-- Drops every entry with index in `[lo, hi)`. -/
def tblClear {α : Type} (t : Tbl α) (lo hi : Nat) : Tbl α :=
  t.filter fun p => decide (p.1 < lo ∨ hi ≤ p.1)

/-- Inserts `i` into a rising list of numbers without repeats. -/
def setInsert (i : Nat) : List Nat → List Nat
  | [] => [i]
  | j :: t => if i < j then i :: j :: t else if i = j then j :: t else j :: setInsert i t

/-- Removes `i`. -/
def setErase (i : Nat) (t : List Nat) : List Nat := t.filter fun j => decide (j ≠ i)

/-- A rising list of numbers without repeats. -/
def setWf : List Nat → Bool
  | [] => true
  | [_] => true
  | i :: j :: t => decide (i < j) && setWf (j :: t)

end Sys2Proof.Machine
end

