-- ==== Sys2Proof/Machine/Bits.lean ====
section
/-! DEFINITION. Bit fields, byte order (R4, R5), signed values, saturating counts, rounding
divisions and the checksums the spec names: CRC-32C, the CRC-32 of RFC 1952 and the CRC-24 of
the wick rows. -/

namespace Sys2Proof.Machine

/-- Bits `[lo + w - 1 : lo]` of `v` (R4). -/
def bitsOf (v lo w : Nat) : Nat := v / 2 ^ lo % 2 ^ w

/-- `v` with bits `[lo + w - 1 : lo]` replaced by `x` (cut to `w` bits). -/
def putBits (v lo w x : Nat) : Nat := v - bitsOf v lo w * 2 ^ lo + x % 2 ^ w * 2 ^ lo

/-- Bit `i` of `v`. -/
def bitOf (v i : Nat) : Bool := decide (v / 2 ^ i % 2 = 1)

/-- 1 for true. -/
def b2n (b : Bool) : Nat := if b then 1 else 0

/-- Two's complement reading of the low `w` bits. -/
def toSigned (w v : Nat) : Int :=
  if v % 2 ^ w < 2 ^ (w - 1) then (v % 2 ^ w : Nat) else (v % 2 ^ w : Nat) - (2 ^ w : Nat)

/-- Two's complement encoding in `w` bits. -/
def ofSigned (w : Nat) (v : Int) : Nat := (v % (2 ^ w : Nat)).toNat

/-- `v` limited to `[lo, hi]`. -/
def clampI (lo hi v : Int) : Int := if v < lo then lo else if hi < v then hi else v

/-- Adds without passing the largest value of `w` bits. -/
def satAdd (w v k : Nat) : Nat := min (v + k) (2 ^ w - 1)

/-- Quotient rounded up. -/
def ceilDiv (a b : Nat) : Nat := (a + b - 1) / b

/-- Quotient rounded to nearest, halves up. -/
def roundDiv (a b : Nat) : Nat := (2 * a + b) / (2 * b)

/-- The larger of the present value and a new sample. -/
def peak (v x : Nat) : Nat := max v x

/-- Little-endian value of a run of bytes (R5). -/
def leNat : Bytes → Nat
  | [] => 0
  | b :: t => b.toNat + 256 * leNat t

/-- `n` little-endian bytes of `v` (R5). -/
def natLe : Nat → Nat → Bytes
  | _, 0 => []
  | v, n + 1 => BitVec.ofNat 8 v :: natLe (v / 256) n

/-- `n` bytes of `bs` from offset `o`, zero where `bs` ends. -/
def sliceB (bs : Bytes) (o n : Nat) : Bytes :=
  let t := (bs.drop o).take n
  t ++ List.replicate (n - t.length) 0#8

/-- Little-endian field of `n` bytes at offset `o`. -/
def leAt (bs : Bytes) (o n : Nat) : Nat := leNat (sliceB bs o n)

/-- `bs` with the bytes from offset `o` on replaced by `x`, cut to the length of `bs`. -/
def spliceB (bs : Bytes) (o : Nat) (x : Bytes) : Bytes :=
  (bs.take o ++ x ++ bs.drop (o + x.length)).take bs.length

/-- Every byte is zero. -/
def allZero (bs : Bytes) : Bool := bs.all fun b => b = 0#8

/-- Number of bits set in the low `n` bits of `v`. -/
def popcount (v : Nat) : Nat → Nat
  | 0 => 0
  | n + 1 => b2n (bitOf v n) + popcount v n

/-- Lowest bit set in the low `n` bits of `v`. -/
def lowestBit (v n : Nat) : Option Nat := (List.range n).find? fun i => bitOf v i

/-- One step of a reflected CRC: shift right, polynomial `p` where a 1 leaves. -/
def crcShiftR (p v : Nat) : Nat → Nat
  | 0 => v
  | k + 1 => crcShiftR p (if v % 2 = 1 then Nat.xor (v / 2) p else v / 2) k

/-- A reflected 32-bit CRC over bytes, from register `v`. -/
def crcRefl (p : Nat) : Nat → Bytes → Nat
  | v, [] => v
  | v, b :: t => crcRefl p (crcShiftR p (Nat.xor v b.toNat) 8) t

/-- CRC-32C, polynomial 0x1EDC_6F41 (Table 0-2): reflected, from all ones, final complement. -/
def crc32c (bs : Bytes) : Nat := Nat.xor (crcRefl 0x82F63B78 0xFFFFFFFF bs) 0xFFFFFFFF

/-- Continues a CRC-32C whose value so far is `v`. -/
def crc32cNext (v : Nat) (bs : Bytes) : Nat :=
  Nat.xor (crcRefl 0x82F63B78 (Nat.xor v 0xFFFFFFFF) bs) 0xFFFFFFFF

/-- The CRC-32 of gzip members (RFC 1952). -/
def crc32 (bs : Bytes) : Nat := Nat.xor (crcRefl 0xEDB88320 0xFFFFFFFF bs) 0xFFFFFFFF

/-- Signed difference in a width of `w` bits: how every wrapping counter is compared. -/
def sdiff (w a b : Nat) : Int := toSigned w (a % 2 ^ w + 2 ^ w - b % 2 ^ w)

end Sys2Proof.Machine
end

