-- ==== Sys2Proof/Machine/Crypto.lean ====
section
/-! DEFINITION. The standards of Table 0-2 that authentication rests on, written from those
standards: SHA-256 (FIPS 180-4), HMAC (FIPS 198-1), AES-256 (FIPS 197) and the key unwrap of
RFC 3394. Words are natural numbers below 2^32. -/

namespace Sys2Proof.Machine

/-! ### SHA-256 -/

def w32 (v : Nat) : Nat := v % 2 ^ 32

/-- Rotation of a 32-bit word to the right. -/
def rotr32 (v k : Nat) : Nat := Nat.lor (v / 2 ^ k) (w32 (v * 2 ^ (32 - k)))

def xor3 (a b c : Nat) : Nat := Nat.xor a (Nat.xor b c)

/-- Big-endian value of bytes. -/
def beNat (bs : Bytes) : Nat := bs.foldl (fun v b => v * 256 + b.toNat) 0

/-- `n` big-endian bytes. -/
def natBe (v n : Nat) : Bytes := (natLe v n).reverse

/-- Largest number below `r + 2 ^ k` whose `e`-th power is at most `n`, bit by bit from the top. -/
def rootFrom (e n : Nat) : Nat → Nat → Nat
  | 0, r => r
  | k + 1, r => rootFrom e n k (if (r + 2 ^ k) ^ e ≤ n then r + 2 ^ k else r)

/-- First 32 bits of the fractional part of the `e`-th root of a number below 2^12. -/
def rootFrac (e p : Nat) : Nat := w32 (rootFrom e (p * 2 ^ (32 * e)) 38 0)

/-- The first 64 primes, 2 to 311. -/
def shaPrimes : List Nat := (List.range 312).filter fun p => decide (2 ≤ p) && (List.range p).all fun d => decide (d < 2 ∨ p % d ≠ 0)

/-- Round constants, from the primes' cube roots. -/
def shaK : List Nat := shaPrimes.map (rootFrac 3)

/-- Initial hash value, from the first eight primes' square roots. -/
def shaH : List Nat := (shaPrimes.take 8).map (rootFrac 2)

/-- Extends the message schedule by `k` words; the list is newest first. -/
def shaSched : Nat → List Nat → List Nat
  | 0, w => w
  | k + 1, w =>
    let a := w.getD 14 0
    let b := w.getD 1 0
    let s0 := xor3 (rotr32 a 7) (rotr32 a 18) (a / 8)
    let s1 := xor3 (rotr32 b 17) (rotr32 b 19) (b / 1024)
    shaSched k (w32 (w.getD 15 0 + s0 + w.getD 6 0 + s1) :: w)

/-- One round over the working variables a to h. -/
def shaRound (v : List Nat) (kw : Nat) : List Nat :=
  match v with
  | [a, b, c, d, e, f, g, h] =>
    let s1 := xor3 (rotr32 e 6) (rotr32 e 11) (rotr32 e 25)
    let ch := Nat.xor (Nat.land e f) (Nat.land (2 ^ 32 - 1 - e) g)
    let t1 := h + s1 + ch + kw
    let s0 := xor3 (rotr32 a 2) (rotr32 a 13) (rotr32 a 22)
    let mj := xor3 (Nat.land a b) (Nat.land a c) (Nat.land b c)
    [w32 (t1 + s0 + mj), a, b, c, w32 (d + t1), e, f, g]
  | _ => v

/-- Splits bytes into `n` chunks of `k`. -/
def chunksOf (k : Nat) : Nat → Bytes → List Bytes
  | 0, _ => []
  | n + 1, bs => bs.take k :: chunksOf k n (bs.drop k)

def shaBlock (h : List Nat) (blk : Bytes) : List Nat :=
  let w := (shaSched 48 ((chunksOf 4 16 blk).map beNat).reverse).reverse
  let v := (shaK.zipWith (fun k x => k + x) w).foldl shaRound h
  h.zipWith (fun a b => w32 (a + b)) v

/-- SHA-256 of a message. -/
def sha256 (m : Bytes) : Bytes :=
  let z := (119 - m.length % 64) % 64
  let p := m ++ [0x80#8] ++ List.replicate z 0#8 ++ natBe (8 * m.length) 8
  ((chunksOf 64 (p.length / 64) p).foldl shaBlock shaH).flatMap fun x => natBe x 4

/-- HMAC-SHA-256. -/
def hmac (key m : Bytes) : Bytes :=
  let k := if 64 < key.length then sha256 key else key
  let k := k ++ List.replicate (64 - k.length) 0#8
  let pad := fun (c : BitVec 8) => k.map fun b => b ^^^ c
  sha256 (pad 0x5C#8 ++ sha256 (pad 0x36#8 ++ m))

/-! ### AES-256 decryption -/

/-- Multiplication by x in GF(2^8) with the AES polynomial. -/
def aesX (v : Nat) : Nat := if 128 ≤ v then Nat.xor (v * 2 - 256) 0x1B else v * 2

/-- Product in GF(2^8). -/
def aesMul : Nat → Nat → Nat → Nat
  | 0, _, _ => 0
  | k + 1, a, b => Nat.xor (if b % 2 = 1 then a else 0) (aesMul k (aesX a) (b / 2))

def gmul (a b : Nat) : Nat := aesMul 8 a b

/-- Inverse in GF(2^8), 0 for 0: the 254th power. -/
def ginv (a : Nat) : Nat :=
  let a2 := gmul a a
  let a4 := gmul a2 a2
  let a8 := gmul a4 a4
  let a16 := gmul a8 a8
  let a32 := gmul a16 a16
  let a64 := gmul a32 a32
  let a128 := gmul a64 a64
  gmul a128 (gmul a64 (gmul a32 (gmul a16 (gmul a8 (gmul a4 a2)))))

def rotl8 (v k : Nat) : Nat := Nat.lor (v * 2 ^ k % 256) (v / 2 ^ (8 - k))

/-- The substitution box and its inverse. -/
def sbox (v : Nat) : Nat :=
  let i := ginv v
  Nat.xor (xor3 i (rotl8 i 1) (rotl8 i 2)) (xor3 (rotl8 i 3) (rotl8 i 4) 0x63)

def invSbox (v : Nat) : Nat :=
  ginv (Nat.xor (xor3 (rotl8 v 1) (rotl8 v 3) (rotl8 v 6)) 0x05)

/-- Extends the key schedule by `k` words of 4 bytes; newest first, `i` the next word's number. -/
def aesSched : Nat → Nat → List (List Nat) → List (List Nat)
  | 0, _, w => w
  | k + 1, i, w =>
    let t := w.getD 0 []
    let t := if i % 8 = 0 then
        match t.map sbox with
        | [a, b, c, d] => [Nat.xor b (2 ^ (i / 8 - 1)), c, d, a]
        | x => x
      else if i % 8 = 4 then t.map sbox else t
    aesSched k (i + 1) ((w.getD 7 []).zipWith Nat.xor t :: w)

/-- The 60 words of the schedule of a 32-byte key, oldest first. -/
def aesKeys (key : Bytes) : List (List Nat) :=
  (aesSched 52 8 ((chunksOf 4 8 key).map fun c => c.map BitVec.toNat).reverse).reverse

/-- Inverse of the row shift on a column-major block of 16. -/
def invShiftRows (b : List Nat) : List Nat :=
  (List.range 16).map fun i => b.getD ((i + 16 - 4 * (i % 4)) % 16) 0

def invMixCol (c : List Nat) : List Nat :=
  (List.range 4).map fun r =>
    (List.range 4).foldl (fun v j => Nat.xor v (gmul (c.getD j 0) ([14, 11, 13, 9].getD ((j + 4 - r) % 4) 0))) 0

def invMixColumns (b : List Nat) : List Nat :=
  (List.range 4).flatMap fun i => invMixCol ((b.drop (4 * i)).take 4)

/-- Round key `r`. -/
def roundKey (ks : List (List Nat)) (r : Nat) : List Nat := ((ks.drop (4 * r)).take 4).flatten

/-- Inverse rounds `r` down to 1, then the last. -/
def aesInvRounds (ks : List (List Nat)) : Nat → List Nat → List Nat
  | 0, b => b
  | r + 1, b =>
    let b := ((invShiftRows b).map invSbox).zipWith Nat.xor (roundKey ks r)
    aesInvRounds ks r (if r = 0 then b else invMixColumns b)

/-- Decrypts one block under a 256-bit key. -/
def aesDecrypt (key blk : Bytes) : Bytes :=
  let ks := aesKeys key
  let b := (blk.map BitVec.toNat).zipWith Nat.xor (roundKey ks 14)
  (aesInvRounds ks 14 b).map fun v => BitVec.ofNat 8 v

/-! ### Key unwrap (RFC 3394) -/

/-- One step of the unwrap with counter `t` on register `i` (from 0). -/
def unwrapStep (key : Bytes) (t i : Nat) (st : Bytes × List Bytes) : Bytes × List Bytes :=
  let a := natBe (Nat.xor (beNat st.1) t) 8
  let b := aesDecrypt key (a ++ st.2.getD i [])
  (b.take 8, st.2.set i (b.drop 8))

/-- Steps with counters `t` down to 1 over 4 registers. -/
def unwrapLoop (key : Bytes) : Nat → Bytes × List Bytes → Bytes × List Bytes
  | 0, st => st
  | t + 1, st => unwrapLoop key t (unwrapStep key (t + 1) (t % 4) st)

/-- Unwraps a 40-byte blob: the 32-byte key, or none where the integrity check fails. -/
def keyUnwrap (key blob : Bytes) : Option Bytes :=
  let r := unwrapLoop key 24 (blob.take 8, chunksOf 8 4 (blob.drop 8))
  if r.1 = List.replicate 8 0xA6#8 then some r.2.flatten else none

end Sys2Proof.Machine
end

