-- ==== Sys2Proof/Machine/Ecc.lean ====
section
/-! DEFINITION. The Reed-Solomon code of a line (R322, Table 10-4): GF(2^8) under x^8 + x^4 + x^3 + x^2 + 1, the syndromes of
an error, and the decode that corrects the symbols of one device. Symbol i stands at power i of the code's polynomial; the first
of its consecutive roots, which the spec does not give, is the argument `first` (log 8). -/

namespace Sys2Proof.Machine

/-- A field element times x. -/
def gfDouble (a : Nat) : Nat := if a < 128 then 2 * a else Nat.xor (2 * a) 0x11D

/-- Product by the lowest `k` bits of `b`. -/
def gfMulBits : Nat → Nat → Nat → Nat
  | 0, _, _ => 0
  | k + 1, a, b => Nat.xor (if b % 2 = 1 then a else 0) (gfMulBits k (gfDouble a) (b / 2))

def gfMul (a b : Nat) : Nat := gfMulBits 8 a b

def gfPow (a : Nat) : Nat → Nat
  | 0 => 1
  | n + 1 => gfMul a (gfPow a n)

/-- Inverse: the 254th power. -/
def gfInv (a : Nat) : Nat := gfPow a 254

/-- A power of x, the field's primitive element. -/
def gfExp (n : Nat) : Nat := gfPow 2 (n % 255)

def gfSum (l : List Nat) : Nat := l.foldl Nat.xor 0

/-- Sum of products, term by term. -/
def gfDot (a b : List Nat) : Nat := gfSum ((a.zip b).map fun x => gfMul x.1 x.2)

/-- A polynomial, lowest coefficient first, times (x + r). -/
def gfTimesRoot (r : Nat) (p : List Nat) : List Nat :=
  ((0 :: p).zip (p.map (gfMul r) ++ [0])).map fun x => Nat.xor x.1 x.2

/-- The monic polynomial with the roots given. -/
def gfPoly (roots : List Nat) : List Nat := roots.foldl (fun p r => gfTimesRoot r p) [1]

/-- Syndromes of an error, one for each of the `n` check symbols. -/
def rsSyndromes (first n : Nat) (e : List Nat) : List Nat :=
  (List.range n).map fun j =>
    gfSum ((List.range e.length).map fun i => gfMul (e.getD i 0) (gfExp (i * (first + j))))

/-- Locators of the `k` symbols of device `d`. -/
def rsLocators (k d : Nat) : List Nat := (List.range k).map fun m => gfExp (k * d + m)

/-- The syndromes are those of an error confined to device `d` of `k` symbols, where the code has 2 × k check symbols: they
meet the recurrence whose roots are the device's locators. -/
def rsConfined (k d : Nat) (syn : List Nat) : Bool :=
  (List.range k).all fun t => decide (gfDot (gfPoly (rsLocators k d)) (syn.drop t) = 0)

/-- The error of device `d` with these syndromes, symbol by symbol. -/
def rsValues (first k d : Nat) (syn : List Nat) : List Nat :=
  let xs := rsLocators k d
  xs.map fun x =>
    let p := gfPoly (xs.filter fun y => decide (y ≠ x))
    let at_ := gfDot p ((List.range p.length).map (gfPow x))
    gfMul (gfMul (gfDot p syn) (gfInv at_)) (gfInv (gfPow x (first % 255)))

/-- Decode of an error over `n` devices of `k` symbols (R322): `none` where the code detects it, else the device that it takes to
be wrong, none for a codeword, and the error that it then removes, over all symbols. -/
def rsDecode (first k n : Nat) (e : List Nat) : Option (Option Nat × List Nat) :=
  let syn := rsSyndromes first (2 * k) e
  if syn.all fun v => decide (v = 0) then some (none, List.replicate (n * k) 0)
  else ((List.range n).find? fun d => rsConfined k d syn).map fun d =>
    (some d, List.replicate (k * d) 0 ++ rsValues first k d syn ++ List.replicate (k * (n - d - 1)) 0)

end Sys2Proof.Machine
end

