-- ==== Sys2Proof/Config.lean ====
section
/-! DEFINITION. The free values: constants without a body that stand for what the spec leaves
open. Each is applied to the model's counter of draws (`State.free`) or to the operands it may
depend on; nothing in Lean can see its value. -/

namespace Sys2Proof.Config

/-- A free byte (log 6). -/
opaque freeByte : Nat → BitVec 8

/-- A free natural number (log 6). -/
opaque freeNat : Nat → Nat

/-- A free choice (log 6). -/
opaque freeBool : Nat → Bool

/-- Groups of a torn page that had been programmed when power was lost (R507, log 7). -/
opaque tornGroups : Nat → Nat

/-- What the group in progress of a torn page reads: 0 old, 1 new, 2 uncorrectable (R507, log 7). -/
opaque tornRead : Nat → Nat

/-- Whether an error of three or more devices whose symbols no rule gives is detected (R322, log 8). The arguments are the
address of the line and the mask of its wrong devices. -/
opaque eccDetects : Nat → Nat → Bool

/-- One device that an undetected error of three or more devices is taken to be confined to (R322, log 8), modulo the devices of a
line; `none` where the decode finds no error. -/
opaque eccMisread : Nat → Nat → Option Nat

/-- First of the consecutive roots of the line code (R322, log 8). -/
opaque eccFirst : Nat

/-- The ROM revision a patch image names; the spec does not lay out patch images (log 10). -/
opaque patchRomRev : Bytes → Nat

/-- Texel cache set of a line (R190, log 9). -/
opaque texelSet : Nat → Nat

/-- Bits of a dynamic block for a block's literals (0, byte) and matches (length, distance), less BFINAL.
R371 does not lay down how its code lengths are chosen (log 13). Bits that are no such block are not used. -/
opaque dynamicBlock : List (Nat × Nat) → List Bool

/-- Decoded value of a sample of a codestream that R91 to R95 accept, before rounding and clamping, in the
order of R128 (log 14). -/
opaque htSample : Bytes → Nat → Int

/-- Offset of code-block data that cannot be consumed in a codestream that R91 to R95 accept (R96, log 14). -/
opaque htFail : Bytes → Option Nat

/-- What device memory holds after a DPLL lock loss (Table 15-3, log 15): bytes by address, lines poisoned. -/
opaque lostMem : Nat → List (Nat × BitVec 8)
opaque lostPoison : Nat → List Nat

/-- Words of the CXL.cachemem range, by HOST offset: what they read at reset, and what one holds after a write,
from what it held. CXL 2.0 lays both down (R407, log 18). -/
opaque cxlReset : Nat → Nat
opaque cxlWritten : Nat → Nat → Nat → Nat

/-- Place of the HDM decoder capability in the CXL.cachemem range, in words (R407, log 18). -/
opaque hdmCapAt : Nat

/-- What a word of the AER capability reads before any write, by offset (R403, log 20). -/
opaque aerReset : Nat → Nat

end Sys2Proof.Config
end

