-- ==== Sys2Proof/Machine/Regs.lean ====
section
/-! DEFINITION. The registers of BAR0 under the names the spec gives them: the offset of each
register, the place of each field, and the register map with every field's access code and reset
value, chapter by chapter from the spec's register tables ("SI" and "Stored" stand as 0 here, the
value before an image is activated, R7), with BLK_ID of every window beside it (R15). -/

namespace Sys2Proof.Machine

/-- Access codes of Table 0-5. RW1CS writes as RW1C; it is marked apart for the resets. -/
inductive Acc where
  | ro | rw | wo | rw1c | rw1cs | rwl | sc
deriving DecidableEq, Repr

/-- A field of a register: the register's offset and the field's bits [hi:lo] (R4). -/
structure Fld where
  off : Nat
  hi : Nat
  lo : Nat
deriving DecidableEq, Repr

/-- A row of a register's field table. -/
structure FieldRow where
  hi : Nat
  lo : Nat
  acc : Acc
  reset : Nat
deriving DecidableEq, Repr

/-- A register or family of registers: `n1 × n2` instances at strides `s1` and `s2`. -/
structure RegDef where
  base : Nat
  n1 : Nat
  s1 : Nat
  n2 : Nat
  s2 : Nat
  wide : Bool
  fields : List FieldRow
deriving DecidableEq, Repr

namespace Reg

/-- HOST_BLK_CAP, 32 bits. -/
abbrev HOST_BLK_CAP : Nat := 0x4
abbrev HOST_BLK_CAP_MODES : Fld := ⟨HOST_BLK_CAP, 2, 0⟩
abbrev HOST_BLK_CAP_VECTORS : Fld := ⟨HOST_BLK_CAP, 14, 8⟩
abbrev HOST_BLK_CAP_DECODERS : Fld := ⟨HOST_BLK_CAP, 17, 16⟩

/-- GEN_IDENT, 64 bits. -/
abbrev GEN_IDENT : Nat := 0x10
abbrev GEN_IDENT_VENDOR : Fld := ⟨GEN_IDENT, 15, 0⟩
abbrev GEN_IDENT_DEVICE : Fld := ⟨GEN_IDENT, 31, 16⟩
abbrev GEN_IDENT_GRADE : Fld := ⟨GEN_IDENT, 33, 32⟩
abbrev GEN_IDENT_STEPPING : Fld := ⟨GEN_IDENT, 47, 40⟩

/-- GEN_STATE, 32 bits. -/
abbrev GEN_STATE : Nat := 0x18
abbrev GEN_STATE_STATE : Fld := ⟨GEN_STATE, 2, 0⟩
abbrev GEN_STATE_TEST : Fld := ⟨GEN_STATE, 4, 4⟩
abbrev GEN_STATE_PROV_EN : Fld := ⟨GEN_STATE, 5, 5⟩

/-- GEN_TEST, 32 bits. -/
abbrev GEN_TEST : Nat := 0x1C
abbrev GEN_TEST_SRC : Fld := ⟨GEN_TEST, 7, 0⟩
abbrev GEN_TEST_FORCE : Fld := ⟨GEN_TEST, 8, 8⟩

/-- HOST_LINK, 32 bits. -/
abbrev HOST_LINK : Nat := 0x20
abbrev HOST_LINK_MODE : Fld := ⟨HOST_LINK, 1, 0⟩
abbrev HOST_LINK_SPEED : Fld := ⟨HOST_LINK, 6, 4⟩
abbrev HOST_LINK_WIDTH : Fld := ⟨HOST_LINK, 11, 8⟩
abbrev HOST_LINK_DOWNS : Fld := ⟨HOST_LINK, 31, 16⟩

/-- HOST_APER, 64 bits. -/
abbrev HOST_APER : Nat := 0x28
abbrev HOST_APER_BASE : Fld := ⟨HOST_APER, 63, 0⟩

/-- HOST_ERR_CNT, 64 bits. -/
abbrev HOST_ERR_CNT : Nat := 0x30
abbrev HOST_ERR_CNT_ACCESS : Fld := ⟨HOST_ERR_CNT, 15, 0⟩
abbrev HOST_ERR_CNT_POISON : Fld := ⟨HOST_ERR_CNT, 31, 16⟩
abbrev HOST_ERR_CNT_APER : Fld := ⟨HOST_ERR_CNT, 47, 32⟩
abbrev HOST_ERR_CNT_CLR : Fld := ⟨HOST_ERR_CNT, 48, 48⟩

/-- HOST_VEC_ACK, 64 bits. -/
abbrev HOST_VEC_ACK : Nat := 0x40
abbrev HOST_VEC_ACK_ACK : Fld := ⟨HOST_VEC_ACK, 63, 0⟩

/-- HOST_VEC_SENT, 64 bits. -/
abbrev HOST_VEC_SENT : Nat := 0x48
abbrev HOST_VEC_SENT_SENT : Fld := ⟨HOST_VEC_SENT, 63, 0⟩

/-- HOST_VEC_LATE, 64 bits. -/
abbrev HOST_VEC_LATE : Nat := 0x50
abbrev HOST_VEC_LATE_LATE : Fld := ⟨HOST_VEC_LATE, 63, 0⟩

/-- HOST_ROUTE, 32 bits. -/
abbrev HOST_ROUTE (s : Nat) : Nat := 0x4000 + 0x4 * s
abbrev HOST_ROUTE_VEC (s : Nat) : Fld := ⟨(HOST_ROUTE s), 5, 0⟩
abbrev HOST_ROUTE_EN (s : Nat) : Fld := ⟨(HOST_ROUTE s), 8, 8⟩

/-- CMD_BLK_CAP, 32 bits. -/
abbrev CMD_BLK_CAP : Nat := 0x10004
abbrev CMD_BLK_CAP_RINGS : Fld := ⟨CMD_BLK_CAP, 3, 0⟩
abbrev CMD_BLK_CAP_DEPTH : Fld := ⟨CMD_BLK_CAP, 7, 4⟩
abbrev CMD_BLK_CAP_SLOTS : Fld := ⟨CMD_BLK_CAP, 11, 8⟩

/-- CMD_RING_BASE, 64 bits. -/
abbrev CMD_RING_BASE (r : Nat) : Nat := 0x10100 + 0x40 * r
abbrev CMD_RING_BASE_BASE (r : Nat) : Fld := ⟨(CMD_RING_BASE r), 63, 0⟩

/-- CMD_RING_CFG, 32 bits. -/
abbrev CMD_RING_CFG (r : Nat) : Nat := 0x10108 + 0x40 * r
abbrev CMD_RING_CFG_SIZE (r : Nat) : Fld := ⟨(CMD_RING_CFG r), 3, 0⟩
abbrev CMD_RING_CFG_CQ_SIZE (r : Nat) : Fld := ⟨(CMD_RING_CFG r), 11, 8⟩
abbrev CMD_RING_CFG_VEC (r : Nat) : Fld := ⟨(CMD_RING_CFG r), 21, 16⟩

/-- CMD_RING_DB, 32 bits. -/
abbrev CMD_RING_DB (r : Nat) : Nat := 0x1010C + 0x40 * r
abbrev CMD_RING_DB_TAIL (r : Nat) : Fld := ⟨(CMD_RING_DB r), 31, 0⟩

/-- CMD_RING_PTR, 32 bits. -/
abbrev CMD_RING_PTR (r : Nat) : Nat := 0x10110 + 0x40 * r
abbrev CMD_RING_PTR_HEAD (r : Nat) : Fld := ⟨(CMD_RING_PTR r), 11, 0⟩
abbrev CMD_RING_PTR_TAIL (r : Nat) : Fld := ⟨(CMD_RING_PTR r), 27, 16⟩

/-- CMD_RING_CTRL, 32 bits. -/
abbrev CMD_RING_CTRL (r : Nat) : Nat := 0x10114 + 0x40 * r
abbrev CMD_RING_CTRL_EN (r : Nat) : Fld := ⟨(CMD_RING_CTRL r), 0, 0⟩
abbrev CMD_RING_CTRL_RESET (r : Nat) : Fld := ⟨(CMD_RING_CTRL r), 1, 1⟩

/-- CMD_CQ_BASE, 64 bits. -/
abbrev CMD_CQ_BASE (r : Nat) : Nat := 0x10118 + 0x40 * r
abbrev CMD_CQ_BASE_BASE (r : Nat) : Fld := ⟨(CMD_CQ_BASE r), 63, 0⟩

/-- CMD_CQ_PTR, 32 bits. -/
abbrev CMD_CQ_PTR (r : Nat) : Nat := 0x10120 + 0x40 * r
abbrev CMD_CQ_PTR_HEAD (r : Nat) : Fld := ⟨(CMD_CQ_PTR r), 11, 0⟩
abbrev CMD_CQ_PTR_TAIL (r : Nat) : Fld := ⟨(CMD_CQ_PTR r), 27, 16⟩
abbrev CMD_CQ_PTR_PHASE (r : Nat) : Fld := ⟨(CMD_CQ_PTR r), 28, 28⟩

/-- CMD_RING_STAT, 32 bits. -/
abbrev CMD_RING_STAT (r : Nat) : Nat := 0x10124 + 0x40 * r
abbrev CMD_RING_STAT_STATE (r : Nat) : Fld := ⟨(CMD_RING_STAT r), 1, 0⟩
abbrev CMD_RING_STAT_ERR (r : Nat) : Fld := ⟨(CMD_RING_STAT r), 7, 4⟩
abbrev CMD_RING_STAT_INFLIGHT (r : Nat) : Fld := ⟨(CMD_RING_STAT r), 20, 8⟩
abbrev CMD_RING_STAT_LOST (r : Nat) : Fld := ⟨(CMD_RING_STAT r), 31, 24⟩

/-- CMD_KEY_STAT, 32 bits. -/
abbrev CMD_KEY_STAT (k : Nat) : Nat := 0x11000 + 0x20 * k
abbrev CMD_KEY_STAT_SET (k : Nat) : Fld := ⟨(CMD_KEY_STAT k), 0, 0⟩
abbrev CMD_KEY_STAT_BUSY (k : Nat) : Fld := ⟨(CMD_KEY_STAT k), 1, 1⟩
abbrev CMD_KEY_STAT_PERMIT (k : Nat) : Fld := ⟨(CMD_KEY_STAT k), 28, 16⟩

/-- CMD_KEY_CTR, 64 bits. -/
abbrev CMD_KEY_CTR (k : Nat) : Nat := 0x11008 + 0x20 * k
abbrev CMD_KEY_CTR_LAST (k : Nat) : Fld := ⟨(CMD_KEY_CTR k), 63, 0⟩

/-- CMD_KEY_MARK, 64 bits. -/
abbrev CMD_KEY_MARK (k : Nat) : Nat := 0x11010 + 0x20 * k
abbrev CMD_KEY_MARK_MARK (k : Nat) : Fld := ⟨(CMD_KEY_MARK k), 63, 0⟩

/-- CMD_AUTH_STAT, 32 bits. -/
abbrev CMD_AUTH_STAT : Nat := 0x11080
abbrev CMD_AUTH_STAT_COUNT : Fld := ⟨CMD_AUTH_STAT, 15, 0⟩
abbrev CMD_AUTH_STAT_REASON : Fld := ⟨CMD_AUTH_STAT, 19, 16⟩
abbrev CMD_AUTH_STAT_SLOT : Fld := ⟨CMD_AUTH_STAT, 21, 20⟩
abbrev CMD_AUTH_STAT_OPCODE : Fld := ⟨CMD_AUTH_STAT, 31, 24⟩

/-- STR_BLK_CAP, 32 bits. -/
abbrev STR_BLK_CAP : Nat := 0x20004
abbrev STR_BLK_CAP_MAXLEN : Fld := ⟨STR_BLK_CAP, 7, 0⟩
abbrev STR_BLK_CAP_SECTIONS : Fld := ⟨STR_BLK_CAP, 15, 8⟩

/-- STR_STAT, 32 bits. -/
abbrev STR_STAT : Nat := 0x20010
abbrev STR_STAT_SRC : Fld := ⟨STR_STAT, 1, 0⟩
abbrev STR_STAT_SPARE_PENDING : Fld := ⟨STR_STAT, 2, 2⟩
abbrev STR_STAT_STEP : Fld := ⟨STR_STAT, 7, 4⟩
abbrev STR_STAT_FAIL_STEP : Fld := ⟨STR_STAT, 11, 8⟩
abbrev STR_STAT_WHY : Fld := ⟨STR_STAT, 19, 16⟩

/-- STR_GEN, 32 bits. -/
abbrev STR_GEN : Nat := 0x20014
abbrev STR_GEN_GEN : Fld := ⟨STR_GEN, 31, 0⟩

/-- STR_REJECT, 32 bits. -/
abbrev STR_REJECT : Nat := 0x20018
abbrev STR_REJECT_CODE : Fld := ⟨STR_REJECT, 7, 0⟩
abbrev STR_REJECT_SECTION : Fld := ⟨STR_REJECT, 23, 8⟩
abbrev STR_REJECT_SOURCE : Fld := ⟨STR_REJECT, 25, 24⟩
abbrev STR_REJECT_TRIGGER : Fld := ⟨STR_REJECT, 27, 26⟩

/-- STR_REJECT_OFF, 32 bits. -/
abbrev STR_REJECT_OFF : Nat := 0x2001C
abbrev STR_REJECT_OFF_OFFSET : Fld := ⟨STR_REJECT_OFF, 16, 0⟩

/-- STR_ACTREC, 64 bits. -/
abbrev STR_ACTREC : Nat := 0x20020
abbrev STR_ACTREC_SLOT : Fld := ⟨STR_ACTREC, 1, 0⟩
abbrev STR_ACTREC_PAGES : Fld := ⟨STR_ACTREC, 31, 16⟩
abbrev STR_ACTREC_GEN : Fld := ⟨STR_ACTREC, 63, 32⟩

/-- STR_ACTREC_CRC, 32 bits. -/
abbrev STR_ACTREC_CRC : Nat := 0x20028
abbrev STR_ACTREC_CRC_CRC : Fld := ⟨STR_ACTREC_CRC, 31, 0⟩

/-- STR_START_CFG, 32 bits. -/
abbrev STR_START_CFG : Nat := 0x20030
abbrev STR_START_CFG_TIME_WAIT : Fld := ⟨STR_START_CFG, 7, 0⟩

/-- STR_BOOT, 32 bits. -/
abbrev STR_BOOT : Nat := 0x20034
abbrev STR_BOOT_PATCHES : Fld := ⟨STR_BOOT, 7, 0⟩
abbrev STR_BOOT_SKIPPED : Fld := ⟨STR_BOOT, 15, 8⟩
abbrev STR_BOOT_WARM : Fld := ⟨STR_BOOT, 31, 16⟩

/-- STR_START_TIME, 32 bits. -/
abbrev STR_START_TIME : Nat := 0x20038
abbrev STR_START_TIME_MS : Fld := ⟨STR_START_TIME, 31, 0⟩

/-- STR_BUDGET_RESULT, 32 bits. -/
abbrev STR_BUDGET_RESULT : Nat := 0x20200
abbrev STR_BUDGET_RESULT_CODE : Fld := ⟨STR_BUDGET_RESULT, 7, 0⟩
abbrev STR_BUDGET_RESULT_TRIGGER : Fld := ⟨STR_BUDGET_RESULT, 9, 8⟩
abbrev STR_BUDGET_RESULT_GEN : Fld := ⟨STR_BUDGET_RESULT, 31, 16⟩

/-- STR_BUDGET_CTRL, 32 bits. -/
abbrev STR_BUDGET_CTRL : Nat := 0x20204
abbrev STR_BUDGET_CTRL_PEAK_CLR : Fld := ⟨STR_BUDGET_CTRL, 0, 0⟩

/-- STR_BUDGET_SMEAS, 32 bits. -/
abbrev STR_BUDGET_SMEAS : Nat := 0x20208
abbrev STR_BUDGET_SMEAS_S_PEAK : Fld := ⟨STR_BUDGET_SMEAS, 15, 0⟩
abbrev STR_BUDGET_SMEAS_S_MAX : Fld := ⟨STR_BUDGET_SMEAS, 31, 16⟩

/-- STR_BUDGET_LOAD, 32 bits. -/
abbrev STR_BUDGET_LOAD (i : Nat) : Nat := 0x20210 + 0x4 * i
abbrev STR_BUDGET_LOAD_CHECKED (i : Nat) : Fld := ⟨(STR_BUDGET_LOAD i), 15, 0⟩
abbrev STR_BUDGET_LOAD_PEAK (i : Nat) : Fld := ⟨(STR_BUDGET_LOAD i), 31, 16⟩

/-- MFB_BLK_CAP, 32 bits. -/
abbrev MFB_BLK_CAP : Nat := 0x40004
abbrev MFB_BLK_CAP_TAGS : Fld := ⟨MFB_BLK_CAP, 12, 0⟩
abbrev MFB_BLK_CAP_CHANNELS : Fld := ⟨MFB_BLK_CAP, 19, 16⟩
abbrev MFB_BLK_CAP_PARTS : Fld := ⟨MFB_BLK_CAP, 28, 24⟩

/-- MFB_CFG, 32 bits. -/
abbrev MFB_CFG : Nat := 0x40010
abbrev MFB_CFG_AGE_LIMIT : Fld := ⟨MFB_CFG, 15, 0⟩
abbrev MFB_CFG_STARVE_LIMIT : Fld := ⟨MFB_CFG, 31, 16⟩

/-- MFB_STAT, 32 bits. -/
abbrev MFB_STAT : Nat := 0x40014
abbrev MFB_STAT_TYPE : Fld := ⟨MFB_STAT, 1, 0⟩
abbrev MFB_STAT_NCH : Fld := ⟨MFB_STAT, 7, 4⟩
abbrev MFB_STAT_RATE : Fld := ⟨MFB_STAT, 31, 16⟩

/-- MFB_CAPACITY, 64 bits. -/
abbrev MFB_CAPACITY : Nat := 0x40018
abbrev MFB_CAPACITY_BYTES : Fld := ⟨MFB_CAPACITY, 47, 0⟩

/-- MFB_FREQ, 32 bits. -/
abbrev MFB_FREQ : Nat := 0x40020
abbrev MFB_FREQ_TARGET : Fld := ⟨MFB_FREQ, 15, 0⟩
abbrev MFB_FREQ_GO : Fld := ⟨MFB_FREQ, 16, 16⟩
abbrev MFB_FREQ_PENDING : Fld := ⟨MFB_FREQ, 17, 17⟩

/-- MFB_TAGS, 32 bits. -/
abbrev MFB_TAGS (i : Nat) : Nat := 0x40040 + 0x4 * i
abbrev MFB_TAGS_IN_USE (i : Nat) : Fld := ⟨(MFB_TAGS i), 12, 0⟩
abbrev MFB_TAGS_PEAK (i : Nat) : Fld := ⟨(MFB_TAGS i), 28, 16⟩

/-- MFB_STARVE, 32 bits. -/
abbrev MFB_STARVE : Nat := 0x40060
abbrev MFB_STARVE_COUNT : Fld := ⟨MFB_STARVE, 15, 0⟩
abbrev MFB_STARVE_GROUP : Fld := ⟨MFB_STARVE, 19, 16⟩
abbrev MFB_STARVE_CH : Fld := ⟨MFB_STARVE, 23, 20⟩

/-- MFB_PROMOTED, 64 bits. -/
abbrev MFB_PROMOTED : Nat := 0x40068
abbrev MFB_PROMOTED_COUNT : Fld := ⟨MFB_PROMOTED, 63, 0⟩

/-- MFB_REJECT, 64 bits. -/
abbrev MFB_REJECT : Nat := 0x40070
abbrev MFB_REJECT_PART : Fld := ⟨MFB_REJECT, 15, 0⟩
abbrev MFB_REJECT_LEASE : Fld := ⟨MFB_REJECT, 31, 16⟩
abbrev MFB_REJECT_UNMAPPED : Fld := ⟨MFB_REJECT, 47, 32⟩

/-- MFB_CTRL, 32 bits. -/
abbrev MFB_CTRL : Nat := 0x40078
abbrev MFB_CTRL_CLR : Fld := ⟨MFB_CTRL, 0, 0⟩

/-- MFB_PART_BASE, 64 bits. -/
abbrev MFB_PART_BASE (i : Nat) : Nat := 0x40100 + 0x10 * i
abbrev MFB_PART_BASE_BASE (i : Nat) : Fld := ⟨(MFB_PART_BASE i), 63, 0⟩

/-- MFB_PART_INFO, 64 bits. -/
abbrev MFB_PART_INFO (i : Nat) : Nat := 0x40108 + 0x10 * i
abbrev MFB_PART_INFO_SIZE (i : Nat) : Fld := ⟨(MFB_PART_INFO i), 47, 0⟩
abbrev MFB_PART_INFO_FLAGS (i : Nat) : Fld := ⟨(MFB_PART_INFO i), 53, 48⟩

/-- DMC_BLK_CAP, 32 bits. -/
abbrev DMC_BLK_CAP (c : Nat) : Nat := 0x80004 + 0x10000 * c
abbrev DMC_BLK_CAP_TYPES (c : Nat) : Fld := ⟨(DMC_BLK_CAP c), 1, 0⟩
abbrev DMC_BLK_CAP_RANKS (c : Nat) : Fld := ⟨(DMC_BLK_CAP c), 6, 4⟩
abbrev DMC_BLK_CAP_MAXRATE (c : Nat) : Fld := ⟨(DMC_BLK_CAP c), 31, 16⟩

/-- DMC_POP, 32 bits. -/
abbrev DMC_POP (c : Nat) : Nat := 0x80010 + 0x10000 * c
abbrev DMC_POP_DIMMS (c : Nat) : Fld := ⟨(DMC_POP c), 1, 0⟩
abbrev DMC_POP_RANKS (c : Nat) : Fld := ⟨(DMC_POP c), 4, 2⟩
abbrev DMC_POP_THREEDS (c : Nat) : Fld := ⟨(DMC_POP c), 7, 7⟩
abbrev DMC_POP_RANK_GIB (c : Nat) : Fld := ⟨(DMC_POP c), 19, 8⟩

/-- DMC_TRAIN, 32 bits. -/
abbrev DMC_TRAIN (c : Nat) : Nat := 0x80018 + 0x10000 * c
abbrev DMC_TRAIN_STEP (c : Nat) : Fld := ⟨(DMC_TRAIN c), 3, 0⟩
abbrev DMC_TRAIN_FAILSTEP (c : Nat) : Fld := ⟨(DMC_TRAIN c), 7, 4⟩
abbrev DMC_TRAIN_FAILRANK (c : Nat) : Fld := ⟨(DMC_TRAIN c), 11, 8⟩

/-- DMC_RANKMAP, 32 bits. -/
abbrev DMC_RANKMAP (c : Nat) : Nat := 0x80020 + 0x10000 * c
abbrev DMC_RANKMAP_PRANK (c : Nat) (j : Nat) : Fld := ⟨(DMC_RANKMAP c), 4 * j + 1, 4 * j + 0⟩
abbrev DMC_RANKMAP_VALID (c : Nat) (j : Nat) : Fld := ⟨(DMC_RANKMAP c), 4 * j + 3, 4 * j + 3⟩

/-- DMC_RANKSTATE, 32 bits. -/
abbrev DMC_RANKSTATE (c : Nat) : Nat := 0x80024 + 0x10000 * c
abbrev DMC_RANKSTATE_STATE (c : Nat) (j : Nat) : Fld := ⟨(DMC_RANKSTATE c), 4 * j + 2, 4 * j + 0⟩

/-- DMC_MIGRATE, 64 bits. -/
abbrev DMC_MIGRATE (c : Nat) : Nat := 0x80028 + 0x10000 * c
abbrev DMC_MIGRATE_PTR (c : Nat) : Fld := ⟨(DMC_MIGRATE c), 35, 0⟩
abbrev DMC_MIGRATE_SHARE (c : Nat) : Fld := ⟨(DMC_MIGRATE c), 45, 40⟩
abbrev DMC_MIGRATE_SRC (c : Nat) : Fld := ⟨(DMC_MIGRATE c), 49, 48⟩
abbrev DMC_MIGRATE_DST (c : Nat) : Fld := ⟨(DMC_MIGRATE c), 53, 52⟩
abbrev DMC_MIGRATE_ACTIVE (c : Nat) : Fld := ⟨(DMC_MIGRATE c), 56, 56⟩

/-- DMC_ECC_CE, 32 bits. -/
abbrev DMC_ECC_CE (c : Nat) (p : Nat) : Nat := 0x80030 + 0x10000 * c + 0x4 * p
abbrev DMC_ECC_CE_COUNT (c : Nat) (p : Nat) : Fld := ⟨(DMC_ECC_CE c p), 15, 0⟩
abbrev DMC_ECC_CE_WINDOW (c : Nat) (p : Nat) : Fld := ⟨(DMC_ECC_CE c p), 23, 16⟩
abbrev DMC_ECC_CE_DEVICE (c : Nat) (p : Nat) : Fld := ⟨(DMC_ECC_CE c p), 28, 24⟩

/-- DMC_ECC_CFG, 32 bits. -/
abbrev DMC_ECC_CFG (c : Nat) : Nat := 0x80040 + 0x10000 * c
abbrev DMC_ECC_CFG_CE_THRESH (c : Nat) : Fld := ⟨(DMC_ECC_CFG c), 15, 0⟩
abbrev DMC_ECC_CFG_CE_WINDOW (c : Nat) : Fld := ⟨(DMC_ECC_CFG c), 23, 16⟩
abbrev DMC_ECC_CFG_AUTO_RETIRE (c : Nat) : Fld := ⟨(DMC_ECC_CFG c), 24, 24⟩

/-- DMC_SCRUB, 32 bits. -/
abbrev DMC_SCRUB (c : Nat) : Nat := 0x80048 + 0x10000 * c
abbrev DMC_SCRUB_PERIOD (c : Nat) : Fld := ⟨(DMC_SCRUB c), 7, 0⟩
abbrev DMC_SCRUB_PROGRESS (c : Nat) : Fld := ⟨(DMC_SCRUB c), 31, 16⟩

/-- DMC_ECC_LAST, 64 bits. -/
abbrev DMC_ECC_LAST (c : Nat) : Nat := 0x80050 + 0x10000 * c
abbrev DMC_ECC_LAST_ADDR (c : Nat) : Fld := ⟨(DMC_ECC_LAST c), 47, 0⟩
abbrev DMC_ECC_LAST_KIND (c : Nat) : Fld := ⟨(DMC_ECC_LAST c), 49, 48⟩
abbrev DMC_ECC_LAST_PRANK (c : Nat) : Fld := ⟨(DMC_ECC_LAST c), 53, 52⟩
abbrev DMC_ECC_LAST_DEVICE (c : Nat) : Fld := ⟨(DMC_ECC_LAST c), 60, 56⟩

/-- DMC_UE_CNT, 32 bits. -/
abbrev DMC_UE_CNT (c : Nat) : Nat := 0x80058 + 0x10000 * c
abbrev DMC_UE_CNT_UE (c : Nat) : Fld := ⟨(DMC_UE_CNT c), 15, 0⟩
abbrev DMC_UE_CNT_POISON_READ (c : Nat) : Fld := ⟨(DMC_UE_CNT c), 31, 16⟩

/-- DMC_PAGE, 32 bits. -/
abbrev DMC_PAGE (c : Nat) : Nat := 0x80060 + 0x10000 * c
abbrev DMC_PAGE_IDLE (c : Nat) : Fld := ⟨(DMC_PAGE c), 7, 0⟩

/-- DMC_REFRESH, 32 bits. -/
abbrev DMC_REFRESH (c : Nat) : Nat := 0x80068 + 0x10000 * c
abbrev DMC_REFRESH_BEHIND (c : Nat) : Fld := ⟨(DMC_REFRESH c), 3, 0⟩
abbrev DMC_REFRESH_HOT (c : Nat) : Fld := ⟨(DMC_REFRESH c), 4, 4⟩
abbrev DMC_REFRESH_FORCED (c : Nat) : Fld := ⟨(DMC_REFRESH c), 31, 16⟩

/-- DMC_HAMMER, 32 bits. -/
abbrev DMC_HAMMER (c : Nat) : Nat := 0x80070 + 0x10000 * c
abbrev DMC_HAMMER_P_EXP (c : Nat) : Fld := ⟨(DMC_HAMMER c), 3, 0⟩
abbrev DMC_HAMMER_TABLE (c : Nat) : Fld := ⟨(DMC_HAMMER c), 4, 4⟩
abbrev DMC_HAMMER_THRESH (c : Nat) : Fld := ⟨(DMC_HAMMER c), 31, 16⟩

/-- DMC_HAMMER_STAT, 64 bits. -/
abbrev DMC_HAMMER_STAT (c : Nat) : Nat := 0x80078 + 0x10000 * c
abbrev DMC_HAMMER_STAT_SAMPLED (c : Nat) : Fld := ⟨(DMC_HAMMER_STAT c), 31, 0⟩
abbrev DMC_HAMMER_STAT_TABLE_HITS (c : Nat) : Fld := ⟨(DMC_HAMMER_STAT c), 47, 32⟩

/-- DMC_INJECT, 64 bits. -/
abbrev DMC_INJECT (c : Nat) : Nat := 0x80080 + 0x10000 * c
abbrev DMC_INJECT_ADDR (c : Nat) : Fld := ⟨(DMC_INJECT c), 41, 0⟩
abbrev DMC_INJECT_DEVICES (c : Nat) : Fld := ⟨(DMC_INJECT c), 59, 42⟩
abbrev DMC_INJECT_ARM (c : Nat) : Fld := ⟨(DMC_INJECT c), 63, 63⟩

/-- DMC_CTRL, 32 bits. -/
abbrev DMC_CTRL (c : Nat) : Nat := 0x80088 + 0x10000 * c
abbrev DMC_CTRL_CLR (c : Nat) : Fld := ⟨(DMC_CTRL c), 0, 0⟩

/-- REEL_BLK_CAP, 32 bits. -/
abbrev REEL_BLK_CAP : Nat := 0x100004
abbrev REEL_BLK_CAP_SPANS : Fld := ⟨REEL_BLK_CAP, 15, 0⟩
abbrev REEL_BLK_CAP_FETCHES : Fld := ⟨REEL_BLK_CAP, 19, 16⟩

/-- REEL_BASE, 64 bits. -/
abbrev REEL_BASE : Nat := 0x100010
abbrev REEL_BASE_BASE : Fld := ⟨REEL_BASE, 63, 0⟩

/-- REEL_SIZE, 64 bits. -/
abbrev REEL_SIZE : Nat := 0x100018
abbrev REEL_SIZE_SIZE : Fld := ⟨REEL_SIZE, 63, 0⟩

/-- REEL_STATE, 32 bits. -/
abbrev REEL_STATE : Nat := 0x100020
abbrev REEL_STATE_STATE : Fld := ⟨REEL_STATE, 1, 0⟩
abbrev REEL_STATE_LOW_ARMED : Fld := ⟨REEL_STATE, 2, 2⟩

/-- REEL_CURSOR, 64 bits. -/
abbrev REEL_CURSOR : Nat := 0x100028
abbrev REEL_CURSOR_OFFSET : Fld := ⟨REEL_CURSOR, 31, 0⟩
abbrev REEL_CURSOR_SPAN : Fld := ⟨REEL_CURSOR, 47, 32⟩

/-- REEL_TOFF, 64 bits. -/
abbrev REEL_TOFF : Nat := 0x100030
abbrev REEL_TOFF_TOFF : Fld := ⟨REEL_TOFF, 63, 0⟩

/-- REEL_WM, 64 bits. -/
abbrev REEL_WM : Nat := 0x100038
abbrev REEL_WM_LOW : Fld := ⟨REEL_WM, 31, 0⟩
abbrev REEL_WM_HIGH : Fld := ⟨REEL_WM, 63, 32⟩

/-- REEL_LEVEL, 32 bits. -/
abbrev REEL_LEVEL : Nat := 0x100040
abbrev REEL_LEVEL_LEVEL : Fld := ⟨REEL_LEVEL, 31, 0⟩

/-- REEL_FETCH_STAT, 32 bits. -/
abbrev REEL_FETCH_STAT : Nat := 0x100048
abbrev REEL_FETCH_STAT_RUNNING : Fld := ⟨REEL_FETCH_STAT, 3, 0⟩
abbrev REEL_FETCH_STAT_FAILED : Fld := ⟨REEL_FETCH_STAT, 31, 16⟩

/-- REEL_SPAN_SEL, 32 bits. -/
abbrev REEL_SPAN_SEL : Nat := 0x100100
abbrev REEL_SPAN_SEL_SPAN : Fld := ⟨REEL_SPAN_SEL, 15, 0⟩

/-- REEL_SPAN_VIEW, 64 bits. -/
abbrev REEL_SPAN_VIEW (i : Nat) : Nat := 0x100108 + 0x8 * i
abbrev REEL_SPAN_VIEW_DATA (i : Nat) : Fld := ⟨(REEL_SPAN_VIEW i), 63, 0⟩

/-- LDEC_BLK_CAP, 32 bits. -/
abbrev LDEC_BLK_CAP : Nat := 0x120004
abbrev LDEC_BLK_CAP_HTDEC : Fld := ⟨LDEC_BLK_CAP, 7, 0⟩
abbrev LDEC_BLK_CAP_IWT : Fld := ⟨LDEC_BLK_CAP, 15, 8⟩
abbrev LDEC_BLK_CAP_LEVELS : Fld := ⟨LDEC_BLK_CAP, 19, 16⟩
abbrev LDEC_BLK_CAP_LAYERS : Fld := ⟨LDEC_BLK_CAP, 24, 20⟩

/-- LDEC_STAT, 32 bits. -/
abbrev LDEC_STAT : Nat := 0x120010
abbrev LDEC_STAT_CUR : Fld := ⟨LDEC_STAT, 0, 0⟩
abbrev LDEC_STAT_CUR_VALID : Fld := ⟨LDEC_STAT, 1, 1⟩
abbrev LDEC_STAT_NC : Fld := ⟨LDEC_STAT, 3, 2⟩
abbrev LDEC_STAT_CARRYING : Fld := ⟨LDEC_STAT, 4, 4⟩

/-- LDEC_FRAME, 64 bits. -/
abbrev LDEC_FRAME : Nat := 0x120018
abbrev LDEC_FRAME_CUR : Fld := ⟨LDEC_FRAME, 31, 0⟩
abbrev LDEC_FRAME_NC : Fld := ⟨LDEC_FRAME, 63, 32⟩

/-- LDEC_LAYERS, 32 bits. -/
abbrev LDEC_LAYERS : Nat := 0x120020
abbrev LDEC_LAYERS_STATE : Fld := ⟨LDEC_LAYERS, 31, 0⟩

/-- LDEC_ATLAS_A, 64 bits. -/
abbrev LDEC_ATLAS_A : Nat := 0x120028
abbrev LDEC_ATLAS_A_BASE : Fld := ⟨LDEC_ATLAS_A, 63, 0⟩

/-- LDEC_ATLAS_B, 64 bits. -/
abbrev LDEC_ATLAS_B : Nat := 0x120030
abbrev LDEC_ATLAS_B_BASE : Fld := ⟨LDEC_ATLAS_B, 63, 0⟩

/-- LDEC_ATLAS_SIZE, 64 bits. -/
abbrev LDEC_ATLAS_SIZE : Nat := 0x120038
abbrev LDEC_ATLAS_SIZE_SIZE : Fld := ⟨LDEC_ATLAS_SIZE, 63, 0⟩

/-- LDEC_TIME, 32 bits. -/
abbrev LDEC_TIME : Nat := 0x120040
abbrev LDEC_TIME_LAST : Fld := ⟨LDEC_TIME, 15, 0⟩
abbrev LDEC_TIME_PEAK : Fld := ⟨LDEC_TIME, 31, 16⟩

/-- LDEC_CNT, 32 bits. -/
abbrev LDEC_CNT : Nat := 0x120048
abbrev LDEC_CNT_CARRIED : Fld := ⟨LDEC_CNT, 15, 0⟩
abbrev LDEC_CNT_REFUSED : Fld := ⟨LDEC_CNT, 31, 16⟩

/-- LDEC_CTRL, 32 bits. -/
abbrev LDEC_CTRL : Nat := 0x120050
abbrev LDEC_CTRL_CLR : Fld := ⟨LDEC_CTRL, 0, 0⟩

/-- HLE_BLK_CAP, 32 bits. -/
abbrev HLE_BLK_CAP : Nat := 0x140004
abbrev HLE_BLK_CAP_PIPES : Fld := ⟨HLE_BLK_CAP, 3, 0⟩
abbrev HLE_BLK_CAP_POOL : Fld := ⟨HLE_BLK_CAP, 7, 4⟩
abbrev HLE_BLK_CAP_WINDOW : Fld := ⟨HLE_BLK_CAP, 15, 8⟩
abbrev HLE_BLK_CAP_RESUME : Fld := ⟨HLE_BLK_CAP, 16, 16⟩

/-- HLE_CTRL, 32 bits. -/
abbrev HLE_CTRL : Nat := 0x140010
abbrev HLE_CTRL_CLR : Fld := ⟨HLE_CTRL, 0, 0⟩
abbrev HLE_CTRL_HOLD : Fld := ⟨HLE_CTRL, 1, 1⟩

/-- HLE_STAT, 32 bits. -/
abbrev HLE_STAT : Nat := 0x140014
abbrev HLE_STAT_PIPE (j : Nat) : Fld := ⟨HLE_STAT, 2 * j + 1, 2 * j + 0⟩
abbrev HLE_STAT_STAGE_WAIT : Fld := ⟨HLE_STAT, 8, 8⟩
abbrev HLE_STAT_UNI_WAIT : Fld := ⟨HLE_STAT, 9, 9⟩

/-- HLE_PIPE_JOB, 64 bits. -/
abbrev HLE_PIPE_JOB (p : Nat) : Nat := 0x140020 + 0x8 * p
abbrev HLE_PIPE_JOB_RING (p : Nat) : Fld := ⟨(HLE_PIPE_JOB p), 2, 0⟩
abbrev HLE_PIPE_JOB_OP (p : Nat) : Fld := ⟨(HLE_PIPE_JOB p), 5, 4⟩
abbrev HLE_PIPE_JOB_TAG (p : Nat) : Fld := ⟨(HLE_PIPE_JOB p), 31, 16⟩
abbrev HLE_PIPE_JOB_OUT_KIB (p : Nat) : Fld := ⟨(HLE_PIPE_JOB p), 63, 32⟩

/-- HLE_CNT, 64 bits. -/
abbrev HLE_CNT : Nat := 0x140048
abbrev HLE_CNT_CHECK : Fld := ⟨HLE_CNT, 15, 0⟩
abbrev HLE_CNT_CHAIN : Fld := ⟨HLE_CNT, 31, 16⟩
abbrev HLE_CNT_VERIFY : Fld := ⟨HLE_CNT, 47, 32⟩
abbrev HLE_CNT_WRITE : Fld := ⟨HLE_CNT, 63, 48⟩

/-- HLE_BYTES_IN, 64 bits. -/
abbrev HLE_BYTES_IN : Nat := 0x140050
abbrev HLE_BYTES_IN_BYTES : Fld := ⟨HLE_BYTES_IN, 63, 0⟩

/-- HLE_BYTES_OUT, 64 bits. -/
abbrev HLE_BYTES_OUT : Nat := 0x140058
abbrev HLE_BYTES_OUT_BYTES : Fld := ⟨HLE_BYTES_OUT, 63, 0⟩

/-- HLE_LAST, 32 bits. -/
abbrev HLE_LAST : Nat := 0x140060
abbrev HLE_LAST_STATUS : Fld := ⟨HLE_LAST, 7, 0⟩
abbrev HLE_LAST_CODE : Fld := ⟨HLE_LAST, 11, 8⟩
abbrev HLE_LAST_RING : Fld := ⟨HLE_LAST, 14, 12⟩
abbrev HLE_LAST_TAG : Fld := ⟨HLE_LAST, 31, 16⟩

/-- LANT_BLK_CAP, 32 bits. -/
abbrev LANT_BLK_CAP (l : Nat) : Nat := 0x200004 + 0x1000 * l
abbrev LANT_BLK_CAP_RAYS (l : Nat) : Fld := ⟨(LANT_BLK_CAP l), 7, 0⟩
abbrev LANT_BLK_CAP_SAMPLERS (l : Nat) : Fld := ⟨(LANT_BLK_CAP l), 15, 8⟩
abbrev LANT_BLK_CAP_TCACHE (l : Nat) : Fld := ⟨(LANT_BLK_CAP l), 23, 16⟩
abbrev LANT_BLK_CAP_RCACHE (l : Nat) : Fld := ⟨(LANT_BLK_CAP l), 27, 24⟩

/-- LANT_STAT, 32 bits. -/
abbrev LANT_STAT (l : Nat) : Nat := 0x200010 + 0x1000 * l
abbrev LANT_STAT_STATE (l : Nat) : Fld := ⟨(LANT_STAT l), 1, 0⟩
abbrev LANT_STAT_QUAD (l : Nat) : Fld := ⟨(LANT_STAT l), 13, 8⟩
abbrev LANT_STAT_ROW (l : Nat) : Fld := ⟨(LANT_STAT l), 31, 16⟩

/-- LANT_FAULT, 32 bits. -/
abbrev LANT_FAULT (l : Nat) : Nat := 0x200014 + 0x1000 * l
abbrev LANT_FAULT_CAUSE (l : Nat) : Fld := ⟨(LANT_FAULT l), 3, 0⟩
abbrev LANT_FAULT_QUAD (l : Nat) : Fld := ⟨(LANT_FAULT l), 15, 8⟩
abbrev LANT_FAULT_ROW (l : Nat) : Fld := ⟨(LANT_FAULT l), 31, 16⟩

/-- LANT_RAYS, 64 bits. -/
abbrev LANT_RAYS (l : Nat) : Nat := 0x200018 + 0x1000 * l
abbrev LANT_RAYS_RAYS (l : Nat) : Fld := ⟨(LANT_RAYS l), 63, 0⟩

/-- LANT_SAMPLES, 64 bits. -/
abbrev LANT_SAMPLES (l : Nat) : Nat := 0x200020 + 0x1000 * l
abbrev LANT_SAMPLES_SAMPLES (l : Nat) : Fld := ⟨(LANT_SAMPLES l), 63, 0⟩

/-- LANT_FILLS, 64 bits. -/
abbrev LANT_FILLS (l : Nat) : Nat := 0x200028 + 0x1000 * l
abbrev LANT_FILLS_FILLS (l : Nat) : Fld := ⟨(LANT_FILLS l), 63, 0⟩

/-- LANT_POISON, 32 bits. -/
abbrev LANT_POISON (l : Nat) : Nat := 0x200030 + 0x1000 * l
abbrev LANT_POISON_SUBST (l : Nat) : Fld := ⟨(LANT_POISON l), 15, 0⟩
abbrev LANT_POISON_CPAR (l : Nat) : Fld := ⟨(LANT_POISON l), 31, 16⟩

/-- LANT_ROWTIME, 32 bits. -/
abbrev LANT_ROWTIME (l : Nat) : Nat := 0x200034 + 0x1000 * l
abbrev LANT_ROWTIME_LAST (l : Nat) : Fld := ⟨(LANT_ROWTIME l), 15, 0⟩
abbrev LANT_ROWTIME_PEAK (l : Nat) : Fld := ⟨(LANT_ROWTIME l), 31, 16⟩

/-- LANT_LCTRL, 32 bits. -/
abbrev LANT_LCTRL (l : Nat) : Nat := 0x200040 + 0x1000 * l
abbrev LANT_LCTRL_CLR (l : Nat) : Fld := ⟨(LANT_LCTRL l), 0, 0⟩

/-- LANT_ARRAY_CAP, 32 bits. -/
abbrev LANT_ARRAY_CAP : Nat := 0x23F004
abbrev LANT_ARRAY_CAP_LANTERNS : Fld := ⟨LANT_ARRAY_CAP, 7, 0⟩
abbrev LANT_ARRAY_CAP_ACTIVE : Fld := ⟨LANT_ARRAY_CAP, 15, 8⟩
abbrev LANT_ARRAY_CAP_CSETS : Fld := ⟨LANT_ARRAY_CAP, 23, 16⟩

/-- LANT_CTRL, 32 bits. -/
abbrev LANT_CTRL : Nat := 0x23F010
abbrev LANT_CTRL_AUTO_SPARE : Fld := ⟨LANT_CTRL, 0, 0⟩
abbrev LANT_CTRL_SKIP_EN : Fld := ⟨LANT_CTRL, 1, 1⟩

/-- LANT_TERM, 32 bits. -/
abbrev LANT_TERM : Nat := 0x23F020
abbrev LANT_TERM_TERM : Fld := ⟨LANT_TERM, 10, 0⟩

/-- LANT_BG, 64 bits. -/
abbrev LANT_BG : Nat := 0x23F028
abbrev LANT_BG_RED : Fld := ⟨LANT_BG, 15, 0⟩
abbrev LANT_BG_GREEN : Fld := ⟨LANT_BG, 31, 16⟩
abbrev LANT_BG_BLUE : Fld := ⟨LANT_BG, 47, 32⟩

/-- LANT_TERM_CUR, 32 bits. -/
abbrev LANT_TERM_CUR : Nat := 0x23F030
abbrev LANT_TERM_CUR_TERM : Fld := ⟨LANT_TERM_CUR, 10, 0⟩

/-- LANT_BG_CUR, 64 bits. -/
abbrev LANT_BG_CUR : Nat := 0x23F038
abbrev LANT_BG_CUR_BG : Fld := ⟨LANT_BG_CUR, 47, 0⟩

/-- LANT_FAULTED, 64 bits. -/
abbrev LANT_FAULTED : Nat := 0x23F040
abbrev LANT_FAULTED_FAULTED : Fld := ⟨LANT_FAULTED, 49, 0⟩

/-- LANT_SPARE, 64 bits. -/
abbrev LANT_SPARE : Nat := 0x23F048
abbrev LANT_SPARE_SPARE : Fld := ⟨LANT_SPARE, 49, 0⟩

/-- LANT_FAILOVER, 32 bits. -/
abbrev LANT_FAILOVER : Nat := 0x23F050
abbrev LANT_FAILOVER_FAULTED : Fld := ⟨LANT_FAILOVER, 5, 0⟩
abbrev LANT_FAILOVER_SPARE : Fld := ⟨LANT_FAILOVER, 13, 8⟩
abbrev LANT_FAILOVER_QUAD : Fld := ⟨LANT_FAILOVER, 21, 16⟩
abbrev LANT_FAILOVER_COUNT : Fld := ⟨LANT_FAILOVER, 31, 24⟩

/-- LANT_XBAR, 32 bits. -/
abbrev LANT_XBAR (i : Nat) : Nat := 0x23F100 + 0x4 * i
abbrev LANT_XBAR_LANTERN (i : Nat) (j : Nat) : Fld := ⟨(LANT_XBAR i), 8 * j + 5, 8 * j + 0⟩

/-- LANT_XBAR_CUR, 32 bits. -/
abbrev LANT_XBAR_CUR (i : Nat) : Nat := 0x23F200 + 0x4 * i
abbrev LANT_XBAR_CUR_LANTERN (i : Nat) (j : Nat) : Fld := ⟨(LANT_XBAR_CUR i), 8 * j + 5, 8 * j + 0⟩

/-- RMAP_BLK_CAP, 32 bits. -/
abbrev RMAP_BLK_CAP : Nat := 0x240004
abbrev RMAP_BLK_CAP_ZONES : Fld := ⟨RMAP_BLK_CAP, 15, 0⟩
abbrev RMAP_BLK_CAP_LEVELS : Fld := ⟨RMAP_BLK_CAP, 23, 16⟩
abbrev RMAP_BLK_CAP_AGRID : Fld := ⟨RMAP_BLK_CAP, 31, 24⟩

/-- RMAP_GEN, 32 bits. -/
abbrev RMAP_GEN : Nat := 0x240010
abbrev RMAP_GEN_CUR : Fld := ⟨RMAP_GEN, 15, 0⟩
abbrev RMAP_GEN_STAGED : Fld := ⟨RMAP_GEN, 31, 16⟩

/-- RMAP_STAT, 32 bits. -/
abbrev RMAP_STAT : Nat := 0x240014
abbrev RMAP_STAT_CUR_SLOT : Fld := ⟨RMAP_STAT, 0, 0⟩
abbrev RMAP_STAT_NC : Fld := ⟨RMAP_STAT, 2, 1⟩
abbrev RMAP_STAT_SWAP : Fld := ⟨RMAP_STAT, 5, 4⟩
abbrev RMAP_STAT_NOMINAL : Fld := ⟨RMAP_STAT, 8, 8⟩

/-- RMAP_SWAP_TICK, 64 bits. -/
abbrev RMAP_SWAP_TICK : Nat := 0x240018
abbrev RMAP_SWAP_TICK_TICK : Fld := ⟨RMAP_SWAP_TICK, 63, 0⟩

/-- RMAP_SLOT_A, 64 bits. -/
abbrev RMAP_SLOT_A : Nat := 0x240020
abbrev RMAP_SLOT_A_BASE : Fld := ⟨RMAP_SLOT_A, 63, 0⟩

/-- RMAP_SLOT_B, 64 bits. -/
abbrev RMAP_SLOT_B : Nat := 0x240028
abbrev RMAP_SLOT_B_BASE : Fld := ⟨RMAP_SLOT_B, 63, 0⟩

/-- RMAP_SLOT_SIZE, 64 bits. -/
abbrev RMAP_SLOT_SIZE : Nat := 0x240030
abbrev RMAP_SLOT_SIZE_SIZE : Fld := ⟨RMAP_SLOT_SIZE, 63, 0⟩

/-- RMAP_SUBST, 32 bits. -/
abbrev RMAP_SUBST : Nat := 0x240038
abbrev RMAP_SUBST_LENSLET : Fld := ⟨RMAP_SUBST, 15, 0⟩
abbrev RMAP_SUBST_RESID : Fld := ⟨RMAP_SUBST, 31, 16⟩

/-- RMAP_CTRL, 32 bits. -/
abbrev RMAP_CTRL : Nat := 0x24003C
abbrev RMAP_CTRL_CLR : Fld := ⟨RMAP_CTRL, 0, 0⟩

/-- RMAP_AGING_CTRL, 32 bits. -/
abbrev RMAP_AGING_CTRL : Nat := 0x240040
abbrev RMAP_AGING_CTRL_MODE : Fld := ⟨RMAP_AGING_CTRL, 1, 0⟩
abbrev RMAP_AGING_CTRL_RECALC : Fld := ⟨RMAP_AGING_CTRL, 4, 4⟩

/-- RMAP_AGING_STAT, 32 bits. -/
abbrev RMAP_AGING_STAT : Nat := 0x240044
abbrev RMAP_AGING_STAT_PENDING : Fld := ⟨RMAP_AGING_STAT, 0, 0⟩
abbrev RMAP_AGING_STAT_CURVE : Fld := ⟨RMAP_AGING_STAT, 1, 1⟩
abbrev RMAP_AGING_STAT_UPDATES : Fld := ⟨RMAP_AGING_STAT, 31, 16⟩

/-- RMAP_AGING_SEL, 32 bits. -/
abbrev RMAP_AGING_SEL : Nat := 0x240048
abbrev RMAP_AGING_SEL_ZONE : Fld := ⟨RMAP_AGING_SEL, 11, 0⟩

/-- RMAP_AGING_GAIN, 64 bits. -/
abbrev RMAP_AGING_GAIN : Nat := 0x240050
abbrev RMAP_AGING_GAIN_RED : Fld := ⟨RMAP_AGING_GAIN, 15, 0⟩
abbrev RMAP_AGING_GAIN_GREEN : Fld := ⟨RMAP_AGING_GAIN, 31, 16⟩
abbrev RMAP_AGING_GAIN_BLUE : Fld := ⟨RMAP_AGING_GAIN, 47, 32⟩

/-- RMAP_AGING_CH, 64 bits. -/
abbrev RMAP_AGING_CH : Nat := 0x240058
abbrev RMAP_AGING_CH_UNITS : Fld := ⟨RMAP_AGING_CH, 39, 0⟩

/-- RMAP_UNI_CTRL, 32 bits. -/
abbrev RMAP_UNI_CTRL : Nat := 0x240060
abbrev RMAP_UNI_CTRL_PER_ROW : Fld := ⟨RMAP_UNI_CTRL, 7, 0⟩

/-- RMAP_UNI_STAT, 32 bits. -/
abbrev RMAP_UNI_STAT : Nat := 0x240064
abbrev RMAP_UNI_STAT_STATE : Fld := ⟨RMAP_UNI_STAT, 1, 0⟩
abbrev RMAP_UNI_STAT_DONE : Fld := ⟨RMAP_UNI_STAT, 15, 8⟩
abbrev RMAP_UNI_STAT_RETRIES : Fld := ⟨RMAP_UNI_STAT, 23, 16⟩

/-- RMAP_UNI_STAGE, 64 bits. -/
abbrev RMAP_UNI_STAGE : Nat := 0x240068
abbrev RMAP_UNI_STAGE_BASE : Fld := ⟨RMAP_UNI_STAGE, 63, 0⟩

/-- RMAP_UNI_STAGE_SIZE, 64 bits. -/
abbrev RMAP_UNI_STAGE_SIZE : Nat := 0x240070
abbrev RMAP_UNI_STAGE_SIZE_SIZE : Fld := ⟨RMAP_UNI_STAGE_SIZE, 63, 0⟩

/-- RMAP_UNI_BANK, 32 bits. -/
abbrev RMAP_UNI_BANK (i : Nat) : Nat := 0x240080 + 0x4 * i
abbrev RMAP_UNI_BANK_BANK (i : Nat) : Fld := ⟨(RMAP_UNI_BANK i), 31, 0⟩

/-- RMAP_ZONE_LEVEL, 32 bits. -/
abbrev RMAP_ZONE_LEVEL (i : Nat) : Nat := 0x240100 + 0x4 * i
abbrev RMAP_ZONE_LEVEL_LEVEL (i : Nat) (j : Nat) : Fld := ⟨(RMAP_ZONE_LEVEL i), 4 * j + 2, 4 * j + 0⟩
abbrev RMAP_ZONE_LEVEL_PENDING (i : Nat) (j : Nat) : Fld := ⟨(RMAP_ZONE_LEVEL i), 4 * j + 3, 4 * j + 3⟩

/-- BLT_BLK_CAP, 32 bits. -/
abbrev BLT_BLK_CAP : Nat := 0x260004
abbrev BLT_BLK_CAP_SURFACES : Fld := ⟨BLT_BLK_CAP, 7, 0⟩
abbrev BLT_BLK_CAP_FORMATS : Fld := ⟨BLT_BLK_CAP, 11, 8⟩
abbrev BLT_BLK_CAP_MAXDIM : Fld := ⟨BLT_BLK_CAP, 31, 16⟩

/-- BLT_CTRL, 32 bits. -/
abbrev BLT_CTRL : Nat := 0x260010
abbrev BLT_CTRL_CLR : Fld := ⟨BLT_CTRL, 0, 0⟩
abbrev BLT_CTRL_HOLD : Fld := ⟨BLT_CTRL, 1, 1⟩
abbrev BLT_CTRL_RATE : Fld := ⟨BLT_CTRL, 15, 8⟩

/-- BLT_STAT, 32 bits. -/
abbrev BLT_STAT : Nat := 0x260014
abbrev BLT_STAT_BUSY : Fld := ⟨BLT_STAT, 0, 0⟩
abbrev BLT_STAT_RING : Fld := ⟨BLT_STAT, 6, 4⟩
abbrev BLT_STAT_TAG : Fld := ⟨BLT_STAT, 31, 16⟩

/-- BLT_CNT, 64 bits. -/
abbrev BLT_CNT : Nat := 0x260018
abbrev BLT_CNT_DONE : Fld := ⟨BLT_CNT, 31, 0⟩
abbrev BLT_CNT_ERR : Fld := ⟨BLT_CNT, 47, 32⟩
abbrev BLT_CNT_POISON : Fld := ⟨BLT_CNT, 63, 48⟩

/-- BLT_LAST_ERR, 32 bits. -/
abbrev BLT_LAST_ERR : Nat := 0x260020
abbrev BLT_LAST_ERR_STATUS : Fld := ⟨BLT_LAST_ERR, 7, 0⟩
abbrev BLT_LAST_ERR_RING : Fld := ⟨BLT_LAST_ERR, 10, 8⟩
abbrev BLT_LAST_ERR_TAG : Fld := ⟨BLT_LAST_ERR, 31, 16⟩

/-- BLT_PIXELS, 64 bits. -/
abbrev BLT_PIXELS : Nat := 0x260028
abbrev BLT_PIXELS_PIXELS : Fld := ⟨BLT_PIXELS, 63, 0⟩

/-- BLT_SURF_BASE, 64 bits. -/
abbrev BLT_SURF_BASE (s : Nat) : Nat := 0x260100 + 0x20 * s
abbrev BLT_SURF_BASE_BASE (s : Nat) : Fld := ⟨(BLT_SURF_BASE s), 63, 0⟩

/-- BLT_SURF_FMT, 32 bits. -/
abbrev BLT_SURF_FMT (s : Nat) : Nat := 0x260108 + 0x20 * s
abbrev BLT_SURF_FMT_FMT (s : Nat) : Fld := ⟨(BLT_SURF_FMT s), 1, 0⟩
abbrev BLT_SURF_FMT_STRIDE (s : Nat) : Fld := ⟨(BLT_SURF_FMT s), 31, 8⟩

/-- BLT_SURF_SIZE, 32 bits. -/
abbrev BLT_SURF_SIZE (s : Nat) : Nat := 0x26010C + 0x20 * s
abbrev BLT_SURF_SIZE_WIDTH (s : Nat) : Fld := ⟨(BLT_SURF_SIZE s), 15, 0⟩
abbrev BLT_SURF_SIZE_HEIGHT (s : Nat) : Fld := ⟨(BLT_SURF_SIZE s), 31, 16⟩

/-- BLT_SURF_CLIP, 64 bits. -/
abbrev BLT_SURF_CLIP (s : Nat) : Nat := 0x260110 + 0x20 * s
abbrev BLT_SURF_CLIP_X0 (s : Nat) : Fld := ⟨(BLT_SURF_CLIP s), 15, 0⟩
abbrev BLT_SURF_CLIP_Y0 (s : Nat) : Fld := ⟨(BLT_SURF_CLIP s), 31, 16⟩
abbrev BLT_SURF_CLIP_X1 (s : Nat) : Fld := ⟨(BLT_SURF_CLIP s), 47, 32⟩
abbrev BLT_SURF_CLIP_Y1 (s : Nat) : Fld := ⟨(BLT_SURF_CLIP s), 63, 48⟩

/-- SCAN_BLK_CAP, 32 bits. -/
abbrev SCAN_BLK_CAP : Nat := 0x300004
abbrev SCAN_BLK_CAP_PLANES : Fld := ⟨SCAN_BLK_CAP, 3, 0⟩
abbrev SCAN_BLK_CAP_RECTS : Fld := ⟨SCAN_BLK_CAP, 10, 4⟩
abbrev SCAN_BLK_CAP_LEASES : Fld := ⟨SCAN_BLK_CAP, 15, 11⟩
abbrev SCAN_BLK_CAP_SLOT : Fld := ⟨SCAN_BLK_CAP, 27, 16⟩

/-- SCAN_STAT, 32 bits. -/
abbrev SCAN_STAT : Nat := 0x300010
abbrev SCAN_STAT_RUN : Fld := ⟨SCAN_STAT, 0, 0⟩
abbrev SCAN_STAT_PEND : Fld := ⟨SCAN_STAT, 1, 1⟩
abbrev SCAN_STAT_ROW : Fld := ⟨SCAN_STAT, 31, 16⟩

/-- SCAN_GEN, 32 bits. -/
abbrev SCAN_GEN : Nat := 0x300018
abbrev SCAN_GEN_CUR : Fld := ⟨SCAN_GEN, 15, 0⟩
abbrev SCAN_GEN_PEND : Fld := ⟨SCAN_GEN, 31, 16⟩

/-- SCAN_ACT_ROWS, 32 bits. -/
abbrev SCAN_ACT_ROWS : Nat := 0x300020
abbrev SCAN_ACT_ROWS_A : Fld := ⟨SCAN_ACT_ROWS, 16, 0⟩

/-- SCAN_BLANK_ROWS, 32 bits. -/
abbrev SCAN_BLANK_ROWS : Nat := 0x300024
abbrev SCAN_BLANK_ROWS_B : Fld := ⟨SCAN_BLANK_ROWS, 15, 0⟩

/-- SCAN_ROW_PERIOD, 32 bits. -/
abbrev SCAN_ROW_PERIOD : Nat := 0x300028
abbrev SCAN_ROW_PERIOD_CLOCKS : Fld := ⟨SCAN_ROW_PERIOD, 15, 0⟩

/-- SCAN_DITHER, 32 bits. -/
abbrev SCAN_DITHER : Nat := 0x300030
abbrev SCAN_DITHER_EN : Fld := ⟨SCAN_DITHER, 0, 0⟩

/-- SCAN_ABORT_STAT, 64 bits. -/
abbrev SCAN_ABORT_STAT : Nat := 0x300040
abbrev SCAN_ABORT_STAT_COUNT : Fld := ⟨SCAN_ABORT_STAT, 15, 0⟩
abbrev SCAN_ABORT_STAT_WICK : Fld := ⟨SCAN_ABORT_STAT, 23, 16⟩
abbrev SCAN_ABORT_STAT_ROW : Fld := ⟨SCAN_ABORT_STAT, 47, 32⟩
abbrev SCAN_ABORT_STAT_SKIPPED : Fld := ⟨SCAN_ABORT_STAT, 63, 48⟩

/-- SCAN_OV_STAT, 32 bits. -/
abbrev SCAN_OV_STAT : Nat := 0x300048
abbrev SCAN_OV_STAT_LATE : Fld := ⟨SCAN_OV_STAT, 15, 0⟩
abbrev SCAN_OV_STAT_POISON : Fld := ⟨SCAN_OV_STAT, 31, 16⟩

/-- SCAN_LEASE_VIOL, 64 bits. -/
abbrev SCAN_LEASE_VIOL : Nat := 0x300050
abbrev SCAN_LEASE_VIOL_ADDR : Fld := ⟨SCAN_LEASE_VIOL, 47, 0⟩
abbrev SCAN_LEASE_VIOL_COUNT : Fld := ⟨SCAN_LEASE_VIOL, 63, 48⟩

/-- SCAN_CTRL, 32 bits. -/
abbrev SCAN_CTRL : Nat := 0x300058
abbrev SCAN_CTRL_CLR : Fld := ⟨SCAN_CTRL, 0, 0⟩
abbrev SCAN_CTRL_LUT_CUR : Fld := ⟨SCAN_CTRL, 1, 1⟩

/-- SCAN_OV_CTRL, 32 bits. -/
abbrev SCAN_OV_CTRL (i : Nat) : Nat := 0x300100 + 0x40 * i
abbrev SCAN_OV_CTRL_EN (i : Nat) : Fld := ⟨(SCAN_OV_CTRL i), 0, 0⟩
abbrev SCAN_OV_CTRL_FORCE_OPAQUE (i : Nat) : Fld := ⟨(SCAN_OV_CTRL i), 1, 1⟩
abbrev SCAN_OV_CTRL_FMT (i : Nat) : Fld := ⟨(SCAN_OV_CTRL i), 6, 4⟩
abbrev SCAN_OV_CTRL_SCALE (i : Nat) : Fld := ⟨(SCAN_OV_CTRL i), 9, 8⟩
abbrev SCAN_OV_CTRL_CSET (i : Nat) : Fld := ⟨(SCAN_OV_CTRL i), 14, 12⟩
abbrev SCAN_OV_CTRL_GALPHA (i : Nat) : Fld := ⟨(SCAN_OV_CTRL i), 23, 16⟩

/-- SCAN_OV_POS, 32 bits. -/
abbrev SCAN_OV_POS (i : Nat) : Nat := 0x300104 + 0x40 * i
abbrev SCAN_OV_POS_X (i : Nat) : Fld := ⟨(SCAN_OV_POS i), 15, 0⟩
abbrev SCAN_OV_POS_Y (i : Nat) : Fld := ⟨(SCAN_OV_POS i), 31, 16⟩

/-- SCAN_OV_SIZE, 32 bits. -/
abbrev SCAN_OV_SIZE (i : Nat) : Nat := 0x300108 + 0x40 * i
abbrev SCAN_OV_SIZE_WIDTH (i : Nat) : Fld := ⟨(SCAN_OV_SIZE i), 14, 0⟩
abbrev SCAN_OV_SIZE_HEIGHT (i : Nat) : Fld := ⟨(SCAN_OV_SIZE i), 30, 16⟩

/-- SCAN_OV_ADDR0, 64 bits. -/
abbrev SCAN_OV_ADDR0 (i : Nat) : Nat := 0x300110 + 0x40 * i
abbrev SCAN_OV_ADDR0_ADDR (i : Nat) : Fld := ⟨(SCAN_OV_ADDR0 i), 63, 0⟩

/-- SCAN_OV_ADDR1, 64 bits. -/
abbrev SCAN_OV_ADDR1 (i : Nat) : Nat := 0x300118 + 0x40 * i
abbrev SCAN_OV_ADDR1_ADDR (i : Nat) : Fld := ⟨(SCAN_OV_ADDR1 i), 63, 0⟩

/-- SCAN_OV_STRIDE, 64 bits. -/
abbrev SCAN_OV_STRIDE (i : Nat) : Nat := 0x300120 + 0x40 * i
abbrev SCAN_OV_STRIDE_STRIDE0 (i : Nat) : Fld := ⟨(SCAN_OV_STRIDE i), 31, 0⟩
abbrev SCAN_OV_STRIDE_STRIDE1 (i : Nat) : Fld := ⟨(SCAN_OV_STRIDE i), 63, 32⟩

/-- SCAN_OV_COLOUR, 64 bits. -/
abbrev SCAN_OV_COLOUR (i : Nat) : Nat := 0x300128 + 0x40 * i
abbrev SCAN_OV_COLOUR_RED (i : Nat) : Fld := ⟨(SCAN_OV_COLOUR i), 15, 0⟩
abbrev SCAN_OV_COLOUR_GREEN (i : Nat) : Fld := ⟨(SCAN_OV_COLOUR i), 31, 16⟩
abbrev SCAN_OV_COLOUR_BLUE (i : Nat) : Fld := ⟨(SCAN_OV_COLOUR i), 47, 32⟩

/-- SCAN_LEASE_BASE, 64 bits. -/
abbrev SCAN_LEASE_BASE (e : Nat) : Nat := 0x300200 + 0x10 * e
abbrev SCAN_LEASE_BASE_BASE (e : Nat) : Fld := ⟨(SCAN_LEASE_BASE e), 63, 0⟩

/-- SCAN_LEASE_INFO, 64 bits. -/
abbrev SCAN_LEASE_INFO (e : Nat) : Nat := 0x300208 + 0x10 * e
abbrev SCAN_LEASE_INFO_LEN (e : Nat) : Fld := ⟨(SCAN_LEASE_INFO e), 39, 0⟩
abbrev SCAN_LEASE_INFO_GEN (e : Nat) : Fld := ⟨(SCAN_LEASE_INFO e), 55, 40⟩
abbrev SCAN_LEASE_INFO_PLANE (e : Nat) : Fld := ⟨(SCAN_LEASE_INFO e), 63, 56⟩

/-- SCAN_WIT_RECT, 64 bits. -/
abbrev SCAN_WIT_RECT (w : Nat) : Nat := 0x301000 + 0x20 * w
abbrev SCAN_WIT_RECT_X (w : Nat) : Fld := ⟨(SCAN_WIT_RECT w), 15, 0⟩
abbrev SCAN_WIT_RECT_Y (w : Nat) : Fld := ⟨(SCAN_WIT_RECT w), 31, 16⟩
abbrev SCAN_WIT_RECT_WM1 (w : Nat) : Fld := ⟨(SCAN_WIT_RECT w), 47, 32⟩
abbrev SCAN_WIT_RECT_HM1 (w : Nat) : Fld := ⟨(SCAN_WIT_RECT w), 63, 48⟩

/-- SCAN_WIT_CFG, 64 bits. -/
abbrev SCAN_WIT_CFG (w : Nat) : Nat := 0x301008 + 0x20 * w
abbrev SCAN_WIT_CFG_EXPECT (w : Nat) : Fld := ⟨(SCAN_WIT_CFG w), 31, 0⟩
abbrev SCAN_WIT_CFG_MODE (w : Nat) : Fld := ⟨(SCAN_WIT_CFG w), 34, 32⟩

/-- SCAN_WIT_FNUM, 32 bits. -/
abbrev SCAN_WIT_FNUM (w : Nat) : Nat := 0x301010 + 0x20 * w
abbrev SCAN_WIT_FNUM_FNUM (w : Nat) : Fld := ⟨(SCAN_WIT_FNUM w), 31, 0⟩

/-- SCAN_WIT_RES, 32 bits. -/
abbrev SCAN_WIT_RES (w : Nat) : Nat := 0x301014 + 0x20 * w
abbrev SCAN_WIT_RES_CRC (w : Nat) : Fld := ⟨(SCAN_WIT_RES w), 31, 0⟩

/-- SCAN_WIT_STAT, 64 bits. -/
abbrev SCAN_WIT_STAT (w : Nat) : Nat := 0x301018 + 0x20 * w
abbrev SCAN_WIT_STAT_STATUS (w : Nat) : Fld := ⟨(SCAN_WIT_STAT w), 2, 0⟩
abbrev SCAN_WIT_STAT_MISMATCHES (w : Nat) : Fld := ⟨(SCAN_WIT_STAT w), 31, 16⟩
abbrev SCAN_WIT_STAT_FRAME (w : Nat) : Fld := ⟨(SCAN_WIT_STAT w), 63, 32⟩

/-- SCAN_LUT, 32 bits. -/
abbrev SCAN_LUT (p : Nat) (i : Nat) : Nat := 0x304000 + 0x4000 * p + 0x4 * i
abbrev SCAN_LUT_ENTRY (p : Nat) (i : Nat) : Fld := ⟨(SCAN_LUT p i), 11, 0⟩

/-- SCAN_W_STAT, 32 bits. -/
abbrev SCAN_W_STAT (n : Nat) : Nat := 0x310000 + 0x400 * n
abbrev SCAN_W_STAT_FIFO (n : Nat) : Fld := ⟨(SCAN_W_STAT n), 2, 0⟩
abbrev SCAN_W_STAT_STATE (n : Nat) : Fld := ⟨(SCAN_W_STAT n), 6, 4⟩
abbrev SCAN_W_STAT_ROW (n : Nat) : Fld := ⟨(SCAN_W_STAT n), 31, 16⟩

/-- SCAN_W_COLS, 32 bits. -/
abbrev SCAN_W_COLS (n : Nat) : Nat := 0x310008 + 0x400 * n
abbrev SCAN_W_COLS_FIRST (n : Nat) : Fld := ⟨(SCAN_W_COLS n), 15, 0⟩
abbrev SCAN_W_COLS_COUNT (n : Nat) : Fld := ⟨(SCAN_W_COLS n), 31, 16⟩

/-- SCAN_W_ABORTS, 32 bits. -/
abbrev SCAN_W_ABORTS (n : Nat) : Nat := 0x310010 + 0x400 * n
abbrev SCAN_W_ABORTS_COUNT (n : Nat) : Fld := ⟨(SCAN_W_ABORTS n), 15, 0⟩

/-- WLN_BLK_CAP, 32 bits. -/
abbrev WLN_BLK_CAP : Nat := 0x340004
abbrev WLN_BLK_CAP_WICKS : Fld := ⟨WLN_BLK_CAP, 7, 0⟩
abbrev WLN_BLK_CAP_GROUPS : Fld := ⟨WLN_BLK_CAP, 15, 8⟩
abbrev WLN_BLK_CAP_GENS : Fld := ⟨WLN_BLK_CAP, 17, 16⟩
abbrev WLN_BLK_CAP_PRESETS : Fld := ⟨WLN_BLK_CAP, 23, 20⟩

/-- WLN_CTRL, 32 bits. -/
abbrev WLN_CTRL : Nat := 0x340010
abbrev WLN_CTRL_TRAIN : Fld := ⟨WLN_CTRL, 0, 0⟩
abbrev WLN_CTRL_ALLOW_DEGRADED : Fld := ⟨WLN_CTRL, 1, 1⟩
abbrev WLN_CTRL_FAULT_SNUFF : Fld := ⟨WLN_CTRL, 11, 8⟩
abbrev WLN_CTRL_CLR : Fld := ⟨WLN_CTRL, 16, 16⟩

/-- WLN_TRAIN_CFG, 32 bits. -/
abbrev WLN_TRAIN_CFG : Nat := 0x340014
abbrev WLN_TRAIN_CFG_TIMEOUT : Fld := ⟨WLN_TRAIN_CFG, 7, 0⟩
abbrev WLN_TRAIN_CFG_ATTEMPTS : Fld := ⟨WLN_TRAIN_CFG, 11, 8⟩

/-- WLN_UP, 32 bits. -/
abbrev WLN_UP : Nat := 0x340018
abbrev WLN_UP_UP : Fld := ⟨WLN_UP, 23, 0⟩

/-- WLN_RX_FROZEN, 32 bits. -/
abbrev WLN_RX_FROZEN : Nat := 0x34001C
abbrev WLN_RX_FROZEN_FROZEN : Fld := ⟨WLN_RX_FROZEN, 23, 0⟩

/-- WLN_GCFG, 32 bits. -/
abbrev WLN_GCFG (g : Nat) : Nat := 0x340100 + 0x40 * g
abbrev WLN_GCFG_GEN (g : Nat) : Fld := ⟨(WLN_GCFG g), 1, 0⟩
abbrev WLN_GCFG_PRESET (g : Nat) : Fld := ⟨(WLN_GCFG g), 6, 4⟩
abbrev WLN_GCFG_EQ_REQ_EN (g : Nat) : Fld := ⟨(WLN_GCFG g), 8, 8⟩
abbrev WLN_GCFG_RETRAIN (g : Nat) : Fld := ⟨(WLN_GCFG g), 16, 16⟩

/-- WLN_GSTAT, 32 bits. -/
abbrev WLN_GSTAT (g : Nat) : Nat := 0x340104 + 0x40 * g
abbrev WLN_GSTAT_STATE (g : Nat) : Fld := ⟨(WLN_GSTAT g), 2, 0⟩
abbrev WLN_GSTAT_RET_LOCK (g : Nat) : Fld := ⟨(WLN_GSTAT g), 4, 4⟩
abbrev WLN_GSTAT_RET_INV (g : Nat) : Fld := ⟨(WLN_GSTAT g), 5, 5⟩
abbrev WLN_GSTAT_ATTEMPT (g : Nat) : Fld := ⟨(WLN_GSTAT g), 11, 8⟩
abbrev WLN_GSTAT_PRESET (g : Nat) : Fld := ⟨(WLN_GSTAT g), 14, 12⟩

/-- WLN_GMAP, 32 bits. -/
abbrev WLN_GMAP (g : Nat) : Nat := 0x340108 + 0x40 * g
abbrev WLN_GMAP_OUT (g : Nat) : Fld := ⟨(WLN_GMAP g), 23, 0⟩

/-- WLN_GPOL, 32 bits. -/
abbrev WLN_GPOL (g : Nat) : Nat := 0x34010C + 0x40 * g
abbrev WLN_GPOL_TXINV (g : Nat) : Fld := ⟨(WLN_GPOL g), 7, 0⟩

/-- WLN_GSTATUS, 64 bits. -/
abbrev WLN_GSTATUS (g : Nat) : Nat := 0x340110 + 0x40 * g
abbrev WLN_GSTATUS_PAYLOAD (g : Nat) : Fld := ⟨(WLN_GSTATUS g), 63, 0⟩

/-- WLN_GORDER, 64 bits. -/
abbrev WLN_GORDER (g : Nat) : Nat := 0x340118 + 0x40 * g
abbrev WLN_GORDER_PAYLOAD (g : Nat) : Fld := ⟨(WLN_GORDER g), 63, 0⟩

/-- WLN_GLENS, 64 bits. -/
abbrev WLN_GLENS (g : Nat) : Nat := 0x340120 + 0x40 * g
abbrev WLN_GLENS_PAYLOAD (g : Nat) : Fld := ⟨(WLN_GLENS g), 63, 0⟩

/-- WLN_GCNT, 32 bits. -/
abbrev WLN_GCNT (g : Nat) : Nat := 0x340128 + 0x40 * g
abbrev WLN_GCNT_RET_LOSS (g : Nat) : Fld := ⟨(WLN_GCNT g), 15, 0⟩
abbrev WLN_GCNT_UNKNOWN (g : Nat) : Fld := ⟨(WLN_GCNT g), 31, 16⟩

/-- WLN_W_STAT, 32 bits. -/
abbrev WLN_W_STAT (n : Nat) : Nat := 0x341000 + 0x10 * n
abbrev WLN_W_STAT_STATE (n : Nat) : Fld := ⟨(WLN_W_STAT n), 1, 0⟩
abbrev WLN_W_STAT_OUT (n : Nat) : Fld := ⟨(WLN_W_STAT n), 6, 4⟩
abbrev WLN_W_STAT_INV (n : Nat) : Fld := ⟨(WLN_W_STAT n), 7, 7⟩
abbrev WLN_W_STAT_LAST (n : Nat) : Fld := ⟨(WLN_W_STAT n), 31, 16⟩

/-- WLN_W_RELOCK, 32 bits. -/
abbrev WLN_W_RELOCK (n : Nat) : Nat := 0x341004 + 0x10 * n
abbrev WLN_W_RELOCK_COUNT (n : Nat) : Fld := ⟨(WLN_W_RELOCK n), 15, 0⟩
abbrev WLN_W_RELOCK_LATE (n : Nat) : Fld := ⟨(WLN_W_RELOCK n), 31, 16⟩

/-- WLN_W_CRCERR, 32 bits. -/
abbrev WLN_W_CRCERR (n : Nat) : Nat := 0x341008 + 0x10 * n
abbrev WLN_W_CRCERR_COUNT (n : Nat) : Fld := ⟨(WLN_W_CRCERR n), 31, 0⟩

/-- CHN_BLK_CAP, 32 bits. -/
abbrev CHN_BLK_CAP : Nat := 0x380004
abbrev CHN_BLK_CAP_LANES : Fld := ⟨CHN_BLK_CAP, 3, 0⟩
abbrev CHN_BLK_CAP_GENS : Fld := ⟨CHN_BLK_CAP, 5, 4⟩
abbrev CHN_BLK_CAP_HELD : Fld := ⟨CHN_BLK_CAP, 11, 8⟩

/-- CHN_CFG, 32 bits. -/
abbrev CHN_CFG : Nat := 0x380010
abbrev CHN_CFG_ROLE : Fld := ⟨CHN_CFG, 1, 0⟩
abbrev CHN_CFG_GEN : Fld := ⟨CHN_CFG, 5, 4⟩

/-- CHN_STAT, 32 bits. -/
abbrev CHN_STAT : Nat := 0x380014
abbrev CHN_STAT_ADDR : Fld := ⟨CHN_STAT, 7, 0⟩
abbrev CHN_STAT_HEAD : Fld := ⟨CHN_STAT, 8, 8⟩
abbrev CHN_STAT_ABSENT : Fld := ⟨CHN_STAT, 9, 9⟩
abbrev CHN_STAT_OFFER_RX : Fld := ⟨CHN_STAT, 23, 16⟩
abbrev CHN_STAT_OFFER_TX : Fld := ⟨CHN_STAT, 31, 24⟩

/-- CHN_PIN, 32 bits. -/
abbrev CHN_PIN : Nat := 0x380018
abbrev CHN_PIN_PIN : Fld := ⟨CHN_PIN, 7, 0⟩

/-- CHN_CTRL, 32 bits. -/
abbrev CHN_CTRL : Nat := 0x38001C
abbrev CHN_CTRL_REMEASURE : Fld := ⟨CHN_CTRL, 0, 0⟩
abbrev CHN_CTRL_CLR : Fld := ⟨CHN_CTRL, 1, 1⟩

/-- CHN_PORT_STAT, 32 bits. -/
abbrev CHN_PORT_STAT (p : Nat) : Nat := 0x380100 + 0x40 * p
abbrev CHN_PORT_STAT_STATE (p : Nat) : Fld := ⟨(CHN_PORT_STAT p), 1, 0⟩
abbrev CHN_PORT_STAT_WIDTH (p : Nat) : Fld := ⟨(CHN_PORT_STAT p), 6, 4⟩
abbrev CHN_PORT_STAT_GOOD (p : Nat) : Fld := ⟨(CHN_PORT_STAT p), 11, 8⟩
abbrev CHN_PORT_STAT_BLANE (p : Nat) : Fld := ⟨(CHN_PORT_STAT p), 13, 12⟩
abbrev CHN_PORT_STAT_RXINV (p : Nat) : Fld := ⟨(CHN_PORT_STAT p), 19, 16⟩
abbrev CHN_PORT_STAT_ORDER (p : Nat) : Fld := ⟨(CHN_PORT_STAT p), 31, 20⟩

/-- CHN_DELAY, 32 bits. -/
abbrev CHN_DELAY (p : Nat) (i : Nat) : Nat := 0x380110 + 0x40 * p + 0x4 * i
abbrev CHN_DELAY_PS (p : Nat) (i : Nat) : Fld := ⟨(CHN_DELAY p i), 31, 0⟩

/-- CHN_BEACON, 64 bits. -/
abbrev CHN_BEACON : Nat := 0x380200
abbrev CHN_BEACON_TICK_LO : Fld := ⟨CHN_BEACON, 15, 0⟩
abbrev CHN_BEACON_HOLD : Fld := ⟨CHN_BEACON, 16, 16⟩
abbrev CHN_BEACON_HOPS : Fld := ⟨CHN_BEACON, 31, 24⟩
abbrev CHN_BEACON_OFFSET : Fld := ⟨CHN_BEACON, 63, 32⟩

/-- CHN_CNT, 64 bits. -/
abbrev CHN_CNT : Nat := 0x380208
abbrev CHN_CNT_MISSED : Fld := ⟨CHN_CNT, 15, 0⟩
abbrev CHN_CNT_LANE_FAIL : Fld := ⟨CHN_CNT, 31, 16⟩
abbrev CHN_CNT_BCAST : Fld := ⟨CHN_CNT, 47, 32⟩
abbrev CHN_CNT_BCAST_BAD : Fld := ⟨CHN_CNT, 63, 48⟩

/-- CHN_BCAST_LAST, 64 bits. -/
abbrev CHN_BCAST_LAST : Nat := 0x380210
abbrev CHN_BCAST_LAST_STATUS : Fld := ⟨CHN_BCAST_LAST, 7, 0⟩
abbrev CHN_BCAST_LAST_OPCODE : Fld := ⟨CHN_BCAST_LAST, 15, 8⟩
abbrev CHN_BCAST_LAST_ORIGIN : Fld := ⟨CHN_BCAST_LAST, 23, 16⟩
abbrev CHN_BCAST_LAST_SEQ : Fld := ⟨CHN_BCAST_LAST, 31, 24⟩
abbrev CHN_BCAST_LAST_AT_TICK : Fld := ⟨CHN_BCAST_LAST, 63, 32⟩

/-- TIME_BLK_CAP, 32 bits. -/
abbrev TIME_BLK_CAP : Nat := 0x390004
abbrev TIME_BLK_CAP_BASES : Fld := ⟨TIME_BLK_CAP, 3, 0⟩
abbrev TIME_BLK_CAP_CMPS : Fld := ⟨TIME_BLK_CAP, 7, 4⟩
abbrev TIME_BLK_CAP_DOMAINS : Fld := ⟨TIME_BLK_CAP, 9, 8⟩

/-- TIME_CFG, 32 bits. -/
abbrev TIME_CFG : Nat := 0x390010
abbrev TIME_CFG_SLEW_PPM : Fld := ⟨TIME_CFG, 6, 0⟩
abbrev TIME_CFG_AUTO_SWITCH : Fld := ⟨TIME_CFG, 8, 8⟩
abbrev TIME_CFG_SYNC_DISC : Fld := ⟨TIME_CFG, 9, 9⟩
abbrev TIME_CFG_TB3_SRC : Fld := ⟨TIME_CFG, 13, 12⟩
abbrev TIME_CFG_STEP_NS : Fld := ⟨TIME_CFG, 31, 16⟩

/-- TIME_SYNC, 32 bits. -/
abbrev TIME_SYNC : Nat := 0x390014
abbrev TIME_SYNC_PERIOD : Fld := ⟨TIME_SYNC, 31, 0⟩

/-- TIME_HANDOVER, 64 bits. -/
abbrev TIME_HANDOVER : Nat := 0x390018
abbrev TIME_HANDOVER_D : Fld := ⟨TIME_HANDOVER, 63, 0⟩

/-- TIME_TICK_CTRL, 32 bits. -/
abbrev TIME_TICK_CTRL : Nat := 0x390100
abbrev TIME_TICK_CTRL_SEL : Fld := ⟨TIME_TICK_CTRL, 1, 0⟩
abbrev TIME_TICK_CTRL_HANDOVER : Fld := ⟨TIME_TICK_CTRL, 4, 4⟩
abbrev TIME_TICK_CTRL_CNT_CLR : Fld := ⟨TIME_TICK_CTRL, 8, 8⟩

/-- TIME_TICK_T0, 64 bits. -/
abbrev TIME_TICK_T0 : Nat := 0x390108
abbrev TIME_TICK_T0_T0 : Fld := ⟨TIME_TICK_T0, 63, 0⟩

/-- TIME_TICK_K0, 64 bits. -/
abbrev TIME_TICK_K0 : Nat := 0x390110
abbrev TIME_TICK_K0_K0 : Fld := ⟨TIME_TICK_K0, 63, 0⟩

/-- TIME_TICK_PERIOD, 64 bits. -/
abbrev TIME_TICK_PERIOD : Nat := 0x390118
abbrev TIME_TICK_PERIOD_P : Fld := ⟨TIME_TICK_PERIOD, 63, 0⟩

/-- TIME_TICK_PERIOD_CUR, 64 bits. -/
abbrev TIME_TICK_PERIOD_CUR : Nat := 0x390120
abbrev TIME_TICK_PERIOD_CUR_P : Fld := ⟨TIME_TICK_PERIOD_CUR, 63, 0⟩

/-- TIME_TICK_COUNT, 64 bits. -/
abbrev TIME_TICK_COUNT : Nat := 0x390128
abbrev TIME_TICK_COUNT_K : Fld := ⟨TIME_TICK_COUNT, 63, 0⟩

/-- TIME_TICK_LAST, 64 bits. -/
abbrev TIME_TICK_LAST : Nat := 0x390130
abbrev TIME_TICK_LAST_TT : Fld := ⟨TIME_TICK_LAST, 63, 0⟩

/-- TIME_TICK_STAT, 32 bits. -/
abbrev TIME_TICK_STAT : Nat := 0x390138
abbrev TIME_TICK_STAT_SLIP_CNT : Fld := ⟨TIME_TICK_STAT, 15, 0⟩
abbrev TIME_TICK_STAT_DEFER_CNT : Fld := ⟨TIME_TICK_STAT, 31, 16⟩

/-- TIME_TB_NOW, 64 bits. -/
abbrev TIME_TB_NOW (b : Nat) : Nat := 0x390200 + 0x40 * b
abbrev TIME_TB_NOW_COUNT (b : Nat) : Fld := ⟨(TIME_TB_NOW b), 63, 0⟩

/-- TIME_TB_SEC, 64 bits. -/
abbrev TIME_TB_SEC (b : Nat) : Nat := 0x390208 + 0x40 * b
abbrev TIME_TB_SEC_SEC (b : Nat) : Fld := ⟨(TIME_TB_SEC b), 47, 0⟩

/-- TIME_TB_NS, 32 bits. -/
abbrev TIME_TB_NS (b : Nat) : Nat := 0x390210 + 0x40 * b
abbrev TIME_TB_NS_NS (b : Nat) : Fld := ⟨(TIME_TB_NS b), 31, 0⟩

/-- TIME_TB_RATE, 32 bits. -/
abbrev TIME_TB_RATE (b : Nat) : Nat := 0x390214 + 0x40 * b
abbrev TIME_TB_RATE_RATE (b : Nat) : Fld := ⟨(TIME_TB_RATE b), 31, 0⟩

/-- TIME_TB_STAT, 32 bits. -/
abbrev TIME_TB_STAT (b : Nat) : Nat := 0x390218 + 0x40 * b
abbrev TIME_TB_STAT_STATE (b : Nat) : Fld := ⟨(TIME_TB_STAT b), 1, 0⟩
abbrev TIME_TB_STAT_SLEWING (b : Nat) : Fld := ⟨(TIME_TB_STAT b), 2, 2⟩
abbrev TIME_TB_STAT_STEPS (b : Nat) : Fld := ⟨(TIME_TB_STAT b), 31, 16⟩

/-- TIME_TB_OFFSET, 64 bits. -/
abbrev TIME_TB_OFFSET (b : Nat) : Nat := 0x390220 + 0x40 * b
abbrev TIME_TB_OFFSET_OFFSET (b : Nat) : Fld := ⟨(TIME_TB_OFFSET b), 63, 0⟩

/-- TIME_TB0_SET_SEC, 64 bits. -/
abbrev TIME_TB0_SET_SEC : Nat := 0x390300
abbrev TIME_TB0_SET_SEC_SEC : Fld := ⟨TIME_TB0_SET_SEC, 47, 0⟩

/-- TIME_TB0_SET_NS, 32 bits. -/
abbrev TIME_TB0_SET_NS : Nat := 0x390308
abbrev TIME_TB0_SET_NS_NS : Fld := ⟨TIME_TB0_SET_NS, 31, 0⟩

/-- TIME_CMP_CFG, 32 bits. -/
abbrev TIME_CMP_CFG (n : Nat) : Nat := 0x390400 + 0x20 * n
abbrev TIME_CMP_CFG_EN (n : Nat) : Fld := ⟨(TIME_CMP_CFG n), 0, 0⟩
abbrev TIME_CMP_CFG_BASE (n : Nat) : Fld := ⟨(TIME_CMP_CFG n), 2, 1⟩
abbrev TIME_CMP_CFG_PERIODIC (n : Nat) : Fld := ⟨(TIME_CMP_CFG n), 3, 3⟩
abbrev TIME_CMP_CFG_OUT (n : Nat) : Fld := ⟨(TIME_CMP_CFG n), 4, 4⟩
abbrev TIME_CMP_CFG_LATE (n : Nat) : Fld := ⟨(TIME_CMP_CFG n), 5, 5⟩
abbrev TIME_CMP_CFG_WIDTH (n : Nat) : Fld := ⟨(TIME_CMP_CFG n), 15, 8⟩
abbrev TIME_CMP_CFG_FIRED (n : Nat) : Fld := ⟨(TIME_CMP_CFG n), 31, 16⟩

/-- TIME_CMP_TARGET, 64 bits. -/
abbrev TIME_CMP_TARGET (n : Nat) : Nat := 0x390408 + 0x20 * n
abbrev TIME_CMP_TARGET_TARGET (n : Nat) : Fld := ⟨(TIME_CMP_TARGET n), 63, 0⟩

/-- TIME_CMP_PERIOD, 64 bits. -/
abbrev TIME_CMP_PERIOD (n : Nat) : Nat := 0x390410 + 0x20 * n
abbrev TIME_CMP_PERIOD_PERIOD (n : Nat) : Fld := ⟨(TIME_CMP_PERIOD n), 63, 0⟩

/-- TIME_PTP_CFG, 32 bits. -/
abbrev TIME_PTP_CFG (d : Nat) : Nat := 0x390500 + 0x40 * d
abbrev TIME_PTP_CFG_DOMAIN (d : Nat) : Fld := ⟨(TIME_PTP_CFG d), 7, 0⟩
abbrev TIME_PTP_CFG_L2 (d : Nat) : Fld := ⟨(TIME_PTP_CFG d), 8, 8⟩
abbrev TIME_PTP_CFG_P2P (d : Nat) : Fld := ⟨(TIME_PTP_CFG d), 9, 9⟩
abbrev TIME_PTP_CFG_PROFILE (d : Nat) : Fld := ⟨(TIME_PTP_CFG d), 11, 10⟩
abbrev TIME_PTP_CFG_VLAN (d : Nat) : Fld := ⟨(TIME_PTP_CFG d), 12, 12⟩
abbrev TIME_PTP_CFG_VID (d : Nat) : Fld := ⟨(TIME_PTP_CFG d), 27, 16⟩

/-- TIME_PTP_STAT, 32 bits. -/
abbrev TIME_PTP_STAT (d : Nat) : Nat := 0x390508 + 0x40 * d
abbrev TIME_PTP_STAT_PORT_STATE (d : Nat) : Fld := ⟨(TIME_PTP_STAT d), 3, 0⟩
abbrev TIME_PTP_STAT_GM_CLASS (d : Nat) : Fld := ⟨(TIME_PTP_STAT d), 15, 8⟩
abbrev TIME_PTP_STAT_MPD (d : Nat) : Fld := ⟨(TIME_PTP_STAT d), 31, 16⟩

/-- TIME_PTP_GM, 64 bits. -/
abbrev TIME_PTP_GM (d : Nat) : Nat := 0x390510 + 0x40 * d
abbrev TIME_PTP_GM_IDENTITY (d : Nat) : Fld := ⟨(TIME_PTP_GM d), 63, 0⟩

/-- TIME_PTP_CNT, 64 bits. -/
abbrev TIME_PTP_CNT (d : Nat) : Nat := 0x390518 + 0x40 * d
abbrev TIME_PTP_CNT_SYNC (d : Nat) : Fld := ⟨(TIME_PTP_CNT d), 31, 0⟩
abbrev TIME_PTP_CNT_TIMEOUT (d : Nat) : Fld := ⟨(TIME_PTP_CNT d), 47, 32⟩
abbrev TIME_PTP_CNT_BAD (d : Nat) : Fld := ⟨(TIME_PTP_CNT d), 63, 48⟩

/-- TIME_PTP_PORT, 64 bits. -/
abbrev TIME_PTP_PORT : Nat := 0x390580
abbrev TIME_PTP_PORT_IPV4 : Fld := ⟨TIME_PTP_PORT, 31, 0⟩
abbrev TIME_PTP_PORT_PREFIX : Fld := ⟨TIME_PTP_PORT, 37, 32⟩

/-- TIME_PTP_LAT, 32 bits. -/
abbrev TIME_PTP_LAT : Nat := 0x390588
abbrev TIME_PTP_LAT_RX : Fld := ⟨TIME_PTP_LAT, 15, 0⟩
abbrev TIME_PTP_LAT_TX : Fld := ⟨TIME_PTP_LAT, 31, 16⟩

/-- CLK_BLK_CAP, 32 bits. -/
abbrev CLK_BLK_CAP : Nat := 0x3A0004
abbrev CLK_BLK_CAP_PLLS : Fld := ⟨CLK_BLK_CAP, 3, 0⟩
abbrev CLK_BLK_CAP_SSC : Fld := ⟨CLK_BLK_CAP, 15, 8⟩

/-- CLK_REF_STAT, 32 bits. -/
abbrev CLK_REF_STAT : Nat := 0x3A0010
abbrev CLK_REF_STAT_PRESENT : Fld := ⟨CLK_REF_STAT, 3, 0⟩
abbrev CLK_REF_STAT_LOST : Fld := ⟨CLK_REF_STAT, 7, 4⟩
abbrev CLK_REF_STAT_PPM : Fld := ⟨CLK_REF_STAT, 31, 16⟩

/-- CLK_CTRL, 32 bits. -/
abbrev CLK_CTRL : Nat := 0x3A0014
abbrev CLK_CTRL_CLR : Fld := ⟨CLK_CTRL, 0, 0⟩

/-- CLK_PLL_MULT, 32 bits. -/
abbrev CLK_PLL_MULT (p : Nat) : Nat := 0x3A0100 + 0x40 * p
abbrev CLK_PLL_MULT_FRAC (p : Nat) : Fld := ⟨(CLK_PLL_MULT p), 21, 0⟩
abbrev CLK_PLL_MULT_INT (p : Nat) : Fld := ⟨(CLK_PLL_MULT p), 31, 22⟩

/-- CLK_PLL_SSC, 32 bits. -/
abbrev CLK_PLL_SSC (p : Nat) : Nat := 0x3A0104 + 0x40 * p
abbrev CLK_PLL_SSC_MODE (p : Nat) : Fld := ⟨(CLK_PLL_SSC p), 1, 0⟩
abbrev CLK_PLL_SSC_DEPTH (p : Nat) : Fld := ⟨(CLK_PLL_SSC p), 13, 8⟩
abbrev CLK_PLL_SSC_RATE (p : Nat) : Fld := ⟨(CLK_PLL_SSC p), 20, 16⟩

/-- CLK_PLL_CTRL, 32 bits. -/
abbrev CLK_PLL_CTRL (p : Nat) : Nat := 0x3A0108 + 0x40 * p
abbrev CLK_PLL_CTRL_APPLY (p : Nat) : Fld := ⟨(CLK_PLL_CTRL p), 0, 0⟩

/-- CLK_PLL_STAT, 32 bits. -/
abbrev CLK_PLL_STAT (p : Nat) : Nat := 0x3A010C + 0x40 * p
abbrev CLK_PLL_STAT_STATE (p : Nat) : Fld := ⟨(CLK_PLL_STAT p), 2, 0⟩
abbrev CLK_PLL_STAT_GATED (p : Nat) : Fld := ⟨(CLK_PLL_STAT p), 4, 4⟩
abbrev CLK_PLL_STAT_DEV (p : Nat) : Fld := ⟨(CLK_PLL_STAT p), 31, 16⟩

/-- CLK_PLL_CNT, 32 bits. -/
abbrev CLK_PLL_CNT (p : Nat) : Nat := 0x3A0110 + 0x40 * p
abbrev CLK_PLL_CNT_LOSSES (p : Nat) : Fld := ⟨(CLK_PLL_CNT p), 15, 0⟩
abbrev CLK_PLL_CNT_OVERSHOOT (p : Nat) : Fld := ⟨(CLK_PLL_CNT p), 31, 16⟩

/-- CLK_TPLL_CFG, 32 bits. -/
abbrev CLK_TPLL_CFG : Nat := 0x3A0400
abbrev CLK_TPLL_CFG_REF : Fld := ⟨CLK_TPLL_CFG, 0, 0⟩
abbrev CLK_TPLL_CFG_PBO : Fld := ⟨CLK_TPLL_CFG, 2, 1⟩
abbrev CLK_TPLL_CFG_SLEW_PPM : Fld := ⟨CLK_TPLL_CFG, 14, 8⟩

/-- CLK_TPLL_STEER, 32 bits. -/
abbrev CLK_TPLL_STEER : Nat := 0x3A0408
abbrev CLK_TPLL_STEER_STEER : Fld := ⟨CLK_TPLL_STEER, 31, 0⟩

/-- CLK_TPLL_PBO, 32 bits. -/
abbrev CLK_TPLL_PBO : Nat := 0x3A040C
abbrev CLK_TPLL_PBO_OFFSET : Fld := ⟨CLK_TPLL_PBO, 31, 0⟩

/-- CLK_OUT, 32 bits. -/
abbrev CLK_OUT (p : Nat) (o : Nat) : Nat := 0x3A1000 + 0x100 * p + 0x4 * o
abbrev CLK_OUT_DIV (p : Nat) (o : Nat) : Fld := ⟨(CLK_OUT p o), 7, 0⟩
abbrev CLK_OUT_DELAY (p : Nat) (o : Nat) : Fld := ⟨(CLK_OUT p o), 15, 8⟩
abbrev CLK_OUT_EN (p : Nat) (o : Nat) : Fld := ⟨(CLK_OUT p o), 16, 16⟩

/-- RAIL_BLK_CAP, 32 bits. -/
abbrev RAIL_BLK_CAP : Nat := 0x3B0004
abbrev RAIL_BLK_CAP_RAILS : Fld := ⟨RAIL_BLK_CAP, 3, 0⟩
abbrev RAIL_BLK_CAP_VRMS : Fld := ⟨RAIL_BLK_CAP, 7, 4⟩

/-- RAIL_CTRL, 32 bits. -/
abbrev RAIL_CTRL : Nat := 0x3B0010
abbrev RAIL_CTRL_UP : Fld := ⟨RAIL_CTRL, 0, 0⟩
abbrev RAIL_CTRL_DOWN : Fld := ⟨RAIL_CTRL, 1, 1⟩

/-- RAIL_STAT, 32 bits. -/
abbrev RAIL_STAT : Nat := 0x3B0014
abbrev RAIL_STAT_USE : Fld := ⟨RAIL_STAT, 3, 0⟩
abbrev RAIL_STAT_PGOOD : Fld := ⟨RAIL_STAT, 7, 4⟩
abbrev RAIL_STAT_SEQ : Fld := ⟨RAIL_STAT, 9, 8⟩
abbrev RAIL_STAT_VINT_OK : Fld := ⟨RAIL_STAT, 12, 12⟩

/-- RAIL_FAULT_STAT, 32 bits. -/
abbrev RAIL_FAULT_STAT : Nat := 0x3B0018
abbrev RAIL_FAULT_STAT_FAULT : Fld := ⟨RAIL_FAULT_STAT, 3, 0⟩
abbrev RAIL_FAULT_STAT_VRM : Fld := ⟨RAIL_FAULT_STAT, 7, 4⟩
abbrev RAIL_FAULT_STAT_COUNT : Fld := ⟨RAIL_FAULT_STAT, 31, 16⟩

/-- RAIL_VIN, 32 bits. -/
abbrev RAIL_VIN : Nat := 0x3B001C
abbrev RAIL_VIN_MV : Fld := ⟨RAIL_VIN, 15, 0⟩
abbrev RAIL_VIN_WARN : Fld := ⟨RAIL_VIN, 16, 16⟩

/-- RAIL_CFG, 64 bits. -/
abbrev RAIL_CFG (i : Nat) : Nat := 0x3B0100 + 0x20 * i
abbrev RAIL_CFG_TARGET (i : Nat) : Fld := ⟨(RAIL_CFG i), 15, 0⟩
abbrev RAIL_CFG_DELAY (i : Nat) : Fld := ⟨(RAIL_CFG i), 23, 16⟩
abbrev RAIL_CFG_SLOPE (i : Nat) : Fld := ⟨(RAIL_CFG i), 31, 24⟩
abbrev RAIL_CFG_ILIM (i : Nat) : Fld := ⟨(RAIL_CFG i), 47, 32⟩

/-- RAIL_MEAS, 32 bits. -/
abbrev RAIL_MEAS (i : Nat) : Nat := 0x3B0108 + 0x20 * i
abbrev RAIL_MEAS_V (i : Nat) : Fld := ⟨(RAIL_MEAS i), 15, 0⟩
abbrev RAIL_MEAS_I (i : Nat) : Fld := ⟨(RAIL_MEAS i), 31, 16⟩

/-- RAIL_ABS, 64 bits. -/
abbrev RAIL_ABS (i : Nat) : Nat := 0x3B0110 + 0x20 * i
abbrev RAIL_ABS_VMIN (i : Nat) : Fld := ⟨(RAIL_ABS i), 15, 0⟩
abbrev RAIL_ABS_VMAX (i : Nat) : Fld := ⟨(RAIL_ABS i), 31, 16⟩
abbrev RAIL_ABS_IMAX (i : Nat) : Fld := ⟨(RAIL_ABS i), 47, 32⟩

/-- RAIL_VRM_STAT, 64 bits. -/
abbrev RAIL_VRM_STAT (r : Nat) : Nat := 0x3B0200 + 0x10 * r
abbrev RAIL_VRM_STAT_STATUS (r : Nat) : Fld := ⟨(RAIL_VRM_STAT r), 15, 0⟩
abbrev RAIL_VRM_STAT_VOUT (r : Nat) : Fld := ⟨(RAIL_VRM_STAT r), 31, 16⟩
abbrev RAIL_VRM_STAT_WARN (r : Nat) : Fld := ⟨(RAIL_VRM_STAT r), 47, 32⟩
abbrev RAIL_VRM_STAT_STATE (r : Nat) : Fld := ⟨(RAIL_VRM_STAT r), 50, 48⟩

/-- LENS_BLK_CAP, 32 bits. -/
abbrev LENS_BLK_CAP : Nat := 0x3C0004
abbrev LENS_BLK_CAP_COMMONS : Fld := ⟨LENS_BLK_CAP, 4, 0⟩
abbrev LENS_BLK_CAP_SEGMENTS : Fld := ⟨LENS_BLK_CAP, 14, 8⟩
abbrev LENS_BLK_CAP_BANDS : Fld := ⟨LENS_BLK_CAP, 19, 16⟩

/-- LENS_CTRL, 32 bits. -/
abbrev LENS_CTRL : Nat := 0x3C0010
abbrev LENS_CTRL_HOLD : Fld := ⟨LENS_CTRL, 0, 0⟩

/-- LENS_STAT, 64 bits. -/
abbrev LENS_STAT : Nat := 0x3C0018
abbrev LENS_STAT_COMMON : Fld := ⟨LENS_STAT, 3, 0⟩
abbrev LENS_STAT_DRIVING : Fld := ⟨LENS_STAT, 4, 4⟩
abbrev LENS_STAT_BAND : Fld := ⟨LENS_STAT, 10, 8⟩
abbrev LENS_STAT_TEMP : Fld := ⟨LENS_STAT, 31, 16⟩
abbrev LENS_STAT_ELAPSED : Fld := ⟨LENS_STAT, 47, 32⟩

/-- LENS_CSTATE, 64 bits. -/
abbrev LENS_CSTATE : Nat := 0x3C0020
abbrev LENS_CSTATE_STATE : Fld := ⟨LENS_CSTATE, 63, 0⟩

/-- LENS_FAULT_CNT, 32 bits. -/
abbrev LENS_FAULT_CNT : Nat := 0x3C0030
abbrev LENS_FAULT_CNT_FAULTS : Fld := ⟨LENS_FAULT_CNT, 15, 0⟩
abbrev LENS_FAULT_CNT_RECOVERED : Fld := ⟨LENS_FAULT_CNT, 31, 16⟩

/-- LENS_LEVEL, 32 bits. -/
abbrev LENS_LEVEL (i : Nat) : Nat := 0x3C0100 + 0x4 * i
abbrev LENS_LEVEL_LEVEL (i : Nat) (j : Nat) : Fld := ⟨(LENS_LEVEL i), 4 * j + 2, 4 * j + 0⟩

/-- LENS_TARGET, 32 bits. -/
abbrev LENS_TARGET (i : Nat) : Nat := 0x3C0400 + 0x4 * i
abbrev LENS_TARGET_TARGET (i : Nat) (j : Nat) : Fld := ⟨(LENS_TARGET i), 4 * j + 2, 4 * j + 0⟩

/-- NVM_BLK_CAP, 32 bits. -/
abbrev NVM_BLK_CAP : Nat := 0x3D0004
abbrev NVM_BLK_CAP_PAGES : Fld := ⟨NVM_BLK_CAP, 15, 0⟩
abbrev NVM_BLK_CAP_PAGE_LOG2 : Fld := ⟨NVM_BLK_CAP, 19, 16⟩
abbrev NVM_BLK_CAP_BLOCKS : Fld := ⟨NVM_BLK_CAP, 23, 20⟩

/-- NVM_STAT, 32 bits. -/
abbrev NVM_STAT : Nat := 0x3D0010
abbrev NVM_STAT_BUSY : Fld := ⟨NVM_STAT, 0, 0⟩
abbrev NVM_STAT_LBUSY : Fld := ⟨NVM_STAT, 1, 1⟩
abbrev NVM_STAT_QUEUE : Fld := ⟨NVM_STAT, 7, 4⟩
abbrev NVM_STAT_SESSION : Fld := ⟨NVM_STAT, 8, 8⟩
abbrev NVM_STAT_PW_SET : Fld := ⟨NVM_STAT, 9, 9⟩
abbrev NVM_STAT_LOCKOUT : Fld := ⟨NVM_STAT, 10, 10⟩
abbrev NVM_STAT_BP : Fld := ⟨NVM_STAT, 13, 12⟩
abbrev NVM_STAT_PAGE : Fld := ⟨NVM_STAT, 28, 16⟩

/-- NVM_CTRL, 32 bits. -/
abbrev NVM_CTRL : Nat := 0x3D0014
abbrev NVM_CTRL_CLR : Fld := ⟨NVM_CTRL, 0, 0⟩

/-- NVM_CNT, 64 bits. -/
abbrev NVM_CNT : Nat := 0x3D0018
abbrev NVM_CNT_WRITES : Fld := ⟨NVM_CNT, 31, 0⟩
abbrev NVM_CNT_CE : Fld := ⟨NVM_CNT, 47, 32⟩
abbrev NVM_CNT_UE : Fld := ⟨NVM_CNT, 63, 48⟩

/-- NVM_TORN, 64 bits. -/
abbrev NVM_TORN : Nat := 0x3D0020
abbrev NVM_TORN_PAGE : Fld := ⟨NVM_TORN, 12, 0⟩
abbrev NVM_TORN_LENS : Fld := ⟨NVM_TORN, 13, 13⟩
abbrev NVM_TORN_FIRST : Fld := ⟨NVM_TORN, 20, 16⟩
abbrev NVM_TORN_LAST : Fld := ⟨NVM_TORN, 28, 24⟩
abbrev NVM_TORN_VALID : Fld := ⟨NVM_TORN, 31, 31⟩
abbrev NVM_TORN_COUNT : Fld := ⟨NVM_TORN, 33, 32⟩

/-- NVM_ECC_LAST, 32 bits. -/
abbrev NVM_ECC_LAST : Nat := 0x3D0028
abbrev NVM_ECC_LAST_OFFSET : Fld := ⟨NVM_ECC_LAST, 20, 0⟩
abbrev NVM_ECC_LAST_KIND : Fld := ⟨NVM_ECC_LAST, 25, 24⟩

/-- NVM_WSEQ, 64 bits. -/
abbrev NVM_WSEQ : Nat := 0x3D0030
abbrev NVM_WSEQ_MAIN : Fld := ⟨NVM_WSEQ, 23, 0⟩
abbrev NVM_WSEQ_LENS : Fld := ⟨NVM_WSEQ, 55, 32⟩

/-- NVM_UNLOCK_STAT, 32 bits. -/
abbrev NVM_UNLOCK_STAT : Nat := 0x3D0038
abbrev NVM_UNLOCK_STAT_FAILS : Fld := ⟨NVM_UNLOCK_STAT, 3, 0⟩

/-- NVM_PATROL, 32 bits. -/
abbrev NVM_PATROL : Nat := 0x3D003C
abbrev NVM_PATROL_PAGE : Fld := ⟨NVM_PATROL, 12, 0⟩
abbrev NVM_PATROL_REWRITES : Fld := ⟨NVM_PATROL, 31, 16⟩

/-- MGMT_BLK_CAP, 32 bits. -/
abbrev MGMT_BLK_CAP : Nat := 0x3E0004
abbrev MGMT_BLK_CAP_SOURCES : Fld := ⟨MGMT_BLK_CAP, 8, 0⟩
abbrev MGMT_BLK_CAP_DEPTH : Fld := ⟨MGMT_BLK_CAP, 15, 12⟩
abbrev MGMT_BLK_CAP_SENSORS : Fld := ⟨MGMT_BLK_CAP, 20, 16⟩

/-- MGMT_EV_PEND, 64 bits. -/
abbrev MGMT_EV_PEND (i : Nat) : Nat := 0x3E0100 + 0x8 * i
abbrev MGMT_EV_PEND_PEND (i : Nat) : Fld := ⟨(MGMT_EV_PEND i), 63, 0⟩

/-- MGMT_FF_SRC, 32 bits. -/
abbrev MGMT_FF_SRC : Nat := 0x3E0200
abbrev MGMT_FF_SRC_SRC : Fld := ⟨MGMT_FF_SRC, 7, 0⟩
abbrev MGMT_FF_SRC_STATE : Fld := ⟨MGMT_FF_SRC, 10, 8⟩
abbrev MGMT_FF_SRC_WHY : Fld := ⟨MGMT_FF_SRC, 15, 12⟩
abbrev MGMT_FF_SRC_VALID : Fld := ⟨MGMT_FF_SRC, 16, 16⟩
abbrev MGMT_FF_SRC_RESTORED : Fld := ⟨MGMT_FF_SRC, 17, 17⟩

/-- MGMT_FF_TIME, 64 bits. -/
abbrev MGMT_FF_TIME : Nat := 0x3E0208
abbrev MGMT_FF_TIME_TIME : Fld := ⟨MGMT_FF_TIME, 63, 0⟩

/-- MGMT_FF_DATA, 64 bits. -/
abbrev MGMT_FF_DATA (i : Nat) : Nat := 0x3E0210 + 0x8 * i
abbrev MGMT_FF_DATA_DATA (i : Nat) : Fld := ⟨(MGMT_FF_DATA i), 63, 0⟩

/-- MGMT_ESC, 32 bits. -/
abbrev MGMT_ESC : Nat := 0x3E0240
abbrev MGMT_ESC_SRC : Fld := ⟨MGMT_ESC, 7, 0⟩
abbrev MGMT_ESC_UNIT : Fld := ⟨MGMT_ESC, 15, 8⟩
abbrev MGMT_ESC_INDEX : Fld := ⟨MGMT_ESC, 23, 16⟩
abbrev MGMT_ESC_WAITING : Fld := ⟨MGMT_ESC, 31, 24⟩

/-- MGMT_SNUFF_STAT, 32 bits. -/
abbrev MGMT_SNUFF_STAT : Nat := 0x3E0300
abbrev MGMT_SNUFF_STAT_HOLD : Fld := ⟨MGMT_SNUFF_STAT, 9, 1⟩
abbrev MGMT_SNUFF_STAT_LOW : Fld := ⟨MGMT_SNUFF_STAT, 15, 12⟩
abbrev MGMT_SNUFF_STAT_COUNT : Fld := ⟨MGMT_SNUFF_STAT, 31, 16⟩

/-- MGMT_IN_STAT, 32 bits. -/
abbrev MGMT_IN_STAT : Nat := 0x3E0310
abbrev MGMT_IN_STAT_LEVEL : Fld := ⟨MGMT_IN_STAT, 5, 0⟩
abbrev MGMT_IN_STAT_FAULT : Fld := ⟨MGMT_IN_STAT, 13, 8⟩
abbrev MGMT_IN_STAT_SYNC_IGN : Fld := ⟨MGMT_IN_STAT, 31, 16⟩

/-- MGMT_THERM_CFG, 32 bits. -/
abbrev MGMT_THERM_CFG : Nat := 0x3E0400
abbrev MGMT_THERM_CFG_WARN : Fld := ⟨MGMT_THERM_CFG, 7, 0⟩
abbrev MGMT_THERM_CFG_HYST : Fld := ⟨MGMT_THERM_CFG, 11, 8⟩

/-- MGMT_THERM_STAT, 32 bits. -/
abbrev MGMT_THERM_STAT : Nat := 0x3E0404
abbrev MGMT_THERM_STAT_TJ : Fld := ⟨MGMT_THERM_STAT, 15, 0⟩
abbrev MGMT_THERM_STAT_SENSOR : Fld := ⟨MGMT_THERM_STAT, 19, 16⟩
abbrev MGMT_THERM_STAT_LEVEL : Fld := ⟨MGMT_THERM_STAT, 21, 20⟩

/-- MGMT_THERM_SENS, 32 bits. -/
abbrev MGMT_THERM_SENS (i : Nat) : Nat := 0x3E0410 + 0x4 * i
abbrev MGMT_THERM_SENS_TEMP (i : Nat) : Fld := ⟨(MGMT_THERM_SENS i), 15, 0⟩
abbrev MGMT_THERM_SENS_INVALID (i : Nat) : Fld := ⟨(MGMT_THERM_SENS i), 16, 16⟩

/-- MGMT_WDOG, 32 bits. -/
abbrev MGMT_WDOG : Nat := 0x3E0500
abbrev MGMT_WDOG_RESTARTS : Fld := ⟨MGMT_WDOG, 15, 0⟩

/-- MGMT_LOG_STAT, 64 bits. -/
abbrev MGMT_LOG_STAT : Nat := 0x3E0600
abbrev MGMT_LOG_STAT_PLACE : Fld := ⟨MGMT_LOG_STAT, 7, 0⟩
abbrev MGMT_LOG_STAT_SEQ : Fld := ⟨MGMT_LOG_STAT, 31, 8⟩
abbrev MGMT_LOG_STAT_RING : Fld := ⟨MGMT_LOG_STAT, 37, 32⟩
abbrev MGMT_LOG_STAT_FLUSHED : Fld := ⟨MGMT_LOG_STAT, 40, 40⟩

/-- MGMT_LOG_CTRL, 32 bits. -/
abbrev MGMT_LOG_CTRL : Nat := 0x3E0608
abbrev MGMT_LOG_CTRL_UPDATE : Fld := ⟨MGMT_LOG_CTRL, 0, 0⟩

/-- MGMT_EV_CNT, 32 bits. -/
abbrev MGMT_EV_CNT (s : Nat) : Nat := 0x3E1000 + 0x40 * s
abbrev MGMT_EV_CNT_COUNT (s : Nat) : Fld := ⟨(MGMT_EV_CNT s), 15, 0⟩
abbrev MGMT_EV_CNT_OVF (s : Nat) : Fld := ⟨(MGMT_EV_CNT s), 16, 16⟩
abbrev MGMT_EV_CNT_FIRST_VALID (s : Nat) : Fld := ⟨(MGMT_EV_CNT s), 17, 17⟩
abbrev MGMT_EV_CNT_FORCED (s : Nat) : Fld := ⟨(MGMT_EV_CNT s), 18, 18⟩

/-- MGMT_EV_TIME, 64 bits. -/
abbrev MGMT_EV_TIME (s : Nat) : Nat := 0x3E1008 + 0x40 * s
abbrev MGMT_EV_TIME_TIME (s : Nat) : Fld := ⟨(MGMT_EV_TIME s), 63, 0⟩

/-- MGMT_EV_DATA, 64 bits. -/
abbrev MGMT_EV_DATA (s : Nat) (i : Nat) : Nat := 0x3E1010 + 0x40 * s + 0x8 * i
abbrev MGMT_EV_DATA_DATA (s : Nat) (i : Nat) : Fld := ⟨(MGMT_EV_DATA s i), 63, 0⟩

end Reg

/-- Register map of the HOST window (Table 1-1). -/
def mapHost : List RegDef :=
  [⟨0x4, 1, 0x400000, 1, 0x400000, false, [⟨2, 0, .ro, 7⟩, ⟨14, 8, .ro, 0x40⟩, ⟨17, 16, .ro, 2⟩]⟩,
   ⟨0x10, 1, 0x400000, 1, 0x400000, true, [⟨15, 0, .ro, 0x1E5A⟩, ⟨31, 16, .ro, 0x192⟩, ⟨33, 32, .ro, 0⟩, ⟨47, 40, .ro, 0⟩]⟩,
   ⟨0x18, 1, 0x400000, 1, 0x400000, false, [⟨2, 0, .ro, 0⟩, ⟨4, 4, .ro, 0⟩, ⟨5, 5, .ro, 0⟩]⟩,
   ⟨0x1C, 1, 0x400000, 1, 0x400000, false, [⟨7, 0, .rw, 0⟩, ⟨8, 8, .sc, 0⟩]⟩,
   ⟨0x20, 1, 0x400000, 1, 0x400000, false, [⟨1, 0, .ro, 0⟩, ⟨6, 4, .ro, 0⟩, ⟨11, 8, .ro, 0⟩, ⟨31, 16, .ro, 0⟩]⟩,
   ⟨0x28, 1, 0x400000, 1, 0x400000, true, [⟨63, 0, .rw, 0⟩]⟩,
   ⟨0x30, 1, 0x400000, 1, 0x400000, true, [⟨15, 0, .ro, 0⟩, ⟨31, 16, .ro, 0⟩, ⟨47, 32, .ro, 0⟩, ⟨48, 48, .sc, 0⟩]⟩,
   ⟨0x40, 1, 0x400000, 1, 0x400000, true, [⟨63, 0, .wo, 0⟩]⟩,
   ⟨0x48, 1, 0x400000, 1, 0x400000, true, [⟨63, 0, .ro, 0⟩]⟩,
   ⟨0x50, 1, 0x400000, 1, 0x400000, true, [⟨63, 0, .ro, 0⟩]⟩,
   ⟨0x4000, 256, 0x4, 1, 0x400000, false, [⟨5, 0, .rw, 0⟩, ⟨8, 8, .rw, 1⟩]⟩]

/-- Register map of the CMD window (Table 1-1). -/
def mapCmd : List RegDef :=
  [⟨0x10004, 1, 0x400000, 1, 0x400000, false, [⟨3, 0, .ro, 8⟩, ⟨7, 4, .ro, 0xC⟩, ⟨11, 8, .ro, 4⟩]⟩,
   ⟨0x10100, 8, 0x40, 1, 0x400000, true, [⟨63, 0, .rw, 0⟩]⟩,
   ⟨0x10108, 8, 0x40, 1, 0x400000, false, [⟨3, 0, .rw, 4⟩, ⟨11, 8, .rw, 4⟩, ⟨21, 16, .rw, 0⟩]⟩,
   ⟨0x1010C, 8, 0x40, 1, 0x400000, false, [⟨31, 0, .wo, 0⟩]⟩,
   ⟨0x10110, 8, 0x40, 1, 0x400000, false, [⟨11, 0, .ro, 0⟩, ⟨27, 16, .ro, 0⟩]⟩,
   ⟨0x10114, 8, 0x40, 1, 0x400000, false, [⟨0, 0, .rw, 0⟩, ⟨1, 1, .sc, 0⟩]⟩,
   ⟨0x10118, 8, 0x40, 1, 0x400000, true, [⟨63, 0, .rw, 0⟩]⟩,
   ⟨0x10120, 8, 0x40, 1, 0x400000, false, [⟨11, 0, .rw, 0⟩, ⟨27, 16, .ro, 0⟩, ⟨28, 28, .ro, 1⟩]⟩,
   ⟨0x10124, 8, 0x40, 1, 0x400000, false, [⟨1, 0, .ro, 0⟩, ⟨7, 4, .ro, 0⟩, ⟨20, 8, .ro, 0⟩, ⟨31, 24, .ro, 0⟩]⟩,
   ⟨0x11000, 4, 0x20, 1, 0x400000, false, [⟨0, 0, .ro, 0⟩, ⟨1, 1, .ro, 0⟩, ⟨28, 16, .ro, 0⟩]⟩,
   ⟨0x11008, 4, 0x20, 1, 0x400000, true, [⟨63, 0, .ro, 0⟩]⟩,
   ⟨0x11010, 4, 0x20, 1, 0x400000, true, [⟨63, 0, .ro, 0⟩]⟩,
   ⟨0x11080, 1, 0x400000, 1, 0x400000, false, [⟨15, 0, .ro, 0⟩, ⟨19, 16, .ro, 0⟩, ⟨21, 20, .ro, 0⟩, ⟨31, 24, .ro, 0⟩]⟩]

/-- Register map of the STR window (Table 1-1). -/
def mapStr : List RegDef :=
  [⟨0x20004, 1, 0x400000, 1, 0x400000, false, [⟨7, 0, .ro, 0x40⟩, ⟨15, 8, .ro, 0x13⟩]⟩,
   ⟨0x20010, 1, 0x400000, 1, 0x400000, false, [⟨1, 0, .ro, 0⟩, ⟨2, 2, .ro, 0⟩, ⟨7, 4, .ro, 0⟩, ⟨11, 8, .ro, 0⟩, ⟨19, 16, .ro, 0⟩]⟩,
   ⟨0x20014, 1, 0x400000, 1, 0x400000, false, [⟨31, 0, .ro, 0⟩]⟩,
   ⟨0x20018, 1, 0x400000, 1, 0x400000, false, [⟨7, 0, .ro, 0⟩, ⟨23, 8, .ro, 0⟩, ⟨25, 24, .ro, 0⟩, ⟨27, 26, .ro, 0⟩]⟩,
   ⟨0x2001C, 1, 0x400000, 1, 0x400000, false, [⟨16, 0, .ro, 0⟩]⟩,
   ⟨0x20020, 1, 0x400000, 1, 0x400000, true, [⟨1, 0, .ro, 0⟩, ⟨31, 16, .ro, 0⟩, ⟨63, 32, .ro, 0⟩]⟩,
   ⟨0x20028, 1, 0x400000, 1, 0x400000, false, [⟨31, 0, .ro, 0⟩]⟩,
   ⟨0x20030, 1, 0x400000, 1, 0x400000, false, [⟨7, 0, .rw, 0xA⟩]⟩,
   ⟨0x20034, 1, 0x400000, 1, 0x400000, false, [⟨7, 0, .ro, 0⟩, ⟨15, 8, .ro, 0⟩, ⟨31, 16, .ro, 0⟩]⟩,
   ⟨0x20038, 1, 0x400000, 1, 0x400000, false, [⟨31, 0, .ro, 0⟩]⟩,
   ⟨0x20200, 1, 0x400000, 1, 0x400000, false, [⟨7, 0, .ro, 0⟩, ⟨9, 8, .ro, 0⟩, ⟨31, 16, .ro, 0⟩]⟩,
   ⟨0x20204, 1, 0x400000, 1, 0x400000, false, [⟨0, 0, .sc, 0⟩]⟩,
   ⟨0x20208, 1, 0x400000, 1, 0x400000, false, [⟨15, 0, .ro, 0⟩, ⟨31, 16, .ro, 0⟩]⟩,
   ⟨0x20210, 4, 0x4, 1, 0x400000, false, [⟨15, 0, .ro, 0⟩, ⟨31, 16, .ro, 0⟩]⟩]

/-- Register map of the MFB window (Table 1-1). -/
def mapMfb : List RegDef :=
  [⟨0x40004, 1, 0x400000, 1, 0x400000, false, [⟨12, 0, .ro, 0x1000⟩, ⟨19, 16, .ro, 8⟩, ⟨28, 24, .ro, 0x10⟩]⟩,
   ⟨0x40010, 1, 0x400000, 1, 0x400000, false, [⟨15, 0, .rw, 0x190⟩, ⟨31, 16, .rw, 0x7D0⟩]⟩,
   ⟨0x40014, 1, 0x400000, 1, 0x400000, false, [⟨1, 0, .ro, 0⟩, ⟨7, 4, .ro, 0⟩, ⟨31, 16, .ro, 0⟩]⟩,
   ⟨0x40018, 1, 0x400000, 1, 0x400000, true, [⟨47, 0, .ro, 0⟩]⟩,
   ⟨0x40020, 1, 0x400000, 1, 0x400000, false, [⟨15, 0, .rwl, 0⟩, ⟨16, 16, .sc, 0⟩, ⟨17, 17, .ro, 0⟩]⟩,
   ⟨0x40040, 7, 0x4, 1, 0x400000, false, [⟨12, 0, .ro, 0⟩, ⟨28, 16, .ro, 0⟩]⟩,
   ⟨0x40060, 1, 0x400000, 1, 0x400000, false, [⟨15, 0, .ro, 0⟩, ⟨19, 16, .ro, 0⟩, ⟨23, 20, .ro, 0⟩]⟩,
   ⟨0x40068, 1, 0x400000, 1, 0x400000, true, [⟨63, 0, .ro, 0⟩]⟩,
   ⟨0x40070, 1, 0x400000, 1, 0x400000, true, [⟨15, 0, .ro, 0⟩, ⟨31, 16, .ro, 0⟩, ⟨47, 32, .ro, 0⟩]⟩,
   ⟨0x40078, 1, 0x400000, 1, 0x400000, false, [⟨0, 0, .sc, 0⟩]⟩,
   ⟨0x40100, 16, 0x10, 1, 0x400000, true, [⟨63, 0, .ro, 0⟩]⟩,
   ⟨0x40108, 16, 0x10, 1, 0x400000, true, [⟨47, 0, .ro, 0⟩, ⟨53, 48, .ro, 0⟩]⟩]

/-- Register map of the DMC window (Table 1-1). -/
def mapDmc : List RegDef :=
  [⟨0x80004, 8, 0x10000, 1, 0x400000, false, [⟨1, 0, .ro, 3⟩, ⟨6, 4, .ro, 4⟩, ⟨31, 16, .ro, 0x1900⟩]⟩,
   ⟨0x80010, 8, 0x10000, 1, 0x400000, false, [⟨1, 0, .ro, 0⟩, ⟨4, 2, .ro, 0⟩, ⟨7, 7, .ro, 0⟩, ⟨19, 8, .ro, 0⟩]⟩,
   ⟨0x80018, 8, 0x10000, 1, 0x400000, false, [⟨3, 0, .ro, 0⟩, ⟨7, 4, .ro, 0⟩, ⟨11, 8, .ro, 0⟩]⟩,
   ⟨0x80020, 8, 0x10000, 1, 0x400000, false, [⟨1, 0, .ro, 0⟩, ⟨5, 4, .ro, 0⟩, ⟨9, 8, .ro, 0⟩, ⟨13, 12, .ro, 0⟩, ⟨3, 3, .ro, 0⟩, ⟨7, 7, .ro, 0⟩, ⟨11, 11, .ro, 0⟩, ⟨15, 15, .ro, 0⟩]⟩,
   ⟨0x80024, 8, 0x10000, 1, 0x400000, false, [⟨2, 0, .ro, 0⟩, ⟨6, 4, .ro, 0⟩, ⟨10, 8, .ro, 0⟩, ⟨14, 12, .ro, 0⟩]⟩,
   ⟨0x80028, 8, 0x10000, 1, 0x400000, true, [⟨35, 0, .ro, 0⟩, ⟨45, 40, .rw, 0xA⟩, ⟨49, 48, .ro, 0⟩, ⟨53, 52, .ro, 0⟩, ⟨56, 56, .ro, 0⟩]⟩,
   ⟨0x80030, 8, 0x10000, 4, 0x4, false, [⟨15, 0, .ro, 0⟩, ⟨23, 16, .ro, 0⟩, ⟨28, 24, .ro, 0⟩]⟩,
   ⟨0x80040, 8, 0x10000, 1, 0x400000, false, [⟨15, 0, .rw, 0x400⟩, ⟨23, 16, .rw, 0xA⟩, ⟨24, 24, .rw, 1⟩]⟩,
   ⟨0x80048, 8, 0x10000, 1, 0x400000, false, [⟨7, 0, .rw, 0x18⟩, ⟨31, 16, .ro, 0⟩]⟩,
   ⟨0x80050, 8, 0x10000, 1, 0x400000, true, [⟨47, 0, .ro, 0⟩, ⟨49, 48, .ro, 0⟩, ⟨53, 52, .ro, 0⟩, ⟨60, 56, .ro, 0⟩]⟩,
   ⟨0x80058, 8, 0x10000, 1, 0x400000, false, [⟨15, 0, .ro, 0⟩, ⟨31, 16, .ro, 0⟩]⟩,
   ⟨0x80060, 8, 0x10000, 1, 0x400000, false, [⟨7, 0, .rw, 0x64⟩]⟩,
   ⟨0x80068, 8, 0x10000, 1, 0x400000, false, [⟨3, 0, .ro, 0⟩, ⟨4, 4, .ro, 0⟩, ⟨31, 16, .ro, 0⟩]⟩,
   ⟨0x80070, 8, 0x10000, 1, 0x400000, false, [⟨3, 0, .rw, 0xB⟩, ⟨4, 4, .ro, 0⟩, ⟨31, 16, .rw, 0x1000⟩]⟩,
   ⟨0x80078, 8, 0x10000, 1, 0x400000, true, [⟨31, 0, .ro, 0⟩, ⟨47, 32, .ro, 0⟩]⟩,
   ⟨0x80080, 8, 0x10000, 1, 0x400000, true, [⟨41, 0, .rwl, 0⟩, ⟨59, 42, .rwl, 0⟩, ⟨63, 63, .rwl, 0⟩]⟩,
   ⟨0x80088, 8, 0x10000, 1, 0x400000, false, [⟨0, 0, .sc, 0⟩]⟩]

/-- Register map of the REEL window (Table 1-1). -/
def mapReel : List RegDef :=
  [⟨0x100004, 1, 0x400000, 1, 0x400000, false, [⟨15, 0, .ro, 0xFFFF⟩, ⟨19, 16, .ro, 8⟩]⟩,
   ⟨0x100010, 1, 0x400000, 1, 0x400000, true, [⟨63, 0, .ro, 0⟩]⟩,
   ⟨0x100018, 1, 0x400000, 1, 0x400000, true, [⟨63, 0, .ro, 0⟩]⟩,
   ⟨0x100020, 1, 0x400000, 1, 0x400000, false, [⟨1, 0, .ro, 0⟩, ⟨2, 2, .ro, 1⟩]⟩,
   ⟨0x100028, 1, 0x400000, 1, 0x400000, true, [⟨31, 0, .ro, 0⟩, ⟨47, 32, .ro, 0⟩]⟩,
   ⟨0x100030, 1, 0x400000, 1, 0x400000, true, [⟨63, 0, .ro, 0⟩]⟩,
   ⟨0x100038, 1, 0x400000, 1, 0x400000, true, [⟨31, 0, .rw, 0x100000⟩, ⟨63, 32, .rw, 0x400000⟩]⟩,
   ⟨0x100040, 1, 0x400000, 1, 0x400000, false, [⟨31, 0, .ro, 0⟩]⟩,
   ⟨0x100048, 1, 0x400000, 1, 0x400000, false, [⟨3, 0, .ro, 0⟩, ⟨31, 16, .ro, 0⟩]⟩,
   ⟨0x100100, 1, 0x400000, 1, 0x400000, false, [⟨15, 0, .rw, 0⟩]⟩,
   ⟨0x100108, 4, 0x8, 1, 0x400000, true, [⟨63, 0, .ro, 0⟩]⟩]

/-- Register map of the LDEC window (Table 1-1). -/
def mapLdec : List RegDef :=
  [⟨0x120004, 1, 0x400000, 1, 0x400000, false, [⟨7, 0, .ro, 0x80⟩, ⟨15, 8, .ro, 0x10⟩, ⟨19, 16, .ro, 6⟩, ⟨24, 20, .ro, 0x10⟩]⟩,
   ⟨0x120010, 1, 0x400000, 1, 0x400000, false, [⟨0, 0, .ro, 0⟩, ⟨1, 1, .ro, 0⟩, ⟨3, 2, .ro, 0⟩, ⟨4, 4, .ro, 0⟩]⟩,
   ⟨0x120018, 1, 0x400000, 1, 0x400000, true, [⟨31, 0, .ro, 0⟩, ⟨63, 32, .ro, 0⟩]⟩,
   ⟨0x120020, 1, 0x400000, 1, 0x400000, false, [⟨31, 0, .ro, 0⟩]⟩,
   ⟨0x120028, 1, 0x400000, 1, 0x400000, true, [⟨63, 0, .ro, 0⟩]⟩,
   ⟨0x120030, 1, 0x400000, 1, 0x400000, true, [⟨63, 0, .ro, 0⟩]⟩,
   ⟨0x120038, 1, 0x400000, 1, 0x400000, true, [⟨63, 0, .ro, 0⟩]⟩,
   ⟨0x120040, 1, 0x400000, 1, 0x400000, false, [⟨15, 0, .ro, 0⟩, ⟨31, 16, .ro, 0⟩]⟩,
   ⟨0x120048, 1, 0x400000, 1, 0x400000, false, [⟨15, 0, .ro, 0⟩, ⟨31, 16, .ro, 0⟩]⟩,
   ⟨0x120050, 1, 0x400000, 1, 0x400000, false, [⟨0, 0, .sc, 0⟩]⟩]

/-- Register map of the HLE window (Table 1-1). -/
def mapHle : List RegDef :=
  [⟨0x140004, 1, 0x400000, 1, 0x400000, false, [⟨3, 0, .ro, 4⟩, ⟨7, 4, .ro, 3⟩, ⟨15, 8, .ro, 0xF⟩, ⟨16, 16, .ro, 1⟩]⟩,
   ⟨0x140010, 1, 0x400000, 1, 0x400000, false, [⟨0, 0, .sc, 0⟩, ⟨1, 1, .rw, 0⟩]⟩,
   ⟨0x140014, 1, 0x400000, 1, 0x400000, false, [⟨1, 0, .ro, 0⟩, ⟨3, 2, .ro, 0⟩, ⟨5, 4, .ro, 0⟩, ⟨7, 6, .ro, 0⟩, ⟨8, 8, .ro, 0⟩, ⟨9, 9, .ro, 0⟩]⟩,
   ⟨0x140020, 4, 0x8, 1, 0x400000, true, [⟨2, 0, .ro, 0⟩, ⟨5, 4, .ro, 0⟩, ⟨31, 16, .ro, 0⟩, ⟨63, 32, .ro, 0⟩]⟩,
   ⟨0x140048, 1, 0x400000, 1, 0x400000, true, [⟨15, 0, .ro, 0⟩, ⟨31, 16, .ro, 0⟩, ⟨47, 32, .ro, 0⟩, ⟨63, 48, .ro, 0⟩]⟩,
   ⟨0x140050, 1, 0x400000, 1, 0x400000, true, [⟨63, 0, .ro, 0⟩]⟩,
   ⟨0x140058, 1, 0x400000, 1, 0x400000, true, [⟨63, 0, .ro, 0⟩]⟩,
   ⟨0x140060, 1, 0x400000, 1, 0x400000, false, [⟨7, 0, .ro, 0⟩, ⟨11, 8, .ro, 0⟩, ⟨14, 12, .ro, 0⟩, ⟨31, 16, .ro, 0⟩]⟩]

/-- Register map of the LANT window (Table 1-1). -/
def mapLant : List RegDef :=
  [⟨0x200004, 50, 0x1000, 1, 0x400000, false, [⟨7, 0, .ro, 8⟩, ⟨15, 8, .ro, 0x20⟩, ⟨23, 16, .ro, 0x40⟩, ⟨27, 24, .ro, 4⟩]⟩,
   ⟨0x200010, 50, 0x1000, 1, 0x400000, false, [⟨1, 0, .ro, 0⟩, ⟨13, 8, .ro, 0x3F⟩, ⟨31, 16, .ro, 0⟩]⟩,
   ⟨0x200014, 50, 0x1000, 1, 0x400000, false, [⟨3, 0, .ro, 0⟩, ⟨15, 8, .ro, 0⟩, ⟨31, 16, .ro, 0⟩]⟩,
   ⟨0x200018, 50, 0x1000, 1, 0x400000, true, [⟨63, 0, .ro, 0⟩]⟩,
   ⟨0x200020, 50, 0x1000, 1, 0x400000, true, [⟨63, 0, .ro, 0⟩]⟩,
   ⟨0x200028, 50, 0x1000, 1, 0x400000, true, [⟨63, 0, .ro, 0⟩]⟩,
   ⟨0x200030, 50, 0x1000, 1, 0x400000, false, [⟨15, 0, .ro, 0⟩, ⟨31, 16, .ro, 0⟩]⟩,
   ⟨0x200034, 50, 0x1000, 1, 0x400000, false, [⟨15, 0, .ro, 0⟩, ⟨31, 16, .ro, 0⟩]⟩,
   ⟨0x200040, 50, 0x1000, 1, 0x400000, false, [⟨0, 0, .sc, 0⟩]⟩,
   ⟨0x23F004, 1, 0x400000, 1, 0x400000, false, [⟨7, 0, .ro, 0x32⟩, ⟨15, 8, .ro, 0x30⟩, ⟨23, 16, .ro, 8⟩]⟩,
   ⟨0x23F010, 1, 0x400000, 1, 0x400000, false, [⟨0, 0, .rw, 1⟩, ⟨1, 1, .rwl, 1⟩]⟩,
   ⟨0x23F020, 1, 0x400000, 1, 0x400000, false, [⟨10, 0, .rw, 0⟩]⟩,
   ⟨0x23F028, 1, 0x400000, 1, 0x400000, true, [⟨15, 0, .rw, 0⟩, ⟨31, 16, .rw, 0⟩, ⟨47, 32, .rw, 0⟩]⟩,
   ⟨0x23F030, 1, 0x400000, 1, 0x400000, false, [⟨10, 0, .ro, 0⟩]⟩,
   ⟨0x23F038, 1, 0x400000, 1, 0x400000, true, [⟨47, 0, .ro, 0⟩]⟩,
   ⟨0x23F040, 1, 0x400000, 1, 0x400000, true, [⟨49, 0, .ro, 0⟩]⟩,
   ⟨0x23F048, 1, 0x400000, 1, 0x400000, true, [⟨49, 0, .ro, 0⟩]⟩,
   ⟨0x23F050, 1, 0x400000, 1, 0x400000, false, [⟨5, 0, .ro, 0x3F⟩, ⟨13, 8, .ro, 0x3F⟩, ⟨21, 16, .ro, 0x3F⟩, ⟨31, 24, .ro, 0⟩]⟩,
   ⟨0x23F100, 12, 0x4, 1, 0x400000, false, [⟨5, 0, .rw, 0⟩, ⟨13, 8, .rw, 0⟩, ⟨21, 16, .rw, 0⟩, ⟨29, 24, .rw, 0⟩]⟩,
   ⟨0x23F200, 12, 0x4, 1, 0x400000, false, [⟨5, 0, .ro, 0⟩, ⟨13, 8, .ro, 0⟩, ⟨21, 16, .ro, 0⟩, ⟨29, 24, .ro, 0⟩]⟩]

/-- Register map of the RMAP window (Table 1-1). -/
def mapRmap : List RegDef :=
  [⟨0x240004, 1, 0x400000, 1, 0x400000, false, [⟨15, 0, .ro, 0x600⟩, ⟨23, 16, .ro, 8⟩, ⟨31, 24, .ro, 0x40⟩]⟩,
   ⟨0x240010, 1, 0x400000, 1, 0x400000, false, [⟨15, 0, .ro, 0⟩, ⟨31, 16, .ro, 0⟩]⟩,
   ⟨0x240014, 1, 0x400000, 1, 0x400000, false, [⟨0, 0, .ro, 0⟩, ⟨2, 1, .ro, 0⟩, ⟨5, 4, .ro, 0⟩, ⟨8, 8, .ro, 1⟩]⟩,
   ⟨0x240018, 1, 0x400000, 1, 0x400000, true, [⟨63, 0, .ro, 0⟩]⟩,
   ⟨0x240020, 1, 0x400000, 1, 0x400000, true, [⟨63, 0, .ro, 0⟩]⟩,
   ⟨0x240028, 1, 0x400000, 1, 0x400000, true, [⟨63, 0, .ro, 0⟩]⟩,
   ⟨0x240030, 1, 0x400000, 1, 0x400000, true, [⟨63, 0, .ro, 0⟩]⟩,
   ⟨0x240038, 1, 0x400000, 1, 0x400000, false, [⟨15, 0, .ro, 0⟩, ⟨31, 16, .ro, 0⟩]⟩,
   ⟨0x24003C, 1, 0x400000, 1, 0x400000, false, [⟨0, 0, .sc, 0⟩]⟩,
   ⟨0x240040, 1, 0x400000, 1, 0x400000, false, [⟨1, 0, .rw, 0⟩, ⟨4, 4, .sc, 0⟩]⟩,
   ⟨0x240044, 1, 0x400000, 1, 0x400000, false, [⟨0, 0, .ro, 0⟩, ⟨1, 1, .ro, 0⟩, ⟨31, 16, .ro, 0⟩]⟩,
   ⟨0x240048, 1, 0x400000, 1, 0x400000, false, [⟨11, 0, .rw, 0⟩]⟩,
   ⟨0x240050, 1, 0x400000, 1, 0x400000, true, [⟨15, 0, .ro, 0x8000⟩, ⟨31, 16, .ro, 0x8000⟩, ⟨47, 32, .ro, 0x8000⟩]⟩,
   ⟨0x240058, 1, 0x400000, 1, 0x400000, true, [⟨39, 0, .ro, 0⟩]⟩,
   ⟨0x240060, 1, 0x400000, 1, 0x400000, false, [⟨7, 0, .rw, 2⟩]⟩,
   ⟨0x240064, 1, 0x400000, 1, 0x400000, false, [⟨1, 0, .ro, 0⟩, ⟨15, 8, .ro, 0⟩, ⟨23, 16, .ro, 0⟩]⟩,
   ⟨0x240068, 1, 0x400000, 1, 0x400000, true, [⟨63, 0, .ro, 0⟩]⟩,
   ⟨0x240070, 1, 0x400000, 1, 0x400000, true, [⟨63, 0, .ro, 0⟩]⟩,
   ⟨0x240080, 6, 0x4, 1, 0x400000, false, [⟨31, 0, .ro, 0⟩]⟩,
   ⟨0x240100, 192, 0x4, 1, 0x400000, false, [⟨2, 0, .ro, 0⟩, ⟨6, 4, .ro, 0⟩, ⟨10, 8, .ro, 0⟩, ⟨14, 12, .ro, 0⟩, ⟨18, 16, .ro, 0⟩, ⟨22, 20, .ro, 0⟩, ⟨26, 24, .ro, 0⟩, ⟨30, 28, .ro, 0⟩, ⟨3, 3, .ro, 0⟩, ⟨7, 7, .ro, 0⟩, ⟨11, 11, .ro, 0⟩, ⟨15, 15, .ro, 0⟩, ⟨19, 19, .ro, 0⟩, ⟨23, 23, .ro, 0⟩, ⟨27, 27, .ro, 0⟩, ⟨31, 31, .ro, 0⟩]⟩]

/-- Register map of the BLT window (Table 1-1). -/
def mapBlt : List RegDef :=
  [⟨0x260004, 1, 0x400000, 1, 0x400000, false, [⟨7, 0, .ro, 0x10⟩, ⟨11, 8, .ro, 4⟩, ⟨31, 16, .ro, 0x4000⟩]⟩,
   ⟨0x260010, 1, 0x400000, 1, 0x400000, false, [⟨0, 0, .sc, 0⟩, ⟨1, 1, .rw, 0⟩, ⟨15, 8, .rw, 0⟩]⟩,
   ⟨0x260014, 1, 0x400000, 1, 0x400000, false, [⟨0, 0, .ro, 0⟩, ⟨6, 4, .ro, 0⟩, ⟨31, 16, .ro, 0⟩]⟩,
   ⟨0x260018, 1, 0x400000, 1, 0x400000, true, [⟨31, 0, .ro, 0⟩, ⟨47, 32, .ro, 0⟩, ⟨63, 48, .ro, 0⟩]⟩,
   ⟨0x260020, 1, 0x400000, 1, 0x400000, false, [⟨7, 0, .ro, 0⟩, ⟨10, 8, .ro, 0⟩, ⟨31, 16, .ro, 0⟩]⟩,
   ⟨0x260028, 1, 0x400000, 1, 0x400000, true, [⟨63, 0, .ro, 0⟩]⟩,
   ⟨0x260100, 16, 0x20, 1, 0x400000, true, [⟨63, 0, .rw, 0⟩]⟩,
   ⟨0x260108, 16, 0x20, 1, 0x400000, false, [⟨1, 0, .rw, 0⟩, ⟨31, 8, .rw, 0⟩]⟩,
   ⟨0x26010C, 16, 0x20, 1, 0x400000, false, [⟨15, 0, .rw, 0⟩, ⟨31, 16, .rw, 0⟩]⟩,
   ⟨0x260110, 16, 0x20, 1, 0x400000, true, [⟨15, 0, .rw, 0⟩, ⟨31, 16, .rw, 0⟩, ⟨47, 32, .rw, 0xFFFF⟩, ⟨63, 48, .rw, 0xFFFF⟩]⟩]

/-- Register map of the SCAN window (Table 1-1). -/
def mapScan : List RegDef :=
  [⟨0x300004, 1, 0x400000, 1, 0x400000, false, [⟨3, 0, .ro, 4⟩, ⟨10, 4, .ro, 0x40⟩, ⟨15, 11, .ro, 0x10⟩, ⟨27, 16, .ro, 0x600⟩]⟩,
   ⟨0x300010, 1, 0x400000, 1, 0x400000, false, [⟨0, 0, .ro, 0⟩, ⟨1, 1, .ro, 0⟩, ⟨31, 16, .ro, 0⟩]⟩,
   ⟨0x300018, 1, 0x400000, 1, 0x400000, false, [⟨15, 0, .ro, 0⟩, ⟨31, 16, .ro, 0⟩]⟩,
   ⟨0x300020, 1, 0x400000, 1, 0x400000, false, [⟨16, 0, .rw, 0⟩]⟩,
   ⟨0x300024, 1, 0x400000, 1, 0x400000, false, [⟨15, 0, .rw, 0⟩]⟩,
   ⟨0x300028, 1, 0x400000, 1, 0x400000, false, [⟨15, 0, .rw, 0⟩]⟩,
   ⟨0x300030, 1, 0x400000, 1, 0x400000, false, [⟨0, 0, .rw, 0⟩]⟩,
   ⟨0x300040, 1, 0x400000, 1, 0x400000, true, [⟨15, 0, .ro, 0⟩, ⟨23, 16, .ro, 0⟩, ⟨47, 32, .ro, 0⟩, ⟨63, 48, .ro, 0⟩]⟩,
   ⟨0x300048, 1, 0x400000, 1, 0x400000, false, [⟨15, 0, .ro, 0⟩, ⟨31, 16, .ro, 0⟩]⟩,
   ⟨0x300050, 1, 0x400000, 1, 0x400000, true, [⟨47, 0, .ro, 0⟩, ⟨63, 48, .ro, 0⟩]⟩,
   ⟨0x300058, 1, 0x400000, 1, 0x400000, false, [⟨0, 0, .sc, 0⟩, ⟨1, 1, .rw, 0⟩]⟩,
   ⟨0x300100, 4, 0x40, 1, 0x400000, false, [⟨0, 0, .rw, 0⟩, ⟨1, 1, .rw, 0⟩, ⟨6, 4, .rw, 0⟩, ⟨9, 8, .rw, 0⟩, ⟨14, 12, .rw, 0⟩, ⟨23, 16, .rw, 0xFF⟩]⟩,
   ⟨0x300104, 4, 0x40, 1, 0x400000, false, [⟨15, 0, .rw, 0⟩, ⟨31, 16, .rw, 0⟩]⟩,
   ⟨0x300108, 4, 0x40, 1, 0x400000, false, [⟨14, 0, .rw, 0⟩, ⟨30, 16, .rw, 0⟩]⟩,
   ⟨0x300110, 4, 0x40, 1, 0x400000, true, [⟨63, 0, .rw, 0⟩]⟩,
   ⟨0x300118, 4, 0x40, 1, 0x400000, true, [⟨63, 0, .rw, 0⟩]⟩,
   ⟨0x300120, 4, 0x40, 1, 0x400000, true, [⟨31, 0, .rw, 0⟩, ⟨63, 32, .rw, 0⟩]⟩,
   ⟨0x300128, 4, 0x40, 1, 0x400000, true, [⟨15, 0, .rw, 0⟩, ⟨31, 16, .rw, 0⟩, ⟨47, 32, .rw, 0⟩]⟩,
   ⟨0x300200, 16, 0x10, 1, 0x400000, true, [⟨63, 0, .ro, 0⟩]⟩,
   ⟨0x300208, 16, 0x10, 1, 0x400000, true, [⟨39, 0, .ro, 0⟩, ⟨55, 40, .ro, 0⟩, ⟨63, 56, .ro, 0⟩]⟩,
   ⟨0x301000, 64, 0x20, 1, 0x400000, true, [⟨15, 0, .ro, 0⟩, ⟨31, 16, .ro, 0⟩, ⟨47, 32, .ro, 0⟩, ⟨63, 48, .ro, 0⟩]⟩,
   ⟨0x301008, 64, 0x20, 1, 0x400000, true, [⟨31, 0, .ro, 0⟩, ⟨34, 32, .ro, 0⟩]⟩,
   ⟨0x301010, 64, 0x20, 1, 0x400000, false, [⟨31, 0, .ro, 0⟩]⟩,
   ⟨0x301014, 64, 0x20, 1, 0x400000, false, [⟨31, 0, .ro, 0⟩]⟩,
   ⟨0x301018, 64, 0x20, 1, 0x400000, true, [⟨2, 0, .ro, 0⟩, ⟨31, 16, .ro, 0⟩, ⟨63, 32, .ro, 0⟩]⟩,
   ⟨0x304000, 3, 0x4000, 4096, 0x4, false, [⟨11, 0, .rw, 0⟩]⟩,
   ⟨0x310000, 192, 0x400, 1, 0x400000, false, [⟨2, 0, .ro, 0⟩, ⟨6, 4, .ro, 0⟩, ⟨31, 16, .ro, 0⟩]⟩,
   ⟨0x310008, 192, 0x400, 1, 0x400000, false, [⟨15, 0, .ro, 0⟩, ⟨31, 16, .ro, 0⟩]⟩,
   ⟨0x310010, 192, 0x400, 1, 0x400000, false, [⟨15, 0, .ro, 0⟩]⟩]

/-- Register map of the WLN window (Table 1-1). -/
def mapWln : List RegDef :=
  [⟨0x340004, 1, 0x400000, 1, 0x400000, false, [⟨7, 0, .ro, 0xC0⟩, ⟨15, 8, .ro, 0x18⟩, ⟨17, 16, .ro, 3⟩, ⟨23, 20, .ro, 8⟩]⟩,
   ⟨0x340010, 1, 0x400000, 1, 0x400000, false, [⟨0, 0, .sc, 0⟩, ⟨1, 1, .rwl, 0⟩, ⟨11, 8, .rw, 0⟩, ⟨16, 16, .sc, 0⟩]⟩,
   ⟨0x340014, 1, 0x400000, 1, 0x400000, false, [⟨7, 0, .rw, 0xA⟩, ⟨11, 8, .rw, 3⟩]⟩,
   ⟨0x340018, 1, 0x400000, 1, 0x400000, false, [⟨23, 0, .ro, 0⟩]⟩,
   ⟨0x34001C, 1, 0x400000, 1, 0x400000, false, [⟨23, 0, .ro, 0⟩]⟩,
   ⟨0x340100, 24, 0x40, 1, 0x400000, false, [⟨1, 0, .ro, 0⟩, ⟨6, 4, .rwl, 0⟩, ⟨8, 8, .rwl, 0⟩, ⟨16, 16, .sc, 0⟩]⟩,
   ⟨0x340104, 24, 0x40, 1, 0x400000, false, [⟨2, 0, .ro, 0⟩, ⟨4, 4, .ro, 0⟩, ⟨5, 5, .ro, 0⟩, ⟨11, 8, .ro, 0⟩, ⟨14, 12, .ro, 0⟩]⟩,
   ⟨0x340108, 24, 0x40, 1, 0x400000, false, [⟨23, 0, .ro, 0xFAC688⟩]⟩,
   ⟨0x34010C, 24, 0x40, 1, 0x400000, false, [⟨7, 0, .ro, 0⟩]⟩,
   ⟨0x340110, 24, 0x40, 1, 0x400000, true, [⟨63, 0, .ro, 0⟩]⟩,
   ⟨0x340118, 24, 0x40, 1, 0x400000, true, [⟨63, 0, .ro, 0⟩]⟩,
   ⟨0x340120, 24, 0x40, 1, 0x400000, true, [⟨63, 0, .ro, 0⟩]⟩,
   ⟨0x340128, 24, 0x40, 1, 0x400000, false, [⟨15, 0, .ro, 0⟩, ⟨31, 16, .ro, 0⟩]⟩,
   ⟨0x341000, 192, 0x10, 1, 0x400000, false, [⟨1, 0, .ro, 0⟩, ⟨6, 4, .ro, 0⟩, ⟨7, 7, .ro, 0⟩, ⟨31, 16, .ro, 0⟩]⟩,
   ⟨0x341004, 192, 0x10, 1, 0x400000, false, [⟨15, 0, .ro, 0⟩, ⟨31, 16, .ro, 0⟩]⟩,
   ⟨0x341008, 192, 0x10, 1, 0x400000, false, [⟨31, 0, .ro, 0⟩]⟩]

/-- Register map of the CHN window (Table 1-1). -/
def mapChn : List RegDef :=
  [⟨0x380004, 1, 0x400000, 1, 0x400000, false, [⟨3, 0, .ro, 4⟩, ⟨5, 4, .ro, 3⟩, ⟨11, 8, .ro, 0x10⟩]⟩,
   ⟨0x380010, 1, 0x400000, 1, 0x400000, false, [⟨1, 0, .rwl, 0⟩, ⟨5, 4, .rwl, 0⟩]⟩,
   ⟨0x380014, 1, 0x400000, 1, 0x400000, false, [⟨7, 0, .ro, 0⟩, ⟨8, 8, .ro, 0⟩, ⟨9, 9, .ro, 0⟩, ⟨23, 16, .ro, 0⟩, ⟨31, 24, .ro, 0⟩]⟩,
   ⟨0x380018, 1, 0x400000, 1, 0x400000, false, [⟨7, 0, .ro, 0⟩]⟩,
   ⟨0x38001C, 1, 0x400000, 1, 0x400000, false, [⟨0, 0, .sc, 0⟩, ⟨1, 1, .sc, 0⟩]⟩,
   ⟨0x380100, 2, 0x40, 1, 0x400000, false, [⟨1, 0, .ro, 0⟩, ⟨6, 4, .ro, 0⟩, ⟨11, 8, .ro, 0⟩, ⟨13, 12, .ro, 0⟩, ⟨19, 16, .ro, 0⟩, ⟨31, 20, .ro, 0⟩]⟩,
   ⟨0x380110, 2, 0x40, 4, 0x4, false, [⟨31, 0, .ro, 0⟩]⟩,
   ⟨0x380200, 1, 0x400000, 1, 0x400000, true, [⟨15, 0, .ro, 0⟩, ⟨16, 16, .ro, 0⟩, ⟨31, 24, .ro, 0⟩, ⟨63, 32, .ro, 0⟩]⟩,
   ⟨0x380208, 1, 0x400000, 1, 0x400000, true, [⟨15, 0, .ro, 0⟩, ⟨31, 16, .ro, 0⟩, ⟨47, 32, .ro, 0⟩, ⟨63, 48, .ro, 0⟩]⟩,
   ⟨0x380210, 1, 0x400000, 1, 0x400000, true, [⟨7, 0, .ro, 0⟩, ⟨15, 8, .ro, 0⟩, ⟨23, 16, .ro, 0⟩, ⟨31, 24, .ro, 0⟩, ⟨63, 32, .ro, 0⟩]⟩]

/-- Register map of the TIME window (Table 1-1). -/
def mapTime : List RegDef :=
  [⟨0x390004, 1, 0x400000, 1, 0x400000, false, [⟨3, 0, .ro, 4⟩, ⟨7, 4, .ro, 8⟩, ⟨9, 8, .ro, 2⟩]⟩,
   ⟨0x390010, 1, 0x400000, 1, 0x400000, false, [⟨6, 0, .rw, 0⟩, ⟨8, 8, .rw, 0⟩, ⟨9, 9, .rwl, 0⟩, ⟨13, 12, .rw, 0⟩, ⟨31, 16, .rw, 0x3E8⟩]⟩,
   ⟨0x390014, 1, 0x400000, 1, 0x400000, false, [⟨31, 0, .rwl, 0⟩]⟩,
   ⟨0x390018, 1, 0x400000, 1, 0x400000, true, [⟨63, 0, .ro, 0⟩]⟩,
   ⟨0x390100, 1, 0x400000, 1, 0x400000, false, [⟨1, 0, .rw, 0⟩, ⟨4, 4, .ro, 0⟩, ⟨8, 8, .sc, 0⟩]⟩,
   ⟨0x390108, 1, 0x400000, 1, 0x400000, true, [⟨63, 0, .rwl, 0⟩]⟩,
   ⟨0x390110, 1, 0x400000, 1, 0x400000, true, [⟨63, 0, .ro, 0⟩]⟩,
   ⟨0x390118, 1, 0x400000, 1, 0x400000, true, [⟨63, 0, .rw, 0⟩]⟩,
   ⟨0x390120, 1, 0x400000, 1, 0x400000, true, [⟨63, 0, .ro, 0⟩]⟩,
   ⟨0x390128, 1, 0x400000, 1, 0x400000, true, [⟨63, 0, .ro, 0⟩]⟩,
   ⟨0x390130, 1, 0x400000, 1, 0x400000, true, [⟨63, 0, .ro, 0⟩]⟩,
   ⟨0x390138, 1, 0x400000, 1, 0x400000, false, [⟨15, 0, .ro, 0⟩, ⟨31, 16, .ro, 0⟩]⟩,
   ⟨0x390200, 4, 0x40, 1, 0x400000, true, [⟨63, 0, .ro, 0⟩]⟩,
   ⟨0x390208, 4, 0x40, 1, 0x400000, true, [⟨47, 0, .ro, 0⟩]⟩,
   ⟨0x390210, 4, 0x40, 1, 0x400000, false, [⟨31, 0, .ro, 0⟩]⟩,
   ⟨0x390214, 4, 0x40, 1, 0x400000, false, [⟨31, 0, .ro, 0⟩]⟩,
   ⟨0x390218, 4, 0x40, 1, 0x400000, false, [⟨1, 0, .ro, 0⟩, ⟨2, 2, .ro, 0⟩, ⟨31, 16, .ro, 0⟩]⟩,
   ⟨0x390220, 4, 0x40, 1, 0x400000, true, [⟨63, 0, .ro, 0⟩]⟩,
   ⟨0x390300, 1, 0x400000, 1, 0x400000, true, [⟨47, 0, .rw, 0⟩]⟩,
   ⟨0x390308, 1, 0x400000, 1, 0x400000, false, [⟨31, 0, .wo, 0⟩]⟩,
   ⟨0x390400, 8, 0x20, 1, 0x400000, false, [⟨0, 0, .rw, 0⟩, ⟨2, 1, .rw, 0⟩, ⟨3, 3, .rw, 0⟩, ⟨4, 4, .rw, 0⟩, ⟨5, 5, .rw1c, 0⟩, ⟨15, 8, .rw, 1⟩, ⟨31, 16, .ro, 0⟩]⟩,
   ⟨0x390408, 8, 0x20, 1, 0x400000, true, [⟨63, 0, .rw, 0⟩]⟩,
   ⟨0x390410, 8, 0x20, 1, 0x400000, true, [⟨63, 0, .rw, 0⟩]⟩,
   ⟨0x390500, 2, 0x40, 1, 0x400000, false, [⟨7, 0, .rwl, 0⟩, ⟨8, 8, .rwl, 0⟩, ⟨9, 9, .rwl, 0⟩, ⟨11, 10, .rwl, 0⟩, ⟨12, 12, .rwl, 0⟩, ⟨27, 16, .rwl, 0⟩]⟩,
   ⟨0x390508, 2, 0x40, 1, 0x400000, false, [⟨3, 0, .ro, 0⟩, ⟨15, 8, .ro, 0⟩, ⟨31, 16, .ro, 0⟩]⟩,
   ⟨0x390510, 2, 0x40, 1, 0x400000, true, [⟨63, 0, .ro, 0⟩]⟩,
   ⟨0x390518, 2, 0x40, 1, 0x400000, true, [⟨31, 0, .ro, 0⟩, ⟨47, 32, .ro, 0⟩, ⟨63, 48, .ro, 0⟩]⟩,
   ⟨0x390580, 1, 0x400000, 1, 0x400000, true, [⟨31, 0, .rwl, 0⟩, ⟨37, 32, .rwl, 0⟩]⟩,
   ⟨0x390588, 1, 0x400000, 1, 0x400000, false, [⟨15, 0, .rwl, 0⟩, ⟨31, 16, .rwl, 0⟩]⟩]

/-- Register map of the CLK window (Table 1-1). -/
def mapClk : List RegDef :=
  [⟨0x3A0004, 1, 0x400000, 1, 0x400000, false, [⟨3, 0, .ro, 8⟩, ⟨15, 8, .ro, 0x60⟩]⟩,
   ⟨0x3A0010, 1, 0x400000, 1, 0x400000, false, [⟨3, 0, .ro, 0⟩, ⟨7, 4, .rw1cs, 0⟩, ⟨31, 16, .ro, 0⟩]⟩,
   ⟨0x3A0014, 1, 0x400000, 1, 0x400000, false, [⟨0, 0, .sc, 0⟩]⟩,
   ⟨0x3A0100, 8, 0x40, 1, 0x400000, false, [⟨21, 0, .rwl, 0⟩, ⟨31, 22, .rwl, 0⟩]⟩,
   ⟨0x3A0104, 8, 0x40, 1, 0x400000, false, [⟨1, 0, .rwl, 0⟩, ⟨13, 8, .rwl, 0⟩, ⟨20, 16, .rwl, 0⟩]⟩,
   ⟨0x3A0108, 8, 0x40, 1, 0x400000, false, [⟨0, 0, .sc, 0⟩]⟩,
   ⟨0x3A010C, 8, 0x40, 1, 0x400000, false, [⟨2, 0, .ro, 0⟩, ⟨4, 4, .ro, 0⟩, ⟨31, 16, .ro, 0⟩]⟩,
   ⟨0x3A0110, 8, 0x40, 1, 0x400000, false, [⟨15, 0, .ro, 0⟩, ⟨31, 16, .ro, 0⟩]⟩,
   ⟨0x3A0400, 1, 0x400000, 1, 0x400000, false, [⟨0, 0, .rwl, 0⟩, ⟨2, 1, .rw, 0⟩, ⟨14, 8, .rw, 0xA⟩]⟩,
   ⟨0x3A0408, 1, 0x400000, 1, 0x400000, false, [⟨31, 0, .ro, 0⟩]⟩,
   ⟨0x3A040C, 1, 0x400000, 1, 0x400000, false, [⟨31, 0, .ro, 0⟩]⟩,
   ⟨0x3A1000, 1, 0x400000, 48, 0x4, false, [⟨7, 0, .rwl, 0⟩, ⟨15, 8, .rwl, 0⟩, ⟨16, 16, .rwl, 0⟩]⟩,
   ⟨0x3A1100, 1, 0x400000, 48, 0x4, false, [⟨7, 0, .rwl, 0⟩, ⟨15, 8, .rwl, 0⟩, ⟨16, 16, .rwl, 0⟩]⟩,
   ⟨0x3A1200, 1, 0x400000, 48, 0x4, false, [⟨7, 0, .rwl, 0⟩, ⟨15, 8, .rwl, 0⟩, ⟨16, 16, .rwl, 0⟩]⟩,
   ⟨0x3A1300, 1, 0x400000, 48, 0x4, false, [⟨7, 0, .rwl, 0⟩, ⟨15, 8, .rwl, 0⟩, ⟨16, 16, .rwl, 0⟩]⟩,
   ⟨0x3A1400, 1, 0x400000, 32, 0x4, false, [⟨7, 0, .rwl, 0⟩, ⟨15, 8, .rwl, 0⟩, ⟨16, 16, .rwl, 0⟩]⟩,
   ⟨0x3A1500, 1, 0x400000, 5, 0x4, false, [⟨7, 0, .rwl, 0⟩, ⟨15, 8, .rwl, 0⟩, ⟨16, 16, .rwl, 0⟩]⟩,
   ⟨0x3A1600, 1, 0x400000, 9, 0x4, false, [⟨7, 0, .rwl, 0⟩, ⟨15, 8, .rwl, 0⟩, ⟨16, 16, .rwl, 0⟩]⟩,
   ⟨0x3A1700, 1, 0x400000, 2, 0x4, false, [⟨7, 0, .rwl, 0⟩, ⟨15, 8, .rwl, 0⟩, ⟨16, 16, .rwl, 0⟩]⟩]

/-- Register map of the RAIL window (Table 1-1). RAIL_ABS resets to the ranges and rated currents of Table 9-1, which a
device that has never received RAIL_LIMITS uses (R274). -/
def mapRail : List RegDef :=
  [⟨0x3B0004, 1, 0x400000, 1, 0x400000, false, [⟨3, 0, .ro, 4⟩, ⟨7, 4, .ro, 8⟩]⟩,
   ⟨0x3B0010, 1, 0x400000, 1, 0x400000, false, [⟨0, 0, .sc, 0⟩, ⟨1, 1, .sc, 0⟩]⟩,
   ⟨0x3B0014, 1, 0x400000, 1, 0x400000, false, [⟨3, 0, .ro, 0⟩, ⟨7, 4, .ro, 0⟩, ⟨9, 8, .ro, 0⟩, ⟨12, 12, .ro, 0⟩]⟩,
   ⟨0x3B0018, 1, 0x400000, 1, 0x400000, false, [⟨3, 0, .rw1cs, 0⟩, ⟨7, 4, .rw1cs, 0⟩, ⟨31, 16, .ro, 0⟩]⟩,
   ⟨0x3B001C, 1, 0x400000, 1, 0x400000, false, [⟨15, 0, .ro, 0⟩, ⟨16, 16, .rw1cs, 0⟩]⟩,
   ⟨0x3B0100, 4, 0x20, 1, 0x400000, true, [⟨15, 0, .ro, 0⟩, ⟨23, 16, .ro, 0⟩, ⟨31, 24, .ro, 0⟩, ⟨47, 32, .ro, 0⟩]⟩,
   ⟨0x3B0108, 4, 0x20, 1, 0x400000, false, [⟨15, 0, .ro, 0⟩, ⟨31, 16, .ro, 0⟩]⟩,
   ⟨0x3B0110, 1, 0x20, 1, 0x400000, true, [⟨15, 0, .ro, 0x0320⟩, ⟨31, 16, .ro, 0x0AF0⟩, ⟨47, 32, .ro, 40⟩]⟩,
   ⟨0x3B0130, 1, 0x20, 1, 0x400000, true, [⟨15, 0, .ro, 0xF8F8⟩, ⟨31, 16, .ro, 0xFE70⟩, ⟨47, 32, .ro, 30⟩]⟩,
   ⟨0x3B0150, 1, 0x20, 1, 0x400000, true, [⟨15, 0, .ro, 0x012C⟩, ⟨31, 16, .ro, 0x0640⟩, ⟨47, 32, .ro, 60⟩]⟩,
   ⟨0x3B0170, 1, 0x20, 1, 0x400000, true, [⟨15, 0, .ro, 0⟩, ⟨31, 16, .ro, 0x0578⟩, ⟨47, 32, .ro, 10⟩]⟩,
   ⟨0x3B0200, 8, 0x10, 1, 0x400000, true, [⟨15, 0, .ro, 0⟩, ⟨31, 16, .ro, 0⟩, ⟨47, 32, .ro, 0⟩, ⟨50, 48, .ro, 0⟩]⟩]

/-- Register map of the LENS window (Table 1-1). -/
def mapLens : List RegDef :=
  [⟨0x3C0004, 1, 0x400000, 1, 0x400000, false, [⟨4, 0, .ro, 0x10⟩, ⟨14, 8, .ro, 0x60⟩, ⟨19, 16, .ro, 8⟩]⟩,
   ⟨0x3C0010, 1, 0x400000, 1, 0x400000, false, [⟨0, 0, .rw, 0⟩]⟩,
   ⟨0x3C0018, 1, 0x400000, 1, 0x400000, true, [⟨3, 0, .ro, 0⟩, ⟨4, 4, .ro, 0⟩, ⟨10, 8, .ro, 0⟩, ⟨31, 16, .ro, 0⟩, ⟨47, 32, .ro, 0⟩]⟩,
   ⟨0x3C0020, 1, 0x400000, 1, 0x400000, true, [⟨63, 0, .ro, 0⟩]⟩,
   ⟨0x3C0030, 1, 0x400000, 1, 0x400000, false, [⟨15, 0, .ro, 0⟩, ⟨31, 16, .ro, 0⟩]⟩,
   ⟨0x3C0100, 192, 0x4, 1, 0x400000, false, [⟨2, 0, .ro, 0⟩, ⟨6, 4, .ro, 0⟩, ⟨10, 8, .ro, 0⟩, ⟨14, 12, .ro, 0⟩, ⟨18, 16, .ro, 0⟩, ⟨22, 20, .ro, 0⟩, ⟨26, 24, .ro, 0⟩, ⟨30, 28, .ro, 0⟩, ⟨3, 3, .ro, 0⟩, ⟨7, 7, .ro, 0⟩, ⟨11, 11, .ro, 0⟩, ⟨15, 15, .ro, 0⟩, ⟨19, 19, .ro, 0⟩, ⟨23, 23, .ro, 0⟩, ⟨27, 27, .ro, 0⟩, ⟨31, 31, .ro, 0⟩]⟩,
   ⟨0x3C0400, 192, 0x4, 1, 0x400000, false, [⟨2, 0, .ro, 0⟩, ⟨6, 4, .ro, 0⟩, ⟨10, 8, .ro, 0⟩, ⟨14, 12, .ro, 0⟩, ⟨18, 16, .ro, 0⟩, ⟨22, 20, .ro, 0⟩, ⟨26, 24, .ro, 0⟩, ⟨30, 28, .ro, 0⟩, ⟨3, 3, .ro, 0⟩, ⟨7, 7, .ro, 0⟩, ⟨11, 11, .ro, 0⟩, ⟨15, 15, .ro, 0⟩, ⟨19, 19, .ro, 0⟩, ⟨23, 23, .ro, 0⟩, ⟨27, 27, .ro, 0⟩, ⟨31, 31, .ro, 0⟩]⟩]

/-- Register map of the NVM window (Table 1-1). -/
def mapNvm : List RegDef :=
  [⟨0x3D0004, 1, 0x400000, 1, 0x400000, false, [⟨15, 0, .ro, 0x2000⟩, ⟨19, 16, .ro, 8⟩, ⟨23, 20, .ro, 2⟩]⟩,
   ⟨0x3D0010, 1, 0x400000, 1, 0x400000, false, [⟨0, 0, .ro, 0⟩, ⟨1, 1, .ro, 0⟩, ⟨7, 4, .ro, 0⟩, ⟨8, 8, .ro, 0⟩, ⟨9, 9, .ro, 0⟩, ⟨10, 10, .ro, 0⟩, ⟨13, 12, .ro, 0⟩, ⟨28, 16, .ro, 0⟩]⟩,
   ⟨0x3D0014, 1, 0x400000, 1, 0x400000, false, [⟨0, 0, .sc, 0⟩]⟩,
   ⟨0x3D0018, 1, 0x400000, 1, 0x400000, true, [⟨31, 0, .ro, 0⟩, ⟨47, 32, .ro, 0⟩, ⟨63, 48, .ro, 0⟩]⟩,
   ⟨0x3D0020, 1, 0x400000, 1, 0x400000, true, [⟨12, 0, .ro, 0⟩, ⟨13, 13, .ro, 0⟩, ⟨20, 16, .ro, 0⟩, ⟨28, 24, .ro, 0⟩, ⟨31, 31, .rw1cs, 0⟩, ⟨33, 32, .ro, 0⟩]⟩,
   ⟨0x3D0028, 1, 0x400000, 1, 0x400000, false, [⟨20, 0, .ro, 0⟩, ⟨25, 24, .ro, 0⟩]⟩,
   ⟨0x3D0030, 1, 0x400000, 1, 0x400000, true, [⟨23, 0, .ro, 0⟩, ⟨55, 32, .ro, 0⟩]⟩,
   ⟨0x3D0038, 1, 0x400000, 1, 0x400000, false, [⟨3, 0, .ro, 0⟩]⟩,
   ⟨0x3D003C, 1, 0x400000, 1, 0x400000, false, [⟨12, 0, .ro, 0⟩, ⟨31, 16, .ro, 0⟩]⟩]

/-- Register map of the MGMT window (Table 1-1). -/
def mapMgmt : List RegDef :=
  [⟨0x3E0004, 1, 0x400000, 1, 0x400000, false, [⟨8, 0, .ro, 0x100⟩, ⟨15, 12, .ro, 4⟩, ⟨20, 16, .ro, 0x10⟩]⟩,
   ⟨0x3E0100, 4, 0x8, 1, 0x400000, true, [⟨63, 0, .rw1cs, 0⟩]⟩,
   ⟨0x3E0200, 1, 0x400000, 1, 0x400000, false, [⟨7, 0, .ro, 0⟩, ⟨10, 8, .ro, 0⟩, ⟨15, 12, .ro, 0⟩, ⟨16, 16, .rw1cs, 0⟩, ⟨17, 17, .ro, 0⟩]⟩,
   ⟨0x3E0208, 1, 0x400000, 1, 0x400000, true, [⟨63, 0, .ro, 0⟩]⟩,
   ⟨0x3E0210, 4, 0x8, 1, 0x400000, true, [⟨63, 0, .ro, 0⟩]⟩,
   ⟨0x3E0240, 1, 0x400000, 1, 0x400000, false, [⟨7, 0, .ro, 0⟩, ⟨15, 8, .ro, 0⟩, ⟨23, 16, .ro, 0⟩, ⟨31, 24, .ro, 0⟩]⟩,
   ⟨0x3E0300, 1, 0x400000, 1, 0x400000, false, [⟨9, 1, .ro, 0⟩, ⟨15, 12, .ro, 0⟩, ⟨31, 16, .ro, 0⟩]⟩,
   ⟨0x3E0310, 1, 0x400000, 1, 0x400000, false, [⟨5, 0, .ro, 0⟩, ⟨13, 8, .rw1cs, 0⟩, ⟨31, 16, .ro, 0⟩]⟩,
   ⟨0x3E0400, 1, 0x400000, 1, 0x400000, false, [⟨7, 0, .rw, 0x55⟩, ⟨11, 8, .rw, 5⟩]⟩,
   ⟨0x3E0404, 1, 0x400000, 1, 0x400000, false, [⟨15, 0, .ro, 0⟩, ⟨19, 16, .ro, 0⟩, ⟨21, 20, .ro, 0⟩]⟩,
   ⟨0x3E0410, 16, 0x4, 1, 0x400000, false, [⟨15, 0, .ro, 0⟩, ⟨16, 16, .ro, 0⟩]⟩,
   ⟨0x3E0500, 1, 0x400000, 1, 0x400000, false, [⟨15, 0, .ro, 0⟩]⟩,
   ⟨0x3E0600, 1, 0x400000, 1, 0x400000, true, [⟨7, 0, .ro, 0⟩, ⟨31, 8, .ro, 0⟩, ⟨37, 32, .ro, 0⟩, ⟨40, 40, .ro, 0⟩]⟩,
   ⟨0x3E0608, 1, 0x400000, 1, 0x400000, false, [⟨0, 0, .sc, 0⟩]⟩,
   ⟨0x3E1000, 256, 0x40, 1, 0x400000, false, [⟨15, 0, .ro, 0⟩, ⟨16, 16, .ro, 0⟩, ⟨17, 17, .ro, 0⟩, ⟨18, 18, .ro, 0⟩]⟩,
   ⟨0x3E1008, 256, 0x40, 1, 0x400000, true, [⟨63, 0, .ro, 0⟩]⟩,
   ⟨0x3E1010, 256, 0x40, 4, 0x8, true, [⟨63, 0, .ro, 0⟩]⟩]

/-- The register map of the window that holds `off` (Table 1-1). -/
def mapOf (off : Nat) : List RegDef :=
  if off < 0x10000 then mapHost
  else if off < 0x20000 then mapCmd
  else if off < 0x40000 then mapStr
  else if off < 0x80000 then mapMfb
  else if off < 0x100000 then mapDmc
  else if off < 0x120000 then mapReel
  else if off < 0x140000 then mapLdec
  else if off < 0x150000 then mapHle
  else if off < 0x200000 then []
  else if off < 0x240000 then mapLant
  else if off < 0x260000 then mapRmap
  else if off < 0x270000 then mapBlt
  else if off < 0x300000 then []
  else if off < 0x340000 then mapScan
  else if off < 0x380000 then mapWln
  else if off < 0x390000 then mapChn
  else if off < 0x3A0000 then mapTime
  else if off < 0x3B0000 then mapClk
  else if off < 0x3C0000 then mapRail
  else if off < 0x3D0000 then mapLens
  else if off < 0x3E0000 then mapNvm
  else if off < 0x400000 then mapMgmt
  else []

/-- `off` is the offset of an instance of `d`. -/
def RegDef.holds (d : RegDef) (off : Nat) : Bool :=
  decide (d.base ≤ off) && decide ((off - d.base) / d.s1 < d.n1) &&
  decide ((off - d.base) % d.s1 / d.s2 < d.n2) && decide ((off - d.base) % d.s1 % d.s2 = 0)

/-- Block code and instance of the window that starts at `off`, where it carries BLK_ID and BLK_CAP (Table 1-1,
R14, R15): a channel's, a lantern's, the lantern array's, a subsystem's. -/
def windowAt (off : Nat) : Option (Nat × Nat) :=
  if off % 0x1000 ≠ 0 then none
  else if 0x80000 ≤ off ∧ off < 0x100000 then if off % 0x10000 = 0 then some (0x05, off / 0x10000 - 8) else none
  else if 0x200000 ≤ off ∧ off < 0x232000 then some (0x09, off / 0x1000 - 0x200)
  else if off = 0x23F000 then some (0x09, 0xFF)
  else ([(0, 0x01), (0x10000, 0x02), (0x20000, 0x03), (0x40000, 0x04), (0x100000, 0x06), (0x120000, 0x07),
    (0x140000, 0x08), (0x240000, 0x0A), (0x260000, 0x0B), (0x300000, 0x0C), (0x340000, 0x0D), (0x380000, 0x0E),
    (0x390000, 0x0F), (0x3A0000, 0x10), (0x3B0000, 0x11), (0x3C0000, 0x12), (0x3D0000, 0x13), (0x3E0000, 0x14)].find?
      fun p => decide (p.1 = off)).map fun p => (p.2, 0)

/-- BLK_ID of a window: BLOCK, INST, MAJOR 1, MINOR 0 (R15). -/
def blkId (off : Nat) (w : Nat × Nat) : RegDef :=
  ⟨off, 1, 0x400000, 1, 0x400000, false, [⟨31, 24, .ro, w.1⟩, ⟨23, 16, .ro, w.2⟩, ⟨15, 8, .ro, 1⟩, ⟨7, 0, .ro, 0⟩]⟩

/-- The register whose offset is `off`. -/
def findReg (off : Nat) : Option RegDef :=
  match windowAt off with
  | some w => some (blkId off w)
  | none => (mapOf off).find? fun d => d.holds off

/-- Value of a register's fields at a cold start (R7). -/
def RegDef.resetVal (d : RegDef) : BitVec 64 :=
  BitVec.ofNat 64 (d.fields.foldl (fun v f => v + f.reset * 2 ^ f.lo) 0)

/-- Value of the register at `off` at a cold start (R7). -/
def resetOf (off : Nat) : BitVec 64 :=
  match findReg off with
  | some d => d.resetVal
  | none => 0

end Sys2Proof.Machine
end

