-- ==== Sys2Proof/Machine/State.lean ====
section
/-! DEFINITION. The state of the Z192 as plain data: the register file of BAR0, device memory, the
non-volatile store, and every piece of state the rules name that no register holds; the reasons a
step can stop; and the state at power-on. -/

namespace Sys2Proof.Machine

/-- Reasons a step can fault. The spec stops the machine nowhere: everything that goes wrong is an
event, a status, a snuff path or DARK_FAULT, all of them state. No meaning raises one (safe). -/
inductive Fault where
  /-- Never raised. It stands because the interface asks for a type of faults (safe). -/
  | none
deriving DecidableEq, Repr

/-- Reasons a step is refused. -/
inductive Refusal where
  /-- A row of the table without a meaning. Raised by Machine/Dispatch.lean alone (safe). -/
  | notModelled (mnemonic : String)
deriving DecidableEq, Repr

/-- States of the lamplighter, in the order of GEN_STATE (Table 17-4). -/
inductive Lamp where
  | off | housekeeping | hostWait | readyDark | lighting | lit | snuffed | darkFault
deriving DecidableEq, Repr

/-- What leaves the block in a step. The model's own record (log 3). -/
inductive Emission where
  /-- A row on a wick: its number, the payload of its ROW_START (Table 8-2), the drive codes, and the CRC24 of its
  ROW_END. -/
  | wickRow (n row start : Nat) (codes : List Nat) (crc : Nat)
  /-- A control block on a wick, by type code and payload (R239 to R242). -/
  | wickCtl (n type payload : Nat)
  /-- A posted write of the block to host memory. -/
  | hostWrite (addr : Nat) (data : Bytes)
  /-- The answer to a host read; `poison` marks poisoned data. -/
  | hostData (data : Bytes) (poison : Bool)
  /-- An MSI-X message on a vector. -/
  | msix (v : Nat)
  /-- A control block on chain port `p` (0 UP, 1 DN), on each of the logical lanes given: type code, payload, data blocks. -/
  | chain (p : Nat) (lanes : List Nat) (type payload : Nat) (data : Bytes)
  /-- A PTP message on domain `d`: message kind, sequence and a time value. -/
  | ptp (d kind seq : Nat) (time : Nat)
  /-- An ARP reply for the port's own address. -/
  | arp (addr : Nat)
  /-- An IGMPv2 join of a group address (Table 14-3). -/
  | igmp (group : Nat)
  /-- A PMBus write to a regulator address: command code and value. -/
  | pmbus (addr cmd value : Nat)
  /-- The lens outputs from a phase boundary on: the common driven and, segment by segment, AMP + 64 × POL as driven
  (R286, R289); every other common is at high impedance. -/
  | lensDrive (c : Nat) (segs : List Nat)
  /-- Every common and segment of the lens is grounded (R280, R294). -/
  | lensGround
  /-- A pulse on SYNC_OUT: compare unit and width. -/
  | syncOut (n width : Nat)
deriving DecidableEq, Repr

/-- Whose command a job is: a ring's, in a generation of resets and after so many CQ_WRITE errors of the ring, a
broadcast's, or nobody's. The completion of a ring's command of an older generation is discarded (R420, R537);
that of a command taken before the ring's last CQ_WRITE error is dropped (R418). -/
inductive Origin where
  | ring (r gen errors : Nat)
  | bcast (origin seq atTick : Nat)
  | none
deriving DecidableEq, Repr

/-- A command that has executed and completes later (R416). -/
structure Job where
  origin : Origin := .none
  tag : Nat := 0
  opcode : Nat := 0
  irq : Bool := false
  /-- It passed authentication. -/
  authed : Bool := false
  counter : Nat := 0
  slot : Nat := 0
deriving DecidableEq, Repr

/-- A patch in the patch store: its first page, its length, its digest (R514). -/
structure Patch where
  page : Nat
  len : Nat
  digest : Bytes
deriving DecidableEq, Repr

/-- What a non-volatile write is for, and so what its end does. -/
inductive NvmWhy where
  /-- Host NVM_WRITE (R509). -/
  | host (job : Job)
  /-- Counter mark of a slot: the HI cell, then the LO cell (R431, R432). -/
  | markHi (slot mark : Nat)
  | markLo (slot mark : Nat)
  /-- Repair of an unreadable mark counter `j` before a key record (R435). -/
  | markZero (slot j : Nat)
  /-- Key record of a slot. -/
  | key (slot : Nat)
  /-- Protection, rail or pin record. -/
  | protection (job : Job) (password : Bool)
  | rail (job : Job)
  | pin (job : Job) (addr : Nat)
  /-- A page of the structure slot, and the activation record (R527). -/
  | structPage
  | actRecord
  /-- Rank record of a channel (R347). -/
  | rank (c : Nat)
  /-- A page of the patch store (R514). -/
  | patch (job : Job) (p : Patch) (left : Nat)
  | candle
  | snapshot
  | flush
  | faultRing
  | faultAck
  | patrol
  /-- Lens journal writes of a common (R296). -/
  | lensOpen (c : Nat)
  | lensDone (c : Nat)
  /-- The done write of LENS_FORCE DECLARE (R300). -/
  | lensDeclare (c level : Nat)
  /-- The done write after a recovery (R298). -/
  | lensRecover (c : Nat)
deriving DecidableEq, Repr

/-- A write of the non-volatile store within one page (R502). -/
structure NvmWr where
  page : Nat
  off : Nat
  data : Bytes
  prio : Nat
  why : NvmWhy
deriving DecidableEq, Repr

/-- A follow-up of the management core: the source and cause of its error (R545, R546). -/
structure FollowUp where
  src : Nat
  cause : Nat
deriving DecidableEq, Repr

/-- Follow-ups of one unit: the one running and the errors waiting, oldest first (R545). -/
structure FuUnit where
  running : Option FollowUp := .none
  waiting : List FollowUp := []
deriving DecidableEq, Repr

/-- Phase of a panel rail (R267). -/
inductive RailPhase where
  /-- Off, its output discharged. -/
  | off
  /-- Waiting DELAY before its ramp up. -/
  | delay
  | ramping
  | pgood
  /-- Waiting DELAY before its ramp down. -/
  | downDelay
  | down
deriving DecidableEq, Repr

/-- What the lens driver is doing (R293). -/
inductive LensPhase where
  | idle
  /-- VLCD slews and settles for the common. -/
  | vlcd (c : Nat)
  /-- VLCD has settled; the open write waits for the lens block. -/
  | ready (c : Nat)
  /-- The journal open write runs. -/
  | opening (c : Nat)
  /-- The waveform runs; `k` of its phase boundaries have passed. -/
  | wave (c k : Nat)
  /-- The waveform has ended; the done write waits for the lens block. -/
  | ended (c : Nat)
  /-- The journal done write runs. -/
  | closing (c : Nat)
deriving DecidableEq, Repr

/-- A LENS_TEMP report: when it came, its group and sensor, 1/16 °C (R283). -/
structure LensReport where
  ns : Nat
  group : Nat
  sensor : Nat
  temp : Int
deriving DecidableEq, Repr

/-- The lens driver beyond its registers (R282 to R300). -/
structure LensState where
  phase : LensPhase := .idle
  /-- Band latched for the update in progress (R285). -/
  band : Nat := 0
  /-- Band in force is known. -/
  banded : Bool := false
  /-- The update in progress drives the reset waveform (R292). -/
  reset : Bool := false
  /-- Common last updated. -/
  last : Nat := 15
  /-- Overcurrent faults per common since cold start (R294). -/
  faults : Tbl Nat := []
  /-- Recent reports, newest first. -/
  reports : List LensReport := []
  /-- No valid report for 1 s: no update starts (R283). -/
  noTemp : Bool := false
  /-- Start of the waveform in progress, housekeeping ns. -/
  start : Nat := 0
  /-- Levels being driven, per segment of the common in progress. -/
  driving : List Nat := []
  /-- The outputs have been grounded since the last waveform (R280, R294). -/
  grounded : Bool := false
  /-- VLCD entry in force, 1/16 V (R285). -/
  vlcd : Nat := 0
  /-- LENS_FORCE work still to do: common, mode, level (R300), and the DECLARE command behind it. -/
  forced : List (Nat × Nat × Nat) := []
  forceJob : Option Job := .none
deriving DecidableEq, Repr

/-- The snuff release conditions that take time (Table 18-2). -/
structure SnuffCond where
  /-- SNUFF_N has been qualified high for 10 ms. -/
  inputHigh : Bool := false
  /-- VIN has risen above 9.0 V since the VIN_WARN. -/
  vinHigh : Bool := true
  /-- Junction temperature has been below TJMAX since this housekeeping time. -/
  coolSince : Option Nat := .none
deriving DecidableEq, Repr

/-- A snapshot of the lamp log that is written, or is the newest: its place and SEQ, the running counts
it was taken at, its pages still to write, and whether one of them failed (R563). -/
structure SnapRun where
  place : Nat := 0
  seq : Nat := 0
  snuffs : Nat := 0
  rails : Nat := 0
  vins : Nat := 0
  secs : Nat := 0
  left : Nat := 0
  failed : Bool := false
deriving DecidableEq, Repr

/-- The lamp log's running counts (R562). Indexes as Table 18-6 lays the fields out. -/
structure LampLog where
  onSec : Nat := 0
  /-- Seconds per temperature bin, VIN bin and rate class. -/
  tj : Tbl Nat := []
  vin : Tbl Nat := []
  rate : Tbl Nat := []
  /-- COUNTS: power cycles, snuffs, rail faults, VIN_WARNs, warm resets, DARK_FAULTs, restarts. -/
  counts : Tbl Nat := []
  lensUpd : Tbl Nat := []
  relocks : Tbl Nat := []
  rankCe : Tbl Nat := []
  /-- Snuffs, rail faults, VIN_WARNs and seconds counted since the cold start. -/
  sinceSnuff : Nat := 0
  sinceRail : Nat := 0
  sinceVin : Nat := 0
  sinceSec : Nat := 0
  /-- The first snapshot after a cold start counts the power cycle (R563). -/
  cyclePending : Bool := false
  /-- Sequence of the newest fault-ring entry and of the newest flush record; whether there is a fault-ring entry, and a
  snapshot. -/
  ringSeq : Nat := 0
  ringAny : Bool := false
  snapAny : Bool := false
  flushSeq : Nat := 0
  /-- Place of FIRST_FATAL's fault-ring entry (R549). -/
  ffEntry : Nat := 0
  /-- Snapshots being written, oldest first, and the newest one written. -/
  snaps : List SnapRun := []
  base : SnapRun := {}
deriving DecidableEq, Repr

/-- Input qualification (R555): per input, the times of recent edges, and the last fault. -/
structure InputQual where
  /-- Recent transition times, newest first (ns). -/
  edges : List Nat := []
  /-- Time of the last INPUT_FAULT. -/
  fault : Option Nat := .none
  /-- Held at its safe level until quiet (FAST), or ignored (STUCK). -/
  held : Bool := false
deriving DecidableEq, Repr

/-- A command ring beyond its registers (R414, R415). -/
structure Ring where
  /-- Descriptors taken and not yet executed, oldest first, 64 bytes each. -/
  taken : List Bytes := []
  /-- Completion entries reserved. -/
  reserved : Nat := 0
  /-- Completion entries written and not freed. -/
  written : Nat := 0
  /-- CQ_WRITE errors so far, and how many of the descriptors taken were taken before the last one: their
  completions are dropped (R418). -/
  errors : Nat := 0
  doomed : Nat := 0
  /-- The descriptor in front has been held for a mark write of this counter (R431). -/
  markFor : Option Nat := .none
  /-- That write has ended: the descriptor in front is accepted, its counter the slot's last (R431). -/
  passed : Bool := false
deriving DecidableEq, Repr

/-- A key record being written (R435): the command, the new key (none to clear), its PERMIT. -/
structure KeyPend where
  slot : Nat
  job : Job
  key : Option Bytes
  permit : Nat
deriving DecidableEq, Repr

/-- Decoder of the CXL HDM (R408). -/
structure HdmDec where
  base : Nat := 0
  size : Nat := 0
  /-- Device address of its first byte. -/
  dpa : Nat := 0
  committed : Bool := false
  /-- Commit ended in Error Not Committed. -/
  error : Bool := false
  /-- DPA skip and interleave ways as the commit found them. -/
  skip : Nat := 0
  ways : Nat := 1
deriving DecidableEq, Repr

/-- An MSI-X table entry (R403). -/
structure MsixEntry where
  addr : Nat := 0
  data : Nat := 0
  masked : Bool := true
deriving DecidableEq, Repr

/-- What the host writes in configuration space (R403, log 20): MSI-X enable and function mask, and words of the AER
capability that have been written, by offset, as value + 1. -/
structure ConfigRegs where
  msixEnable : Bool := true
  msixMask : Bool := false
  aer : Tbl Nat := []
deriving DecidableEq, Repr

/-- A bank of a rank: its predictor, its open row, the row prediction closed (R321). -/
structure Bank where
  ctr : Nat := 2
  openRow : Option Nat := .none
  closedRow : Option Nat := .none
deriving DecidableEq, Repr

/-- An entry of a channel's row-hammer table (R333). -/
structure HammerRow where
  rank : Nat
  bank : Nat
  row : Nat
  count : Nat
deriving DecidableEq, Repr

/-- A request that holds a tag: the tag, and the 16-bit time of its issue in units of 50 ns (R311, R315); and, of a write that
its channel's queue has accepted, whether it had been promoted. -/
structure HeldReq where
  tag : Nat
  stamp : Nat
  req : MemReq
  prom : Bool := false
deriving DecidableEq, Repr

/-- What the fabric holds for a channel (R314 to R320): requests waiting for level 2 in the order of issue; the channel
queue's reads and writes in the order of their grant; whether a batch of writes drains; grants of level 2 so far,
modulo 16; for each group 1 + the member granted last, and for each class 1 + its group granted last; the bank of the
last access, and the row hits in a row to it. -/
structure Arbiter where
  waiting : List HeldReq := []
  reads : List HeldReq := []
  writes : List HeldReq := []
  draining : Bool := false
  grants : Nat := 0
  lastMember : Tbl Nat := []
  lastGroup : Tbl Nat := []
  runBank : Nat := 0
  runHits : Nat := 0
deriving DecidableEq, Repr

/-- A row whose neighbours are due to be refreshed (R332, R333). -/
structure SampledRow where
  ch : Nat
  rank : Nat
  bank : Nat
  row : Nat
deriving DecidableEq, Repr

/-- The memory system beyond its registers (R302 to R348). -/
structure MemState where
  /-- Population found; `none` before step 7. -/
  pop : Option DramPop := .none
  /-- Serial number of DIMM `d` of channel `c`, at 2 × c + d (R347). -/
  serials : List Nat := []
  /-- Spare reservation in force (R340). -/
  spare : Bool := false
  /-- The fabric's arbiter of each channel; requests whose client holds all its tags (R312); the tags promoted (R315). -/
  arb : Tbl Arbiter := []
  stalled : List MemReq := []
  promoted : List Nat := []
  /-- Device address line number to mask of devices whose stored symbols are wrong (R322). -/
  errs : Tbl Nat := []
  banks : Tbl Bank := []
  hammer : Tbl (List HammerRow) := []
  /-- Channels whose HAMMER_TABLE event was raised in this refresh window. -/
  hammerRaised : List Nat := []
  /-- Rows selected by the generator, or in the table at THRESH, whose neighbours are still to be refreshed. -/
  sampled : List SampledRow := []
  /-- Lines of a migrating rank that an uncorrectable error has poisoned on TARGET alone (R346). -/
  tgtLost : List Nat := []
  /-- Corrected errors in the window, by 4 × channel + rank (R341). -/
  ceWin : Tbl Nat := []
  /-- Refresh debt, by 8 × channel + bank index or rank (R329, R330). -/
  debt : Tbl Nat := []
  /-- Last MEM_POISON per channel and last ARB_STARVE: housekeeping ns + 1, 0 never. -/
  poisonAt : Tbl Nat := []
  starveAt : Nat := 0
  /-- Start of a channel's migration, housekeeping ns. -/
  migAt : Tbl Nat := []
  /-- Frequency change running, and one held (R338). -/
  freqRun : Option Nat := .none
  freqHeld : Option Nat := .none
  /-- Between the start of step 7 of a cold start and READY_DARK (R333). -/
  startTable : Bool := false
  /-- Ranks whose record RESTORE cleared, by 4 × channel + rank, until the next cold start (R348). -/
  restored : List Nat := []
  /-- Channels in self-refresh (R335). -/
  selfRefresh : Bool := false
  /-- Step 7 of the running start has set up the ranks and the rate; channels whose step-4 margins failed in it (R335). -/
  setUp : Bool := false
  margin : List Nat := []
  /-- Lines moved since the scan frame started (R49). -/
  moved : Nat := 0
deriving DecidableEq, Repr

/-- A structure activation in progress (R527). -/
structure Activation where
  image : Bytes
  /-- 1 memory, 2 slot A, 3 slot B, as STR_STAT.SRC. -/
  source : Nat
  job : Job
  /-- Pages of the image not yet stored, and the slot stored to. -/
  pagesLeft : Nat
  slot : Nat
  /-- The activation record has been queued. -/
  recording : Bool
  /-- Step 3 has begun: the panel rails power down (R527). -/
  begun : Bool
  /-- Step 4 is done: the image is in force and steps 8 to 12 of the start run. -/
  taken : Bool
deriving DecidableEq, Repr

/-- Orderly dark in progress (R538). -/
structure Orderly where
  jobs : List Job
  /-- BLANK is going out since the boundary point. -/
  blanking : Bool
deriving DecidableEq, Repr

/-- A PTP master that has announced itself in a domain: its identity, the data set it announces, and
how many Announce messages have come (R449, R451). -/
structure Foreign where
  master : DWord
  data : AnnounceMsg
  count : Nat
deriving DecidableEq, Repr

/-- A PTP instance beyond its registers (R449 to R451). Offsets are in 2^-16 ns. -/
structure PtpState where
  masters : List Foreign := []
  sel : Option DWord := .none
  /-- Two-step Sync whose Follow_Up is awaited: master, sequence, corrected receive time, correction. -/
  wait : Option (DWord × Nat × Int × Int) := .none
  /-- Slave minus master of the last Sync, before the path delay. -/
  ms : Option Int := .none
  mpd : Int := 0
  /-- Sequence of the last delay request, and the one awaiting its answer. -/
  seq : Nat := 0
  asked : Option Nat := .none
deriving DecidableEq, Repr

/-- The time unit beyond its registers (R441 to R456, R30 to R35). -/
structure TimeState where
  /-- SEC × 10^9 + NS of each base, and its part below a nanosecond in 2^-40 ns. -/
  total : Tbl Nat := []
  frac : Tbl Nat := []
  /-- Rate word of each base without its slew, and the direction of its slew. -/
  servo : Tbl Int := []
  slew : Tbl Int := []
  /-- Consecutive offsets below the lock limit; bases LOCKED since they were FREE. -/
  lockRun : Tbl Nat := []
  locked : List Nat := []
  /-- Tick the generator issues next. -/
  nextTick : Nat := 0
  /-- Fraction of T0 in 2^-32 ns, which a change of the period leaves (R34). -/
  t0Frac : Nat := 0
  /-- Part of the handover offset below 2^-16 ns, in 2^-40 ns. -/
  dFrac : Nat := 0
  ptp : Tbl PtpState := []
  /-- The handover running is one of TB3, and not of the base that SEL names (R447, R453). -/
  handTb3 : Bool := false
  /-- SYNC_IN: last qualified edge, and the edges of the last period that count toward qualification, newest first,
  housekeeping ns; the last time more than two edges came within one period (R556). -/
  syncGood : Option Nat := .none
  syncPrev : List Nat := []
  syncBad : Option Nat := .none
deriving DecidableEq, Repr

/-- A delay measurement of a chain lane: sequence sent, exchanges done, sum of the delays in ps (R466). -/
structure DelayRun where
  seq : Nat := 0
  count : Nat := 0
  sum : Int := 0
deriving DecidableEq, Repr

/-- The receiver of a lane: the validity of its last 64 headers, newest first; block lock; whether the first block after
lock is still to come; an inverted pair, and how many blocks in a row have shown one (R236, R245). -/
structure Receiver where
  headers : List Bool := []
  lock : Bool := false
  first : Bool := false
  inv : Bool := false
  run : Nat := 0
deriving DecidableEq, Repr

/-- A chain port beyond its registers (R458, R459). -/
structure ChainPort where
  /-- Inputs that hold block lock, with 1 + LANE + 4 × PORT of the CTRAIN they show. -/
  seen : Tbl Nat := []
  /-- RXGOOD of the partner's last CSTAT. -/
  partner : Nat := 0
  /-- Logical lanes that failed and wait for 1 s of unbroken lock. -/
  failed : List Nat := []
  /-- The receivers of the four inputs. -/
  rx : Tbl Receiver := []
  /-- Inputs whose adaptation is frozen (R263). -/
  frozen : List Nat := []
deriving DecidableEq, Repr

/-- A broadcast accepted for a later tick, or waiting for a counter mark; `outer` is the command of
this unit that sent it. -/
structure Held where
  origin : Nat
  seq : Nat
  atTick : Nat
  desc : Bytes
  outer : Option Job
  /-- Tick AT_TICK − 1 had been issued when it arrived (R474). -/
  late : Bool := false
deriving DecidableEq, Repr

/-- The chain beyond its registers (R458 to R475). -/
structure ChainState where
  ports : Tbl ChainPort := []
  delays : Tbl DelayRun := []
  held : List Held := []
  waiting : List Held := []
  /-- SEQ of the last BCAST sent as origin. -/
  seq : Nat := 0
  /-- BCASTs taken of late, and when, housekeeping ns, newest first (R460). -/
  copies : List (DWord × Bytes × Nat) := []
  /-- Outcome of the last offer: cause and address (R462 to R464). -/
  outcome : Nat × Nat := (0, 0)
  /-- SLEW of the last valid beacon, and the last TICK_SLIP with cause BEACON. -/
  slew : Int := 0
  slipAt : Option Nat := .none
  /-- Beacons missed since the last valid one, and whether this tick interval's beacon has arrived, good or bad (R468, R471). -/
  badRun : Nat := 0
  heard : Bool := false
  /-- The UP port has come UP since step 11 (R461). -/
  upSeen : Bool := false
deriving DecidableEq, Repr

/-- The clock synthesizer beyond its registers (R480 to R490). -/
structure ClkState where
  /-- Registers of the PLLs in force, by offset (R487). -/
  force : Tbl DWord := []
  /-- Consecutive good lock windows of each PLL (R481). -/
  good : Tbl Nat := []
  /-- Last DRIFT per PLL and last REF_PPM: housekeeping ns + 1, 0 never. -/
  driftAt : Tbl Nat := []
  ppmAt : Nat := 0
  /-- PLLs that have timed out, and those whose wicks or chain ports retrain once locked. -/
  timedOut : List Nat := []
  retrain : List Nat := []
  /-- Part of the built-out phase removed so far, in femtoseconds, below 1 ps (R490). -/
  pboFs : Nat := 0
deriving DecidableEq, Repr

/-- A wick group beyond its registers (R250 to R254): reports since its training state began, and
whether a preset request has been applied in this attempt. -/
structure WlnGroup where
  status : Bool := false
  order : Bool := false
  eqDone : Bool := false
  /-- The starting preset of an attempt that began while SNUFFED waits for the release (R242). -/
  presetHeld : Bool := false
deriving DecidableEq, Repr

/-- The wick lanes beyond their registers. -/
structure WlnState where
  groups : Tbl WlnGroup := []
  /-- Housekeeping time of each wick's LOCK_LOST. -/
  lostAt : Tbl Nat := []
  /-- Wicks whose next ROW_START carries RESUME. -/
  resume : List Nat := []
  /-- Wicks whose ROW_CRC was raised in this scan frame (R264). -/
  crcRaised : List Nat := []
  /-- The receivers of the return lanes. -/
  rx : Tbl Receiver := []
deriving DecidableEq, Repr

/-- A row in a wick's FIFO: its number and its linear values (R174, R175). -/
structure RowSlot where
  row : Nat
  vals : List Nat
deriving DecidableEq, Repr

/-- A witness rectangle's run in the present frame: CRC so far, row awaited, and whether a row it
covers was not sent in full (R227, R228). -/
structure WitRun where
  crc : Nat := 0
  next : Nat := 0
  bad : Bool := false
deriving DecidableEq, Repr

/-- A WITNESS_SET that waits for its boundary point (R229). -/
structure WitSet where
  job : Job
  rect : Nat
  mode : Nat
  place : Nat
  fnum : Nat
  expect : Nat
deriving DecidableEq, Repr

/-- A commit that has passed its checks (R221): its generation, its command and its snapshot of the
shadow set, by offset. -/
structure Commit where
  gen : Nat
  job : Job
  shadow : Tbl DWord
deriving DecidableEq, Repr

/-- A quad's build: the row its lantern builds next, and its exempt rows, from `hold` up to `join`
(R198 to R200). -/
structure QuadState where
  row : Nat := 0
  hold : Option Nat := none
  join : Nat := 0
deriving DecidableEq, Repr

/-- A lantern's caches: texel lines by set, most recent first, and the record and residual lines of
the lenslet row it builds; each line by number with its bytes, `none` for poison (R190, R191, R194). -/
structure LantState where
  cache : Tbl (List (Nat × Option Bytes)) := []
  lensRow : Option Nat := none
  ray : List (Nat × Option Bytes) := []
  /-- Residual lines of the row being built, from the ray being formed on (R191). -/
  res : List (Nat × Option Bytes) := []
deriving DecidableEq, Repr

/-- A line in the overlay line buffers (R214): its number, its bytes, `none` for poison, the last head row fetched
for that it serves, and whether it serves one of head rows 0 to 15. -/
structure OvLine where
  line : Nat
  data : Option Bytes
  last : Nat
  early : Bool
deriving DecidableEq, Repr

/-- Scan-out and the raster beyond their registers (R36 to R56, R204 to R230). -/
structure ScanState where
  /-- Tick that started the scan frame, and the tick period it runs under. -/
  frame : Nat := 0
  period : Nat := 0
  /-- A frame has started since the raster began. -/
  started : Bool := false
  /-- The raster has stopped and what waited for its boundary point is still to take effect (R19). -/
  halted : Bool := false
  /-- Rows of the scan frame, A + B as its tick found them (R36). -/
  rows : Nat := 0
  /-- Row that starts next; the boundary point has passed. -/
  nextRow : Nat := 0
  past : Bool := false
  /-- Aborts in this frame; rows wait for a restart; the frame is not restarted. -/
  aborts : Nat := 0
  aborting : Bool := false
  dead : Bool := false
  /-- Deferred ticks whose frames have not started, oldest first (R38). -/
  deferred : List Nat := []
  /-- No snuff path has held since the frame started. -/
  live : Bool := false
  fifo : Tbl (List RowSlot) := []
  quads : Tbl QuadState := []
  lants : Tbl LantState := []
  /-- 1 + the spare that has taken over a faulted lantern (R200, R201). -/
  spares : Tbl Nat := []
  /-- Registers of the shadow set in force, by the offset of the shadow register (R219, R220). -/
  force : Tbl DWord := []
  pend : Option Commit := none
  wit : Tbl WitRun := []
  witPend : List WitSet := []
  /-- Rectangles whose ONCE setting has expired (R230). -/
  expired : List Nat := []
  /-- WITNESS_EXPECT cues of the current content frame, and its repetition (R83). -/
  cues : List (Nat × Nat × Nat) := []
  rep : Nat := 0
  /-- Overlay lines held, the first head row not fetched for, and the poisoned lines counted in this frame (R214). -/
  ov : List OvLine := []
  ovNext : Nat := 0
  ovBad : List Nat := []
  /-- LANT_POISON_SUB, RAYMAP_ERR and LANT_BUDGET raised in this frame. -/
  subRaised : Bool := false
  mapRaised : Bool := false
  /-- Rays, layer samples and decoded samples of this frame (R49). -/
  rays : Nat := 0
  samples : Nat := 0
  decoded : Nat := 0
  /-- Sums and counts of the linear values sent in this frame, by aging zone, and those of the last
  frame in which a row of the zone was sent (R160). -/
  zsum : Tbl Nat := []
  zcnt : Tbl Nat := []
  psum : Tbl Nat := []
  pcnt : Tbl Nat := []
  /-- Uniformity banks flip at the next boundary point (R169). -/
  flips : List Nat := []
deriving DecidableEq, Repr

/-- A layer of a content frame (Table 3-3); fp32 fields as raw bits, planes by device address, state
as LDEC_LAYERS codes it (R130). -/
structure Layer where
  z : Nat
  tiltX : Nat
  tiltY : Nat
  orgX : Nat
  orgY : Nat
  pitch : Nat
  width : Nat
  height : Nat
  fmt : Nat
  cset : Nat
  offs : List (Nat × Nat)
  state : Nat
  yAt : Nat
  cAt : Nat
  aAt : Nat
deriving DecidableEq, Repr

/-- A cue of a record (Table 3-6); OVERLAY keeps its offset within the unpacked side data. -/
inductive Cue where
  | overlay (off plane mask galpha x y addr0 addr1 : Nat)
  | lensTarget (first : Nat) (levels : List Nat)
  | witness (rect rep crc : Nat)
deriving DecidableEq, Repr

/-- A content frame: its record's place, number and presentation time with its span's offset. -/
structure Content where
  span : Nat
  off : Nat
  recLen : Nat
  frame : Nat
  pt : Nat
  gen : Nat
  layers : List Layer := []
  cues : List Cue := []
  /-- The last record of the reel (R118). -/
  last : Bool := false
deriving DecidableEq, Repr

/-- The header of the record after the one in the decoder, once it has been read (R43, R44): its place, its number,
its presentation time with its span's offset, its length; whether it passed steps 1 to 4; whether its deadline had
passed before it was known; and whether DEC_LATE has been raised for it. -/
structure Ahead where
  span : Nat
  off : Nat
  frame : Nat
  pt : Nat
  recLen : Nat
  good : Bool
  after : Bool
  late : Bool
deriving DecidableEq, Repr

/-- A record in the decoder (R101, R123, R40). -/
structure Decode where
  c : Content
  hdr : Bytes
  /-- Steps 6 to 10 have passed; side data unpacked; codestreams and closing CRC done. -/
  parsed : Bool := false
  side : Bool := false
  body : Bool := false
  /-- Carry copies still to finish: layer, source and destination (R131, R132). -/
  carries : List (Nat × Layer × Layer) := []
  start : Nat := 0
  /-- DEC_LATE has been raised for it; its header became known after its deadline (R43). -/
  late : Bool := false
  knownLate : Bool := false
deriving DecidableEq, Repr

/-- A REEL_FETCH that runs (R105 to R107), by a number of its own. -/
structure Fetch where
  id : Nat
  job : Job
  adv : Bool
  span : Nat
  src : Nat
  dst : Nat
  count : Nat
  /-- Units landed in order from the first, and units landed ahead of them. -/
  inOrder : Nat := 0
  ahead : List Nat := []
  /-- It has completed; FILL has still to pass its units (R106). -/
  done : Bool := false
deriving DecidableEq, Repr

/-- The reel manager and the layer decoder beyond their registers. -/
structure ReelState where
  fetches : List Fetch := []
  cur : Option Content := none
  nc : Option Decode := none
  /-- Record parsed last: span, record end in 4 KiB units, frame number, presentation time (R69). -/
  prev : Option (Nat × Nat × Nat × Nat) := none
  /-- The cursor has passed the last record of the reel. -/
  atEnd : Bool := false
  /-- A SEEK while PAUSED shows its target as a still (R117). -/
  still : Bool := false
  /-- The decoder probes 4 KiB boundaries for a header (R86). -/
  probe : Bool := false
  /-- Tick time of the tick after the last boundary point taken while PLAYING: a header read later becomes known after the
  deadline of a record that was due at it (R43). -/
  judged : Option Nat := none
  /-- The next record's header, read while another record decodes (R44). -/
  ahead : Option Ahead := none
  /-- Number of the next fetch accepted. The model's own name for a fetch. -/
  nextFetch : Nat := 0
deriving DecidableEq, Repr

/-- Grid parameters of a ray map generation, fp32 bits (R148). -/
structure RayGrid where
  x0 : Nat := 0
  y0 : Nat := 0
  theta : Nat := 0
  fx : Nat := 0
  fy : Nat := 0
deriving DecidableEq, Repr

/-- A wick's table in a uniformity push: place of its words, words, CRC, words sent, attempts, and
whether the commit word is out, accepted or failed (R167, R168). -/
structure UniEntry where
  wick : Nat
  off : Nat
  words : Nat
  crc : Nat
  sent : Nat := 0
  attempts : Nat := 1
  /-- 0 sending, 1 awaiting TABLE_ACK, 2 accepted, 3 failed. -/
  phase : Nat := 0
deriving DecidableEq, Repr

/-- A uniformity push (R165 to R170). -/
structure UniPush where
  job : Job
  src : Nat
  len : Nat
  /-- Still being unpacked. -/
  unpacking : Bool
  entries : List UniEntry := []
  /-- Every wick accepted; the switch awaits its boundary point and the row that carries it. -/
  switching : Bool := false
deriving DecidableEq, Repr

/-- The ray map, aging and uniformity beyond their registers (R148 to R170). -/
structure RmapState where
  /-- RAYMAP_LOAD being staged: command, source, length, GZ. -/
  job : Option (Job × Nat × Nat × Bool) := none
  cur : RayGrid := {}
  staged : RayGrid := {}
  /-- Aging gains in force and pending, by 3 × zone + primary, 0x8000 unlisted. -/
  gains : Tbl Nat := []
  pend : Option (Tbl Nat) := none
  /-- Accrual not yet in the counters, in 2^-24 units, and the counters, by zone (R161). -/
  acc : Tbl Nat := []
  units : Tbl Nat := []
  push : Option UniPush := none
deriving DecidableEq, Repr

/-- An HZ_JOB: its command, its ring, its descriptor, and its source chain as read at the start (R356). -/
structure HzRun where
  job : Job
  ring : Nat
  desc : Bytes
  src : List (Nat × Nat) := []
deriving DecidableEq, Repr

/-- The lossless engine beyond its registers (R351 to R357): jobs waiting in order, the job of each pool
pipe, the ring served last, the pipes that staging holds, the pipe that unpacking holds. -/
structure HleState where
  queue : List HzRun := []
  run : Tbl (Option HzRun) := []
  last : Nat := 7
  stage : List Nat := []
  uni : Option Nat := none
deriving DecidableEq, Repr

/-- A BLIT that runs: its command, its ring, its descriptor, and the two surfaces as they read when it
started (R382), each as BASE, STRIDE, WIDTH, HEIGHT, FMT and clip. -/
structure BltRun where
  job : Job
  ring : Nat
  desc : Bytes
  dst : List Nat
  src : List Nat
deriving DecidableEq, Repr

/-- The 2D engine beyond its registers. -/
structure BltState where
  run : Option BltRun := none
  last : Nat := 7
deriving DecidableEq, Repr

/-- The whole machine. -/
structure State where
  /-- The register file of BAR0, by offset; unlisted registers hold their reset values (R7). -/
  regs : Tbl DWord := []
  /-- Low half of a 64-bit register held until its high half is written (R11). -/
  held : Option (Nat × Nat) := none
  /-- Housekeeping nanoseconds. -/
  ns : Nat := 0
  /-- Generation of function-level resets: completions of older jobs are discarded (R420). -/
  flr : Nat := 0
  /-- Draws of free values so far. The model's own field (log 3). -/
  free : Nat := 0
  /-- What left the block in the last step. The model's own field (log 3). -/
  out : List Emission := []
  /-- Commands waiting, first in first out. -/
  pending : List Instr := []
  /-- Device memory, unlisted bytes 0, and the numbers of poisoned 64-byte lines. -/
  mem : List Host.Cell := []
  poison : List Nat := []
  dram : MemState := {}
  /-- The non-volatile array, and the health of its 8-byte groups: 1 one bit bad, 2 uncorrectable. -/
  nvm : List Host.Cell := []
  nvmBad : Tbl Nat := []
  /-- Main block: write running and writes queued in order; lens block: write running. -/
  nvmRun : Option NvmWr := none
  nvmQueue : List NvmWr := []
  lensRun : Option NvmWr := none
  /-- Groups of the lens block that wait to be rewritten after a corrected read (R492, R495). -/
  lensRewrite : List Nat := []
  /-- Last NVM_ECC CORRECTED event (R495), housekeeping ns. -/
  nvmCeAt : Option Nat := none
  /-- Main-block page found torn at the last start (R506). -/
  tornPage : Option Nat := none
  /-- Group the patrol reads next (R496). -/
  patrolGrp : Nat := 0
  /-- Patches installed, in page order (R514). -/
  patches : List Patch := []
  /-- NVM_READ copies in progress (R508). -/
  nvmReads : List (Job × Bytes) := []
  rings : Tbl Ring := []
  /-- Ring served last in the round robin (R414). -/
  rrRing : Nat := 7
  /-- Keys of the slots that are set (R426). -/
  keys : Tbl Bytes := []
  keyPend : List KeyPend := []
  hdm : Tbl HdmDec := []
  /-- Words of the CXL.cachemem range that have been written, by HOST offset, as value + 1 (R407, log 18). -/
  cxlRegs : Tbl Nat := []
  /-- The link has gone down without a reset and has not come back (R405). -/
  linkLost : Bool := false
  /-- LEASE_VIOLATION has been raised in this scan frame (R226). -/
  leaseRaised : Bool := false
  msix : Tbl MsixEntry := []
  cfg : ConfigRegs := {}
  pba : List Nat := []
  /-- Last CXL_ERR with cause POISON and with cause APER, housekeeping ns. -/
  cxlPoisonAt : Option Nat := none
  cxlAperAt : Option Nat := none
  /-- Follow-ups per unit: block code × 256 + index. -/
  followUps : Tbl FuUnit := []
  snuff : SnuffCond := {}
  inputs : Tbl InputQual := []
  log : LampLog := {}
  /-- Last restart of the management core, ns; a restart is in progress. -/
  restartAt : Option Nat := none
  restarting : Bool := false
  rails : Tbl RailPhase := []
  /-- Start of the rail sequence running, ns; the emitter set follows VLCD (R268). -/
  railSeqAt : Nat := 0
  railThen : Bool := false
  /-- The power-down running is that of a rail fault (R272). -/
  railFaulted : Bool := false
  /-- A fault has taken the rails down, and neither RAIL_CTRL.UP nor the step 8 of a start has come since (R268, R273, R281). -/
  railHeld : Bool := false
  /-- The regulator table in force since step 4 of the cold start, an entry of 16 bytes each (R277). -/
  vrms : List Bytes := []
  /-- A regulator has failed: the regulators go off once the fault-ring entry is written (R279, R549). -/
  vrmFailed : Bool := false
  /-- The VRM_EN ball is high (R573). -/
  vrmEn : Bool := false
  lens : LensState := {}
  /-- Optical levels that await a COMMIT, by zone, as level + 1 (R146); commons a COMMIT has been
  accepted for since their LENS_DONE. -/
  optPend : Tbl Nat := []
  optArmed : List Nat := []
  time : TimeState := {}
  chain : ChainState := {}
  clk : ClkState := {}
  wln : WlnState := {}
  scan : ScanState := {}
  reel : ReelState := {}
  rmap : RmapState := {}
  hle : HleState := {}
  blt : BltState := {}
  /-- Structure image in force (kept copy, R529). -/
  img : Option Bytes := none
  act : Option Activation := none
  /-- What began the start in progress, or the last one: 1 cold start, 2 warm reset, 3 a command (R539). -/
  trigger : Nat := 1
  /-- When step 2 of the last start began, housekeeping ns (STR_START_TIME). -/
  startAt : Nat := 0
  /-- Image that passed step 13 of Table 17-3 in the start in progress, and its source. -/
  cand : Option (Bytes × Nat) := none
  orderly : Option Orderly := none
  /-- A PLAY accepted in READY_DARK waits for the rails (R533). -/
  wantLight : Bool := false
  /-- Row 0 has been sent since lighting began (Table 17-4). -/
  rowZero : Bool := false
deriving DecidableEq, Repr

/-- The machine with no supply yet, the lamplighter in OFF: every register at the reset value its
table gives (R7), memory as the spec leaves it, nothing queued. The store is as it left the factory (R494): the identity page
with its MAGIC, its VERSION and its CRC over them; what the spec gives no value for is 0 (log 135). -/
def State.reset : State :=
  { nvm := [(0, 0x44#8), (1, 0x49#8), (2, 0x5A#8), (3, 0x56#8), (5, 0x01#8), (252, 0xF8#8), (253, 0x15#8), (254, 0x94#8),
      (255, 0x25#8)] }

end Sys2Proof.Machine
end

