-- ==== Sys2Proof/Machine/Ops.lean ====
section
/-! DEFINITION. The operations every family shares: reading and writing register fields, drawing a
free value, recording an event and sending its message (R540, R437), errors and their follow-ups
(R545 to R547), the snuffer (R551 to R554), the writes of the non-volatile store (R501, R502),
powering the panel rails down (R272), entering DARK_FAULT (R534, R548) and completing a command
(R417). -/

namespace Sys2Proof.Machine

/-! ### Registers -/

/-- The register at `off`. -/
def reg (s : State) (off : Nat) : DWord := tblGet (resetOf off) s.regs off

/-- Writes the register at `off` whole. -/
def setReg (s : State) (off : Nat) (v : DWord) : State :=
  { s with regs := tblSet (resetOf off) s.regs off v }

/-- Value of a field. -/
def fld (s : State) (f : Fld) : Nat := bitsOf (reg s f.off).toNat f.lo (f.hi - f.lo + 1)

/-- Writes a field; the value is cut to the field's width. -/
def setFld (s : State) (f : Fld) (v : Nat) : State :=
  setReg s f.off (BitVec.ofNat 64 (putBits (reg s f.off).toNat f.lo (f.hi - f.lo + 1) v))

/-- A one-bit field as a truth value. -/
def flag (s : State) (f : Fld) : Bool := decide (fld s f = 1)

/-- Adds `k` to a count that saturates at its field's largest value. -/
def incSat (s : State) (f : Fld) (k : Nat) : State :=
  setFld s f (satAdd (f.hi - f.lo + 1) (fld s f) k)

/-- Keeps the larger of a peak field and a new sample, cut to the field's largest value. -/
def setPeak (s : State) (f : Fld) (v : Nat) : State :=
  setFld s f (max (fld s f) (min v (2 ^ (f.hi - f.lo + 1) - 1)))

/-- A field cut to its largest value when the value written does not fit. -/
def setSat (s : State) (f : Fld) (v : Nat) : State :=
  setFld s f (min v (2 ^ (f.hi - f.lo + 1) - 1))

/-- Signed value of a field. -/
def sfld (s : State) (f : Fld) : Int := toSigned (f.hi - f.lo + 1) (fld s f)

/-- Writes a signed value, limited to the field's range. -/
def setSFld (s : State) (f : Fld) (v : Int) : State :=
  let w := f.hi - f.lo + 1
  setFld s f (ofSigned w (clampI (-(2 ^ (w - 1) : Nat)) ((2 ^ (w - 1) : Nat) - 1) v))

/-- Applies `g` once for each number of the list. -/
def forAll (ns : List Nat) (g : Nat → State → State) (s : State) : State :=
  ns.foldl (fun t n => g n t) s

/-- A register back at its reset value. -/
def resetReg (s : State) (off : Nat) : State := setReg s off (resetOf off)

/-! ### The lamplighter's state -/

/-- GEN_STATE code of a lamplighter state. -/
def Lamp.code : Lamp → Nat
  | .off => 0
  | .housekeeping => 1
  | .hostWait => 2
  | .readyDark => 3
  | .lighting => 4
  | .lit => 5
  | .snuffed => 6
  | .darkFault => 7

/-- The lamplighter state GEN_STATE reads. -/
def lamp (s : State) : Lamp :=
  match fld s Reg.GEN_STATE_STATE with
  | 0 => .off
  | 1 => .housekeeping
  | 2 => .hostWait
  | 3 => .readyDark
  | 4 => .lighting
  | 5 => .lit
  | 6 => .snuffed
  | _ => .darkFault

/-- Moves the lamplighter. -/
def setLamp (s : State) (l : Lamp) : State := setFld s Reg.GEN_STATE_STATE l.code

/-- R3: lit is LIGHTING or LIT. -/
def isLit (s : State) : Bool := decide (lamp s = .lighting ∨ lamp s = .lit)

/-- R3: dark is every other state. -/
def isDark (s : State) : Bool := !isLit s

/-! ### Emissions and free values -/

/-- Records what leaves the block. -/
def emit (s : State) (e : Emission) : State := { s with out := s.out ++ [e] }

/-- The state a command starts from: nothing has left the block in this step yet. -/
def fresh (s : State) : State := { s with out := [] }

/-- Moves the counter of draws on (log 6). -/
def drew (s : State) : State := { s with free := s.free + 1 }

/-- TB0 nanosecond count. -/
def tb0 (s : State) : Nat := (reg s (Reg.TIME_TB_NOW 0)).toNat

/-! ### Messages (R403, R436, R437) -/

/-- Sends the MSI-X message of a vector, or holds it in the pending bit array while the vector or the function is masked. With
MSI-X not enabled no message goes out. -/
def sendMsix (v : Nat) (s : State) : State :=
  if !s.cfg.msixEnable then s
  else if (tblGet {} s.msix v).masked || s.cfg.msixMask then { s with pba := setInsert v s.pba } else emit s (.msix v)

/-- An occurrence on a vector (R437). -/
def vecOccur (v : Nat) (s : State) : State :=
  let sent := (reg s Reg.HOST_VEC_SENT).toNat
  if bitOf sent v then
    setReg s Reg.HOST_VEC_LATE (BitVec.ofNat 64 (putBits (reg s Reg.HOST_VEC_LATE).toNat v 1 1))
  else
    sendMsix v (setReg s Reg.HOST_VEC_SENT (BitVec.ofNat 64 (putBits sent v 1 1)))

/-! ### Events (R540, R542) -/

/-- A capture field: width 8, 16, 32 or 64, and value; negative values are sign-extended. -/
abbrev Cap := Nat × Int

/-- Packs capture fields from position `pos` on, each at the next multiple of its width (R542). -/
def packFrom : Nat → List Cap → Nat
  | _, [] => 0
  | pos, (w, v) :: t =>
    let p := ceilDiv pos w * w
    ofSigned w v * 2 ^ p + packFrom (p + w) t

/-- DATA0 to DATA3 of a capture as one 256-bit number. -/
def packCap (cs : List Cap) : Nat := packFrom 0 cs % 2 ^ 256

/-- Ember bit of source `src`. -/
def emberFld (src : Nat) : Fld := ⟨Reg.MGMT_EV_PEND (src / 64), src % 64, src % 64⟩

/-- Stores an occurrence in FIRST: the capture, the TB0 count and FIRST_VALID (R540). -/
def storeFirst (src data : Nat) (forced : Bool) (s : State) : State :=
  let s := setReg s (Reg.MGMT_EV_TIME src) (BitVec.ofNat 64 (tb0 s))
  let s := forAll [0, 1, 2, 3]
    (fun i s => setReg s (Reg.MGMT_EV_DATA src i) (BitVec.ofNat 64 (bitsOf data (64 * i) 64))) s
  setFld (setFld s (Reg.MGMT_EV_CNT_FIRST_VALID src) 1) (Reg.MGMT_EV_CNT_FORCED src) (b2n forced)

/-- An occurrence of a source: ember bit, COUNT or OVF, FIRST, and the message of its vector
(R540, R436). -/
def recordEvent (src data : Nat) (forced : Bool) (s : State) : State :=
  let s := setFld s (emberFld src) 1
  let s := if fld s (Reg.MGMT_EV_CNT_COUNT src) = 0xFFFF then setFld s (Reg.MGMT_EV_CNT_OVF src) 1
    else setFld s (Reg.MGMT_EV_CNT_COUNT src) (fld s (Reg.MGMT_EV_CNT_COUNT src) + 1)
  let s := if flag s (Reg.MGMT_EV_CNT_FIRST_VALID src) then s else storeFirst src data forced s
  if flag s (Reg.HOST_ROUTE_EN src) then vecOccur (fld s (Reg.HOST_ROUTE_VEC src)) s else s

/-- Raises an event with its capture fields. -/
def raise (src : Nat) (cs : List Cap) (s : State) : State := recordEvent src (packCap cs) false s

/-- Clears the record of a source: ember bit, COUNT, OVF, FIRST_VALID and FORCED (R541). -/
def clearEvent (src : Nat) (s : State) : State :=
  setReg (setFld s (emberFld src) 0) (Reg.MGMT_EV_CNT src) 0

/-- Numbers of the event sources that rules outside the wicks raise. -/
def evCmdRingErr : Nat := 192
def evAuthFail : Nat := 193
def evCxlLink : Nat := 194
def evCxlErr : Nat := 195
def evStructDone : Nat := 196
def evStructReject : Nat := 197
def evRailSeq : Nat := 240
def evRailFault : Nat := 241
def evVinWarn : Nat := 242
def evVrmFault : Nat := 243
def evLensDone : Nat := 244
def evLensFault : Nat := 245
def evLensTempBand : Nat := 246
def evLensRecover : Nat := 247
def evNvmDone : Nat := 248
def evNvmEcc : Nat := 249
def evNvmProtect : Nat := 250
def evNvmTorn : Nat := 251
def evThermal : Nat := 252
def evSnuff : Nat := 253
def evFwWatchdog : Nat := 254
def evInputFault : Nat := 255

/-! ### The lamp log's running counts (R562) -/

/-- Adds one to COUNTS entry `i`. -/
def logCount (i : Nat) (s : State) : State :=
  let c := tblSet 0 s.log.counts i (satAdd 32 (tblGet 0 s.log.counts i) 1)
  { s with log := { s.log with counts := c } }

/-- Notes a snuff assertion, a rail fault or a VIN_WARN for the lamp log (R562, R564). -/
def logSnuff (s : State) : State :=
  let s := logCount 1 s
  { s with log := { s.log with sinceSnuff := s.log.sinceSnuff + 1 } }

def logRailFault (s : State) : State :=
  let s := logCount 2 s
  { s with log := { s.log with sinceRail := s.log.sinceRail + 1 } }

def logVinWarn (s : State) : State :=
  let s := logCount 3 s
  { s with log := { s.log with sinceVin := s.log.sinceVin + 1 } }

/-! ### Wicks -/

/-- The 192 wicks, the 24 groups and the like. -/
def wicks : List Nat := List.range 192
def groups : List Nat := List.range 24

/-- A wick in use has pixel columns (WICKMAP, R520). -/
def wickInUse (s : State) (n : Nat) : Bool := decide (fld s (Reg.SCAN_W_COLS_COUNT n) ≠ 0)

/-- A group in use has a wick in use; its GEN is then not 0 (Table 17-3, step 12). -/
def groupInUse (s : State) (g : Nat) : Bool := (List.range 8).any fun i => wickInUse s (8 * g + i)

/-- BLANK of a wick (Table 8-2). -/
def blankBlock (n cause : Nat) : Nat := 0x40 + n * 2 ^ 8 + n % 8 * 2 ^ 16 + cause * 2 ^ 24

/-- Output `o` of PLL `p` runs: it is enabled in force, and the PLL's outputs are not gated (R480, R482). -/
def clkRuns (s : State) (p o : Nat) : Bool :=
  !flag s (Reg.CLK_PLL_STAT_GATED p) && bitOf (tblGet 0 s.clk.force (Reg.CLK_OUT p o)).toNat 16

/-- The lanes of a group carry blocks: it is not DOWN (R205), and its transmitters' clock runs (Table 15-2). -/
def laneSends (s : State) (n : Nat) : Bool :=
  decide (fld s (Reg.WLN_GSTAT_STATE (n / 8)) ≠ 0) && clkRuns s (n / 48) (n % 48)

/-- A wick in use sends at all. -/
def wickSends (s : State) (n : Nat) : Bool := wickInUse s n && laneSends s n

/-- Every lane that sends at all sends BLANK with the cause: the eight of a group that trains as well, whatever
columns they have (R23, R205, R242, R552). -/
def sendBlank (cause : Nat) (s : State) : State :=
  forAll (wicks.filter (laneSends s)) (fun n s => emit s (.wickCtl n 0x40 (blankBlock n cause))) s

/-! ### Steering (R488) -/

/-- The base TIME_TICK_CTRL.SEL names. -/
def selBase (s : State) : Nat := fld s Reg.TIME_TICK_CTRL_SEL
def rateOf (s : State) (b : Nat) : Int := toSigned 32 (reg s (Reg.TIME_TB_RATE b)).toNat

/-- While lit TPLL follows the rate of the base that drives ticks (R488). -/
def fixSteer (s : State) : State :=
  if isLit s then setFld s Reg.CLK_TPLL_STEER_STEER (ofSigned 32 (rateOf s (selBase s))) else s

/-! ### The snuffer (R551 to R554) -/

/-- Path `p` holds. -/
def pathHolds (s : State) (p : Nat) : Bool := bitOf (reg s Reg.MGMT_SNUFF_STAT).toNat p

/-- Lowest code holding, 0 for none. -/
def lowPath (s : State) : Nat :=
  ((List.range 10).find? fun p => decide (1 ≤ p) && pathHolds s p).getD 0

/-- Keeps MGMT_SNUFF_STAT.LOW at the lowest code holding. -/
def fixLow (s : State) : State := setFld s Reg.MGMT_SNUFF_STAT_LOW (lowPath s)

/-- Sets or clears the HOLD bit of a path. -/
def setHold (s : State) (p v : Nat) : State := fixLow (setFld s ⟨Reg.MGMT_SNUFF_STAT, p, p⟩ v)

/-- A snuff path asserts: it holds, every wick in use sends BLANK, the lamplighter leaves LIGHTING
or LIT for SNUFFED, and SNUFF is raised. A path that already holds does nothing (R552, R554). -/
def assertPath (p : Nat) (s : State) : State :=
  if pathHolds s p then s else
  let s := incSat (setHold s p 1) Reg.MGMT_SNUFF_STAT_COUNT 1
  let s := logSnuff s
  let st := (lamp s).code
  let s := if isLit s then setLamp s .snuffed else s
  let s := sendBlank (lowPath s) { s with scan := { s.scan with live := false } }
  raise evSnuff [(8, p), (8, 1), (8, st)] s

/-- Table 18-2: the release condition of a path holds. -/
def railsGood (s : State) : Bool :=
  decide (Nat.land (fld s Reg.RAIL_STAT_USE) (fld s Reg.RAIL_STAT_PGOOD) = fld s Reg.RAIL_STAT_USE)

/-! ### The non-volatile store's writers (R501, R502, R505) -/

/-- Bytes of the array. -/
def nvmBytes (s : State) (off n : Nat) : Bytes := tblGetRun 0#8 s.nvm off n

/-- A group is uncorrectable. -/
def nvmLost (s : State) (grp : Nat) : Bool := decide (tblGet 0 s.nvmBad grp = 2)

/-- Some byte of the range is lost. -/
def nvmAnyLost (s : State) (off n : Nat) : Bool :=
  decide (n ≠ 0) && (List.range ((off + n - 1) / 8 - off / 8 + 1)).any fun i => nvmLost s (off / 8 + i)

/-- Programs a run of bytes. Every group covered reads correctly afterwards. -/
def nvmProgram (off : Nat) (data : Bytes) (s : State) : State :=
  { s with
    nvm := tblSetRun 0#8 s.nvm off data
    nvmBad := if data = [] then s.nvmBad else tblClear s.nvmBad (off / 8) ((off + data.length - 1) / 8 + 1) }

/-- Journal cell of a write (Table 16-6). -/
def journalCell (w : NvmWr) (seq st : Nat) : Bytes :=
  natLe (w.page + w.off / 8 * 2 ^ 16 + (w.off + w.data.length - 1) / 8 * 2 ^ 21 + seq * 2 ^ 32 + st * 2 ^ 56) 8

/-- Array offset of the journal cell with a sequence (R505). -/
def journalAt (lens : Bool) (seq : Nat) : Nat :=
  if lens then 256 * 8184 + 8 * (seq % 256) else 256 * 8112 + 8 * (seq % 2048)

/-- Sequence of the block's last write. -/
def wseq (s : State) (lens : Bool) : Nat :=
  if lens then fld s Reg.NVM_WSEQ_LENS else fld s Reg.NVM_WSEQ_MAIN

/-- A write starts: its journal cell is programmed OPEN (R502, step 1) and the block is busy. -/
def nvmBegin (lens : Bool) (w : NvmWr) (s : State) : State :=
  let q := (wseq s lens + 1) % 2 ^ 24
  let s := nvmProgram (journalAt lens q) (journalCell w q 0x0F) s
  if lens then
    setFld (setFld { s with lensRun := some w } Reg.NVM_WSEQ_LENS q) Reg.NVM_STAT_LBUSY 1
  else
    setFld (setFld (setFld { s with nvmRun := some w } Reg.NVM_WSEQ_MAIN q) Reg.NVM_STAT_BUSY 1)
      Reg.NVM_STAT_PAGE w.page

/-- Inserts behind the waiting writes of equal or higher priority (R501). -/
def nvmEnqueue (w : NvmWr) : List NvmWr → List NvmWr
  | [] => [w]
  | x :: t => if w.prio < x.prio then w :: x :: t else x :: nvmEnqueue w t

/-- Host writes waiting. -/
def nvmHostCount (s : State) : Nat := (s.nvmQueue.filter fun w => decide (w.prio = 5)).length

/-- NVM_STAT.QUEUE follows the host writes queued. -/
def nvmFixQueue (s : State) : State := setFld s Reg.NVM_STAT_QUEUE (min (nvmHostCount s) 15)

/-- Starts the next queued main-block write when none runs. -/
def nvmStart (s : State) : State :=
  match s.nvmRun, s.nvmQueue with
  | none, w :: t => nvmFixQueue (nvmBegin false w { s with nvmQueue := t })
  | _, _ => s

/-- Queues a main-block write (R501). -/
def nvmWrite (w : NvmWr) (s : State) : State :=
  nvmStart (nvmFixQueue { s with nvmQueue := nvmEnqueue w s.nvmQueue })

/-- The lens block writes at once: its writes never queue (R501). -/
def nvmWriteLens (w : NvmWr) (s : State) : State := nvmBegin true w s

/-- Fault-ring entry of a fatal occurrence (R566). -/
def ringEntry (s : State) (src st why data : Nat) : Bytes :=
  let b := natLe 0x565A4C58 4 ++ natLe ((s.log.ringSeq + 1) % 2 ^ 32) 4 ++ natLe src 1 ++ natLe st 1 ++
    natLe why 1 ++ [0#8] ++ natLe 0 4 ++ natLe (tb0 s) 8 ++ natLe data 32 ++ natLe 0 68
  b ++ natLe (crc32c b) 4

/-- Place of the next fault-ring entry (R566). -/
def ringNext (s : State) : Nat := if !s.log.ringAny then 0 else (fld s Reg.MGMT_LOG_STAT_RING + 1) % 64

/-- Writes the next fault-ring entry (R549, R566). -/
def pushRing (src st why data : Nat) (s : State) : State :=
  let e := ringNext s
  let w : NvmWr := ⟨6177 + e / 2, 128 * (e % 2), ringEntry s src st why data, 4, .faultRing⟩
  let s := setFld s Reg.MGMT_LOG_STAT_RING e
  nvmWrite w { s with log := { s.log with ringSeq := (s.log.ringSeq + 1) % 2 ^ 32, ringAny := true } }

/-! ### Panel rails (R267, R272) -/

/-- Phase of a rail. -/
def railPhase (s : State) (i : Nat) : RailPhase := tblGet .off s.rails i

/-- Phases in which a rail stands at its target: power-good, until its ramp-down starts (R267). -/
def RailPhase.good (p : RailPhase) : Bool := decide (p = .pgood ∨ p = .downDelay)

/-- Moves a rail to a phase; PGOOD follows. -/
def setRail (s : State) (i : Nat) (p : RailPhase) : State :=
  setFld { s with rails := tblSet .off s.rails i p } ⟨Reg.RAIL_STAT, 4 + i, 4 + i⟩ (b2n p.good)

/-- A rail is in use (R265). -/
def railInUse (s : State) (i : Nat) : Bool := bitOf (fld s Reg.RAIL_STAT_USE) i

/-- A rail is not off. -/
def railUp (s : State) (i : Nat) : Bool := decide (railPhase s i ≠ .off)

/-- Rails in the order of power-down: VSRC, VGH, VGL (R267). -/
def downOrder : List Nat := [2, 0, 1]

/-- UP and DOWN of RAIL_CTRL read 1 while the sequence that they started runs (R6). -/
def railActs (up down : Nat) (s : State) : State := setFld (setFld s Reg.RAIL_CTRL_UP up) Reg.RAIL_CTRL_DOWN down

/-- Raises RAIL_SEQ at the end of a sequence: direction, rails in use, duration in µs (R270). -/
def railSeqDone (s : State) : State :=
  let dir := fld s Reg.RAIL_STAT_SEQ
  let s := railActs 0 0 (setFld { s with railFaulted := false } Reg.RAIL_STAT_SEQ 0)
  raise evRailSeq [(8, dir), (8, fld s Reg.RAIL_STAT_USE), (32, ((s.ns - s.railSeqAt) / 1000 : Nat))] s

/-- VLCD goes down, if it is up and not on its way down (R272). -/
def vlcdDown (s : State) : State :=
  match railPhase s 3 with
  | .delay => setRail s 3 .off
  | .ramping => setRail s 3 .down
  | .pgood => setRail s 3 .down
  | _ => s

/-- Starts power-down. Each emitter rail that is up waits its turn; the first starts at once; with `lcd`, VLCD goes
down at the same moment as VSRC, in a power-down that runs already too (R272). A power-up in progress turns into
power-down from the rail reached (R270). With no rail up and no power-up in progress no sequence runs. -/
def railsDown (lcd : Bool) (s : State) : State :=
  let s := if lcd then vlcdDown { s with railHeld := true } else s
  if fld s Reg.RAIL_STAT_SEQ = 2 then s else
  if fld s Reg.RAIL_STAT_SEQ = 0 ∧ railPhase s 3 ≠ .down ∧ !downOrder.any (railUp s) then s else
  let s := forAll downOrder (fun i s => if decide (railPhase s i = .delay) then setRail s i .off else s) s
  let ups := downOrder.filter (railUp s)
  let s := { setFld (setFld s Reg.RAIL_CTRL_UP 0) Reg.RAIL_STAT_SEQ 2 with railSeqAt := s.ns, railThen := false }
  match ups with
  | [] => if railPhase s 3 = .down then s else railSeqDone s
  | i :: t =>
    let s := setRail s i .down
    forAll t (fun j s => setRail s j .downDelay) s

/-! ### The lens (R294, R297) -/

/-- State field of a common. -/
def lensState (c : Nat) : Fld := ⟨Reg.LENS_CSTATE, 4 * c + 2, 4 * c⟩

def lensLevel (z : Nat) : Fld := Reg.LENS_LEVEL_LEVEL (z / 8) (z % 8)
def lensTarget (z : Nat) : Fld := Reg.LENS_TARGET_TARGET (z / 8) (z % 8)

/-- Zones of a common. -/
def zonesOf (c : Nat) : List Nat := (List.range 96).map fun g => 96 * c + g

/-- Levels and targets of a common, segment by segment. -/
def levelsOf (s : State) (c : Nat) : List Nat := (zonesOf c).map fun z => fld s (lensLevel z)
def targetsOf (s : State) (c : Nat) : List Nat := (zonesOf c).map fun z => fld s (lensTarget z)

/-- State of a common: 0 SETTLED, 1 PENDING, 2 DRIVING, 3 OPEN, 4 SUSPENDED. -/
def commonState (s : State) (c : Nat) : Nat := fld s (lensState c)
def setCommon (s : State) (c v : Nat) : State := setFld s (lensState c) v

/-- SETTLED or PENDING by whether a TARGET differs from its LEVEL (R282). -/
def settle (c : Nat) (s : State) : State :=
  setCommon s c (b2n (decide (levelsOf s c ≠ targetsOf s c)))

/-- Raises a LENS_FAULT without its follow-up: cause, common, output; counts it (R301). -/
def lensFaultCap (cause c out : Nat) : List Cap := [(8, cause), (8, c), (8, out)]

/-! ### Errors and follow-ups (R545 to R547) -/

/-- Block codes of Table 1-1, for units. -/
def unitHost : Nat := 0x01
def unitCmd : Nat := 0x02
def unitStr : Nat := 0x03
def unitMfb : Nat := 0x04
def unitDmc : Nat := 0x05
def unitLant : Nat := 0x09
def unitScan : Nat := 0x0C
def unitWln : Nat := 0x0D
def unitChn : Nat := 0x0E
def unitClk : Nat := 0x10
def unitRail : Nat := 0x11
def unitLens : Nat := 0x12
def unitNvm : Nat := 0x13
def unitMgmt : Nat := 0x14

/-- A unit: its block, and its index, a byte (R545, R546). -/
def unitKey (blk idx : Nat) : Nat := 256 * blk + idx % 256

/-- Follow-ups of a unit. -/
def fuUnit (s : State) (blk idx : Nat) : FuUnit := tblGet {} s.followUps (unitKey blk idx)

/-- An error takes its place among its unit's follow-ups: it runs, waits or merges. The flag says
that it found 4 waiting and escalates; MGMT_ESC then records it (R545 to R547). -/
def followQueue (blk idx src cause : Nat) (s : State) : State × Bool :=
  let u := fuUnit s blk idx
  let f : FollowUp := ⟨src, cause⟩
  if u.running = none then
    ({ s with followUps := tblSet {} s.followUps (unitKey blk idx) { u with running := some f } }, false)
  else if u.waiting.contains f then (s, false)
  else if 4 ≤ u.waiting.length then
    (setFld (setFld (setFld s Reg.MGMT_ESC_SRC src) Reg.MGMT_ESC_UNIT blk) Reg.MGMT_ESC_INDEX idx, true)
  else
    let s := { s with followUps := tblSet {} s.followUps (unitKey blk idx) { u with waiting := u.waiting ++ [f] } }
    (setPeak s Reg.MGMT_ESC_WAITING (u.waiting.length + 1), false)

/-- An error takes its place, and escalates nothing. -/
def followJoin (blk idx src cause : Nat) (s : State) : State := (followQueue blk idx src cause s).1

/-! ### Entering DARK_FAULT (R534, R548, R549) -/

/-- Takes the first fatal occurrence into FIRST_FATAL (R548). -/
def firstFatal (src st why data : Nat) (s : State) : State :=
  if flag s Reg.MGMT_FF_SRC_VALID then s else
  let s := { s with log := { s.log with ffEntry := ringNext s } }
  let s := setReg s Reg.MGMT_FF_SRC (BitVec.ofNat 64 (src + st * 2 ^ 8 + why * 2 ^ 12 + 2 ^ 16))
  let s := setReg s Reg.MGMT_FF_TIME (BitVec.ofNat 64 (tb0 s))
  forAll [0, 1, 2, 3]
    (fun i s => setReg s (Reg.MGMT_FF_DATA i) (BitVec.ofNat 64 (bitsOf data (64 * i) 64))) s

/-- Counts of a scan frame begin at zero: with each frame, and as the raster is lit (R49). -/
def frameCounts (s : State) : State :=
  { s with
    scan := { s.scan with rays := 0, samples := 0, decoded := 0, subRaised := false, mapRaised := false }
    dram := { s.dram with moved := 0 } }

/-- The raster stops (R205): no frame, no rows, every wick idle. -/
def stopRaster (s : State) : State :=
  let s := { s with scan := { s.scan with started := false, aborting := false, dead := false, deferred := [],
                                          past := false, live := false, fifo := [], quads := [], ov := [],
                                          ovNext := 0, ovBad := [] } }
  let s := setFld (setFld s Reg.SCAN_STAT_RUN 0) Reg.SCAN_STAT_ROW 0
  forAll wicks (fun n s => setReg s (Reg.SCAN_W_STAT n) 0) s

/-- The waveform of common `c` stops before its end: every output is grounded and the common becomes OPEN (R280, R294,
R297). -/
def lensStop (c : Nat) (s : State) : State :=
  let s := setFld (setCommon s c 3) Reg.LENS_STAT_DRIVING 0
  emit { s with lens := { s.lens with phase := .idle, last := c, grounded := true } } .lensGround

/-- An update that has not reached its open write is given up; its common is OPEN as before, or SETTLED or PENDING
(R282). -/
def lensGiveUp (c : Nat) (s : State) : State :=
  let s := if s.lens.reset then setCommon s c 3 else settle c s
  { s with lens := { s.lens with phase := .idle } }

/-- The waveform in progress stops as DARK_FAULT is entered. Its LENS_FAULT takes its place among
the follow-ups; an escalation would find the lamplighter in DARK_FAULT already. -/
def lensAbortDark (s : State) : State :=
  match s.lens.phase with
  | .wave c _ =>
    let s := incSat (lensStop c s) Reg.LENS_FAULT_CNT_FAULTS 1
    followJoin unitLens c evLensFault 3 (raise evLensFault (lensFaultCap 3 c 0xFF) s)
  | .vlcd c => lensGiveUp c s
  | .ready c => lensGiveUp c s
  | _ => s

/-- The lamplighter is in DARK_FAULT: WHY, FIRST_FATAL and the fault ring (R534, R548, R549). -/
def darkEnter (why src data : Nat) (s : State) : State :=
  let st := (lamp s).code
  let s := setFld (setFld s Reg.STR_STAT_WHY why) Reg.STR_STAT_FAIL_STEP (fld s Reg.STR_STAT_STEP)
  let s := pushRing src st why data (firstFatal src st why data s)
  setLamp { logCount 5 s with wantLight := false } .darkFault

/-- Notes an occurrence where its source lies from `lo` up to `hi`. -/
def raiseIn (lo hi src : Nat) (cs : List Cap) (s : State) : State := if lo ≤ src ∧ src < hi then raise src cs s else s

/-- What DARK_FAULT stops: the panel rails and the lens waveform, and the light by the snuff path. The occurrences are recorded
in the order of their sources, the one that is fatal among them (R534, R544; DESIGN CHOICE, log 134). -/
def darkStops (path src : Nat) (cs : List Cap) (s : State) : State :=
  let s := lensAbortDark (raiseIn 240 245 src cs (railsDown true (raiseIn 0 240 src cs s)))
  raiseIn 253 256 src cs (assertPath path (raiseIn 245 253 src cs s))

/-- The lamplighter enters DARK_FAULT, and an occurrence that source 256 stands for none of is raised (R534). The raster stops.
In DARK_FAULT already a lock loss asserts its path and a regulator failure takes down what is left all the same (R279, R551,
Table 15-3); in OFF there is nothing to stop. -/
def darkFault (why path src data : Nat) (noted : Nat) (cs : List Cap) (s : State) : State :=
  if lamp s = .off then raiseIn 0 256 noted cs s
  else if lamp s = .darkFault then
    (if path = 8 then darkStops path noted cs s
     else if path = 7 then assertPath path (raiseIn 0 256 noted cs s)
     else raiseIn 0 256 noted cs s)
  else
    let s := stopRaster (darkStops path noted cs (darkEnter why src data s))
    { s with scan := { s.scan with halted := true } }

/-! ### Errors -/

/-- An error of a unit: it runs a follow-up, waits, merges, or escalates (R545 to R547). -/
def followUp (blk idx src cause data : Nat) (s : State) : State :=
  let q := followQueue blk idx src cause s
  if q.2 then darkFault 6 9 src data 256 [] q.1 else q.1

/-- Raises an error: the event, then its follow-up (Table 18-1). -/
def raiseErr (blk idx src cause : Nat) (cs : List Cap) (s : State) : State :=
  followUp blk idx src cause (packCap cs) (raise src cs s)

/-- Raises a fatal occurrence: the event, DARK_FAULT with its reason and path, and the follow-up. -/
def raiseFatal (blk idx src cause : Nat) (cs : List Cap) (why path : Nat) (s : State) : State :=
  followUp blk idx src cause (packCap cs) (darkFault why path src (packCap cs) src cs s)

/-- Raises LENS_FAULT of a common, with its count (R301). -/
def lensFault (cause c out : Nat) (s : State) : State :=
  raiseErr unitLens c evLensFault cause (lensFaultCap cause c out) (incSat s Reg.LENS_FAULT_CNT_FAULTS 1)

/-- The waveform in progress, if any, stops before its end, and LENS_FAULT says so (R297). -/
def lensAbort (s : State) : State :=
  match s.lens.phase with
  | .wave c _ => lensFault 3 c 0xFF (lensStop c s)
  | .vlcd c => lensGiveUp c s
  | .ready c => lensGiveUp c s
  | _ => s

/-! ### Completions (R416, R417) -/

/-- Statuses of Table 13-7. -/
def stOK : Nat := 0x00
def stBadOpcode : Nat := 0x01
def stBadBody : Nat := 0x02
def stAuthUnset : Nat := 0x03
def stAuthMac : Nat := 0x04
def stAuthReplay : Nat := 0x05
def stAuthDenied : Nat := 0x06
def stDescPoison : Nat := 0x07
def stDeviceState : Nat := 0x08
def stKeyBlob : Nat := 0x09
def stProvOff : Nat := 0x0A
def stStoreFail : Nat := 0x0B
def stFwImage : Nat := 0x0C
def stSnuffHeld : Nat := 0x0D

/-- State of a ring. -/
def ring (s : State) (r : Nat) : Ring := tblGet {} s.rings r

/-- Writes the state of a ring. -/
def setRing (s : State) (r : Nat) (x : Ring) : State := { s with rings := tblSet {} s.rings r x }

/-- Entries of the completion ring. -/
def cqSize (s : State) (r : Nat) : Nat := 2 ^ fld s (Reg.CMD_RING_CFG_CQ_SIZE r)

/-- A ring stops with an error: STATE, ERR, EN clear, and CMD_RING_ERR (R418). -/
def ringError (r cause : Nat) (s : State) : State :=
  let s := setFld (setFld (setFld s (Reg.CMD_RING_STAT_STATE r) 2) (Reg.CMD_RING_STAT_ERR r) cause)
    (Reg.CMD_RING_CTRL_EN r) 0
  raiseErr unitCmd 0 evCmdRingErr cause
    [(8, r), (8, cause), (16, fld s (Reg.CMD_RING_PTR_HEAD r)), (16, fld s (Reg.CMD_RING_PTR_TAIL r))] s

/-- One descriptor of the ring less is in flight, and one reserved entry less. -/
def ringDone (r : Nat) (s : State) : State :=
  let s := setFld s (Reg.CMD_RING_STAT_INFLIGHT r) (fld s (Reg.CMD_RING_STAT_INFLIGHT r) - 1)
  setRing s r { ring s r with reserved := (ring s r).reserved - 1 }

/-- The bytes of a completion entry (Table 13-4). -/
def cqEntry (s : State) (r tag st op detail : Nat) (authed : Bool) (value : Nat) : Bytes :=
  natLe tag 2 ++ natLe st 1 ++ natLe op 1 ++ natLe detail 1 ++
  natLe (fld s (Reg.CMD_CQ_PTR_PHASE r) + 2 * b2n authed) 1 ++
  natLe (fld s (Reg.CMD_RING_PTR_HEAD r)) 2 ++ natLe value 8

/-- Writes a completion entry at TAIL, moves TAIL and PHASE on, and signals it when asked (R417,
R436). With the link down the write fails: the entry is dropped and the ring stops (R418). -/
def cqWrite (r tag st op detail : Nat) (irq authed : Bool) (value : Nat) (s : State) : State :=
  let s := ringDone r s
  if fld s Reg.HOST_LINK_MODE = 0 then
    let s := incSat s (Reg.CMD_RING_STAT_LOST r) 1
    let x := ring s r
    ringError r 3 (setRing s r { x with errors := x.errors + 1, doomed := x.taken.length })
  else
    let t := fld s (Reg.CMD_CQ_PTR_TAIL r)
    let s := emit s (.hostWrite ((reg s (Reg.CMD_CQ_BASE r)).toNat + 16 * t)
      (cqEntry s r tag st op detail authed value))
    let s := if t + 1 = cqSize s r then
        setFld (setFld s (Reg.CMD_CQ_PTR_TAIL r) 0) (Reg.CMD_CQ_PTR_PHASE r) (1 - fld s (Reg.CMD_CQ_PTR_PHASE r))
      else setFld s (Reg.CMD_CQ_PTR_TAIL r) (t + 1)
    let s := setRing s r { ring s r with written := (ring s r).written + 1 }
    if irq then vecOccur (fld s (Reg.CMD_RING_CFG_VEC r)) s else s

/-- Critical commands whose completion carries the counter accepted (Table 13-5). -/
def counterValued (op : Nat) : Bool :=
  decide (0x80 ≤ op ∧ op ≤ 0x8C) && decide (op ≠ 0x82 ∧ op ≠ 0x83)

/-- Completes a command: its ring's entry, of rings 0 to 7, dropped and counted when a CQ_WRITE error has come since
the command was taken (R418); the CHAIN_BCAST event of a broadcast; nothing for a command whose completion is
discarded. -/
def complete (j : Job) (st detail value : Nat) (s : State) : State :=
  match j.origin with
  | .ring r g e =>
    if g ≠ s.flr ∨ 8 ≤ r then s
    else if e ≠ (ring s r).errors then incSat (ringDone r s) (Reg.CMD_RING_STAT_LOST r) 1 else
    let v := if counterValued j.opcode then (if j.authed then j.counter else 0) else value
    cqWrite r j.tag st j.opcode detail j.irq j.authed v s
  | .bcast o q k =>
    let s := setReg s Reg.CHN_BCAST_LAST
      (BitVec.ofNat 64 (st + j.opcode * 2 ^ 8 + o * 2 ^ 16 + q * 2 ^ 24 + k % 2 ^ 32 * 2 ^ 32))
    raise 230 [(8, st), (8, j.opcode), (8, o), (8, q), (32, k % 2 ^ 32)] s
  | .none => s

end Sys2Proof.Machine
end

