-- ==== Sys2Proof/Machine/Store.lean ====
section
/-! DEFINITION. Reading the non-volatile store (R495), its records (R497), its wear-spread counters
(R498 to R500), and the bytes a new record or counter cell takes. -/

namespace Sys2Proof.Machine

/-! ### Reads and their ECC (R495) -/

/-- BP covers a page (Table 16-7). -/
def blockProtected (s : State) (p : Nat) : Bool :=
  match fld s Reg.NVM_STAT_BP with
  | 1 => decide (3328 ≤ p ∧ p ≤ 4095)
  | 2 => decide (2560 ≤ p ∧ p ≤ 4095)
  | 3 => decide (1024 ≤ p ∧ p ≤ 4095)
  | _ => false

/-- A page of the lens journal block, which has its own programming circuit (R492). -/
def lensPage (p : Nat) : Bool := decide (8176 ≤ p)

/-- One group is read: a corrected group is counted, reported at most once per second and queued for
rewriting in its block, but where BP guards its page (R492, R513); an uncorrectable one is counted and reported. -/
def nvmGroupRead (reader grp : Nat) (s : State) : State :=
  match tblGet 0 s.nvmBad grp with
  | 0 => s
  | 1 =>
    let s := incSat s Reg.NVM_CNT_CE 1
    let s := setReg s Reg.NVM_ECC_LAST (BitVec.ofNat 64 (8 * grp + 2 ^ 24))
    let due := match s.nvmCeAt with
      | none => true
      | some t => decide (t + 1000000000 ≤ s.ns)
    let s := if due then raise evNvmEcc [(8, 1), (32, ((8 * grp : Nat) : Int)), (8, reader)] { s with nvmCeAt := some s.ns } else s
    if blockProtected s (grp / 32) then s
    else if lensPage (grp / 32) then { s with lensRewrite := setInsert grp s.lensRewrite }
    else nvmWrite ⟨grp / 32, 8 * (grp % 32), nvmBytes s (8 * grp) 8, 4, .patrol⟩ s
  | _ =>
    let s := incSat s Reg.NVM_CNT_UE 1
    let s := setReg s Reg.NVM_ECC_LAST (BitVec.ofNat 64 (8 * grp + 2 * 2 ^ 24))
    raiseErr unitNvm 0 evNvmEcc 2 [(8, 2), (32, ((8 * grp : Nat) : Int)), (8, reader)] s

/-- A run of bytes is read by a reader. -/
def nvmTouch (reader off n : Nat) (s : State) : State :=
  if n = 0 then s else
  forAll ((s.nvmBad.filter fun p => decide (off / 8 ≤ p.1 ∧ p.1 ≤ (off + n - 1) / 8)).map Prod.fst)
    (nvmGroupRead reader) s

/-! ### Records (R497) -/

/-- `a` is later than `b` in 24 bits (R439). -/
def later24 (a b : Nat) : Bool := decide (0 < sdiff 24 a b)

/-- A kind of record: its KIND, the array offsets of its two places, their size. -/
structure RecKind where
  kind : Nat
  a : Nat
  b : Nat
  size : Nat

def recProtection : RecKind := ⟨0x5052, 256 * 32, 256 * 33, 256⟩
def recRail : RecKind := ⟨0x5241, 256 * 34, 256 * 35, 256⟩
def recPin : RecKind := ⟨0x5049, 256 * 36, 256 * 37, 256⟩
def recKey (k : Nat) : RecKind := ⟨0x4B59, 256 * (6144 + k), 256 * (6144 + k) + 128, 128⟩
def recAct : RecKind := ⟨0x4143, 256 * 6152, 256 * 6153, 128⟩
def recRank (c : Nat) : RecKind := ⟨0x524B, 256 * (6160 + 2 * c), 256 * (6161 + 2 * c), 128⟩

/-- The places of a record are read. -/
def recTouch (k : RecKind) (s : State) : State := nvmTouch 4 k.a (k.b + k.size - k.a) s

/-- A place is valid: KIND, CRC and correctable groups. -/
def recValid (s : State) (k : RecKind) (at_ : Nat) : Bool :=
  let bs := nvmBytes s at_ k.size
  decide (leAt bs 0 2 = k.kind) && decide (leAt bs (k.size - 4) 4 = crc32c (bs.take (k.size - 4))) &&
  !nvmAnyLost s at_ k.size && decide (leAt bs 2 2 ≤ k.size - 12)

/-- SEQ of a place. -/
def recSeq (s : State) (at_ : Nat) : Nat := leAt (nvmBytes s at_ 8) 4 3

/-- Offset of the place that holds the record in force. -/
def recInForce (s : State) (k : RecKind) : Option Nat :=
  match recValid s k k.a, recValid s k k.b with
  | true, true => some (if later24 (recSeq s k.b) (recSeq s k.a) then k.b else k.a)
  | true, false => some k.a
  | false, true => some k.b
  | false, false => none

/-- Payload of the record in force. -/
def recRead (s : State) (k : RecKind) : Option Bytes :=
  (recInForce s k).map fun o => sliceB (nvmBytes s o k.size) 8 (leAt (nvmBytes s o 8) 2 2)

/-- The write of a new record: to the place not in force, with the next SEQ; the first write goes
to the first place with SEQ 1. -/
def recWrite (s : State) (k : RecKind) (payload : Bytes) (prio : Nat) (why : NvmWhy) : NvmWr :=
  let (o, q) := match recInForce s k with
    | some f => (if f = k.a then k.b else k.a, (recSeq s f + 1) % 2 ^ 24)
    | none => (k.a, 1)
  let body := sliceB (natLe k.kind 2 ++ natLe payload.length 2 ++ natLe q 3 ++ [0#8] ++ payload) 0 (k.size - 4)
  ⟨o / 256, o % 256, body ++ natLe (crc32c body) 4, prio, why⟩

/-! ### Wear-spread counters (R498 to R500) -/

/-- Array offset of cell `i` of candle-hour counter `z`. -/
def candleCell (z i : Nat) : Nat := 256 * (4096 + 16 * (z / 32) + i) + 8 * (z % 32)

/-- Array offset of cell `i` of mark counter `j`. -/
def markCell (j i : Nat) : Nat := 256 * (6148 + j / 2) + 128 * (j % 2) + 8 * i

/-- Raw 64 bits of a cell. -/
def cellRaw (s : State) (off : Nat) : Nat := leNat (nvmBytes s off 8)

/-- The cell a read takes among cells 0 to `n` - 1: the latest SEQ, the highest number of equals. -/
def counterPick (s : State) (cell : Nat → Nat) : Nat → Option Nat
  | 0 => none
  | n + 1 =>
    if nvmLost s (cell n / 8) then counterPick s cell n else
    match counterPick s cell n with
    | none => some n
    | some m =>
      if later24 (cellRaw s (cell m) / 2 ^ 40) (cellRaw s (cell n) / 2 ^ 40) then some m else some n

/-- Value of a counter; 0 where it is unreadable. -/
def counterValue (s : State) (cell : Nat → Nat) : Nat :=
  match counterPick s cell 16 with
  | some i => cellRaw s (cell i) % 2 ^ 40
  | none => 0

/-- Newest sequence of a counter. -/
def counterSeq (s : State) (cell : Nat → Nat) : Nat :=
  match counterPick s cell 16 with
  | some i => cellRaw s (cell i) / 2 ^ 40
  | none => 0

/-- None of the cells reads correctable. -/
def counterUnreadable (s : State) (cell : Nat → Nat) : Bool := decide (counterPick s cell 16 = none)

/-- Cell and contents of the next write of a counter (R499). -/
def counterNext (s : State) (cell : Nat → Nat) (value : Nat) : Nat × Bytes :=
  match counterPick s cell 16 with
  | some i =>
    ((i + 1) % 16, natLe (value % 2 ^ 40 + (cellRaw s (cell i) / 2 ^ 40 + 1) % 2 ^ 24 * 2 ^ 40) 8)
  | none => (0, natLe (value % 2 ^ 40 + 2 ^ 40) 8)

/-- The writes that give neighbouring candle-hour counters of page row `k`, from the one at place `i` on, their values: each
counter's in the cell after the one read, and one page write for counters that stand side by side in the same cell (R499, R500). -/
def candleWrites (s : State) (k : Nat) : Nat → List Nat → List NvmWr
  | _, [] => []
  | i, v :: t =>
    let x := counterNext s (candleCell (32 * k + i)) v
    let page := 4096 + 16 * k + x.1
    match candleWrites s k (i + 1) t with
    | w :: l => if w.page = page ∧ w.off = 8 * (i + 1) then ⟨page, 8 * i, x.2 ++ w.data, 4, .candle⟩ :: l
      else ⟨page, 8 * i, x.2, 4, .candle⟩ :: w :: l
    | [] => [⟨page, 8 * i, x.2, 4, .candle⟩]

/-- The write of one mark counter (priority 2 of R501). -/
def markWrite (s : State) (j value : Nat) (why : NvmWhy) : NvmWr :=
  let (i, bs) := counterNext s (markCell j) value
  ⟨markCell j i / 256, markCell j i % 256, bs, 2, why⟩

end Sys2Proof.Machine
end

