-- ==== Sys2Proof/Machine/Memory.lean ====
section
/-! DEFINITION. Device memory behind the fabric: the address map (R306, R307), partitions and write
checks (R309, R310), lines with their ECC and poison (R322 to R327), the bank predictors (R321), the
row-hammer table (R333), and rank retirement (R341 to R347). Every client's read and write goes
through `memRead` and `memWrite`. -/

namespace Sys2Proof.Machine

/-- Client groups by row of Table 10-3. -/
def grpLantern : Nat := 0
def grpOverlay : Nat := 1
def grpDecoder : Nat := 2
def grpHost : Nat := 3
def grpLossless : Nat := 4
def grpMgmt : Nat := 5
def grp2d : Nat := 6

/-- Write-grant bit of a group within a partition's flags (R309). -/
def grantBit (grp : Nat) : Nat :=
  if grp = grpHost then 1 else if grp = grpDecoder then 2 else if grp = grpLossless then 3
  else if grp = grp2d then 4 else 5

/-! ### Population and the address map -/

/-- DDR5 is fitted. -/
def isDdr5 (s : State) : Bool := decide (fld s Reg.MFB_STAT_TYPE = 2)

/-- Populated channels. -/
def nch (s : State) : Nat := fld s Reg.MFB_STAT_NCH

/-- Rows per bank, the training row included. -/
def dramRows (s : State) : Nat := match s.dram.pop with
  | some p => p.rows
  | none => 0

/-- Bank groups, and banks in each subchannel or rank (R306). -/
def bankGroups (ddr5 : Bool) : Nat := if ddr5 then 8 else 4
def subChannels (ddr5 : Bool) : Nat := if ddr5 then 2 else 1

/-- Usable ranks per channel (R306). -/
def usableRanks (ranks : Nat) (spare : Bool) : Nat := ranks - b2n spare

/-- Usable capacity (R306). -/
def capacityOf (p : DramPop) (spare : Bool) : Nat :=
  let d5 := decide (p.type = 2)
  p.nch * usableRanks p.ranks spare * (p.rows - 1) * (bankGroups d5 * 4) * subChannels d5 * 8192

/-- MFB_CAPACITY. -/
def capacity (s : State) : Nat := fld s Reg.MFB_CAPACITY_BYTES

/-- Where a line lies in DRAM (R307): channel, logical rank, bank number, row, column, and its
ordinal among the lines of its logical rank in its channel. -/
structure DramPlace where
  ch : Nat
  rank : Nat
  bank : Nat
  row : Nat
  col : Nat
  ord : Nat
deriving DecidableEq, Repr

/-- The map of R307. The bank number packs subchannel, bank group and bank. -/
def dramMap (d5 : Bool) (nch rows line : Nat) : DramPlace :=
  let nbg := bankGroups d5
  let col0 := line % 4
  let g := line / 4
  let chr := g % nch
  let n0 := g / nch
  let sub := if d5 then n0 % 2 else 0
  let n1 := if d5 then n0 / 2 else n0
  let colhi := n1 % 32
  let n2 := n1 / 32
  let bgr := n2 % nbg
  let n3 := n2 / nbg
  let bkr := n3 % 4
  let n4 := n3 / 4
  let row := n4 % (rows - 1)
  let rank := n4 / (rows - 1)
  let bg := Nat.xor bgr (row / nch % nbg)
  let bk := Nat.xor bkr (row / (nch * nbg) % 4)
  { ch := Nat.xor chr (row % nch), rank := rank, bank := (sub * nbg + bg) * 4 + bk, row := row,
    col := 4 * colhi + col0,
    ord := n0 % (subChannels d5 * 32 * nbg * 4 * (rows - 1)) * 4 + col0 }

/-- Lines of one rank of one channel. -/
def rankLines (d5 : Bool) (rows : Nat) : Nat := subChannels d5 * 32 * bankGroups d5 * 4 * (rows - 1) * 4

/-- Device line of ordinal `ord` of logical rank `r` in channel `c`: the inverse of `dramMap`. -/
def lineOfOrd (d5 : Bool) (nch rows c r ord : Nat) : Nat :=
  let per := subChannels d5 * 32 * bankGroups d5 * 4 * (rows - 1)
  let n := r * per + ord / 4
  let row := n / (subChannels d5 * 32 * bankGroups d5 * 4) % (rows - 1)
  (n * nch + Nat.xor c (row % nch)) * 4 + ord % 4

/-- Place of a device line in the population found. -/
def placeOf (s : State) (line : Nat) : DramPlace := dramMap (isDdr5 s) (nch s) (dramRows s) line

/-- Physical rank that serves a logical rank. -/
def physRank (s : State) (c r : Nat) : Nat := fld s (Reg.DMC_RANKMAP_PRANK c r)

/-- Logical rank that a physical rank serves. -/
def logRank (s : State) (c p : Nat) : Option Nat :=
  (List.range 4).find? fun r => flag s (Reg.DMC_RANKMAP_VALID c r) && decide (physRank s c r = p)

/-- State of a physical rank (Table 10-6). -/
def rankState (s : State) (c p : Nat) : Nat := fld s (Reg.DMC_RANKSTATE_STATE c p)

def setRankState (s : State) (c p v : Nat) : State := setFld s (Reg.DMC_RANKSTATE_STATE c p) v

/-- Devices of a line: the data devices, then the two check devices (Table 10-4). -/
def lineDevices (s : State) : Nat := if isDdr5 s then 10 else 18
def dataDevices (s : State) : Nat := lineDevices s - 2

/-- Symbols of a device. Symbol `i` is of device `i` / this, and data symbol `i` is line byte `i` (Table 10-4). -/
def deviceSymbols (s : State) : Nat := if isDdr5 s then 8 else 4

/-! ### Partitions, HDM ranges and leases -/

/-- A partition's base, size and flags. -/
def partBase (s : State) (i : Nat) : Nat := fld s (Reg.MFB_PART_BASE_BASE i)
def partSize (s : State) (i : Nat) : Nat := fld s (Reg.MFB_PART_INFO_SIZE i)
def partFlag (s : State) (i b : Nat) : Bool := bitOf (fld s (Reg.MFB_PART_INFO_FLAGS i)) b

/-- The range lies wholly in one partition with the flag. -/
def inPart (s : State) (b a n : Nat) : Bool :=
  (List.range 16).any fun i => partFlag s i b && decide (0 < partSize s i) &&
    decide (partBase s i ≤ a) && decide (a + n ≤ partBase s i + partSize s i)

/-- The range lies wholly in partitions with the flag; `k` bounds the partitions crossed. -/
def inPartsF (s : State) (b : Nat) : Nat → Nat → Nat → Bool
  | 0, _, n => decide (n = 0)
  | k + 1, a, n =>
    if n = 0 then true else
    match (List.range 16).find? fun i => partFlag s i b && decide (partBase s i ≤ a) &&
        decide (a < partBase s i + partSize s i) with
    | none => false
    | some i =>
      let m := min n (partBase s i + partSize s i - a)
      inPartsF s b k (a + m) (n - m)

def inParts (s : State) (b a n : Nat) : Bool := inPartsF s b 17 a n

/-- The range lies within an HDM partition. -/
def inHdm (s : State) (a n : Nat) : Bool := inPart s 0 a n

/-- Entry of the lease table (R225): base, length, holding set, planes. -/
def leaseLen (s : State) (e : Nat) : Nat := fld s (Reg.SCAN_LEASE_INFO_LEN e)
def leaseBase (s : State) (e : Nat) : Nat := fld s (Reg.SCAN_LEASE_BASE_BASE e)

/-- First leased byte that the range `[a, a + n)` meets. -/
def leaseHit (s : State) (a n : Nat) : Option Nat :=
  (List.range 16).findSome? fun e =>
    if decide (0 < leaseLen s e) && decide (0 < n) && decide (a < leaseBase s e + leaseLen s e) &&
        decide (leaseBase s e < a + n) then some (max a (leaseBase s e)) else none

/-! ### Memory events -/

def evMemCe : Nat := 200
def evMemUe : Nat := 201
def evRankRetire : Nat := 202
def evRankMigrated : Nat := 203
def evMemTrain : Nat := 204
def evHammerTable : Nat := 205
def evArbStarve : Nat := 206
def evMemPoison : Nat := 207

/-- Raises MEM_TRAIN: an error for causes FAIL, POPULATION and SPD (Table 18-1). -/
def memTrain (cause c rank step : Nat) (s : State) : State :=
  let cs : List Cap := [(8, cause), (8, c), (8, rank), (8, step)]
  if cause = 2 ∨ cause = 3 ∨ cause = 4 then raiseErr unitDmc c evMemTrain cause cs s
  else raise evMemTrain cs s

/-- Raises MEM_UE of a channel. -/
def memUe (addr len c p : Nat) (s : State) : State :=
  raiseErr unitDmc c evMemUe 0 [(64, addr), (64, len), (8, c), (8, p)] s

/-- Raises RANK_RETIRE with its cause. -/
def rankRetireEvent (c p cause : Nat) (s : State) : State :=
  raiseErr unitDmc c evRankRetire cause [(8, c), (8, p), (8, cause)] s

/-! ### Rank records and retirement (R341 to R347) -/

/-- Table mode is in force in a channel (R333). -/
def tableMode (s : State) (c : Nat) : Bool :=
  s.dram.startTable || flag s Reg.GEN_STATE_TEST || flag s (Reg.DMC_MIGRATE_ACTIVE c)

/-- DMC_HAMMER.TABLE of a channel, and of every channel, follows. -/
def fixTable (c : Nat) (s : State) : State := setFld s (Reg.DMC_HAMMER_TABLE c) (b2n (tableMode s c))
def fixTables (s : State) : State := forAll (List.range 8) fixTable s

/-- Serial number of the DIMM that holds a physical rank. -/
def serialOf (s : State) (c p : Nat) : Nat :=
  match s.dram.pop with
  | some q => s.dram.serials.getD (2 * c + p / max 1 (q.ranks / max 1 q.dimms)) 0
  | none => 0

/-- Payload of a channel's rank record: per physical rank its state code and the DIMM's serial,
4 bytes each (log 21). A rank whose record RESTORE has cleared is recorded as 0 (R348). -/
def rankPayload (s : State) (c : Nat) : Bytes :=
  (List.range 4).flatMap fun p =>
    natLe (if s.dram.restored.contains (4 * c + p) then 0 else rankState s c p) 4 ++ natLe (serialOf s c p) 4

/-- Queues the rank record of a channel (R347, priority 3 of R501). -/
def rankRecord (c : Nat) (s : State) : State :=
  nvmWrite (recWrite s (recRank c) (rankPayload s c) 3 (.rank c)) s

/-- Ends the migration of a channel. `keep`: TARGET serves on; otherwise SOURCE serves its lines again, intact where only
TARGET had lost them (R344, R346). -/
def endMigration (c : Nat) (keep : Bool) (s : State) : State :=
  let here := s.dram.tgtLost.filter fun l => decide ((placeOf s l).ch = c)
  let s := { s with poison := if keep then s.poison else s.poison.filter fun l => !here.contains l,
                    dram := { s.dram with tgtLost := s.dram.tgtLost.filter fun l => !here.contains l } }
  fixTable c (setFld s (Reg.DMC_MIGRATE_ACTIVE c) 0)

/-- An unused spare of a channel. -/
def spareOf (s : State) (c : Nat) : Option Nat :=
  (List.range 4).find? fun p => decide (rankState s c p = 2)

/-- Bytes a logical rank covers (R307). -/
def rankSpan (s : State) : Nat :=
  match s.dram.pop with
  | some p => capacity s / max 1 (usableRanks p.ranks s.dram.spare)
  | none => 0

/-- A migration starts: SOURCE, TARGET, the pointer at 0, RANK_RETIRE with the cause (R342). -/
def startMigration (c p sp cause : Nat) (s : State) : State :=
  let s := setRankState (setRankState s c p 3) c sp 4
  let s := setFld (setFld (setFld (setFld s (Reg.DMC_MIGRATE_PTR c) 0) (Reg.DMC_MIGRATE_SRC c) p)
    (Reg.DMC_MIGRATE_DST c) sp) (Reg.DMC_MIGRATE_ACTIVE c) 1
  let s := fixTable c s
  let s := { s with dram := { s.dram with migAt := tblSet 0 s.dram.migAt c s.ns } }
  rankRecord c (rankRetireEvent c p cause s)

/-- A rank goes OFFLINE and its range is reported lost, with its logical rank (R345). -/
def rankOffline (c p : Nat) (s : State) : State :=
  let r := (logRank s c p).getD 0
  rankRecord c (memUe (r * rankSpan s) (rankSpan s) c r (setRankState s c p 6))

/-- A retirement trigger on a physical rank (R342 to R346). -/
def retireTrigger (c p cause : Nat) (s : State) : State :=
  match rankState s c p with
  | 1 =>
    match spareOf s c with
    | some sp => startMigration c p sp cause s
    | none => rankOffline c p s
  | 2 => rankRecord c (rankRetireEvent c p 5 (setRankState s c p 7))
  | 4 =>
    let src := fld s (Reg.DMC_MIGRATE_SRC c)
    rankRecord c (rankRetireEvent c p 5 (endMigration c false (setRankState (setRankState s c p 7) c src 1)))
  | _ => s

/-- Triggers of the first two kinds act only with AUTO_RETIRE (R341). -/
def autoTrigger (c p cause : Nat) (s : State) : State :=
  if flag s (Reg.DMC_ECC_CFG_AUTO_RETIRE c) then retireTrigger c p cause s else s

/-! ### Errors of a line (R323, R325, R326) -/

/-- Notes the last error of a channel. -/
def eccLast (c addr kind p d : Nat) (s : State) : State :=
  setReg s (Reg.DMC_ECC_LAST c) (BitVec.ofNat 64 (addr % 2 ^ 48 + kind * 2 ^ 48 + p * 2 ^ 52 + d * 2 ^ 56))

/-- A corrected error: event, counts, lamp log, and the rate trigger (R323, R341). -/
def correctedError (c p d addr : Nat) (s : State) : State :=
  let w := tblGet 0 s.dram.ceWin (4 * c + p) + 1
  let ce := tblSet 0 s.log.rankCe (4 * c + p) (satAdd 32 (tblGet 0 s.log.rankCe (4 * c + p)) 1)
  let s := { s with dram := { s.dram with ceWin := tblSet 0 s.dram.ceWin (4 * c + p) w } }
  let s := { s with log := { s.log with rankCe := ce } }
  let s := incSat (incSat s (Reg.DMC_ECC_CE_COUNT c p) 1) (Reg.DMC_ECC_CE_WINDOW c p) 1
  let s := eccLast c addr 1 p d (setFld s (Reg.DMC_ECC_CE_DEVICE c p) d)
  let s := raise evMemCe [(64, addr), (8, c), (8, p), (8, d)] s
  if fld s (Reg.DMC_ECC_CFG_CE_THRESH c) < w then autoTrigger c p 2 s else s

/-- An uncorrectable error: event, count, and the trigger (R325, R341). -/
def uncorrectable (c p addr : Nat) (s : State) : State :=
  let s := eccLast c addr 2 p 0 (incSat s (Reg.DMC_UE_CNT_UE c) 1)
  autoTrigger c p 1 (memUe addr 64 c p s)

/-- A poisoned line is returned: counted, MEM_POISON at most once per millisecond (R326). -/
def poisonReturned (c addr grp : Nat) (fresh_ : Bool) (p : Nat) (s : State) : State :=
  let s := incSat s (Reg.DMC_UE_CNT_POISON_READ c) 1
  let s := if fresh_ then eccLast c addr 3 p 0 s else s
  let t := tblGet 0 s.dram.poisonAt c
  if t = 0 ∨ t + 1000000 ≤ s.ns + 1 then
    raise evMemPoison [(64, addr), (8, c), (8, grp)]
      { s with dram := { s.dram with poisonAt := tblSet 0 s.dram.poisonAt c (s.ns + 1) } }
  else s

/-! ### Bank predictors and the row-hammer table (R321, R333) -/

/-- Lowest count of a table. -/
def hammerMin : List HammerRow → Nat
  | [] => 0
  | [x] => x.count
  | x :: t => min x.count (hammerMin t)

/-- Replaces the first entry with count `m`. -/
def hammerReplace (m : Nat) (e : HammerRow) : List HammerRow → List HammerRow
  | [] => [e]
  | x :: t => if x.count = m then e :: t else x :: hammerReplace m e t

/-- An activate noted in the table: the entry's new state is at the place of its row. -/
def hammerNote (rank bank row : Nat) (l : List HammerRow) : List HammerRow :=
  if l.any fun e => decide (e.rank = rank ∧ e.bank = bank ∧ e.row = row) then
    l.map fun e => if e.rank = rank ∧ e.bank = bank ∧ e.row = row then { e with count := e.count + 1 } else e
  else if l.length < 256 then l ++ [⟨rank, bank, row, 1⟩]
  else hammerReplace (hammerMin l) ⟨rank, bank, row, hammerMin l + 1⟩ l

/-- Probability exponent of the row-hammer sampling as it is taken (DMC_HAMMER). -/
def pExp (s : State) (c : Nat) : Nat := max 10 (min 16 (fld s (Reg.DMC_HAMMER_P_EXP c)))

/-- The generator's number for an activate, 16 bits, selects with probability 2^−P_EXP (R332). -/
def rowSelected (s : State) (c : Nat) : Bool :=
  decide (((Config.freeByte s.free).toNat + 256 * (Config.freeByte (s.free + 1)).toNat) % 2 ^ pExp s c = 0)

/-- The generator draws for an activate; a row it selects has its neighbours refreshed (R332). -/
def sampleRow (c rank bank row : Nat) (s : State) : State :=
  { s with free := s.free + 2,
           dram := { s.dram with
             sampled := if rowSelected s c then s.dram.sampled ++ [⟨c, rank, bank, row⟩] else s.dram.sampled } }

/-- An activate meets the table: it is counted, and an entry that reaches THRESH has its neighbours refreshed (R333). -/
def hammerActivate (c rank bank row : Nat) (s : State) : State :=
  let l := hammerNote rank bank row (tblGet [] s.dram.hammer c)
  let hit := l.any fun e => decide (e.rank = rank ∧ e.bank = bank ∧ e.row = row ∧
    fld s (Reg.DMC_HAMMER_THRESH c) ≤ e.count)
  if hit then
    let l := l.map fun e => if e.rank = rank ∧ e.bank = bank ∧ e.row = row then { e with count := 0 } else e
    let s := { s with dram := { s.dram with hammer := tblSet [] s.dram.hammer c l,
                                            sampled := s.dram.sampled ++ [⟨c, rank, bank, row⟩] } }
    let s := incSat s (Reg.DMC_HAMMER_STAT_TABLE_HITS c) 1
    if s.dram.hammerRaised.contains c then s else
    raise evHammerTable [(8, c), (8, rank), (8, bank), (32, row)]
      { s with dram := { s.dram with hammerRaised := setInsert c s.dram.hammerRaised } }
  else { s with dram := { s.dram with hammer := tblSet [] s.dram.hammer c l } }

/-- A row is activated. -/
def activate (c rank bank row : Nat) (s : State) : State :=
  let s := sampleRow c rank bank row s
  if tableMode s c then hammerActivate c rank bank row s else s

/-- Index of a bank's state. -/
def bankIx (c rank bank : Nat) : Nat := (c * 4 + rank) * 64 + bank

/-- Banks that a refresh takes: a bank index in every group on DDR5, a rank on DDR4. -/
def refreshBanks (s : State) (c unit : Nat) : List Nat :=
  if isDdr5 s then (List.range 4).flatMap fun r => (List.range 16).map fun g => bankIx c r (4 * g + unit)
  else (List.range 16).map fun b => bankIx c unit b

/-- The refresh unit of a bank. -/
def refreshUnit (s : State) (rank bank : Nat) : Nat := if isDdr5 s then bank % 4 else rank

def bankOpen (s : State) (i : Nat) : Bool := (tblGet ({} : Bank) s.dram.banks i).openRow.isSome

/-- Refresh units of a channel. -/
def refreshUnits : Nat := 4

/-- DMC_REFRESH.BEHIND: the largest debt of the channel. -/
def fixBehind (c : Nat) (s : State) : State :=
  setSat s (Reg.DMC_REFRESH_BEHIND c) (((List.range refreshUnits).map fun u => tblGet 0 s.dram.debt (8 * c + u)).foldl max 0)

def setDebt (c unit v : Nat) (s : State) : State :=
  fixBehind c { s with dram := { s.dram with debt := tblSet 0 s.dram.debt (8 * c + unit) v } }

/-- What a refresh unit owes issues once its banks are idle (R329, R330). -/
def refreshIdle (c unit : Nat) (s : State) : State :=
  if tblGet 0 s.dram.debt (8 * c + unit) ≠ 0 ∧ !(refreshBanks s c unit).any (bankOpen s) then setDebt c unit 0 s else s

/-- A bank precharges, not by prediction. One that is closed stays as it is. -/
def bankClose (i : Nat) (s : State) : State :=
  let b : Bank := tblGet {} s.dram.banks i
  if b.openRow = none then s else
  { s with dram := { s.dram with banks := tblSet {} s.dram.banks i { b with openRow := none, closedRow := none } } }

def setBank (i : Nat) (b : Bank) (s : State) : State :=
  { s with dram := { s.dram with banks := tblSet {} s.dram.banks i b } }

/-- The rank a read of the line is served from: TARGET below the copy pointer (R343). -/
def servingRank (s : State) (pl : DramPlace) : Nat :=
  let p := physRank s pl.ch pl.rank
  if rankState s pl.ch p = 3 ∧ pl.ord < fld s (Reg.DMC_MIGRATE_PTR pl.ch) then fld s (Reg.DMC_MIGRATE_DST pl.ch)
  else p

/-- Place of a request. -/
def HeldReq.place (s : State) (h : HeldReq) : DramPlace := placeOf s (h.req.addr / 64)

/-- A request is for a row of a bank. -/
def HeldReq.wants (s : State) (rank bank row : Nat) (h : HeldReq) : Bool :=
  let pl := h.place s
  decide (servingRank s pl = rank ∧ pl.bank = bank ∧ pl.row = row)

def arbOf (s : State) (c : Nat) : Arbiter := tblGet {} s.dram.arb c
def setArb (c : Nat) (a : Arbiter) (s : State) : State :=
  { s with dram := { s.dram with arb := tblSet {} s.dram.arb c a } }

/-- A queued request of the channel wants the row. -/
def rowWanted (s : State) (c rank bank row : Nat) : Bool :=
  ((arbOf s c).reads ++ (arbOf s c).writes).any (HeldReq.wants s rank bank row)

/-- The predictor of a bank after an access to `row` (R321). -/
def bankCounter (b : Bank) (row : Nat) : Nat :=
  let good := match b.openRow with
    | some o => some (decide (o = row))
    | none => b.closedRow.map fun o => decide (o = row)
  match good with
  | some true => min 3 (b.ctr + 1)
  | some false => b.ctr - 1
  | none => b.ctr

/-- An access to a row: the predictor moves, and the row opens when it was not open (R321). -/
def bankOpenRow (c rank bank row : Nat) (s : State) : State :=
  let b : Bank := tblGet {} s.dram.banks (bankIx c rank bank)
  setBank (bankIx c rank bank) ⟨bankCounter b row, some row, none⟩
    (if b.openRow = some row then s else activate c rank bank row s)

/-- An access to a row that may be the last: after the last queued request to it a counter of 0 or 1 closes it (R321). A refresh
that waits for the bank then issues (R329). -/
def bankAccess (c rank bank row : Nat) (s : State) : State :=
  let s := bankOpenRow c rank bank row s
  let b : Bank := tblGet {} s.dram.banks (bankIx c rank bank)
  if b.ctr ≤ 1 ∧ !rowWanted s c rank bank row then
    refreshIdle c (refreshUnit s rank bank) (setBank (bankIx c rank bank) ⟨b.ctr, none, some row⟩ s)
  else s

/-! ### Lines -/

/-- Devices of a mask, lowest first. -/
def devicesOf (mask n : Nat) : List Nat := (List.range n).filter fun d => bitOf mask d

def linePoisoned (s : State) (line : Nat) : Bool := s.poison.contains line

def setPoison (line : Nat) (s : State) : State := { s with poison := setInsert line s.poison }
def clearPoison (line : Nat) (s : State) : State := { s with poison := setErase line s.poison }
def clearErrs (line : Nat) (s : State) : State :=
  { s with dram := { s.dram with errs := tblSet 0 s.dram.errs line 0 } }

/-- An uncorrectable line is written back in poison form. One that TARGET holds is noted: SOURCE has it still (R346). -/
def poisonLine (p line : Nat) (s : State) : State :=
  let pl := placeOf s line
  let s := if rankState s pl.ch p = 4 ∧ !linePoisoned s line then
      { s with dram := { s.dram with tgtLost := setInsert line s.dram.tgtLost } }
    else s
  setPoison line (clearErrs line s)

/-- Stored bytes of a line. -/
def lineBytes (s : State) (line : Nat) : Bytes := tblGetRun 0#8 s.mem (64 * line) 64

/-- The error of devices whose symbols are stored inverted, and of poison form, which inverts every check symbol (R324). -/
def storedError (s : State) (mask : Nat) (poisoned : Bool) : List Nat :=
  (List.range (deviceSymbols s * lineDevices s)).map fun i =>
    if xor (bitOf mask (i / deviceSymbols s)) (poisoned && decide (64 ≤ i)) then 255 else 0

/-- What the decodes of a line find (R324, R325): accepted, with the device corrected and the line's bytes as read; poisoned, with
the device corrected; or accepted by neither decode. -/
inductive EccRead where
  | good (dev : Option Nat) (bytes : Bytes)
  | poisoned (dev : Option Nat)
  | bad
deriving DecidableEq, Repr

/-- The decodes of a line with inverted devices, by the code itself: as it is stored, then with the check symbols inverted. -/
def eccStored (s : State) (line mask : Nat) : EccRead :=
  let decode := rsDecode Config.eccFirst (deviceSymbols s) (lineDevices s)
  let e := storedError s mask (linePoisoned s line)
  match decode e with
  | some r => .good r.1 ((List.range 64).map fun i =>
      BitVec.ofNat 8 (Nat.xor (Nat.xor ((lineBytes s line).getD i 0#8).toNat (e.getD i 0)) (r.2.getD i 0)))
  | none => match decode (storedError s mask (!linePoisoned s line)) with
    | some r => .poisoned r.1
    | none => .bad

/-- What the decodes of a line find, `bad` a mask of devices that read wrong beyond those stored. R322 settles errors of one and
two devices. Of more, the code decides where the symbols are known; where they are not, the outcome is free (log 8). -/
def eccRead (s : State) (line bad : Nat) : EccRead :=
  let mask := Nat.lor (tblGet 0 s.dram.errs line) bad
  let was := linePoisoned s line
  match devicesOf mask (lineDevices s) with
  | [] => if was then .poisoned none else .good none (lineBytes s line)
  | [d] => if was then .poisoned (some d) else .good (some d) (lineBytes s line)
  | [_, _] => .bad
  | _ =>
    if bad = 0 then eccStored s line mask
    else if Config.eccDetects (64 * line) mask then .bad
    else .good ((Config.eccMisread (64 * line) mask).map fun d => d % lineDevices s)
      ((List.range 64).map fun i => Config.freeByte (s.free + i))

/-- The line is written with the bytes given and valid check symbols. -/
def lineRewrite (line : Nat) (b : Bytes) (s : State) : State :=
  clearErrs line { s with mem := tblSetRun 0#8 s.mem (64 * line) b }

/-- What the controller does about the decodes of a line of a physical rank (R323 to R325): a corrected line is written back, an
uncorrectable one in poison form. A read of free bytes draws them. -/
def eccEffects (c p line bad : Nat) (s : State) : State :=
  let r := eccRead s line bad
  let s := if bad ≠ 0 ∧ 3 ≤ (devicesOf (Nat.lor (tblGet 0 s.dram.errs line) bad) (lineDevices s)).length then
      { s with free := s.free + 64 } else s
  match r with
  | .good none _ => s
  | .good (some d) b => correctedError c p d (64 * line) (lineRewrite line b s)
  | .poisoned none => s
  | .poisoned (some d) => correctedError c p d (64 * line) (clearErrs line s)
  | .bad => uncorrectable c p (64 * line) (poisonLine p line s)

/-- No DRAM rank serves the lines of this one: it is offline or failed (Table 10-6); a failed spare with no other to take its
place among them (DESIGN CHOICE, log 133). -/
def rankDead (s : State) (c p : Nat) : Bool := decide (5 ≤ rankState s c p)

/-- ECC decode of a line with a mask of wrong devices beyond those stored: its bytes, `none` for poison, with the error's effects
(R322 to R326). -/
def lineDecode (grp line bad : Nat) (s : State) : State × Option Bytes :=
  let pl := placeOf s line
  let p := servingRank s pl
  if rankDead s pl.ch p then (poisonReturned pl.ch (64 * line) grp true p s, none) else
  let t := eccEffects pl.ch p line bad s
  match eccRead s line bad with
  | .good _ b => (t, some b)
  | .poisoned d => (poisonReturned pl.ch (64 * line) grp d.isNone p t, none)
  | .bad => (poisonReturned pl.ch (64 * line) grp false p t, none)

/-- A client reads a line (R308, R322 to R326). -/
def lineRead (grp line bad : Nat) (s : State) : State × Option Bytes :=
  if capacity s ≤ 64 * line then (incSat s Reg.MFB_REJECT_UNMAPPED 1, none) else
  let s := { s with dram := { s.dram with moved := s.dram.moved + 1 } }
  let pl := placeOf s line
  lineDecode grp line bad (bankAccess pl.ch (servingRank s pl) pl.bank pl.row s)

/-- Devices whose symbols are stored inverted, and poison form, as the decodes of R324 tell them apart. Poison form is every
check symbol inverted. So both check devices inverted turn it on or off, and one of them inverted on a poisoned line
is the other one inverted on a line that is not. -/
def invertDevices (s : State) (poisoned : Bool) (mask : Nat) : Bool × Nat :=
  let k := dataDevices s
  match bitOf mask k, bitOf mask (k + 1), poisoned with
  | true, true, p => (!p, mask % 2 ^ k)
  | true, false, true => (false, mask % 2 ^ k + 2 ^ (k + 1))
  | false, true, true => (false, mask % 2 ^ k + 2 ^ k)
  | _, _, p => (p, mask)

/-- Applies an armed injection of the line's channel to a write (DMC_INJECT). -/
def injectWrite (c line : Nat) (s : State) : State :=
  if flag s (Reg.DMC_INJECT_ARM c) ∧ fld s (Reg.DMC_INJECT_ADDR c) / 64 = line then
    let m := invertDevices s (linePoisoned s line) (fld s (Reg.DMC_INJECT_DEVICES c) % 2 ^ lineDevices s)
    let s := if m.1 then setPoison line s else clearPoison line s
    setFld { s with dram := { s.dram with errs := tblSet 0 s.dram.errs line m.2 } } (Reg.DMC_INJECT_ARM c) 0
  else s

/-- The accesses that a write of a line makes: to TARGET, and to SOURCE as well at and above the copy pointer (R343). A partial
write reads the line first (R327). -/
def writeAccess (pl : DramPlace) (full : Bool) (s : State) : State :=
  let p := physRank s pl.ch pl.rank
  let s := if full then s else bankOpenRow pl.ch (servingRank s pl) pl.bank pl.row s
  let s := bankAccess pl.ch (servingRank s pl) pl.bank pl.row s
  if rankState s pl.ch p = 3 ∧ fld s (Reg.DMC_MIGRATE_PTR pl.ch) ≤ pl.ord then
    bankAccess pl.ch (fld s (Reg.DMC_MIGRATE_DST pl.ch)) pl.bank pl.row s
  else s

/-- The read of a partial write: what it finds is what the merge starts from (R325, R327). -/
def mergeSource (line : Nat) (s : State) : State :=
  let pl := placeOf s line
  let t := eccEffects pl.ch (servingRank s pl) line 0 s
  match eccRead s line 0 with
  | .good none b => if tblGet 0 s.dram.errs line = 0 then t else lineRewrite line b t
  | _ => t

/-- A write that covers every byte of a line and only part of a word of samples is a read-modify-write all the same: its
read (R327, R397). -/
def lineMerge (line : Nat) (s : State) : State :=
  let pl := placeOf s line
  mergeSource line (bankOpenRow pl.ch (servingRank s pl) pl.bank pl.row s)

/-- A write of bytes within a line from offset `o`, with or without a poison mark, is accepted. A full line stores valid
check symbols and clears poison; a partial write merges, and keeps the poison of a line that reads poisoned or
uncorrectable (R327). -/
def lineStore (line o : Nat) (data : Bytes) (poison : Bool) (s : State) : State :=
  let pl := placeOf s line
  if rankDead s pl.ch (physRank s pl.ch pl.rank) then s else
  let full := decide (data.length = 64)
  let s := if full then s else mergeSource line s
  let s := { s with mem := tblSetRun 0#8 s.mem (64 * line + o) data }
  let s := clearErrs line s
  let s := if poison then setPoison line s else if full then clearPoison line s else s
  let s := if poison || full then { s with dram := { s.dram with tgtLost := setErase line s.dram.tgtLost } } else s
  injectWrite pl.ch line s

/-- A client writes bytes within a line; beyond capacity the write is discarded and counted (R308). -/
def lineWrite (line o : Nat) (data : Bytes) (poison : Bool) (s : State) : State :=
  if capacity s ≤ 64 * line then incSat s Reg.MFB_REJECT_UNMAPPED 1 else
  let s := { s with dram := { s.dram with moved := s.dram.moved + 1 } }
  lineStore line o data poison (writeAccess (placeOf s line) (decide (data.length = 64)) s)

/-- Reads `k` lines from `line` on: their bytes, zeros for poison, and whether any was poisoned. -/
def linesRead (grp : Nat) : Nat → Nat → State → State × Bytes × Bool
  | 0, _, s => (s, [], false)
  | k + 1, line, s =>
    let r := lineRead grp line 0 s
    let t := linesRead grp k (line + 1) r.1
    (t.1, r.2.getD (List.replicate 64 0#8) ++ t.2.1, decide (r.2 = none) || t.2.2)

/-- Lines that the range `[a, a + n)` meets. -/
def lineCount (a n : Nat) : Nat := if n = 0 then 0 else (a + n - 1) / 64 - a / 64 + 1

/-- A client reads `n` bytes at device address `a`: the bytes, and whether a line was poisoned. -/
def memRead (grp a n : Nat) (s : State) : State × Bytes × Bool :=
  let r := linesRead grp (lineCount a n) (a / 64) s
  (r.1, sliceB r.2.1 (a % 64) n, r.2.2)

/-- Writes bytes line by line; `k` bounds the lines. -/
def linesWrite (poison : Bool) : Nat → Nat → Bytes → State → State
  | 0, _, _, s => s
  | k + 1, a, data, s =>
    let m := 64 - a % 64
    linesWrite poison k (a + m) (data.drop m) (lineWrite (a / 64) (a % 64) (data.take m) poison s)

/-- A client writes bytes at device address `a`. -/
def memWrite (a : Nat) (data : Bytes) (poison : Bool) (s : State) : State :=
  linesWrite poison (lineCount a data.length) a data s

/-- The write check of an on-device client (R310): granted, and for the 2D and lossless engines
free of leases. A rejected write is counted and not issued. -/
inductive WriteCheck where
  | ok | partition | lease (addr : Nat)
deriving DecidableEq, Repr

def writeCheck (s : State) (grp a n : Nat) : WriteCheck :=
  if !inParts s (grantBit grp) a n then .partition
  else if grp = grp2d ∨ grp = grpLossless then
    match leaseHit s a n with
    | some x => .lease x
    | none => .ok
  else .ok

/-- A write that fails its check is not issued, and is counted (R310). -/
def rejectWrite (s : State) (grp a n : Nat) : State :=
  match writeCheck s grp a n with
  | .ok => s
  | .partition => incSat s Reg.MFB_REJECT_PART 1
  | .lease _ => incSat s Reg.MFB_REJECT_LEASE 1

/-- A client's write, checked line by line (R310); a line that fails is not written. -/
def clientLines (grp : Nat) (poison : Bool) : Nat → Nat → Bytes → State → State
  | 0, _, _, s => s
  | k + 1, a, data, s =>
    let m := min data.length (64 - a % 64)
    let s := if writeCheck s grp a m = .ok then lineWrite (a / 64) (a % 64) (data.take m) poison s
      else rejectWrite s grp a m
    clientLines grp poison k (a + m) (data.drop m) s

def clientWrite (grp a : Nat) (data : Bytes) (poison : Bool) (s : State) : State :=
  clientLines grp poison (lineCount a data.length) a data s

/-- Scan-out's event of a write into a leased range (R226). -/
def evLeaseViolation : Nat := 223

end Sys2Proof.Machine
end

