-- ==== Sys2Proof/Machine/Command.lean ====
section
/-! DEFINITION. Command rings (R411 to R419), the checks before a descriptor executes (R421), and the
Faraefort authenticator (R426 to R432). Each command is a `Cmd`: its opcode, its reserved body, when
its unit can accept it, and what it does; `runRing` executes the descriptor in front of a ring. -/

namespace Sys2Proof.Machine

/-! ### Descriptors (Table 13-3) -/

/-- Byte `i` of a descriptor. -/
def dByte (d : Bytes) (i : Nat) : Nat := leAt d i 1
def dOp (d : Bytes) : Nat := dByte d 0
def dFlags (d : Bytes) : Nat := dByte d 1
def dSlot (d : Bytes) : Nat := dFlags d % 4
def dAuth (d : Bytes) : Bool := bitOf (dFlags d) 2
def dWait (d : Bytes) : Bool := bitOf (dFlags d) 3
def dIrq (d : Bytes) : Bool := bitOf (dFlags d) 4
def dTag (d : Bytes) : Nat := leAt d 2 2
def dCounter (d : Bytes) : Nat := leAt d 40 8

/-- Opcodes with bit 7 set are critical (Table 13-5). -/
def isCritical (op : Nat) : Bool := decide (0x80 ≤ op)

/-- Opcodes of Table 13-5. -/
def knownOp (op : Nat) : Bool :=
  decide (1 ≤ op ∧ op ≤ 0x12) || decide (0x80 ≤ op ∧ op ≤ 0x8C)

/-- Body bytes 4 to 39 outside the ranges `[a, b]` listed are zero. -/
def bodyZero (d : Bytes) (used : List (Nat × Nat)) : Bool :=
  (List.range 36).all fun i =>
    used.any (fun p => decide (p.1 ≤ i + 4 ∧ i + 4 ≤ p.2)) || decide (dByte d (i + 4) = 0)

/-- What a command is. -/
structure Cmd where
  op : Nat
  /-- No reserved byte or bit of the body is set. -/
  bodyOk : Bytes → Bool
  /-- The unit can accept it now (R414). -/
  ready : State → Bytes → Bool
  /-- What it does once it executes; it completes the job, now or later. -/
  run : Job → Bytes → State → State

/-- A unit that can always accept. -/
def always (_ : State) (_ : Bytes) : Bool := true

/-! ### Rings -/

/-- Descriptors a ring holds. -/
def ringSize (s : State) (r : Nat) : Nat := 2 ^ fld s (Reg.CMD_RING_CFG_SIZE r)
def ringRuns (s : State) (r : Nat) : Bool := decide (fld s (Reg.CMD_RING_STAT_STATE r) = 1)

/-- R411: the conditions under which a ring may start. -/
def ringOk (s : State) (r : Nat) : Bool :=
  let b := fld s (Reg.CMD_RING_BASE_BASE r)
  let z := fld s (Reg.CMD_RING_CFG_SIZE r)
  let c := fld s (Reg.CMD_RING_CFG_CQ_SIZE r)
  decide (b % 4096 = 0) && decide (fld s (Reg.CMD_CQ_BASE_BASE r) % 4096 = 0) &&
  decide (4 ≤ z ∧ z ≤ 12 ∧ 4 ≤ c ∧ c ≤ 12) && inHdm s b (64 * 2 ^ z)

/-- CMD_RING_CTRL.EN written 1 (R411). -/
def ringEnable (r : Nat) (s : State) : State :=
  if ringRuns s r then s
  else if ringOk s r then
    setFld (setFld s (Reg.CMD_RING_CTRL_EN r) 1) (Reg.CMD_RING_STAT_STATE r) 1
  else ringError r 1 s

/-- CMD_RING_CTRL.EN written 0 (R418). A ring stopped on an error stays so. -/
def ringDisable (r : Nat) (s : State) : State :=
  let s := setFld s (Reg.CMD_RING_CTRL_EN r) 0
  if ringRuns s r then setFld s (Reg.CMD_RING_STAT_STATE r) 0 else s

/-- Head, tail and completion pointers to 0, PHASE to 1, LOST to 0 (R418). -/
def ringClear (r : Nat) (s : State) : State :=
  let s := resetReg (resetReg s (Reg.CMD_RING_PTR r)) (Reg.CMD_CQ_PTR r)
  setRing (setFld s (Reg.CMD_RING_STAT_LOST r) 0) r { ring s r with written := 0 }

/-- CMD_RING_CTRL.RESET, which acts on a stopped ring only (R418). -/
def ringReset (r : Nat) (s : State) : State := if ringRuns s r then s else ringClear r s

/-- A doorbell (R412). -/
def doorbell (r tail : Nat) (s : State) : State :=
  if !ringRuns s r then s else
  let z := ringSize s r
  let h := fld s (Reg.CMD_RING_PTR_HEAD r)
  let t := fld s (Reg.CMD_RING_PTR_TAIL r)
  if z ≤ tail then ringError r 2 s
  else if z ≤ (t + z - h) % z + (tail + z - t) % z then ringError r 2 s
  else setFld s (Reg.CMD_RING_PTR_TAIL r) tail

/-- The host frees completion entries (R415). -/
def cqHead (r head : Nat) (s : State) : State :=
  let z := cqSize s r
  let freed := (head + z - fld s (Reg.CMD_CQ_PTR_HEAD r) % z) % z
  setRing (setFld s (Reg.CMD_CQ_PTR_HEAD r) head) r { ring s r with written := (ring s r).written - freed }

/-- A ring from which a descriptor can be taken (R415). -/
def takeable (s : State) (r : Nat) : Bool :=
  ringRuns s r && decide (fld s (Reg.CMD_RING_PTR_HEAD r) ≠ fld s (Reg.CMD_RING_PTR_TAIL r)) &&
  decide ((ring s r).written + (ring s r).reserved < cqSize s r - 1)

/-- Takes the next descriptor of ring `r` (R414). A poisoned one completes with DESC_POISON (R419),
one with an unknown opcode with BAD_OPCODE (R421). -/
def takeFrom (r : Nat) (s : State) : State :=
  let h := fld s (Reg.CMD_RING_PTR_HEAD r)
  let m := memRead grpHost (fld s (Reg.CMD_RING_BASE_BASE r) + 64 * h) 64 s
  let d := m.2.1
  let s := setFld m.1 (Reg.CMD_RING_PTR_HEAD r) ((h + 1) % ringSize m.1 r)
  let s := setFld s (Reg.CMD_RING_STAT_INFLIGHT r) (fld s (Reg.CMD_RING_STAT_INFLIGHT r) + 1)
  let s := setRing { s with rrRing := r } r { ring s r with reserved := (ring s r).reserved + 1 }
  if m.2.2 then cqWrite r 0xFFFF stDescPoison 0 0 false false 0 s
  else if knownOp (dOp d) then setRing s r { ring s r with taken := (ring s r).taken ++ [d] }
  else cqWrite r (dTag d) stBadOpcode (dOp d) 0 (dIrq d) false 0 s

/-- The rings in the order of the round robin. -/
def ringOrder (s : State) : List Nat := (List.range 8).map fun i => (s.rrRing + 1 + i) % 8

/-- DESCRIPTOR_TAKE: the next ring in round robin that has a descriptor to take. -/
def takeNext (s : State) : State :=
  match (ringOrder s).find? (takeable s) with
  | some r => takeFrom r s
  | none => s

/-! ### Authentication (R426 to R432) -/

def keyOf (s : State) (k : Nat) : Bytes := tblGet [] s.keys k
def slotSet (s : State) (k : Nat) : Bool := flag s (Reg.CMD_KEY_STAT_SET k)
def slotBusy (s : State) (k : Nat) : Bool := flag s (Reg.CMD_KEY_STAT_BUSY k)

/-- Table 13-6: ceiling of a slot's PERMIT. -/
def ceilingOf (k : Nat) : Nat := [0x11DD, 0x1FFF, 0x0FCC, 0x104C].getD k 0

/-- A mask is a subset of another. -/
def subMask (a b : Nat) : Bool := decide (Nat.land a b = a)

/-- The MAC a descriptor carries matches under a key (R427). -/
def macOk (key d : Bytes) : Bool := decide ((hmac key (d.take 48)).take 16 = sliceB d 48 16)

/-- A counter passes (R428). -/
def counterOk (last c op : Nat) : Bool :=
  decide (last < c) && (decide (c ≤ 2 ^ 64 - 256) || (decide (op = 0x83) && decide (c = 2 ^ 64 - 1)))

/-- The mark a counter asks for (R431). -/
def markFor (c : Nat) : Nat := 256 * min (c / 256 + 2) (2 ^ 56 - 1)

/-- Outcome of the checks of R426. -/
inductive Auth where
  | pass
  | fail (st : Nat)
  /-- A new mark must be written first (R431). -/
  | mark (m : Nat)
  /-- A mark or key record of the slot is being written (R429). -/
  | busy
deriving DecidableEq, Repr

/-- The checks of R426 in order. -/
def authCheck (s : State) (d : Bytes) : Auth :=
  let k := dSlot d
  let c := dCounter d
  let m := fld s (Reg.CMD_KEY_MARK_MARK k)
  if !dAuth d then (if isCritical (dOp d) then .fail stAuthMac else .pass)
  else if slotBusy s k then .busy
  else if !slotSet s k then .fail stAuthUnset
  else if !macOk (keyOf s k) d then .fail stAuthMac
  else if !counterOk (fld s (Reg.CMD_KEY_CTR_LAST k)) c (dOp d) then .fail stAuthReplay
  else if isCritical (dOp d) && !bitOf (fld s (Reg.CMD_KEY_STAT_PERMIT k)) (dOp d - 0x80) then .fail stAuthDenied
  else if m < c then .mark (markFor c)
  else .pass

/-- Records a failed authentication and raises AUTH_FAIL (R426). `r` is the ring, 0xFF for a
broadcast. -/
def authFail (r : Nat) (d : Bytes) (st : Nat) (s : State) : State :=
  let s := incSat s Reg.CMD_AUTH_STAT_COUNT 1
  let s := setFld (setFld (setFld s Reg.CMD_AUTH_STAT_REASON st) Reg.CMD_AUTH_STAT_SLOT (dSlot d))
    Reg.CMD_AUTH_STAT_OPCODE (dOp d)
  raise evAuthFail [(8, r), (16, dTag d), (8, dOp d), (8, dSlot d), (8, st)] s

/-- Starts the write of a new mark: HI before LO when U >> 40 changes (R431, R432). -/
def startMark (k m : Nat) (s : State) : State :=
  let u := m / 256
  let s := setFld s (Reg.CMD_KEY_STAT_BUSY k) 1
  if u / 2 ^ 40 = fld s (Reg.CMD_KEY_MARK_MARK k) / 256 / 2 ^ 40 then
    nvmWrite (markWrite s (2 * k + 1) (u % 2 ^ 40) (.markLo k m)) s
  else nvmWrite (markWrite s (2 * k) (u / 2 ^ 40) (.markHi k m)) s

/-- The accepted counter becomes the slot's last (R426). -/
def acceptCounter (d : Bytes) (s : State) : State :=
  if dAuth d then setFld s (Reg.CMD_KEY_CTR_LAST (dSlot d)) (dCounter d) else s

/-- FLAGS bits 7:5 are clear. -/
def flagsOk (d : Bytes) : Bool := decide (dFlags d / 32 = 0)

/-- The job of a descriptor. -/
def jobOf (o : Origin) (d : Bytes) : Job :=
  { origin := o, tag := dTag d, opcode := dOp d, irq := dIrq d, authed := dAuth d,
    counter := dCounter d, slot := dSlot d }

/-- Takes the front descriptor of a ring out of its queue. -/
def popTaken (r : Nat) (s : State) : State :=
  let x := ring s r
  setRing s r { x with taken := x.taken.drop 1, doomed := x.doomed - 1, markFor := none, passed := false }

/-- The checks of R426 on the descriptor in front of a ring: one whose mark write has ended is accepted already (R431), and waits
while another write for its slot is in progress (R429). -/
def frontAuth (s : State) (r : Nat) (d : Bytes) : Auth :=
  if (ring s r).passed then (if slotBusy s (dSlot d) then .busy else .pass) else authCheck s d

/-- The descriptor in front leaves its ring, accepted: its counter is the slot's last. -/
def acceptFront (r : Nat) (d : Bytes) (s : State) : State :=
  if (ring s r).passed then popTaken r s else acceptCounter d (popTaken r s)

/-- Origin of the descriptor in front of a ring (R418, R420). -/
def frontOrigin (s : State) (r : Nat) : Origin :=
  .ring r s.flr (if (ring s r).doomed = 0 then (ring s r).errors else (ring s r).errors - 1)

/-- A descriptor ends without execution. Every completion of an NVM_READ or NVM_WRITE raises NVM_DONE (R515). -/
def completeRefused (j : Job) (d : Bytes) (st : Nat) (s : State) : State :=
  let s := if j.opcode = 0x0B ∨ j.opcode = 0x0C then
      raise evNvmDone [(8, j.opcode), (8, st), (16, ((leAt d 8 4 / 256 : Nat) : Int))] s
    else s
  complete j st 0 0 s

/-- Executes an accepted descriptor: reserved bits, then the command (R421). -/
def execAccepted (c : Cmd) (o : Origin) (d : Bytes) (s : State) : State :=
  if flagsOk d && c.bodyOk d then c.run (jobOf o d) d s
  else completeRefused (jobOf o d) d stBadBody s

/-- The descriptor in front of a ring may be checked: its WAIT is satisfied (R414). -/
def frontFree (s : State) (r : Nat) (d : Bytes) : Bool :=
  !dWait d || decide (fld s (Reg.CMD_RING_STAT_INFLIGHT r) = (ring s r).taken.length)

/-- Executes the descriptor in front of ring `r` when it is this command's: WAIT, the unit, the
checks of R421. A descriptor that waits for its unit or its mark stays in front. -/
def runRing (c : Cmd) (r : Nat) (s : State) : State :=
  match (ring s r).taken with
  | [] => s
  | d :: _ =>
    if decide (dOp d ≠ c.op) || !frontFree s r d then s else
    match frontAuth s r d with
    | .busy => s
    | .fail st => completeRefused { jobOf (frontOrigin s r) d with authed := false } d st (authFail r d st (popTaken r s))
    | .mark m => startMark (dSlot d) m (setRing s r { ring s r with markFor := some m })
    | .pass =>
      if !c.ready s d then s else
      execAccepted c (frontOrigin s r) d (acceptFront r d s)

/-! ### Waiting for a mark -/

/-- Rings whose front descriptor waits for a mark of slot `k`. -/
def markWaiters (s : State) (k : Nat) : List Nat :=
  (List.range 8).filter fun r => decide ((ring s r).markFor ≠ none) &&
    match (ring s r).taken with
    | d :: _ => decide (dSlot d = k)
    | [] => false

/-- A mark write of slot `k` failed: the descriptor waiting for it is not accepted and completes with
STORE_FAIL (R435). -/
def markFailed (k : Nat) (s : State) : State :=
  forAll (markWaiters s k) (fun r s =>
    match (ring s r).taken with
    | d :: _ => completeRefused { jobOf (frontOrigin s r) d with authed := false } d stStoreFail (popTaken r s)
    | [] => s) (setFld s (Reg.CMD_KEY_STAT_BUSY k) 0)

/-- A mark write of slot `k` is done: the descriptor that waited for it is accepted (R431). -/
def markDone (k m : Nat) (s : State) : State :=
  let s := setFld (setFld s (Reg.CMD_KEY_MARK_MARK k) m) (Reg.CMD_KEY_STAT_BUSY k) 0
  forAll (markWaiters s k) (fun r s =>
    match (ring s r).taken with
    | d :: _ => acceptCounter d (setRing s r { ring s r with markFor := none, passed := true })
    | [] => s) s

/-! ### The rows of this unit -/

/-- NOP (R422). -/
def cmdNop : Cmd where
  op := 0x01
  bodyOk d := bodyZero d []
  ready := always
  run j _ s := complete j stOK 0 0 s

end Sys2Proof.Machine
end

