-- ==== Sys2Proof/Machine/Host.lean ====
section
/-! DEFINITION. The host port: link events (R405), host accesses to device memory and the aperture
(R406 to R410), refused BAR0 accesses (R10), HDM decoders, vector acknowledgement (R437) and forced
events (R425). -/

namespace Sys2Proof.Machine

/-- Raises CXL_ERR: cause and offset or address (Table 13-10). -/
def cxlErr (cause addr : Nat) (s : State) : State :=
  raiseErr unitHost 0 evCxlErr cause [(8, cause), (64, addr)] s

/-- At most once per millisecond since the last time. -/
def msPassed (s : State) (t : Option Nat) : Bool :=
  match t with
  | none => true
  | some x => decide (x + 1000000 ≤ s.ns)

/-- Poisoned data go to the host: counted, CXL_ERR at most once per millisecond (R406). -/
def hostPoison (addr : Nat) (s : State) : State :=
  let s := incSat s Reg.HOST_ERR_CNT_POISON 1
  if msPassed s s.cxlPoisonAt then cxlErr 2 addr { s with cxlPoisonAt := some s.ns } else s

/-- A host read of device memory: the data, or poison (R406). Over CXL.mem the data return with the poison
indication; through BAR2 (`io`) the whole completion is a poisoned TLP carrying zeros. -/
def hostRead (io : Bool) (a n : Nat) (s : State) : State :=
  let m := memRead grpHost a n s
  let s := emit m.1 (.hostData (if io && m.2.2 then List.replicate n 0#8 else m.2.1) m.2.2)
  if m.2.2 then hostPoison a s else s

/-- A host write meets a leased range: counted, and LEASE_VIOLATION once per scan frame (R226). -/
def hostLease (a n : Nat) (s : State) : State :=
  match leaseHit s a n with
  | none => s
  | some x =>
    let e := ((List.range 16).find? fun e => decide (0 < leaseLen s e) && decide (x < leaseBase s e + leaseLen s e) &&
      decide (leaseBase s e ≤ x)).getD 0
    let s := incSat (setFld s Reg.SCAN_LEASE_VIOL_ADDR (x / 64 * 64)) Reg.SCAN_LEASE_VIOL_COUNT 1
    if s.leaseRaised then s else
    raise evLeaseViolation [(64, x / 64 * 64), (8, e), (32, fld s Reg.TIME_TICK_COUNT_K)]
      { s with leaseRaised := true }

/-- A host write of device memory: it completes normally; a leased range is reported (R226). -/
def hostWrite (a : Nat) (data : Bytes) (poison : Bool) (s : State) : State :=
  hostLease a data.length (memWrite a data poison s)

/-- Runs of contiguous HDM partitions, lowest first: base and end (R409). `k` bounds the search. -/
def hdmRunEnd (s : State) : Nat → Nat → Nat
  | 0, e => e
  | k + 1, e =>
    match (List.range 16).find? fun i => partFlag s i 0 && decide (0 < partSize s i) && decide (partBase s i = e) with
    | some i => hdmRunEnd s k (e + partSize s i)
    | none => e

/-- Lowest base of an HDM partition at or above `a`. -/
def hdmNext (s : State) (a : Nat) : Option Nat :=
  (List.range 16).foldl (fun m i =>
    if partFlag s i 0 && decide (0 < partSize s i) && decide (a ≤ partBase s i) then
      match m with
      | some b => some (min b (partBase s i))
      | none => some (partBase s i)
    else m) none

/-- Run `j` of contiguous HDM partitions (R409). -/
def hdmRun (s : State) (j : Nat) : Option (Nat × Nat) :=
  match hdmNext s 0 with
  | none => none
  | some b0 =>
    let e0 := hdmRunEnd s 16 b0
    if j = 0 then some (b0, e0) else (hdmNext s e0).map fun b1 => (b1, hdmRunEnd s 16 b1)

/-- A range of host physical addresses and the device address of its start: decoder `d` committed in mode 1
(R408); in mode 2 range `d`, whose base the host programs and whose size is that of the run of partitions in
force (R409). -/
def hostRange (s : State) (d : Nat) : Option (Nat × Nat × Nat) :=
  let x := tblGet {} s.hdm d
  if !x.committed then none
  else if fld s Reg.HOST_LINK_MODE = 2 then (hdmRun s d).map fun r => (x.base, r.2 - r.1, r.1)
  else some (x.base, x.size, x.dpa)

/-- Device address a host physical address reaches (R408, R409). -/
def hostMap (s : State) (a n : Nat) : Option Nat :=
  (List.range 2).findSome? fun d => (hostRange s d).bind fun r =>
    if r.1 ≤ a ∧ a + n ≤ r.1 + r.2.1 then some (r.2.2 + (a - r.1)) else none

/-- CXL.mem is trained: link mode 1 or 2 (Table 13-1). -/
def cxlMem (s : State) : Bool := decide (fld s Reg.HOST_LINK_MODE = 1 ∨ fld s Reg.HOST_LINK_MODE = 2)

/-- An aperture miss (R410). -/
def aperMiss (a : Nat) (s : State) : State :=
  let s := incSat s Reg.HOST_ERR_CNT_APER 1
  if msPassed s s.cxlAperAt then cxlErr 4 a { s with cxlAperAt := some s.ns } else s

/-- Bytes of BAR2 (R403). -/
def bar2Size : Nat := 2 ^ 36

/-- Bytes of an access. -/
def accessBytes : HostAccess → Nat
  | .read len => len
  | .write data _ => data.length

/-- An access through BAR2 (R410). -/
def aperture (off : Nat) (acc : HostAccess) (s : State) : State :=
  let a := fld s Reg.HOST_APER_BASE + off
  let n := accessBytes acc
  let hit := inHdm s a n && decide (a + n ≤ capacity s)
  match acc with
  | .read len => if hit then hostRead true a len s else aperMiss a (emit s (.hostData (List.replicate len 0#8) true))
  | .write data p => if hit then hostWrite a data p s else aperMiss a s

/-- The host commits a decoder (R408), or in mode 2 programs the base of a DVSEC range (R409). -/
def hdmCommit (d base size skip ways : Nat) (s : State) : State :=
  let put := fun x => { s with hdm := tblSet {} s.hdm d x }
  if fld s Reg.HOST_LINK_MODE = 1 then
    let below := tblGet {} s.hdm 0
    let dpa := (if d = 1 ∧ below.committed then below.dpa + below.size else 0) + skip
    if ways ≠ 1 ∨ !(inParts s 0 dpa size) ∨ capacity s < dpa + size then
      cxlErr 3 dpa (put ⟨base, size, dpa, false, true, skip, ways⟩)
    else put ⟨base, size, dpa, true, false, skip, ways⟩
  else if fld s Reg.HOST_LINK_MODE = 2 then
    match hdmRun s d with
    | some _ => put { base := base, committed := true }
    | none => s
  else s

/-- The NVM password session ends (R510). -/
def endSession (s : State) : State := setFld s Reg.NVM_STAT_SESSION 0

/-- LINK_DOWN (R405): the link reads down, CXL_LINK is raised, the password session ends. -/
def linkDown (s : State) : State :=
  if fld s Reg.HOST_LINK_MODE = 0 then s else
  let cap : List Cap := [(8, 0), (8, fld s Reg.HOST_LINK_MODE), (8, fld s Reg.HOST_LINK_SPEED), (8, fld s Reg.HOST_LINK_WIDTH)]
  let s := setFld (setFld (setFld s Reg.HOST_LINK_MODE 0) Reg.HOST_LINK_SPEED 0) Reg.HOST_LINK_WIDTH 0
  raise evCxlLink cap (endSession { incSat s Reg.HOST_LINK_DOWNS 1 with linkLost := true })

/-- First mode of Table 13-1 that the link partner supports; bit m − 1 of `partner` stands for mode m, as in
HOST_BLK_CAP.MODES. 0 for none (R402). -/
def linkMode (partner : Nat) : Nat := if bitOf partner 0 then 1 else if bitOf partner 1 then 2 else if bitOf partner 2 then 3 else 0

/-- Speeds of a mode, as HOST_LINK.SPEED codes them: 8 to 32 GT/s under CXL, 2.5 to 32 GT/s under PCIe; and the
widths (Table 13-1). -/
def linkRuns (mode speed width : Nat) : Bool :=
  decide ((if mode = 3 then 1 else 3) ≤ speed ∧ speed ≤ 5) && [1, 2, 4, 8].contains width

/-- LINK_UP (R402, R405): the link trains in the first mode its partner supports, and HOST_LINK reads the mode,
speed and width in force. CXL_LINK is raised when the link had gone down without a reset. A start that failed
at step 4 leaves the link untrained: it trains from step 5 of a start on (R279, Table 17-5). -/
def linkUp (partner speed width : Nat) (s : State) : State :=
  let mode := linkMode partner
  let barred := decide (lamp s = .off) || decide (fld s Reg.STR_STAT_STEP < 5)
  if barred || decide (mode = 0 ∨ fld s Reg.HOST_LINK_MODE ≠ 0) || !linkRuns mode speed width then s else
  let s := setFld (setFld (setFld s Reg.HOST_LINK_MODE mode) Reg.HOST_LINK_SPEED speed) Reg.HOST_LINK_WIDTH width
  if s.linkLost then raise evCxlLink [(8, 1), (8, mode), (8, speed), (8, width)] { s with linkLost := false } else s

/-- Acknowledges one vector (R437). -/
def ackVec (v : Nat) (s : State) : State :=
  if bitOf (reg s Reg.HOST_VEC_LATE).toNat v then
    sendMsix v (setReg s Reg.HOST_VEC_LATE (BitVec.ofNat 64 (putBits (reg s Reg.HOST_VEC_LATE).toNat v 1 0)))
  else setReg s Reg.HOST_VEC_SENT (BitVec.ofNat 64 (putBits (reg s Reg.HOST_VEC_SENT).toNat v 1 0))

/-- A write of HOST_VEC_ACK: every bit written 1 whose SENT is set is acknowledged. -/
def vecAck (ack : Nat) (s : State) : State :=
  forAll ((List.range 64).filter fun v => bitOf ack v && bitOf (reg s Reg.HOST_VEC_SENT).toNat v) ackVec s

/-- Forces an event in test mode (R425): recorded under R540 with a zero capture and FORCED set, with
no follow-up, snuff path or FIRST_FATAL (R544). -/
def testForce (src : Nat) (s : State) : State :=
  if flag s Reg.GEN_STATE_TEST then recordEvent src 0 true s else s

/-- HOST_ERR_CNT.CLR: the three counts. -/
def hostErrClr (s : State) : State :=
  setFld (setFld (setFld s Reg.HOST_ERR_CNT_ACCESS 0) Reg.HOST_ERR_CNT_POISON 0) Reg.HOST_ERR_CNT_APER 0

end Sys2Proof.Machine
end

