-- ==== Sys2Proof/Machine/Keys.lean ====
section
/-! DEFINITION. KEY_LOAD and KEY_ROTATE (R433 to R435), and the key slots as a start finds them in
the store (R431, R435). -/

namespace Sys2Proof.Machine

/-- The key check value of R435: the first 8 bytes of the HMAC under the key of "VZKC". -/
def keyCheck (key : Bytes) : Nat := leNat ((hmac key [0x56#8, 0x5A#8, 0x4B#8, 0x43#8]).take 8)

/-- Payload of a key record (Table 16-4). -/
def keyPayload (s : State) (p : KeyPend) : Bytes :=
  match p.key with
  | none => []
  | some key => key ++ natLe p.permit 2 ++ natLe (counterSeq s (markCell (2 * p.slot))) 3 ++
      natLe (counterSeq s (markCell (2 * p.slot + 1))) 3

/-- The next write a key change needs: VALUE 0 to a mark counter that is unreadable, else the record
(R435). -/
def keyNextWrite (p : KeyPend) (s : State) : State :=
  if counterUnreadable s (markCell (2 * p.slot)) then
    nvmWrite (markWrite s (2 * p.slot) 0 (.markZero p.slot (2 * p.slot))) s
  else if counterUnreadable s (markCell (2 * p.slot + 1)) then
    nvmWrite (markWrite s (2 * p.slot + 1) 0 (.markZero p.slot (2 * p.slot + 1))) s
  else nvmWrite (recWrite s (recKey p.slot) (keyPayload s p) 2 (.key p.slot)) s

/-- Starts a key change of a slot. -/
def startKey (p : KeyPend) (s : State) : State :=
  keyNextWrite p (setFld { s with keyPend := s.keyPend ++ [p] } (Reg.CMD_KEY_STAT_BUSY p.slot) 1)

/-- The key change of a slot that is waiting for its writes. -/
def keyPending (s : State) (k : Nat) : Option KeyPend := s.keyPend.find? fun p => decide (p.slot = k)

def dropKeyPend (k : Nat) (s : State) : State :=
  { s with keyPend := s.keyPend.filter fun p => decide (p.slot ≠ k) }

/-- The key record is written: the key, PERMIT, counter and mark change together and the command
completes with the check value (R435). -/
def keyDone (k : Nat) (s : State) : State :=
  match keyPending s k with
  | none => s
  | some p =>
    let s := { dropKeyPend k s with keys := tblSet [] s.keys k (p.key.getD []) }
    let s := setFld (setFld (setFld s (Reg.CMD_KEY_STAT_SET k) (b2n p.key.isSome))
      (Reg.CMD_KEY_STAT_PERMIT k) (if p.key.isSome then p.permit else 0)) (Reg.CMD_KEY_STAT_BUSY k) 0
    let s := setFld (setFld s (Reg.CMD_KEY_CTR_LAST k) 0) (Reg.CMD_KEY_MARK_MARK k) 0
    complete p.job stOK 0 (match p.key with
      | some key => keyCheck key
      | none => 0) s

/-- The write failed: the old record stays in force (R435). -/
def keyFailed (k : Nat) (s : State) : State :=
  match keyPending s k with
  | none => s
  | some p => complete p.job stStoreFail 0 0 (setFld (dropKeyPend k s) (Reg.CMD_KEY_STAT_BUSY k) 0)

/-! ### KEY_LOAD -/

def klTarget (d : Bytes) : Nat := dByte d 4
def klPlain (d : Bytes) : Bool := bitOf (dByte d 5) 0
def klClear (d : Bytes) : Bool := bitOf (dByte d 5) 1
def klPermit (d : Bytes) : Nat := leAt d 6 2
def klSrc (d : Bytes) : Nat := leAt d 8 8
def klDigest (d : Bytes) : Bytes := sliceB d 16 16

/-- Reserved bits and bytes of the body of KEY_LOAD (Table 13-8). -/
def klBodyOk (d : Bytes) : Bool := bodyZero d [(4, 31)] && decide (dByte d 5 / 4 = 0)

/-- A provisioning descriptor (R433). -/
def isProvisioning (s : State) (d : Bytes) : Bool :=
  klPlain d && decide (dSlot d = klTarget d) && decide (klTarget d < 4) && !slotSet s (klTarget d)

/-- The blob at SRC matches DIGEST and is not poisoned. -/
def blobOk (d blob : Bytes) (poisoned : Bool) : Bool :=
  !poisoned && decide ((sha256 blob).take 16 = klDigest d)

/-- The range of a blob is a multiple of 8 within an HDM partition. -/
def blobRange (s : State) (d : Bytes) (n : Nat) : Bool := decide (klSrc d % 8 = 0) && inHdm s (klSrc d) n

/-- A provisioning descriptor's checks in the order of R433, and its effect. -/
def keyProvision (o : Origin) (d : Bytes) (s : State) : State :=
  let j := { jobOf o d with authed := false }
  let k := klTarget d
  let r := match o with
    | .ring r _ _ => r
    | _ => 0xFF
  if !flagsOk d || !klBodyOk d || klClear d || !subMask (klPermit d) (ceilingOf k) || !blobRange s d 32 then
    complete j stBadBody 0 0 s
  else if !flag s Reg.GEN_STATE_PROV_EN then complete j stProvOff 0 0 s
  else
    let m := memRead grpHost (klSrc d) 32 s
    if !blobOk d m.2.1 m.2.2 then complete j stKeyBlob 0 0 m.1
    else if !macOk m.2.1 d then complete j stAuthMac 0 0 (authFail r d stAuthMac m.1)
    else if dCounter d = 0 ∨ !counterOk (fld s (Reg.CMD_KEY_CTR_LAST k)) (dCounter d) (dOp d) then
      complete j stAuthReplay 0 0 (authFail r d stAuthReplay m.1)
    else startKey ⟨k, jobOf o d, some m.2.1, klPermit d⟩ (acceptCounter d m.1)

/-- Every other KEY_LOAD, once authenticated in its signing slot (R433). -/
def keyLoadRun (j : Job) (d : Bytes) (s : State) : State :=
  let k := klTarget d
  if !klBodyOk d || decide (3 < k) || decide (j.slot ≠ k ∧ j.slot ≠ 1) || (klClear d && klPlain d) ||
      (klClear d && (decide (klSrc d ≠ 0) || !allZero (klDigest d))) ||
      !subMask (klPermit d) (ceilingOf k) || (klPlain d && decide (j.slot ≠ k)) ||
      (!klClear d && !blobRange s d (if klPlain d then 32 else 40)) then
    complete j stBadBody 0 0 s
  else if (klPlain d && slotSet s k) || (!klPlain d && !klClear d && !slotSet s k) then complete j stKeyBlob 0 0 s
  else if klClear d then startKey ⟨k, j, none, 0⟩ s
  else
    let m := memRead grpHost (klSrc d) 40 s
    match (if blobOk d m.2.1 m.2.2 then keyUnwrap (keyOf s k) m.2.1 else none) with
    | none => complete j stKeyBlob 0 0 m.1
    | some key => startKey ⟨k, j, some key, klPermit d⟩ m.1

/-- KEY_LOAD, but for provisioning descriptors. The body rules of R433 answer BAD_BODY themselves. -/
def cmdKeyLoad : Cmd where
  op := 0x82
  bodyOk _ := true
  ready s d := decide (3 < klTarget d) || !slotBusy s (klTarget d)
  run := keyLoadRun

/-- KEY_LOAD on a ring: step 1 of R426 first, then provisioning or authentication. A provisioning
descriptor waits while its slot is busy (R429). -/
def ringKeyLoad (r : Nat) (s : State) : State :=
  match (ring s r).taken with
  | [] => s
  | d :: _ =>
    if decide (dOp d = 0x82) && dAuth d && isProvisioning s d then
      if !frontFree s r d || slotBusy s (klTarget d) then s else keyProvision (frontOrigin s r) d (popTaken r s)
    else runRing cmdKeyLoad r s

/-- KEY_ROTATE (R434). -/
def keyRotateRun (j : Job) (d : Bytes) (s : State) : State :=
  let k := dByte d 4
  if j.slot ≠ k then complete j stBadBody 0 0 s else
  let key := hmac (keyOf s k) ([0x56#8, 0x5A#8, 0x4B#8, 0x52#8] ++ sliceB d 4 1 ++ sliceB d 8 32)
  startKey ⟨k, j, some key, fld s (Reg.CMD_KEY_STAT_PERMIT k)⟩ s

/-- KEY_ROTATE. A broadcast one, accepted earlier, waits for its slot as well (R429). -/
def cmdKeyRotate : Cmd where
  op := 0x83
  bodyOk d := bodyZero d [(4, 4), (8, 39)]
  ready s d := !slotBusy s (dSlot d)
  run := keyRotateRun

/-! ### Keys at a start -/

/-- Value of a mark counter, which reads 0 when its newest sequence is not later than the one the
key record stores (R435). -/
def markValue (s : State) (j recorded : Nat) : Nat :=
  if later24 (counterSeq s (markCell j)) recorded then counterValue s (markCell j) else 0

/-- The persisted mark of a set slot (R431). -/
def markOf (s : State) (k : Nat) (payload : Bytes) : Nat :=
  if counterUnreadable s (markCell (2 * k)) || counterUnreadable s (markCell (2 * k + 1)) then 2 ^ 64 - 256
  else 256 * (markValue s (2 * k) (leAt payload 34 3) * 2 ^ 40 + markValue s (2 * k + 1) (leAt payload 37 3))

/-- Loads a slot from its record in force at a cold start. -/
def loadKey (k : Nat) (s : State) : State :=
  let s := recTouch (recKey k) s
  let s := nvmTouch 3 (markCell (2 * k) 0) 256 s
  match recRead s (recKey k) with
  | some p =>
    if p.length = 40 then
      let m := markOf s k p
      let s := { s with keys := tblSet [] s.keys k (p.take 32) }
      let s := setFld (setFld s (Reg.CMD_KEY_STAT_SET k) 1) (Reg.CMD_KEY_STAT_PERMIT k) (leAt p 32 2)
      setFld (setFld s (Reg.CMD_KEY_CTR_LAST k) m) (Reg.CMD_KEY_MARK_MARK k) m
    else { s with keys := tblSet [] s.keys k [] }
  | none => { s with keys := tblSet [] s.keys k [] }

def loadKeys (s : State) : State := forAll [0, 1, 2, 3] loadKey s

end Sys2Proof.Machine
end

