-- ==== Sys2Proof/Machine/Nvm.lean ====
section
/-! DEFINITION. The host's commands on the non-volatile store (R493, R508 to R514), the patrol
(R496), the patch store (R425, R514), and what a start finds: torn pages (R506), protection, rail,
pin and activation records. The end of a write stands in Machine/NvmDone.lean. -/

namespace Sys2Proof.Machine

/-! ### Areas (Table 16-1, Table 16-7) -/

/-- Whether the host may reach a page. -/
inductive Access where
  | allowed | refused | session
deriving DecidableEq, Repr

def pageRead (p : Nat) : Access :=
  if p < 32 then .allowed else if p < 34 then .refused else if p < 1024 then .session
  else if p < 6144 then .allowed else if p < 6148 then .refused else .allowed

def pageWrite (s : State) (p : Nat) : Access :=
  if p < 320 then .refused else if p < 1024 then .session
  else if p < 4096 then (if blockProtected s p then .refused else .allowed) else .refused

/-- A session is open, or none is needed because no password is set (R510). -/
def sessionOk (s : State) : Bool := flag s Reg.NVM_STAT_SESSION || !flag s Reg.NVM_STAT_PW_SET

/-- Status with which an access is refused, by Table 16-8. -/
def accessStatus (s : State) (a : Access) : Option Nat :=
  match a with
  | .allowed => none
  | .refused => some 0x82
  | .session => if sessionOk s then none else some 0x83

/-- A page is being written. -/
def pageBusy (s : State) (p : Nat) : Bool :=
  (match s.nvmRun with
   | some w => decide (w.page = p)
   | none => false) ||
  (match s.lensRun with
   | some w => decide (w.page = p)
   | none => false)

/-- Completes an NVM command: NVM_DONE for reads and writes, NVM_PROTECT for statuses 0x82 to 0x85
(Table 16-9). -/
def nvmComplete (j : Job) (st value page : Nat) (s : State) : State :=
  let cap : List Cap := [(8, j.opcode), (8, st), (16, page)]
  let s := if j.opcode = 0x0B ∨ j.opcode = 0x0C then raise evNvmDone cap s else s
  let s := if 0x82 ≤ st ∧ st ≤ 0x85 then raise evNvmProtect cap s else s
  complete j st 0 value s

/-! ### NVM_READ (R508) -/

def nrOff (d : Bytes) : Nat := leAt d 8 4
def nrLen (d : Bytes) : Nat := leAt d 12 4
def nrDst (d : Bytes) : Nat := leAt d 16 8

/-- Pages of the range of a command. -/
def pagesOf (off n : Nat) : List Nat :=
  if n = 0 then [] else (List.range ((off + n - 1) / 256 - off / 256 + 1)).map fun i => off / 256 + i

def nvmReadRun (j : Job) (d : Bytes) (s : State) : State :=
  let o := nrOff d
  let n := nrLen d
  let p := o / 256
  if n = 0 ∨ 65536 < n ∨ 2097152 < o + n ∨ !inParts s (grantBit grpMgmt) (nrDst d) n then nvmComplete j 0x80 0 p s
  else match (pagesOf o n).findSome? fun p => accessStatus s (pageRead p) with
    | some st => nvmComplete j st 0 p s
    | none =>
      if (pagesOf o n).any (pageBusy s) then nvmComplete j 0x81 0 p s
      else { s with nvmReads := s.nvmReads ++ [(j, d)] }

def cmdNvmRead : Cmd where
  op := 0x0B
  bodyOk d := bodyZero d [(8, 23)]
  ready := always
  run := nvmReadRun

/-- Copies array bytes to device memory line by line; a line that holds a lost byte is written with
a poison mark. `k` bounds the lines. -/
def nvmCopy : Nat → Nat → Nat → Nat → State → State
  | 0, _, _, _, s => s
  | k + 1, off, dst, n, s =>
    if n = 0 then s else
    let m := min n (64 - dst % 64)
    nvmCopy k (off + m) (dst + m) (n - m) (clientWrite grpMgmt dst (nvmBytes s off m) (nvmAnyLost s off m) s)

/-- NVM_READ_COPY_DONE: the oldest copy finishes and its command completes (R508). -/
def nvmReadCopyDone (s : State) : State :=
  match s.nvmReads with
  | [] => s
  | (j, d) :: t =>
    let n := nrLen d
    let s := nvmTouch 1 (nrOff d) n { s with nvmReads := t }
    let lost := nvmAnyLost s (nrOff d) n
    let s := nvmCopy (n + 1) (nrOff d) (nrDst d) n s
    nvmComplete j (if lost then 0x86 else 0x00) n (nrOff d / 256) s

/-! ### NVM_WRITE (R509) -/

/-- The array as it will read once the running main-block write has ended. -/
def nvmAhead (s : State) : State :=
  match s.nvmRun with
  | some w => nvmProgram (256 * w.page + w.off) w.data s
  | none => s

/-- The range covers part of a group that reads uncorrectable. -/
def partLost (s : State) (o n : Nat) : Bool :=
  (decide (o % 8 ≠ 0) && nvmLost s (o / 8)) || (decide ((o + n) % 8 ≠ 0) && nvmLost s ((o + n) / 8))

/-- A group that a write covers in part is read for its merge (R502). The merge waits for a write of its page that is
running, so a group which that write programs is not read as it was before (R503, log 47). -/
def mergeRead (o : Nat) (s : State) : State :=
  if o % 8 = 0 ∨ tblGet 0 (nvmAhead s).nvmBad (o / 8) = 0 then s else nvmTouch 11 (o / 8 * 8) 8 s

def nvmWriteRun (j : Job) (d : Bytes) (s : State) : State :=
  let o := nrOff d
  let n := nrLen d
  let p := o / 256
  if n = 0 ∨ 256 < n ∨ 2097152 < o + n ∨ 256 < o % 256 + n then nvmComplete j 0x80 0 p s
  else match accessStatus s (pageWrite s p) with
    | some st => nvmComplete j st 0 p s
    | none =>
      let s := mergeRead o s
      let s := if o % 8 ≠ 0 ∧ (o + n) / 8 = o / 8 then s else mergeRead (o + n) s
      if partLost (nvmAhead s) o n then nvmComplete j 0x86 0 p s
      else
        let m := memRead grpMgmt (nrDst d) n s
        nvmWrite ⟨p, o % 256, m.2.1, 5, .host j⟩ m.1

def cmdNvmWrite : Cmd where
  op := 0x0C
  bodyOk d := bodyZero d [(8, 23)]
  ready s _ := decide (nvmHostCount s < 16)
  run := nvmWriteRun

/-! ### Sessions and protection (R510 to R513) -/

/-- Digest of the password in force. -/
def passwordDigest (s : State) : Bytes := sliceB ((recRead s recProtection).getD []) 8 32

def nvmUnlockRun (j : Job) (d : Bytes) (s : State) : State :=
  if dByte d 4 = 1 then nvmComplete j 0 0 0 (endSession s)
  else if 1 < dByte d 4 then nvmComplete j 0x80 0 0 s
  else if flag s Reg.NVM_STAT_LOCKOUT then nvmComplete j 0x85 0 0 s
  else
  let s := if flag s Reg.NVM_STAT_PW_SET then recTouch recProtection s else s
  if !flag s Reg.NVM_STAT_PW_SET || decide (sha256 (sliceB d 8 16) = passwordDigest s) then
    nvmComplete j 0 0 0 (setFld (setFld s Reg.NVM_STAT_SESSION 1) Reg.NVM_UNLOCK_STAT_FAILS 0)
  else
    let f := fld s Reg.NVM_UNLOCK_STAT_FAILS + 1
    let s := setFld s Reg.NVM_UNLOCK_STAT_FAILS f
    nvmComplete j 0x84 0 0 (if 8 ≤ f then setFld s Reg.NVM_STAT_LOCKOUT 1 else s)

/-- NVM_UNLOCK. The password's digest is read once no write of the protection record runs (R503). -/
def cmdNvmUnlock : Cmd where
  op := 0x12
  bodyOk d := if dByte d 4 = 0 then bodyZero d [(4, 4), (8, 23)] else bodyZero d [(4, 4)]
  ready s d := decide (dByte d 4 ≠ 0) || !flag s Reg.NVM_STAT_PW_SET || !(pageBusy s 32 || pageBusy s 33)
  run := nvmUnlockRun

/-- A write for which `p` holds is running or queued. -/
def nvmHas (s : State) (p : NvmWhy → Bool) : Bool :=
  (s.nvmQueue.any fun w => p w.why) ||
  match s.nvmRun with
  | some w => p w.why
  | none => false

def isProtection : NvmWhy → Bool
  | .protection _ _ => true
  | _ => false

/-- Writes a protection record with BP and a password digest (none for no password). -/
def protectWrite (bp : Nat) (digest : Option Bytes) (j : Job) (pw : Bool) (s : State) : State :=
  let s := recTouch recProtection s
  let payload := [BitVec.ofNat 8 bp, BitVec.ofNat 8 (b2n digest.isSome)] ++ List.replicate 6 0#8 ++
    digest.getD (List.replicate 32 0#8)
  nvmWrite (recWrite s recProtection payload 3 (.protection j pw)) s

def pwDigest (s : State) : Option Bytes :=
  if flag s Reg.NVM_STAT_PW_SET then some (passwordDigest s) else none

def nvmProtectRun (j : Job) (d : Bytes) (s : State) : State :=
  protectWrite (dByte d 4) (pwDigest s) j false s

def cmdNvmProtect : Cmd where
  op := 0x84
  bodyOk d := bodyZero d [(4, 4)] && decide (dByte d 4 < 4)
  ready s _ := !nvmHas s isProtection
  run := nvmProtectRun

def nvmPasswordRun (j : Job) (d : Bytes) (s : State) : State :=
  if 1 < dByte d 4 ∨ (dByte d 4 = 0 ∧ allZero (sliceB d 8 16)) then nvmComplete j 0x80 0 0 s
  else if dByte d 4 = 0 then
    protectWrite (fld s Reg.NVM_STAT_BP) (some (sha256 (sliceB d 8 16))) j true s
  else protectWrite (fld s Reg.NVM_STAT_BP) none j false s

def cmdNvmPassword : Cmd where
  op := 0x85
  bodyOk d := if dByte d 4 = 0 then bodyZero d [(4, 4), (8, 23)] else bodyZero d [(4, 4)]
  ready s _ := !nvmHas s isProtection
  run := nvmPasswordRun

/-- NVM_STAT takes BP and PW_SET from the protection record in force. -/
def loadProtection (s : State) : State :=
  let s := recTouch recProtection s
  let p := (recRead s recProtection).getD []
  setFld (setFld s Reg.NVM_STAT_BP (leAt p 0 1 % 4)) Reg.NVM_STAT_PW_SET (leAt p 1 1 % 2)

/-! ### Patrol (R496) -/

/-- NVM_PATROL_READ: the next group is read; `kind` is what the hardware finds there (0 clean, 1 one
bit wrong, 2 uncorrectable). In a page being written the patrol waits for the write to finish (R503). -/
def patrolRead (kind : Nat) (s : State) : State :=
  if pageBusy s (s.patrolGrp / 32) then s else
  let g := s.patrolGrp
  let h := max (tblGet 0 s.nvmBad g) (min kind 2)
  let s := { s with nvmBad := tblSet 0 s.nvmBad g h, patrolGrp := (g + 1) % 262144 }
  setFld (nvmGroupRead 2 g s) Reg.NVM_PATROL_PAGE ((g + 1) % 262144 / 32)

/-- NVM_CTRL.CLR. -/
def nvmClr (s : State) : State := setFld (setReg s Reg.NVM_CNT 0) Reg.NVM_PATROL_REWRITES 0

/-! ### The patch store (R425, R514) -/

/-- Pages a patch takes. -/
def Patch.pages (p : Patch) : Nat := ceilDiv p.len 256

/-- A page of the patch store is taken. -/
def patchTaken (l : List Patch) (pg : Nat) : Bool :=
  l.any fun p => decide (p.page ≤ pg ∧ pg < p.page + p.pages)

/-- Lowest run of `n` free pages of the patch store (pages 64 to 319). -/
def patchPlace (l : List Patch) (n : Nat) : Option Nat :=
  ((List.range 256).map (· + 64)).find? fun pg =>
    decide (pg + n ≤ 320) && (List.range n).all fun i => !patchTaken l (pg + i)

/-- ROM revision of the management core (Table 16-2). -/
def romRev (s : State) : Nat := leNat (nvmBytes s 0x1A 2)

/-- Queues the pages of a patch image; `k` counts the pages left. -/
def patchWrites (j : Job) (p : Patch) : Nat → Nat → Bytes → State → State
  | 0, _, _, s => s
  | k + 1, pg, bs, s =>
    patchWrites j p k (pg + 1) (bs.drop 256) (nvmWrite ⟨pg, 0, bs.take 256, 3, .patch j p k⟩ s)

def fwPatchRun (j : Job) (d : Bytes) (s : State) : State :=
  let src := leAt d 8 8
  let n := leAt d 16 4
  if isLit s then complete j stDeviceState 0 0 s
  else if dByte d 4 = 1 then complete j stOK 0 j.counter { s with patches := [] }
  else if dByte d 4 ≠ 0 ∨ n = 0 ∨ 65536 < n ∨ src % 64 ≠ 0 ∨ !inHdm s src n then complete j stBadBody 0 0 s
  else
    let m := memRead grpMgmt src n s
    let s := m.1
    if m.2.2 || decide ((sha256 m.2.1).take 16 ≠ sliceB d 20 16) || decide (Config.patchRomRev m.2.1 ≠ romRev s) then
      complete j stFwImage 0 0 s
    else match patchPlace s.patches (ceilDiv n 256) with
      | none => complete j stFwImage 0 0 s
      | some pg => patchWrites j ⟨pg, n, sliceB d 20 16⟩ (ceilDiv n 256) pg m.2.1 s

def isPatch : NvmWhy → Bool
  | .patch _ _ _ => true
  | _ => false

def cmdFwPatch : Cmd where
  op := 0x89
  bodyOk d := bodyZero d [(4, 4), (8, 35)]
  ready s _ := !nvmHas s isPatch
  run := fwPatchRun

/-- The core boots with the valid patches (Table 17-5, step 2). -/
def bootPatches (s : State) : State :=
  let s := forAll (s.patches.map Patch.page) (fun pg s =>
    match s.patches.find? fun p => decide (p.page = pg) with
    | some p => nvmTouch 9 (256 * pg) p.len s
    | none => s) s
  let good := s.patches.filter fun p =>
    let bs := nvmBytes s (256 * p.page) p.len
    !nvmAnyLost s (256 * p.page) p.len && decide ((sha256 bs).take 16 = p.digest) &&
      decide (Config.patchRomRev bs = romRev s)
  setFld (setFld s Reg.STR_BOOT_PATCHES good.length) Reg.STR_BOOT_SKIPPED (s.patches.length - good.length)

/-! ### What a start finds (R506) -/

/-- Latest journal cell of a block among those that read correctable: its raw bits. -/
def journalLatest (s : State) (lens : Bool) : Nat → Option Nat
  | 0 => none
  | n + 1 =>
    let o := journalAt lens n
    if nvmLost s (o / 8) then journalLatest s lens n else
    match journalLatest s lens n with
    | none => some (cellRaw s o)
    | some v => some (if later24 (cellRaw s o / 2 ^ 32) (v / 2 ^ 32) then cellRaw s o else v)

/-- Looks for a torn page of a block among its cells as they stand, reports it, and then counts what the read of the cells
corrected (R495, R506): the rewrite of a cell is a write of its own, later than what is found. -/
def tornScan (lens : Bool) (s : State) : State :=
  let touch := nvmTouch 6 (journalAt lens 0) (if lens then 2048 else 16384)
  match journalLatest s lens (if lens then 256 else 2048) with
  | none => touch s
  | some v => touch <|
    let q := bitsOf v 32 24
    let s := setFld s (if lens then Reg.NVM_WSEQ_LENS else Reg.NVM_WSEQ_MAIN) q
    if bitsOf v 56 8 = 0x0F then
      let pg := bitsOf v 0 13
      let a := bitsOf v 16 5
      let b := bitsOf v 21 5
      let n := fld s Reg.NVM_TORN_COUNT
      let s := setReg s Reg.NVM_TORN (BitVec.ofNat 64 (pg + b2n lens * 2 ^ 13 + a * 2 ^ 16 + b * 2 ^ 24 + 2 ^ 31 + (n + 1) * 2 ^ 32))
      raiseErr unitNvm 0 evNvmTorn 0 [(8, b2n lens), (16, pg), (8, a), (8, b), (32, q)] s
    else s

/-- The torn page of a block, if its latest journal cell reads OPEN: page, first and last group. -/
def tornOf (s : State) (lens : Bool) : Option (Nat × Nat × Nat) :=
  match journalLatest s lens (if lens then 256 else 2048) with
  | some v => if bitsOf v 56 8 = 0x0F then some (bitsOf v 0 13, bitsOf v 16 5, bitsOf v 21 5) else none
  | none => none

/-- The controller's scan at a cold start or warm reset (R506). -/
def tornScans (s : State) : State :=
  let s := { s with tornPage := (tornOf s false).map Prod.fst }
  tornScan true (tornScan false (setFld s Reg.NVM_TORN_COUNT 0))

/-- STR_ACTREC from the activation record in force (R523). -/
def loadActRecord (s : State) : State :=
  let s := recTouch recAct s
  match recRead s recAct with
  | some p =>
    if leAt p 0 1 < 2 ∧ p.length = 16 then
      let s := setReg s Reg.STR_ACTREC (BitVec.ofNat 64
        (leAt p 0 1 + ceilDiv (leAt p 8 4) 256 * 2 ^ 16 + leAt p 4 4 * 2 ^ 32))
      setReg s Reg.STR_ACTREC_CRC (BitVec.ofNat 64 (leAt p 12 4))
    else setReg (setReg s Reg.STR_ACTREC 3) Reg.STR_ACTREC_CRC 0
  | none => setReg (setReg s Reg.STR_ACTREC 3) Reg.STR_ACTREC_CRC 0

/-- CHN_PIN from the pin record in force. -/
def loadPin (s : State) : State :=
  let s := recTouch recPin s
  setFld s Reg.CHN_PIN_PIN (leAt ((recRead s recPin).getD []) 0 1)

/-- GEN_IDENT.GRADE and STEPPING from the identity page (R494). -/
def loadIdentity (s : State) : State :=
  let s := nvmTouch 10 0 256 s
  setFld (setFld s Reg.GEN_IDENT_GRADE (leNat (nvmBytes s 0x18 1))) Reg.GEN_IDENT_STEPPING (leNat (nvmBytes s 0x19 1))

end Sys2Proof.Machine
end

