-- ==== Sys2Proof/Machine/Image.lean ====
section
/-! DEFINITION. Reading a structure image: its sections (R517) and the fields of Table 17-2 that
rules consult beyond the registers they feed. Validation stands in Machine/Structure.lean. -/

namespace Sys2Proof.Machine

/-- Section `id` of an image: the offset of its header and its payload. `k` bounds the sections. -/
def findSec (img : Bytes) (id : Nat) : Nat → Nat → Option (Nat × Bytes)
  | 0, _ => none
  | k + 1, o =>
    if img.length < o + 8 then none
    else if leAt img o 2 = id then some (o, sliceB img (o + 8) (leAt img (o + 4) 4))
    else findSec img id k (o + 8 + leAt img (o + 4) 4)

/-- Payload of a section, empty where the image has none. -/
def secOf (img : Bytes) (id : Nat) : Bytes := ((findSec img id 20 64).map Prod.snd).getD []

/-- The image has the section. -/
def hasSec (img : Bytes) (id : Nat) : Bool := (findSec img id 20 64).isSome

/-- Payload of a section of the image in force. -/
def sec (s : State) (id : Nat) : Bytes := secOf (s.img.getD []) id

/-- The image in force has a LENS section. -/
def hasLens (s : State) : Bool := hasSec (s.img.getD []) 0x0061

/-- Field of a section of the image in force. -/
def secNat (s : State) (id o n : Nat) : Nat := leAt (sec s id) o n

/-! ### GEOMETRY and ZONES -/

def geoPX (s : State) : Nat := secNat s 0x10 0 4
def geoPY (s : State) : Nat := secNat s 0x10 4 4
def zoneComH (s : State) : Nat := secNat s 0x11 0 2
def zoneSegW (s : State) : Nat := secNat s 0x11 2 2

/-! ### LENS (Table 17-2, R284 to R288) -/

/-- THR[b], b = 1 to 7. -/
def lensThr (s : State) (b : Nat) : Int := toSigned 16 (secNat s 0x61 (2 * (b - 1)) 2)
def lensHyst (s : State) : Int := secNat s 0x61 14 2
/-- VLCD[b] in 1/16 V. -/
def lensVlcd (s : State) (b : Nat) : Nat := secNat s 0x61 (16 + b) 1
def lensRecoverBand (s : State) : Nat := secNat s 0x61 24 1
/-- Group and sensor `i` named for the lens temperature. -/
def lensSrc (s : State) : List (Nat × Nat) :=
  (List.range (secNat s 0x61 25 1)).map fun i => (secNat s 0x61 (32 + 2 * i) 1, secNat s 0x61 (33 + 2 * i) 1)
/-- Phase `k` of entry `e` of band `b`. -/
def lensPhaseWord (s : State) (b e k : Nat) : Nat := secNat s 0x61 (48 + (b * 65 + e) * 32 + 2 * k) 2

end Sys2Proof.Machine
end

