-- ==== Sys2Proof/Machine/Rails.lean ====
section
/-! DEFINITION. The panel rails (R265 to R273), RAIL_LIMITS (R274, R275), the external regulators
(R276 to R279) and the loss of VIN (R280, R281). -/

namespace Sys2Proof.Machine

/-! ### Sequences -/

/-- Emitter-matrix rails in the order of power-up: VGL, VGH, VSRC (R267). -/
def upOrder : List Nat := [1, 0, 2]

/-- Next emitter rail in use that is still off. -/
def nextUp (s : State) : Option Nat := upOrder.find? fun i => railInUse s i && !railUp s i

/-- Every group in use is UP, or ALLOW_DEGRADED is set (R255). -/
def groupsReady (s : State) : Bool :=
  flag s Reg.WLN_CTRL_ALLOW_DEGRADED ||
    groups.all fun g => decide (fld s (Reg.WLN_GCFG_GEN g) = 0 ∨ fld s (Reg.WLN_GSTAT_STATE g) = 4)

/-- A PLAY waits and nothing keeps the head dark: every rail in use is power-good (R533). The lamplighter does not leave
READY_DARK in test mode, nor while a group is not UP (R255, R425). -/
def lightDue (s : State) : Bool :=
  s.wantLight && railsGood s && decide (lamp s = .readyDark) && !flag s Reg.GEN_STATE_TEST && groupsReady s

/-- LIGHTING, and from there SNUFFED where a path holds (Table 17-4). -/
def lightIfReady (s : State) : State :=
  if lightDue s then
    let s := setLamp { frameCounts s with wantLight := false, rowZero := false } .lighting
    if lowPath s = 0 then fixSteer s else setLamp s .snuffed
  else s

/-- The power-up goes on with the next rail, or ends (R267, R270). Orderly dark that found it running powers the set
down again once it has ended (R268). -/
def upNext (s : State) : State :=
  match nextUp s with
  | some i => setRail s i .delay
  | none =>
    let s := if fld s Reg.RAIL_STAT_SEQ = 1 then railSeqDone s else s
    if s.orderly.isSome && decide (lamp s = .housekeeping) then railsDown false s else lightIfReady s

/-- Starts powering up: VLCD first when `lcd` asks for it and it is in use and down, else the emitter
set (R268). With nothing to do no sequence starts. -/
def railsUp (lcd emit_ : Bool) (s : State) : State :=
  let start := { setFld s Reg.RAIL_STAT_SEQ 1 with railSeqAt := s.ns, railThen := emit_ }
  if lcd && railInUse s 3 && !railUp s 3 then setRail start 3 .delay
  else if emit_ && (nextUp s).isSome then upNext start
  else lightIfReady s

/-- The VLCD entry of the lens band in force, or of RECOVER_BAND when none is in force (R266, R268). -/
def lensEntry (s : State) : Nat := lensVlcd s (if s.lens.banded then fld s Reg.LENS_STAT_BAND else lensRecoverBand s)

/-- VLCD takes an entry: TARGET of the rail reads it in 10 mV. -/
def setVlcd (e : Nat) (s : State) : State :=
  setFld { s with lens := { s.lens with vlcd := e } } (Reg.RAIL_CFG_TARGET 3) (roundDiv (e * 100) 16)

/-- RAIL_CTRL.UP (R268, R270, Table 17-4). -/
def railUpCmd (s : State) : State :=
  if isLit s || decide (fld s Reg.RAIL_STAT_SEQ ≠ 0) || decide (lamp s = .off) then s else
  let s := if lamp s = .hostWait ∧ fld s Reg.STR_STAT_WHY = 2 then
      setFld (setFld (setLamp s .housekeeping) Reg.STR_STAT_STEP 9) Reg.STR_STAT_WHY 0
    else s
  let s := if hasLens s && !railUp s 3 then setVlcd (lensEntry s) s else s
  let s := railsUp true true { s with railHeld := false }
  if fld s Reg.RAIL_STAT_SEQ = 1 then setFld s Reg.RAIL_CTRL_UP 1 else s

/-- RAIL_CTRL.DOWN (R268, R270). -/
def railDownCmd (s : State) : State :=
  if isLit s || decide (fld s Reg.RAIL_STAT_SEQ ≠ 0) || !(downOrder.any (railUp s)) then s
  else setFld (railsDown false s) Reg.RAIL_CTRL_DOWN 1

/-- The rails before `i` in the order of power-down are off. -/
def downTurn (s : State) (i : Nat) : Bool :=
  (downOrder.takeWhile (· ≠ i)).all fun j => !railUp s j

/-- RAIL_DELAY_EXPIRE: the ramp, up or down, starts (R267). -/
def railDelayExpire (i : Nat) (s : State) : State :=
  match railPhase s i with
  | .delay => setRail s i .ramping
  | .downDelay => if downTurn s i then setRail s i .down else s
  | _ => s

/-- RAIL_POWER_GOOD: the rail is power-good; the sequence goes on (R267, R268). -/
def railPowerGood (i : Nat) (v : Int) (s : State) : State :=
  if railPhase s i = .ramping then
    let s := setSFld (setRail s i .pgood) (Reg.RAIL_MEAS_V i) v
    if i = 3 ∧ s.railThen = false then lightIfReady (railSeqDone s) else upNext s
  else s

/-- A rail is on its way down. -/
def goingDown (s : State) (i : Nat) : Bool := decide (railPhase s i = .down ∨ railPhase s i = .downDelay)

/-- Step `n` of a start runs: of a cold start, a warm reset or an activation past its step 4 (R527, Table 17-5). -/
def startRuns (n : Nat) (s : State) : Bool :=
  decide (lamp s = .housekeeping) && s.orderly.isNone && decide (fld s Reg.STR_STAT_STEP = n) &&
    (match s.act with
     | some a => a.taken
     | none => true)

/-- The power-up that the step running asks for: VLCD at step 8, the emitter-matrix set at step 9 (R268). It waits for a sequence
that runs (R270), and after a fault for RAIL_CTRL.UP (R273). -/
def startRails (s : State) : State :=
  if fld s Reg.RAIL_STAT_SEQ ≠ 0 || s.railHeld then s
  else if startRuns 8 s then railsUp true false s
  else if startRuns 9 s then railsUp false true s
  else s

/-- RAIL_RAMP_DOWN_DONE: the rail is below 0.5 V and discharged; the last one ends the sequence (R267, R270). A PLAY
accepted meanwhile then powers the emitter set up, and a step of a start what it asks for (R270, R533). -/
def railRampDownDone (i : Nat) (s : State) : State :=
  if railPhase s i = .down then
    let s := setRail s i .off
    if [0, 1, 2, 3].any (goingDown s) then s
    else
      let s := if fld s Reg.RAIL_STAT_SEQ = 2 then railSeqDone s else s
      if s.wantLight then railsUp false true s else startRails s
  else s

/-! ### Faults (R271 to R273) -/

def evRail : Nat := 241

/-- The ember bit of a rail and the count (R272). -/
def railNote (i : Nat) (s : State) : State :=
  incSat (setFld s ⟨Reg.RAIL_FAULT_STAT, i, i⟩ 1) Reg.RAIL_FAULT_STAT_COUNT 1

/-- STR_START_TIME: from step 2 of a start to READY_DARK or HOST_WAIT. -/
def startTimed (s : State) : State :=
  if s.trigger = 3 then s else setSat s Reg.STR_START_TIME_MS ((s.ns - s.startAt) / 1000000)

/-- What a rail fault changes besides the rails: a start at step 9 waits for the host, a PLAY's
power-up pauses the reel (Table 17-5, R533). -/
def railFaultLamp (s : State) : State :=
  if startRuns 9 s then
    startTimed (setFld (setFld (setLamp s .hostWait) Reg.STR_STAT_WHY 2) Reg.STR_STAT_FAIL_STEP 9)
  else if s.wantLight then setFld { s with wantLight := false } Reg.REEL_STATE_STATE 2
  else s

/-- A rail fault: every rail down, RAIL_FAULT, the lens waveform, the RAIL path (R272), the occurrences in the order of their
sources (R544). A second one while the power-down after the first runs is only recorded and counted. -/
def railFault (i kind : Nat) (v : Int) (s : State) : State :=
  let s := railNote i s
  if s.railFaulted && decide (fld s Reg.RAIL_STAT_SEQ = 2) then s else
  let s := railsDown true { s with railFaulted := true }
  let s := raiseErr unitRail 0 evRailFault kind [(8, i), (8, kind), (16, v)] s
  railFaultLamp (assertPath 3 (lensAbort s))

/-! ### RAIL_LIMITS (R274, R275) -/

/-- Table 9-1: range in 10 mV and rated current in mA of a rail. -/
def railRange (i : Nat) : Int × Int × Nat :=
  match i with
  | 0 => (800, 2800, 40)
  | 1 => (-1800, -400, 30)
  | 2 => (300, 1600, 60)
  | _ => (0, 1400, 10)

/-- Writes RAIL_ABS of a rail. -/
def setAbs (i : Nat) (vmin vmax : Int) (imax : Nat) (s : State) : State :=
  setReg s (Reg.RAIL_ABS i) (BitVec.ofNat 64 (ofSigned 16 vmin + ofSigned 16 vmax * 2 ^ 16 + imax % 2 ^ 16 * 2 ^ 32))

/-- Entry `e` (16 bytes) of the rail record: 0 to 3 ABS, 4 to 11 REG (Table 16-4). -/
def railEntry (s : State) (e : Nat) : Bytes := sliceB ((recRead s recRail).getD []) (16 * e) 16

/-- RAIL_ABS from the rail record, or the ranges of Table 9-1 (R274). -/
def loadRailAbs (s : State) : State :=
  let s := recTouch recRail s
  forAll [0, 1, 2, 3] (fun i s =>
    let b := railEntry s i
    if allZero b then setAbs i (railRange i).1 (railRange i).2.1 (railRange i).2.2 s
    else setAbs i (toSigned 16 (leAt b 4 2)) (toSigned 16 (leAt b 6 2)) (leAt b 8 2) s) s

/-- The image in force keeps a rail within limits (R275): target and ILIM, every VLCD entry. -/
def imageWithin (s : State) (i : Nat) (vmin vmax : Int) (imax : Nat) : Bool :=
  if !railInUse s i then true else
  decide (fld s (Reg.RAIL_CFG_ILIM i) ≤ imax) &&
  (if i = 3 then (List.range 8).all fun b =>
      decide (vmin * 16 ≤ (lensVlcd s b : Int) * 100 ∧ (lensVlcd s b : Int) * 100 ≤ vmax * 16)
   else decide (vmin ≤ sfld s (Reg.RAIL_CFG_TARGET i) ∧ sfld s (Reg.RAIL_CFG_TARGET i) ≤ vmax))

/-- Table 9-4: accepted VOUT of an external rail, mV. -/
def voutOk (rx v : Nat) : Bool :=
  match rx with
  | 0 => decide (10 * v ≥ 7125 ∧ 10 * v ≤ 7875)
  | 1 => decide (1045 ≤ v ∧ v ≤ 1155) || decide (1140 ≤ v ∧ v ≤ 1260)
  | 2 => decide (855 ≤ v ∧ v ≤ 945)
  | 3 => decide (1710 ≤ v ∧ v ≤ 1890)
  | 4 => decide (1710 ≤ v ∧ v ≤ 1890) || decide (3135 ≤ v ∧ v ≤ 3465)
  | _ => false

/-- The values of a RAIL_LIMITS body lie in range (R275). -/
def railLimitsOk (s : State) (d : Bytes) : Bool :=
  let i := dByte d 5
  match dByte d 4 with
  | 0 =>
    let lo := toSigned 16 (leAt d 8 2)
    let hi := toSigned 16 (leAt d 10 2)
    let r := railRange i
    decide (i < 4) && decide (r.1 ≤ lo ∧ hi ≤ r.2.1 ∧ lo ≤ hi ∧ leAt d 12 2 ≤ r.2.2) && imageWithin s i lo hi (leAt d 12 2)
  | 1 => decide (i < 8) && decide (dByte d 9 < 128 ∧ dByte d 10 ≤ 7 ∧ dByte d 11 ≤ 50) &&
      voutOk (dByte d 8) (leAt d 12 2) && decide (1 ≤ dByte d 14 ∧ dByte d 14 ≤ 20)
  | 2 => decide (i < 8)
  | _ => false

/-- Payload of the rail record after a RAIL_LIMITS (R497). -/
def railPayload (s : State) (d : Bytes) : Bytes :=
  let old := sliceB ((recRead s recRail).getD []) 0 192
  let e := if dByte d 4 = 0 then dByte d 5 else 4 + dByte d 5
  spliceB old (16 * e) (if dByte d 4 = 2 then List.replicate 16 0#8 else sliceB d 4 16)

def railLimitsRun (j : Job) (d : Bytes) (s : State) : State :=
  if isLit s then complete j 0x71 0 0 s
  else if !railLimitsOk s d then complete j 0x70 0 0 s
  else
    let s := recTouch recRail s
    nvmWrite (recWrite s recRail (railPayload s d) 3 (.rail j)) s

def isRailWrite : NvmWhy → Bool
  | .rail _ => true
  | _ => false

def cmdRailLimits : Cmd where
  op := 0x81
  bodyOk d := match dByte d 4 with
    | 0 => bodyZero d [(4, 5), (8, 13)]
    | 1 => bodyZero d [(4, 5), (8, 14), (16, 17)]
    | 2 => bodyZero d [(4, 5)]
    | _ => true
  ready s _ := !nvmHas s isRailWrite
  run := railLimitsRun

/-! ### External regulators (R276 to R279) -/

/-- The head maker has a regulator table (R277). -/
def vrmTable (s : State) : Bool := (List.range 8).any fun i => !allZero (railEntry s (4 + i))

/-- The 16-byte entry of a regulator in the store: the head maker's table, else the factory's (R277). -/
def vrmStored (s : State) (r : Nat) : Bytes := if vrmTable s then railEntry s (4 + r) else nvmBytes s (256 + 16 * r) 16

/-- The table is read: the rail record, and without one in it the factory's (R495). -/
def vrmTouch (s : State) : State :=
  let s := recTouch recRail s
  if vrmTable s then s else nvmTouch 10 256 128 s

/-- The entry of a regulator as step 4 of the cold start took it. -/
def vrmEntry (s : State) (r : Nat) : Bytes := s.vrms.getD r []

/-- Fields of an entry, at descriptor byte 4 + offset (Table 9-3). -/
def vrmAddr (e : Bytes) : Nat := leAt e 5 1
def vrmOrder (e : Bytes) : Nat := leAt e 6 1
def vrmVout (e : Bytes) : Nat := leAt e 8 2
def vrmWin (e : Bytes) : Nat := leAt e 10 1
def vrmImax (e : Bytes) : Nat := leAt e 12 2

def vrmPresent (s : State) (r : Nat) : Bool := !allZero (vrmEntry s r)
def vrmState (s : State) (r : Nat) : Nat := fld s (Reg.RAIL_VRM_STAT_STATE r)
def setVrm (s : State) (r v : Nat) : State := setFld s (Reg.RAIL_VRM_STAT_STATE r) v

/-- Starts one regulator (R277, steps 2 to 4). -/
def vrmStart (r : Nat) (s : State) : State :=
  let e := vrmEntry s r
  let a := vrmAddr e
  let v := vrmVout e
  let s := emit (emit s (.pmbus a 0x03 0)) (.pmbus a 0x21 v)
  let s := emit (emit s (.pmbus a 0x40 (v * (100 + vrmWin e) / 100))) (.pmbus a 0x44 (v * (100 - vrmWin e) / 100))
  setVrm (emit (emit s (.pmbus a 0x46 (vrmImax e))) (.pmbus a 0x01 0x80)) r 2

/-- Regulators still to start, and the lowest ORDER among them. -/
def vrmOff (s : State) : List Nat := (List.range 8).filter fun r => vrmPresent s r && decide (vrmState s r = 1)

def vrmLowest (s : State) : Option Nat :=
  (vrmOff s).foldl (fun m r => match m with
    | some o => some (min o (vrmOrder (vrmEntry s r)))
    | none => some (vrmOrder (vrmEntry s r))) none

/-- Starts the regulators of the next ORDER when none ramps (R277). -/
def vrmNext (s : State) : State :=
  if (List.range 8).any fun r => decide (vrmState s r = 2) then s else
  match vrmLowest s with
  | none => s
  | some o => forAll ((vrmOff s).filter fun r => decide (vrmOrder (vrmEntry s r) = o)) vrmStart s

/-- Step 4 of a cold start begins: VRM_EN goes high, every regulator of the table is off, the first ORDER
starts (R573, R277). -/
def vrmBegin (s : State) : State :=
  let s := vrmTouch s
  let s := { s with vrmEn := true, vrms := (List.range 8).map (vrmStored s) }
  vrmNext (forAll (List.range 8) (fun r s => setVrm s r (b2n (vrmPresent s r))) s)

/-- Turns the regulators off in descending ORDER, and VRM_EN low (R279, R573). -/
def vrmAllOff (s : State) : State :=
  forAll [7, 6, 5, 4, 3, 2, 1, 0] (fun o s =>
    forAll ((List.range 8).filter fun r => vrmPresent s r && decide (vrmOrder (vrmEntry s r) = o)) (fun r s =>
      let s := emit s (.pmbus (vrmAddr (vrmEntry s r)) 0x01 0x00)
      if vrmState s r = 4 then s else setVrm s r 1) s) { s with vrmEn := false }

/-- A regulator fails: VRM_FAULT, the REGULATOR path, the panel rails, DARK_FAULT (R279), in DARK_FAULT already the path and the
rails all the same. Causes: 1 BUS, 2 MODE, 3 RAMP, 4 STATUS (log 11). -/
def vrmFail (r cause status : Nat) (s : State) : State :=
  let s := setFld (setVrm s r 4) ⟨Reg.RAIL_FAULT_STAT, 4, 4⟩ 1
  raiseFatal unitRail 0 evVrmFault cause [(8, r), (8, cause), (16, status)] 3 8 { s with vrmFailed := true }

def isRingWrite (w : NvmWhy) : Bool := decide (w = .faultRing)

/-- The regulators of a failure go off once its fault-ring entry has been written (R279, R549). -/
def vrmSettle (s : State) : State :=
  if s.vrmFailed && !nvmHas s isRingWrite then vrmAllOff { s with vrmFailed := false } else s

/-- Fault and warning bits of STATUS_WORD (PRESUMED from PMBus 1.3, log 11). VOUT, bit 15, is a fault of a regulator that is on:
the Z192 sets the fault limits of VOUT and no warning limit (R277). -/
def vrmFaultMask (on : Bool) : Nat := if on then 0x8038 else 0x0038
def vrmWarnMask : Nat := 0x6604

/-- A reading lies outside VOUT ± WIN (R277, R576). -/
def vrmOutside (s : State) (r v : Nat) : Bool :=
  let e := vrmEntry s r
  decide (100 * v < vrmVout e * (100 - vrmWin e) ∨ vrmVout e * (100 + vrmWin e) < 100 * v)

/-- VRM_POLL: one regulator is read (R277, R278). A ramping one within 3 % of VOUT is on; one that is on fails outside its
window. After VIN_WARN the rails may fall, and none fails (R576). -/
def vrmPoll (r : Nat) (x : VrmReading) (s : State) : State :=
  let on := decide (vrmState s r = 3)
  if vrmState s r = 0 ∨ vrmState s r = 4 ∨ lamp s = .off then s
  else if x.busFail then (if s.snuff.vinHigh then vrmFail r 1 x.status.toNat s else s)
  else if x.modeFail then (if s.snuff.vinHigh then vrmFail r 2 x.status.toNat s else s)
  else
    let s := setFld (setFld s (Reg.RAIL_VRM_STAT_STATUS r) x.status.toNat) (Reg.RAIL_VRM_STAT_VOUT r) x.vout.toNat
    let s := incSat s (Reg.RAIL_VRM_STAT_WARN r) (popcount (Nat.land x.status.toNat vrmWarnMask) 16)
    if !s.snuff.vinHigh then s
    else if Nat.land x.status.toNat (vrmFaultMask on) ≠ 0 ∨ (on && vrmOutside s r x.vout.toNat) then
      vrmFail r 4 x.status.toNat s
    else if vrmState s r = 2 then
      let v := vrmVout (vrmEntry s r)
      if 97 * v ≤ 100 * x.vout.toNat ∧ 100 * x.vout.toNat ≤ 103 * v then vrmNext (setVrm s r 3) else s
    else s

/-- SMBALERT_N has fallen: every regulator is read at once (R278). -/
def vrmPollAll (xs : List VrmReading) (s : State) : State := (xs.take 8).zipIdx.foldl (fun s x => vrmPoll x.2 x.1 s) s

end Sys2Proof.Machine
end

