-- ==== Sys2Proof/Machine/Lens.lean ====
section
/-! DEFINITION. The lens sheet driver (R282 to R300): targets, bands, updates with their journal
writes, faults, recovery and LENS_FORCE. -/

namespace Sys2Proof.Machine

/-! ### Levels and targets (R282, R290, R291) -/

/-- Sets TARGET of zones from `z` on; 0xF leaves a zone unchanged (R290). -/
def setTargets : Nat → List Nat → State → State
  | _, [], s => s
  | z, n :: t, s => setTargets (z + 1) t (if n = 0xF then s else setFld s (lensTarget z) n)

/-- A target change makes settled commons PENDING or SETTLED; others keep their state (R291). -/
def targetsChanged (s : State) : State :=
  forAll (List.range 16) (fun c s => if commonState s c ≤ 1 then settle c s else s) s

/-- Nibbles of bytes, low nibble first. -/
def nibbles (bs : Bytes) : List Nat := bs.flatMap fun b => [b.toNat % 16, b.toNat / 16]

/-- Packs levels into nibbles, low nibble first. -/
def packNibbles : List Nat → Bytes
  | a :: b :: t => BitVec.ofNat 8 (a + 16 * b) :: packNibbles t
  | [a] => [BitVec.ofNat 8 a]
  | [] => []

/-- What a LENS_SET or a LENS_TARGET cue does with its nibbles: status LENS_RANGE or OK. -/
def lensApply (first : Nat) (ns : List Nat) (s : State) : State := targetsChanged (setTargets first ns s)

def lensSetRun (j : Job) (d : Bytes) (s : State) : State :=
  let inl := bitOf (dByte d 4) 0
  let first := leAt d 6 2
  let n := leAt d 8 2
  let src := leAt d 16 8
  if !hasLens s then complete j 0x73 0 0 s
  else if n = 0 ∨ 1536 < first + n ∨ (inl ∧ 56 < n) ∨ (!inl ∧ !inHdm s src (ceilDiv n 2)) then complete j 0x72 0 0 s
  else
    let m := if inl then (s, sliceB d 12 28, false) else memRead grpMgmt src (ceilDiv n 2) s
    let ns := (nibbles m.2.1).take n
    if ns.any fun v => decide (8 ≤ v ∧ v ≤ 14) then complete j 0x72 0 0 m.1
    else complete j stOK 0 0 (lensApply first ns m.1)

def cmdLensSet : Cmd where
  op := 0x0A
  bodyOk d := decide (dByte d 4 ≤ 1) &&
    (if dByte d 4 = 1 then bodyZero d [(4, 4), (6, 9), (12, 39)] else bodyZero d [(4, 4), (6, 9), (16, 23)])
  ready := always
  run := lensSetRun

/-! ### Temperature and bands (R283, R284) -/

/-- Reports of the last 300 ms from the sources the LENS section names. -/
def freshReports (s : State) : List LensReport :=
  s.lens.reports.filter fun r => decide (s.ns ≤ r.ns + 300000000) && (lensSrc s).contains (r.group, r.sensor)

/-- Mean of temperatures, in 1/16 °C, rounded down. -/
def meanTemp (l : List Int) : Int := if l = [] then 0 else l.sum / l.length

/-- Largest band whose threshold a temperature reaches. -/
def bandOf (s : State) (t : Int) : Nat :=
  ((List.range 8).filter fun b => decide (b = 0) || decide (lensThr s b ≤ t)).foldl max 0

/-- Band after a report: up to the largest reached, down by one below THR − HYST (R284). -/
def bandNext (s : State) (b : Nat) (t : Int) : Nat :=
  if b < bandOf s t then bandOf s t
  else if 0 < b ∧ t < lensThr s b - lensHyst s then b - 1 else b

/-- A valid LENS_TEMP report (R283, R284): the temperature, and a change of band. -/
def lensReport (g sensor : Nat) (t : Int) (s : State) : State :=
  if !hasLens s || !(lensSrc s).contains (g, sensor) then s else
  let rs := (⟨s.ns, g, sensor, t⟩ : LensReport) :: s.lens.reports.filter fun r => decide (s.ns ≤ r.ns + 300000000)
  let s := { s with lens := { s.lens with reports := rs, noTemp := false } }
  let m := meanTemp ((freshReports s).map LensReport.temp)
  let s := setSFld s Reg.LENS_STAT_TEMP m
  let b := fld s Reg.LENS_STAT_BAND
  let b' := bandNext s b m
  let s := { setFld s Reg.LENS_STAT_BAND b' with lens := { s.lens with banded := true } }
  if b = b' then s else raise evLensTempBand [(8, b), (8, b'), (16, m)] s

/-! ### Journal records (R295, R296) -/

/-- Array offset of the record of a common. -/
def lensRecAt (c : Nat) : Nat := 256 * 8176 + 128 * c

/-- Bytes of a record (Table 9-6). -/
def lensRec (levels targets : List Nat) (band state : Nat) : Bytes :=
  packNibbles levels ++ packNibbles targets ++ natLe band 1 ++ natLe 0 27 ++ natLe state 4

def lensDoneWord : Nat := 0x444F4E45
def lensOpenWord : Nat := 0x4F50454E

/-- The record of a common reads OPEN (R295). -/
def lensRecOpen (s : State) (c : Nat) : Bool :=
  let b := nvmBytes s (lensRecAt c) 128
  decide (leAt b 0x7C 4 ≠ lensDoneWord) || nvmAnyLost s (lensRecAt c) 128 ||
  ((nibbles (b.take 96)).any fun v => decide (8 ≤ v)) || decide (7 < leAt b 0x60 1)

/-- A write of a common's record. -/
def lensRecWrite (c : Nat) (bs : Bytes) (why : NvmWhy) : NvmWr :=
  ⟨lensRecAt c / 256, lensRecAt c % 256, bs, 1, why⟩

/-! ### Updates (R285, R292, R293) -/

/-- The commons in the order the driver searches them. -/
def lensOrder (s : State) : List Nat := (List.range 16).map fun i => (s.lens.last + 1 + i) % 16

/-- An update can start: no HOLD, a temperature, VLCD power-good, VIN not below its warning level, the driver and the lens
block free (R283, R292, Table 9-5). -/
def lensCanStart (s : State) : Bool :=
  hasLens s && !flag s Reg.LENS_CTRL_HOLD && !s.lens.noTemp && decide (railPhase s 3 = .pgood) &&
  s.snuff.vinHigh && decide (s.lens.phase = .idle) && decide (s.lensRun = none)

/-- The open write of the common in progress (R296). -/
def lensOpenWrite (c : Nat) (s : State) : State :=
  let t := targetsOf s c
  let s := { s with lens := { s.lens with phase := .opening c, driving := t } }
  nvmWriteLens (lensRecWrite c (lensRec (levelsOf s c) t s.lens.band lensOpenWord) (.lensOpen c)) s

/-- LENS_UPDATE_START: picks the next common that is PENDING or OPEN, latches the band, and waits for
VLCD where its entry changes (R285, R292). -/
def lensUpdateStart (s : State) : State :=
  if !lensCanStart s then s else
  match (lensOrder s).find? fun c => decide (commonState s c = 1 ∨ commonState s c = 3) with
  | none => s
  | some c =>
    let b := fld s Reg.LENS_STAT_BAND
    let s := { s with lens := { s.lens with band := b, reset := decide (commonState s c = 3) } }
    let s := setFld (setCommon s c 2) Reg.LENS_STAT_COMMON c
    if s.lens.vlcd = lensVlcd s b then lensOpenWrite c s
    else
      let s := setVlcd (lensVlcd s b) s
      { s with lens := { s.lens with phase := .vlcd c } }

/-- VLCD has settled: the open write starts, once the lens block is free (R285). -/
def lensReady (c : Nat) (s : State) : State := { s with lens := { s.lens with phase := .ready c } }

/-- A lens journal write fails: cause JOURNAL (R299). -/
def lensWriteFailed (c st : Nat) (s : State) : State :=
  lensFault 4 c 0xFF { setCommon s c st with lens := { s.lens with phase := .idle, last := c } }

/-! ### The waveform (R286, R289) -/

/-- Entry that each segment of the common in progress runs in the band latched: 64, the reset waveform, or the
transition from its level to the level driven. -/
def waveEntries (s : State) (c : Nat) : List Nat :=
  if s.lens.reset then List.replicate 96 64
  else ((levelsOf s c).zip s.lens.driving).map fun p => 8 * p.1 + p.2

/-- Phases of an entry as far as its first DUR 0: AMP + 64 × POL, and DUR in ms. `k` bounds the phases. -/
def entryFrom (s : State) (b e : Nat) : Nat → Nat → List (Nat × Nat)
  | 0, _ => []
  | k + 1, i =>
    let w := lensPhaseWord s b e i
    if bitsOf w 8 8 = 0 then [] else (bitsOf w 0 7, bitsOf w 8 8) :: entryFrom s b e k (i + 1)

def entryPhases (s : State) (b e : Nat) : List (Nat × Nat) := entryFrom s b e 16 0

/-- Times in ms at which the phases of a list end, from `t` on. -/
def phaseEnds : Nat → List (Nat × Nat) → List Nat
  | _, [] => []
  | t, p :: ps => (t + p.2) :: phaseEnds (t + p.2) ps

/-- What a list of phases drives `t` ms after its start: 0 once it has ended. -/
def phaseAt : Nat → List (Nat × Nat) → Nat
  | _, [] => 0
  | t, p :: ps => if t < p.2 then p.1 else phaseAt (t - p.2) ps

/-- The distinct entries that the segments of the common in progress run. -/
def waveKinds (s : State) (c : Nat) : List Nat := (waveEntries s c).foldl (fun l e => if l.contains e then l else e :: l) []

/-- The phase boundaries of the waveform in progress, in ms from its start: the last one is its end. -/
def waveBounds (s : State) (c : Nat) : List Nat :=
  let ts := (waveKinds s c).flatMap fun e => phaseEnds 0 (entryPhases s s.lens.band e)
  ts.foldl (fun l t => setInsert t l) []

/-- Start in ms of the interval that `k` boundaries precede. -/
def waveTime (s : State) (c k : Nat) : Nat := if k = 0 then 0 else (waveBounds s c).getD (k - 1) 0

/-- What each segment drives in that interval; POL is inverted on an odd common (R289). -/
def waveDrive (s : State) (c k : Nat) : List Nat :=
  (waveEntries s c).map fun e =>
    let w := phaseAt (waveTime s c k) (entryPhases s s.lens.band e)
    if w % 64 ≠ 0 ∧ c % 2 = 1 then Nat.xor w 64 else w

/-- The segments move to their phases of interval `k`. -/
def lensDriveNow (c k : Nat) (s : State) : State :=
  emit { s with lens := { s.lens with phase := .wave c k, grounded := false } } (.lensDrive c (waveDrive s c k))

/-- A waveform starts. -/
def waveStart (c : Nat) (s : State) : State :=
  setFld (lensDriveNow c 0 { s with lens := { s.lens with start := s.ns } }) Reg.LENS_STAT_ELAPSED 0

/-- LENS_PHASE_END: a boundary inside the waveform; every segment whose phase ends there moves to its next phase. -/
def lensPhaseEnd (s : State) : State :=
  match s.lens.phase with
  | .wave c k =>
    if k + 1 < (waveBounds s c).length then
      setSat (lensDriveNow c (k + 1) s) Reg.LENS_STAT_ELAPSED (waveTime s c (k + 1))
    else s
  | _ => s

/-- The waveform has run through all of its intervals. -/
def waveOver (s : State) (c k : Nat) : Bool := decide ((waveBounds s c).length ≤ k + 1)

/-! ### The journal writes of an update (R293, R296, R299) -/

/-- The open write is done: the waveform starts (R293), or the common is SUSPENDED (R299). With VLCD gone
meanwhile no waveform starts, and the record stays open. -/
def lensOpened (c : Nat) (ok : Bool) (s : State) : State :=
  if s.lens.phase ≠ .opening c then s else
  if !ok then lensWriteFailed c 4 s else
  if railPhase s 3 ≠ .pgood then setCommon { s with lens := { s.lens with phase := .idle, last := c } } c 3 else
  waveStart c (setFld (setFld s Reg.LENS_STAT_COMMON c) Reg.LENS_STAT_DRIVING 1)

/-- The done write of the levels driven (R296). -/
def lensDoneWrite (c : Nat) (s : State) : State :=
  let s := { s with lens := { s.lens with phase := .closing c } }
  nvmWriteLens (lensRecWrite c (lensRec s.lens.driving s.lens.driving s.lens.band lensDoneWord) (.lensDone c)) s

/-- The waveform of a common is over; the done write starts once the lens block is free. -/
def lensEnded (c : Nat) (s : State) : State :=
  setFld { s with lens := { s.lens with phase := .ended c } } Reg.LENS_STAT_DRIVING 0

/-- LENS_WAVEFORM_END: after the reset waveform of an OPEN common its zones count as level 0 and its
transitions follow (R292); after the transitions the done write starts (R293). -/
def lensWaveEnd (s : State) : State :=
  match s.lens.phase with
  | .wave c k =>
    if !waveOver s c k then s
    else if s.lens.reset then
      let s := forAll (zonesOf c) (fun z s => setFld s (lensLevel z) 0) s
      let s := { s with lens := { s.lens with reset := false } }
      if s.lens.driving.all (· = 0) then lensEnded c s else waveStart c s
    else lensEnded c s
  | _ => s

/-- A new journal write can start: the lens block is free, and VIN is not below its warning level (Table 9-5). -/
def lensFree (s : State) : Bool := s.lensRun.isNone && s.snuff.vinHigh

/-- A journal write that waited for the lens block starts. The done write follows a restart of the core (R550). -/
def lensGoOn (s : State) : State :=
  if !lensFree s then s else
  match s.lens.phase with
  | .ready c => lensOpenWrite c s
  | .ended c => if s.restarting then s else lensDoneWrite c s
  | _ => s

/-- Levels reached become pending in the optical-level table (R146). -/
def optPending (c : Nat) (s : State) : State :=
  forAll (zonesOf c) (fun z s =>
    setFld { s with optPend := tblSet 0 s.optPend z (fld s (lensLevel z) + 1) } (Reg.RMAP_ZONE_LEVEL_PENDING (z / 8) (z % 8)) 1) s

/-- Writes recorded levels of a common and counts the zones that change. -/
def recordLevels (c : Nat) (ls : List Nat) (s : State) : State × Nat :=
  let n := ((levelsOf s c).zip ls).countP fun p => decide (p.1 ≠ p.2)
  (((zonesOf c).zip ls).foldl (fun s p => setFld s (lensLevel p.1) p.2) s, n)

/-- A common's levels are recorded: LENS_DONE, the optical table (R293, R146). -/
def lensRecorded (c band : Nat) (ls : List Nat) (s : State) : State :=
  let r := recordLevels c ls s
  raise evLensDone [(8, c), (8, band), (8, r.2)] (optPending c r.1)

/-- The lamp log counts an update that drove a common (R562). -/
def lensUpdated (c : Nat) (s : State) : State :=
  { s with log := { s.log with lensUpd := tblSet 0 s.log.lensUpd c (satAdd 32 (tblGet 0 s.log.lensUpd c) 1) } }

/-- LENS_FORCE work of a common: RESET makes it OPEN with its TARGET; DECLARE writes its record
(R300). -/
def forceOne (c mode level : Nat) (s : State) : State :=
  let s := setTargets (96 * c) (List.replicate 96 level) s
  let s := { s with lens := { s.lens with faults := tblSet 0 s.lens.faults c 0 } }
  if mode = 0 then setCommon s c 3
  else
    let ls := List.replicate 96 level
    nvmWriteLens (lensRecWrite c (lensRec ls ls (fld s Reg.LENS_STAT_BAND) lensDoneWord) (.lensDeclare c level)) s

/-- The common the driver is at work on. -/
def lensBusyWith (s : State) : Option Nat :=
  match s.lens.phase with
  | .idle => none
  | .vlcd c => some c
  | .ready c => some c
  | .opening c => some c
  | .wave c _ => some c
  | .ended c => some c
  | .closing c => some c

/-- LENS_FORCE work that can be taken up: a common the driver is at work on waits, and a DECLARE waits for the lens block
and for VIN (R300, Table 9-5). -/
def forceReady (s : State) (f : Nat × Nat × Nat) : Bool :=
  decide (lensBusyWith s ≠ some f.1) && (decide (f.2.1 = 0) || (s.lensRun.isNone && s.snuff.vinHigh))

/-- Takes up LENS_FORCE work: all of it for RESET, one write at a time for DECLARE. `k` bounds the work. -/
def forceNext : Nat → State → State
  | 0, s => s
  | k + 1, s =>
    match s.lens.forced.find? (forceReady s) with
    | none => s
    | some f =>
      let s := { s with lens := { s.lens with forced := s.lens.forced.filter fun g => decide (g ≠ f) } }
      forceNext k (forceOne f.1 f.2.1 f.2.2 s)

/-- The DECLARE command completes when its last record is written. -/
def forceDone (s : State) : State :=
  let s := forceNext s.lens.forced.length s
  match s.lens.forceJob with
  | some j =>
    if s.lens.forced = [] ∧ s.lensRun = none then
      complete j stOK 0 j.counter { s with lens := { s.lens with forceJob := none } }
    else s
  | none => s

/-- Something that waited for the lens block or for the driver can go on: a journal write of the update, LENS_FORCE work,
the completion of a DECLARE. -/
def lensDue (s : State) : Bool :=
  let w := match s.lens.phase with
    | .ready _ => s.snuff.vinHigh
    | .ended _ => s.snuff.vinHigh && !s.restarting
    | _ => false
  (lensFree s && !s.lensRewrite.isEmpty) || (s.lensRun.isNone && (w || (s.lens.forceJob.isSome && s.lens.forced.isEmpty))) || s.lens.forced.any (forceReady s)

/-- Where the lens block is still free, the next group of it that waits is rewritten with what it reads; one that has become
uncorrectable is not (R495, R496). -/
def lensRewriteNext (s : State) : State :=
  if !lensFree s then s else
  match s.lensRewrite.filter fun g => !nvmLost s g with
  | [] => { s with lensRewrite := [] }
  | g :: t => nvmWriteLens ⟨g / 32, 8 * (g % 32), nvmBytes s (8 * g) 8, 4, .patrol⟩ { s with lensRewrite := t }

/-- It goes on. -/
def lensSettle (s : State) : State := if lensDue s then lensRewriteNext (forceDone (lensGoOn s)) else s

/-- The done write is complete (R293), or failed (R299). -/
def lensClosed (c : Nat) (ok : Bool) (s : State) : State :=
  if s.lens.phase ≠ .closing c then s else
  if !ok then lensWriteFailed c 3 s else
  let b := s.lens.band
  let s := { s with lens := { s.lens with phase := .idle, last := c } }
  settle c (lensRecorded c b s.lens.driving (lensUpdated c s))

/-- The done write of a DECLARE is complete (R300), or failed and leaves the common OPEN (R299). -/
def lensDeclared (c level : Nat) (ok : Bool) (s : State) : State :=
  if !ok then lensFault 4 c 0xFF (setCommon s c 3)
  else settle c (lensRecorded c (fld s Reg.LENS_STAT_BAND) (List.replicate 96 level) s)

/-- The lens block's write ends (R502): the journal cell reads DONE and the record holds its bytes. -/
def lensBlockEnd (w : NvmWr) (ok : Bool) (s : State) : State :=
  let s := if ok then nvmProgram (256 * w.page + w.off) w.data s else s
  let q := fld s Reg.NVM_WSEQ_LENS
  let s := nvmProgram (journalAt true q) (journalCell w q 0xF0) s
  let s := incSat s Reg.NVM_CNT_WRITES 1
  setFld { s with lensRun := none } Reg.NVM_STAT_LBUSY 0

/-- The lens block's write ends and the driver goes on. -/
def lensBlockDone (ok : Bool) (s : State) : State :=
  match s.lensRun with
  | none => s
  | some w =>
    let s := lensBlockEnd w ok s
    match w.why with
    | .lensOpen c => lensOpened c ok s
    | .lensDone c => lensClosed c ok s
    | .lensDeclare c level => lensDeclared c level ok s
    | .patrol => if ok then incSat s Reg.NVM_PATROL_REWRITES 1 else s
    | _ => s

/-- The write running in the lens block is an open write, or a done write. -/
def lensRunIsOpen (s : State) : Bool :=
  match s.lensRun with
  | some w => match w.why with
    | .lensOpen _ => true
    | _ => false
  | none => false

/-- LENS_OVERCURRENT (R294): the waveform stops, the common is OPEN; the third fault suspends it. The waveform has stopped
before its end, so ABORTED is raised as well (R297). -/
def lensOvercurrent (output : Nat) (s : State) : State :=
  match s.lens.phase with
  | .wave c _ =>
    let n := tblGet 0 s.lens.faults c + 1
    let s := lensStop c s
    let s := { s with lens := { s.lens with faults := tblSet 0 s.lens.faults c n } }
    lensFault 3 c 0xFF (lensFault 2 c output (if 3 ≤ n then setCommon s c 4 else s))
  | _ => s

/-! ### LENS_FORCE (R300) -/

def lensForceRun (j : Job) (d : Bytes) (s : State) : State :=
  let m := leAt d 6 2
  let level := dByte d 8
  if m = 0 ∨ 7 < level then complete j 0x72 0 0 s
  else
    let fs := ((List.range 16).filter fun c => bitOf m c).map fun c => (c, dByte d 4, level)
    let s := { s with lens := { s.lens with forced := s.lens.forced ++ fs } }
    if dByte d 4 = 0 then complete j stOK 0 j.counter (forceNext s.lens.forced.length s)
    else forceDone { s with lens := { s.lens with forceJob := some j } }

def cmdLensForce : Cmd where
  op := 0x8B
  bodyOk d := decide (dByte d 4 ≤ 1) && bodyZero d [(4, 4), (6, 8)]
  ready s _ := decide (s.lens.forceJob = none)
  run := lensForceRun

/-! ### Start-up (R147, R298) -/

/-- LEVEL and TARGET of a common from its record, as the driver trusts it. -/
def lensLoad (c : Nat) (s : State) : State :=
  let ls := ((nibbles (nvmBytes s (lensRecAt c) 48)).map fun v => v % 8)
  let s := (recordLevels c ls s).1
  setCommon (setTargets (96 * c) ls s) c 0

/-- A torn lens-block page holds the record of a common in its range (R298). -/
def lensTorn (s : State) (c : Nat) : Bool :=
  match tornOf s true with
  | some (pg, a, b) => decide (pg = lensRecAt c / 256) && decide (a ≤ lensRecAt c % 256 / 8 + 15) && decide (lensRecAt c % 256 / 8 ≤ b)
  | none => false

/-- Commons a start must recover. -/
def lensToRecover (s : State) : List Nat := (List.range 16).filter fun c => lensRecOpen s c || lensTorn s c

/-- The reset waveform of a recovery is driven phase by phase, inverted on an odd common (R289, R298); a fault stops it in its
first phase. -/
def lensResetDrive (c band : Nat) (whole : Bool) (s : State) : State :=
  let ps := entryPhases s band 64
  (if whole then ps else ps.take 1).foldl (fun s p =>
    emit s (.lensDrive c (List.replicate 96 (if p.1 % 64 ≠ 0 ∧ c % 2 = 1 then Nat.xor p.1 64 else p.1))))
    { s with lens := { s.lens with grounded := false } }

/-- A common is recovered: the reset waveform, the done write with LEVELS 0, LENS_RECOVER (R298). -/
def lensRecovered (c band : Nat) (s : State) : State :=
  let s := lensResetDrive c band true s
  let z := List.replicate 96 0
  let w := lensRecWrite c (lensRec z z band lensDoneWord) (.lensRecover c)
  let s := lensBlockEnd w true (nvmBegin true w s)
  let s := (recordLevels c z s).1
  let s := setCommon (setTargets (96 * c) z s) c 0
  raise evLensRecover [(8, c), (8, band)] (incSat s Reg.LENS_FAULT_CNT_RECOVERED 1)

/-- A common that a start could not recover: OPEN, and level 0 for the lanterns (Table 17-5). -/
def lensLeftOpen (c : Nat) (s : State) : State :=
  let z := List.replicate 96 0
  setCommon (setTargets (96 * c) z (recordLevels c z s).1) c 3

/-- A recovery that faults leaves its common OPEN, taken at level 0 by the lanterns (Table 17-5): `output` is the output
over its current limit, which stops the waveform and suspends the common at its third fault (R294, R297), or none for a done
write that failed (R299). -/
def lensUnrecovered (c band : Nat) (output : Option Nat) (s : State) : State :=
  let s := lensLeftOpen c (lensResetDrive c band output.isNone s)
  match output with
  | some o =>
    let n := tblGet 0 s.lens.faults c + 1
    let s := emit { s with lens := { s.lens with grounded := true, faults := tblSet 0 s.lens.faults c n } } .lensGround
    lensFault 3 c 0xFF (lensFault 2 c o (if 3 ≤ n then setCommon s c 4 else s))
  | none => lensFault 4 c 0xFF s

/-- The band of step 8, from the mean of the first reports (R284, R298). -/
def lensBandTake (temps : List Int) (s : State) : State :=
  if temps = [] then { s with lens := { s.lens with banded := false } } else
  let m := meanTemp temps
  let b := bandOf s m
  let old := fld s Reg.LENS_STAT_BAND
  let s := setSFld (setFld { s with lens := { s.lens with banded := true } } Reg.LENS_STAT_BAND b) Reg.LENS_STAT_TEMP m
  if b = old then s else raise evLensTempBand [(8, old), (8, b), (16, m)] s

/-- Step 8 (R298): the band from the first reports, or RECOVER_BAND; VLCD at its entry (R266); recoveries, and the levels
of every other common. Without VLCD nothing is driven and nothing is recovered (R268). -/
def lensRecovery (temps : List Int) (vlcd : Bool) (failed : List (Nat × Option Nat)) (s : State) : State :=
  let todo := lensToRecover s
  let s := nvmTouch 5 (lensRecAt 0) 2048 s
  let s := lensBandTake temps { s with lens := { s.lens with phase := .idle, noTemp := false } }
  let s := setVlcd (lensEntry s) s
  let b := if temps = [] then lensRecoverBand s else fld s Reg.LENS_STAT_BAND
  forAll (List.range 16) (fun c s =>
    if !todo.contains c then lensLoad c s
    else if !vlcd then lensLeftOpen c s
    else match failed.find? fun f => decide (f.1 = c) with
      | some f => lensUnrecovered c b f.2 s
      | none => lensRecovered c b s) s

/-- The optical-level table takes the recorded levels, or level 7 everywhere without a lens (R147). -/
def loadOptical (s : State) : State :=
  let s := { s with optPend := [], optArmed := [] }
  if hasLens s then
    forAll (List.range 1536) (fun z s => setFld (setFld s (Reg.RMAP_ZONE_LEVEL_LEVEL (z / 8) (z % 8)) (fld s (lensLevel z)))
      (Reg.RMAP_ZONE_LEVEL_PENDING (z / 8) (z % 8)) 0) s
  else forAll (List.range 192) (fun i s => setReg s (Reg.RMAP_ZONE_LEVEL i) 0x77777777#64) s

end Sys2Proof.Machine
end

