-- ==== Sys2Proof/Machine/Receive.lean ====
section
/-! DEFINITION. The receivers of return and chain lanes (R236, R245, R458): block lock, the block after lock, and the
polarity of the pair. -/

namespace Sys2Proof.Machine

/-- Block lock of a lane by its headers, newest first: gained with 64 valid in a row, lost with 16 invalid among
the last 64 (R236). -/
def lockNext (locked : Bool) (headers : List Bool) : Bool :=
  let w := headers.take 64
  if locked then decide ((w.filter not).length < 16) else decide (w.length = 64) && w.all id

/-- A header is valid when its bits differ (R234). -/
def rxValid (b : RxBlock) : Bool := decide (b.hdr = 1#2) || decide (b.hdr = 2#2)

/-- A control block. -/
def rxCtl (b : RxBlock) : Bool := decide (b.hdr = 2#2)

/-- The block that an inverted pair makes of this one (R236). -/
def rxFlip (b : RxBlock) : RxBlock := ⟨~~~b.hdr, ~~~b.payload⟩

/-- Type byte of a block. -/
def rxType (b : RxBlock) : Nat := b.payload.toNat % 256

/-- IDLE, which leaves a frozen adaptation frozen (R263). -/
def rxIdle (b : RxBlock) : Bool := rxCtl b && decide (rxType b = 0)

/-- One block arrives: the receiver after it, and the block it delivers. The first block after lock is discarded. When
the complements of 32 blocks in a row are control blocks of a known type, the receiver inverts its input. -/
def hear (known : Nat → Bool) (r : Receiver) (b : RxBlock) : Receiver × Option RxBlock :=
  let hs := (rxValid b :: r.headers).take 64
  if !r.lock then
    (if lockNext false hs then { headers := hs, lock := true, first := true } else { headers := hs }, none)
  else if !lockNext true hs then ({}, none)
  else if r.first then ({ r with headers := hs, first := false }, none)
  else
    let b := if r.inv then rxFlip b else b
    let run := if rxCtl (rxFlip b) && known (rxType (rxFlip b)) then r.run + 1 else 0
    if run = 32 then ({ r with headers := hs, inv := !r.inv, run := 0 }, none)
    else ({ r with headers := hs, run := run }, some b)

/-- Blocks arrive one after another: the receiver after them, and those it delivers. -/
def hearAll (known : Nat → Bool) : Receiver → List RxBlock → Receiver × List RxBlock
  | r, [] => (r, [])
  | r, b :: bs =>
    let x := hear known r b
    let y := hearAll known x.1 bs
    (y.1, x.2.toList ++ y.2)

/-- Types of return control blocks (Table 8-3), and of chain control blocks (Table 14-4). -/
def returnType (t : Nat) : Bool := [0x00, 0x80, 0x81, 0x82, 0x83].contains t
def chainType (t : Nat) : Bool := [0x00, 0x60, 0x61, 0x62, 0x63, 0x64, 0x65, 0x66].contains t

end Sys2Proof.Machine
end

