-- ==== Sys2Proof/Machine/Inputs.lean ====
section
/-! DEFINITION. Qualification faults of the control inputs (R555), shared by every input. -/

namespace Sys2Proof.Machine

/-- Inputs as INPUT_FAULT numbers them. -/
def inSnuff : Nat := 1
def inSync : Nat := 2
def inReset : Nat := 3
def inProv : Nat := 4
def inHead : Nat := 5
def inAlert : Nat := 6

/-- Qualification state of an input. -/
def inputOf (s : State) (i : Nat) : InputQual := tblGet {} s.inputs i

def setInput (s : State) (i : Nat) (q : InputQual) : State := { s with inputs := tblSet {} s.inputs i q }

/-- Qualified level of an input as MGMT_IN_STAT.LEVEL reads it. -/
def setLevel (s : State) (i v : Nat) : State := setFld s ⟨Reg.MGMT_IN_STAT, i - 1, i - 1⟩ v
def levelOf (s : State) (i : Nat) : Bool := bitOf (fld s Reg.MGMT_IN_STAT_LEVEL) (i - 1)

/-- INPUT_FAULT of an input, at most once per 10 ms per input (R555). -/
def inputFault (i cause : Nat) (s : State) : State :=
  let q := inputOf s i
  let recent := match q.fault with
    | some t => decide (s.ns < t + 10000000)
    | none => false
  if recent then s else
  let s := setFld (setInput s i { q with fault := some s.ns }) ⟨Reg.MGMT_IN_STAT, 7 + i, 7 + i⟩ 1
  raiseErr unitMgmt 0 evInputFault cause [(8, i), (8, cause)] s

/-- Edges of an input within the last `span` ns, the present one first. -/
def recentEdges (s : State) (i span : Nat) : List Nat :=
  s.ns :: (inputOf s i).edges.filter fun t => decide (s.ns < t + span)

end Sys2Proof.Machine
end

