-- ==== Sys2Proof/Machine/Time.lean ====
section
/-! DEFINITION. Time bases, the tick series, compare units, the PTP client, domain switching and
SYNC_IN (R30 to R35, R441 to R456, R556). Counts are compared by signed difference (R439). -/

namespace Sys2Proof.Machine

/-! ### Bases (R441) -/

def evTimeSwitch : Nat := 232
def evTimeStep : Nat := 233
def evTickSlip : Nat := 234
def evTimeCompare : Nat := 235

/-- SEC × 10^9 + NS of a base. -/
def totalOf (s : State) (b : Nat) : Nat := tblGet 0 s.time.total b

/-- Largest value of SEC × 10^9 + NS, plus one. -/
def totalMod : Nat := 2 ^ 48 * 1000000000

/-- Nanosecond count of a base. -/
def countOf (s : State) (b : Nat) : Nat := totalOf s b % 2 ^ 64

/-- A base's time in 2^-40 ns. -/
def fullOf (s : State) (b : Nat) : Int := (totalOf s b * 2 ^ 40 + tblGet 0 s.time.frac b : Nat)

/-- Sets a base's time, in 2^-40 ns. -/
def setFull (s : State) (b : Nat) (v : Int) : State :=
  let w := (v % ((totalMod * 2 ^ 40 : Nat) : Int)).toNat
  let t := w / 2 ^ 40
  let tot := tblSet 0 s.time.total b t
  let fr := tblSet 0 s.time.frac b (w % 2 ^ 40)
  let s := { s with time := { s.time with total := tot, frac := fr } }
  setReg (setReg s (Reg.TIME_TB_NOW b) (BitVec.ofNat 64 t)) (Reg.TIME_TB_SEC b) (BitVec.ofNat 64 (t / 1000000000))

/-- State of a base (Table 14-2). -/
def tbState (s : State) (b : Nat) : Nat := fld s (Reg.TIME_TB_STAT_STATE b)
def tbFree : Nat := 0
def tbAcquiring : Nat := 1
def tbLocked : Nat := 2
def tbHoldover : Nat := 3
def setTbState (s : State) (b v : Nat) : State := setFld s (Reg.TIME_TB_STAT_STATE b) v

/-- Source of TB3. -/
def tb3Src (s : State) : Nat := fld s Reg.TIME_CFG_TB3_SRC
/-- TB3 copies its source here: the chain head, and a unit whose role is NONE (R447). -/
def tb3Copies (s : State) : Bool := decide (fld s Reg.CHN_CFG_ROLE = 0) || flag s Reg.CHN_STAT_HEAD
/-- A base drives ticks (R445). -/
def drivesTicks (s : State) (b : Nat) : Bool :=
  decide (selBase s = b) || (decide (selBase s = 3) && tb3Copies s && decide (tb3Src s = b))
/-- The source of R452, if it is TB1 or TB2. -/
def sourceBase (s : State) : Option Nat :=
  if selBase s = 1 ∨ selBase s = 2 then some (selBase s)
  else if selBase s = 3 ∧ tb3Copies s ∧ (tb3Src s = 1 ∨ tb3Src s = 2) then some (tb3Src s)
  else none

/-- Handover offset in 2^-16 ns. -/
def handD (s : State) : Int := toSigned 64 (reg s Reg.TIME_HANDOVER).toNat
def setHandTb3 (s : State) (v : Bool) : State := { s with time := { s.time with handTb3 := v } }
def setHandD (s : State) (d : Int) : State :=
  setFld (setReg s Reg.TIME_HANDOVER (BitVec.ofNat 64 (ofSigned 64 d))) Reg.TIME_TICK_CTRL_HANDOVER
    (b2n (decide (d ≠ 0)))

/-- Slew rate in ppm: 0 is taken as 1, values above 100 as 100. -/
def slewPpm (s : State) : Nat := min 100 (max 1 (fld s Reg.TIME_CFG_SLEW_PPM))
/-- A rate in ppm as a rate word. -/
def ppmRate (p : Nat) : Nat := p * 2 ^ 40 / 1000000
/-- ±200 ppm (R444). -/
def rateLimit : Nat := ppmRate 200

/-- RATE of a base: its servo's word, its slew, and for TB3 of a member the SLEW received, clamped
(R444, R468). -/
def fixRate (b : Nat) (s : State) : State :=
  let r := tblGet 0 s.time.servo b + tblGet 0 s.time.slew b * ((ppmRate (slewPpm s) : Nat) : Int) +
    (if b = 3 ∧ !tb3Copies s then s.chain.slew else 0)
  fixSteer (setFld s (Reg.TIME_TB_RATE_RATE b) (ofSigned 32 (clampI (-(rateLimit : Int)) rateLimit r)))

/-- Rate at which a handover's d moves toward 0: SLEW_PPM, and in TB3 no more than its clamp leaves (R444, R453). -/
def handRate (s : State) : Int :=
  let w : Int := (if handD s < 0 then -1 else if handD s = 0 then 0 else 1) * ((ppmRate (slewPpm s) : Nat) : Int)
  if s.time.handTb3 && tb3Copies s then
    let r := rateOf s (tb3Src s)
    clampI (-(rateLimit : Int)) rateLimit (r + w) - r
  else w

/-- TB3 follows its source: count, handover, state and rate, which includes the handover's slew (R444, R447, R453). -/
def fixTb3 (s : State) : State :=
  fixSteer (
    if tb3Copies s then
      let b := tb3Src s
      let d := if s.time.handTb3 then handD s * 2 ^ 24 else 0
      let r := rateOf s b + (if s.time.handTb3 then handRate s else 0)
      let s := setTbState (setFull s 3 (fullOf s b - d)) 3 (tbState s b)
      setFld s (Reg.TIME_TB_RATE_RATE 3) (ofSigned 32 (clampI (-(rateLimit : Int)) rateLimit r))
    else s)

/-- Effective time that ticks follow, 2^-40 ns (R453). -/
def effective (s : State) : Int :=
  if (selBase s = 1 ∨ selBase s = 2) ∧ !s.time.handTb3 then fullOf s (selBase s) - handD s * 2 ^ 24
  else fullOf s (selBase s)

/-- Its nanosecond count. -/
def driveCount (s : State) : Nat := (effective s / 2 ^ 40 % (2 ^ 64 : Int)).toNat

/-! ### The tick series (R30 to R35) -/

def tickP (s : State) : Nat := (reg s Reg.TIME_TICK_PERIOD_CUR).toNat
def tickT0 (s : State) : Nat := (reg s Reg.TIME_TICK_T0).toNat
def tickK0 (s : State) : Nat := (reg s Reg.TIME_TICK_K0).toNat
def tickCount (s : State) : Nat := (reg s Reg.TIME_TICK_COUNT).toNat

/-- Tick time of tick `k`: T(k) rounded up (R32). -/
def tickTime (s : State) (k : Nat) : Nat :=
  let x : Int := sdiff 64 k (tickK0 s) * (tickP s : Int) + (s.time.t0Frac : Int)
  (((tickT0 s : Int) + -(-x / 2 ^ 32)) % (2 ^ 64 : Int)).toNat

/-- Sets the tick issued next. -/
def setNextTick (s : State) (k : Nat) : State := { s with time := { s.time with nextTick := k % 2 ^ 64 } }

/-- Realigns the generator to the base that drives ticks; skipped ticks are counted when `count` (R35). -/
def realign (count : Bool) (s : State) : State :=
  if tickP s = 0 then s else
  let x : Int := sdiff 64 (driveCount s) (tickT0 s) * 2 ^ 32 - (s.time.t0Frac : Int)
  let k := (((tickK0 s : Int) + x / (tickP s : Int) + 1) % (2 ^ 64 : Int)).toNat
  let s := setNextTick s k
  let skip := sdiff 64 k (tickCount s + 1)
  if count && decide (0 < skip) then
    raise evTickSlip [(8, 1), (64, skip), (32, (k : Int))]
      (incSat s Reg.TIME_TICK_STAT_SLIP_CNT skip.toNat)
  else s

/-! ### Compare units (R448) -/

def cmpTarget (s : State) (n : Nat) : Nat := (reg s (Reg.TIME_CMP_TARGET n)).toNat

/-- A compare unit fires; TPLL's SYNC output clocks its pulse (Table 15-2). -/
def cmpFire (late : Bool) (n : Nat) (s : State) : State :=
  let t := cmpTarget s n
  let per := (reg s (Reg.TIME_CMP_PERIOD n)).toNat
  let s := incSat s (Reg.TIME_CMP_CFG_FIRED n) 1
  let s := if late then setFld s (Reg.TIME_CMP_CFG_LATE n) 1 else s
  let s := if flag s (Reg.TIME_CMP_CFG_OUT n) && clkRuns s 7 1 then
      emit s (.syncOut n (max 1 (fld s (Reg.TIME_CMP_CFG_WIDTH n)))) else s
  let s := if flag s (Reg.TIME_CMP_CFG_PERIODIC n) && decide (per ≠ 0) then
      setReg s (Reg.TIME_CMP_TARGET n) (BitVec.ofNat 64 (t + per))
    else setFld s (Reg.TIME_CMP_CFG_EN n) 0
  raise evTimeCompare [(8, n), (64, t), (8, b2n late)] s

/-- The target of an armed unit is past. -/
def cmpPast (s : State) (n : Nat) : Bool :=
  flag s (Reg.TIME_CMP_CFG_EN n) &&
  decide (0 < sdiff 64 (countOf s (fld s (Reg.TIME_CMP_CFG_BASE n))) (cmpTarget s n))

/-- A unit whose target is past fires at once and late, a periodic one until its target is past no more; `k` bounds the
firings. -/
def cmpLate (n : Nat) : Nat → State → State
  | 0, s => s
  | k + 1, s => if cmpPast s n then cmpLate n k (cmpFire true n s) else s

/-- Targets of a unit that lie behind its base. -/
def cmpBehind (s : State) (n : Nat) : Nat :=
  (sdiff 64 (countOf s (fld s (Reg.TIME_CMP_CFG_BASE n))) (cmpTarget s n)).toNat / max 1 (reg s (Reg.TIME_CMP_PERIOD n)).toNat + 1

/-- Units that a forward step has carried past their targets fire late. -/
def cmpSweep (s : State) : State := forAll (List.range 8) (fun n s => cmpLate n (cmpBehind s n) s) s

/-- A write of TIME_CMP_CFG; setting EN arms the unit. -/
def cmpCfgWrite (n v : Nat) (s : State) : State :=
  let arms := !flag s (Reg.TIME_CMP_CFG_EN n) && bitOf v 0
  let late := if bitOf v 5 then 0 else fld s (Reg.TIME_CMP_CFG_LATE n)
  let fired := if arms then 0 else fld s (Reg.TIME_CMP_CFG_FIRED n)
  let w := bitsOf v 0 5 + late * 2 ^ 5 + bitsOf v 8 8 * 2 ^ 8 + fired * 2 ^ 16
  let s := setReg s (Reg.TIME_CMP_CFG n) (BitVec.ofNat 64 w)
  if arms then cmpLate n (cmpBehind s n) s else s

/-! ### Steps and slews (R443 to R446) -/

/-- A base steps by `d`, in 2^-40 ns (R446). -/
def stepBase (b : Nat) (d : Int) (cause : Nat) (s : State) : State :=
  let drives := drivesTicks s b
  let s := incSat (fixTb3 (setFull s b (fullOf s b + d))) (Reg.TIME_TB_STAT_STEPS b) 1
  let s := raise evTimeStep [(8, b), (64, d / 2 ^ 40), (8, cause)] s
  let s := if drives then realign true s else s
  cmpSweep s

/-- Number of consecutive good offsets a base has seen. -/
def setRun (s : State) (b v : Nat) : State := { s with time := { s.time with lockRun := tblSet 0 s.time.lockRun b v } }
def setSlewDir (s : State) (b : Nat) (v : Int) : State :=
  setFld { s with time := { s.time with slew := tblSet 0 s.time.slew b v } } (Reg.TIME_TB_STAT_SLEWING b)
    (b2n (decide (v ≠ 0)))

/-- The servo's new rate word, which no rule states: a free value within ±200 ppm (log 6). -/
def servoRate (b : Nat) (s : State) : State :=
  let w : Int := (Config.freeNat s.free % (2 * rateLimit + 1) : Nat) - (rateLimit : Int)
  drew { s with time := { s.time with servo := tblSet 0 s.time.servo b w } }

/-- STEP_NS in 2^-16 ns. -/
def stepLimit (s : State) : Nat := fld s Reg.TIME_CFG_STEP_NS * 2 ^ 16

/-- A base becomes LOCKED after 16 consecutive offsets below its limit. -/
def lockCount (b : Nat) (off : Int) (limit : Nat) (s : State) : State :=
  let n := if off.natAbs < limit then min 16 (tblGet 0 s.time.lockRun b + 1) else 0
  let s := setRun s b n
  if n = 16 then
    setTbState { s with time := { s.time with locked := setInsert b s.time.locked } } b tbLocked
  else s

/-- A reference shows an offset from its base, in 2^-16 ns: the base steps, slews or leaves it to the
servo (R445), and the lock limit is judged. -/
def offsetSeen (b : Nat) (off : Int) (limit cause : Nat) (s : State) : State :=
  let s := setReg s (Reg.TIME_TB_OFFSET b) (BitVec.ofNat 64 (ofSigned 64 off))
  let s := if tbState s b = tbLocked then s else setTbState s b tbAcquiring
  let s := lockCount b off limit s
  let s :=
    if stepLimit s ≤ off.natAbs then
      if drivesTicks s b && isLit s then setSlewDir s b (if off < 0 then -1 else 1)
      else stepBase b (off * 2 ^ 24) cause (setSlewDir s b 0)
    else servoRate b (setSlewDir s b 0)
  fixTb3 (fixRate b s)

/-! ### Domain switching (R452 to R454) -/

/-- SEL or TB3_SRC names a new base, and the handover is that of SEL's base or of TB3. -/
def setSource (s : State) (b : Nat) : State :=
  let s := setHandTb3 s (decide (selBase s = 3))
  if selBase s = 3 then setFld s Reg.TIME_CFG_TB3_SRC b else setFld s Reg.TIME_TICK_CTRL_SEL b

/-- The source switches to base `b`: slewed while lit, at once while dark (R453, R454). -/
def switchTo (b cause : Nat) (s : State) : State :=
  let old := (sourceBase s).getD 0
  let d := fullOf s b - effective s
  let dns := d / 2 ^ 40
  let s := setSource s b
  if isLit s then
    let s := fixTb3 (setHandD s (d / 2 ^ 24))
    raise evTimeSwitch [(8, old), (8, b), (64, dns), (8, cause)] s
  else
    let s := fixTb3 (setHandD s 0)
    let s := raise evTimeSwitch [(8, old), (8, b), (64, dns), (8, cause)] s
    let t := selBase s
    let s := incSat s (Reg.TIME_TB_STAT_STEPS t) 1
    let s := raise evTimeStep [(8, t), (64, dns), (8, if cause = 2 then 4 else 1)] s
    cmpSweep (realign true s)

/-- A base loses its reference (R451, R452, R455). TB3 enters HOLDOVER from any state (R471). -/
def refLost (b : Nat) (s : State) : State :=
  if decide (tbState s b = tbLocked) || decide (tbState s b = tbAcquiring) || decide (b = 3) then
    let s := setTbState s b (if b ∈ s.time.locked ∨ b = 3 then tbHoldover else tbFree)
    let s := setRun s b 0
    let own := rateOf s b - (if b = 3 ∧ !tb3Copies s then s.chain.slew else 0)
    let s := setFld { s with time := { s.time with servo := tblSet 0 s.time.servo b own,
                                                   slew := tblSet 0 s.time.slew b 0 } } (Reg.TIME_TB_STAT_SLEWING b) 0
    let s := fixTb3 s
    if flag s Reg.TIME_CFG_AUTO_SWITCH && decide (sourceBase s = some b) &&
        decide (tbState s b = tbHoldover) && decide (tbState s (3 - b) = tbLocked) then
      switchTo (3 - b) 1 s
    else s
  else s

/-! ### Writes (R33, R35, R443, R447) -/

/-- A write of TIME_TICK_CTRL.SEL. -/
def selWrite (v : Nat) (s : State) : State :=
  let o := selBase s
  if v = o then s
  else if (o = 1 ∧ v = 2) ∨ (o = 2 ∧ v = 1) then switchTo v 2 s
  else if isLit s then s
  else cmpSweep (realign true (fixTb3 (setHandD (setFld s Reg.TIME_TICK_CTRL_SEL v) 0)))

/-- A write of TIME_TICK_T0. -/
def t0Write (t0 : DWord) (s : State) : State :=
  if isLit s then s else
  let s := setReg s Reg.TIME_TICK_T0 t0
  realign true { s with time := { s.time with t0Frac := 0 } }

/-- A write of TIME_TB0_SET_NS steps TB0, unless TB0 drives ticks while lit. -/
def tb0Step (ns : Nat) (s : State) : State :=
  if drivesTicks s 0 && isLit s then s else
  let t : Int := ((fld s Reg.TIME_TB0_SET_SEC_SEC * 1000000000 + ns : Nat) : Int) * 2 ^ 40
  stepBase 0 (t - fullOf s 0) 4 s

/-- A change of TB3_SRC between 1 and 2 while lit where TB3 does not drive ticks: TB3 hands over by itself. A handover of the
base that SEL names keeps d, and TB3, which drives nothing, changes at once (log 86). -/
def tb3Handover (v : Nat) (s : State) : State :=
  let o := tb3Src s
  let d := fullOf s v - fullOf s 3
  let s := setFld s Reg.TIME_CFG_TB3_SRC v
  let s := if handD s ≠ 0 ∧ !s.time.handTb3 then s else setHandD (setHandTb3 s true) (d / 2 ^ 24)
  cmpSweep (raise evTimeSwitch [(8, o), (8, v), (64, d / 2 ^ 40), (8, 2)] (fixTb3 s))

/-- A write of TIME_CFG.TB3_SRC (R447). -/
def tb3SrcWrite (v : Nat) (s : State) : State :=
  let o := tb3Src s
  let ptp := decide ((o = 1 ∧ v = 2) ∨ (o = 2 ∧ v = 1))
  if v = 3 ∨ v = o then s
  else if isLit s && !ptp then s
  else if selBase s = 3 ∧ tb3Copies s then
    if ptp then switchTo v 2 s
    else cmpSweep (realign true (fixTb3 (setHandD (setFld s Reg.TIME_CFG_TB3_SRC v) 0)))
  else if isLit s then tb3Handover v s
  else cmpSweep (fixTb3 (setFld s Reg.TIME_CFG_TB3_SRC v))

/-- A read of TIME_TB_SEC latches NS. -/
def tbSecRead (b : Nat) (s : State) : State :=
  setFld s (Reg.TIME_TB_NS_NS b) (totalOf s b % 1000000000)

/-! ### Time passing (log 2) -/

/-- TPLL removes its built-out phase at CLK_TPLL_CFG.SLEW_PPM (R490). -/
def pboRun (dt : Nat) (s : State) : State :=
  let d := sfld s Reg.CLK_TPLL_PBO_OFFSET
  if d = 0 then s else
  let acc := s.clk.pboFs + dt * min 100 (max 1 (fld s Reg.CLK_TPLL_CFG_SLEW_PPM))
  let dec : Nat := acc / 1000
  let d := if d < 0 then min 0 (d + (dec : Int)) else max 0 (d - (dec : Int))
  setSFld { s with clk := { s.clk with pboFs := if d = 0 then 0 else acc % 1000 } } Reg.CLK_TPLL_PBO_OFFSET d

/-- Every base runs for `dt` ns at its rate; a handover moves toward 0 (R441, R453). -/
def timeRun (dt : Nat) (s : State) : State :=
  let s := pboRun dt s
  let run (b : Nat) (s : State) : State :=
    setFull s b (fullOf s b + (dt : Int) * (2 ^ 40 + rateOf s b))
  let s := run 2 (run 1 (run 0 { s with ns := s.ns + dt }))
  let s := if tb3Copies s then s else run 3 s
  let d := handD s
  if d = 0 then fixTb3 s else
  let acc := s.time.dFrac + dt * (handRate s).natAbs
  let dec : Nat := acc / 2 ^ 24
  let d := if d < 0 then min 0 (d + (dec : Int)) else max 0 (d - (dec : Int))
  fixTb3 (setHandD { s with time := { s.time with dFrac := acc % 2 ^ 24 } } d)

/-- One period of TCLK, 2 ns, passes and nothing leaves the block (log 2). Without supply no base counts. -/
def idle (s : State) : State :=
  let s := fresh s
  if lamp s = .off then { s with ns := s.ns + 2 } else timeRun 2 s

/-! ### PTP (R449 to R451) -/

def ptpOf (s : State) (d : Nat) : PtpState := tblGet {} s.time.ptp d
def setPtp (s : State) (d : Nat) (p : PtpState) : State :=
  { s with time := { s.time with ptp := tblSet {} s.time.ptp d p } }

/-- The client runs: the core works from the MGMT output and is not restarting, and the port's clock, the ETH output, runs
(R479, R480, R550). -/
def ptpRuns (s : State) : Bool :=
  decide (lamp s ≠ .off) && decide (2 ≤ fld s (Reg.CLK_PLL_STAT_STATE 5)) && clkRuns s 5 4 && !s.restarting

/-- 224.0.1.129, and 224.0.0.107 for peer delay (Table 14-3). -/
def ptpGroup : Nat := 0xE0000181
def ptpPeerGroup : Nat := 0xE000006B

/-- The port joins the groups of every domain that UDP carries, when its address or a domain's configuration is set
(Table 14-3; log 91). -/
def ptpJoin (s : State) : State :=
  let udp := fun (d : Nat) => !flag s (Reg.TIME_PTP_CFG_L2 d)
  if !ptpRuns s then s else
  let s := if udp 0 || udp 1 then emit s (.igmp ptpGroup) else s
  if [0, 1].any fun d => udp d && flag s (Reg.TIME_PTP_CFG_P2P d) then emit s (.igmp ptpPeerGroup) else s

/-- A message is ignored and counted (R449). -/
def ptpBad (d : Nat) (s : State) : State := incSat s (Reg.TIME_PTP_CNT_BAD d) 1

/-- Interrupt entry, 92.5 ns, in 2^-16 ns (R450). -/
def irqEntry : Int := 6062080

/-- Receive and transmit timestamps after the compensation of R450, 2^-16 ns. -/
def rxStamp (s : State) (t : Nat) : Int := ((t * 65536 : Nat) : Int) - irqEntry - ((fld s Reg.TIME_PTP_LAT_RX * 65536 : Nat) : Int)
def txStamp (s : State) (t : Nat) : Int := ((t * 65536 : Nat) : Int) - irqEntry - ((fld s Reg.TIME_PTP_LAT_TX * 65536 : Nat) : Int)

/-- A difference of times kept to the 64-bit nanosecond count, 2^-16 ns. -/
def wrapDiff (x : Int) : Int := toSigned 80 (ofSigned 80 x)

/-- The offset of a Sync whose origin time is known acts on the base. -/
def ptpOffset (d : Nat) (rx : Int) (origin : Nat) (corr : Int) (s : State) : State :=
  let p := ptpOf s d
  let ms := wrapDiff (rx - ((origin * 65536 : Nat) : Int) - corr)
  let s := setPtp s d { p with wait := none, ms := some ms }
  let s := incSat s (Reg.TIME_PTP_CNT_SYNC d) 1
  let s := offsetSeen (d + 1) (p.mpd - ms) (200 * 65536) 1 s
  if tbState s (d + 1) = tbLocked then setFld s (Reg.TIME_PTP_STAT_PORT_STATE d) 9 else s

/-- PTP_SYNC: the selected master's Sync acts at once, or waits for its Follow_Up. -/
def ptpSync (d : Nat) (m : SyncMsg) (s : State) : State :=
  let p := ptpOf s d
  if decide (p.sel ≠ some m.master) then s
  else if m.twoStep then setPtp s d { p with wait := some (m.master, m.seq.toNat, rxStamp s m.rx, m.corr) }
  else ptpOffset d (rxStamp s m.rx) m.origin m.corr s

/-- PTP_FOLLOW_UP: the origin time of the Sync that awaits it. -/
def ptpFollowUp (d : Nat) (m : FollowUpMsg) (s : State) : State :=
  match (ptpOf s d).wait with
  | some (id, q, rx, corr) =>
    if id = m.master ∧ q = m.seq.toNat then ptpOffset d rx m.origin (corr + m.corr) s else s
  | none => s

/-- The data set `a` is better than `b` (best master clock algorithm, PRESUMED from IEEE 1588, log 12):
the fields in the order the algorithm compares them. -/
def rankOf (f : Foreign) : List Nat :=
  [f.data.priority1.toNat, f.data.clockClass.toNat, f.data.accuracy.toNat, f.data.variance.toNat,
   f.data.priority2.toNat, f.data.gm.toNat, f.data.steps.toNat, f.master.toNat]

def lexLt : List Nat → List Nat → Bool
  | a :: x, b :: y => if a < b then true else if b < a then false else lexLt x y
  | _, _ => false

/-- `a` goes before `b`: of one grandmaster, by steps removed and sender. -/
def betterMaster (a b : Foreign) : Bool :=
  if a.data.gm = b.data.gm then
    lexLt [a.data.steps.toNat, a.master.toNat] [b.data.steps.toNat, b.master.toNat]
  else lexLt (rankOf a) (rankOf b)

/-- Qualified masters have announced themselves twice. -/
def bestMaster (l : List Foreign) : Option Foreign :=
  (l.filter fun f => decide (2 ≤ f.count)).foldl
    (fun best f => match best with
      | none => some f
      | some b => if betterMaster f b then some f else some b) none

/-- Selects the best master of a domain; with none left the base loses its reference. -/
def selectMaster (d : Nat) (s : State) : State :=
  let p := ptpOf s d
  match bestMaster p.masters with
  | none =>
    let s := setPtp s d { p with sel := none, wait := none, ms := none }
    refLost (d + 1) (setFld s (Reg.TIME_PTP_STAT_PORT_STATE d) 4)
  | some f =>
    let s := setFld (setReg s (Reg.TIME_PTP_GM d) f.data.gm) (Reg.TIME_PTP_STAT_GM_CLASS d) f.data.clockClass.toNat
    if p.sel = some f.master then s else
    let s := setPtp s d { p with sel := some f.master, wait := none, ms := none }
    setFld s (Reg.TIME_PTP_STAT_PORT_STATE d) 8

/-- ANNOUNCE: the master's data set is kept and the best master selected. -/
def announceSeen (d : Nat) (m : AnnounceMsg) (s : State) : State :=
  if 255 ≤ m.steps.toNat then ptpBad d s else
  let p := ptpOf s d
  let n := ((p.masters.find? fun f => decide (f.master = m.master)).map Foreign.count).getD 0
  let l := ⟨m.master, m, min 2 (n + 1)⟩ :: p.masters.filter fun f => decide (f.master ≠ m.master)
  let s := setPtp s d { p with masters := l }
  if (bestMaster l).isSome then selectMaster d s else s

/-- ANNOUNCE_RECEIPT_TIMEOUT: the selected master is gone (R451). -/
def announceTimeout (d : Nat) (s : State) : State :=
  let p := ptpOf s d
  let l := p.masters.filter fun f => decide (some f.master ≠ p.sel)
  selectMaster d (incSat (setPtp s d { p with masters := l }) (Reg.TIME_PTP_CNT_TIMEOUT d) 1)

/-- Records a mean path delay, in 2^-16 ns. -/
def setMpd (d : Nat) (x : Int) (s : State) : State :=
  setSat (setPtp s d { ptpOf s d with mpd := x, asked := none }) (Reg.TIME_PTP_STAT_MPD d) (x / 65536).toNat

/-- PTP_DELAY_RESP: end-to-end with the last Sync, or peer-to-peer (R449). -/
def delayRespSeen (d : Nat) (m : DelayRespMsg) (s : State) : State :=
  let p := ptpOf s d
  if decide (p.asked ≠ some m.seq.toNat) then s
  else if flag s (Reg.TIME_PTP_CFG_P2P d) then
    setMpd d (wrapDiff (rxStamp s m.t4 - txStamp s m.t3 - m.corr) / 2) s
  else if decide (p.sel ≠ some m.master) then s
  else match p.ms with
    | some ms => setMpd d ((ms + wrapDiff (((m.t4 * 65536 : Nat) : Int) - txStamp s m.t3 - m.corr)) / 2) s
    | none => s

/-- Kinds of PTP message sent. -/
def ptpDelayReqKind : Nat := 1
def ptpPdelayReqKind : Nat := 2
def ptpPdelayRespKind : Nat := 3

/-- PTP_DELAY_REQ_TIMER: Delay_Req to the selected master, or Pdelay_Req to the peer. -/
def delayReqTimer (d : Nat) (s : State) : State :=
  let p := ptpOf s d
  let q := (p.seq + 1) % 65536
  if flag s (Reg.TIME_PTP_CFG_P2P d) then
    emit (setPtp s d { p with seq := q, asked := some q }) (.ptp d ptpPdelayReqKind q 0)
  else if p.sel.isSome then
    emit (setPtp s d { p with seq := q, asked := some q }) (.ptp d ptpDelayReqKind q 0)
  else s

/-- PTP_PDELAY_REQ: answered with the turnaround where the domain is peer-to-peer; ignored elsewhere.
Both timestamps carry the compensation of R450. -/
def pdelayReq (d : Nat) (seq : BitVec 16) (rx tx : Nat) (s : State) : State :=
  if flag s (Reg.TIME_PTP_CFG_P2P d) then
    emit s (.ptp d ptpPdelayRespKind seq.toNat (txStamp s tx - rxStamp s rx).toNat)
  else ptpBad d s

/-! ### SYNC_IN (R443, R556) -/

def syncPeriod (s : State) : Nat := fld s Reg.TIME_SYNC_PERIOD

/-- `t` is one period after `o`, within 2 µs. -/
def onPeriod (s : State) (o t : Nat) : Bool :=
  decide (o + syncPeriod s ≤ t + 2000) && decide (t ≤ o + syncPeriod s + 2000)

/-- A qualified edge: TB0's offset from the nearest whole multiple of PERIOD. -/
def syncOffset (s : State) : Int :=
  let p : Int := (syncPeriod s * 2 ^ 40 : Nat)
  let x := fullOf s 0 % p
  (if 2 * x < p then -x else p - x) / 2 ^ 24

/-- SYNC_IN_EDGE. Without a qualified edge to go by, any earlier edge that was not ignored for its period may lie one PERIOD
before (R556). -/
def syncEdge (s : State) : State :=
  let t := s.ns
  let p := syncPeriod s
  let l := recentEdges s inSync p
  let before := if s.time.syncBad.isNone then s.time.syncPrev else []
  let s := setInput s inSync { inputOf s inSync with edges := l }
  let s := if 2 < l.length then
      inputFault inSync 4 { s with time := { s.time with syncBad := some t } }
    else if (s.time.syncBad.map fun b => decide (b + p ≤ t)).getD false then
      { s with time := { s.time with syncBad := none } }
    else s
  let good := s.time.syncBad.isNone &&
    match s.time.syncGood with
    | some g => onPeriod s g t
    | none => before.any fun e => onPeriod s e t
  let s := { s with time := { s.time with syncPrev := t :: before.filter fun e => decide (t ≤ e + p + 2000) } }
  if !good then incSat s ⟨Reg.MGMT_IN_STAT, 31, 16⟩ 1 else
  let s := { s with time := { s.time with syncGood := some t } }
  if flag s Reg.TIME_CFG_SYNC_DISC && decide (p ≠ 0) then
    offsetSeen 0 (syncOffset s) (100 * 65536 + 1) 3 s
  else s

/-- SYNC_LOSS: qualification restarts; TB0 loses its reference. -/
def syncLoss (s : State) : State :=
  if s.time.syncGood = none then s else
  let s := inputFault inSync 3 { s with time := { s.time with syncGood := none, syncPrev := [] } }
  if flag s Reg.TIME_CFG_SYNC_DISC then refLost 0 s else s

end Sys2Proof.Machine
end

