-- ==== Sys2Proof/Machine/Chain.lean ====
section
/-! DEFINITION. Chain ports, addressing, lane delays and the beacon (R457 to R471). Broadcasts stand in
Machine/Broadcast.lean. Port 0 is UP, port 1 is DN. -/

namespace Sys2Proof.Machine

def evChainAddr : Nat := 228
def evChainLink : Nat := 229
def evChainBeaconLoss : Nat := 231

/-! ### Ports and lanes (R458, R459) -/

def portOf (s : State) (p : Nat) : ChainPort := tblGet {} s.chain.ports p
def setPort (s : State) (p : Nat) (x : ChainPort) : State :=
  { s with chain := { s.chain with ports := tblSet {} s.chain.ports p x } }

/-- Chain ports are off with ROLE NONE (R461). -/
def chainOn (s : State) : Bool := decide (fld s Reg.CHN_CFG_ROLE ≠ 0) && decide (lamp s ≠ .off)
def isHead (s : State) : Bool := flag s Reg.CHN_STAT_HEAD
def portState (s : State) (p : Nat) : Nat := fld s (Reg.CHN_PORT_STAT_STATE p)
def portUp (s : State) (p : Nat) : Bool := decide (portState s p = 2)
def goodLanes (s : State) (p : Nat) : Nat := fld s (Reg.CHN_PORT_STAT_GOOD p)

/-- Raises CHAIN_LINK; DOWN, LANE_FAIL and MISWIRE are errors (Table 18-1). The unit is the CHN block. -/
def chainLink (p cause lane : Nat) (s : State) : State :=
  let c : List Cap := [(8, p), (8, cause), (8, lane), (8, fld s (Reg.CHN_PORT_STAT_WIDTH p))]
  if cause = 2 ∨ cause = 3 ∨ cause = 5 then raiseErr unitChn 0 evChainLink cause c s
  else raise evChainLink c s

/-- The lane an input shows, and the PORT field beside it. -/
def seenLane (x : ChainPort) (j : Nat) : Option Nat :=
  let v := tblGet 0 x.seen j
  if v = 0 then none else some ((v - 1) % 4)
def seenPort (x : ChainPort) (j : Nat) : Option Nat :=
  let v := tblGet 0 x.seen j
  if v = 0 then none else some ((v - 1) / 4)

/-- The input that carries logical lane `i`. -/
def inputFor (x : ChainPort) (i : Nat) : Option Nat := (List.range 4).find? fun j => decide (seenLane x j = some i)

/-- UP arrives on UP, DN on DN, or two inputs report one lane (R458). -/
def miswired (x : ChainPort) (p : Nat) : Bool :=
  (List.range 4).any fun j =>
    decide (seenPort x j = some p) ||
    (decide (seenLane x j ≠ none) && (List.range j).any fun k => decide (seenLane x k = seenLane x j))

/-- This unit's good receive lanes: block lock, and no wait after a failure. -/
def rxGood (x : ChainPort) : Nat :=
  ((List.range 4).filter fun i => (inputFor x i).isSome && !x.failed.contains i).foldl (fun v i => v + 2 ^ i) 0

/-- Width for a number of good lanes. -/
def widthOf (n : Nat) : Nat := if n = 4 then 4 else if 2 ≤ n then 2 else n

/-- The lanes in use: the lowest-numbered good ones, as many as the width (R459). -/
def usedLanes (s : State) (p : Nat) : List Nat :=
  ((List.range 4).filter fun i => bitOf (goodLanes s p) i).take (fld s (Reg.CHN_PORT_STAT_WIDTH p))

/-- Lanes of a port whose transmitters' clock runs: XPLL outputs 0 to 3 for UP, 4 to 7 for DN (Table 15-2). -/
def clockedLanes (s : State) (p : Nat) (lanes : List Nat) : List Nat := lanes.filter fun i => clkRuns s 4 (4 * p + i)

/-- Blocks go out on lanes of a port, those that are clocked. -/
def chainEmit (p : Nat) (lanes : List Nat) (type payload : Nat) (data : Bytes) (s : State) : State :=
  let l := clockedLanes s p lanes
  if l = [] then s else emit s (.chain p l type payload data)

/-- A message goes on every lane in use (R460). -/
def chainSend (p type payload : Nat) (data : Bytes) (s : State) : State := chainEmit p (usedLanes s p) type payload data s

/-- CTRAIN of a lane as this unit sends it (Table 14-4). -/
def ctrainBlock (s : State) (p i : Nat) : Nat :=
  0x60 + i * 2 ^ 8 + p * 2 ^ 16 + fld s Reg.CHN_CFG_GEN * 2 ^ 17

/-- CTRAIN goes out on lanes of a port (R458, R459). -/
def sendCtrain (p : Nat) (lanes : List Nat) (s : State) : State :=
  forAll lanes (fun i s => chainEmit p [i] 0x60 (ctrainBlock s p i) [] s) s

/-- Starts a delay measurement of UP lane `i` (R466). -/
def measureLane (i : Nat) (s : State) : State :=
  let t := tblSet {} s.chain.delays i { seq := 0, count := 0, sum := 0 }
  chainEmit 0 [i] 0x63 0x63 [] { s with chain := { s.chain with delays := t } }

/-- CHN_CTRL.REMEASURE reads 1 until every good UP lane has its 256 exchanges (R6, R466). -/
def fixMeasure (s : State) : State :=
  if flag s Reg.CHN_CTRL_REMEASURE &&
      (List.range 4).all fun i => !bitOf (goodLanes s 0) i || decide (256 ≤ (tblGet {} s.chain.delays i).count) then
    setFld s Reg.CHN_CTRL_REMEASURE 0
  else s

/-- GOOD, WIDTH, BLANE and STATE of a port follow its lanes; lanes that are good no longer carry CTRAIN again, as all do in
MISWIRE; a member measures lanes that have become good on UP (R458, R459, R466). `lane` is the lane whose change brought
this. -/
def portFix (p lane : Nat) (s : State) : State :=
  let x := portOf s p
  let was := goodLanes s p
  let old := portState s p
  let bad := miswired x p
  let good := if bad then 0 else Nat.land (rxGood x) x.partner
  let s := setFld (setFld s (Reg.CHN_PORT_STAT_GOOD p) good) (Reg.CHN_PORT_STAT_WIDTH p) (widthOf (popcount good 4))
  let s := setFld s (Reg.CHN_PORT_STAT_BLANE p) ((lowestBit good 4).getD 0)
  let s := setFld s (Reg.CHN_PORT_STAT_STATE p)
    (if bad then 3 else if good ≠ 0 then 2 else if old = 2 ∧ x.seen = [] then 0 else if old = 0 then 0 else 1)
  let s := if bad && decide (old ≠ 3) then chainLink p 5 lane s else s
  let s := if !bad && decide (good ≠ 0) && decide (old ≠ 2) then
      chainLink p 1 ((lowestBit good 4).getD 0) { s with chain := { s.chain with upSeen := s.chain.upSeen || decide (p = 0) } }
    else s
  let s := if !bad && decide (good = 0) && decide (old = 2) then
      chainLink p 2 lane (setFld s (Reg.CHN_PORT_STAT_STATE p) 0) else s
  let s := sendCtrain p ((List.range 4).filter fun i => (bad && decide (old ≠ 3)) || (bitOf was i && !bitOf good i)) s
  if p = 0 ∧ !isHead s then
    fixMeasure (forAll ((List.range 4).filter fun i => bitOf good i && !bitOf was i) measureLane s)
  else s

/-- A CTRAIN that an input in lock delivers shows its lane (R458). -/
def ctrainSeen (p input : Nat) (payload : Nat) (s : State) : State :=
  let x := portOf s p
  let lane := bitsOf payload 8 2
  let s := setPort s p { x with seen := tblSet 0 x.seen input (1 + lane + 4 * bitsOf payload 16 1) }
  let s := setFld s ⟨Reg.CHN_PORT_STAT p, 22 + 3 * lane, 20 + 3 * lane⟩ input
  let s := if portState s p = 0 then setFld s (Reg.CHN_PORT_STAT_STATE p) 1 else s
  portFix p lane s

/-- A block that is not IDLE ends the freeze of the inputs it arrives on (R263). -/
def chainThaw (p : Nat) (inputs : List Nat) (s : State) : State :=
  let x := portOf s p
  setPort s p { x with frozen := x.frozen.filter fun j => !inputs.contains j }

/-- Inputs of the lanes in use. -/
def usedInputs (s : State) (p : Nat) : List Nat := (usedLanes s p).filterMap (inputFor (portOf s p))

/-- The inputs of the lanes in use, as a list of messages on every one of them ends their freeze (R460). -/
def messageThaw (p : Nat) (s : State) : State := chainThaw p (usedInputs s p) s

/-- A lane in use or good fails: counted, told with the width that remains, and out of use until it has held lock for 1 s
(R459). The port's record already shows the loss. -/
def laneLost (p i : Nat) (s : State) : State :=
  let s := setPort (incSat s Reg.CHN_CNT_LANE_FAIL 1) p { portOf s p with failed := setInsert i (portOf s p).failed }
  let good := Nat.land (rxGood (portOf s p)) (portOf s p).partner
  chainLink p 3 i (setFld s (Reg.CHN_PORT_STAT_WIDTH p) (widthOf (popcount good 4)))

/-- CSTAT, on every lane (R460): the partner's good lanes. A good lane that the partner no longer receives fails (R459). -/
def cstat (p payload : Nat) (s : State) : State :=
  let s := chainThaw p (List.range 4) s
  let was := goodLanes s p
  let r := bitsOf payload 8 4
  let s := setPort s p { portOf s p with partner := r }
  let lost := (List.range 4).filter fun i => bitOf was i && !bitOf r i
  portFix p (lost.headD ((lowestBit r 4).getD 0)) (forAll lost (fun i s => laneLost p i s) s)

/-- The CSTAT this unit sends on a port (Table 14-4). -/
def cstatBlock (s : State) (p : Nat) : Nat :=
  0x61 + rxGood (portOf s p) * 2 ^ 8 + fld s Reg.CHN_STAT_ADDR * 2 ^ 16 + b2n (isHead s) * 2 ^ 24

/-- CSTAT_TIMER: CSTAT goes on every lane (R460); a port in MISWIRE carries none. -/
def cstatTimer (s : State) : State :=
  forAll [0, 1] (fun p s =>
    if portState s p = 3 then s else chainEmit p (List.range 4) 0x61 (cstatBlock s p) [] s) s

/-- A lane of a port fails and retrains (R459). -/
def laneFail (p i : Nat) (s : State) : State :=
  let x := portOf s p
  match inputFor x i with
  | none => s
  | some j =>
    portFix p i (laneLost p i (setPort s p { x with seen := tblSet 0 x.seen j 0, rx := tblSet {} x.rx j {} }))

/-- An input hears blocks while its port trains: its polarity, as R245 finds that of return lanes, and the lane that the
last CTRAIN shows (R458). An input that loses block lock takes its lane with it (R459). -/
def ctrain (p input : Nat) (heard : List RxBlock) (s : State) : State :=
  let x := portOf s p
  let y := hearAll chainType (tblGet {} x.rx input) heard
  let s := setPort s p { x with rx := tblSet {} x.rx input y.1 }
  let s := if y.2.all rxIdle then s else chainThaw p [input] s
  if !y.1.lock then
    match seenLane x input with
    | some i => laneFail p i s
    | none => s
  else
    let s := setFld s ⟨Reg.CHN_PORT_STAT p, 16 + input, 16 + input⟩ (b2n y.1.inv)
    match y.2.reverse.find? fun b => rxCtl b && decide (rxType b = 0x60) with
    | some b => ctrainSeen p input b.payload.toNat s
    | none => s

/-- CHAIN_LANE_RETURN: a failed lane has held block lock for 1 s. -/
def laneReturn (p i : Nat) (s : State) : State :=
  let x := portOf s p
  if x.failed.contains i && (inputFor x i).isSome then
    let s := portFix p i (setPort s p { x with failed := setErase i x.failed })
    chainLink p 4 i s
  else s

/-- A port starts training on every lane. -/
def portTrain (p : Nat) (s : State) : State :=
  sendCtrain p (List.range 4) (setFld (setReg (setPort s p {}) (Reg.CHN_PORT_STAT p) 0) (Reg.CHN_PORT_STAT_STATE p) 1)

/-- The XPLL is back: from step 11 on, lanes that are not good carry CTRAIN again. -/
def chainLanesBack (s : State) : State :=
  if chainOn s && decide (11 ≤ fld s Reg.STR_STAT_STEP) then
    forAll [0, 1] (fun p s => sendCtrain p ((List.range 4).filter fun i => !bitOf (goodLanes s p) i) s) s
  else s

/-- Every input of both ports loses its lock: the XPLL is gated (Table 15-3). -/
def chainLanesFail (s : State) : State :=
  forAll [0, 1] (fun p s => forAll (List.range 4) (fun i s => laneFail p i s) s) s

/-! ### Addressing (R461 to R465) -/

/-- This unit's offer: the head 2, an addressed unit its address plus 1, another the offer received. -/
def offerTx (s : State) : Nat :=
  if isHead s then 2
  else if fld s Reg.CHN_STAT_ADDR ≠ 0 then fld s Reg.CHN_STAT_ADDR + 1
  else fld s Reg.CHN_STAT_OFFER_RX

def fixOffer (s : State) : State := setFld s Reg.CHN_STAT_OFFER_TX (offerTx s)

/-- This unit becomes chain head, with address 1; TB3 copies its source from now on. -/
def becomeHead (absent : Bool) (s : State) : State :=
  let s := setFld (setFld s Reg.CHN_STAT_HEAD 1) Reg.CHN_STAT_ABSENT (b2n absent)
  cmpSweep (fixTb3 (fixOffer (setFld s Reg.CHN_STAT_ADDR 1)))

/-- Cause and address an offer gives this unit (R462 to R464). -/
def offerOutcome (s : State) (offer : Nat) : Nat × Nat :=
  let pin := fld s Reg.CHN_PIN_PIN
  if offer = 255 then (3, 0)
  else if pin = 0 then (1, offer)
  else if offer ≤ pin then (1, pin)
  else (2, 0)

/-- Takes an offer; CHAIN_ADDR is raised when it changes anything, for a head by absence with REHEAD, and with ORDER or
EXHAUSTED where the offer leaves it unaddressed (R461 to R464). -/
def takeOffer (offer : Nat) (rehead : Bool) (s : State) : State :=
  let o := offerOutcome s offer
  let s := setFld s Reg.CHN_STAT_OFFER_RX offer
  let s := fixOffer (setFld s Reg.CHN_STAT_ADDR o.2)
  if rehead then
    let s := raise evChainAddr [(8, 4), (8, o.2), (8, offer)] { s with chain := { s.chain with outcome := o } }
    if o.1 = 1 then s else raise evChainAddr [(8, o.1), (8, o.2), (8, offer)] s
  else if s.chain.outcome = o then s
  else raise evChainAddr [(8, o.1), (8, o.2), (8, offer)] { s with chain := { s.chain with outcome := o } }

/-- A head by absence is head no more: its TB3 runs on at its rate until it follows the beacon (R461). -/
def leaveHead (s : State) : State :=
  let r := rateOf s 3
  let s := setFld (setFld s Reg.CHN_STAT_HEAD 0) Reg.CHN_STAT_ABSENT 0
  let s := if s.time.handTb3 then setHandD s 0 else s
  let t := s.time
  let s := { s with time := { t with servo := tblSet 0 t.servo 3 r, slew := tblSet 0 t.slew 3 0,
                                     lockRun := tblSet 0 t.lockRun 3 0 } }
  if tbState s 3 = tbFree then s else setTbState s 3 tbAcquiring

/-- ADDR_OFFER received on UP. -/
def addrOffer (offer : Nat) (s : State) : State :=
  if isHead s then
    if flag s Reg.CHN_STAT_ABSENT then
      let s := leaveHead s
      let s := forAll ((List.range 4).filter fun i => bitOf (goodLanes s 0) i) measureLane s
      takeOffer offer true s
    else s
  else takeOffer offer false s

/-- ADDR_OFFER_TIMER: the offer goes out on DN; a unit with none to pass on sends none. -/
def addrOfferTimer (s : State) : State :=
  if portUp s 1 && decide (offerTx s ≠ 0) then chainSend 1 0x62 (0x62 + offerTx s * 2 ^ 8) [] s else s

/-- The chain begins again. SEQ goes on (R473), and broadcasts that were accepted or wait stay. -/
def chainAgain (s : State) : State :=
  let c := s.chain
  { s with chain := { held := c.held, waiting := c.waiting, seq := c.seq } }

/-- Step 11: both ports train; a HEAD, or an AUTO unit whose CHAIN_HEAD ball is high, is head (R461). -/
def chainStart (ball : Bool) (s : State) : State :=
  let s := chainAgain (setFld (setReg s Reg.CHN_STAT 0) Reg.CHN_CTRL_REMEASURE 0)
  if !chainOn s then s else
  let s := portTrain 1 (portTrain 0 s)
  let r := fld s Reg.CHN_CFG_ROLE
  if r = 2 ∨ (r = 1 ∧ ball) then becomeHead false s else s

/-- The pin changes: it takes effect under R463 at once. -/
def pinChanged (v : Nat) (s : State) : State :=
  let s := setFld s Reg.CHN_PIN_PIN v
  if chainOn s && !isHead s && decide (fld s Reg.CHN_STAT_OFFER_RX ≠ 0) then
    takeOffer (fld s Reg.CHN_STAT_OFFER_RX) false s
  else s

/-- CHAIN_PIN (R465). -/
def chainPinRun (j : Job) (d : Bytes) (s : State) : State :=
  let op := dByte d 4
  let a := dByte d 5
  if 1 < op ∨ (op = 0 ∧ (a = 0 ∨ a = 255)) then complete j 0x90 0 0 s
  else
    let v := if op = 0 then a else 0
    nvmWrite (recWrite s recPin (natLe v 1) 3 (.pin j v)) s

def isPinWrite : NvmWhy → Bool
  | .pin _ _ => true
  | _ => false

def cmdChainPin : Cmd where
  op := 0x87
  bodyOk d := if dByte d 4 = 1 then bodyZero d [(4, 4)] else bodyZero d [(4, 5)]
  ready s _ := !nvmHas s isPinWrite
  run := chainPinRun

/-! ### Lane delay (R466) -/

/-- DELAY_RESP on UP lane `i`: one exchange of the 256. A port in MISWIRE carries none (R458). -/
def delayResp (i payload t1 t4 : Nat) (s : State) : State :=
  let r := tblGet {} s.chain.delays i
  if portState s 0 = 3 ∨ bitsOf payload 8 8 ≠ r.seq ∨ 256 ≤ r.count then s else
  let sum := r.sum + ((t4 : Int) - t1 - (bitsOf payload 16 32 : Nat))
  let n := r.count + 1
  let q := (r.seq + 1) % 256
  let s := { s with chain := { s.chain with delays := tblSet {} s.chain.delays i ⟨q, n, sum⟩ } }
  if n = 256 then fixMeasure (setSat s (Reg.CHN_DELAY_PS 0 i) (sum / 512).toNat)
  else chainEmit 0 [i] 0x63 (0x63 + q * 2 ^ 8) [] s

/-- CHN_CTRL.REMEASURE: every UP lane is measured again. -/
def remeasure (s : State) : State :=
  if chainOn s && !isHead s then
    fixMeasure (setFld (forAll ((List.range 4).filter fun i => bitOf (goodLanes s 0) i) measureLane s) Reg.CHN_CTRL_REMEASURE 1)
  else s

/-! ### The beacon (R467 to R471) -/

/-- SLEW this unit applies to TB3, with any it received, as a rate word: what its RATE, clamped, holds beyond the servo's
word (R444, R467). -/
def beaconSlew (s : State) : Int := rateOf s 3 - tblGet 0 s.time.servo (if tb3Copies s then tb3Src s else 3)

/-- HOLD of the beacon sent. -/
def beaconHold (s : State) : Bool :=
  decide (tbState s 3 = tbHoldover) || (tb3Copies s && decide (tbState s (tb3Src s) = tbHoldover)) ||
  (!tb3Copies s && flag s Reg.CHN_BEACON_HOLD)

/-- BEACON at tick `k` on DN, on the beacon lane (R467). -/
def sendBeacon (k : Nat) (s : State) : State :=
  if chainOn s && portUp s 1 then
    let t := totalOf s 3
    let ctrl := 0x65 + k % 2 ^ 16 * 2 ^ 8 + t % 1000000000 * 2 ^ 24
    let hops := if tb3Copies s then 0 else min 255 (fld s Reg.CHN_BEACON_HOPS + 1)
    let d1 := t / 1000000000 % 2 ^ 48 + b2n (beaconHold s) * 2 ^ 48 + hops * 2 ^ 56
    let d2 := ofSigned 32 (beaconSlew s)
    let crc := crc32c (natLe ctrl 8 ++ natLe d1 8 ++ natLe d2 4)
    chainEmit 1 [fld s (Reg.CHN_PORT_STAT_BLANE 1)] 0x65 ctrl (natLe d1 8 ++ natLe d2 4 ++ natLe crc 4) s
  else s

/-- At a tick a member that has heard no beacon since the tick before has missed one (R468, R471). -/
def beaconDue (s : State) : State :=
  if !chainOn s || isHead s then s
  else if s.chain.heard then { s with chain := { s.chain with heard := false } }
  else incSat { s with chain := { s.chain with badRun := s.chain.badRun + 1 } } Reg.CHN_CNT_MISSED 1

/-- TICK_LO against the last tick issued (R470). -/
def beaconTick (lo : Nat) (s : State) : State :=
  let d := sdiff 16 lo (tickCount s)
  if d = 0 then s else
  let due := match s.chain.slipAt with
    | some t => decide (t + 1000000000 ≤ s.ns)
    | none => true
  let s := if due then
      raise evTickSlip [(8, 3), (64, d), (32, (tickCount s : Int))] { s with chain := { s.chain with slipAt := some s.ns } }
    else s
  if isLit s then s else
  let k0 := (((tickK0 s : Int) + d) % (2 ^ 64 : Int)).toNat
  setNextTick (setReg s Reg.TIME_TICK_K0 (BitVec.ofNat 64 k0)) (((s.time.nextTick : Int) + d) % (2 ^ 64 : Int)).toNat

/-- BEACON received on UP (R468): TB3's offset is the beacon's time plus the lane's delay, less TB3. -/
def beacon (m : BeaconMsg) (s : State) : State :=
  let c := m.ctrl.toNat
  let d1 := m.data1.toNat
  let d2 := m.data2.toNat
  if crc32c (natLe c 8 ++ natLe d1 8 ++ natLe d2 4) ≠ bitsOf d2 32 32 then
    incSat { s with chain := { s.chain with badRun := s.chain.badRun + 1, heard := true } } Reg.CHN_CNT_MISSED 1
  else if isHead s then s
  else
    let sec := bitsOf d1 0 48
    let t := sec * 1000000000 + bitsOf c 24 32
    let lane := fld s (Reg.CHN_PORT_STAT_BLANE 0)
    let off : Int := sdiff 64 t (countOf s 3) * 65536 - ((tblGet 0 s.time.frac 3 / 2 ^ 24 : Nat) : Int) +
      ((fld s (Reg.CHN_DELAY_PS 0 lane) * 65536 / 1000 : Nat) : Int)
    let s := setFld (setFld (setFld s Reg.CHN_BEACON_TICK_LO (bitsOf c 8 16)) Reg.CHN_BEACON_HOLD (bitsOf d1 48 1))
      Reg.CHN_BEACON_HOPS (bitsOf d1 56 8)
    let s := setSFld s Reg.CHN_BEACON_OFFSET (off * 1000 / 65536)
    let s := { s with chain := { s.chain with slew := toSigned 32 d2, badRun := 0, heard := true } }
    beaconTick (bitsOf c 8 16) (offsetSeen 3 off (10 * 65536) 2 s)

/-- CHAIN_BEACON_LOSS: three tick intervals without a valid beacon (R471). -/
def beaconLoss (s : State) : State :=
  if isHead s then s else
  let s := incSat { s with chain := { s.chain with badRun := 0 } } Reg.CHN_CNT_MISSED (3 - s.chain.badRun)
  let s := raiseErr unitChn 0 evChainBeaconLoss 0
    [(16, fld s Reg.CHN_BEACON_TICK_LO), (32, (tickCount s : Int))] s
  refLost 3 s

end Sys2Proof.Machine
end

