-- ==== Sys2Proof/Machine/Fp32.lean ====
section
/-! DEFINITION. The fp32 arithmetic of R142 on raw bits: round to nearest, ties to even; subnormal
values are 0; no operation is fused. -/

namespace Sys2Proof.Machine

/-- Raw bits of an fp32 value. -/
abbrev F32 := Nat

def fSign (x : F32) : Bool := decide (2 ^ 31 ≤ x % 2 ^ 32)
def fExp (x : F32) : Nat := x / 2 ^ 23 % 256
def fMan (x : F32) : Nat := x % 2 ^ 23

def fNan : F32 := 0x7FC00000
def fInf (neg : Bool) : F32 := if neg then 0xFF800000 else 0x7F800000
def fZero (neg : Bool) : F32 := if neg then 0x80000000 else 0
def fIsNan (x : F32) : Bool := decide (fExp x = 255) && decide (fMan x ≠ 0)
def fIsInf (x : F32) : Bool := decide (fExp x = 255) && decide (fMan x = 0)
/-- Zero, subnormals included. -/
def fIsZero (x : F32) : Bool := decide (fExp x = 0)

/-- Finite and not NaN. -/
def fFinite (x : F32) : Bool := decide (fExp x ≠ 255)

/-- Significand and exponent of a finite value: it is `sig × 2^(exp - 150)`. -/
def fSig (x : F32) : Int :=
  let m : Int := if fExp x = 0 then 0 else ((2 ^ 23 + fMan x : Nat) : Int)
  if fSign x then -m else m

/-- Rounds `m × 2^e`, with more beyond when `sticky`, to fp32. -/
def fPack (neg : Bool) (m : Nat) (e : Int) (sticky : Bool) : F32 :=
  if m = 0 then fZero neg else
  let n := Nat.log2 m + 1
  let sh := n - 24
  let q0 := if 24 ≤ n then m / 2 ^ sh else m * 2 ^ (24 - n)
  let rem := if 24 < n then m % 2 ^ sh else 0
  let half := if 24 < n then 2 ^ (sh - 1) else 1
  let up := decide (half < rem) || (decide (half = rem) && (sticky || decide (q0 % 2 = 1)))
  let q1 := q0 + b2n up
  let q := if q1 = 2 ^ 24 then 2 ^ 23 else q1
  let ex : Int := e + (n : Int) - 24 + 150 + (if q1 = 2 ^ 24 then 1 else 0)
  if 255 ≤ ex then fInf neg
  else if ex ≤ 0 then fZero neg
  else (if neg then 2 ^ 31 else 0) + ex.toNat * 2 ^ 23 + (q - 2 ^ 23)

/-- An integer as fp32. -/
def fOfInt (i : Int) : F32 := fPack (decide (i < 0)) i.natAbs 0 false

def fNeg (x : F32) : F32 := if fSign x then x % 2 ^ 32 - 2 ^ 31 else x % 2 ^ 32 + 2 ^ 31

def fAdd (a b : F32) : F32 :=
  if fIsNan a || fIsNan b then fNan
  else if fIsInf a then (if fIsInf b && decide (fSign a ≠ fSign b) then fNan else fInf (fSign a))
  else if fIsInf b then fInf (fSign b)
  else
    let e := min (fExp a) (fExp b)
    let v : Int := fSig a * 2 ^ (fExp a - e) + fSig b * 2 ^ (fExp b - e)
    if v = 0 then fZero (fSign a && fSign b)
    else fPack (decide (v < 0)) v.natAbs ((e : Int) - 150) false

def fSub (a b : F32) : F32 := if fIsNan b then fNan else fAdd a (fNeg b)

def fMul (a b : F32) : F32 :=
  let neg := fSign a != fSign b
  if fIsNan a || fIsNan b then fNan
  else if fIsInf a || fIsInf b then (if fIsZero a || fIsZero b then fNan else fInf neg)
  else fPack neg ((fSig a).natAbs * (fSig b).natAbs) ((fExp a : Int) + fExp b - 300) false

def fDiv (a b : F32) : F32 :=
  let neg := fSign a != fSign b
  if fIsNan a || fIsNan b then fNan
  else if fIsInf a then (if fIsInf b then fNan else fInf neg)
  else if fIsInf b then fZero neg
  else if fIsZero b then (if fIsZero a then fNan else fInf neg)
  else
    let x := (fSig a).natAbs * 2 ^ 40
    let y := (fSig b).natAbs
    fPack neg (x / y) ((fExp a : Int) - fExp b - 40) (decide (x % y ≠ 0))

/-- `a < b`; false when either is NaN. -/
def fLt (a b : F32) : Bool :=
  if fIsNan a || fIsNan b then false
  else if fIsInf a then fSign a && !(fIsInf b && fSign b)
  else if fIsInf b then !fSign b
  else
    let e := min (fExp a) (fExp b)
    decide (fSig a * 2 ^ (fExp a - e) < fSig b * 2 ^ (fExp b - e))

def fLe (a b : F32) : Bool := fLt a b || (!fIsNan a && !fIsNan b && !fLt b a)

/-- Rounds to an integer, ties to even; `none` for NaN, and infinities beyond every bound. -/
def fRoundEven (x : F32) : Option Int :=
  if fIsNan x then none
  else if fIsInf x then some (if fSign x then -(2 ^ 200) else 2 ^ 200)
  else
    let s := fSig x
    if 150 ≤ fExp x then some (s * 2 ^ (fExp x - 150))
    else
      let d := 2 ^ (150 - fExp x)
      let m := s.natAbs
      let q := m / d
      let r := m % d
      let q := if d < 2 * r ∨ (2 * r = d ∧ q % 2 = 1) then q + 1 else q
      some (if s < 0 then -(q : Int) else q)

/-- Integer part of a value not below 0. -/
def fFloor (x : F32) : Nat :=
  if fIsNan x || fSign x || fIsInf x then 0
  else if 150 ≤ fExp x then (fSig x).toNat * 2 ^ (fExp x - 150)
  else (fSig x).toNat / 2 ^ (150 - fExp x)

/-- A subnormal input reads as 0. -/
def fIn (x : F32) : F32 := if fExp x = 0 then fZero (fSign x) else x % 2 ^ 32

end Sys2Proof.Machine
end

