-- ==== Sys2Proof/Machine/Wln.lean ====
section
/-! DEFINITION. Wick lanes: training (R250 to R257), return lanes (R243 to R248), relock (R258 to
R262), receive adaptation (R263) and the WICK_n events (R264). -/

namespace Sys2Proof.Machine

/-! ### Groups and wicks -/

/-- A group in use (R232). -/
def groupOn (s : State) (g : Nat) : Bool := decide (g < 24) && decide (fld s (Reg.WLN_GCFG_GEN g) ≠ 0)

/-- Training state of a group (Table 8-6): 0 DOWN, 1 ACQ, 2 IDENT, 3 VERIFY, 4 UP, 5 FAILED. -/
def groupState (s : State) (g : Nat) : Nat := fld s (Reg.WLN_GSTAT_STATE g)
def groupUp (s : State) (g : Nat) : Bool := decide (groupState s g = 4)

/-- A group trains. -/
def training (s : State) (g : Nat) : Bool := decide (1 ≤ groupState s g ∧ groupState s g ≤ 3)

/-- RETRAIN of a group and TRAIN read 1 while what they started runs (R6). -/
def fixTrain (g : Nat) (s : State) : State :=
  if training s g then s else
  let s := setFld s (Reg.WLN_GCFG_RETRAIN g) 0
  if flag s Reg.WLN_CTRL_TRAIN && !groups.any (training s) then setFld s Reg.WLN_CTRL_TRAIN 0 else s

/-- Moves a group; WLN_UP follows, and reports start afresh. -/
def setGroup (s : State) (g v : Nat) : State :=
  let w := { (tblGet {} s.wln.groups g : WlnGroup) with status := false, order := false }
  let s := { s with wln := { s.wln with groups := tblSet {} s.wln.groups g w } }
  fixTrain g (setFld (setFld s (Reg.WLN_GSTAT_STATE g) v) ⟨Reg.WLN_UP, g, g⟩ (b2n (decide (v = 4))))

/-- State of a wick: 0 down, 1 up, 2 relocking, 3 map mismatch. -/
def wickState (s : State) (n : Nat) : Nat := fld s (Reg.WLN_W_STAT_STATE n)

/-- Lantern that the crossbar in force names for a quad; 0x3F for none (R196). -/
def xbarCur (s : State) (q : Nat) : Nat := fld s (Reg.LANT_XBAR_CUR_LANTERN (q / 4) (q % 4))

/-- The quad's wicks are exempt in row `r`: after a fault until the spare joins, or while no lantern
is mapped (R198, R200, R202). -/
def quadExempt (s : State) (q r : Nat) : Bool :=
  let x := tblGet {} s.scan.quads q
  match x.hold with
  | some h => decide (h ≤ r) && (decide (xbarCur s q = 0x3F) || decide (r < x.join))
  | none => decide (xbarCur s q = 0x3F)

/-- Exemption of a wick in row `r`, as SCAN_W_STAT.STATE codes it; 1 where it sends (R50). -/
def wickExempt (s : State) (n r : Nat) : Nat :=
  if !groupUp s (n / 8) then 4
  else if wickState s n = 2 ∨ wickState s n = 3 then 2
  else if quadExempt s (n / 4) r then 3 else 1

/-- SCAN_W_STAT.STATE of a wick follows while the raster runs. -/
def fixWick (n : Nat) (s : State) : State :=
  if flag s Reg.SCAN_STAT_RUN && wickInUse s n then setFld s (Reg.SCAN_W_STAT_STATE n) (wickExempt s n s.scan.nextRow)
  else s

/-- The eight wicks of a group. -/
def groupWicks (g : Nat) : List Nat := (List.range 8).map fun i => 8 * g + i

/-- Output that carries logical lane `i` of a group. -/
def outOf (s : State) (g i : Nat) : Nat := bitsOf (fld s (Reg.WLN_GMAP_OUT g)) (3 * i) 3

/-- OUT and INV of a group's wicks follow its map and inversion (R252). -/
def fixOuts (g : Nat) (s : State) : State :=
  forAll (List.range 8) (fun i s =>
    let o := outOf s g i
    setFld (setFld s (Reg.WLN_W_STAT_OUT (8 * g + i)) o) (Reg.WLN_W_STAT_INV (8 * g + i))
      (b2n (bitOf (fld s (Reg.WLN_GPOL_TXINV g)) o))) s

/-- Low 32 bits of the scan frame number (R205). -/
def frameNo (s : State) : Nat := s.scan.frame % 2 ^ 32

/-- Causes of WICK_n that are errors (Table 18-1). -/
def wickErr (cause : Nat) : Bool := [1, 3, 4, 5, 7, 8, 9, 10].contains cause

/-- Raises WICK_n with its cause, group, output, row and scan frame (R264). -/
def wickEvent (n cause : Nat) (s : State) : State :=
  let cs : List Cap := [(8, cause), (8, ((n / 8 : Nat) : Int)), (8, outOf s (n / 8) (n % 8)),
    (16, fld s (Reg.SCAN_W_STAT_ROW n)), (32, frameNo s)]
  if wickErr cause then raiseErr unitWln n n cause cs s else raise n cs s

/-! ### Blocks -/

/-- TRAIN of an output (Table 8-2). -/
def trainBlock (s : State) (g i verify : Nat) : Nat :=
  0x50 + (8 * g + i) * 2 ^ 8 + i * 2 ^ 16 + verify * 2 ^ 19 + g * 2 ^ 24 + fld s (Reg.WLN_GSTAT_PRESET g) * 2 ^ 29 +
    fld s (Reg.WLN_GCFG_GEN g) * 2 ^ 32

/-- The cause that BLANK carries now, if BLANK replaces every block (R242, R538). -/
def blankCause (s : State) : Option Nat :=
  if lowPath s ≠ 0 then some (lowPath s)
  else if flag s Reg.SCAN_STAT_RUN && (s.orderly.map Orderly.blanking).getD false then some 0 else none

/-- A lane trains or relocks: TRAIN, or BLANK in its place, while its clock runs (R242, R258, R482). -/
def sendTrain (g i verify : Nat) (s : State) : State :=
  if !laneSends s (8 * g + i) then s else
  match blankCause s with
  | some c => emit s (.wickCtl (8 * g + i) 0x40 (blankBlock (8 * g + i) c))
  | none => emit s (.wickCtl (8 * g + i) 0x50 (trainBlock s g i verify))

def sendTrains (g verify : Nat) (s : State) : State := forAll (List.range 8) (fun i s => sendTrain g i verify s) s

/-! ### Training (R250 to R256) -/

/-- The identity map. -/
def idMap : Nat := 0xFAC688

/-- No preset changes while SNUFFED (R242). -/
def presetsHeld (s : State) : Bool := decide (lamp s = .snuffed)

/-- An attempt begins in ACQ with the identity map, no inversion and the preset of WLN_GCFG (R254, R257). While SNUFFED the
change waits (R242). -/
def startAttempt (g : Nat) (s : State) : State :=
  let held := presetsHeld s
  let s := { s with wln := { s.wln with groups := tblSet {} s.wln.groups g { presetHeld := held } } }
  let s := setGroup s g 1
  let s := setSat s (Reg.WLN_GSTAT_ATTEMPT g) (fld s (Reg.WLN_GSTAT_ATTEMPT g) + 1)
  let s := if held then s else setFld s (Reg.WLN_GSTAT_PRESET g) (fld s (Reg.WLN_GCFG_PRESET g))
  let s := setFld (setFld s (Reg.WLN_GMAP_OUT g) idMap) (Reg.WLN_GPOL_TXINV g) 0
  let s := forAll (groupWicks g) (fun n s => fixWick n (setFld s (Reg.WLN_W_STAT_STATE n) 0)) (fixOuts g s)
  sendTrains g 0 s

/-- A wick's table transfer begins again from address 0; a relock is no attempt (R168). -/
def uniRestart (n : Nat) (s : State) : State :=
  match s.rmap.push with
  | some p =>
    let es := p.entries.map fun e => if e.wick = n ∧ e.phase < 2 then { e with sent := 0, phase := 0 } else e
    { s with rmap := { s.rmap with push := some { p with entries := es } } }
  | none => s

/-- Training of a group starts (R251). -/
def startTraining (g : Nat) (s : State) : State :=
  if groupOn s g then
    let s := forAll (groupWicks g) uniRestart s
    startAttempt g (setFld s (Reg.WLN_GSTAT_ATTEMPT g) 0)
  else s

/-- An attempt fails: the next one, or FAILED with TRAIN_FAIL for each wick (R254). -/
def attemptFailed (g : Nat) (s : State) : State :=
  if fld s (Reg.WLN_GSTAT_ATTEMPT g) < max 1 (fld s Reg.WLN_TRAIN_CFG_ATTEMPTS) then startAttempt g s
  else
    let s := setGroup s g 5
    let s := setFld (setFld s (Reg.WLN_GMAP_OUT g) idMap) (Reg.WLN_GPOL_TXINV g) 0
    forAll (groupWicks g) (fun n s => wickEvent n 4 s) (sendTrains g 0 (fixOuts g s))

/-- A preset request is applied once per attempt, not while SNUFFED (R242, R253). -/
def presetRequest (g : Nat) (s : State) : State :=
  let st := (reg s (Reg.WLN_GSTATUS g)).toNat
  let w := tblGet {} s.wln.groups g
  let s := { s with wln := { s.wln with groups := tblSet {} s.wln.groups g { w with eqDone := true } } }
  sendTrains g 0 (setFld s (Reg.WLN_GSTAT_PRESET g) (bitsOf st 52 3))

/-- The last reports of a group. -/
def repLock (s : State) (g : Nat) : Nat := bitsOf (reg s (Reg.WLN_GSTATUS g)).toNat 8 8
def repPol (s : State) (g : Nat) : Nat := bitsOf (reg s (Reg.WLN_GSTATUS g)).toNat 16 8
def repReq (s : State) (g : Nat) : Bool := bitOf (reg s (Reg.WLN_GSTATUS g)).toNat 55
def repOrder (s : State) (g i : Nat) : Nat := bitsOf (reg s (Reg.WLN_GORDER g)).toNat (3 * i + 8) 3
def repGroup (s : State) (g : Nat) : Nat := bitsOf (reg s (Reg.WLN_GORDER g)).toNat 32 5
def repValid (s : State) (g : Nat) : Nat := bitsOf (reg s (Reg.WLN_GORDER g)).toNat 40 8

/-- Every output is named once. -/
def orderPerm (s : State) (g : Nat) : Bool :=
  (List.range 8).all fun o => (List.range 8).any fun i => decide (repOrder s g i = o)

/-- ORDER is the identity. -/
def orderId (s : State) (g : Nat) : Bool := (List.range 8).all fun i => decide (repOrder s g i = i)

/-- A LANE_ORDER that fails the attempt at once: another GROUP, an output named twice with VALID 0xFF, or in VERIFY an
ORDER that is not the identity (R254). -/
def orderFails (s : State) (g : Nat) : Bool :=
  (tblGet {} s.wln.groups g).order &&
  (decide (repGroup s g ≠ g) || (decide (repValid s g = 0xFF) && !orderPerm s g) ||
   (decide (groupState s g = 3) && !orderId s g))

/-- Entry to VERIFY: the map and the inversion come from the last reports (R252). -/
def enterVerify (g : Nat) (s : State) : State :=
  let map := ((List.range 8).map fun i => repOrder s g i * 2 ^ (3 * i)).sum
  let inv := ((List.range 8).map fun i => if bitOf (repPol s g) i then 2 ^ repOrder s g i else 0).sum
  let s := setGroup s g 3
  sendTrains g 1 (fixOuts g (setFld (setFld s (Reg.WLN_GMAP_OUT g) map) (Reg.WLN_GPOL_TXINV g) inv))

/-- The group is UP; while lit each wick rejoins with RESUME (R255). -/
def enterUp (g : Nat) (s : State) : State :=
  let s := setGroup s g 4
  forAll (groupWicks g) (fun n s =>
    let s := setFld s (Reg.WLN_W_STAT_STATE n) 1
    let s := if isLit s then { s with wln := { s.wln with resume := setInsert n s.wln.resume } } else s
    fixWick n s) s

/-- The reports of a group in IDENT (Table 8-6, R253). -/
def identStep (g : Nat) (s : State) : State :=
  let w := tblGet {} s.wln.groups g
  if repReq s g && w.status && flag s (Reg.WLN_GCFG_EQ_REQ_EN g) && !w.eqDone && !presetsHeld s then
    presetRequest g s
  else if w.status && w.order && decide (repLock s g = 0xFF) && decide (repValid s g = 0xFF) &&
      decide (repGroup s g = g) && orderPerm s g then enterVerify g s
  else s

/-! ### Relock (R258 to R261) -/

/-- One wick of a group that is UP meets the last reports. -/
def relockWick (g i : Nat) (s : State) : State :=
  let n := 8 * g + i
  let lock := bitOf (repLock s g) i
  let pol := bitOf (repPol s g) i
  let valid := bitOf (repValid s g) i
  if wickState s n = 1 ∧ !lock then
    let s := setFld s (Reg.WLN_W_STAT_STATE n) 2
    let s := { s with wln := { s.wln with lostAt := tblSet 0 s.wln.lostAt n s.ns, resume := setErase n s.wln.resume } }
    sendTrain g i 1 (wickEvent n 1 (uniRestart n (fixWick n s)))
  else if wickState s n = 2 ∧ lock then
    if pol ∨ (valid ∧ repOrder s g i ≠ i) then wickEvent n 5 (setFld s (Reg.WLN_W_STAT_STATE n) 3)
    else if valid then
      let s := setFld s (Reg.WLN_W_STAT_STATE n) 1
      let s := setSat s (Reg.WLN_W_STAT_LAST n) ((s.ns - tblGet 0 s.wln.lostAt n) / 1000)
      let s := incSat s (Reg.WLN_W_RELOCK_COUNT n) 1
      let c := satAdd 32 (tblGet 0 s.log.relocks n) 1
      let s := { s with wln := { s.wln with resume := setInsert n s.wln.resume },
                        log := { s.log with relocks := tblSet 0 s.log.relocks n c } }
      wickEvent n 2 (fixWick n s)
    else s
  else s

/-- The last reports of a group act (R250, R254, R258 to R261). -/
def groupReact (g : Nat) (s : State) : State :=
  let st := groupState s g
  if st = 4 then forAll (List.range 8) (fun i s => relockWick g i s) s
  else if 1 ≤ st ∧ st ≤ 3 ∧ orderFails s g then attemptFailed g s
  else
    let w := tblGet {} s.wln.groups g
    if st = 1 then
      if w.status && flag s (Reg.WLN_GSTAT_RET_LOCK g) then
        identStep g (setFld s (Reg.WLN_GSTAT_STATE g) 2)
      else s
    else if st = 2 then identStep g s
    else if st = 3 then
      if w.status && w.order && decide (repLock s g = 0xFF) && decide (repPol s g = 0) &&
          decide (repValid s g = 0xFF) && decide (repGroup s g = g) && orderId s g then enterUp g s
      else s
    else s

/-! ### Return lanes (R243 to R248) -/

/-- A block can arrive: the group is in use and its return lane has block lock. -/
def laneHears (s : State) (g : Nat) : Bool := groupOn s g && flag s (Reg.WLN_GSTAT_RET_LOCK g)

/-- A block that is not IDLE ends a freeze (R263). -/
def thaw (g : Nat) (s : State) : State := setFld s ⟨Reg.WLN_RX_FROZEN, g, g⟩ 0

/-- CRCERR bits of a STATUS (R264). -/
def crcErrs (g bits : Nat) (s : State) : State :=
  forAll ((List.range 8).filter fun i => bitOf bits i) (fun i s =>
    let n := 8 * g + i
    let s := incSat s (Reg.WLN_W_CRCERR_COUNT n) 1
    if s.wln.crcRaised.contains n then s
    else wickEvent n 6 { s with wln := { s.wln with crcRaised := setInsert n s.wln.crcRaised } }) s

/-- FAULT bits that rise (R248). -/
def headFaults (g old new : Nat) (s : State) : State :=
  let rise := (List.range 8).filter fun i => bitOf new i && !bitOf old i
  if rise = [] then s else
  let s := forAll (groupWicks g) (fun n s => wickEvent n 9 s) s
  if rise.any fun i => decide (i < 4) && bitOf (fld s Reg.WLN_CTRL_FAULT_SNUFF) i then assertPath 5 s else s

/-- STATUS (Table 8-3). -/
def statusSeen (g payload : Nat) (s : State) : State :=
  let old := bitsOf (reg s (Reg.WLN_GSTATUS g)).toNat 36 8
  let w := tblGet {} s.wln.groups g
  let s := { s with wln := { s.wln with groups := tblSet {} s.wln.groups g { w with status := true } } }
  let s := setReg (thaw g s) (Reg.WLN_GSTATUS g) (BitVec.ofNat 64 payload)
  groupReact g (headFaults g old (bitsOf payload 36 8) (crcErrs g (bitsOf payload 44 8) s))

/-- LANE_ORDER (Table 8-3). -/
def orderSeen (g payload : Nat) (s : State) : State :=
  let w := tblGet {} s.wln.groups g
  let s := { s with wln := { s.wln with groups := tblSet {} s.wln.groups g { w with order := true } } }
  groupReact g (setReg (thaw g s) (Reg.WLN_GORDER g) (BitVec.ofNat 64 payload))

/-- LENS_TEMP (R247). -/
def lensTempSeen (g payload : Nat) (s : State) : State :=
  let s := setReg (thaw g s) (Reg.WLN_GLENS g) (BitVec.ofNat 64 payload)
  if bitOf payload 24 then lensReport g (bitsOf payload 20 4) (toSigned 12 (bitsOf payload 8 12)) s else s

/-- A return lane is lost: RET_LOSS for every wick of the group (R246). -/
def returnLost (g : Nat) (s : State) : State :=
  if laneHears s g then
    let s := { s with wln := { s.wln with rx := tblSet {} s.wln.rx g {} } }
    let s := incSat (setFld s (Reg.WLN_GSTAT_RET_LOCK g) 0) (Reg.WLN_GCNT_RET_LOSS g) 1
    forAll (groupWicks g) (fun n s => wickEvent n 7 s) s
  else s

/-- A preset that waited while SNUFFED is applied (R242). -/
def presetApply (g : Nat) (s : State) : State :=
  let w := tblGet {} s.wln.groups g
  if w.presetHeld then
    setFld { s with wln := { s.wln with groups := tblSet {} s.wln.groups g { w with presetHeld := false } } }
      (Reg.WLN_GSTAT_PRESET g) (fld s (Reg.WLN_GCFG_PRESET g))
  else s

/-- A group that trains, and each wick that relocks, sends TRAIN again (R258, Table 8-6). -/
def groupTrains (g : Nat) (s : State) : State :=
  if groupState s g = 4 then
    forAll (List.range 8) (fun i s => if wickExempt s (8 * g + i) 0 = 2 then sendTrain g i 1 s else s) s
  else sendTrains g (if groupState s g = 3 then 1 else 0) s

/-- SNUFFED or the raster has ended: presets that waited are applied, and a group that trains or a wick that relocks sends
TRAIN in place of BLANK, unless a path still holds (R205, R242, R258, Table 8-6). -/
def trainsResume (s : State) : State :=
  forAll groups (fun g s => if groupState s g = 0 then s else groupTrains g (presetApply g s)) s

/-! ### Timers and writes -/

/-- RELOCK_LATE: 300 µs have passed without a relock (R260). -/
def relockLate (n : Nat) (s : State) : State :=
  if wickState s n = 2 ∨ wickState s n = 3 then
    sendTrain (n / 8) (n % 8) 1 (wickEvent n 3 (incSat s (Reg.WLN_W_RELOCK_LATE n) 1))
  else s

/-- WLN_TRAIN: every group in use, while dark (R251). -/
def wlnTrain (s : State) : State := forAll groups startTraining s

/-- WLN_CTRL.TRAIN, which reads 1 while a group trains. -/
def wlnTrainCmd (s : State) : State :=
  let s := wlnTrain s
  if groups.any (training s) then setFld s Reg.WLN_CTRL_TRAIN 1 else s

/-- WLN_GCFG.RETRAIN, which reads 1 while the group trains (R251, R255). -/
def retrainCmd (g : Nat) (s : State) : State :=
  let s := startTraining g s
  if groupOn s g && training s g then setFld s (Reg.WLN_GCFG_RETRAIN g) 1 else s

/-- ADAPT_FREEZE of receiver `i`: return lanes 0 to 23, then inputs 0 to 3 of UP and of DN (R263). -/
def adaptFreeze (i : Nat) (s : State) : State :=
  if i < 24 then (if laneHears s i then setFld s ⟨Reg.WLN_RX_FROZEN, i, i⟩ 1 else s)
  else
    let p := (i - 24) / 4
    let x : ChainPort := tblGet {} s.chain.ports p
    if i < 32 ∧ tblGet 0 x.seen (i % 4) ≠ 0 then
      { s with chain := { s.chain with ports := tblSet {} s.chain.ports p { x with frozen := setInsert (i % 4) x.frozen } } }
    else s

/-- WLN_CTRL.CLR. -/
def wlnClr (s : State) : State :=
  forAll wicks (fun n s => setReg (setReg s (Reg.WLN_W_RELOCK n) 0) (Reg.WLN_W_CRCERR n) 0)
    (forAll groups (fun g s => setReg s (Reg.WLN_GCNT g) 0) s)

/-- Every group DOWN (R251, R527): its lanes are off, their map and inversion back at reset. -/
def groupsDown (s : State) : State :=
  let s := forAll groups (fun g s =>
    let s := setGroup s g 0
    let s := setFld (setFld s (Reg.WLN_GMAP_OUT g) idMap) (Reg.WLN_GPOL_TXINV g) 0
    forAll (groupWicks g) (fun n s => setFld s (Reg.WLN_W_STAT_STATE n) 0) (fixOuts g s)) s
  { s with wln := { s.wln with groups := [], resume := [] } }

end Sys2Proof.Machine
end

