-- ==== Sys2Proof/Machine/Frame.lean ====
section
/-! DEFINITION. What a scan frame is built from: geometry and colour of the image in force (Table 5-1,
Table 17-2), the shadow set in force (R219, R220), the overlay planes (R210, R211, R216, R217) and the
zones (R144, R159). -/

namespace Sys2Proof.Machine

/-! ### The core clock (R486) -/

/-- A field of a PLL's registers in force (R487). -/
def pllFld (s : State) (f : Fld) : Nat :=
  bitsOf (tblGet (resetOf f.off) s.clk.force f.off).toNat f.lo (f.hi - f.lo + 1)

/-- Mean of a PLL's frequency over its frequency without spread, in 1/20000. -/
def spreadNum (s : State) (p : Nat) : Nat :=
  if pllFld s (Reg.CLK_PLL_SSC_MODE p) = 1 then 20000 - pllFld s (Reg.CLK_PLL_SSC_DEPTH p) else 20000

/-- fcore is 1.2 GHz × `coreNum` / 20000. -/
def coreNum (s : State) : Nat := spreadNum s 5

/-- Core clocks of a time given in 1/1000 clocks at 1.2 GHz, rounded up. -/
def coreClocks (s : State) (t : Nat) : Nat := ceilDiv (t * coreNum s) 20000000

/-! ### Geometry (R136) -/

def geoPitchX (s : State) : F32 := fIn (secNat s 0x10 8 4)
def geoPitchY (s : State) : F32 := fIn (secNat s 0x10 12 4)
def geoStripe (s : State) : Nat := secNat s 0x10 16 1
def geoLX (s : State) : Nat := secNat s 0x10 17 1
def geoLY (s : State) : Nat := secNat s 0x10 18 1
def geoSlant (s : State) : Nat := secNat s 0x10 19 1
def geoFX (s : State) : F32 := fIn (secNat s 0x10 20 4)
def geoFY (s : State) : F32 := fIn (secNat s 0x10 24 4)
/-- LEVEL_SCALE of a level from 1 to 7. -/
def levelScale (s : State) (l : Nat) : F32 := fIn (secNat s 0x10 (28 + 4 * (l - 1)) 4)
def geoNLX (s : State) : Nat := ceilDiv (geoPX s) (geoLX s) + b2n (decide (geoSlant s ≠ 0))
def geoNLY (s : State) : Nat := ceilDiv (geoPY s) (geoLY s)

/-- Primary of emitter `e` of a pixel (R137). -/
def primaryOf (s : State) (e : Nat) : Nat := if geoStripe s = 0 then e else 2 - e

/-- Lens zone of a pixel (R144). -/
def lensZone (s : State) (u v : Nat) : Nat := v / zoneComH s * 96 + u / zoneSegW s

/-- Optical level of a zone (R144). -/
def optLevel (s : State) (z : Nat) : Nat := fld s (Reg.RMAP_ZONE_LEVEL_LEVEL (z / 8) (z % 8))

/-- Aging zone of a pixel (R159). -/
def agingZone (s : State) (u v : Nat) : Nat := v / ceilDiv (geoPY s) 64 * 64 + u / ceilDiv (geoPX s) 64

/-- Aging gain in force (R162). -/
def agingGain (s : State) (z p : Nat) : Nat := tblGet 0x8000 s.rmap.gains (3 * z + p)

/-! ### Colour sets (Table 17-2, R74) -/

def colourSets (s : State) : Nat := secNat s 0x40 0 1
/-- Field at offset `o` of colour set `i`. -/
def csetNat (s : State) (i o n : Nat) : Nat := secNat s 0x40 (16 + 64 * i + o) n
def csetM (s : State) (i p k : Nat) : F32 := fIn (csetNat s i (8 + 4 * (3 * p + k)) 4)
def csetO (s : State) (i p : Nat) : F32 := fIn (csetNat s i (44 + 4 * p) 4)
/-- Entry `e` of the EOTF table that set `i` names for primary `p`. -/
def csetT (s : State) (i p e : Nat) : Nat :=
  secNat s 0x40 (16 + 64 * colourSets s + 2048 * csetNat s i (4 + p) 1 + 2 * e) 2

/-- The colour set of a layer's code points. -/
def findCset (s : State) (prim transfer matrix full : Nat) : Option Nat :=
  (List.range (colourSets s)).find? fun i => decide (csetNat s i 0 1 = prim ∧ csetNat s i 1 1 = transfer ∧
    csetNat s i 2 1 = matrix ∧ csetNat s i 3 1 = full)

/-- Colour stage of R183 for one primary, from sample values times 256. -/
def colour16 (s : State) (cs p sy scb scr : Nat) : Nat :=
  let d (x : Nat) : F32 := fDiv (fOfInt x) 0x43800000
  let e := fAdd (fAdd (fAdd (fMul (csetM s cs p 0) (d sy)) (fMul (csetM s cs p 1) (d scb)))
    (fMul (csetM s cs p 2) (d scr))) (csetO s cs p)
  let e := if fIsNan e || fLt e 0 then 0 else if fLt 0x447FC000 e then 0x447FC000 else e
  let i := fFloor e
  let f := fSub e (fOfInt i)
  let t0 := csetT s cs p i
  let t1 := csetT s cs p (min (i + 1) 1023)
  let l := fAdd (fOfInt t0) (fMul f (fOfInt ((t1 : Int) - t0)))
  (clampI 0 65535 ((fRoundEven l).getD 0)).toNat

/-! ### The shadow set (R219, R220) -/

/-- A register of the shadow set in force, by the offset of its shadow. -/
def forceReg (s : State) (off : Nat) : DWord := tblGet (resetOf off) s.scan.force off

/-- A field of it. -/
def ffld (s : State) (f : Fld) : Nat := bitsOf (forceReg s f.off).toNat f.lo (f.hi - f.lo + 1)
def fflag (s : State) (f : Fld) : Bool := decide (ffld s f = 1)

/-- Writes a register of the shadow set in force. -/
def setForce (off : Nat) (v : DWord) (s : State) : State :=
  { s with scan := { s.scan with force := tblSet (resetOf off) s.scan.force off v } }

def setFfld (s : State) (f : Fld) (v : Nat) : State :=
  setForce f.off (BitVec.ofNat 64 (putBits (forceReg s f.off).toNat f.lo (f.hi - f.lo + 1) v)) s

/-- Active rows, blanking rows and row period in force. -/
def actRows (s : State) : Nat := ffld s Reg.SCAN_ACT_ROWS_A
def blankRows (s : State) : Nat := ffld s Reg.SCAN_BLANK_ROWS_B
def rowPeriod (s : State) : Nat := ffld s Reg.SCAN_ROW_PERIOD_CLOCKS

/-! ### Overlay planes (Table 7-1, R210, R211) -/

/-- A plane as a set of registers describes it. -/
structure Plane where
  en : Bool
  opaque_ : Bool
  fmt : Nat
  scale : Nat
  cset : Nat
  galpha : Nat
  x : Nat
  y : Nat
  w : Nat
  h : Nat
  a0 : Nat
  a1 : Nat
  s0 : Nat
  s1 : Nat

/-- Plane `i` of the set whose registers `g` reads. -/
def planeOf (g : Nat → DWord) (i : Nat) : Plane :=
  let r (f : Fld) : Nat := bitsOf (g f.off).toNat f.lo (f.hi - f.lo + 1)
  { en := decide (r (Reg.SCAN_OV_CTRL_EN i) = 1), opaque_ := decide (r (Reg.SCAN_OV_CTRL_FORCE_OPAQUE i) = 1),
    fmt := r (Reg.SCAN_OV_CTRL_FMT i), scale := r (Reg.SCAN_OV_CTRL_SCALE i),
    cset := r (Reg.SCAN_OV_CTRL_CSET i), galpha := r (Reg.SCAN_OV_CTRL_GALPHA i),
    x := r (Reg.SCAN_OV_POS_X i), y := r (Reg.SCAN_OV_POS_Y i), w := r (Reg.SCAN_OV_SIZE_WIDTH i),
    h := r (Reg.SCAN_OV_SIZE_HEIGHT i), a0 := r (Reg.SCAN_OV_ADDR0_ADDR i), a1 := r (Reg.SCAN_OV_ADDR1_ADDR i),
    s0 := r (Reg.SCAN_OV_STRIDE_STRIDE0 i), s1 := r (Reg.SCAN_OV_STRIDE_STRIDE1 i) }

/-- Pixels per source pixel. -/
def Plane.S (p : Plane) : Nat := 2 ^ p.scale
/-- The format has a chroma plane. -/
def Plane.chroma (p : Plane) : Bool := decide (p.fmt ≤ 5)
/-- Horizontal and vertical chroma sub-sampling. -/
def Plane.sx (p : Plane) : Nat := if p.fmt = 2 ∨ p.fmt = 5 then 1 else 2
def Plane.sy (p : Plane) : Nat := if p.fmt = 0 ∨ p.fmt = 3 then 2 else 1
/-- Samples are packed three to a word. -/
def Plane.packed (p : Plane) : Bool := decide (3 ≤ p.fmt ∧ p.fmt ≤ 5)

/-- Line bytes of Table 7-1. -/
def Plane.line0 (p : Plane) : Nat :=
  if p.fmt ≤ 2 ∨ p.fmt = 7 then p.w else if p.fmt ≤ 5 then 4 * ceilDiv p.w 3 else 4 * p.w
def Plane.line1 (p : Plane) : Nat :=
  match p.fmt with
  | 0 => p.w
  | 1 => p.w
  | 2 => 2 * p.w
  | 3 => 4 * ceilDiv p.w 3
  | 4 => 4 * ceilDiv p.w 3
  | 5 => 4 * ceilDiv (2 * p.w) 3
  | _ => 0

/-- Lines of the chroma plane. -/
def Plane.lines1 (p : Plane) : Nat := p.h / p.sy

/-- Ranges of a plane (R225). -/
def Plane.ranges (p : Plane) : List (Nat × Nat) :=
  if p.chroma then [(p.a0, p.s0 * p.h), (p.a1, p.s1 * p.lines1)] else [(p.a0, p.s0 * p.h)]

/-- The destination covers head pixel (u, v) (R210). -/
def Plane.covers (p : Plane) (u v : Nat) : Bool :=
  decide (p.x ≤ u ∧ u < p.x + p.S * p.w ∧ p.y ≤ v ∧ v < p.y + p.S * p.h)

/-- A solid plane (R216). -/
def Plane.solid (p : Plane) : Bool := p.en && decide (p.galpha = 255) && (decide (p.fmt ≤ 5) || p.opaque_)

/-- The planes in force. -/
def planes (s : State) : List Plane := (List.range 4).map (planeOf (forceReg s))

/-- A head rectangle lies wholly inside the plane's destination, both clipped to the head. -/
def Plane.holds (p : Plane) (px py x0 y0 x1 y1 : Nat) : Bool :=
  decide (p.x ≤ x0 ∧ p.y ≤ y0 ∧ min x1 px ≤ p.x + p.S * p.w ∧ min y1 py ≤ p.y + p.S * p.h)

/-- The covered-zone mask of R216 at a lens zone. -/
def zoneCovered (s : State) (z : Nat) : Bool :=
  let c := z / 96
  let g := z % 96
  (planes s).any fun p => p.solid &&
    p.holds (geoPX s) (geoPY s) (g * zoneSegW s) (c * zoneComH s) ((g + 1) * zoneSegW s) ((c + 1) * zoneComH s)

/-- Plane `i` fetches nothing for the tile of head pixel (u, v): a solid plane above covers it (R217). -/
def tileStopped (s : State) (i u v : Nat) : Bool :=
  ((planes s).drop (i + 1)).any fun p => p.solid &&
    p.holds (geoPX s) (geoPY s) (u / 64 * 64) (v / 64 * 64) (u / 64 * 64 + 64) (v / 64 * 64 + 64)

/-! ### Lines read together -/

/-- Lines a reader holds: number, bytes, poison mark. -/
abbrev LineSet := List (Nat × Option Bytes)

/-- Reads the lines that are not held yet. -/
def fetchLines (grp : Nat) : List Nat → LineSet → State → State × LineSet
  | [], l, s => (s, l)
  | a :: t, l, s =>
    if l.any fun x => decide (x.1 = a) then fetchLines grp t l s
    else
      let r := lineRead grp a 0 s
      fetchLines grp t ((a, r.2) :: l) r.1

/-- A line that is held; `none` when poisoned. -/
def lineOf (l : LineSet) (a : Nat) : Option Bytes := ((l.find? fun x => decide (x.1 = a)).map Prod.snd).getD none

/-- Little-endian value of `n` bytes at device address `a`, within one held line. -/
def lineNat (l : LineSet) (a n : Nat) : Option Nat := (lineOf l (a / 64)).map fun bs => leAt bs (a % 64) n

/-- Columns of a wick. -/
def wickFirst (s : State) (n : Nat) : Nat := fld s (Reg.SCAN_W_COLS_FIRST n)
def wickCols (s : State) (n : Nat) : Nat := fld s (Reg.SCAN_W_COLS_COUNT n)

/-- Emitters of wick `n` in a row: column and emitter, in the order of R174. -/
def wickEmitters (s : State) (n : Nat) : List (Nat × Nat) :=
  (List.range (wickCols s n)).flatMap fun i => (List.range 3).map fun e => (wickFirst s n + i, e)

end Sys2Proof.Machine
end

