-- ==== Sys2Proof/Machine/Budget.lean ====
section
/-! DEFINITION. The budget checks of Table 2-3 (R46 to R48, R25 to R28, R39, R304, R486), shared by COMMIT
and structure activation. -/

namespace Sys2Proof.Machine

/-- A timing being checked, with the overlay fetch of the set being committed in bytes per frame (R217). -/
structure Timing where
  p : Nat
  act : Nat
  blank : Nat
  row : Nat
  fetch : Nat

/-- What a timing is checked against: the image, fcore and the DPLL's mean in 1/20000, and the peak of
R304 before that, in MB/s. -/
structure Capacity where
  img : Bytes
  core : Nat
  dpll : Nat
  peak : Nat

/-- A field of a section of the image checked. -/
def Capacity.nat (c : Capacity) (id o n : Nat) : Nat := leAt (secOf c.img id) o n

/-- Row blocks of wick `n` times the block time of its group, in 1/1000 clocks at 1.2 GHz (R26). -/
def Capacity.wickLane (c : Capacity) (n : Nat) : Nat :=
  let cols := c.nat 0x20 (96 + 4 * n + 2) 2
  if cols = 0 then 0
  else (ceilDiv (3 * cols) 6 + 2) * (if c.nat 0x20 (4 * (n / 8)) 1 = 1 then 6144 else 3072)

/-- The row's lane time at its slowest, in 1/20000000 clocks. -/
def Capacity.lane (c : Capacity) : Nat := (wicks.map c.wickLane).foldl max 0 * c.core

/-- A load and its capacity, each a fraction. -/
structure Share where
  ln : Nat
  ld : Nat
  cn : Nat
  cd : Nat

/-- At most 90 % of the capacity (R28). -/
def Share.fits (x : Share) : Bool := decide (10 * x.ln * x.cd ≤ 9 * x.cn * x.ld)
/-- Load over capacity to the nearest 0.01 % (R48). -/
def Share.checked (x : Share) : Nat := min 65535 (roundDiv (10000 * x.ln * x.cd) (x.cn * x.ld))

/-- Periods of 2^-32 ns in a second. -/
def perSecond : Nat := 2 ^ 32 * 1000000000

def laneShare (c : Capacity) (t : Timing) : Share := ⟨c.lane, 20000000, t.row, 1⟩

/-- Rays per second against R25. -/
def lanternShare (c : Capacity) (t : Timing) : Share :=
  let e := 3 * c.nat 0x10 0 4 * c.nat 0x10 4 4
  let smax := c.nat 0x51 6 2
  let cap := 48 * 60000 * c.core
  if smax ≤ 1024 then ⟨e * perSecond, t.p, cap * 8, 1⟩ else ⟨e * perSecond, t.p, cap * 8192, smax⟩

/-- Samples per second against 16 G samples/s. -/
def decoderShare (c : Capacity) : Share :=
  ⟨c.nat 0x51 0 4 * c.nat 0x51 8 4, 1000, 800000 * c.core, 1⟩

/-- Bytes of a ray map generation that a scan frame reads. -/
def Capacity.mapBytes (c : Capacity) : Nat :=
  let px := c.nat 0x10 0 4
  let py := c.nat 0x10 4 4
  let nlx := ceilDiv px (c.nat 0x10 17 1) + b2n (decide (c.nat 0x10 19 1 ≠ 0))
  nlx * ceilDiv py (c.nat 0x10 18 1) * 8 + px * py

/-- The seven lines of Table 1-5 as R48 gives them, times 2000 × P, in bytes. -/
def dramShare (c : Capacity) (t : Timing) : Share :=
  let atlas := c.nat 0x30 296 8
  let perFrame := 2000 * perSecond
  let mb := 2000 * t.p * 1000000
  let overlay := max (mb * c.nat 0x51 16 4) (perFrame * t.fetch)
  let load := 3000 * perSecond * atlas + 2 * t.p * atlas * c.nat 0x51 0 4 + perFrame * c.mapBytes +
    mb * (2 * c.nat 0x51 12 4 + c.nat 0x51 20 4) + overlay
  ⟨load, 2000 * t.p, 1000000 * c.peak * c.dpll, 20000⟩

/-- The checks of Table 2-3 in order, each passed or not. -/
def rateOk (c : Capacity) (t : Timing) : Bool :=
  decide (0x003F940AAAAAAAAA ≤ t.p ∧ t.p ≤ 0x027BC86AAAAAAAAA) && decide (c.nat 0x51 0 4 * t.p ≤ 1000 * perSecond)

/-- R39. -/
def rasterOk (c : Capacity) (t : Timing) : Bool :=
  decide (ceilDiv c.lane 20000000 ≤ t.row) && decide (8 ≤ t.blank) &&
  decide ((t.act + t.blank) * t.row * 200000 * 1000000 * 2 ^ 32 ≤ t.p * 12 * c.core * 999800)

/-- Code of the first check that fails, 0 for none (R47). -/
def budgetCode (c : Capacity) (t : Timing) : Nat :=
  if !rateOk c t then 1
  else if !rasterOk c t then 2
  else if t.row * 20000000 < c.lane then 3
  else if !(lanternShare c t).fits then 4
  else if !(decoderShare c).fits then 5
  else if !(dramShare c t).fits then 6
  else 0

/-- Runs the checks and records them; the loads are noted when every check passed. -/
def budgetRun (c : Capacity) (t : Timing) (trigger gen : Nat) (s : State) : State × Nat :=
  let code := budgetCode c t
  let s := setReg s Reg.STR_BUDGET_RESULT (BitVec.ofNat 64 (code + trigger * 2 ^ 8 + gen * 2 ^ 16))
  if code ≠ 0 then (s, code) else
  let s := setFld s (Reg.STR_BUDGET_LOAD_CHECKED 0) (laneShare c t).checked
  let s := setFld s (Reg.STR_BUDGET_LOAD_PEAK 0) (laneShare c t).checked
  let s := setFld s (Reg.STR_BUDGET_LOAD_CHECKED 1) (lanternShare c t).checked
  let s := setFld s (Reg.STR_BUDGET_LOAD_CHECKED 2) (decoderShare c).checked
  (setFld s (Reg.STR_BUDGET_LOAD_CHECKED 3) (dramShare c t).checked, 0)

/-- Fetch of an enabled plane per frame (R217). -/
def planeFetch (s : State) (p : Plane) : Nat :=
  let rows := geoPY s - p.y
  if p.en then p.s0 * min p.h (ceilDiv rows p.S) +
    (if p.chroma then p.s1 * min p.lines1 (ceilDiv rows (p.S * p.sy)) else 0)
  else 0

/-- Fetch of the set in force. -/
def fetchNow (s : State) : Nat := ((planes s).map (planeFetch s)).foldl (· + ·) 0

/-- Peak of the populated channels at the rate in force, MB/s (R304). -/
def dramPeak (s : State) : Nat := nch s * 8 * fld s Reg.MFB_STAT_RATE

/-- The capacity a commit is checked against. -/
def capacityNow (s : State) : Capacity := ⟨s.img.getD [], coreNum s, spreadNum s 6, dramPeak s⟩

end Sys2Proof.Machine
end

