-- ==== Sys2Proof/Machine/Codestream.lean ====
section
/-! DEFINITION. The codestreams of a layer (R91 to R96): the markers of the main header and of the
tile-part headers, with the place of each field as ISO/IEC 15444-1 and 15444-15 give it (log 14). Checks
run in the order of the bytes; the first that fails answers its DEC_ERR code and its offset. What the HT
blocks decode to is free (log 14). -/

namespace Sys2Proof.Machine

/-- A DEC_ERR code and the offset of the byte at which the failure was found. -/
abbrev CsErr := Nat × Nat

def csNeed (c : Bool) (code off : Nat) : Except CsErr Unit := if c then .ok () else .error (code, off)

/-- Big-endian field of `n` bytes at offset `o`. -/
def beAt (bs : Array Byte) (o : Nat) : Nat → Nat
  | 0 => 0
  | n + 1 => beAt bs o n * 256 + ((bs[o + n]?).getD 0#8).toNat

/-- What the descriptor says of a codestream: dimensions, components, precision. -/
structure CsWant where
  w : Nat
  h : Nat
  comps : Nat
  prec : Nat

/-- What the headers have given so far: markers met; the transform of COD and of each COC; the
quantisation style of QCD and of each QCC with its place. -/
structure CsHdr where
  siz : Bool := false
  cap : Bool := false
  cod : Option Nat := none
  coc : List (Nat × Nat) := []
  qcd : Option (Nat × Nat) := none
  qcc : List (Nat × Nat × Nat) := []

/-- SIZ at `o` (R92). -/
def csSiz (bs : Array Byte) (o : Nat) (x : CsWant) : Except CsErr Unit := do
  csNeed (bitOf (beAt bs (o + 4) 2) 14) 0x24 (o + 4)
  csNeed (decide (beAt bs (o + 6) 4 = x.w)) 0x21 (o + 6)
  csNeed (decide (beAt bs (o + 10) 4 = x.h)) 0x21 (o + 10)
  csNeed (decide (beAt bs (o + 14) 4 = 0)) 0x21 (o + 14)
  csNeed (decide (beAt bs (o + 18) 4 = 0)) 0x21 (o + 18)
  csNeed (decide (x.w ≤ beAt bs (o + 22) 4)) 0x23 (o + 22)
  csNeed (decide (x.h ≤ beAt bs (o + 26) 4)) 0x23 (o + 26)
  csNeed (decide (beAt bs (o + 30) 4 = 0)) 0x23 (o + 30)
  csNeed (decide (beAt bs (o + 34) 4 = 0)) 0x23 (o + 34)
  csNeed (decide (beAt bs (o + 38) 2 = x.comps)) 0x22 (o + 38)
  csNeed (decide (beAt bs (o + 2) 2 = 38 + 3 * x.comps)) 0x20 (o + 2)
  (List.range x.comps).forM fun i => do
    csNeed (decide (beAt bs (o + 40 + 3 * i) 1 = x.prec - 1)) 0x2B (o + 40 + 3 * i)
    csNeed (decide (beAt bs (o + 41 + 3 * i) 1 = 1)) 0x22 (o + 41 + 3 * i)
    csNeed (decide (beAt bs (o + 42 + 3 * i) 1 = 1)) 0x22 (o + 42 + 3 * i)

/-- CAP at `o` (R93): Pcap names part 15, whose Ccap has HTONLY and one HT set. -/
def csCap (bs : Array Byte) (o : Nat) : Except CsErr Unit := do
  let p := beAt bs (o + 4) 4
  csNeed (bitOf p 17) 0x24 (o + 4)
  let k := popcount (p / 2 ^ 18) 14
  csNeed (decide (beAt bs (o + 2) 2 = 6 + 2 * popcount p 32)) 0x20 (o + 2)
  csNeed (decide (beAt bs (o + 8 + 2 * k) 2 / 2 ^ 13 = 0)) 0x24 (o + 8 + 2 * k)

/-- The coding parameters that COD and COC share, at `p` (R94). -/
def csCoding (bs : Array Byte) (p : Nat) : Except CsErr Nat := do
  csNeed (decide (beAt bs p 1 ≤ 6)) 0x25 p
  csNeed (decide (2 ≤ beAt bs (p + 1) 1 ∧ beAt bs (p + 1) 1 ≤ 4)) 0x27 (p + 1)
  csNeed (decide (2 ≤ beAt bs (p + 2) 1 ∧ beAt bs (p + 2) 1 ≤ 4)) 0x27 (p + 2)
  csNeed (decide (beAt bs (p + 3) 1 = 0x40 ∨ beAt bs (p + 3) 1 = 0x48)) 0x27 (p + 3)
  csNeed (decide (beAt bs (p + 4) 1 ≤ 1)) 0x26 (p + 4)
  return beAt bs (p + 4) 1

/-- COD at `o` (R94). -/
def csCod (bs : Array Byte) (o : Nat) : Except CsErr Nat := do
  csNeed (!bitOf (beAt bs (o + 4) 1) 0) 0x29 (o + 4)
  csNeed (decide (beAt bs (o + 5) 1 = 0 ∨ beAt bs (o + 5) 1 = 2)) 0x28 (o + 5)
  csNeed (decide (1 ≤ beAt bs (o + 6) 2 ∧ beAt bs (o + 6) 2 ≤ 16)) 0x28 (o + 6)
  csNeed (decide (beAt bs (o + 8) 1 = 0)) 0x22 (o + 8)
  csCoding bs (o + 9)

/-- COC at `o` (R94): component and transform. -/
def csCoc (bs : Array Byte) (o comps : Nat) : Except CsErr (Nat × Nat) := do
  csNeed (decide (beAt bs (o + 4) 1 < comps)) 0x20 (o + 4)
  csNeed (!bitOf (beAt bs (o + 5) 1) 0) 0x29 (o + 5)
  let t ← csCoding bs (o + 6)
  return (beAt bs (o + 4) 1, t)

/-- R95: the filter of each component and its quantisation belong together. -/
def csPairs (x : CsWant) (h : CsHdr) : Except CsErr Unit :=
  (List.range x.comps).forM fun c =>
    let t := (h.coc.lookup c).getD (h.cod.getD 0)
    let q := (h.qcc.lookup c).getD (h.qcd.getD (0, 0))
    csNeed (if t = 1 then decide (q.1 = 0) else decide (q.1 = 1 ∨ q.1 = 2)) 0x26 q.2

/-- Code of a marker that no header may hold (R91). -/
def csBadMarker (m : Nat) : Nat :=
  if m = 0xFF5E then 0x2A else if m = 0xFF5F then 0x28 else if m = 0xFF60 ∨ m = 0xFF61 then 0x29 else 0x20

/-- A marker segment of either header that only COC, QCC and COM share. -/
def csShared (bs : Array Byte) (o m : Nat) (x : CsWant) (h : CsHdr) : Except CsErr CsHdr := do
  match m with
  | 0xFF53 =>
    let c ← csCoc bs o x.comps
    return { h with coc := c :: h.coc }
  | 0xFF5D =>
    csNeed (decide (beAt bs (o + 4) 1 < x.comps)) 0x20 (o + 4)
    return { h with qcc := (beAt bs (o + 4) 1, beAt bs (o + 5) 1 % 32, o + 5) :: h.qcc }
  | 0xFF64 => return h
  | _ => .error (csBadMarker m, o)

/-- The main header from `o` on: SOT's offset and what it gave. The order of the markers and the place of a segment are
checked before its kind, so that a marker that no header may hold answers 0x20 before SIZ, or where its segment runs past
the end (DESIGN CHOICE, log 103). -/
def csMain (bs : Array Byte) (x : CsWant) : Nat → Nat → CsHdr → Except CsErr (CsHdr × Nat)
  | 0, o, _ => .error (0x20, o)
  | k + 1, o, h => do
    let m := beAt bs o 2
    csNeed (decide (0xFF4F ≤ m ∧ o + 4 ≤ bs.size - 2)) 0x20 o
    csNeed (h.siz || decide (m = 0xFF51)) 0x20 o
    if m = 0xFF90 then
      csNeed (h.cap && h.cod.isSome && h.qcd.isSome) 0x20 o
      csPairs x h
      return (h, o)
    let l := beAt bs (o + 2) 2
    csNeed (decide (2 ≤ l ∧ o + 2 + l ≤ bs.size - 2)) 0x20 (o + 2)
    let h ← match m with
      | 0xFF51 => do
        csNeed (!h.siz) 0x20 o
        csSiz bs o x
        pure { h with siz := true }
      | 0xFF50 => do
        csNeed (!h.cap) 0x20 o
        csCap bs o
        pure { h with cap := true }
      | 0xFF52 => do
        csNeed h.cod.isNone 0x20 o
        let t ← csCod bs o
        pure { h with cod := some t }
      | 0xFF5C => do
        csNeed h.qcd.isNone 0x20 o
        pure { h with qcd := some (beAt bs (o + 4) 1 % 32, o + 4) }
      | 0xFF59 => pure h
      | 0xFF55 => pure h
      | 0xFF57 => pure h
      | 0xFF63 => pure h
      | _ => csShared bs o m x h
    csMain bs x k (o + 2 + l) h

/-- A tile-part header from `o` on, up to SOD; the tile-part ends at `e`. -/
def csTileHdr (bs : Array Byte) (x : CsWant) (e : Nat) : Nat → Nat → CsHdr → Except CsErr CsHdr
  | 0, o, _ => .error (0x20, o)
  | k + 1, o, h => do
    let m := beAt bs o 2
    csNeed (decide (0xFF4F ≤ m ∧ o + 2 ≤ e)) 0x20 o
    if m = 0xFF93 then
      csPairs x h
      return h
    let l := beAt bs (o + 2) 2
    csNeed (decide (2 ≤ l ∧ o + 2 + l ≤ e)) 0x20 (o + 2)
    let h ← if m = 0xFF58 then pure h else csShared bs o m x h
    csTileHdr bs x e k (o + 2 + l) h

/-- The tile-parts from the SOT at `o` on, up to EOC. A tile index other than 0 means more than one tile: 0x23 (DESIGN CHOICE,
log 104). -/
def csTiles (bs : Array Byte) (x : CsWant) : Nat → Nat → CsHdr → Except CsErr Unit
  | 0, o, _ => .error (0x20, o)
  | k + 1, o, h => do
    csNeed (decide (beAt bs o 2 = 0xFF90 ∧ o + 12 ≤ bs.size - 2)) 0x20 o
    csNeed (decide (beAt bs (o + 2) 2 = 10)) 0x20 (o + 2)
    csNeed (decide (beAt bs (o + 4) 2 = 0)) 0x23 (o + 4)
    let p := beAt bs (o + 6) 4
    let e := if p = 0 then bs.size - 2 else o + p
    csNeed (decide (o + 12 ≤ e ∧ e ≤ bs.size - 2)) 0x20 (o + 6)
    let h ← csTileHdr bs x e (e - o) (o + 12) h
    if e = bs.size - 2 then return () else csTiles bs x k e h

/-- Checks a codestream (R91 to R96); `none` where it decodes. -/
def csCheck (data : Bytes) (x : CsWant) : Option CsErr :=
  let bs := data.toArray
  let r : Except CsErr Unit := do
    csNeed (decide (4 ≤ bs.size ∧ beAt bs 0 2 = 0xFF4F)) 0x20 0
    csNeed (decide (beAt bs (bs.size - 2) 2 = 0xFFD9)) 0x20 (bs.size - 2)
    let h ← csMain bs x bs.size 2 {}
    csTiles bs x bs.size h.2 h.1
  match r with
  | .error e => some e
  | .ok _ => (Config.htFail data).map fun o => (0x2C, min o (data.length - 1))

/-- Stored value of a decoded sample: rounded and clamped to the codestream's precision, then to the
atlas's (R126). -/
def atlasValue (v : Int) (p : Nat) : Nat :=
  let v := (clampI 0 ((2 ^ p : Nat) - 1) v).toNat
  if p = 8 then v * 4 else if p = 10 then v else min ((v + 2) / 4) 1023

/-- Sample words of a plane (R128): three 10-bit values each. -/
def packWords (g : Nat → Nat) (n : Nat) : Bytes :=
  (List.range (ceilDiv n 3)).flatMap fun w =>
    let v (k : Nat) : Nat := if 3 * w + k < n then g (3 * w + k) else 0
    natLe (v 0 + v 1 * 2 ^ 10 + v 2 * 2 ^ 20) 4

/-- The luma or chroma plane a codestream of `n` samples decodes to. -/
def planeBytes (data : Bytes) (n prec : Nat) : Bytes := packWords (fun i => atlasValue (Config.htSample data i) prec) n

/-- The alpha plane: 8 bits, as decoded. -/
def alphaBytes (data : Bytes) (n : Nat) : Bytes :=
  (List.range n).map fun i => BitVec.ofNat 8 (clampI 0 255 (Config.htSample data i)).toNat

end Sys2Proof.Machine
end

