-- ==== Sys2Proof/Machine/Gzip.lean ====
section
/-! DEFINITION. DEFLATE and gzip (RFC 1951 and RFC 1952, as R365 to R372 narrow them): a decoder that
yields one byte at a time and can stop between any two, and the compressor. -/

namespace Sys2Proof.Machine

/-! ### Bits of a source (R361) -/

/-- A source from the present byte on (`none` for a byte of a poisoned line), the bit within it, and the
bit position counted from the start of the source. -/
structure Rd where
  src : List (Option Byte)
  off : Nat := 0
  pos : Nat := 0

/-- HZ_CHECK codes of Table 11-6. -/
def hzHeader : Nat := 1
def hzStream : Nat := 2
def hzCrc : Nat := 3
def hzIsize : Nat := 4
def hzTruncated : Nat := 5
def hzPoison : Nat := 6

/-- A failure: its HZ_CHECK code, and the bit position of the byte at which it was found (R90). For a field of several
bytes that is its first byte, for a code word the byte of its last bit (DESIGN CHOICE, log 99). -/
abbrev HzErr := Nat × Nat

def rdBit (r : Rd) : Except HzErr (Nat × Rd) :=
  match r.src with
  | [] => .error (hzTruncated, r.pos)
  | none :: _ => .error (hzPoison, r.pos)
  | some b :: t =>
    let v := b.toNat / 2 ^ r.off % 2
    if r.off = 7 then .ok (v, ⟨t, 0, r.pos + 1⟩) else .ok (v, ⟨r.src, r.off + 1, r.pos + 1⟩)

/-- `n` bits, least significant first. -/
def rdBits : Nat → Rd → Except HzErr (Nat × Rd)
  | 0, r => .ok (0, r)
  | n + 1, r => do
    let (b, r) ← rdBit r
    let (v, r) ← rdBits n r
    return (b + 2 * v, r)

/-- On to the next whole byte. -/
def rdAlign (r : Rd) : Rd := if r.off = 0 then r else ⟨r.src.drop 1, 0, r.pos + 8 - r.off⟩

/-- Moves to a bit position of the source `src`. -/
def rdAt (src : List (Option Byte)) (pos : Nat) : Rd := ⟨src.drop (pos / 8), pos % 8, pos⟩

/-! ### Codes -/

/-- A canonical code: how many words of each length from 1, and the symbols in order. -/
structure Huff where
  counts : List Nat
  syms : List Nat

def huffOf (lens : List Nat) : Huff :=
  { counts := (List.range 15).map fun i => lens.count (i + 1)
    syms := (List.range 15).flatMap fun i => (List.range lens.length).filter fun j => decide (lens.getD j 0 = i + 1) }

/-- Unused code space after each length, `none` once over-subscribed. -/
def huffLeft : List Nat → Nat → Option Nat
  | [], l => some l
  | c :: t, l => if 2 * l < c then none else huffLeft t (2 * l - c)

def huffComplete (h : Huff) : Bool := decide (huffLeft h.counts 1 = some 0)

/-- A distance code may also be one code of length 1 (R366). -/
def distOk (h : Huff) : Bool := huffComplete h || decide (h.syms.length = 1 ∧ h.counts.getD 0 0 = 1)

def huffGo (syms : List Nat) : List Nat → Nat → Nat → Nat → Rd → Except HzErr (Nat × Rd)
  | [], _, _, _, r => .error (hzStream, r.pos - 1)
  | c :: cs, code, first, ix, r => do
    let (b, r) ← rdBit r
    let code := code + b
    if code < first + c then return (syms.getD (ix + (code - first)) 0, r)
    else huffGo syms cs (2 * code) (2 * (first + c)) (ix + c) r

/-- The next symbol. -/
def huffSym (h : Huff) (r : Rd) : Except HzErr (Nat × Rd) := huffGo h.syms h.counts 0 0 0 r

def fixedLit : Huff :=
  huffOf (List.replicate 144 8 ++ List.replicate 112 9 ++ List.replicate 24 7 ++ List.replicate 8 8)
def fixedDist : Huff := huffOf (List.replicate 32 5)

def lenBase : List Nat :=
  [3, 4, 5, 6, 7, 8, 9, 10, 11, 13, 15, 17, 19, 23, 27, 31, 35, 43, 51, 59, 67, 83, 99, 115, 131, 163, 195, 227, 258]
def lenExtra : List Nat :=
  [0, 0, 0, 0, 0, 0, 0, 0, 1, 1, 1, 1, 2, 2, 2, 2, 3, 3, 3, 3, 4, 4, 4, 4, 5, 5, 5, 5, 0]
def distBase : List Nat :=
  [1, 2, 3, 4, 5, 7, 9, 13, 17, 25, 33, 49, 65, 97, 129, 193, 257, 385, 513, 769, 1025, 1537, 2049, 3073, 4097, 6145,
   8193, 12289, 16385, 24577]
def distExtra (d : Nat) : Nat := d / 2 - 1

/-- Order of the code-length code. -/
def clOrder : List Nat := [16, 17, 18, 0, 8, 7, 9, 6, 10, 5, 11, 4, 12, 3, 13, 2, 14, 1, 15]

/-- Reads code lengths; newest first. `k` bounds the symbols. -/
def rdLens (h : Huff) (want : Nat) : Nat → List Nat → Rd → Except HzErr (List Nat × Rd)
  | 0, ls, r => .ok (ls, r)
  | k + 1, ls, r =>
    if want ≤ ls.length then (if ls.length = want then .ok (ls, r) else .error (hzStream, r.pos - 1)) else do
    let (c, r) ← huffSym h r
    if c < 16 then rdLens h want k (c :: ls) r
    else if c = 16 then
      match ls with
      | [] => .error (hzStream, r.pos - 1)
      | p :: _ =>
        let (n, r) ← rdBits 2 r
        rdLens h want k (List.replicate (3 + n) p ++ ls) r
    else
      let (n, r) ← rdBits (if c = 17 then 3 else 7) r
      rdLens h want k (List.replicate (n + if c = 17 then 3 else 11) 0 ++ ls) r

def rdClens : List Nat → Rd → Except HzErr (List Nat × Rd)
  | [], r => .ok ([], r)
  | _ :: t, r => do
    let (v, r) ← rdBits 3 r
    let (vs, r) ← rdClens t r
    return (v :: vs, r)

/-- The codes of a dynamic block. -/
def rdDynamic (r : Rd) : Except HzErr ((Huff × Huff) × Rd) := do
  let (a, r) ← rdBits 5 r
  let (b, r) ← rdBits 5 r
  let (c, r) ← rdBits 4 r
  let order := clOrder.take (c + 4)
  let (cl, r) ← rdClens order r
  let h := huffOf ((List.range 19).map fun s => cl.getD (order.idxOf s) 0)
  if !huffComplete h then throw (hzStream, r.pos - 1)
  let n := a + 257 + (b + 1)
  let (ls, r) ← rdLens h n (n + 1) [] r
  let ls := ls.reverse
  let lit := huffOf (ls.take (a + 257))
  let dist := huffOf (ls.drop (a + 257))
  if !huffComplete lit || !distOk dist then throw (hzStream, r.pos - 1)
  return ((lit, dist), r)

/-! ### The decoder (R365, R366, R368) -/

/-- A stream part-way through. -/
structure Inf where
  r : Rd
  raw : Bool
  multi : Bool
  /-- A member, or under RAW the stream, has begun. -/
  open_ : Bool := false
  inBlock : Bool := false
  bfinal : Bool := false
  btype : Nat := 0
  blkPos : Nat := 0
  lit : Huff := ⟨[], []⟩
  dist : Huff := ⟨[], []⟩
  symPos : Nat := 0
  /-- Bytes owed by the current match, whether any has been paid, and its distance. -/
  owed : Nat := 0
  paid : Bool := false
  back : Nat := 0
  stored : Nat := 0
  /-- A decoded byte not yet taken. -/
  byte : Option Nat := none
  /-- Output, newest first. -/
  out : Bytes := []
  mem : Nat := 0
  crc : Nat := 0xFFFFFFFF
  members : Nat := 0
  ended : Bool := false
  /-- Bit position of the byte at which it failed. -/
  badAt : Nat := 0

/-- A zero-terminated field of at most 65,535 bytes. -/
def rdZ : Nat → Rd → Except HzErr Rd
  | 0, r => do
    let (b, r') ← rdBits 8 r
    if b = 0 then return r' else throw (hzHeader, r.pos)
  | k + 1, r => do
    let (b, r) ← rdBits 8 r
    if b = 0 then return r else rdZ k r

/-- Bytes of the source from one position up to another. -/
def rdBetween (a b : Rd) : Bytes := (a.src.take ((b.pos - a.pos) / 8)).map fun x => x.getD 0#8

/-- A gzip header. -/
def rdHeader (r0 : Rd) : Except HzErr Rd := do
  let (i1, r1) ← rdBits 8 r0
  if i1 ≠ 0x1F then throw (hzHeader, r0.pos)
  let (i2, r2) ← rdBits 8 r1
  if i2 ≠ 0x8B then throw (hzHeader, r1.pos)
  let (cm, r3) ← rdBits 8 r2
  if cm ≠ 8 then throw (hzHeader, r2.pos)
  let (f, r4) ← rdBits 8 r3
  if 32 ≤ f then throw (hzHeader, r3.pos)
  let (_, r) ← rdBits 48 r4
  let r ← (if bitOf f 2 then do
      let (n, r) ← rdBits 16 r
      let (_, r) ← rdBits (8 * n) r
      return r
    else (.ok r : Except HzErr Rd))
  let r ← (if bitOf f 3 then rdZ 65535 r else .ok r)
  let r ← (if bitOf f 4 then rdZ 65535 r else .ok r)
  if bitOf f 1 then
    let (c, r') ← rdBits 16 r
    if c ≠ crc32 (rdBetween r0 r) % 65536 then throw (hzHeader, r.pos)
    return r'
  else return r

/-- Reads a block header and its codes. -/
def infBlock (x : Inf) (at_ : Rd) : Except HzErr Inf := do
  let (f, r) ← rdBit at_
  let (t, r) ← rdBits 2 r
  let type := r.pos - 1
  let x := { x with bfinal := decide (f = 1), btype := t, blkPos := at_.pos, inBlock := true }
  if t = 0 then
    let (n, r) ← rdBits 16 (rdAlign r)
    let nlen := r.pos
    let (m, r) ← rdBits 16 r
    if n + m ≠ 65535 then throw (hzStream, nlen)
    return { x with r := r, stored := n, symPos := r.pos }
  else if t = 1 then return { x with r := r, lit := fixedLit, dist := fixedDist, symPos := r.pos }
  else if t = 2 then
    let ((l, d), r) ← rdDynamic r
    return { x with r := r, lit := l, dist := d, symPos := r.pos }
  else throw (hzStream, type)

/-- Decodes one literal/length symbol, and its distance. -/
def infSym (x : Inf) : Except HzErr Inf := do
  let at_ := x.r.pos
  let (c, r) ← huffSym x.lit x.r
  if c < 256 then return { x with r := r, symPos := at_, byte := some c }
  else if c = 256 then return { x with r := r, symPos := at_, inBlock := false }
  else if 286 ≤ c then throw (hzStream, r.pos - 1)
  else
    let (e, r) ← rdBits (lenExtra.getD (c - 257) 0) r
    let (d, r) ← huffSym x.dist r
    if 30 ≤ d then throw (hzStream, r.pos - 1)
    let (g, r) ← rdBits (distExtra d) r
    let dist := distBase.getD d 1 + g
    if x.mem < dist then throw (hzStream, r.pos - 1)
    return { x with r := r, symPos := at_, owed := lenBase.getD (c - 257) 3 + e, paid := false, back := dist }

/-- The end of the last block: the stream ends, or the member's trailer is checked. -/
def infTrailer (x : Inf) : Except HzErr Inf := do
  if x.raw then return { x with ended := true }
  let r0 := rdAlign x.r
  let (c, r1) ← rdBits 32 r0
  if c ≠ Nat.xor x.crc 0xFFFFFFFF then throw (hzCrc, r0.pos)
  let (n, r) ← rdBits 32 r1
  if n ≠ x.mem % 2 ^ 32 then throw (hzIsize, r1.pos)
  return { x with r := r, open_ := false, bfinal := false, members := x.members + 1, ended := !x.multi }

/-- One step towards the next byte. -/
def infStep (x : Inf) : Except HzErr Inf :=
  if !x.open_ then
    if x.raw then .ok { x with open_ := true }
    else if decide (0 < x.members) && x.r.src.isEmpty then .ok { x with ended := true }
    else do
      let r ← rdHeader x.r
      return { x with r := r, open_ := true, mem := 0, crc := 0xFFFFFFFF }
  else if !x.inBlock then (if x.bfinal then infTrailer x else infBlock x x.r)
  else if x.btype = 0 then
    if x.stored = 0 then .ok { x with inBlock := false }
    else do
      let (b, r) ← rdBits 8 x.r
      return { x with symPos := x.r.pos, r := r, byte := some b }
  else infSym x

/-- What the decoder has: a byte to take, its end, or a failure. -/
inductive InfEv where
  | byte | ended | bad (code : Nat)
deriving DecidableEq, Repr

/-- Steps until there is a byte to take or the stream ends. `k` bounds the steps. -/
def infNext : Nat → Inf → Inf × InfEv
  | 0, x => ({ x with badAt := x.r.pos }, .bad hzStream)
  | k + 1, x =>
    if x.ended then (x, .ended)
    else if x.byte.isSome || decide (0 < x.owed) then (x, .byte)
    else match infStep x with
      | .ok y => infNext k y
      | .error e => ({ x with badAt := e.2 }, .bad e.1)

/-- The byte to take, and the stream after it. -/
def infTake (x : Inf) : Byte × Inf :=
  let b : Byte := match x.byte with
    | some v => BitVec.ofNat 8 v
    | none => x.out.getD (x.back - 1) 0#8
  let y := { x with out := b :: x.out, mem := x.mem + 1, crc := crcShiftR 0xEDB88320 (Nat.xor x.crc b.toNat) 8 }
  match x.byte with
  | some _ => (b, { y with byte := none, stored := x.stored - 1 })
  | none => (b, { y with owed := x.owed - 1, paid := true })

/-- Steps the decoder can need between two bytes. -/
def infFuel (src : List (Option Byte)) : Nat := 16 * src.length + 64

/-- Takes up to `n` bytes. -/
def infRun (fuel : Nat) : Nat → Inf → Inf × Bytes × Option InfEv
  | 0, x => (x, [], none)
  | n + 1, x =>
    match infNext fuel x with
    | (y, .byte) =>
      let t := infTake y
      let u := infRun fuel n t.2
      (u.1, t.1 :: u.2.1, u.2.2)
    | (y, e) => (y, [], some e)

/-- One whole gzip member that ends exactly at the end of the source, of at most `cap` bytes: the bytes,
or the HZ_CHECK code. Longer output, and bytes after the member, answer TRUNCATED with the flag. -/
inductive Unpacked where
  | ok (data : Bytes)
  | bad (code : Nat)
  /-- The member does not end where the source does, or its output passes the limit. -/
  | misfit
deriving DecidableEq, Repr

def gunzip (src : List (Option Byte)) (cap : Nat) : Unpacked :=
  let f := infFuel src
  let r := infRun f (cap + 1) { r := ⟨src, 0, 0⟩, raw := false, multi := false }
  match r.2.2 with
  | some .ended => if r.1.r.src.isEmpty then .ok r.2.1 else .misfit
  | some (.bad c) => .bad c
  | _ => .misfit

/-! ### The compressor (R371, R372) -/

/-- Bytes common to positions `i` and `j` of the input, up to `n`. -/
def commonLen (a : Array Byte) (i j : Nat) : Nat → Nat
  | 0 => 0
  | n + 1 => if a.getD i 0#8 = a.getD j 0#8 then commonLen a (i + 1) (j + 1) n + 1 else 0

/-- Searches candidates from distance `d` on; `k` distances and `c` candidates are left. -/
def findMatch (a : Array Byte) (i lim : Nat) : Nat → Nat → Nat → Nat × Nat → Nat × Nat
  | 0, _, _, best => best
  | k + 1, d, c, best =>
    if c = 0 ∨ i < d then best else
    let n := commonLen a i (i - d) lim
    if n < 3 then findMatch a i lim k (d + 1) c best
    else findMatch a i lim k (d + 1) (c - 1) (if best.1 < n then (n, d) else best)

/-- Match at position `i`, whose block ends at `stop`: length and distance, length 0 for none. -/
def matchAt (a : Array Byte) (effort stop i : Nat) : Nat × Nat :=
  findMatch a i (min 258 (stop - i)) (min i 32768) 1 (8 * 4 ^ effort) (0, 0)

/-- Literals (0, byte) and matches (length, distance) of the input from `i` up to `stop`. -/
def tokens (a : Array Byte) (effort : Nat) (lazy : Bool) (stop : Nat) : Nat → Nat → List (Nat × Nat)
  | 0, _ => []
  | k + 1, i =>
    if stop ≤ i then [] else
    let m := matchAt a effort stop i
    if m.1 < 3 ∨ (lazy ∧ m.1 < (matchAt a effort stop (i + 1)).1) then
      (0, (a.getD i 0#8).toNat) :: tokens a effort lazy stop k (i + 1)
    else m :: tokens a effort lazy stop k (i + m.1)

/-- `n` bits of `v`, least significant first; and most significant first, as code words go. -/
def bitsLe (v n : Nat) : List Bool := (List.range n).map fun i => bitOf v i
def bitsBe (v n : Nat) : List Bool := (bitsLe v n).reverse

/-- Code word of a literal/length symbol in the fixed code. -/
def fixedWord (c : Nat) : List Bool :=
  if c < 144 then bitsBe (0x30 + c) 8 else if c < 256 then bitsBe (0x190 + (c - 144)) 9
  else if c < 280 then bitsBe (c - 256) 7 else bitsBe (0xC0 + (c - 280)) 8

/-- Index of the entry of a base table that covers a value. -/
def baseIndex (bases : List Nat) (v : Nat) : Nat := (bases.filter fun b => decide (b ≤ v)).length - 1

def fixedToken (t : Nat × Nat) : List Bool :=
  if t.1 = 0 then fixedWord t.2 else
  let l := baseIndex lenBase t.1
  let d := baseIndex distBase t.2
  fixedWord (257 + l) ++ bitsLe (t.1 - lenBase.getD l 0) (lenExtra.getD l 0) ++ bitsBe d 5 ++
    bitsLe (t.2 - distBase.getD d 0) (distExtra d)

/-- A stored block that starts at bit `pos`, less BFINAL. -/
def storedBlock (pos : Nat) (bs : Bytes) : List Bool :=
  [false, false] ++ List.replicate ((8 - (pos + 3) % 8) % 8) false ++ bitsLe bs.length 16 ++
    bitsLe (65535 - bs.length) 16 ++ bs.flatMap fun b => bitsLe b.toNat 8

def fixedBlock (ts : List (Nat × Nat)) : List Bool :=
  [true, false] ++ ts.flatMap fixedToken ++ fixedWord 256

/-- Packs bits into bytes, least significant first. `k` counts the bytes. -/
def packBits : Nat → List Bool → Bytes
  | 0, _ => []
  | k + 1, bs =>
    BitVec.ofNat 8 ((List.range 8).foldl (fun v i => v + b2n (bs.getD i false) * 2 ^ i) 0) :: packBits k (bs.drop 8)

/-- The bits after BFINAL are a dynamic block for bytes `bs` that follow `past` (newest first). -/
def dynamicOk (past bs : Bytes) (dy : List Bool) : Bool :=
  let src := (packBits (ceilDiv (dy.length + 1) 8) (true :: dy)).map some
  let f := infFuel src
  let r := infRun f bs.length { r := ⟨src, 0, 0⟩, raw := true, multi := false, open_ := true, out := past, mem := past.length }
  let e := infNext f r.1
  decide (dy.take 2 = [false, true]) && decide (r.2.2 = none ∧ r.2.1 = bs ∧ e.2 = .ended) && decide (e.1.r.pos = dy.length + 1)

/-- One block: the encoding of fewest bits, ties to stored, then fixed (R371). -/
def deflateBlock (final : Bool) (pos : Nat) (past bs : Bytes) (ts : List (Nat × Nat)) : List Bool :=
  let st := storedBlock pos bs
  let fx := fixedBlock ts
  let dy := Config.dynamicBlock ts
  let best := if st.length ≤ fx.length then st else fx
  final :: (if dy.length < best.length && dynamicOk past bs dy then dy else best)

/-- Blocks from `i` on; `k` bounds the blocks. -/
def deflateFrom (a : Array Byte) (input : Bytes) (effort : Nat) (lazy : Bool) : Nat → Nat → Nat → List Bool
  | 0, _, _ => []
  | k + 1, i, pos =>
    let stop := min (i + 32768) a.size
    let b := deflateBlock (decide (a.size ≤ stop)) pos (input.take i).reverse (sliceB input i (stop - i)) (tokens a effort lazy stop (stop - i) i)
    if a.size ≤ stop then b else b ++ deflateFrom a input effort lazy k stop (pos + b.length)

/-- The compressed form of an input (R371). An empty input is one fixed block. -/
def deflate (input : Bytes) (effort : Nat) (lazy raw : Bool) : Bytes :=
  let bits := if input = [] then true :: fixedBlock [] else
    deflateFrom input.toArray input effort lazy (input.length / 32768 + 1) 0 0
  let body := packBits (ceilDiv bits.length 8) bits
  if raw then body
  else [0x1F#8, 0x8B#8, 0x08#8, 0#8, 0#8, 0#8, 0#8, 0#8, 0#8, 0xFF#8] ++ body ++ natLe (crc32 input) 4 ++
    natLe input.length 4

end Sys2Proof.Machine
end

