-- ==== Sys2Proof/Machine/Hle.lean ====
section
/-! DEFINITION. The Huarno lossless engine (R351 to R378): its pipes and their users, buffer chains,
HZ_JOB in its three operations, and the result record. The bits themselves stand in Machine/Gzip.lean. -/

namespace Sys2Proof.Machine

def evHzDone : Nat := 212
def evHzCheck : Nat := 213
def evHzChain : Nat := 214
def evHzVerify : Nat := 215

/-- Statuses of Table 11-7. -/
def hzRange : Nat := 0x40
def hzBad : Nat := 0x41
def hzSuspended : Nat := 0x42
def hzOutFull : Nat := 0x43
def hzVerifyFail : Nat := 0x44
def hzWrite : Nat := 0x45
def hzRecord : Nat := 0x46

/-! ### Pipes (R351, R352) -/

def pipeState (s : State) (p : Nat) : Nat := fld s (Reg.HLE_STAT_PIPE p)
def setPipe (s : State) (p v : Nat) : State := setFld s (Reg.HLE_STAT_PIPE p) v
/-- A pool pipe that is idle. -/
def freePipe (s : State) : Option Nat := [1, 2, 3].find? fun p => decide (pipeState s p = 0)

/-- Ray map staging of a GZ image wants two pipes; unpacking of a GZ uniformity image wants one. -/
def stageWants (s : State) : Bool :=
  match s.rmap.job with
  | some (_, _, _, gz) => gz && decide (s.hle.stage.length < 2)
  | none => false
def uniWants (s : State) : Bool :=
  match s.rmap.push with
  | some p => p.unpacking && s.hle.uni.isNone
  | none => false

/-- STAGE_WAIT and UNI_WAIT. -/
def fixWaits (s : State) : State :=
  setFld (setFld s Reg.HLE_STAT_STAGE_WAIT (b2n (stageWants s))) Reg.HLE_STAT_UNI_WAIT (b2n (uniWants s))

/-- A free pool pipe goes to staging, else to unpacking (R352). -/
def giveInternal (s : State) : State :=
  match freePipe s with
  | none => s
  | some p =>
    if stageWants s then
      let l := s.hle.stage ++ [p]
      let s := { s with hle := { s.hle with stage := l } }
      if l.length = 2 then forAll l (fun p s => setPipe s p 3) s else setPipe s p 2
    else if uniWants s then setPipe { s with hle := { s.hle with uni := some p } } p 2
    else s

/-- Internal users take what pipes are free. -/
def poolInternal (s : State) : State := fixWaits (giveInternal (giveInternal (giveInternal s)))

/-- Staging, or unpacking, lets its pipes go. -/
def stageFree (s : State) : State :=
  let l := s.hle.stage
  fixWaits (forAll l (fun p s => setPipe s p 0) { s with hle := { s.hle with stage := [] } })
def uniFree (s : State) : State :=
  match s.hle.uni with
  | some p => fixWaits (setPipe { s with hle := { s.hle with uni := none } } p 0)
  | none => fixWaits s

/-- Bytes in and out of a pipe. -/
def pipeBytes (i o : Nat) (s : State) : State :=
  setReg (setReg s Reg.HLE_BYTES_IN (BitVec.ofNat 64 ((reg s Reg.HLE_BYTES_IN).toNat + i))) Reg.HLE_BYTES_OUT
    (BitVec.ofNat 64 ((reg s Reg.HLE_BYTES_OUT).toNat + o))

/-! ### Sources -/

/-- A line as a read would answer it, without the read's effects. `k` counts lines before it. -/
def peekLine (s : State) (grp line k : Nat) : Option Bytes :=
  if capacity s ≤ 64 * line then none else (lineDecode grp line 0 { s with free := s.free + 64 * k }).2

/-- The bytes of a range, `none` for those of poisoned lines. -/
def peekRange (s : State) (grp a n : Nat) : List (Option Byte) :=
  let ls := (List.range (lineCount a n)).flatMap fun i =>
    match peekLine s grp (a / 64 + i) i with
    | some bs => bs.map some
    | none => List.replicate 64 none
  (ls.drop (a % 64)).take n

/-- The lines of `n` bytes of a source, from byte `k` on, are read, for what the reads bring about. -/
def readSource (grp : Nat) : List (Nat × Nat) → Nat → Nat → State → State
  | [], _, _, s => s
  | (a, l) :: t, k, n, s =>
    if n = 0 then s
    else if l ≤ k then readSource grp t (k - l) n s
    else readSource grp t 0 (n - (l - k)) (memRead grp (a + k) (min (l - k) n) s).1

/-! ### Buffer chains (R359, R360) -/

/-- A chain entry: address, length, END, LINK. -/
structure ChainEntry where
  addr : Nat
  len : Nat
  last : Bool
  link : Bool

/-- Reads a chain entry; `none` where a reserved bit is set, END and LINK are, a LINK is misaligned, or
the entry reads poisoned. -/
def readEntry (a : Nat) (s : State) : State × Option ChainEntry :=
  let m := memRead grpLossless a 16 s
  let f := leAt m.2.1 12 1
  let e : ChainEntry := ⟨leAt m.2.1 0 8, leAt m.2.1 8 4, bitOf f 0, bitOf f 1⟩
  if m.2.2 || decide (4 ≤ f) || decide (leAt m.2.1 13 3 ≠ 0) || (e.last && e.link) || (e.link && decide (e.addr % 16 ≠ 0)) then
    (m.1, none)
  else (m.1, some e)

/-- Reads a whole source chain: its non-empty buffers, or `none` for HZ_RANGE. -/
def readChain : Nat → Nat → Nat → List (Nat × Nat) → State → State × Option (List (Nat × Nat))
  | 0, _, _, _, s => (s, none)
  | k + 1, a, links, acc, s =>
    let r := readEntry a s
    match r.2 with
    | none => (r.1, none)
    | some e =>
      if e.link then
        if 256 ≤ links then (r.1, none) else readChain k e.addr (links + 1) acc r.1
      else
        let acc := if e.len = 0 then acc else acc ++ [(e.addr, e.len)]
        if 256 < acc.length then (r.1, none)
        else if e.last then (r.1, some acc) else readChain k (a + 16) links acc r.1

/-- Entries a chain can hold before it leaves the memory. -/
def chainFuel (s : State) : Nat := 257 * (capacity s / 16 + 2)

/-- A destination chain: the next entry (none after END), LINKs met, and the buffer being filled. -/
structure HzDst where
  next : Option Nat
  links : Nat := 0
  addr : Nat := 0
  left : Nat := 0
  /-- Ranges that no destination may overlap. -/
  avoid : List (Nat × Nat)

def overlaps (a n b m : Nat) : Bool := decide (0 < n ∧ 0 < m ∧ a < b + m ∧ b < a + n)

/-- The next buffer: `some (some d)` found, `some none` the chain is exhausted, `none` HZ_RANGE. -/
def dstNext : Nat → HzDst → State → State × Option (Option HzDst)
  | 0, _, s => (s, none)
  | k + 1, d, s =>
    match d.next with
    | none => (s, some none)
    | some a =>
      let r := readEntry a s
      match r.2 with
      | none => (r.1, none)
      | some e =>
        if e.link then
          if 256 ≤ d.links then (r.1, none) else dstNext k { d with next := some e.addr, links := d.links + 1 } r.1
        else
          let d := { d with next := if e.last then none else some (a + 16), addr := e.addr, left := e.len }
          if e.len = 0 then dstNext k d r.1
          else if d.avoid.any fun x => overlaps e.addr e.len x.1 x.2 then (r.1, none)
          else (r.1, some (some d))

/-- How output ended: 0 for none yet, a status, or exhaustion. -/
inductive HzEnd where
  | ok | bad (code : Nat) | range | write | full
deriving DecidableEq, Repr

/-- Writes bytes that fit the present buffer and one line; false when the write is rejected (R363). -/
def dstWrite (d : HzDst) (bs : Bytes) (s : State) : State × Option HzDst :=
  if writeCheck s grpLossless d.addr bs.length = .ok then
    (memWrite d.addr bs false s, some { d with addr := d.addr + bs.length, left := d.left - bs.length })
  else (rejectWrite s grpLossless d.addr bs.length, none)

/-- Bytes the next write can take. -/
def dstRoom (d : HzDst) : Nat := min d.left (64 - d.addr % 64)

/-- Moves a decoder's output to the destination. Answers the decoder, the end and the bytes written. -/
def hzPump (fuel : Nat) : Nat → Inf → HzDst → Nat → State → State × Inf × HzEnd × Nat
  | 0, x, _, n, s => (s, x, .full, n)
  | k + 1, x, d, n, s =>
    match infNext fuel x with
    | (y, .ended) => (s, y, .ok, n)
    | (y, .bad c) => (s, y, .bad c, n)
    | (y, .byte) =>
      if d.left = 0 then
        match dstNext (chainFuel s) d s with
        | (t, none) => (t, y, .range, n)
        | (t, some none) => (t, y, .full, n)
        | (t, some (some e)) => hzPump fuel k y e n t
      else
        let r := infRun fuel (dstRoom d) y
        match dstWrite d r.2.1 s with
        | (t, none) => (t, y, .write, n)
        | (t, some e) => hzPump fuel k r.1 e (n + r.2.1.length) t

/-- Moves a compressor's output to the destination. -/
def hzPut : Nat → Bytes → HzDst → Nat → State → State × HzEnd × Nat
  | 0, _, _, n, s => (s, .full, n)
  | k + 1, bs, d, n, s =>
    if bs = [] then (s, .ok, n)
    else if d.left = 0 then
      match dstNext (chainFuel s) d s with
      | (t, none) => (t, .range, n)
      | (t, some none) => (t, .full, n)
      | (t, some (some e)) => hzPut k bs e n t
    else
      let m := dstRoom d
      match dstWrite d (bs.take m) s with
      | (t, none) => (t, .write, n)
      | (t, some e) => hzPut k (bs.drop m) e (n + (bs.take m).length) t

/-! ### HZ_JOB bodies (R355, R356) -/

def hzOp (d : Bytes) : Nat := dByte d 4
def hzFlags (d : Bytes) : Nat := dByte d 5
def hzRaw (d : Bytes) : Bool := bitOf (hzFlags d) 0
def hzMulti (d : Bytes) : Bool := bitOf (hzFlags d) 1
def hzLazy (d : Bytes) : Bool := bitOf (hzFlags d) 2
def hzEffort (d : Bytes) : Nat := dByte d 6
def hzSrc (d : Bytes) : Nat := leAt d 8 8
def hzDst (d : Bytes) : Nat := leAt d 16 8
def hzRes (d : Bytes) : Nat := leAt d 24 8
def hzSave (d : Bytes) : Nat := leAt d 32 8
/-- The save area is in use. -/
def hzSaves (d : Bytes) : Bool := decide (hzOp d ≠ 1 ∧ hzSave d ≠ 0)

def hzGranted (s : State) (a n : Nat) : Bool := inParts s (grantBit grpLossless) a n
/-- RES is sound. -/
def hzResOk (s : State) (d : Bytes) : Bool := decide (hzRes d % 64 = 0) && hzGranted s (hzRes d) 32

/-- The body passes R356. -/
def hzBodyOk (s : State) (d : Bytes) : Bool :=
  decide (hzOp d ≤ 2) && decide (hzFlags d < 8) && decide (hzEffort d ≤ 3) && decide (dByte d 7 = 0) &&
  decide (hzSrc d % 16 = 0) && decide (hzDst d % 16 = 0) && decide (hzSave d % 4096 = 0) && hzResOk s d &&
  !(hzMulti d && hzRaw d) && (decide (hzOp d = 1) || (!hzLazy d && decide (hzEffort d = 0))) &&
  (decide (hzOp d ≠ 2) || decide (hzSave d ≠ 0)) && (!hzSaves d || hzGranted s (hzSave d) 36864)

/-- What a job's end reports. -/
structure HzResult where
  status : Nat
  code : Nat := 0
  members : Nat := 0
  crc : Nat := 0
  inPos : Nat := 0
  outJob : Nat := 0
  outTotal : Nat := 0

/-- The result record (Table 11-4). -/
def hzRecordBytes (r : HzResult) : Bytes :=
  natLe r.status 1 ++ natLe r.code 1 ++ natLe r.members 2 ++ natLe r.crc 4 ++ natLe r.inPos 8 ++ natLe r.outJob 8 ++
    natLe r.outTotal 8

/-- An engine write outside the destination; one that a check rejects is not issued. -/
def hleWrite (a : Nat) (bs : Bytes) (s : State) : State :=
  if writeCheck s grpLossless a bs.length = .ok then memWrite a bs false s else rejectWrite s grpLossless a bs.length

/-- Counts and last ending (HLE_CNT, HLE_LAST). -/
def hzCount (x : HzRun) (r : HzResult) (s : State) : State :=
  let s := if r.status = hzBad then incSat s Reg.HLE_CNT_CHECK 1 else s
  let s := if r.status = hzSuspended ∨ r.status = hzOutFull then incSat s Reg.HLE_CNT_CHAIN 1 else s
  let s := if r.status = hzVerifyFail then incSat s Reg.HLE_CNT_VERIFY 1 else s
  let s := if r.status = hzWrite then incSat s Reg.HLE_CNT_WRITE 1 else s
  if r.status = 0 then s else
  setFld (setFld (setFld (setFld s Reg.HLE_LAST_STATUS r.status) Reg.HLE_LAST_CODE r.code) Reg.HLE_LAST_RING x.ring)
    Reg.HLE_LAST_TAG x.job.tag

/-- A job ends: the result record, the events, the completion (R357, R364, R378). `at_` is the input
offset of a verify mismatch. -/
def hzEnd (x : HzRun) (r : HzResult) (at_ : Nat) (s : State) : State :=
  let s := if hzResOk s x.desc then hleWrite (hzRes x.desc) (hzRecordBytes r) s else s
  let s := hzCount x r s
  let s := if r.status = hzBad then
      raise evHzCheck [(8, x.ring), (16, x.job.tag), (8, r.code), (64, r.inPos)] s else s
  let s := if r.status = hzSuspended ∨ r.status = hzOutFull then
      raise evHzChain [(8, x.ring), (16, x.job.tag), (8, hzOp x.desc), (64, r.outTotal)] s else s
  let s := if r.status = hzVerifyFail then raise evHzVerify [(8, x.ring), (16, x.job.tag), (64, at_)] s else s
  let s := raise evHzDone [(8, x.ring), (16, x.job.tag), (8, r.status), (64, r.outJob)] s
  complete x.job r.status r.code r.outJob s

/-- Ring of a command. -/
def ringOf (j : Job) : Nat :=
  match j.origin with
  | .ring r _ _ => r
  | _ => 0

/-- HZ_JOB: the body and the source chain are checked (R356); the job queues. -/
def hzJobRun (j : Job) (d : Bytes) (s : State) : State :=
  let x : HzRun := ⟨j, ringOf j, d, []⟩
  if !hzBodyOk s d then hzEnd x { status := hzRange } 0 s
  else
    let c := readChain (chainFuel s) (hzSrc d) 0 [] s
    match c.2 with
    | none => hzEnd x { status := hzRange } 0 c.1
    | some src => { c.1 with hle := { c.1.hle with queue := c.1.hle.queue ++ [{ x with src := src }] } }

def cmdHzJob : Cmd where
  op := 0x09
  bodyOk _ := true
  ready := always
  run := hzJobRun

/-- The next HZ_JOB: its ring's first, the rings in round robin (R357). -/
def hzNext (s : State) : Option HzRun :=
  ((List.range 8).map fun i => (s.hle.last + 1 + i) % 8).findSome? fun r => s.hle.queue.find? fun x => decide (x.ring = r)

/-- HZ_JOB_START: a free pool pipe goes to staging, to unpacking, or to the next HZ_JOB (R352, R377). -/
def hzStart (s : State) : State :=
  if stageWants s || uniWants s then poolInternal s
  else if flag s Reg.HLE_CTRL_HOLD then s
  else match freePipe s, hzNext s with
  | some p, some x =>
    let h := { s.hle with queue := s.hle.queue.erase x, run := tblSet none s.hle.run p (some x), last := x.ring }
    let s := setPipe { s with hle := h } p 1
    let s := setReg s (Reg.HLE_PIPE_JOB p) 0
    setFld (setFld (setFld s (Reg.HLE_PIPE_JOB_RING p) x.ring) (Reg.HLE_PIPE_JOB_OP p) (hzOp x.desc))
      (Reg.HLE_PIPE_JOB_TAG p) x.job.tag
  | _, _ => s

/-! ### Decompression (R365 to R369) -/

/-- Where the stream stands: the next symbol, or the next stored byte. A symbol of which nothing has been
written stands unread. -/
def infPlace (x : Inf) : Nat := if x.byte.isSome || (decide (0 < x.owed) && !x.paid) then x.symPos else x.r.pos

/-- The resume record (Table 11-5). -/
def resumeRecord (d : Bytes) (x : Inf) (total members : Nat) : Bytes :=
  let owed := if x.paid then x.owed else 0
  let b := natLe 0x565A4852 4 ++ natLe 0x0100 2 ++ natLe (hzFlags d) 1 ++ natLe (x.btype + 4 * b2n x.bfinal) 1 ++
    natLe x.blkPos 8 ++ natLe (infPlace x) 8 ++ natLe owed 2 ++ natLe (if owed = 0 then 0 else x.back) 2 ++
    natLe (if x.btype = 0 then x.stored else 0) 4 ++ natLe total 8 ++ natLe (Nat.xor x.crc 0xFFFFFFFF) 4 ++
    natLe x.mem 4 ++ natLe (min 32768 x.mem) 4 ++ natLe members 2 ++ natLe 0 70
  b ++ natLe (crc32c b) 4

/-- What a job resumes: the decoder, its output and members so far, the bytes of the block header that it reads again, and
the byte at which it goes on. -/
structure Resumed where
  x : Inf
  total : Nat
  members : Nat
  head : Nat := 0
  headLen : Nat := 0
  start : Nat := 0

/-- A fresh stream. -/
def hzFresh (d : Bytes) (src : List (Option Byte)) : Resumed :=
  { x := { r := ⟨src, 0, 0⟩, raw := hzRaw d, multi := hzMulti d }, total := 0, members := 0 }

/-- RESUME rebuilds the stream from the record and the window (R369): `none` for HZ_RECORD, an error with its place
for a block header that no longer decodes. -/
def hzResume (d rec win : Bytes) (src : List (Option Byte)) : Option (Except HzErr Resumed) :=
  if leAt rec 0 4 ≠ 0x565A4852 ∨ leAt rec 4 2 ≠ 0x0100 ∨ leAt rec 0x7C 4 ≠ crc32c (rec.take 0x7C) ∨
      leAt rec 6 1 ≠ hzFlags d ∨ 8 * src.length < leAt rec 0x10 8 then none
  else
    let n := min 32768 (leAt rec 0x30 4)
    let m := leAt rec 0x2C 4
    let x : Inf := { r := ⟨src, 0, 0⟩, raw := hzRaw d, multi := hzMulti d, open_ := true, out := (win.take n).reverse,
                     mem := if m < n then m + 2 ^ 32 else m, crc := Nat.xor (leAt rec 0x28 4) 0xFFFFFFFF }
    let blk := leAt rec 8 8
    some (match infBlock x (rdAt src blk) with
      | .error e => .error e
      | .ok y =>
        .ok { x := { y with r := rdAt src (leAt rec 0x10 8), owed := leAt rec 0x18 2, paid := true, back := leAt rec 0x1A 2,
                            stored := if y.btype = 0 then leAt rec 0x1C 4 else 0 },
              total := leAt rec 0x20 8, members := leAt rec 0x34 2,
              head := blk / 8, headLen := ceilDiv y.r.pos 8 - blk / 8, start := leAt rec 0x10 8 / 8 })

/-- Ranges a destination must not overlap (R360). -/
def hzAvoid (x : HzRun) : List (Nat × Nat) :=
  x.src ++ [(hzRes x.desc, 32)] ++ if hzSaves x.desc then [(hzSave x.desc, 36864)] else []

/-- Runs a decompression from where it stands and ends the job. A poisoned line that it meets is read with the rest (R366). -/
def hzInflate (x : HzRun) (src : List (Option Byte)) (q : Resumed) (s : State) : State :=
  let f := infFuel src
  let r := hzPump f (f * 300 + chainFuel s) q.x { next := some (hzDst x.desc), avoid := hzAvoid x } 0 s
  let y := r.2.1
  let n := r.2.2.2
  let res : HzResult := { status := 0, members := y.members, crc := Nat.xor y.crc 0xFFFFFFFF,
                          inPos := ceilDiv y.r.pos 8, outJob := n, outTotal := q.total + n }
  let stop := match r.2.2.1 with
    | .bad c => if c = hzPoison then res.inPos + (src.drop res.inPos).idxOf none + 1 else res.inPos
    | _ => res.inPos
  let s := readSource grpLossless x.src q.start (stop - q.start) (readSource grpLossless x.src q.head q.headLen r.1)
  let s := pipeBytes (q.headLen + (res.inPos - q.start)) n s
  match r.2.2.1 with
  | .ok => hzEnd x res 0 s
  | .bad c => hzEnd x { res with status := hzBad, code := c } 0 s
  | .range => hzEnd x { res with status := hzRange } 0 s
  | .write => hzEnd x { res with status := hzWrite } 0 s
  | .full =>
    let res := { res with inPos := ceilDiv (infPlace y) 8 }
    if hzSaves x.desc then
      let w := min 32768 y.mem
      let s := hleWrite (hzSave x.desc) (resumeRecord x.desc y res.outTotal (q.members + y.members)) s
      hzEnd x { res with status := hzSuspended } 0 (hleWrite (hzSave x.desc + 4096) (y.out.take w).reverse s)
    else hzEnd x { res with status := hzOutFull } 0 s

/-! ### Compression (R371 to R375) -/

/-- Offset of the first byte in which two byte strings differ. -/
def firstDiff : Bytes → Bytes → Nat
  | a :: x, b :: y => if a = b then firstDiff x y + 1 else 0
  | _, _ => 0

/-- The verifier decodes the compressed form: what it yields, and whether it ends well (R375). -/
def hzVerify (raw : Bool) (c : Bytes) (n : Nat) : Bytes × Bool :=
  let src := c.map some
  let f := infFuel src
  let r := infRun f (n + 1) { r := ⟨src, 0, 0⟩, raw := raw, multi := false }
  (r.2.1, decide (r.2.2 = some .ended))

def hzDeflate (x : HzRun) (src : List (Option Byte)) (s : State) : State :=
  let d := x.desc
  match src.idxOf? none with
  | some i =>
    let s := readSource grpLossless x.src 0 (i + 1) s
    hzEnd x { status := hzBad, code := hzPoison, inPos := i } 0 (pipeBytes i 0 s)
  | none =>
    let input := src.map fun b => b.getD 0#8
    let out := deflate input (hzEffort d) (hzLazy d) (hzRaw d)
    let r := hzPut (out.length + chainFuel s) out { next := some (hzDst d), avoid := hzAvoid x } 0 s
    let n := r.2.2
    let res : HzResult := { status := 0, members := b2n (!hzRaw d), crc := crc32 input, inPos := input.length,
                            outJob := n, outTotal := n }
    let s := pipeBytes input.length n (readSource grpLossless x.src 0 input.length r.1)
    match r.2.1 with
    | .ok =>
      let v := hzVerify (hzRaw d) out input.length
      if v.2 && decide (v.1 = input) then hzEnd x res 0 s
      else hzEnd x { res with status := hzVerifyFail } (firstDiff v.1 input) s
    | .range => hzEnd x { res with status := hzRange, members := 0 } 0 s
    | .write => hzEnd x { res with status := hzWrite, members := 0 } 0 s
    | _ => hzEnd x { res with status := hzOutFull, members := 0 } 0 s

/-- The block header at BLK_POS of a record fails: nothing new is consumed or written, and the member stands as the record
left it. -/
def hzHeadBad (x : HzRun) (rec : Bytes) (e : HzErr) (s : State) : State :=
  let blk := leAt rec 8 8
  let n := e.2 / 8 + 1 - blk / 8
  hzEnd x { status := hzBad, code := e.1, crc := leAt rec 0x28 4, inPos := ceilDiv blk 8, outTotal := leAt rec 0x20 8 } 0
    (pipeBytes n 0 (readSource grpLossless x.src (blk / 8) n s))

/-- Runs a job on its pipe. -/
def hzRunJob (x : HzRun) (s : State) : State :=
  let src := x.src.flatMap fun e => peekRange s grpLossless e.1 e.2
  if hzOp x.desc = 0 then hzInflate x src (hzFresh x.desc src) s
  else if hzOp x.desc = 1 then hzDeflate x src s
  else
    let m := memRead grpLossless (hzSave x.desc) 128 s
    let w := memRead grpLossless (hzSave x.desc + 4096) (min 32768 (leAt m.2.1 0x30 4)) m.1
    if m.2.2 || w.2.2 then hzEnd x { status := hzRecord } 0 w.1
    else match hzResume x.desc m.2.1 w.2.1 src with
    | none => hzEnd x { status := hzRecord } 0 w.1
    | some (.error e) => hzHeadBad x m.2.1 e w.1
    | some (.ok q) => hzInflate x src q w.1

/-- HZ_JOB_END: the job of pipe `p` ends and its pipe falls free. -/
def hzJobEnd (p : Nat) (s : State) : State :=
  match tblGet none s.hle.run p with
  | none => s
  | some x =>
    let s := hzRunJob x s
    let s := { s with hle := { s.hle with run := tblSet none s.hle.run p none } }
    setReg (setPipe s p 0) (Reg.HLE_PIPE_JOB p) 0

/-- HLE_CTRL.CLR. -/
def hleClr (s : State) : State := setReg (setReg (setReg s Reg.HLE_CNT 0) Reg.HLE_BYTES_IN 0) Reg.HLE_BYTES_OUT 0

/-- Every HZ_JOB ends at once, with no record and no completion (R377). -/
def hleAbort (s : State) : State :=
  let s := forAll [1, 2, 3] (fun p s => if pipeState s p = 1 then setReg (setPipe s p 0) (Reg.HLE_PIPE_JOB p) 0 else s) s
  { s with hle := { s.hle with queue := [], run := [] } }

end Sys2Proof.Machine
end

