-- ==== Sys2Proof/Machine/Lant.lean ====
section
/-! DEFINITION. Lanterns: rays (R135 to R145), sampling, colour and compositing (R179 to R187), caches
and poison (R190 to R195, R157), the rows they build (R173 to R176), faults and failover (R196 to
R202). -/

namespace Sys2Proof.Machine

def evLantStall : Nat := 216
def evLantPoisonSub : Nat := 217
def evRaymapErr : Nat := 218

/-! ### Ray formation (R137 to R143) -/

/-- A ray as form_ray answers it. -/
structure Ray where
  pxe : F32
  pye : F32
  cx : F32
  cy : F32
  sx : F32
  sy : F32
  lv : Nat

/-- The nominal lenslet record (R140). -/
def nominalRec : Nat := 0xFF * 2 ^ 40

/-- No generation is in force (R149). -/
def mapNominal (s : State) : Bool := flag s Reg.RMAP_STAT_NOMINAL

/-- Grid parameters in force (R148, R149). -/
def gridOf (s : State) : RayGrid :=
  if mapNominal s then { fx := geoFX s, fy := geoFY s } else s.rmap.cur

/-- Signed field of a lenslet record as fp32. -/
def recField (rec lo w : Nat) : F32 := fOfInt (toSigned w (bitsOf rec lo w))

/-- cos_sin of R142. -/
def cosSin (al : F32) : F32 × F32 :=
  let a2 := fMul al al
  (fAdd 0x3F800000 (fMul a2 (fAdd 0xBF000000 (fMul a2 0x3D2AAAAB))),
   fMul al (fAdd 0x3F800000 (fMul a2 (fAdd 0xBE2AAAAB (fMul a2 0x3C088889)))))

/-- Lenslet of a pixel (R138). -/
def lensletB (s : State) (v : Nat) : Nat := v / geoLY s
def lensletSb (s : State) (v : Nat) : Nat := lensletB s v * geoSlant s % geoLX s
def lensletA (s : State) (u v : Nat) : Nat := (u + lensletSb s v) / geoLX s

/-- form_ray of R142, for a lenslet record and a residual byte. -/
def formRay (s : State) (rec res u v e : Nat) : Ray :=
  let g := gridOf s
  let px := geoPitchX s
  let py := geoPitchY s
  let n (i : Int) : F32 := fOfInt i
  let hx := fDiv px (n 6)
  let hy := fDiv py (n 2)
  let gxh := fDiv px (n 2)
  let cxo := fAdd (fDiv (fMul (n (geoPX s)) px) (n 2)) g.x0
  let cyo := fAdd (fDiv (fMul (n (geoPY s)) py) (n 2)) g.y0
  let dxu := fDiv px (n 64)
  let dyu := fDiv py (n 64)
  let rsx := fDiv px (fMul (n 16) g.fx)
  let rsy := fDiv py (fMul (n 16) g.fy)
  let kx : Int := (2 * lensletA s u v + 1) * geoLX s - 2 * (lensletSb s v : Int) - geoPX s
  let ky : Int := (2 * lensletB s v + 1) * geoLY s - (geoPY s : Int)
  let gx := fMul (n kx) gxh
  let gy := fMul (n ky) hy
  let (ct, st) := cosSin g.theta
  let cx := fAdd (fAdd (fSub (fMul ct gx) (fMul st gy)) cxo) (fMul (recField rec 0 12) dxu)
  let cy := fAdd (fAdd (fAdd (fMul st gx) (fMul ct gy)) cyo) (fMul (recField rec 12 12) dyu)
  let pxe := fMul (n (6 * u + 2 * e + 1)) hx
  let pye := fMul (n (2 * v + 1)) hy
  let (ca, sa) := cosSin (fAdd g.theta (fMul (recField rec 24 8) 0x3A800000))
  let fs := fAdd 0x3F800000 (fMul (recField rec 32 8) 0x3A800000)
  let fx := fMul g.fx fs
  let fy := fMul g.fy fs
  let dx := fSub pxe cx
  let dy := fSub pye cy
  let ux := fAdd (fMul ca dx) (fMul sa dy)
  let uy := fSub (fMul ca dy) (fMul sa dx)
  let tx := fNeg (fDiv ux fx)
  let ty := fNeg (fDiv uy fy)
  let sx := fAdd (fSub (fMul ca tx) (fMul sa ty)) (fMul (n (toSigned 4 (bitsOf res 0 4))) rsx)
  let sy := fAdd (fAdd (fMul sa tx) (fMul ca ty)) (fMul (n (toSigned 4 (bitsOf res 4 4))) rsy)
  let lv := optLevel s (lensZone s u v)
  if 0 < lv then ⟨pxe, pye, cx, cy, fMul sx (levelScale s lv), fMul sy (levelScale s lv), lv⟩
  else ⟨pxe, pye, cx, cy, sx, sy, lv⟩

/-- fix of R142: to signed 20.12; a NaN gives -2^31 (R180). -/
def fix12 (w : F32) : Int :=
  match fRoundEven (fMul w 0x45800000) with
  | some i => clampI (-(2 ^ 31)) (2 ^ 31 - 1) i
  | none => -(2 ^ 31)

/-- layer_coord of R142; `none` for a miss. -/
def layerCoord (r : Ray) (k : Layer) : Option (Int × Int) :=
  let out (qx qy : F32) : Int × Int :=
    (fix12 (fDiv (fSub qx k.orgX) k.pitch), fix12 (fDiv (fSub qy k.orgY) k.pitch))
  if r.lv = 0 then some (out r.cx r.cy)
  else
    let at_ (t : F32) : Int × Int := out (fAdd r.pxe (fMul t r.sx)) (fAdd r.pye (fMul t r.sy))
    if fIsZero k.tiltX && fIsZero k.tiltY then some (at_ k.z)
    else
      let n := fAdd (fAdd k.z (fMul k.tiltX (fSub r.pxe k.orgX))) (fMul k.tiltY (fSub r.pye k.orgY))
      let m := fSub (fSub 0x3F800000 (fMul k.tiltX r.sx)) (fMul k.tiltY r.sy)
      if fLt m 0x3D800000 then none else some (at_ (fDiv n m))

/-! ### The texel cache (R190, R194) -/

def lantOf (s : State) (l : Nat) : LantState := tblGet {} s.scan.lants l
def setLant (s : State) (l : Nat) (x : LantState) : State :=
  { s with scan := { s.scan with lants := tblSet {} s.scan.lants l x } }

/-- A texel line through the cache of lantern `l`: its bytes, `none` for poison. -/
def texelLine (l line : Nat) (s : State) : State × Option Bytes :=
  let x := lantOf s l
  let i := Config.texelSet line % 256
  let c := tblGet [] x.cache i
  match c.find? fun e => decide (e.1 = line) with
  | some e =>
    let c := e :: c.filter fun f => decide (f.1 ≠ line)
    (setLant s l { x with cache := tblSet [] x.cache i c }, e.2)
  | none =>
    let r := lineRead grpLantern line 0 s
    let c := ((line, r.2) :: c).take 16
    let s := setLant r.1 l { x with cache := tblSet [] x.cache i c }
    (setFld s (Reg.LANT_FILLS_FILLS l) (fld s (Reg.LANT_FILLS_FILLS l) + 1), r.2)

/-- `n` bytes at device address `a`, within one line; on poison the line's address. -/
def texelRead (l a n : Nat) (s : State) : State × (Nat ⊕ Nat) :=
  let r := texelLine l (a / 64) s
  match r.2 with
  | some bs => (r.1, .inl (leAt bs (a % 64) n))
  | none => (r.1, .inr (a / 64 * 64))

/-! ### Sampling (R181, R182) -/

/-- A stored value of a plane: luma, Cb, Cr or alpha (R128). -/
inductive Chan where
  | luma | cb | cr | alpha

def chromaW (k : Layer) : Nat := if k.fmt % 4 = 2 then k.width else k.width / 2
def chromaH (k : Layer) : Nat := if k.fmt % 4 = 0 then k.height / 2 else k.height

def packed10 (l base i : Nat) (s : State) : State × (Nat ⊕ Nat) :=
  let r := texelRead l (base + 4 * (i / 3)) 4 s
  match r.2 with
  | .inl w => (r.1, .inl (bitsOf w (10 * (i % 3)) 10))
  | .inr a => (r.1, .inr a)

def texel (l : Nat) (k : Layer) (c : Chan) (i j : Nat) (s : State) : State × (Nat ⊕ Nat) :=
  match c with
  | .luma => packed10 l k.yAt (j * k.width + i) s
  | .cb => packed10 l k.cAt (2 * (j * chromaW k + i)) s
  | .cr => packed10 l k.cAt (2 * (j * chromaW k + i) + 1) s
  | .alpha => texelRead l (k.aAt + j * k.width + i) 1 s

/-- tap of R181: the sample value times 256, or the poisoned line met first. -/
def tap (l : Nat) (k : Layer) (c : Chan) (w h : Nat) (x y : Int) (s : State) : State × (Nat ⊕ Nat) :=
  let fx := x - 2048
  let fy := y - 2048
  let wx := (fx / 16 % 256).toNat
  let wy := (fy / 16 % 256).toNat
  let i1 := (min (fx / 4096 + 1) ((w : Int) - 1)).toNat
  let j1 := (min (fy / 4096 + 1) ((h : Int) - 1)).toNat
  let i0 := (fx / 4096).toNat
  let j0 := (fy / 4096).toNat
  let a := texel l k c i0 j0 s
  let b := texel l k c i1 j0 a.1
  let d := texel l k c i0 j1 b.1
  let e := texel l k c i1 j1 d.1
  match a.2, b.2, d.2, e.2 with
  | .inl v00, .inl v10, .inl v01, .inl v11 =>
    let h0 := v00 * (256 - wx) + v10 * wx
    let h1 := v01 * (256 - wx) + v11 * wx
    (e.1, .inl ((h0 * (256 - wy) + h1 * wy + 128) / 256))
  | .inr p, _, _, _ => (e.1, .inr p)
  | _, .inr p, _, _ => (e.1, .inr p)
  | _, _, .inr p, _ => (e.1, .inr p)
  | _, _, _, .inr p => (e.1, .inr p)

/-- A layer sample: its alpha and its colour for primary `p`, or the poisoned line (R182 to R184). -/
def sampleLayer (l p : Nat) (k : Layer) (x y : Int) (s : State) : State × ((Nat × Nat) ⊕ Nat) :=
  let cx := if k.fmt % 4 = 2 then x else x / 2
  let cy := if k.fmt % 4 = 0 then y / 2 else y
  let sy := tap l k .luma k.width k.height x y s
  let cb := tap l k .cb (chromaW k) (chromaH k) cx cy sy.1
  let cr := tap l k .cr (chromaW k) (chromaH k) cx cy cb.1
  let al : State × (Nat ⊕ Nat) := if bitOf k.fmt 4 then tap l k .alpha k.width k.height x y cr.1 else (cr.1, .inl 65280)
  match sy.2, cb.2, cr.2, al.2 with
  | .inl y', .inl b', .inl r', .inl a' => (al.1, .inl (a' * 257 / 256, colour16 s k.cset p y' b' r'))
  | .inr a, _, _, _ => (al.1, .inr a)
  | _, .inr a, _, _ => (al.1, .inr a)
  | _, _, .inr a, _ => (al.1, .inr a)
  | _, _, _, .inr a => (al.1, .inr a)

/-! ### Compositing (R185, R186, R194) -/

/-- Tick of the scan frame that starts next: a deferred one, or the next that the generator issues (R38). -/
def followingTick (s : State) : Nat := s.scan.deferred.headD s.time.nextTick

/-- Frame that the lanterns build: from its boundary point on, a frame's lanterns build the next (R176). -/
def buildFrame (s : State) : Nat :=
  (if flag s Reg.SCAN_STAT_RUN && !s.scan.past then s.scan.frame else followingTick s) % 2 ^ 32

/-- A sample taken from a poisoned line is transparent and counted; the event once per frame (R194). -/
def poisonSub (l k addr : Nat) (s : State) : State :=
  let s := incSat s (Reg.LANT_POISON_SUBST l) 1
  if s.scan.subRaised then s else
  raise evLantPoisonSub [(8, l), (8, k), (64, addr), (32, buildFrame s)]
    { s with scan := { s.scan with subRaised := true } }

/-- Running result of a ray: A, C and layer samples. -/
structure Comp where
  a : Nat := 0
  c : Nat := 0
  n : Nat := 0

/-- Composites the layers of the current frame, front to back, from layer `i` on. -/
def composite (l p : Nat) (r : Ray) : Nat → List Layer → Comp → State → State × Comp
  | _, [], x, s => (s, x)
  | i, k :: t, x, s =>
    if fld s Reg.LANT_TERM_CUR_TERM * 64 ≤ x.a then (s, x)
    else if k.state = 0 then composite l p r (i + 1) t x s
    else match layerCoord r k with
    | none => composite l p r (i + 1) t x s
    | some (cx, cy) =>
      if cx < 0 ∨ cy < 0 ∨ (k.width : Int) * 4096 ≤ cx ∨ (k.height : Int) * 4096 ≤ cy then
        composite l p r (i + 1) t x s
      else
        let q := sampleLayer l p k cx cy s
        match q.2 with
        | .inr addr => composite l p r (i + 1) t { x with n := x.n + 1 } (poisonSub l i addr q.1)
        | .inl (a16, c16) =>
          let w := ((65536 - x.a) * a16 + 32768) / 65536
          let c := min (x.c + (w * c16 + 32768) / 65536) 1048575
          let a := if bitOf k.fmt 5 then x.a else min (x.a + w) 65535
          composite l p r (i + 1) t ⟨a, c, x.n + 1⟩ q.1

/-- Stage 6 (R186). -/
def finishRay (s : State) (x : Comp) (rec z p : Nat) : Nat :=
  let bg := bitsOf (fld s Reg.LANT_BG_CUR_BG) (16 * p) 16
  let c := min (x.c + ((65536 - x.a) * bg + 32768) / 65536) 1048575
  let c := (c * (bitsOf rec 40 8 + 1) + 128) / 256
  let c := (c * agingGain s z p + 16384) / 32768
  min c 65535

/-! ### Ray map lines (R150, R157, R191) -/

def rmapBase (s : State) (slot : Nat) : Nat := if slot = 0 then fld s Reg.RMAP_SLOT_A_BASE else fld s Reg.RMAP_SLOT_B_BASE
/-- Start of the residual plane within a slot. -/
def residStart (s : State) : Nat := ceilDiv (geoNLX s * geoNLY s * 8) 4096 * 4096
def curSlot (s : State) : Nat := fld s Reg.RMAP_STAT_CUR_SLOT
def recAddr (s : State) (u v : Nat) : Nat :=
  rmapBase s (curSlot s) + 8 * (lensletB s v * geoNLX s + lensletA s u v)
def resAddr (s : State) (u v : Nat) : Nat := rmapBase s (curSlot s) + residStart s + v * geoPX s + u

/-- A substituted line is counted, and reported once per scan frame (R157). -/
def mapSub (line : Nat) (s : State) : State :=
  let off := 64 * line - rmapBase s (curSlot s)
  let s := if off < residStart s then incSat s Reg.RMAP_SUBST_LENSLET 1 else incSat s Reg.RMAP_SUBST_RESID 1
  if s.scan.mapRaised then s else
  raise evRaymapErr [(8, 0x10), (16, fld s Reg.RMAP_GEN_CUR), (64, off)]
    { s with scan := { s.scan with mapRaised := true } }

/-- Lines of a lantern's ray-map cache, lines it prefetches ahead of the ray being formed (R191). -/
def rayCacheLines : Nat := 1024
def rayAhead : Nat := 16

/-- Reads a ray map line; a poisoned one is substituted (R157). -/
def mapLine (a : Nat) (s : State) : State × Option Bytes :=
  let r := lineRead grpLantern a 0 s
  (if r.2 = none then mapSub a r.1 else r.1, r.2)

/-- Reads the lenslet record lines that lantern `l` does not hold. -/
def rayLines (l : Nat) : List Nat → State → State
  | [], s => s
  | a :: t, s =>
    let x := lantOf s l
    if x.ray.any fun e => decide (e.1 = a) then rayLines l t s
    else
      let r := mapLine a s
      rayLines l t (setLant r.1 l { x with ray := ((a, r.2) :: x.ray).take (rayCacheLines - (rayAhead + 1)) })

/-- Reads the residual lines that lantern `l` does not hold. -/
def resLines (l : Nat) : List Nat → State → State
  | [], s => s
  | a :: t, s =>
    let x := lantOf s l
    if x.res.any fun e => decide (e.1 = a) then resLines l t s
    else
      let r := mapLine a s
      resLines l t (setLant r.1 l { x with res := (a, r.2) :: x.res })

/-- The residual lines stream past the rays: those before pixel `u` go, and the one it needs and up to 16 ahead, as far as
that of pixel `last`, are read (R191). -/
def rayStream (l u last v : Nat) (s : State) : State :=
  if mapNominal s then s else
  let a := resAddr s u v / 64
  let x := lantOf s l
  let s := setLant s l { x with res := x.res.filter fun e => decide (a ≤ e.1) }
  resLines l ((List.range (min (rayAhead + 1) (resAddr s last v / 64 + 1 - a))).map fun i => a + i) s

/-- The lantern holds the lenslet records of the row it builds (R191). -/
def rayRow (l v : Nat) (s : State) : State :=
  let x := lantOf s l
  if x.lensRow = some (lensletB s v) then s
  else setLant s l { x with lensRow := some (lensletB s v), ray := [] }

/-- Lenslet record and residual of a pixel, from the lines held. -/
def rayRec (s : State) (l u v : Nat) : Nat :=
  if mapNominal s then nominalRec else (lineNat (lantOf s l).ray (recAddr s u v) 8).getD nominalRec
def rayRes (s : State) (l u v : Nat) : Nat :=
  if mapNominal s then 0 else (lineNat (lantOf s l).res (resAddr s u v) 1).getD 0

/-- A cache line whose parity fails is invalidated, read again and counted (R193). A line that lantern `l` does not hold
is none of its lines. -/
def parityLine (l a : Nat) (s : State) : State :=
  let x := lantOf s l
  let i := Config.texelSet a % 256
  let c := tblGet [] x.cache i
  let n := fun s => incSat s (Reg.LANT_POISON_CPAR l) 1
  if c.any fun e => decide (e.1 = a) then
    n (texelLine l a (setLant s l { x with cache := tblSet [] x.cache i (c.filter fun e => decide (e.1 ≠ a)) })).1
  else if x.ray.any fun e => decide (e.1 = a) then
    n (rayLines l [a] (setLant s l { x with ray := x.ray.filter fun e => decide (e.1 ≠ a) }))
  else if x.res.any fun e => decide (e.1 = a) then
    n (resLines l [a] (setLant s l { x with res := x.res.filter fun e => decide (e.1 ≠ a) }))
  else s

/-! ### Rows (R174, R175, R187) -/

/-- Layers of the current content frame (R119). -/
def curLayers (s : State) : List Layer := (s.reel.cur.map Content.layers).getD []

/-- Builds the values of one wick's row, in the order of R174; counts its rays and samples. -/
def buildEmitters (l v last : Nat) : List (Nat × Nat) → State → State × List Nat × Nat × Nat
  | [], s => (s, [], 0, 0)
  | (u, e) :: t, s =>
    if flag s Reg.LANT_CTRL_SKIP_EN && zoneCovered s (lensZone s u v) then
      let r := buildEmitters l v last t s
      (r.1, 0 :: r.2.1, r.2.2.1, r.2.2.2)
    else
      let s := rayStream l u last v s
      let p := primaryOf s e
      let rec_ := rayRec s l u v
      let q := composite l p (formRay s rec_ (rayRes s l u v) u v e) 0 (curLayers s) {} s
      let o := finishRay s q.2 rec_ (agingZone s u v) p
      let r := buildEmitters l v last t q.1
      (r.1, o :: r.2.1, r.2.2.1 + 1, r.2.2.2 + q.2.n)

/-- Rows in a wick's FIFO. -/
def fifoOf (s : State) (n : Nat) : List RowSlot := tblGet [] s.scan.fifo n
def setFifo (s : State) (n : Nat) (l : List RowSlot) : State :=
  setFld { s with scan := { s.scan with fifo := tblSet [] s.scan.fifo n l } } (Reg.SCAN_W_STAT_FIFO n) l.length

/-- Discards every row FIFO (R51). -/
def flushFifos (s : State) : State :=
  forAll wicks (fun n s => setFld s (Reg.SCAN_W_STAT_FIFO n) 0) { s with scan := { s.scan with fifo := [] } }

def quadOf (s : State) (q : Nat) : QuadState := tblGet {} s.scan.quads q
def setQuad (s : State) (q : Nat) (x : QuadState) : State :=
  { s with scan := { s.scan with quads := tblSet {} s.scan.quads q x } }

/-- Wicks in use of a quad (R173). -/
def quadWicks (s : State) (q : Nat) : List Nat :=
  ((List.range 4).map fun i => 4 * q + i).filter (wickInUse s)
def quadInUse (s : State) (q : Nat) : Bool := decide (quadWicks s q ≠ [])

/-- Builds row `v` of the wicks of a quad (R174, R175). -/
def buildWicks (l v : Nat) : List Nat → State → State × Nat × Nat
  | [], s => (s, 0, 0)
  | n :: t, s =>
    let us := (wickEmitters s n).map Prod.fst
    let s := if mapNominal s then s else
      rayLines l (us.map fun u => recAddr s u v / 64) (rayRow l v s)
    let b := buildEmitters l v (us.foldl max 0) (wickEmitters s n) s
    let s := setFifo b.1 n (fifoOf b.1 n ++ [⟨v, b.2.1⟩])
    let r := buildWicks l v t s
    (r.1, b.2.2.1 + r.2.1, b.2.2.2 + r.2.2)

/-- State of a lantern: 0 spare, 1 active, 2 faulted, 3 joining. -/
def lantState (s : State) (l : Nat) : Nat := fld s (Reg.LANT_STAT_STATE l)
def lantQuad (s : State) (l : Nat) : Nat := fld s (Reg.LANT_STAT_QUAD l)

/-- Rows are being built: the head is lit or snuffed under an image. -/
def building (s : State) : Bool := decide (lamp s = .lighting ∨ lamp s = .lit ∨ lamp s = .snuffed)

/-- The lantern owes a row: it is active or joining, a row is left to build, and every wick of its quad has a slot free
(R175, R198). -/
def owesRow (s : State) (l : Nat) : Bool :=
  let q := lantQuad s l
  building s && !pathHolds s 6 && decide (l < 50) && decide (lantState s l = 1 ∨ lantState s l = 3) && decide (q < 48) &&
  decide ((quadOf s q).row < actRows s) && (quadWicks s q).all fun n => decide ((fifoOf s n).length < 4)

/-- The lantern builds the row it owes; one that is joining waits for SPARE_JOIN. -/
def canBuild (s : State) (l : Nat) : Bool := owesRow s l && decide (lantState s l = 1)

/-- LANTERN_ROW_DONE: the row is in its FIFOs and the next one begins (R175). `clocks` is the row's
build time, `cpar` the cache lines whose parity failed (R193). -/
def rowDone (l clocks : Nat) (cpar : List Nat) (s : State) : State :=
  let q := lantQuad s l
  let x := quadOf s q
  let b := buildWicks l x.row (quadWicks s q) s
  let s := b.1
  let s := setFld s (Reg.LANT_RAYS_RAYS l) (fld s (Reg.LANT_RAYS_RAYS l) + b.2.1)
  let s := setFld s (Reg.LANT_SAMPLES_SAMPLES l) (fld s (Reg.LANT_SAMPLES_SAMPLES l) + b.2.2)
  let s := forAll cpar (parityLine l) s
  let s := setPeak (setSat s (Reg.LANT_ROWTIME_LAST l) clocks) (Reg.LANT_ROWTIME_PEAK l) clocks
  let s := { s with scan := { s.scan with rays := s.scan.rays + b.2.1, samples := s.scan.samples + b.2.2 } }
  setFld (setQuad s q { x with row := x.row + 1 }) (Reg.LANT_STAT_ROW l) (x.row + 1)

/-- Clears the counts of a lantern. -/
def lantClr (l : Nat) (s : State) : State :=
  let s := setReg (setReg (setReg s (Reg.LANT_RAYS l) 0) (Reg.LANT_SAMPLES l) 0) (Reg.LANT_FILLS l) 0
  setFld (setReg s (Reg.LANT_POISON l) 0) (Reg.LANT_ROWTIME_PEAK l) 0

/-! ### The crossbar and failover (R196 to R202) -/

/-- Lantern that the shadow crossbar names for a quad. -/
def xbarFld (q : Nat) : Fld := Reg.LANT_XBAR_LANTERN (q / 4) (q % 4)
def xbarCurFld (q : Nat) : Fld := Reg.LANT_XBAR_CUR_LANTERN (q / 4) (q % 4)

def lantFaulted (s : State) (l : Nat) : Bool := bitOf (fld s Reg.LANT_FAULTED_FAULTED) l

/-- The quads in use, each with the lantern that the crossbar in force gives it; quads not in use are ignored (R173, R196). -/
def quadsServed (s : State) : List (Nat × Nat) := ((List.range 48).filter (quadInUse s)).map fun q => (xbarCur s q, q)

/-- The quad of a lantern among them. -/
def quadServed (m : List (Nat × Nat)) (l : Nat) : Option Nat := (m.find? fun x => decide (x.1 = l)).map Prod.snd

/-- Lowest-numbered spare (R197). -/
def lowSpare (s : State) : Option Nat := lowestBit (fld s Reg.LANT_SPARE_SPARE) 50

/-- A newly mapped lantern starts with empty caches. -/
def emptyCaches (l : Nat) (s : State) : State := setLant s l {}

/-- LANT_STAT and LANT_SPARE of every lantern follow the crossbar in force. A lantern that has just
been mapped starts empty. -/
def fixLants (s : State) : State :=
  let m := quadsServed s
  forAll (List.range 50) (fun l s =>
    if lantFaulted s l then
      setFld (setFld (setFld s (Reg.LANT_STAT_STATE l) 2) (Reg.LANT_STAT_QUAD l) 0x3F) ⟨Reg.LANT_SPARE, l, l⟩ 0
    else match quadServed m l with
    | none => setFld (setFld (setFld s (Reg.LANT_STAT_STATE l) 0) (Reg.LANT_STAT_QUAD l) 0x3F) ⟨Reg.LANT_SPARE, l, l⟩ 1
    | some q =>
      let s := if lantQuad s l = q then s else emptyCaches l (setFld s (Reg.LANT_STAT_QUAD l) q)
      let s := setFld s ⟨Reg.LANT_SPARE, l, l⟩ 0
      if lantState s l = 3 then s else setFld s (Reg.LANT_STAT_STATE l) 1) s

/-- Rows until a row starts at least 4 µs from now, where the first of them starts `ns` from now (R200, R486). -/
def joinRows (s : State) (ns : Nat) : Nat :=
  if rowPeriod s = 0 then 0 else ceilDiv (coreClocks s (4800000 - 1200 * ns)) (rowPeriod s)

/-- Time until the generator issues its next tick, which ends the last blanking row (R37). -/
def untilTick (s : State) : Nat := (sdiff 64 (tickTime s s.time.nextTick) (driveCount s)).toNat

/-- First row that starts at least 4 µs from now (R200): of the restart while an abort waits for it (Table 6-2), of the
next frame in the blanking of this one, of this frame otherwise. A deferred frame may start at once (R38). -/
def joinRow (s : State) : Nat :=
  if !flag s Reg.SCAN_STAT_RUN then 0
  else if s.scan.aborting then joinRows s 0
  else if s.scan.dead then actRows s
  else if s.scan.past then joinRows s (if s.scan.deferred = [] then untilTick s else 0)
  else s.scan.nextRow + joinRows s 0

/-- A spare takes over a quad (R200): the rows from its first one on are its own to build. A join at or after the boundary
point is one at row 0 of the next frame, where every mapped lantern begins. -/
def failover (q : Nat) (sp : Nat) (s : State) : State :=
  let x := quadOf s q
  let s := setFld (setFld s (xbarFld q) sp) (xbarCurFld q) sp
  let j := joinRow s
  let s := forAll (quadWicks s q) (fun n s => setFifo s n ((fifoOf s n).filter fun x => decide (x.row < j))) s
  let s := setQuad s q { row := j, hold := if j = 0 then none else some (x.hold.getD x.row), join := j }
  let s := fixLants s
  setFld s (Reg.LANT_STAT_STATE sp) 3

/-- The quad stays unmapped (R202). -/
def unmapQuad (q : Nat) (s : State) : State :=
  let x := quadOf s q
  let s := setFld (setFld s (xbarFld q) 0x3F) (xbarCurFld q) 0x3F
  fixLants (setQuad s q { x with hold := some (x.hold.getD x.row) })

/-- A lantern is faulted (R198): its fault is kept, its quad fails over or stays unmapped, and
LANT_STALL is raised. Its tick is that of the scan frame on the raster (DESIGN CHOICE, log 126). -/
def lantFault (l cause : Nat) (s : State) : State :=
  let q := lantQuad s l
  let row := if q < 48 then (quadOf s q).row else 0
  let s := setFld (setFld (setFld s (Reg.LANT_FAULT_CAUSE l) cause) (Reg.LANT_FAULT_QUAD l) q) (Reg.LANT_FAULT_ROW l) row
  let s := setFld (setFld s ⟨Reg.LANT_FAULTED, l, l⟩ 1) ⟨Reg.LANT_SPARE, l, l⟩ 0
  let s := setFld s (Reg.LANT_STAT_STATE l) 2
  let sp := if q < 48 ∧ flag s Reg.LANT_CTRL_AUTO_SPARE then lowSpare s else none
  let s :=
    if q < 48 then
      let s := setFld (setFld (setFld s Reg.LANT_FAILOVER_FAULTED l) Reg.LANT_FAILOVER_SPARE (sp.getD 0x3F))
        Reg.LANT_FAILOVER_QUAD q
      match sp with
      | some p =>
        let s := { s with scan := { s.scan with spares := tblSet 0 s.scan.spares l (p + 1) } }
        incSat (failover q p s) Reg.LANT_FAILOVER_COUNT 1
      | none => unmapQuad q s
    else fixLants s
  let s := forAll (quadWicks s q) fixWick s
  raiseErr unitLant l evLantStall cause
    [(8, l), (8, cause), (8, q), (16, row), (8, ((sp.getD 0x3F : Nat) : Int)), (32, frameNo s)] s

/-- SPARE_JOIN: the spare builds its first row (R200). -/
def spareJoin (l : Nat) (s : State) : State :=
  let q := lantQuad s l
  setFld (setFld s (Reg.LANT_STAT_STATE l) 1) (Reg.LANT_STAT_ROW l) (quadOf s q).row

/-- Quads and FIFOs as a scan frame's build begins: every mapped lantern at row 0 (R176, R200). -/
def quadsFresh (s : State) : State :=
  let ls := s.scan.lants.map fun p => (p.1, { p.2 with lensRow := none, ray := [], res := [] })
  let s := { s with scan := { s.scan with quads := [], lants := ls } }
  forAll (List.range 50) (fun l s => setFld s (Reg.LANT_STAT_ROW l) 0) (flushFifos s)

/-- The texel caches are invalidated (R178). -/
def texelsInvalid (s : State) : State :=
  { s with scan := { s.scan with lants := s.scan.lants.map fun p => (p.1, { p.2 with cache := [] }) } }

end Sys2Proof.Machine
end

