-- ==== Sys2Proof/Machine/Reel.lean ====
section
/-! DEFINITION. The reel manager: the span table (R97 to R103), ingest (R104 to R107), play order and
states (R110 to R120), watermarks (R121, R122). -/

namespace Sys2Proof.Machine

def evReelLow : Nat := 208
def evReelSpan : Nat := 209

def stSpanRange : Nat := 0x31
def stSpanBusy : Nat := 0x32
def stFillBack : Nat := 0x33
def stFetchSrc : Nat := 0x34
def stFetchAbandoned : Nat := 0x35
def stState : Nat := 0x36

/-! ### Places (R97, R99, Table 17-2) -/

def reelUnit : Nat := 4096
def reelBase (s : State) : Nat := fld s Reg.REEL_BASE_BASE
/-- Units of the reel store. -/
def reelUnits (s : State) : Nat := fld s Reg.REEL_SIZE_SIZE / reelUnit
/-- Device address of span-table entry `n`. -/
def spanAt (s : State) (n : Nat) : Nat := secNat s 0x30 272 8 + 32 * n

/-- A span-table entry (Table 4-1). -/
structure Span where
  start : Nat
  len : Nat
  fill : Nat
  next : Nat
  flags : Nat
  toff : Nat

/-- An entry of the table, valid or not. The Z192 reads and writes its table itself, not as a client of the
memory fabric. -/
def spanRaw (s : State) (n : Nat) : Span :=
  let b := tblGetRun 0#8 s.mem (spanAt s n) 32
  ⟨leAt b 0 4, leAt b 4 4, leAt b 8 4, leAt b 12 2, leAt b 14 1, leAt b 16 8⟩

/-- A valid entry. -/
def spanOf (s : State) (n : Nat) : Option Span :=
  let e := spanRaw s n
  if s.img.isSome && bitOf e.flags 0 then some e else none

def Span.last (e : Span) : Bool := bitOf e.flags 1

/-- Writes an entry; its reserved bytes are 0. The command unit's writes of device memory are checked (R310). -/
def setSpan (n : Nat) (e : Span) (s : State) : State :=
  let b := natLe e.start 4 ++ natLe e.len 4 ++ natLe e.fill 4 ++ natLe e.next 2 ++ natLe (e.flags % 4) 2 ++
    natLe e.toff 8 ++ natLe 0 8
  clientWrite grpHost (spanAt s n) b false s

/-! ### The cursor, the level and REEL_LOW -/

/-- Play states (Table 4-5). -/
def playState (s : State) : Nat := fld s Reg.REEL_STATE_STATE
def plStopped : Nat := 0
def plPlaying : Nat := 1
def plPaused : Nat := 2
def plEnded : Nat := 3

/-- The record at the cursor: span and offset. None in STOPPED and behind the reel's end, though REEL_CURSOR still names a span: no
span holds the cursor then (R103; DESIGN CHOICE, log 130). -/
def cursor (s : State) : Option (Nat × Nat) :=
  if playState s = plStopped ∨ s.reel.atEnd then none
  else some (fld s Reg.REEL_CURSOR_SPAN, fld s Reg.REEL_CURSOR_OFFSET)

def cursorOn (s : State) (n : Nat) : Bool := decide ((cursor s).map Prod.fst = some n)

/-- Resident units from an offset of a span on, over at most `k` spans (R121). -/
def levelFrom (s : State) : Nat → Nat → Nat → Nat
  | 0, _, _ => 0
  | k + 1, n, off =>
    match spanOf s n with
    | none => 0
    | some e => (e.fill - off) + if e.fill < e.len ∨ e.last then 0 else levelFrom s k e.next 0

def reelLevel (s : State) : Nat :=
  match cursor s with
  | none => 0
  | some (n, o) => min (levelFrom s 64 n o) (2 ^ 32 - 1)

/-- REEL_LOW is raised, and disarmed (R122). -/
def reelLow (s : State) : State :=
  raise evReelLow [(32, fld s Reg.REEL_LEVEL_LEVEL), (16, fld s Reg.REEL_CURSOR_SPAN), (32, fld s Reg.REEL_CURSOR_OFFSET)]
    (setFld s Reg.REEL_STATE_LOW_ARMED 0)

/-- An armed REEL_LOW is raised now if the level lies below LOW while PLAYING. -/
def lowNow (s : State) : State :=
  if flag s Reg.REEL_STATE_LOW_ARMED && decide (playState s = plPlaying) &&
    decide (fld s Reg.REEL_LEVEL_LEVEL < fld s Reg.REEL_WM_LOW) then reelLow s else s

/-- REEL_LEVEL follows; a rise to HIGH re-arms, and a fall below LOW raises REEL_LOW (R121, R122). -/
def reelCheck (s : State) : State :=
  let old := fld s Reg.REEL_LEVEL_LEVEL
  let v := reelLevel s
  let s := setFld s Reg.REEL_LEVEL_LEVEL v
  let high := fld s Reg.REEL_WM_HIGH
  let s := if old < high ∧ high ≤ v then setFld s Reg.REEL_STATE_LOW_ARMED 1 else s
  if fld s Reg.REEL_WM_LOW ≤ old then lowNow s else s

/-- Enters PLAYING: an armed REEL_LOW is raised at once below LOW. -/
def enterPlaying (s : State) : State := lowNow (reelCheck (setFld s Reg.REEL_STATE_STATE plPlaying))

/-- Moves the cursor within the reel. -/
def setCursor (n off : Nat) (s : State) : State :=
  reelCheck (setFld (setFld s Reg.REEL_CURSOR_SPAN n) Reg.REEL_CURSOR_OFFSET off)

/-- REEL_SPAN: code, span left, span entered (R110). -/
def reelSpan (code left entered : Nat) (s : State) : State := raise evReelSpan [(8, code), (16, left), (16, entered)] s

/-- The decoder leaves the span at the cursor (R110). -/
def leaveSpan (s : State) : State :=
  match cursor s with
  | none => s
  | some (n, _) =>
    let ended (code : Nat) (s : State) : State :=
      reelSpan code n 0xFFFF (reelCheck { s with reel := { s.reel with atEnd := true } })
    match spanOf s n with
    | none => ended 1 s
    | some e =>
      if e.last then ended 1 s
      else match spanOf s e.next with
      | none => ended 2 s
      | some _ => reelSpan 0 n e.next (setCursor e.next 0 s)

/-- The cursor moves to the record after one that took `units` (R58). -/
def nextRecord (units : Nat) (s : State) : State :=
  match cursor s with
  | none => s
  | some (n, o) =>
    match spanOf s n with
    | some e => if o + units < e.len then setCursor n (o + units) s else leaveSpan s
    | none => leaveSpan s

/-! ### REEL_MAP (R102, R103) -/

/-- FILL must not be used while an ADV fetch on the span runs. -/
def advLive (s : State) (n : Nat) : Bool :=
  s.reel.fetches.any fun f => f.adv && !f.done && decide (f.span = n)

/-- REEL_MAP: the status, and the state with the entry changed. A FILL that both lowers FILL and meets an ADV fetch answers
SPAN_BUSY (R103; DESIGN CHOICE, log 129). -/
def reelMapOp (d : Bytes) (s : State) : State × Nat :=
  let n := leAt d 6 2
  let e := spanRaw s n
  let valid := (spanOf s n).isSome
  let fill := leAt d 16 4
  match dByte d 4 with
  | 0 =>
    let start := leAt d 8 4
    let len := leAt d 12 4
    if s.img.isNone ∨ len = 0 ∨ reelUnits s < start + len ∨ len < fill then (s, stSpanRange)
    else if cursorOn s n then (s, stSpanBusy)
    else (setSpan n ⟨start, len, fill, leAt d 20 2, dByte d 5 % 4 / 2 * 2 + 1, leAt d 24 8⟩ s, stOK)
  | 1 =>
    if !valid ∨ e.len < fill then (s, stSpanRange)
    else if advLive s n then (s, stSpanBusy)
    else if fill < e.fill then (s, stFillBack)
    else (setSpan n { e with fill := fill } s, stOK)
  | 2 =>
    if !valid then (s, stSpanRange)
    else (setSpan n { e with next := leAt d 20 2, flags := dByte d 5 % 4 / 2 * 2 + 1 } s, stOK)
  | 3 =>
    if !valid then (s, stSpanRange)
    else if cursorOn s n then (s, stSpanBusy)
    else (setSpan n { e with flags := e.flags / 2 * 2 } s, stOK)
  | _ => (s, stBadBody)

/-- Reserved bytes of the body; SFLAGS has reserved bits 7:2. -/
def reelMapBodyOk (d : Bytes) : Bool := bodyZero d [(4, 21), (24, 31)] && decide (dByte d 5 < 4)

def cmdReelMap : Cmd where
  op := 0x02
  bodyOk := reelMapBodyOk
  ready := always
  run := fun j d s =>
    let r := reelMapOp d s
    let s := r.1
    let gone := decide (dByte d 4 = 0 ∨ dByte d 4 = 3) && s.reel.ahead.any fun q => decide (q.span = leAt d 6 2)
    let s := if gone then { s with reel := { s.reel with ahead := none } } else s
    complete j r.2 0 0 (reelCheck s)

/-! ### REEL_FETCH (R105 to R107) -/

/-- Fetches that run. -/
def liveFetches (s : State) : List Fetch := s.reel.fetches.filter fun f => !f.done
def setFetches (l : List Fetch) (s : State) : State :=
  let s := { s with reel := { s.reel with fetches := l } }
  setFld s Reg.REEL_FETCH_STAT_RUNNING (liveFetches s).length

/-- The claimed fill of a span (R106). -/
def claimedFill (s : State) (n : Nat) (e : Span) : Nat :=
  let pos := e.start + e.fill
  pos + (((liveFetches s).filter fun f => f.adv && decide (f.span = n)).map
    fun f => f.dst + f.count - max f.dst pos).sum

/-- The destination is inside the reel store and writable for the host group (R105); an ADV fetch starts at
the claimed fill and ends within its span (R106). -/
def fetchOk (s : State) (adv : Bool) (n dst count : Nat) : Bool :=
  decide (dst + count ≤ reelUnits s) &&
  decide (writeCheck s grpHost (reelBase s + dst * reelUnit) (count * reelUnit) = .ok) &&
  (!adv || match spanOf s n with
    | some e => decide (dst = claimedFill s n e ∧ dst + count ≤ e.start + e.len)
    | none => false)

def reelFetchRun (j : Job) (d : Bytes) (s : State) : State :=
  let adv := bitOf (dByte d 4) 0
  let n := leAt d 6 2
  let dst := leAt d 8 4
  let count := leAt d 12 4
  if leAt d 24 8 % 64 ≠ 0 ∨ count = 0 ∨ 262144 < count then complete j stBadBody 0 0 s
  else if s.img.isNone || !fetchOk s adv n dst count then complete j stSpanRange 0 0 s
  else
    let f : Fetch := { id := s.reel.nextFetch, job := j, adv := adv, span := n, src := leAt d 24 8, dst := dst, count := count }
    setFetches (s.reel.fetches ++ [f]) { s with reel := { s.reel with nextFetch := s.reel.nextFetch + 1 } }

def cmdReelFetch : Cmd where
  op := 0x03
  bodyOk := fun d => bodyZero d [(4, 4), (6, 15), (24, 31)] && decide (dByte d 4 < 2)
  ready := fun s _ => decide ((liveFetches s).length < 8)
  run := reelFetchRun

/-- Units landed in order, once the unit after those joins the ones landed ahead. -/
def landOrder : Nat → Nat → List Nat → Nat × List Nat
  | 0, n, l => (n, l)
  | k + 1, n, l => if l.contains n then landOrder k (n + 1) (setErase n l) else (n, l)

/-- FILL passes the units that have landed in order, fetch by fetch (R106): the new position, and the
fetches still to pass. A fetch that begins beyond the position, after a SET has moved the span's fill, waits without
holding up the others. -/
def fillOver (n : Nat) : List Fetch → Nat → Nat × List Fetch
  | [], pos => (pos, [])
  | f :: t, pos =>
    if !f.adv || decide (f.span ≠ n) then
      let r := fillOver n t pos
      (r.1, f :: r.2)
    else if pos < f.dst then
      let r := fillOver n t pos
      (r.1, f :: r.2)
    else
      let r := fillOver n t (max pos (f.dst + f.inOrder))
      (r.1, if f.done && decide (f.count ≤ f.inOrder) then r.2 else f :: r.2)

/-- FILL of a span follows its fetches. -/
def fixFill (n : Nat) (s : State) : State :=
  match spanOf s n with
  | none => s
  | some e =>
    let r := fillOver n s.reel.fetches (e.start + e.fill)
    let s := { s with reel := { s.reel with fetches := r.2 } }
    reelCheck (setSpan n { e with fill := min e.len (max e.fill (r.1 - e.start)) } s)

/-- A fetch is replaced. -/
def putFetch (f g : Fetch) (s : State) : State :=
  setFetches (s.reel.fetches.map fun x => if x.id = f.id then g else x) s

/-- A fetch is noted no more, or with ADV stays until FILL has taken the units it landed in order (R106). -/
def fetchEnd (f : Fetch) (s : State) : State :=
  let s := if f.adv then putFetch f { f with count := f.inOrder, ahead := [], done := true } s
    else setFetches (s.reel.fetches.filter fun x => decide (x.id ≠ f.id)) s
  if f.adv then fixFill f.span s else s

/-- A fetch stops: it completes, and with ADV every later ADV fetch on its span completes with FETCH_ABANDONED and
leaves FILL alone (R105, R107). FILL still takes, in order, what the stopped fetch landed below the bad unit. -/
def fetchStop (f : Fetch) (st : Nat) (s : State) : State :=
  let gone := if f.adv then
      s.reel.fetches.filter fun x => x.adv && decide (x.span = f.span ∧ f.id < x.id) else []
  let s := setFetches (s.reel.fetches.filter fun x => !gone.any fun g => decide (g.id = x.id)) s
  let s := complete f.job st 0 f.inOrder (fetchEnd f s)
  (gone.filter fun x => !x.done).foldl (fun s x => complete x.job stFetchAbandoned 0 x.inOrder s) s

/-- FETCH_UNIT_LANDED: unit `u` of the running fetch `i` arrives (R106). A fetch that runs across an activation or a warm reset
lands its remaining units at the REEL_BASE then in force (R105; DESIGN CHOICE, log 131). -/
def unitLanded (f : Fetch) (u : Nat) (data : Bytes) (s : State) : State :=
  if f.count ≤ u ∨ u < f.inOrder ∨ f.ahead.contains u then s else
  let a := reelBase s + (f.dst + u) * reelUnit
  match writeCheck s grpHost a reelUnit with
  | .ok =>
    let s := memWrite a (sliceB data 0 reelUnit) false s
    let o := landOrder f.count f.inOrder (setInsert u f.ahead)
    let s := putFetch f { f with inOrder := o.1, ahead := o.2 } s
    if f.adv then fixFill f.span s else reelCheck s
  | _ => fetchStop f stSpanRange (rejectWrite s grpHost a reelUnit)

/-- FETCH_COMPLETE: the last byte has landed (R105). -/
def fetchComplete (f : Fetch) (s : State) : State :=
  if f.inOrder < f.count then s else complete f.job stOK 0 f.count (fetchEnd f s)

/-! ### PLAY, PAUSE, SEEK (R112 to R117, R533) -/

/-- LDEC_STAT.NC, LDEC_STAT.CARRYING and LDEC_FRAME.NC follow the record in the non-current atlas. -/
def ncReady (x : Decode) : Bool := x.parsed && x.side && x.body && decide (x.carries = [])
/-- Its ray map generation is in force (R70). -/
def genInForce (s : State) (g : Nat) : Bool := decide (g = 0 ∨ g = fld s Reg.RMAP_GEN_CUR)
def fixNc (s : State) : State :=
  match s.reel.nc with
  | none => setFld (setFld (setFld s Reg.LDEC_STAT_NC 0) Reg.LDEC_STAT_CARRYING 0) Reg.LDEC_FRAME_NC 0
  | some x =>
    let v := if !ncReady x then 1 else if genInForce s x.c.gen then 2 else 3
    setFld (setFld (setFld s Reg.LDEC_STAT_NC v) Reg.LDEC_STAT_CARRYING (b2n (decide (x.carries ≠ []))))
      Reg.LDEC_FRAME_NC x.c.frame

/-- Pipe 0 works while side data are unpacked (R351). -/
def fixPipe0 (s : State) : State :=
  setFld s (Reg.HLE_STAT_PIPE 0) (match s.reel.nc with
    | some x => if x.parsed && !x.side then 2 else 0
    | none => 0)

/-- The record in the non-current atlas changes. -/
def setNc (x : Option Decode) (s : State) : State := fixPipe0 (fixNc { s with reel := { s.reel with nc := x } })

/-- REEL_TOFF as PLAY and SEEK set it (R112). -/
def setToff (d : Bytes) (s : State) : State :=
  let t := leAt d 16 8
  setReg s Reg.REEL_TOFF (BitVec.ofNat 64 (if bitOf (dByte d 4) 1 then fld s Reg.REEL_TOFF_TOFF + t else t))

/-- The target record lies in a valid span. -/
def targetOk (s : State) (d : Bytes) : Bool :=
  match spanOf s (leAt d 6 2) with
  | some e => decide (leAt d 8 4 < e.len)
  | none => false

/-- The cursor moves to the target: the decode ends, and a ready frame that is not current is dropped
(R114). -/
def reelMove (d : Bytes) (still : Bool) (s : State) : State :=
  let s := setNc none s
  let s := { s with reel := { s.reel with prev := none, atEnd := false, still := still, probe := false, judged := none, ahead := none } }
  setCursor (leAt d 6 2) (leAt d 8 4) (setToff d s)

/-- The lamplighter's check of PLAY (R533). -/
def playBarred (s : State) : Bool :=
  match lamp s with
  | .readyDark => decide (lowPath s ≠ 0) || flag s Reg.GEN_STATE_TEST ||
      (!flag s Reg.WLN_CTRL_ALLOW_DEGRADED && groups.any fun g => groupOn s g && !groupUp s g)
  | .lighting => false
  | .lit => false
  | .snuffed => false
  | _ => true

/-- A PLAY accepted in READY_DARK powers the emitter set up where it is down, and lights the head once every rail in use is
power-good (R533). A sequence that runs ends first (R270). -/
def playLights (s : State) : State :=
  if lamp s = .readyDark then
    let s := { s with wantLight := true }
    if fld s Reg.RAIL_STAT_SEQ = 0 then railsUp false true s else s
  else s

def playRun (j : Job) (d : Bytes) (s : State) : State :=
  let resume := bitOf (dByte d 4) 0
  let st := playState s
  if playBarred s then complete j stDeviceState 0 0 s
  else if (if resume then decide (st ≠ plPaused) else decide (st = plPlaying)) then complete j stState 0 0 s
  else if !resume && !targetOk s d then complete j stSpanRange 0 0 s
  else
    let s :=
      if resume then
        let s := setToff d s
        enterPlaying { s with reel := { s.reel with still := false } }
      else
        let s := setFld s Reg.REEL_STATE_STATE plPaused
        enterPlaying (reelMove d false s)
    complete j stOK 0 0 (playLights s)

/-- Body of PLAY and SEEK. -/
def playBodyOk (mask : Nat) (d : Bytes) : Bool := bodyZero d [(4, 4), (6, 11), (16, 23)] && decide (Nat.land (dByte d 4) mask = dByte d 4)

def cmdPlay : Cmd where
  op := 0x04
  bodyOk := playBodyOk 3
  ready := always
  run := playRun

/-- PLAYING and ENDED become PAUSED (Table 4-5). -/
def pauseReel (s : State) : State :=
  if playState s = plPlaying ∨ playState s = plEnded then
    setFld { s with reel := { s.reel with still := false } } Reg.REEL_STATE_STATE plPaused
  else s

def cmdPause : Cmd where
  op := 0x05
  bodyOk := fun d => bodyZero d []
  ready := always
  run := fun j _ s =>
    if playState s = plStopped then complete j stState 0 0 s else complete j stOK 0 0 (pauseReel s)

def seekRun (j : Job) (d : Bytes) (s : State) : State :=
  let st := playState s
  if st = plStopped then complete j stState 0 0 s
  else if !targetOk s d then complete j stSpanRange 0 0 s
  else
    let s := reelMove d (decide (st = plPaused)) s
    complete j stOK 0 0 (if st = plEnded then enterPlaying s else s)

def cmdSeek : Cmd where
  op := 0x06
  bodyOk := playBodyOk 2
  ready := always
  run := seekRun

/-! ### REEL_WM (R122) -/

def reelWmWrite (v : DWord) (s : State) : State :=
  lowNow (setFld (setReg s Reg.REEL_WM v) Reg.REEL_STATE_LOW_ARMED 1)

end Sys2Proof.Machine
end

