-- ==== Sys2Proof/Machine/Ldec.lean ====
section
/-! DEFINITION. The layer decoder: the checks of a record (R60 to R90), its start and its steps (R101,
R123), side data and cues (R76 to R79), decoding into the atlas (R127 to R130), carry copies (R131 to
R133). -/

namespace Sys2Proof.Machine

def evDecLate : Nat := 210
def evDecErr : Nat := 211

/-- Units of 4 KiB that a record takes (R58). -/
def unitsOf (recLen : Nat) : Nat := ceilDiv recLen reelUnit
/-- The next 4 KiB boundary. -/
def upUnit (n : Nat) : Nat := ceilDiv n reelUnit * reelUnit

/-! ### Header (R62 to R65, R84) -/

def hRecLen (h : Bytes) : Nat := leAt h 0x08 4
def hFrame (h : Bytes) : Nat := leAt h 0x0C 4
def hPt (h : Bytes) : Nat := (leAt h 0x10 6 * 1000000000 + leAt h 0x18 4) % 2 ^ 64
def hLayers (h : Bytes) : Nat := leAt h 0x1C 1
def hGen (h : Bytes) : Nat := leAt h 0x1E 2
def hFlags (h : Bytes) : Nat := leAt h 0x20 2
def hSide (h : Bytes) : Bool := bitOf (hFlags h) 0
def hLt (h : Bytes) : Nat := leAt h 0x24 4
def hSdOff (h : Bytes) : Nat := leAt h 0x28 4
def hSdLen (h : Bytes) : Nat := leAt h 0x2C 4
def hSdUlen (h : Bytes) : Nat := leAt h 0x30 4
/-- Minor version 0x00: reserved bytes must be 0 (R63). -/
def hStrict (h : Bytes) : Bool := decide (leAt h 4 1 = 0)

/-- Side data whose SD_ULEN is out of range (R79). -/
def sideBad (h : Bytes) : Bool := hSide h && decide (hSdUlen h % 8 ≠ 0 ∨ hSdUlen h < 8 ∨ 65536 < hSdUlen h)

/-- MAGIC, VERSION major and HDR_CRC pass (R86). -/
def hdrTrusted (h : Bytes) : Bool :=
  decide (leAt h 0 4 = 0x48524631) && decide (leAt h 5 1 = 1) && decide (crc32c (h.take 0xFC) = leAt h 0xFC 4)

/-- Reserved bytes of the header (Table 3-1). -/
def hdrReserved : List Nat := [0x16, 0x17, 0x1D, 0x22, 0x23] ++ (List.range 200).map fun i => 0x34 + i

/-- Step 4: the first failing field or reserved byte, in header order. Side data that meet the layer table or run past the
record's end fail at SD_OFF, and an SD_ULEN without SIDE fails here (DESIGN CHOICE, log 101 and log 121). -/
def hdrField (h : Bytes) : Option Nat :=
  let rl := hRecLen h
  let lt := hLt h
  let lte := lt + 64 * hLayers h
  let so := hSdOff h
  let sl := hSdLen h
  let bad (c : Bool) (o : Nat) : List Nat := if c then [o] else []
  let l := bad (decide (leAt h 6 2 ≠ 256)) 0x06 ++
    bad (decide (rl % 4 ≠ 0 ∨ rl < 324 ∨ 268435456 < rl)) 0x08 ++
    bad (decide (999999999 < leAt h 0x18 4)) 0x18 ++
    bad (decide (hLayers h = 0 ∨ 16 < hLayers h)) 0x1C ++
    bad (decide (lt % 64 ≠ 0 ∨ lt < 256 ∨ rl < lte + 4)) 0x24 ++
    (if hSide h then
      bad (decide (so < 256 ∨ rl < so + sl + 4 ∨ (so < lte ∧ lt < so + sl))) 0x28 ++ bad (decide (sl < 18)) 0x2C
    else bad (decide (so ≠ 0)) 0x28 ++ bad (decide (sl ≠ 0)) 0x2C ++ bad (decide (hSdUlen h ≠ 0)) 0x30) ++
    (if hStrict h then hdrReserved.filter fun o => decide (leAt h o 1 ≠ 0) else [])
  l.min?

/-- Steps 1 to 4 on a header free of poison: code and offset of the first failure (Table 3-7). -/
def hdrCheck (h : Bytes) : Option (Nat × Nat) :=
  if leAt h 0 4 ≠ 0x48524631 then some (0x01, 0)
  else if leAt h 5 1 ≠ 1 then some (0x02, 4)
  else if crc32c (h.take 0xFC) ≠ leAt h 0xFC 4 then some (0x03, 0xFC)
  else (hdrField h).map fun o => (0x04, o)

/-! ### Layer table (R71 to R74) -/

/-- Sample counts of a layer's planes (R75). -/
def lumaN (w h : Nat) : Nat := w * h
def chromaDim (fmt w h : Nat) : Nat × Nat := (if fmt % 4 = 2 then w else w / 2, if fmt % 4 = 0 then h / 2 else h)
def chromaN (fmt w h : Nat) : Nat := 2 * (chromaDim fmt w h).1 * (chromaDim fmt w h).2
def hasAlpha (fmt : Nat) : Bool := bitOf fmt 4
def fmtDepth (fmt : Nat) : Nat := [8, 10, 12].getD (fmt / 4 % 4) 0

def Layer.samples (k : Layer) : Nat :=
  lumaN k.width k.height + chromaN k.fmt k.width k.height + if hasAlpha k.fmt then lumaN k.width k.height else 0

/-- Bytes of a layer's planes (R128): luma, chroma, alpha. -/
def Layer.sizes (k : Layer) : List Nat :=
  [4 * ceilDiv (lumaN k.width k.height) 3, 4 * ceilDiv (chromaN k.fmt k.width k.height) 3] ++
  (if hasAlpha k.fmt then [lumaN k.width k.height] else [])

/-- Two regions share a byte. -/
def meets (a b : Nat × Nat) : Bool := decide (a.1 < b.2 ∧ b.1 < a.2)

/-- A codestream of a descriptor: its failing offsets, and its region. `taken` are the regions before it. A region that
breaks R60 fails at its offset field, an empty one at its length (DESIGN CHOICE, log 102). -/
def descStream (rl : Nat) (taken : List (Nat × Nat)) (t : Bytes) (o : Nat) : List Nat × List (Nat × Nat) :=
  let a := leAt t o 4
  let n := leAt t (o + 4) 4
  if n = 0 then ([o + 4], [])
  else if rl < a + n + 4 ∨ taken.any (meets (a, a + n)) then ([o], [])
  else ([], [(a, a + n)])

/-- A descriptor: its failing offsets (R73), and the regions of its codestreams. -/
def descCheck (s : State) (h t : Bytes) (taken : List (Nat × Nat)) : List Nat × List (Nat × Nat) :=
  let rl := hRecLen h
  let f (o : Nat) : F32 := fIn (leAt t o 4)
  let bad (c : Bool) (o : Nat) : List Nat := if c then [o] else []
  let inf (o : Nat) : List Nat := bad (!fFinite (leAt t o 4)) o
  let tilt (o : Nat) : List Nat := bad (!(fLe 0xBF800000 (f o) && fLe (f o) 0x3F800000)) o
  let w := leAt t 0x18 2
  let hh := leAt t 0x1A 2
  let fmt := leAt t 0x1C 1
  let c := fmt % 4
  let y := descStream rl taken t 0x20
  let ch := descStream rl (taken ++ y.2) t 0x28
  let al := if hasAlpha fmt then descStream rl (taken ++ y.2 ++ ch.2) t 0x30
    else (bad (decide (leAt t 0x30 4 ≠ 0)) 0x30 ++ bad (decide (leAt t 0x34 4 ≠ 0)) 0x34, [])
  let l := [0x00, 0x04, 0x08, 0x0C, 0x10, 0x14].flatMap inf ++ tilt 0x04 ++ tilt 0x08 ++
    bad (!fLt 0 (f 0x14)) 0x14 ++
    bad (decide (w < 16 ∨ 8192 < w ∨ secNat s 0x41 0 2 < w ∨ (w % 2 = 1 ∧ c ≤ 1))) 0x18 ++
    bad (decide (hh < 16 ∨ 8192 < hh ∨ secNat s 0x41 2 2 < hh ∨ (hh % 2 = 1 ∧ c = 0))) 0x1A ++
    bad (decide (c = 3 ∨ fmt / 4 % 4 = 3 ∨ 128 ≤ fmt)) 0x1C ++ y.1 ++ ch.1 ++ al.1 ++
    (if hStrict h then ((List.range 8).map fun i => 0x38 + i).filter fun o => decide (leAt t o 1 ≠ 0) else [])
  (l, y.2 ++ ch.2 ++ al.2)

/-- The layer a descriptor describes, with no place yet. -/
def descLayer (t : Bytes) (cset : Nat) : Layer :=
  let fmt := leAt t 0x1C 1
  { z := fIn (leAt t 0 4), tiltX := fIn (leAt t 4 4), tiltY := fIn (leAt t 8 4), orgX := fIn (leAt t 0xC 4),
    orgY := fIn (leAt t 0x10 4), pitch := fIn (leAt t 0x14 4), width := leAt t 0x18 2, height := leAt t 0x1A 2,
    fmt := fmt, cset := cset,
    offs := [(leAt t 0x20 4, leAt t 0x24 4), (leAt t 0x28 4, leAt t 0x2C 4)] ++
      (if hasAlpha fmt then [(leAt t 0x30 4, leAt t 0x34 4)] else []),
    state := 0, yAt := 0, cAt := 0, aAt := 0 }

/-- Step 9: every descriptor in table order, then its colour set. -/
def tableCheck (s : State) (h tab : Bytes) : Nat → Nat → List (Nat × Nat) → Except (Nat × Nat) (List Layer)
  | 0, _, _ => .ok []
  | n + 1, k, taken => do
    let t := sliceB tab (64 * k) 64
    let d := descCheck s h t taken
    match d.1.min? with
    | some o => .error (0x07, hLt h + 64 * k + o)
    | none =>
      match findCset s (leAt t 0x1D 1) (leAt t 0x1E 1) (leAt t 0x1F 1) (b2n (bitOf (leAt t 0x1C 1) 6)) with
      | none => .error (0x08, hLt h + 64 * k + 0x1D)
      | some c =>
        let r ← tableCheck s h tab n (k + 1) (taken ++ d.2)
        return descLayer t c :: r

/-- The regions of a record before its codestreams (R60). -/
def recRegions (h : Bytes) : List (Nat × Nat) :=
  [(0, 256), (hLt h, hLt h + 64 * hLayers h)] ++ (if hSide h then [(hSdOff h, hSdOff h + hSdLen h)] else [])

/-! ### Budget and layout (R45, R75, R127, R129) -/

/-- Places of a list of plane sizes from a 4 KiB boundary on; `none` where one does not fit in `lim`. -/
def placePlanes (lim : Nat) : List Nat → Nat → Option (List Nat × Nat)
  | [], pos => some ([], pos)
  | n :: t, pos =>
    if lim < pos + n then none
    else (placePlanes lim t (upUnit (pos + n))).map fun r => (pos :: r.1, r.2)

/-- A layer at given places. -/
def Layer.put (k : Layer) (base : Nat) (ps : List Nat) (st : Nat) : Layer :=
  { k with yAt := base + ps.getD 0 0, cAt := base + ps.getD 1 0, aAt := base + ps.getD 2 0, state := st }

/-- Step 10 layer by layer: the layers with their places in an atlas at `base`, and the layout's end. -/
def layOut (s : State) (h : Bytes) (base : Nat) : List Layer → Nat → Nat → Nat → Except (Nat × Nat) (List Layer × Nat)
  | [], _, _, pos => .ok ([], pos)
  | x :: t, k, total, pos =>
    let total := total + x.samples
    let off := hLt h + 64 * k
    if secNat s 0x51 8 4 < total then .error (0x09, off) else
    match placePlanes (fld s Reg.LDEC_ATLAS_SIZE_SIZE) x.sizes pos with
    | none => .error (0x09, off)
    | some p => do
      let r ← layOut s h base t (k + 1) total p.2
      return (x.put base p.1 0 :: r.1, r.2)

def budgetCheck (s : State) (h : Bytes) (base : Nat) (l : List Layer) : Except (Nat × Nat) (List Layer × Nat) :=
  if secNat s 0x51 4 1 < hLayers h then .error (0x09, 0x1C) else layOut s h base l 0 0 0

/-- The atlas that is not current; A while none is (R127). -/
def ncAtlas (s : State) : Nat :=
  if flag s Reg.LDEC_STAT_CUR_VALID && decide (fld s Reg.LDEC_STAT_CUR = 0) then fld s Reg.LDEC_ATLAS_B_BASE
  else fld s Reg.LDEC_ATLAS_A_BASE

/-! ### Refusals and play order (R85 to R90) -/

/-- DEC_ERR (R90). -/
def decErr (code frame layer off : Nat) (s : State) : State :=
  raise evDecErr [(8, code), (32, frame), (8, layer), (32, (off % 2 ^ 32 : Nat))] s

/-- A record is refused at a step of Table 3-7; the decoder goes on in play order (R85, R86). After a refusal at steps
1 to 4 the record that is found next is checked against none: the fields of the refused one were not trusted (DESIGN
CHOICE, log 94). -/
def refuse (c : Content) (code off step : Nat) (s : State) : State :=
  let s := setNc none (incSat (decErr code c.frame 0xFF off s) Reg.LDEC_CNT_REFUSED 1)
  if step ≤ 4 then setCursor c.span (c.off + 1) { s with reel := { s.reel with prev := none, probe := true } }
  else if step = 5 then leaveSpan { s with reel := { s.reel with prev := none } }
  else nextRecord (unitsOf c.recLen) s

/-- A range read by the decoder or a pipe: its bytes, `none` where poisoned. -/
def readOpt (grp a n : Nat) (s : State) : State × List (Option Byte) := ((memRead grp a n s).1, peekRange s grp a n)

/-- First poisoned byte's line within a range at offset `o` of a record: its offset in the record. -/
def poisonAt (o : Nat) (l : List (Option Byte)) : Option Nat :=
  (l.findIdx? fun b => b.isNone).map fun i => (o + i) / 64 * 64

def plainBytes (l : List (Option Byte)) : Bytes := l.map fun b => b.getD 0#8

/-- Presentation time with both offsets (R111). -/
def effPt (s : State) (pt : Nat) : Nat := (pt + fld s Reg.REEL_TOFF_TOFF) % 2 ^ 64

/-- Due at a tick time (R40). -/
def dueAt (s : State) (pt tt : Nat) : Bool := decide (0 ≤ sdiff 64 tt (effPt s pt))

/-! ### DECODE_START (R86, R101, R123) -/

/-- Device address of a unit of a span. -/
def unitAt (s : State) (e : Span) (o : Nat) : Nat := reelBase s + (e.start + o) * reelUnit

/-- The cursor moves past the end of a span and, while probing, over boundaries that hold no header. -/
def decodeSeek : Nat → State → State
  | 0, s => s
  | k + 1, s =>
    match cursor s with
    | none => s
    | some (n, o) =>
      match spanOf s n with
      | none => leaveSpan { s with reel := { s.reel with probe := false } }
      | some e =>
        if e.len ≤ o then decodeSeek k (leaveSpan { s with reel := { s.reel with probe := false } })
        else if e.fill ≤ o ∨ s.reel.probe = false then s
        else
          let m := memRead grpDecoder (unitAt s e o) 256 s
          if !m.2.2 && hdrTrusted m.2.1 then { m.1 with reel := { m.1.reel with probe := false } }
          else decodeSeek k (setCursor n (o + 1) m.1)

/-- Steps 1 to 5 on the header of the record at the cursor. -/
def decodeHeader (n o : Nat) (e : Span) (s : State) : State :=
  let m := readOpt grpDecoder (unitAt s e o) 256 s
  let h := plainBytes m.2
  let s := m.1
  let c : Content := { span := n, off := o, recLen := hRecLen h, frame := hFrame h, pt := (hPt h + e.toff) % 2 ^ 64, gen := hGen h }
  let known := s.reel.ahead.filter fun q => decide (q.span = n ∧ q.off = o)
  let after := match known, s.reel.judged with
    | some q, _ => q.after
    | none, some tt => dueAt s c.pt tt
    | none, none => false
  let s := { s with reel := { s.reel with ahead := none } }
  match poisonAt 0 m.2 with
  | some p => refuse c 0x0D p 1 s
  | none =>
    match hdrCheck h with
    | some (code, off) => refuse c code off 4 s
    | none =>
      if e.len < o + unitsOf c.recLen then refuse c 0x0B 0x08 5 s
      else
        setNc (some { c := c, hdr := h, late := (known.map Ahead.late).getD false, knownLate := after }) s

def decodeStart (s : State) : State :=
  if s.reel.nc.isSome || decide (playState s ≠ plPlaying ∧ playState s ≠ plPaused) then s else
  let s := decodeSeek (reelUnits s + 2) s
  match cursor s with
  | none => s
  | some (n, o) =>
    match spanOf s n with
    | none => s
    | some e => if o < e.fill then decodeHeader n o e s else s

/-! ### RECORD_RESIDENT: steps 6 to 10 (R64 to R75) -/

/-- Step 7: the offset of the field that breaks the sequence (R67 to R69). -/
def seqFail (s : State) (c : Content) (h : Bytes) : Option Nat :=
  match s.reel.prev with
  | some (n, e, f, pt) =>
    if n ≠ c.span ∨ e ≠ c.off ∨ c.off = 0 then none
    else if c.frame ≠ (f + 1) % 2 ^ 32 then some 0x0C
    else if !bitOf (hFlags h) 1 && decide (sdiff 64 (hPt h) pt ≤ 0) then some 0x10
    else none
  | none => none

/-- Step 8: earlier than the generation in force, and no swap to it is pending (R70, R149). A generation later than the
one in force and earlier than the staged one waits, as a later one does (DESIGN CHOICE, log 95). -/
def genStale (s : State) (g : Nat) : Bool :=
  let cur := fld s Reg.RMAP_GEN_CUR
  decide (g ≠ 0 ∧ cur ≠ 0 ∧ sdiff 16 g cur < 0 ∧ fld s Reg.RMAP_GEN_STAGED ≠ g)

/-- Steps 6 to 10. A record that has come this far is the one parsed immediately before for its successor; one that is
abandoned or passed over before step 6 is not (R69; DESIGN CHOICE, log 94). -/
def parseRecord (x : Decode) (e : Span) (s : State) : State :=
  let c := x.c
  let h := x.hdr
  let sq := seqFail s c h
  let s := { s with reel := { s.reel with prev := some (c.span, c.off + unitsOf c.recLen, c.frame, hPt h) } }
  if hFlags h / 4 % 64 ≠ 0 then refuse c 0x05 0x20 6 s else
  match sq with
  | some o => refuse c 0x06 o 7 s
  | none =>
    if genStale s c.gen then refuse c 0x0C 0x1E 8 s else
    let m := readOpt grpDecoder (unitAt s e c.off + hLt h) (64 * hLayers h) s
    let s := m.1
    match poisonAt (hLt h) m.2 with
    | some p => refuse c 0x0D p 9 s
    | none =>
      let r : Except (Nat × Nat) (List Layer × Nat) := do
        let l ← tableCheck s h (plainBytes m.2) (hLayers h) 0 (recRegions h)
        budgetCheck s h (ncAtlas s) l
      match r with
      | .error (code, o) => refuse c code o 9 s
      | .ok l =>
        let s := if sideBad h then decErr 0x42 c.frame 0xFF 0x30 s else s
        setNc (some { x with c := { c with layers := l.1 }, parsed := true, side := !hSide h || sideBad h, start := s.ns }) s

def recordResident (s : State) : State :=
  match s.reel.nc with
  | none => s
  | some x =>
    match spanOf s x.c.span with
    | none => s
    | some e => if x.parsed || decide (e.fill < x.c.off + unitsOf x.c.recLen) then s else parseRecord x e s

/-! ### Readiness -/

/-- A step of the record ends; a frame that becomes ready notes its decode time (LDEC_TIME). -/
def ncStep (x : Decode) (s : State) : State :=
  let s := setNc (some x) s
  if ncReady x then
    let t := (s.ns - x.start) / 1000
    setPeak (setSat s Reg.LDEC_TIME_LAST t) Reg.LDEC_TIME_PEAK t
  else s

/-! ### Side data and cues (R76 to R79) -/

/-- A cue's body meets Table 3-6; `strict` asks for its reserved bytes too. -/
def cueBody (strict : Bool) (pos : Nat) (c : Bytes) : Option (List Cue) :=
  let len := c.length
  match leAt c 0 1 with
  | 0x01 =>
    if len ≠ 40 ∨ 3 < leAt c 8 1 ∨ (strict ∧ (8 ≤ leAt c 9 1 ∨ leAt c 11 1 ≠ 0 ∨ leAt c 32 8 ≠ 0)) then none
    else some [.overlay pos (leAt c 8 1) (leAt c 9 1 % 8) (leAt c 10 1) (leAt c 12 2) (leAt c 14 2) (leAt c 16 8) (leAt c 24 8)]
  | 0x02 =>
    let first := leAt c 8 2
    let count := leAt c 10 2
    let lv := (List.range count).map fun i => leAt c (16 + i / 2) 1 / 16 ^ (i % 2) % 16
    if count = 0 ∨ 1536 < first + count ∨ len ≠ ceilDiv (16 + ceilDiv count 2) 8 * 8 ∨
        (strict ∧ leAt c 12 4 ≠ 0) ∨ lv.any (fun v => decide (8 ≤ v ∧ v ≤ 14)) then none
    else some [.lensTarget first lv]
  | 0x03 =>
    if len ≠ 16 ∨ 63 < leAt c 8 1 ∨ (strict ∧ leAt c 10 2 ≠ 0) then none
    else some [.witness (leAt c 8 1) (leAt c 9 1) (leAt c 12 4)]
  | _ => if bitOf (leAt c 1 1) 0 then some [] else none

/-- The cues of unpacked side data, or the offset that breaks the rules (R77, R78, R90). -/
def cuesOf (strict : Bool) (u : Bytes) : Nat → Nat → Except Nat (List Cue)
  | 0, pos => .error pos
  | k + 1, pos =>
    if u.length < pos + 8 then .error u.length else
    let len := leAt u (pos + 2) 2
    if len < 8 ∨ len % 8 ≠ 0 ∨ u.length < pos + len ∨ (strict ∧ (2 ≤ leAt u (pos + 1) 1 ∨ leAt u (pos + 4) 4 ≠ 0)) then .error pos
    else if leAt u pos 1 = 0 then
      if len ≠ 8 then .error pos else if pos + 8 = u.length then .ok [] else .error (pos + 8)
    else match cueBody strict pos (sliceB u pos len) with
      | none => .error pos
      | some c => do
        let r ← cuesOf strict u k (pos + len)
        return c ++ r

/-- Unpacks a member that must give `n` bytes: the bytes, or the offset at which it fails. Data that end too early fail at
their last byte (DESIGN CHOICE, log 99). -/
def unpackSide (src : List (Option Byte)) (n : Nat) : Except Nat Bytes :=
  let r := infRun (infFuel src) (n + 1) { r := ⟨src, 0, 0⟩, raw := false, multi := false }
  match r.2.2 with
  | some .ended =>
    if !r.1.r.src.isEmpty then .error (r.1.r.pos / 8)
    else if r.2.1.length = n then .ok r.2.1 else .error (src.length - 4)
  | some (.bad _) => .error (min (r.1.badAt / 8) (src.length - 1))
  | _ => .error (min ((r.1.r.pos - 1) / 8) (src.length - 1))

/-- SIDE_UNPACK_DONE: pipe 0 ends. Invalid side data lose their cues; the record goes on (R79). -/
def sideUnpackDone (s : State) : State :=
  match s.reel.nc with
  | none => s
  | some x =>
    match spanOf s x.c.span with
    | none => s
    | some e =>
      if !x.parsed || x.side then s else
      let h := x.hdr
      let m := readOpt grpLossless (unitAt s e x.c.off + hSdOff h) (hSdLen h) s
      let s := pipeBytes (hSdLen h) 0 m.1
      let fail (code off : Nat) (s : State) : State := ncStep { x with side := true } (decErr code x.c.frame 0xFF off s)
      match poisonAt (hSdOff h) m.2 with
      | some p => fail 0x43 p s
      | none =>
        match unpackSide m.2 (hSdUlen h) with
        | .error o => fail 0x40 (hSdOff h + o) s
        | .ok u =>
          let s := pipeBytes 0 u.length s
          match cuesOf (hStrict h) u (u.length / 8 + 1) 0 with
          | .error o => fail 0x41 o s
          | .ok cs => ncStep { x with c := { x.c with cues := cs }, side := true } s

/-! ### DECODE_DONE: steps 11 and 12 (R84 to R96, R126 to R131) -/

/-- What a codestream must be, by its place in the descriptor: luma, chroma, alpha. -/
def csWant (k : Layer) (i : Nat) : CsWant :=
  let cd := chromaDim k.fmt k.width k.height
  match i with
  | 0 => ⟨k.width, k.height, 1, fmtDepth k.fmt⟩
  | 1 => ⟨cd.1, cd.2, 2, fmtDepth k.fmt⟩
  | _ => ⟨k.width, k.height, 1, 8⟩

/-- The planes of a layer from its record, or the code and offset with which it fails (R87). Poison anywhere in a
codestream is reported before any other failure of it (DESIGN CHOICE, log 98). -/
def decodePlanes (rec : List (Option Byte)) (k : Layer) : List (Nat × Nat) → Nat → Except (Nat × Nat) (List Bytes)
  | [], _ => .ok []
  | (o, n) :: t, i => do
    let bs := (rec.drop o).take n
    match poisonAt o bs with
    | some p => .error (0x2D, p)
    | none =>
      let data := plainBytes bs
      match csCheck data (csWant k i) with
      | some (code, at_) => .error (code, o + at_)
      | none =>
        let p := match i with
          | 0 => planeBytes data (lumaN k.width k.height) (fmtDepth k.fmt)
          | 1 => planeBytes data (chromaN k.fmt k.width k.height) (fmtDepth k.fmt)
          | _ => alphaBytes data (lumaN k.width k.height)
        let r ← decodePlanes rec k t (i + 1)
        return p :: r

/-- Writes planes at a layer's places. -/
def writePlanes (k : Layer) (ps : List Bytes) (s : State) : State :=
  (ps.zip [k.yAt, k.cAt, k.aAt]).foldl (fun s p => clientWrite grpDecoder p.2 p.1 false s) s

/-- What a failed layer becomes: carried into its own place when the previous layer is alike, else after
the layout, else ABSENT (R131). A second layer carried after the layout follows the first at the next 4 KiB boundary
(DESIGN CHOICE, log 122). Answers the layer, the copy, and the end of what is used. -/
def carryLayer (s : State) (base pos : Nat) (i : Nat) (k : Layer) : Layer × Option (Nat × Layer × Layer) × Nat :=
  let absent := ({ k with state := 0 }, none, pos)
  match (curLayers s)[i]? with
  | none => absent
  | some p =>
    if p.state = 0 then absent
    else if p.width = k.width ∧ p.height = k.height ∧ p.fmt = k.fmt then
      let d := { p with yAt := k.yAt, cAt := k.cAt, aAt := k.aAt, state := 2 }
      (d, some (i, p, d), pos)
    else match placePlanes (fld s Reg.LDEC_ATLAS_SIZE_SIZE) p.sizes pos with
      | none => absent
      | some q =>
        let d := p.put base q.1 2
        (d, some (i, p, d), q.2)

/-- Step 11 layer by layer: the layers as they stand, and the carry copies. -/
def decodeLayers (rec : List (Option Byte)) (frame base : Nat) :
    List Layer → Nat → Nat → State → State × List Layer × List (Nat × Layer × Layer)
  | [], _, _, s => (s, [], [])
  | k :: t, i, pos, s =>
    match decodePlanes rec k k.offs 0 with
    | .ok ps =>
      let s := writePlanes k ps { s with scan := { s.scan with decoded := s.scan.decoded + k.samples } }
      let r := decodeLayers rec frame base t (i + 1) pos s
      (r.1, { k with state := 1 } :: r.2.1, r.2.2)
    | .error (code, o) =>
      let s := decErr code frame i o s
      let c := carryLayer s base pos i k
      let r := decodeLayers rec frame base t (i + 1) c.2.2 s
      (r.1, c.1 :: r.2.1, c.2.1.toList ++ r.2.2)

/-- End of a layout in the atlas, on a 4 KiB boundary. -/
def layoutEnd (base : Nat) (l : List Layer) : Nat :=
  (l.map fun k => ((k.sizes.zip [k.yAt, k.cAt, k.aAt]).map fun p => upUnit (p.2 + p.1 - base)).foldl max 0).foldl max 0

/-- Step 12 is skipped, or passes (R88, R89): poison only within codestreams and side data skips it; other
poison cannot pass it. -/
def crcOk (h : Bytes) (l : List Layer) (rec : List (Option Byte)) : Bool :=
  let rl := hRecLen h
  let bad := (rec.zipIdx.filter fun p => p.1.isNone).map Prod.snd
  if bad.isEmpty then decide (crc32c ((plainBytes rec).take (rl - 4)) = leNat ((plainBytes rec).drop (rl - 4)))
  else
    let rs := (l.flatMap Layer.offs).map (fun p => (p.1, p.1 + p.2)) ++ (if hSide h then [(hSdOff h, hSdOff h + hSdLen h)] else [])
    bad.all fun i => rs.any fun p => decide (p.1 ≤ i ∧ i < p.2)

/-- The record at device address `a` is read, but for side data whose SD_ULEN is out of range: a line that holds nothing
else is not read as a client reads (R79). -/
def recordRead (h : Bytes) (a n : Nat) (s : State) : State :=
  if !sideBad h then (memRead grpDecoder a n s).1 else
  let e := hSdOff h + hSdLen h
  let b := if (hSdOff h - 1) / 64 = e / 64 then (e / 64 + 1) * 64 else e
  (memRead grpDecoder (a + b) (n - b) (memRead grpDecoder a (hSdOff h) s).1).1

/-- DECODE_DONE. Steps 11 and 12 are judged when the codestreams end, whether or not the side data have been unpacked,
and side data with a bad SD_ULEN count in the closing CRC all the same (DESIGN CHOICE, log 96 and log 97). -/
def decodeDone (s : State) : State :=
  match s.reel.nc with
  | none => s
  | some x =>
    match spanOf s x.c.span with
    | none => s
    | some e =>
      if !x.parsed || x.body then s else
      let a := unitAt s e x.c.off
      let bs := peekRange s grpDecoder a x.c.recLen
      let base := ncAtlas s
      let r := decodeLayers bs x.c.frame base x.c.layers 0 (layoutEnd base x.c.layers) (recordRead x.hdr a x.c.recLen s)
      if crcOk x.hdr x.c.layers bs then
        let s := nextRecord (unitsOf x.c.recLen) r.1
        ncStep { x with c := { x.c with layers := r.2.1, last := s.reel.atEnd }, body := true, carries := r.2.2 } s
      else refuse x.c 0x0A (x.c.recLen - 4) 12 r.1

/-! ### CARRY_COPY_DONE (R131 to R133) -/

/-- Copies a plane line by line; a poisoned line is written poisoned. -/
def copyPlane (src dst : Nat) : Nat → Nat → State → State
  | 0, _, s => s
  | k + 1, n, s =>
    let c := min 64 n
    let m := memRead grpDecoder src c s
    copyPlane (src + 64) (dst + 64) k (n - c) (clientWrite grpDecoder dst m.2.1 m.2.2 m.1)

def copyLayer (a b : Layer) (s : State) : State :=
  ((a.sizes.zip [a.yAt, a.cAt, a.aAt]).zip [b.yAt, b.cAt, b.aAt]).foldl
    (fun s p => copyPlane p.1.2 p.2 (ceilDiv p.1.1 64) p.1.1 s) s

def carryCopyDone (s : State) : State :=
  match s.reel.nc with
  | none => s
  | some x =>
    match x.carries with
    | [] => s
    | (_, a, b) :: t => ncStep { x with carries := t } (incSat (copyLayer a b s) Reg.LDEC_CNT_CARRIED 1)

/-! ### LDEC_CTRL.CLR -/

def ldecClr (s : State) : State := setReg (setFld s Reg.LDEC_TIME_PEAK 0) Reg.LDEC_CNT 0

end Sys2Proof.Machine
end

