-- ==== Sys2Proof/Machine/Uni.lean ====
section
/-! DEFINITION. Uniformity tables (R164 to R170): the image, TABLE blocks within their limits, TABLE_ACK,
and the switch of the banks. -/

namespace Sys2Proof.Machine

/-! ### The image (Table 5-6) -/

/-- Entry `i` of the entry table. -/
def uniEntryAt (bs : Bytes) (i : Nat) : UniEntry :=
  { wick := leAt bs (16 * i) 1, off := leAt bs (16 * i + 8) 4, words := leAt bs (16 * i + 4) 4, crc := leAt bs (16 * i + 12) 4 }

/-- The image of `len` bytes at device address `a`: its entries, or `none` where it breaks Table 5-6 or
names a wick that has no head driver module (R164). -/
def uniImage (a len : Nat) (s : State) : State × Option (List UniEntry) :=
  let m := memRead grpMgmt a 64 s
  let h := m.2.1
  let n := leAt h 8 2
  if len < 64 || m.2.2 || decide (leAt h 0 4 ≠ 0x565A5554) || decide (leAt h 4 2 ≠ 0x0100) || decide (leAt h 6 2 ≠ 64) ||
      decide (n = 0) || decide (192 < n) || decide (leAt h 0x0A 2 ≠ 0) || !allZero (sliceB h 0x14 40) ||
      decide (leAt h 0x0C 4 ≠ len) || decide (leAt h 0x3C 4 ≠ crc32c (h.take 0x3C)) || decide (len < 64 + 16 * n) then
    (m.1, none)
  else
    let t := memRead grpMgmt (a + 64) (16 * n) m.1
    let es := (List.range n).map (uniEntryAt t.2.1)
    let ok := (List.range n).all fun i =>
      let e := uniEntryAt t.2.1 i
      decide (leAt t.2.1 (16 * i + 1) 3 = 0 ∧ 1 ≤ e.words ∧ e.words ≤ 16777215 ∧ e.off % 4 = 0 ∧ e.off + 4 * e.words ≤ len) &&
      decide (e.wick < 192) && wickInUse s e.wick && !((es.take i).any fun f => decide (f.wick = e.wick))
    if t.2.2 || decide (leAt h 0x10 4 ≠ crc32c t.2.1) || !ok then (t.1, none) else (t.1, some es)

/-! ### UNIFORMITY_PUSH (R165, R166) -/

def setPush (s : State) (p : Option UniPush) : State := { s with rmap := { s.rmap with push := p } }

/-- The push ends without a switch. -/
def uniEnd (j : Job) (st n : Nat) (s : State) : State :=
  complete j st 0 n (setFld (setPush s none) Reg.RMAP_UNI_STAT_STATE 0)

/-- Sending begins. -/
def uniBegin (p : UniPush) (es : List UniEntry) (s : State) : State :=
  let s := setPush s (some { p with unpacking := false, entries := es })
  setFld (setFld (setFld s Reg.RMAP_UNI_STAT_STATE 1) Reg.RMAP_UNI_STAT_DONE 0) Reg.RMAP_UNI_STAT_RETRIES 0

def uniPushRun (j : Job) (d : Bytes) (s : State) : State :=
  let src := leAt d 8 8
  let len := leAt d 16 4
  if s.img = none then complete j stDeviceState 0 0 s
  else if s.rmap.push.isSome then complete j 0x54 0 0 s
  else if src % 64 ≠ 0 ∨ !inHdm s src len then complete j 0x55 0 0 s
  else
    let p : UniPush := { job := j, src := src, len := len, unpacking := bitOf (dByte d 4) 0 }
    if p.unpacking then poolInternal (setPush s (some p))
    else
      let m := uniImage src len s
      match m.2 with
      | none => complete j 0x56 0 0 m.1
      | some es => uniBegin p es m.1

def cmdUniformityPush : Cmd where
  op := 0x0F
  bodyOk d := bodyZero d [(4, 4), (8, 19)] && decide (dByte d 4 < 2)
  ready := always
  run := uniPushRun

def uniStage (s : State) : Nat := fld s Reg.RMAP_UNI_STAGE_BASE

/-- UNI_UNPACK_DONE: the image is unpacked into the staging region and checked (R165, R166). -/
def uniUnpackDone (s : State) : State :=
  match s.rmap.push with
  | none => s
  | some p =>
    if !p.unpacking || s.hle.uni.isNone then s else
    let u := gunzip (peekRange s grpLossless p.src p.len) (fld s Reg.RMAP_UNI_STAGE_SIZE_SIZE)
    let s := (memRead grpLossless p.src p.len s).1
    match u with
    | .ok bs =>
      let s := clientWrite grpLossless (uniStage s) bs false (pipeBytes p.len bs.length (uniFree s))
      let m := uniImage (uniStage s) bs.length s
      match m.2 with
      | none => uniEnd p.job 0x56 0 m.1
      | some es => uniBegin { p with src := uniStage s, len := bs.length } es m.1
    | _ => uniEnd p.job 0x56 0 (pipeBytes p.len 0 (uniFree s))

/-! ### Sending (R167) -/

/-- A block time of a group in 1/20000000 clocks (R26, R486). -/
def blockTime (s : State) (g : Nat) : Nat := (if fld s (Reg.WLN_GCFG_GEN g) = 1 then 6144 else 3072) * coreNum s

/-- Blocks of a wick's row (R26): its data blocks, ROW_START and ROW_END. -/
def rowBlocks (s : State) (n : Nat) : Nat := ceilDiv (3 * wickCols s n) 6 + 2

/-- TABLE blocks a wick may carry in a row period. -/
def tableLimit (s : State) (n : Nat) : Nat :=
  let b := blockTime s (n / 8)
  min (fld s Reg.RMAP_UNI_CTRL_PER_ROW) ((20000000 * rowPeriod s - rowBlocks s n * b) / b)

/-- A wick can carry TABLE blocks: its group is UP and its clock runs, it does not relock, and BLANK does not replace them. -/
def tableOpen (s : State) (n : Nat) : Bool :=
  groupUp s (n / 8) && laneSends s n && decide (wickState s n = 1) && decide (blankCause s = none)

/-- TABLE of an address and a word (Table 8-2). -/
def tableBlock (addr data : Nat) : Nat := 0x30 + addr * 2 ^ 8 + data * 2 ^ 32

/-- Sends up to `k` blocks of an entry. -/
def uniSendEntry (src : Nat) : Nat → UniEntry → State → State × UniEntry
  | 0, e, s => (s, e)
  | k + 1, e, s =>
    if e.phase ≠ 0 then (s, e)
    else if e.sent < e.words then
      let m := memRead grpMgmt (src + e.off + 4 * e.sent) 4 s
      let s := emit m.1 (.wickCtl e.wick 0x30 (tableBlock e.sent (leNat m.2.1)))
      uniSendEntry src k { e with sent := e.sent + 1 } s
    else (emit s (.wickCtl e.wick 0x30 (tableBlock 0xFFFFFF e.crc)), { e with phase := 1 })

def uniSendAll (src : Nat) : List UniEntry → State → State × List UniEntry
  | [], s => (s, [])
  | e :: t, s =>
    let r := if tableOpen s e.wick then uniSendEntry src (tableLimit s e.wick) e s else (s, e)
    let u := uniSendAll src t r.1
    (u.1, r.2 :: u.2)

/-- The TABLE blocks of one row period on every wick. -/
def uniSend (s : State) : State :=
  match s.rmap.push with
  | none => s
  | some p =>
    if p.unpacking || p.switching then s else
    let r := uniSendAll p.src p.entries s
    setPush r.1 (some { p with entries := r.2 })

/-! ### Acknowledgements and the switch (R168 to R170) -/

/-- UNI_BANK bit of a wick. -/
def uniBank (n : Nat) : Fld := ⟨Reg.RMAP_UNI_BANK (n / 32), n % 32, n % 32⟩

/-- The banks flip (R169). -/
def flipBanks (s : State) : State :=
  forAll s.scan.flips (fun n s => setFld s (uniBank n) (1 - fld s (uniBank n))) { s with scan := { s.scan with flips := [] } }

/-- Every wick has been accepted or has failed: the push completes. -/
def uniSettle (s : State) : State :=
  match s.rmap.push with
  | none => s
  | some p =>
    if p.unpacking || p.switching || !(p.entries.all fun e => decide (2 ≤ e.phase)) then s else
    let good := (p.entries.filter fun e => decide (e.phase = 2)).length
    if good = p.entries.length then
      let s := setPush { s with scan := { s.scan with flips := p.entries.map UniEntry.wick } } (some { p with switching := true })
      let s := complete p.job stOK 0 good (setFld s Reg.RMAP_UNI_STAT_STATE 2)
      if flag s Reg.SCAN_STAT_RUN then s else flipBanks s
    else
      let s := forAll ((p.entries.filter fun e => decide (e.phase = 3)).map UniEntry.wick) (fun n s => wickEvent n 10 s) s
      uniEnd p.job 0x57 good s

/-- The bits have gone out in a row 0: the switch is sent. -/
def uniSwitched (s : State) : State :=
  match s.rmap.push with
  | some p => if p.switching && decide (s.scan.flips = []) then setFld (setPush s none) Reg.RMAP_UNI_STAT_STATE 0 else s
  | none => s

/-- An attempt of a wick has failed: another, up to 3 in all. -/
def uniRetry (n : Nat) (s : State) : State :=
  match s.rmap.push with
  | none => s
  | some p =>
    let again := p.entries.any fun e => decide (e.wick = n ∧ e.phase = 1 ∧ e.attempts < 3)
    let es := p.entries.map fun e =>
      if e.wick = n ∧ e.phase = 1 then
        (if e.attempts < 3 then { e with sent := 0, phase := 0, attempts := e.attempts + 1 } else { e with phase := 3 })
      else e
    let s := setPush s (some { p with entries := es })
    uniSettle (if again then incSat s Reg.RMAP_UNI_STAT_RETRIES 1 else s)

/-- TABLE_ACK of wick `n`: accepted when it reports OK with the entry's CRC (R168). -/
def tableAck (n st crc : Nat) (s : State) : State :=
  match s.rmap.push with
  | none => s
  | some p =>
    match p.entries.find? fun e => decide (e.wick = n ∧ e.phase = 1) with
    | none => s
    | some e =>
      if st = 0 ∧ crc = e.crc then
        let es := p.entries.map fun f => if f.wick = n then { f with phase := 2 } else f
        let s := setPush s (some { p with entries := es })
        uniSettle (setSat s Reg.RMAP_UNI_STAT_DONE (es.filter fun f => decide (f.phase = 2)).length)
      else uniRetry n s

/-! ### Return blocks (R243 to R245, Table 8-3) -/

/-- A TABLE_ACK for a wick of the group that sends it. -/
def tableAckSeen (g payload : Nat) (s : State) : State :=
  let n := bitsOf payload 8 8
  if n / 8 = g then tableAck n (bitsOf payload 16 8) (bitsOf payload 24 32) (thaw g s) else thaw g s

/-- A block of no type of Table 8-3: ignored and counted (R245). -/
def unknownSeen (g : Nat) (s : State) : State := incSat (thaw g s) (Reg.WLN_GCNT_UNKNOWN g) 1

/-- A block that the receiver of return lane `g` delivers. -/
def returnBlock (g : Nat) (b : RxBlock) (s : State) : State :=
  let w := b.payload.toNat
  if rxIdle b then s
  else if rxCtl b && decide (rxType b = 0x80) then statusSeen g w s
  else if rxCtl b && decide (rxType b = 0x81) then orderSeen g w s
  else if rxCtl b && decide (rxType b = 0x82) then tableAckSeen g w s
  else if rxCtl b && decide (rxType b = 0x83) then lensTempSeen g w s
  else unknownSeen g s

/-- A block that arrives on a return lane in lock. The first one after lock is discarded (R236). -/
def returnHeard (g : Nat) (b : RxBlock) (s : State) : State :=
  if !laneHears s g then s else
  let r : Receiver := tblGet {} s.wln.rx g
  if r.first then { s with wln := { s.wln with rx := tblSet {} s.wln.rx g { r with first := false } } } else returnBlock g b s

/-- A lane out of lock hears blocks: block lock in either polarity (R236, R245), and what the receiver delivers. -/
def returnLock (g : Nat) (heard : List RxBlock) (s : State) : State :=
  if !groupOn s g || flag s (Reg.WLN_GSTAT_RET_LOCK g) then s else
  let x := hearAll returnType (tblGet {} s.wln.rx g) heard
  let s := { s with wln := { s.wln with rx := tblSet {} s.wln.rx g x.1 } }
  if !x.1.lock then s else
  let s := groupReact g (setFld (setFld s (Reg.WLN_GSTAT_RET_LOCK g) 1) (Reg.WLN_GSTAT_RET_INV g) (b2n x.1.inv))
  x.2.foldl (fun s b => returnBlock g b s) s

end Sys2Proof.Machine
end

