-- ==== Sys2Proof/Machine/Rmap.lean ====
section
/-! DEFINITION. Ray map generations: loading, staging, swapping (R148 to R158); candle-hours and aging
gains (R159 to R163); the optical-level table (R146). -/

namespace Sys2Proof.Machine

def evRaymapSwap : Nat := 219
def evAgingUpdate : Nat := 220

def stRmapBusy : Nat := 0x50
def stRmapGen : Nat := 0x51
def stRmapRange : Nat := 0x52
def stRmapImage : Nat := 0x53
def stRmapReplaced : Nat := 0x58

/-! ### The slots (R150, R153, R155, R156) -/

/-- The staged generation is complete. -/
def rmapStaged (s : State) : Bool := decide (fld s Reg.RMAP_STAT_NC = 2)
def rmapSwapMode (s : State) : Nat := fld s Reg.RMAP_STAT_SWAP

/-- The non-current slot is free. -/
def slotFree (s : State) : State :=
  let s := setFld (setFld (setFld s Reg.RMAP_STAT_NC 0) Reg.RMAP_STAT_SWAP 0) Reg.RMAP_GEN_STAGED 0
  setReg { s with rmap := { s.rmap with job := none } } Reg.RMAP_SWAP_TICK 0

/-- The swap (R156): the staged slot comes into force. `k` is the first tick under it, which the capture names (DESIGN CHOICE,
log 132). -/
def rmapSwap (k : Nat) (s : State) : State :=
  let old := fld s Reg.RMAP_GEN_CUR
  let new := fld s Reg.RMAP_GEN_STAGED
  let s := slotFree { s with rmap := { s.rmap with cur := s.rmap.staged } }
  let s := setFld (setFld s Reg.RMAP_STAT_CUR_SLOT (1 - fld s Reg.RMAP_STAT_CUR_SLOT)) Reg.RMAP_STAT_NOMINAL 0
  fixNc (raise evRaymapSwap [(16, old), (16, new), (32, (k % 2 ^ 32 : Nat))] (setFld s Reg.RMAP_GEN_CUR new))

/-- A record in the decoder that has passed step 8 is checked again against the generation in force; one that is now
earlier is refused with 0x0C and never becomes current (R70, R156). -/
def recheck (s : State) : State :=
  match s.reel.nc with
  | some x =>
    if x.parsed && genStale s x.c.gen then
      if x.body then setNc none (incSat (decErr 0x0C x.c.frame 0xFF 0x1E s) Reg.LDEC_CNT_REFUSED 1)
      else refuse x.c 0x0C 0x1E 8 s
    else s
  | none => s

/-- A swap under NEXT or AT_TICK, or at once while the raster is stopped (R155, R156). -/
def swapNow (k : Nat) (s : State) : State := recheck (rmapSwap k s)

/-- A swap is due at the boundary point before tick `k` under NEXT or AT_TICK (R155). -/
def swapDue (s : State) (k : Nat) : Bool :=
  rmapStaged s && (decide (rmapSwapMode s = 0) ||
    (decide (rmapSwapMode s = 1) && decide (0 ≤ sdiff 64 k (reg s Reg.RMAP_SWAP_TICK).toNat)))

/-- While the raster is stopped, changes take effect at once and lanterns build afresh (R19). -/
def rasterRuns (s : State) : Bool := flag s Reg.SCAN_STAT_RUN

/-- An image overlaps a ray map slot. -/
def meetsSlot (s : State) (a n : Nat) : Bool :=
  [0, 1].any fun i => overlaps a n (rmapBase s i) (fld s Reg.RMAP_SLOT_SIZE_SIZE)

/-- Ends a staging in progress: its command completes with the status. -/
def stageEnd (st : Nat) (s : State) : State :=
  match s.rmap.job with
  | some (j, _) => complete j st 0 0 (stageFree (slotFree s))
  | none => s

def raymapLoadRun (j : Job) (d : Bytes) (s : State) : State :=
  let lf := dByte d 4
  let gen := leAt d 6 2
  let src := leAt d 8 8
  let len := leAt d 16 4
  let cur := fld s Reg.RMAP_GEN_CUR
  if s.img.isNone then complete j stDeviceState 0 0 s
  else if gen = 0 ∨ (cur ≠ 0 ∧ sdiff 16 gen cur ≤ 0) then complete j stRmapGen 0 0 s
  else if src % 64 ≠ 0 ∨ !inHdm s src len ∨ meetsSlot s src len then complete j stRmapRange 0 0 s
  else if fld s Reg.RMAP_STAT_NC ≠ 0 ∧ !bitOf lf 1 then complete j stRmapBusy 0 0 s
  else
    let s := slotFree (stageEnd stRmapReplaced s)
    let s := setFld (setFld (setFld s Reg.RMAP_STAT_NC 1) Reg.RMAP_STAT_SWAP (lf / 4 % 4)) Reg.RMAP_GEN_STAGED gen
    let s := if lf / 4 % 4 = 1 then setReg s Reg.RMAP_SWAP_TICK (BitVec.ofNat 64 (leAt d 24 8)) else s
    poolInternal { s with rmap := { s.rmap with job := some (j, src, len, bitOf lf 0) } }

def cmdRaymapLoad : Cmd where
  op := 0x0E
  bodyOk d := bodyZero d [(4, 4), (6, 19), (24, 31)] && decide (dByte d 4 < 16) && decide (dByte d 4 / 4 % 4 ≠ 3)
  ready := always
  run := raymapLoadRun

/-! ### Staging (R151, R154) -/

/-- Bytes of the records, and of the body. -/
def mapRecs (s : State) : Nat := geoNLX s * geoNLY s * 8
def mapBody (s : State) : Nat := mapRecs s + geoPX s * geoPY s

/-- The image of a source, or the code and offset with which reading it fails: a GZ image unpacked. -/
def stageSource (s : State) (gz : Bool) (src : List (Option Byte)) : Except (Nat × Nat) (List (Option Byte)) :=
  if gz then
    let r := infRun (infFuel src) (128 + mapBody s + 1) { r := ⟨src, 0, 0⟩, raw := false, multi := false }
    match r.2.2 with
    | some .ended => if r.1.r.src.isEmpty then .ok (r.2.1.map some) else .error (0x06, r.1.r.pos / 8)
    | some (.bad c) =>
      if c = hzPoison then .error (0x07, (poisonAt 0 src).getD 0)
      else if c = hzTruncated then .error (0x06, src.length)
      else .error (0x05, r.1.badAt / 8)
    | _ => .ok (r.2.1.map some)
  else .ok src

/-- A header field of 4 bytes as fp32 lies within ±lim. -/
def fpWithin (h : Bytes) (o : Nat) (neg pos : F32) : Bool :=
  fFinite (leAt h o 4) && fLe neg (fIn (leAt h o 4)) && fLe (fIn (leAt h o 4)) pos

/-- First header field that breaks Table 5-3, in its order. -/
def mapField (s : State) (h : Bytes) (gen : Nat) : Option Nat :=
  let l := [(0x06, decide (leAt h 6 2 = 128)), (0x08, decide (leAt h 8 2 = gen)), (0x0A, decide (leAt h 0xA 2 = 0)),
    (0x0C, decide (leAt h 0xC 2 = geoNLX s)), (0x0E, decide (leAt h 0xE 2 = geoNLY s)),
    (0x10, decide (leAt h 0x10 4 = geoPX s)), (0x14, decide (leAt h 0x14 4 = geoPY s)),
    (0x18, fpWithin h 0x18 0xC1200000 0x41200000), (0x1C, fpWithin h 0x1C 0xC1200000 0x41200000),
    (0x20, fpWithin h 0x20 0xBDCCCCCD 0x3DCCCCCD),
    (0x24, fFinite (leAt h 0x24 4) && fLt 0 (fIn (leAt h 0x24 4))),
    (0x28, fFinite (leAt h 0x28 4) && fLt 0 (fIn (leAt h 0x28 4))), (0x2C, decide (leAt h 0x2C 4 = 0)),
    (0x30, decide (leAt h 0x30 8 = mapBody s)), (0x3C, allZero (sliceB h 0x3C 64))]
  (l.find? fun p => !p.2).map Prod.fst

/-- Checks an image (R154): its body, or the code and offset of the failure. -/
def mapCheck (s : State) (im : List (Option Byte)) (gen : Nat) : Except (Nat × Nat) Bytes :=
  let hp := poisonAt 0 (im.take 128)
  let h := plainBytes (im.take 128)
  let total := 128 + mapBody s
  if hp.isSome then .error (0x07, hp.getD 0)
  else if leAt h 0 4 ≠ 0x565A524D then .error (0x01, 0)
  else if im.length < 128 then .error (0x06, im.length)
  else if leAt h 4 2 ≠ 0x0100 then .error (0x01, 4)
  else if crc32c (h.take 0x7C) ≠ leAt h 0x7C 4 then .error (0x02, 0x7C)
  else match mapField s h gen with
  | some o => .error (0x03, o)
  | none =>
    match poisonAt 0 im with
    | some p => .error (0x07, p)
    | none =>
      if im.length ≠ total then .error (0x06, min im.length total)
      else
        let body := plainBytes (im.drop 128)
        if crc32c body ≠ leAt h 0x38 4 then .error (0x04, 0x38) else .ok body

/-- RAYMAP_STAGE_DONE: the image has been read (R154). One that fails leaves the slot's bytes as they were (DESIGN CHOICE,
log 125). -/
def raymapStageDone (s : State) : State :=
  match s.rmap.job with
  | none => s
  | some (j, src, len, gz) =>
    if gz && decide (s.hle.stage.length < 2) then s else
    let gen := fld s Reg.RMAP_GEN_STAGED
    let m := readOpt grpLossless src len s
    let s := m.1
    let im := stageSource s gz m.2
    let s := if gz then pipeBytes len (match im with
        | .ok b => b.length
        | .error _ => 0) s else s
    let s := stageFree { s with rmap := { s.rmap with job := none } }
    match im.bind fun b => mapCheck s b gen with
    | .error (code, off) =>
      complete j stRmapImage 0 0 (raise evRaymapErr [(8, code), (16, gen), (64, off)] (slotFree s))
    | .ok body =>
      let h := plainBytes ((im.toOption.getD []).take 128)
      let base := rmapBase s (1 - curSlot s)
      let s := clientWrite grpLossless base (body.take (mapRecs s)) false s
      let s := clientWrite grpLossless (base + residStart s) (body.drop (mapRecs s)) false s
      let f (o : Nat) : F32 := fIn (leAt h o 4)
      let g : RayGrid := { x0 := f 0x18, y0 := f 0x1C, theta := f 0x20, fx := f 0x24, fy := f 0x28 }
      let s := complete j stOK 0 gen (setFld { s with rmap := { s.rmap with staged := g } } Reg.RMAP_STAT_NC 2)
      if !rasterRuns s && decide (rmapSwapMode s ≠ 2) then quadsFresh (swapNow s.time.nextTick s) else s

/-! ### Candle-hours (R160, R161) -/

def zonesAll : List Nat := List.range 4096

/-- Adds a frame's accrual of every zone: mean linear value × tick period, in 2^-24 units, truncated. The
sums are those of the frame, or of the last frame in which a row of the zone was sent (R160). -/
def accrue (s : State) : State :=
  let sc := s.scan
  let add (t : Tbl Nat) (z : Nat) : Tbl Nat :=
    let c := tblGet 0 sc.zcnt z
    let sum := if c = 0 then tblGet 0 sc.psum z else tblGet 0 sc.zsum z
    let cnt := if c = 0 then tblGet 0 sc.pcnt z else c
    if cnt = 0 then t else tblSet 0 t z (tblGet 0 t z + sum * sc.period / (cnt * 2 ^ 24 * 3515625000))
  let acc := zonesAll.foldl add s.rmap.acc
  let keep (get : Nat → Nat) (t : Tbl Nat) (z : Nat) : Tbl Nat := if tblGet 0 sc.zcnt z = 0 then t else tblSet 0 t z (get z)
  let ps := zonesAll.foldl (keep (tblGet 0 sc.zsum)) sc.psum
  let pc := zonesAll.foldl (keep (tblGet 0 sc.zcnt)) sc.pcnt
  { s with rmap := { s.rmap with acc := acc }, scan := { sc with psum := ps, pcnt := pc } }

/-- The page writes of a row of 32 counters: one, while the counters advance in step (R499, R500). The row's cells are read
for it (R495). -/
def candleRow (k : Nat) (s : State) : State :=
  let s := nvmTouch 3 (candleCell (32 * k) 0) 4096 s
  (candleWrites s k 0 ((List.range 32).map fun i => tblGet 0 s.rmap.units (32 * k + i))).foldl (fun s w => nvmWrite w s) s

/-! ### Aging gains (R162, R163) -/

/-- Gain of a primary for a count of units (R162). -/
def gainOf (s : State) (p h : Nat) : Nat :=
  let step := secNat s 0x42 (68 * p) 1
  let g (i : Nat) : Nat := secNat s 0x42 (68 * p + 2 + 2 * i) 2
  let i := h / 2 ^ step
  if 32 ≤ i then g 32
  else ((g i : Int) + ((g (i + 1) : Int) - g i) * ((h % 2 ^ step : Nat) : Int) / ((2 ^ step : Nat) : Int)).toNat

/-- Every gain from the counters, by 3 × zone + primary. -/
def gainsAll (s : State) : Tbl Nat :=
  if hasSec (s.img.getD []) 0x42 then
    zonesAll.foldl (fun t z => [0, 1, 2].foldl (fun t p => tblSet 0x8000 t (3 * z + p) (gainOf s p (tblGet 0 s.rmap.units z))) t) []
  else []

/-- Pending gains take effect (R163). The capture names `k`, the first tick under them (DESIGN CHOICE, log 132). -/
def agingTake (k : Nat) (s : State) : State :=
  match s.rmap.pend with
  | none => s
  | some g =>
    let d (z p : Nat) : Nat :=
      let a : Nat := tblGet 0x8000 g (3 * z + p)
      let b : Nat := tblGet 0x8000 s.rmap.gains (3 * z + p)
      max a b - min a b
    let worst := zonesAll.map fun z => max (d z 0) (max (d z 1) (d z 2))
    let n := worst.countP fun w => decide (w ≠ 0)
    let s := { s with rmap := { s.rmap with gains := g, pend := none } }
    let s := incSat (setFld s Reg.RMAP_AGING_STAT_PENDING 0) Reg.RMAP_AGING_STAT_UPDATES 1
    if n = 0 then s
    else raise evAgingUpdate [(16, n), (16, ((worst.foldl max 0 : Nat) : Int)), (32, (k % 2 ^ 32 : Nat))] s

/-- Gains pending under AUTO take effect at once while the raster is stopped. -/
def agingSettle (s : State) : State :=
  if !rasterRuns s && decide (fld s Reg.RMAP_AGING_CTRL_MODE = 0) && s.rmap.pend.isSome then
    quadsFresh (agingTake s.time.nextTick s) else s

/-- The gains are recomputed and become pending. -/
def agingCalc (s : State) : State :=
  agingSettle (setFld { s with rmap := { s.rmap with pend := some (gainsAll s) } } Reg.RMAP_AGING_STAT_PENDING 1)

/-- Every counter advances by its whole units, and the gains are recomputed (R161, R163, R500). -/
def candleUpdate (s : State) : State :=
  let u := zonesAll.foldl (fun t z => tblSet 0 t z ((tblGet 0 t z + tblGet 0 s.rmap.acc z / 2 ^ 24) % 2 ^ 40)) s.rmap.units
  let a := zonesAll.foldl (fun t z => tblSet 0 t z (tblGet 0 t z % 2 ^ 24)) s.rmap.acc
  let s := { s with rmap := { s.rmap with units := u, acc := a } }
  agingCalc (forAll (List.range 128) candleRow s)

/-- RMAP_AGING_CH of a zone: its counter and the whole units not yet written. -/
def agingUnits (s : State) (z : Nat) : Nat := (tblGet 0 s.rmap.units z + tblGet 0 s.rmap.acc z / 2 ^ 24) % 2 ^ 40

/-- The counters as the store holds them. -/
def loadCandle (s : State) : State :=
  let s := nvmTouch 3 (candleCell 0 0) (2048 * 256) s
  let u := zonesAll.foldl (fun t z => tblSet 0 t z (counterValue s (candleCell z))) []
  { s with rmap := { s.rmap with units := u, acc := [] } }

/-! ### The optical-level table (R146) -/

/-- Pending levels of every common that a COMMIT has been accepted for take effect. -/
def optTake (s : State) : State :=
  let zs := s.optArmed.flatMap fun c => (List.range 96).map fun i => 96 * c + i
  let s := forAll (zs.filter fun z => decide (tblGet 0 s.optPend z ≠ 0)) (fun z s =>
    let s := setFld (setFld s (Reg.RMAP_ZONE_LEVEL_LEVEL (z / 8) (z % 8)) (tblGet 0 s.optPend z - 1))
      (Reg.RMAP_ZONE_LEVEL_PENDING (z / 8) (z % 8)) 0
    { s with optPend := tblSet 0 s.optPend z 0 }) s
  { s with optArmed := [] }

/-- A COMMIT is accepted: the commons with levels pending are armed for it. -/
def optArm (s : State) : State :=
  let cs := (List.range 16).filter fun c => (List.range 96).any fun i => decide (tblGet 0 s.optPend (96 * c + i) ≠ 0)
  { s with optArmed := cs.foldl (fun l c => setInsert c l) s.optArmed }

/-! ### RMAP_CTRL.CLR -/

def rmapClr (s : State) : State := setFld (setReg s Reg.RMAP_SUBST 0) Reg.RMAP_AGING_STAT_UPDATES 0

end Sys2Proof.Machine
end

