-- ==== Sys2Proof/Machine/Commit.lean ====
section
/-! DEFINITION. The shadow set and COMMIT (R219 to R224), leases (R225), WITNESS_SET (R229). -/

namespace Sys2Proof.Machine

def evCommitDone : Nat := 198
def evCommitRefused : Nat := 199
def evFenceRetire : Nat := 222

def stWitRange : Nat := 0x60
def stCommitRefused : Nat := 0x61
def stCommitMerged : Nat := 0x62

/-! ### Leases (R225) -/

/-- Lease entries `2 i + j` of the set whose registers `g` reads, from entry `e0` on (log 60). -/
def leaseSet (e0 gen : Nat) (g : Nat → DWord) (s : State) : State :=
  forAll (List.range 4) (fun i s =>
    let p := planeOf g i
    let rs := if p.en then p.ranges else []
    forAll [0, 1] (fun j s =>
      let e := e0 + 2 * i + j
      match rs[j]? with
      | some (a, n) =>
        setFld (setFld (setFld (setReg s (Reg.SCAN_LEASE_BASE e) (BitVec.ofNat 64 a)) (Reg.SCAN_LEASE_INFO_LEN e) n)
          (Reg.SCAN_LEASE_INFO_GEN e) gen) (Reg.SCAN_LEASE_INFO_PLANE e) (2 * i + j)
      | none => setReg (setReg s (Reg.SCAN_LEASE_BASE e) 0) (Reg.SCAN_LEASE_INFO e) 0) s) s

/-- A register of a snapshot. -/
def snapReg (t : Tbl DWord) (off : Nat) : DWord := tblGet (resetOf off) t off
def snapFld (t : Tbl DWord) (f : Fld) : Nat := bitsOf (snapReg t f.off).toNat f.lo (f.hi - f.lo + 1)

/-- The lease table follows the active and the pending set. -/
def fixLeases (s : State) : State :=
  let s := leaseSet 0 (fld s Reg.SCAN_GEN_CUR) (forceReg s) s
  match s.scan.pend with
  | some c => leaseSet 8 c.gen (snapReg c.shadow) s
  | none => forAll (List.range 8) (fun e s => setReg (setReg s (Reg.SCAN_LEASE_BASE (8 + e)) 0) (Reg.SCAN_LEASE_INFO (8 + e)) 0) s

/-! ### The shadow set -/

/-- Shadow registers of scan-out. -/
def isScanShadow (off : Nat) : Bool :=
  decide (off = Reg.SCAN_ACT_ROWS ∨ off = Reg.SCAN_BLANK_ROWS ∨ off = Reg.SCAN_ROW_PERIOD ∨ off = Reg.SCAN_DITHER) ||
  decide (0x300100 ≤ off ∧ off < 0x300200) || decide (0x304000 ≤ off ∧ off < 0x310000)

/-- The whole shadow set. -/
def isShadow (off : Nat) : Bool :=
  isScanShadow off || decide (off = Reg.TIME_TICK_PERIOD ∨ off = Reg.LANT_TERM ∨ off = Reg.LANT_BG) ||
  decide (Reg.LANT_XBAR 0 ≤ off ∧ off ≤ Reg.LANT_XBAR 11)

/-- A snapshot of the shadow set (R220). -/
def snapshot (s : State) : Tbl DWord := s.regs.filter fun p => isShadow p.1

/-! ### The checks (R196, R204, R212, R213, R46) -/

/-- Lantern that a snapshot names for a quad. -/
def snapLantern (t : Tbl DWord) (q : Nat) : Nat := snapFld t (xbarFld q)

def quadsInUse (s : State) : List Nat := (List.range 48).filter (quadInUse s)

/-- R196. -/
def xbarBad (s : State) (t : Tbl DWord) : Bool :=
  let qs := quadsInUse s
  let named (q : Nat) : Bool := decide (snapLantern t q < 50)
  qs.any (fun q => decide (snapLantern t q ≠ xbarCur s q)) &&
  qs.any fun q =>
    if named q then
      lantFaulted s (snapLantern t q) || qs.any fun r => decide (r ≠ q ∧ snapLantern t r = snapLantern t q)
    else !(decide (xbarCur s q = 0x3F) && decide (snapLantern t q = 0x3F))

/-- R212 for a plane. -/
def planeBad (s : State) (p : Plane) : Bool :=
  let mis (x : Nat) : Bool := decide (x % 64 ≠ 0)
  let odd (x : Nat) : Bool := decide (x % 2 = 1)
  decide (p.scale = 3) || decide (p.w = 0 ∨ 16384 < p.w ∨ p.h = 0 ∨ 16384 < p.h) ||
  (odd p.w && decide (p.fmt = 0 ∨ p.fmt = 1 ∨ p.fmt = 3 ∨ p.fmt = 4)) || (odd p.h && decide (p.fmt = 0 ∨ p.fmt = 3)) ||
  mis p.a0 || mis p.s0 || mis p.s1 || decide (p.s0 < p.line0) ||
  (p.chroma && (mis p.a1 || decide (p.s1 < p.line1))) ||
  p.ranges.any (fun r => decide (capacity s < r.1 + r.2)) ||
  (decide (p.fmt ≤ 6) && decide (colourSets s ≤ p.cset))

/-- Registers of a plane. -/
def planeRegs (i : Nat) : List Nat :=
  [Reg.SCAN_OV_CTRL i, Reg.SCAN_OV_POS i, Reg.SCAN_OV_SIZE i, Reg.SCAN_OV_ADDR0 i, Reg.SCAN_OV_ADDR1 i,
    Reg.SCAN_OV_STRIDE i, Reg.SCAN_OV_COLOUR i]

/-- Bytes of source lines that serve 32 head rows (R213). -/
def lineBuffer (p : Plane) : Nat := 32 / p.S * p.line0 + (if p.chroma then 32 / p.S / p.sy * p.line1 else 0)

/-- A commit asks for the budget checks (R46). -/
def budgetDue (s : State) (t : Tbl DWord) : Bool :=
  let moved (f : Fld) : Bool := decide (snapFld t f ≠ ffld s f)
  decide ((snapReg t Reg.TIME_TICK_PERIOD).toNat ≠ tickP s) || moved Reg.SCAN_ACT_ROWS_A || moved Reg.SCAN_BLANK_ROWS_B ||
  moved Reg.SCAN_ROW_PERIOD_CLOCKS ||
  (List.range 4).any fun i => moved (Reg.SCAN_OV_CTRL_EN i) || moved (Reg.SCAN_OV_CTRL_FMT i) ||
    moved (Reg.SCAN_OV_CTRL_SCALE i) || moved (Reg.SCAN_OV_SIZE_WIDTH i) || moved (Reg.SCAN_OV_SIZE_HEIGHT i)

/-- The timing of a snapshot. -/
def snapTiming (s : State) (t : Tbl DWord) : Timing :=
  { p := (snapReg t Reg.TIME_TICK_PERIOD).toNat, act := snapFld t Reg.SCAN_ACT_ROWS_A,
    blank := snapFld t Reg.SCAN_BLANK_ROWS_B, row := snapFld t Reg.SCAN_ROW_PERIOD_CLOCKS,
    fetch := ((List.range 4).map fun i => planeFetch s (planeOf (snapReg t) i)).foldl (· + ·) 0 }

/-- The checks of R220 before those of Table 2-3; 0 when they pass. -/
def shadowCode (s : State) (t : Tbl DWord) : Nat :=
  let ps := (List.range 4).map fun i => (i, planeOf (snapReg t) i)
  let fresh_ (i : Nat) : Bool := (planeRegs i).any fun o => decide (snapReg t o ≠ forceReg s o)
  if xbarBad s t then 0x10
  else if snapFld t Reg.SCAN_ACT_ROWS_A ≠ geoPY s then 0x20
  else if ps.any fun x => x.2.en && fresh_ x.1 && planeBad s x.2 then 0x21
  else if ps.any fun x => x.2.en && decide (2 ^ 20 < lineBuffer x.2) then 0x22
  else 0

/-- Every check of R220, the budget run when it is due. -/
def commitCheck (t : Tbl DWord) (gen : Nat) (s : State) : State × Nat :=
  let c := shadowCode s t
  if c ≠ 0 then (s, c)
  else if budgetDue s t then budgetRun (capacityNow s) (snapTiming s t) 2 gen s
  else (s, 0)

/-! ### A set takes effect (R34, R201, R221 to R224) -/

/-- A new tick period from tick `k` on (R34). -/
def periodTake (p k : Nat) (s : State) : State :=
  if p = tickP s then s else
  let x : Int := sdiff 64 k (tickK0 s) * (tickP s : Int) + (s.time.t0Frac : Int)
  let t0 := (((tickT0 s : Int) + x / 2 ^ 32) % (2 ^ 64 : Int)).toNat
  let s := { s with time := { s.time with t0Frac := (x % 2 ^ 32).toNat } }
  let s := setReg (setReg s Reg.TIME_TICK_T0 (BitVec.ofNat 64 t0)) Reg.TIME_TICK_K0 (BitVec.ofNat 64 k)
  setReg s Reg.TIME_TICK_PERIOD_CUR (BitVec.ofNat 64 p)

/-- The lantern that has taken over from `l`: its spare, or where that has faulted too, the spare's; 0x3F for none.
`k` bounds the faults. -/
def standIn (s : State) : Nat → Nat → Nat
  | 0, _ => 0x3F
  | k + 1, l =>
    if l < 50 ∧ lantFaulted s l then
      let p := tblGet 0 s.scan.spares l
      if p = 0 then 0x3F else standIn s k (p - 1)
    else l

/-- Lantern that a set puts in force for a quad: a faulted one's spare in its place (R201). A spare that the set names for
another quad in use stays with that one, since a lantern serves one quad (R173). -/
def takenLantern (s : State) (t : Tbl DWord) (q : Nat) : Nat :=
  let l := snapLantern t q
  if l < 50 ∧ lantFaulted s l then
    let c := standIn s 50 l
    if (List.range 48).any fun r => decide (r ≠ q) && quadInUse s r && decide (snapLantern t r = c) then 0x3F else c
  else l

/-- The registers of the lanterns in a set come into force. -/
def lantTake (t : Tbl DWord) (s : State) : State :=
  let m := (List.range 48).map fun q => (q, takenLantern s t q)
  let s := m.foldl (fun s x => setFld s (xbarCurFld x.1) x.2) s
  let s := setFld s Reg.LANT_TERM_CUR_TERM (snapFld t Reg.LANT_TERM_TERM)
  fixLants (setFld s Reg.LANT_BG_CUR_BG (bitsOf (snapReg t Reg.LANT_BG).toNat 0 48))

/-- The pending set takes effect; `k` is the first tick under it. -/
def commitTake (k : Nat) (s : State) : State :=
  match s.scan.pend with
  | none => s
  | some c =>
    let s := { s with scan := { s.scan with force := c.shadow.filter fun p => isScanShadow p.1, pend := none } }
    let s := periodTake (snapReg c.shadow Reg.TIME_TICK_PERIOD).toNat k (lantTake c.shadow s)
    let s := setFld (setFld (setFld s Reg.SCAN_GEN_CUR c.gen) Reg.SCAN_GEN_PEND 0) Reg.SCAN_STAT_PEND 0
    let s := fixLeases s
    let tick : Nat := k % 2 ^ 32
    let s := raise evCommitDone [(16, c.gen), (32, tick)] s
    let s := raise evFenceRetire [(16, (((c.gen + 65535) % 65536 : Nat) : Int)), (32, tick)] s
    complete c.job stOK 0 (c.gen + tick * 2 ^ 32) s

/-- What a COMMIT taking effect brings with it: optical levels (R146) and, under COMMIT, gains (R163). -/
def commitFollow (k : Nat) (s : State) : State :=
  let s := optTake s
  if fld s Reg.RMAP_AGING_CTRL_MODE = 1 then agingTake k s else s

/-- Ring number a report gives for a job; 0xFF for a broadcast. -/
def jobRing (j : Job) : Nat :=
  match j.origin with
  | .ring r _ _ => r
  | _ => 0xFF

def commitRun (j : Job) (_d : Bytes) (s : State) : State :=
  if s.img.isNone then complete j stDeviceState 0 0 s else
  let t := snapshot s
  let gen := (fld s Reg.SCAN_GEN_CUR + 1) % 65536
  let r := commitCheck t gen s
  if r.2 ≠ 0 then
    complete j stCommitRefused r.2 0 (raise evCommitRefused [(8, r.2), (8, jobRing j), (16, j.tag)] r.1)
  else
    let s := match r.1.scan.pend with
      | some c => complete c.job stCommitMerged 0 0 r.1
      | none => r.1
    let s := optArm { s with scan := { s.scan with pend := some ⟨gen, j, t⟩ } }
    let s := fixLeases (setFld (setFld s Reg.SCAN_STAT_PEND 1) Reg.SCAN_GEN_PEND gen)
    if rasterRuns s then s
    else
      let k := s.time.nextTick
      quadsFresh (commitFollow k (commitTake k s))

/-- COMMIT (R220). -/
def cmdCommit : Cmd where
  op := 0x07
  bodyOk d := bodyZero d []
  ready := always
  run := commitRun

/-! ### WITNESS_SET (R229, R230) -/

/-- A setting takes effect; `k` is the first tick under it. -/
def witTake (k : Nat) (x : WitSet) (s : State) : State :=
  let w := x.rect
  let gone := decide (x.mode = 2) && decide (sdiff 32 x.fnum k < 0)
  let s := setReg (setReg s (Reg.SCAN_WIT_RECT w) (BitVec.ofNat 64 x.place)) (Reg.SCAN_WIT_CFG w)
    (BitVec.ofNat 64 (x.expect + x.mode * 2 ^ 32))
  let s := setFld (setFld s (Reg.SCAN_WIT_FNUM_FNUM w) x.fnum) (Reg.SCAN_WIT_STAT_MISMATCHES w) 0
  let s := if gone then setFld s (Reg.SCAN_WIT_STAT_STATUS w) 5 else s
  let ex := if gone then setInsert w s.scan.expired else setErase w s.scan.expired
  complete x.job stOK 0 0 { s with scan := { s.scan with expired := ex } }

/-- Every setting that waits takes effect, in the order in which they came. -/
def witTakeAll (k : Nat) (s : State) : State :=
  let l := s.scan.witPend
  l.foldl (fun s x => witTake k x s) { s with scan := { s.scan with witPend := [] } }

def witnessSetRun (j : Job) (d : Bytes) (s : State) : State :=
  let rect := dByte d 4
  let mode := dByte d 5
  if s.img.isNone then complete j stDeviceState 0 0 s
  else if 63 < rect ∨ 3 < mode ∨ geoPX s ≤ leAt d 8 2 + leAt d 12 2 ∨ geoPY s ≤ leAt d 10 2 + leAt d 14 2 then
    complete j stWitRange 0 0 s
  else
    let x : WitSet := ⟨j, rect, mode, leAt d 8 8, leAt d 16 4, leAt d 20 4⟩
    if rasterRuns s then { s with scan := { s.scan with witPend := s.scan.witPend ++ [x] } }
    else witTake s.time.nextTick x s

def cmdWitnessSet : Cmd where
  op := 0x0D
  bodyOk d := bodyZero d [(4, 5), (8, 23)]
  ready := always
  run := witnessSetRun

end Sys2Proof.Machine
end

