-- ==== Sys2Proof/Machine/Overlay.lean ====
section
/-! DEFINITION. The finish stage of a row: overlay lines (R211, R214, R217), compositing (R209, R215), drive
LUT and dither (R218), and the checks of R240. -/

namespace Sys2Proof.Machine

/-! ### Overlay lines of a row (R210, R211) -/

/-- Columns of a plane that head row `v` shows, tiles under a solid plane left out (R217). -/
def planeCols (s : State) (i v : Nat) (p : Plane) : List Nat :=
  if p.en && decide (p.y ≤ v ∧ v < p.y + p.S * p.h) then
    ((List.range (min (p.S * p.w) (geoPX s - p.x))).map (p.x + ·)).filter fun u => !tileStopped s i u v
  else []

/-- Byte address of sample `k` of a line. -/
def Plane.sampleAt (p : Plane) (base stride line k : Nat) : Nat :=
  base + stride * line + (if p.packed then 4 * (k / 3) else k)

/-- Line and first sample of the chroma pair of source pixel (x, y). -/
def Plane.pair (p : Plane) (x y : Nat) : Nat × Nat := (y / p.sy, 2 * (x / p.sx))

/-- Memory lines that source pixel (x, y) takes. -/
def Plane.pixelLines (p : Plane) (x y : Nat) : List Nat :=
  if p.chroma then
    let c := p.pair x y
    [p.sampleAt p.a0 p.s0 y x / 64, p.sampleAt p.a1 p.s1 c.1 c.2 / 64, p.sampleAt p.a1 p.s1 c.1 (c.2 + 1) / 64]
  else [(p.a0 + p.s0 * y + (if p.fmt = 6 then 4 * x else x)) / 64]

/-- Memory lines of head row `v`. -/
def overlayLines (s : State) (v : Nat) : List Nat :=
  (List.range 4).flatMap fun i =>
    let p := planeOf (forceReg s) i
    (planeCols s i v p).flatMap fun u => p.pixelLines ((u - p.x) / p.S) ((v - p.y) / p.S)

/-- A line that head row `v` uses: held already, or read; a poisoned line is counted once a frame (R214). -/
def overlayLine (v a : Nat) (s : State) : State :=
  let sc := s.scan
  if sc.ov.any fun x => decide (x.line = a) then
    { s with scan := { sc with ov := sc.ov.map fun x =>
      if x.line = a then { x with last := max x.last v, early := x.early || decide (v < 16) } else x } }
  else
    let r := lineRead grpOverlay a 0 s
    let s := { r.1 with scan := { r.1.scan with ov := ⟨a, r.2, v, decide (v < 16)⟩ :: r.1.scan.ov } }
    if r.2.isNone && !s.scan.ovBad.contains a then
      incSat { s with scan := { s.scan with ovBad := setInsert a s.scan.ovBad } } Reg.SCAN_OV_STAT_POISON 1
    else s

/-- Reads the lines of the head rows below `lim` that have not been read yet. -/
def overlayAhead (lim : Nat) (s : State) : State :=
  let k := s.scan.ovNext
  let s := forAll ((List.range (lim - k)).map (k + ·)) (fun v s => forAll (overlayLines s v) (overlayLine v) s) s
  { s with scan := { s.scan with ovNext := max k lim } }

/-- Head rows that scan-out has read ahead of the raster (R214). -/
def ovAhead : Nat := 16

/-- The lines held, as a reader takes them. -/
def overlayHeld (s : State) : LineSet := s.scan.ov.map fun x => (x.line, x.data)

/-- Lines that serve no later row go; those of head rows 0 to 15 stay for a restart (R214). -/
def overlayDrop (v : Nat) (s : State) : State :=
  { s with scan := { s.scan with ov := s.scan.ov.filter fun x => x.early || decide (v < x.last) } }

/-- The planes whose lines for head row `v` have not arrived, among those named: only planes that show in it. -/
def overlayLate (s : State) (v : Nat) (late : BitVec 4) : List Nat :=
  (List.range 4).filter fun i =>
    late.getLsbD i && decide (planeCols s i v (planeOf (forceReg s) i) ≠ [])

/-! ### Compositing (R215) -/

/-- A 10-bit sample of a line. -/
def Plane.sample (p : Plane) (l : LineSet) (base stride line k : Nat) : Option Nat :=
  let a := p.sampleAt base stride line k
  if p.packed then (lineNat l a 4).map fun w => bitsOf w (10 * (k % 3)) 10 else (lineNat l a 1).map fun b => 4 * b

/-- Value and pixel alpha of plane `i` for a primary at head pixel (u, v); none where a line it needs is
poisoned. -/
def planeValue (s : State) (l : LineSet) (i : Nat) (p : Plane) (prim u v : Nat) : Option (Nat × Nat) := do
  let x := (u - p.x) / p.S
  let y := (v - p.y) / p.S
  if p.chroma then
    let c := p.pair x y
    let sy ← p.sample l p.a0 p.s0 y x
    let cb ← p.sample l p.a1 p.s1 c.1 c.2
    let cr ← p.sample l p.a1 p.s1 c.1 (c.2 + 1)
    return (colour16 s p.cset prim (256 * sy) (256 * cb) (256 * cr), 255)
  else if p.fmt = 6 then
    let w ← lineNat l (p.a0 + p.s0 * y + 4 * x) 4
    return (csetT s p.cset prim (4 * bitsOf w (8 * prim) 8), bitsOf w 24 8)
  else
    let b ← lineNat l (p.a0 + p.s0 * y + x) 1
    return (bitsOf (forceReg s (Reg.SCAN_OV_COLOUR i)).toNat (16 * prim) 16, b)

/-- A plane laid over a value. -/
def layOver (galpha : Nat) (o pa v : Nat) : Nat :=
  let t := pa * galpha + 128
  let a := (t + t / 256) / 256
  let a9 := a + a / 128
  (o * a9 + v * (256 - a9) + 128) / 256

/-- OV0 to OV3 over a lantern value; a late plane is transparent (R214). -/
def overlayAll (s : State) (l : LineSet) (late : List Nat) (prim u v : Nat) (x : Nat) : Nat :=
  (List.range 4).foldl (fun x i =>
    let p := planeOf (forceReg s) i
    if p.en && p.covers u v && !tileStopped s i u v && !late.contains i then
      match planeValue s l i p prim u v with
      | some (o, pa) => layOver p.galpha o (if p.opaque_ then 255 else pa) x
      | none => x
    else x) x

/-! ### Drive codes (R218) -/

/-- The code of a composited value in scan frame `k`. -/
def driveCode (s : State) (k prim u v x : Nat) : Nat :=
  let d := if fflag s Reg.SCAN_DITHER_EN then [0, 2, 1, 3].getD ((k + u % 2 + 2 * (v % 2)) % 4) 0 else 2
  min ((ffld s (Reg.SCAN_LUT_ENTRY prim (x / 16)) + d) / 4) 1023

/-- An emitter as sent: column, composited value, code. -/
structure Sent where
  u : Nat
  val : Nat
  code : Nat

/-- The emitters of a wick's row. -/
def wickCodes (s : State) (l : LineSet) (late : List Nat) (n v : Nat) (vals : List Nat) : List Sent :=
  ((wickEmitters s n).zip vals).map fun x =>
    let p := primaryOf s x.1.2
    let y := overlayAll s l late p x.1.1 v x.2
    ⟨x.1.1, y, driveCode s s.scan.frame p x.1.1 v y⟩

/-! ### CRC24 (R240) -/

/-- One step of a left-shifting CRC-24. -/
def crc24Shift : Nat → Nat → Nat
  | 0, c => c
  | k + 1, c => crc24Shift k (if 2 ^ 23 ≤ c % 2 ^ 24 then Nat.xor (2 * c) 0x1864CFB % 2 ^ 24 else 2 * c % 2 ^ 24)

def crc24 (bs : Bytes) : Nat := bs.foldl (fun c b => crc24Shift 8 (Nat.xor c (b.toNat * 65536))) 0xB704CE

/-- ROW_START of a wick's row (Table 8-2). -/
def rowStartBlock (row frame n bank restart resume : Nat) : Nat :=
  0x10 + row * 2 ^ 8 + frame % 2 ^ 16 * 2 ^ 24 + n * 2 ^ 40 + bank * 2 ^ 48 + restart * 2 ^ 49 + resume * 2 ^ 50

/-- CRC24 of a row. -/
def rowCrc (start : Nat) (codes : List Nat) : Nat := crc24 (natLe start 8 ++ codes.flatMap fun c => natLe c 2)

end Sys2Proof.Machine
end

