-- ==== Sys2Proof/Machine/Raster.lean ====
section
/-! DEFINITION. The raster: ticks and scan frames (R30, R36 to R38, R205), rows, deadlines, abort and
restart (R50 to R56, R206, R207), boundary points (R19, R20), content-frame switches (R40 to R44), cues
(R80 to R83), witness (R227 to R230), measurement (R49). -/

namespace Sys2Proof.Machine

def evLantBudget : Nat := 221
def evWitnessMismatch : Nat := 226
def evScanAbort : Nat := 227

/-! ### Wicks -/

/-- A wick that frame blocks and rows reach: it sends, its group is UP, and it does not relock (R205, R262). -/
def wickRuns (s : State) (n : Nat) : Bool :=
  wickSends s n && groupUp s (n / 8) && decide (wickState s n ≠ 2 ∧ wickState s n ≠ 3)

/-- A wick that sends row `r` (R50). -/
def sendsRow (s : State) (n r : Nat) : Bool := wickInUse s n && decide (wickExempt s n r = 1)

def wicksInUse (s : State) : List Nat := wicks.filter (wickInUse s)

/-- A wick holds row `r` whole. -/
def holdsRow (s : State) (n r : Nat) : Bool := (fifoOf s n).any fun x => decide (x.row = r)

/-- Every wick that is not exempt holds rows 0 to 3 (R38, R52). -/
def holdsFour (s : State) : Bool :=
  (wicksInUse s).all fun n => (List.range (min 4 (actRows s))).all fun r => !sendsRow s n r || holdsRow s n r

/-- FRAME_START on every wick, with the aborts already in the frame (R207). -/
def sendFrameStart (s : State) : State :=
  forAll (wicks.filter (wickRuns s)) (fun n s =>
    emit s (.wickCtl n 0x20 (0x20 + frameNo s * 2 ^ 8 + s.scan.aborts * 2 ^ 40))) s

def fixWicks (s : State) : State := forAll (wicksInUse s) fixWick s

/-! ### Witness (R227 to R230) -/

def witMode (s : State) (w : Nat) : Nat := fld s (Reg.SCAN_WIT_CFG_MODE w)
def rects : List Nat := List.range 64

/-- The codes of the pixels `u0` to `u0 + k - 1` of a row, from the rows sent; none where one was not. -/
def rectCodes (row : List (List Sent)) (u0 : Nat) : Nat → Option (List Nat)
  | 0 => some []
  | k + 1 => do
    let t ← rectCodes row u0 k
    let l := (row.map fun w => w.filter fun e => decide (e.u = u0 + k)).flatten
    if l.length = 3 then return t ++ l.map Sent.code else none

/-- Row `v` has been sent: the rectangles that cover it go on. -/
def witRow (v : Nat) (row : List (List Sent)) (s : State) : State :=
  forAll (rects.filter fun w => decide (witMode s w ≠ 0)) (fun w s =>
    let y := fld s (Reg.SCAN_WIT_RECT_Y w)
    if v < y ∨ y + fld s (Reg.SCAN_WIT_RECT_HM1 w) < v then s else
    let r := tblGet {} s.scan.wit w
    let r : WitRun := match rectCodes row (fld s (Reg.SCAN_WIT_RECT_X w)) (fld s (Reg.SCAN_WIT_RECT_WM1 w) + 1) with
      | none => { r with bad := true }
      | some cs =>
        let bs := cs.flatMap fun c => natLe c 2
        if v = y then ⟨crc32c bs, v + 1, false⟩
        else if r.next = v then { r with crc := crc32cNext r.crc bs, next := v + 1 }
        else { r with bad := true }
    { s with scan := { s.scan with wit := tblSet {} s.scan.wit w r } }) s

/-- Expected CRC of a rectangle in the frame that ends (R230). -/
def witExpect (s : State) (w : Nat) : Option Nat :=
  let cue := s.scan.cues.reverse.find? fun c => decide (c.1 = w ∧ (c.2.1 = 255 ∨ c.2.1 = s.scan.rep))
  match cue with
  | some c => some c.2.2
  | none =>
    if witMode s w = 3 ∨ (witMode s w = 2 ∧ !s.scan.expired.contains w ∧ fld s (Reg.SCAN_WIT_FNUM_FNUM w) = frameNo s) then
      some (fld s (Reg.SCAN_WIT_CFG_EXPECT w))
    else none

/-- A rectangle is judged at the end of its frame. -/
def witJudge (w : Nat) (s : State) : State :=
  let r := tblGet {} s.scan.wit w
  let s := setFld s (Reg.SCAN_WIT_STAT_FRAME w) (frameNo s)
  if r.bad || decide (r.next ≠ fld s (Reg.SCAN_WIT_RECT_Y w) + fld s (Reg.SCAN_WIT_RECT_HM1 w) + 1) then
    setFld s (Reg.SCAN_WIT_STAT_STATUS w) 3
  else
    let s := setFld s (Reg.SCAN_WIT_RES_CRC w) r.crc
    match witExpect s w with
    | none => setFld s (Reg.SCAN_WIT_STAT_STATUS w) (if s.scan.expired.contains w then 5 else 4)
    | some x =>
      if x = r.crc then setFld s (Reg.SCAN_WIT_STAT_STATUS w) 1
      else
        raise evWitnessMismatch [(8, w), (32, frameNo s), (32, x), (32, r.crc)]
          (incSat (setFld s (Reg.SCAN_WIT_STAT_STATUS w) 2) (Reg.SCAN_WIT_STAT_MISMATCHES w) 1)

def witJudgeAll (s : State) : State :=
  let s := forAll (rects.filter fun w => decide (witMode s w ≠ 0)) witJudge s
  { s with scan := { s.scan with wit := [] } }

/-! ### Sending a row (R206, R209, R240) -/

/-- Adds the values of a row to the sums of their aging zones (R160). -/
def zoneSums (v : Nat) (l : List Sent) (s : State) : State :=
  let add (t : Tbl Nat × Tbl Nat) (e : Sent) : Tbl Nat × Tbl Nat :=
    let z := agingZone s e.u v
    (tblSet 0 t.1 z (tblGet 0 t.1 z + e.val), tblSet 0 t.2 z (tblGet 0 t.2 z + 1))
  let r := l.foldl add (s.scan.zsum, s.scan.zcnt)
  { s with scan := { s.scan with zsum := r.1, zcnt := r.2 } }

/-- A wick sends row `v` from its FIFO. -/
def sendWick (l : LineSet) (late : List Nat) (v n : Nat) (s : State) : State × List Sent :=
  match (fifoOf s n).find? fun x => decide (x.row = v) with
  | none => (s, [])
  | some x =>
    let es := wickCodes s l late n v x.vals
    let cs := es.map Sent.code
    let b := rowStartBlock v (frameNo s) n (fld s (uniBank n)) (b2n (decide (s.scan.aborts ≠ 0)))
      (b2n (s.wln.resume.contains n))
    let s := emit s (.wickRow n v b cs (rowCrc b cs))
    let s := { s with wln := { s.wln with resume := setErase n s.wln.resume } }
    (zoneSums v es (setFld s (Reg.SCAN_W_STAT_ROW n) v), es)

def sendWicks (l : LineSet) (late : List Nat) (v : Nat) : List Nat → State → State × List (List Sent)
  | [], s => (s, [])
  | n :: t, s =>
    let r := sendWick l late v n s
    let q := sendWicks l late v t r.1
    (q.1, r.2 :: q.2)

/-- Rows up to `v` leave the FIFOs. -/
def dropRows (v : Nat) (s : State) : State :=
  forAll (wicksInUse s) (fun n s => setFifo s n ((fifoOf s n).filter fun x => decide (v < x.row))) s

/-- Row 0 has started on every wick that is sending rows (Table 17-4). -/
def rowZeroSent (s : State) : State :=
  let s := uniSwitched { s with rowZero := true }
  if lamp s = .lighting then setLamp s .lit else s

/-- Active row `v` starts; nothing leaves the wicks while BLANK replaces it (R56, R242). The overlay lines `ovAhead`
rows on are read; a plane named in `late` is transparent and counted (R214). -/
def activeRow (v : Nat) (late : BitVec 4) (s : State) : State :=
  let s := fixWicks (setFld s Reg.SCAN_STAT_ROW v)
  let s := overlayAhead (min (v + ovAhead + 1) (actRows s)) s
  let ls := overlayLate s v late
  let s := incSat s Reg.SCAN_OV_STAT_LATE ls.length
  let s :=
    if s.scan.live then
      let r := sendWicks (overlayHeld s) ls v (wicks.filter fun n => sendsRow s n v && wickRuns s n) s
      let s := witRow v r.2 r.1
      if v = 0 then rowZeroSent s else s
    else s
  let s := uniSend (dropRows v (overlayDrop v s))
  { s with scan := { s.scan with nextRow := v + 1 } }

/-! ### Abort and restart (R50 to R54) -/

/-- A quad's build after an abort in a frame: from row 0, or from the row at which its spare joins. -/
def quadAgain (s : State) (q : Nat) : QuadState :=
  let x := quadOf s q
  let l := xbarCur s q
  if l < 50 ∧ lantState s l = 3 then
    let j := min x.join (joinRows s 0)
    { row := j, hold := if j = 0 then none else some 0, join := j }
  else {}

/-- The lanterns begin row 0 of the same frame again (R51). -/
def buildAgain (s : State) : State :=
  let qs := (List.range 48).map fun q => (q, quadAgain s q)
  qs.foldl (fun s x => setQuad s x.1 x.2) (quadsFresh s)

/-- The wicks `ns` miss the deadline of row `v` (R51, R54). -/
def scanAbort (ns : List Nat) (v : Nat) (s : State) : State :=
  let n := ns.headD 0
  let a := s.scan.aborts + 1
  let s := forAll (wicks.filter (wickRuns s)) (fun m s =>
    emit s (.wickCtl m 0x21 (0x21 + frameNo s * 2 ^ 8 + v * 2 ^ 40))) s
  let s := { s with scan := { s.scan with aborts := a, aborting := decide (a < 4), dead := decide (4 ≤ a) } }
  let s := incSat s Reg.SCAN_ABORT_STAT_COUNT 1
  let s := setFld (setFld s Reg.SCAN_ABORT_STAT_WICK n) Reg.SCAN_ABORT_STAT_ROW v
  let s := if 4 ≤ a then incSat s Reg.SCAN_ABORT_STAT_SKIPPED 1 else s
  let s := forAll ns (fun m s => incSat s (Reg.SCAN_W_ABORTS_COUNT m) 1) (buildAgain s)
  let s := raiseErr unitScan 0 evScanAbort 0 [(8, n), (16, v), (32, frameNo s), (8, a)] s
  forAll ns (fun m s => wickEvent m 8 s) s

/-- Wicks that miss the deadline of row `v`. -/
def missers (s : State) (v : Nat) : List Nat := wicks.filter fun n => sendsRow s n v && !holdsRow s n v

/-- SCAN_RESTART: FRAME_START and row 0 go out again (R52). The overlay lines of head rows 0 to 15 are held; later
ones are read again (R214). -/
def scanRestart (s : State) : State :=
  let s := { s with scan := { s.scan with aborting := false, nextRow := 0, wit := [], ovNext := min s.scan.ovNext ovAhead } }
  activeRow 0 0#4 (sendFrameStart s)

/-! ### Frames (R36 to R38, R205) -/

/-- A scan frame starts at tick `k`. -/
def startFrame (k : Nat) (s : State) : State :=
  let sc := { s.scan with frame := k, period := tickP s, started := true, nextRow := 0, past := false, aborts := 0, aborting := false, dead := false, live := decide (blankCause s = none), rows := actRows s + blankRows s, zsum := [], zcnt := [], wit := [] }
  let s := { s with scan := sc, leaseRaised := false, wln := { s.wln with crcRaised := [] } }
  fixWicks (if s.scan.live then sendFrameStart s else s)

/-- A tick reaches the raster. One that arrives while an earlier frame is still deferred is deferred behind it and
counted in the same way, though it may come after the boundary point: the spec names only ticks before it
(DESIGN CHOICE, log 92). -/
def rasterTick (k : Nat) (s : State) : State :=
  if !rasterRuns s then
    if building s then overlayAhead (min ovAhead (actRows s)) (startFrame k (setFld s Reg.SCAN_STAT_RUN 1)) else s
  else if s.scan.deferred ≠ [] ∨ !s.scan.past then
    let s := { s with scan := { s.scan with deferred := s.scan.deferred ++ [k] } }
    raise evTickSlip [(8, 2), (64, 1), (32, (k % 2 ^ 32 : Nat))] (incSat s Reg.TIME_TICK_STAT_DEFER_CNT 1)
  else startFrame k s

/-- TICK: the generator issues its next tick (R30 to R32). -/
def tick (s : State) : State :=
  let k := s.time.nextTick
  let t := tickTime s k
  let s := setReg (setReg s Reg.TIME_TICK_COUNT (BitVec.ofNat 64 k)) Reg.TIME_TICK_LAST (BitVec.ofNat 64 t)
  rasterTick k (sendBeacon k (beaconDue (setNextTick s (k + 1))))

/-- ROW_START (R36, R37, R50, R206). After the boundary point rows are the frame's blanking rows, and a deferred frame
starts once its rows 0 to 3 are held (R38). While rows wait for a restart, a row period passes. `late` names the
planes of which a line has not arrived; no line of head rows 0 to 15 is late after a restart (R214). -/
def rowStart (late : BitVec 4) (s : State) : State :=
  let sc := s.scan
  if sc.past then
    match sc.deferred with
    | k :: t =>
      if holdsFour s then activeRow 0 late (startFrame k { s with scan := { sc with deferred := t } }) else uniSend s
    | [] =>
      if sc.nextRow < sc.rows then
        uniSend { setFld s Reg.SCAN_STAT_ROW sc.nextRow with scan := { sc with nextRow := sc.nextRow + 1 } }
      else s
  else if sc.aborting || sc.dead then uniSend s
  else if actRows s ≤ sc.nextRow then s
  else
    let ms := missers s sc.nextRow
    if sc.live && decide (ms ≠ []) then uniSend (scanAbort ms sc.nextRow s)
    else activeRow sc.nextRow (if sc.nextRow < ovAhead ∧ sc.aborts ≠ 0 then 0#4 else late) s

/-! ### Measurement (R49) -/

/-- Peaks of the frame's loads, and LANT_BUDGET, at its boundary point. The event names the tick of the frame measured,
and S_PEAK and the capture round the mean down to 1/256: the spec says neither (DESIGN CHOICE, log 93). -/
def measure (s : State) : State :=
  let c := capacityNow s
  let p := s.scan.period
  let t : Timing := ⟨p, 0, 0, 0, 0⟩
  let s := setPeak s (Reg.STR_BUDGET_LOAD_PEAK 1) { lanternShare c t with ln := s.scan.rays * perSecond }.checked
  let s := setPeak s (Reg.STR_BUDGET_LOAD_PEAK 2) { decoderShare c with ln := s.scan.decoded * perSecond, ld := p }.checked
  let s := setPeak s (Reg.STR_BUDGET_LOAD_PEAK 3) { dramShare c t with ln := 64 * s.dram.moved * perSecond, ld := p }.checked
  if s.scan.rays = 0 then s else
  let smax := fld s Reg.STR_BUDGET_SMEAS_S_MAX
  let m := 256 * s.scan.samples / s.scan.rays
  let s := setPeak s Reg.STR_BUDGET_SMEAS_S_PEAK m
  if smax * s.scan.rays < 256 * s.scan.samples then
    raise evLantBudget [(16, ((min m 65535 : Nat) : Int)), (16, smax), (32, frameNo s)] s
  else s

/-! ### Cues (R80 to R83) -/

/-- An OVERLAY cue: checked against R212, then applied to the active set; a plane that is not enabled is checked like any
other (DESIGN CHOICE, log 123). On a plane without a plane 1, ADDR1 of the cue is
written unchecked, and nothing reads it (DESIGN CHOICE, log 100). -/
def overlayCue (frame off i mask galpha x y a0 a1 : Nat) (s : State) : State :=
  let p := { planeOf (forceReg s) i with a0 := a0, a1 := a1 }
  let bad := bitOf mask 0 && (decide (a0 % 64 ≠ 0) || (p.chroma && decide (a1 % 64 ≠ 0)) ||
    p.ranges.any fun r => decide (capacity s < r.1 + r.2))
  if bad then decErr 0x44 frame 0xFF off s else
  let s := if bitOf mask 0 then setForce (Reg.SCAN_OV_ADDR1 i) (BitVec.ofNat 64 a1) (setForce (Reg.SCAN_OV_ADDR0 i) (BitVec.ofNat 64 a0) s) else s
  let s := if bitOf mask 1 then setForce (Reg.SCAN_OV_POS i) (BitVec.ofNat 64 (x + y * 2 ^ 16)) s else s
  if bitOf mask 2 then setFfld s (Reg.SCAN_OV_CTRL_GALPHA i) galpha else s

def fireCue (frame : Nat) (c : Cue) (s : State) : State :=
  match c with
  | .overlay off i mask galpha x y a0 a1 => overlayCue frame off i mask galpha x y a0 a1 s
  | .lensTarget first levels => if hasLens s then lensApply first levels s else s
  | .witness rect rep crc => { s with scan := { s.scan with cues := s.scan.cues ++ [(rect, rep, crc)] } }

/-! ### Content-frame switches (R40 to R44, R156) -/

/-- The generation of a decoded record is in force, or swaps in with it (R40, R155). -/
def genReady (s : State) (g : Nat) : Bool :=
  genInForce s g || (rmapStaged s && decide (rmapSwapMode s = 2 ∧ fld s Reg.RMAP_GEN_STAGED = g))

/-- State codes of the layers shown (LDEC_LAYERS). -/
def layerCodes (l : List Layer) : Nat := (l.zipIdx.map fun x => x.1.state * 4 ^ x.2).foldl (· + ·) 0

/-- The decoded record becomes current from tick `k` on, and its cues fire (R41, R80). -/
def becomeCurrent (k : Nat) (x : Decode) (s : State) : State :=
  let s := if genInForce s x.c.gen then s else rmapSwap k s
  let cur := if flag s Reg.LDEC_STAT_CUR_VALID then 1 - fld s Reg.LDEC_STAT_CUR else 0
  let s := setFld (setFld s Reg.LDEC_STAT_CUR cur) Reg.LDEC_STAT_CUR_VALID 1
  let s := setFld (setFld s Reg.LDEC_FRAME_CUR x.c.frame) Reg.LDEC_LAYERS_STATE (layerCodes x.c.layers)
  let s := setNc none { s with reel := { s.reel with cur := some x.c, still := false } }
  let s := if x.c.last && decide (playState s = plPlaying) then setFld s Reg.REEL_STATE_STATE plEnded else s
  let s := texelsInvalid { s with scan := { s.scan with cues := [], rep := 0 } }
  fixLeases (x.c.cues.foldl (fun s c => fireCue x.c.frame c s) s)

/-- DEC_LATE: cause, frame, the tick that repeats (R43). -/
def decLate (cause frame k : Nat) (s : State) : State :=
  raise evDecLate [(8, cause), (32, frame), (32, (k % 2 ^ 32 : Nat))] s

/-- Place of the next record in play order that the decoder does not hold. -/
def nextPlace (s : State) : Option (Nat × Nat) :=
  match s.reel.nc with
  | none => cursor s
  | some x =>
    if x.body then cursor s
    else match spanOf s x.c.span with
    | none => none
    | some e =>
      let o := x.c.off + unitsOf x.c.recLen
      if o < e.len then some (x.c.span, o)
      else if e.last then none
      else (spanOf s e.next).map fun _ => (e.next, 0)

/-- A header at a place, as it is read: free of poison and past steps 1 to 4, or not (R44). -/
def aheadOf (n o : Nat) (e : Span) (s : State) : State × Ahead :=
  let m := memRead grpDecoder (unitAt s e o) 256 s
  let h := m.2.1
  let pt := (hPt h + e.toff) % 2 ^ 64
  (m.1, ⟨n, o, hFrame h, pt, hRecLen h, !m.2.2 && decide (hdrCheck h = none),
    (s.reel.judged.map fun tt => dueAt s pt tt).getD false, false⟩)

/-- The next record's header is read once, as soon as it is resident (R44). Until then no deadline is known for the
record (R43). -/
def readAhead (s : State) : State :=
  match nextPlace s with
  | none => { s with reel := { s.reel with ahead := none } }
  | some (n, o) =>
    if s.reel.ahead.any fun q => decide (q.span = n ∧ q.off = o) then s else
    match spanOf s n with
    | none => { s with reel := { s.reel with ahead := none } }
    | some e =>
      if e.fill ≤ o then { s with reel := { s.reel with ahead := none } } else
      let r := aheadOf n o e s
      { r.1 with reel := { r.1.reel with ahead := some r.2 } }

/-- The next record counts as due at a tick time (R44). -/
def aheadDue (s : State) (tt : Nat) : Bool := s.reel.ahead.any fun q => q.good && dueAt s q.pt tt

/-- A record of `len` bytes at a place lies wholly in the reel store. -/
def recordIn (s : State) (n o len : Nat) : Bool :=
  match spanOf s n with
  | some e => decide (o + unitsOf len ≤ e.fill)
  | none => false

/-- The next record misses its deadline behind the one in the decoder, or before the decoder begins it (R43). -/
def judgeAhead (k : Nat) (s : State) : State :=
  let s := readAhead s
  match s.reel.ahead with
  | none => s
  | some q =>
    if q.late || !aheadDue s (tickTime s k) then s else
    decLate (if q.after || !recordIn s q.span q.off q.recLen then 4 else 1) q.frame k
      { s with reel := { s.reel with ahead := some { q with late := true } } }

/-- Cause of a frame that is not ready (Table 2-1). -/
def lateCause (s : State) (x : Decode) : Nat :=
  if ncReady x then 3
  else if x.parsed || recordIn s x.c.span x.c.off x.c.recLen then 1 else 4

/-- The frame in the decoder is given up for its successor (R44). -/
def abandon (x : Decode) (s : State) : State :=
  let s := setNc none s
  if x.body then s else nextRecord (unitsOf x.c.recLen) s

/-- A record that is due, or not yet, at the boundary point before tick `k`, while PLAYING. -/
def playSwitch (k : Nat) (x : Decode) (s : State) : State :=
  let tt := tickTime s k
  let s := if x.knownLate && !x.late then decLate 4 x.c.frame k s else s
  let x := { x with late := x.late || x.knownLate }
  if ncReady x && genReady s x.c.gen then
    if dueAt s x.c.pt tt then becomeCurrent k x s else setNc (some x) s
  else
    let s := readAhead s
    if aheadDue s tt then abandon x (decLate 2 x.c.frame k s)
    else if dueAt s x.c.pt tt && !x.late then
      setNc (some { x with late := true }) (decLate (lateCause s x) x.c.frame k s)
    else setNc (some x) s

/-- The deadlines of this boundary point have passed: a header read from here on comes after them (R43). -/
def judgedAt (k : Nat) (s : State) : State := { s with reel := { s.reel with judged := some (tickTime s k) } }

/-- The content-frame switch of a boundary point. -/
def contentSwitch (k : Nat) (s : State) : State :=
  let s := { s with scan := { s.scan with rep := s.scan.rep + 1 } }
  if playState s = plPlaying then
    judgedAt k (judgeAhead k (match s.reel.nc with
      | none => s
      | some x => playSwitch k x s))
  else
    let s := { s with reel := { s.reel with judged := none, ahead := none } }
    match s.reel.nc with
    | some x =>
      if playState s = plPaused then
        if s.reel.still && ncReady x && genReady s x.c.gen then becomeCurrent k x s
        else setNc (some { x with knownLate := false }) s
      else s
    | none => s

/-! ### The boundary point (R19, R20) -/

/-- Every change due takes effect; `k` is the next tick. -/
def takeChanges (k : Nat) (s : State) : State :=
  let s := witTakeAll k s
  let s := if s.scan.pend.isSome then commitFollow k (commitTake k s) else s
  let s := if swapDue s k then swapNow k s else s
  let s := contentSwitch k s
  let s := if fld s Reg.RMAP_AGING_CTRL_MODE = 0 then agingTake k s else s
  flipBanks s

/-- Orderly dark begins: BLANK from here on (R538). -/
def darkBegins (s : State) : State :=
  match s.orderly with
  | some o =>
    if o.blanking then s else
    let s := { s with orderly := some { o with blanking := true }, scan := { s.scan with live := false } }
    if lowPath s = 0 then sendBlank 0 s else s
  | none => s

/-- The overlay lines of the frame that ended go; those of head rows 0 to 15 of the next one are read (R214). -/
def overlayFresh (s : State) : State :=
  overlayAhead (min ovAhead (actRows s)) { s with scan := { s.scan with ov := [], ovNext := 0, ovBad := [] } }

def boundaryPoint (s : State) : State :=
  let k := followingTick s
  let s := if s.scan.aborting && s.scan.live then incSat s Reg.SCAN_ABORT_STAT_SKIPPED 1 else s
  let s := witJudgeAll s
  let s := if s.scan.live then accrue s else s
  let s := frameCounts (measure s)
  let sc := { s.scan with past := true, aborting := false, dead := false, nextRow := max s.scan.nextRow (actRows s) }
  overlayFresh (fixWicks (darkBegins (quadsFresh (takeChanges k { s with scan := sc }))))

/-- The raster has stopped: what waited for a boundary point takes effect, content-frame switches and ray
map swaps apart (R19, R155). -/
def settleStopped (s : State) : State :=
  let k := s.time.nextTick
  let s := witTakeAll k s
  let s := if s.scan.pend.isSome then commitFollow k (commitTake k s) else s
  let s := if rmapStaged s && decide (rmapSwapMode s ≠ 2) then swapNow k s else s
  quadsFresh (flipBanks (agingSettle s))

/-! ### PEAK_CLR and SCAN_CLR -/

/-- The peaks clear; LANE's peak is its checked load. -/
def peakClr (s : State) : State :=
  setFld (forAll [1, 2, 3] (fun i s => setFld s (Reg.STR_BUDGET_LOAD_PEAK i) 0) s) Reg.STR_BUDGET_SMEAS_S_PEAK 0

def scanClr (s : State) : State :=
  let s := setReg (setReg (setReg s Reg.SCAN_ABORT_STAT 0) Reg.SCAN_OV_STAT 0) Reg.SCAN_LEASE_VIOL 0
  forAll wicks (fun n s => setReg s (Reg.SCAN_W_ABORTS n) 0) s

end Sys2Proof.Machine
end

