-- ==== Sys2Proof/Machine/Mgmt.lean ====
section
/-! DEFINITION. Management: ember bits and FIRST_FATAL (R541, R549), the snuffer's commands (R423, R424,
R553), the control inputs (R555), the junction sensors (R557, R558), the watchdog and follow-ups (R545,
R550), the lamp log (R561 to R564), test mode (R425), GO_DARK (R422, R538), VIN_WARN (R280, R281). -/

namespace Sys2Proof.Machine

/-! ### Event records -/

/-- Sources of a word of MGMT_EV_PEND whose bits a mask carries. -/
def sourcesOf (i mask : Nat) : List Nat := ((List.range 64).filter (bitOf mask)).map fun j => 64 * i + j

/-- FIRST_FATAL clears, and its fault-ring entry becomes acknowledged: byte 0x0B alone (R549, R566). -/
def firstFatalAck (s : State) : State :=
  if !flag s Reg.MGMT_FF_SRC_VALID then s else
  let s := setReg (setReg s Reg.MGMT_FF_SRC 0) Reg.MGMT_FF_TIME 0
  let s := forAll [0, 1, 2, 3] (fun i s => setReg s (Reg.MGMT_FF_DATA i) 0) s
  let e := s.log.ffEntry
  let s := mergeRead (256 * (6177 + e / 2) + 128 * (e % 2) + 0x0B) s
  nvmWrite ⟨6177 + e / 2, 128 * (e % 2) + 0x0B, [0xAA#8], 4, .faultAck⟩ s

/-! ### The snuffer's commands (R423, R424, R553) -/

/-- SNUFF: nothing changes where GEN_STATE reads SNUFFED (R423). -/
def cmdSnuff : Cmd where
  op := 0x11
  bodyOk d := bodyZero d []
  ready := always
  run j _ s := complete j stOK 0 0 (if lamp s = .snuffed then s else assertPath 1 s)

/-- The latest STATUS of a group shows an enabled FAULT bit (R248). -/
def headFaulty (s : State) (g : Nat) : Bool :=
  groupInUse s g &&
  decide (Nat.land (bitsOf (reg s (Reg.WLN_GSTATUS g)).toNat 36 4) (fld s Reg.WLN_CTRL_FAULT_SNUFF) ≠ 0)

/-- Junction temperature has been below TJMAX for 1 s. -/
def coolEnough (s : State) : Bool :=
  match s.snuff.coolSince with
  | some t => decide (t + 1000000000 ≤ s.ns)
  | none => false

/-- Table 18-2: the release condition of a path holds. -/
def pathReleasable (s : State) (p : Nat) : Bool :=
  match p with
  | 1 => true
  | 2 => s.snuff.inputHigh
  | 3 => railsGood s
  | 4 => s.snuff.vinHigh && railsGood s
  | 5 => !groups.any (headFaulty s)
  | 6 => coolEnough s
  | _ => false

def snuffPaths : List Nat := [1, 2, 3, 4, 5, 6, 7, 8, 9]

/-- The snuffer releases: SNUFF, and SNUFFED goes back to LIT or LIGHTING (R553, R554, Table 17-4). -/
def snuffReleased (s : State) : State :=
  let s := raise evSnuff [(8, 0), (8, 0), (8, (lamp s).code)] s
  let s := if lamp s = .snuffed then fixSteer (setLamp s (if s.rowZero then .lit else .lighting)) else s
  trainsResume (fixWicks s)

/-- Releases every path whose condition holds (R424). -/
def releasePaths (s : State) : State :=
  let ps := snuffPaths.filter fun p => pathHolds s p && pathReleasable s p
  forAll ps (fun p s => setHold s p 0) s

def snuffRelease (j : Job) (s : State) : State :=
  if lowPath s = 0 then complete j stOK 0 0 s else
  let low := lowPath s
  let s := releasePaths s
  if lowPath s = 0 then complete j stOK 0 0 (snuffReleased s)
  else complete j stSnuffHeld (lowPath s) 0 (if lowPath s = low then s else sendBlank (lowPath s) s)

def cmdSnuffRelease : Cmd where
  op := 0x86
  bodyOk d := bodyZero d []
  ready := always
  run j _ s := snuffRelease j s

/-! ### Control inputs (R555) -/

/-- Notes `k` transitions of an input; the flag says that more than `lim` fell within the last `span` ns. -/
def noteEdges (i k lim span : Nat) (s : State) : State × Bool :=
  let q := inputOf s i
  let e := List.replicate k s.ns ++ q.edges.filter fun t => decide (s.ns < t + span)
  (setInput s i { q with edges := e }, decide (lim < e.length))

/-- SNUFF_N_LOW: low for 200 ns. With the input low already, a rise came between. -/
def snuffNLow (s : State) : State :=
  let r := noteEdges inSnuff (if s.snuff.inputHigh then 1 else 2) 16 10000000 s
  let s := { setLevel r.1 inSnuff 0 with snuff := { r.1.snuff with inputHigh := false } }
  if lamp s = .off then s else
  let s := assertPath 2 s
  if r.2 then inputFault inSnuff 2 (setInput s inSnuff { inputOf s inSnuff with held := true }) else s

/-- SNUFF_N_HIGH: high without a break for 10 ms. -/
def snuffNHigh (s : State) : State :=
  { setLevel (setInput s inSnuff { inputOf s inSnuff with held := false, edges := [] }) inSnuff 1 with
    snuff := { s.snuff with inputHigh := true } }

/-- PROV_EN_CHANGE: a level has been stable for 10 ms. Too fast, it reads low until it has been stable for 10 ms again, which the
next of these commands says (DESIGN CHOICE, log 128). -/
def provEnChange (level : Bool) (s : State) : State :=
  let held := (inputOf s inProv).held
  let r := if held then (setInput s inProv { inputOf s inProv with edges := [] }, false) else noteEdges inProv 1 4 1000000000 s
  let s := setInput r.1 inProv { inputOf r.1 inProv with held := r.2 }
  let v := b2n (level && !r.2)
  let s := setFld (setLevel s inProv v) Reg.GEN_STATE_PROV_EN v
  if r.2 && decide (lamp s ≠ .off) then inputFault inProv 2 s else s

/-- RESET_N is high: what held it no longer does. A RESET_N_SHORT_PULSE and the end of start-up step 2 say so (DESIGN CHOICE,
log 128). -/
def resetNHigh (s : State) : State := setLevel (setInput s inReset { inputOf s inReset with held := false }) inReset 1

/-- RESET_N_SHORT_PULSE: ignored and counted; more than 16 within 10 ms raise FAST. -/
def resetNShortPulse (s : State) : State :=
  if lamp s = .off then s else
  let r := noteEdges inReset 1 16 10000000 (resetNHigh s)
  if r.2 then inputFault inReset 2 r.1 else r.1

/-- SMBALERT_N is read with a regulator. High, it is heeded again (R555; DESIGN CHOICE, log 128). -/
def alertRead (high : Bool) (s : State) : State :=
  if lamp s = .off then s else
  setLevel (if high then setInput s inAlert { inputOf s inAlert with held := false } else s) inAlert (b2n high)

/-! ### Thermal supervision (R557, R558) -/

/-- TJMAX in 1/16 °C. -/
def tjMax (s : State) : Int := if fld s Reg.GEN_IDENT_GRADE = 1 then 105 * 16 else 95 * 16
def critTemp (s : State) : Int := tjMax s + 5 * 16
/-- WARN and WARN − HYST in 1/16 °C. -/
def warnTemp (s : State) : Int := sfld s Reg.MGMT_THERM_CFG_WARN * 16
def normalTemp (s : State) : Int := warnTemp s - fld s Reg.MGMT_THERM_CFG_HYST * 16

def sensorInvalid (v : Int) : Bool := decide (v < -60 * 16) || decide (170 * 16 < v)

/-- One sensor is read; one that becomes invalid raises level 3. -/
def sensorRead (i : Nat) (v : Int) (s : State) : State :=
  let was := flag s (Reg.MGMT_THERM_SENS_INVALID i)
  let s := setFld (setSFld s (Reg.MGMT_THERM_SENS_TEMP i) v) (Reg.MGMT_THERM_SENS_INVALID i) (b2n (sensorInvalid v))
  if sensorInvalid v && !was then raiseErr unitMgmt 0 evThermal 3 [(8, 3), (8, i), (16, v)] s else s

/-- Highest valid reading and its sensor, the lowest of equals. -/
def hottest (s : State) : Option (Nat × Int) :=
  (List.range 16).foldl (fun m i =>
    if flag s (Reg.MGMT_THERM_SENS_INVALID i) then m else
    let v := sfld s (Reg.MGMT_THERM_SENS_TEMP i)
    match m with
    | some x => if x.2 < v then some (i, v) else m
    | none => some (i, v)) none

/-- The junction temperature and its sensor; with no valid sensor TJMAX + 5 °C, of a sensor left open. -/
def junction (s : State) : State × Nat × Int :=
  match hottest s with
  | some x => (s, x)
  | none => (drew s, Config.freeNat s.free % 16, critTemp s)

/-- A level is reached. -/
def thermalLevel (lvl i : Nat) (tj : Int) (s : State) : State :=
  let s := setFld s Reg.MGMT_THERM_STAT_LEVEL lvl
  let c : List Cap := [(8, lvl), (8, i), (16, tj)]
  if lvl = 2 then assertPath 6 (raiseErr unitMgmt 0 evThermal 2 c s) else raise evThermal c s

/-- THERMAL_SAMPLE: the sensors are read, and the levels follow. -/
def thermalSample (readings : List Int) (s : State) : State :=
  let s := (readings.take 16).zipIdx.foldl (fun s x => sensorRead x.2 x.1 s) s
  let old := sfld s Reg.MGMT_THERM_STAT_TJ
  let j := junction s
  let i := j.2.1
  let tj := j.2.2
  let s := setFld (setSFld j.1 Reg.MGMT_THERM_STAT_TJ tj) Reg.MGMT_THERM_STAT_SENSOR i
  let cool := if tj < tjMax s then some (s.snuff.coolSince.getD s.ns) else none
  let s := { s with snuff := { s.snuff with coolSince := cool } }
  let lvl := fld s Reg.MGMT_THERM_STAT_LEVEL
  let s := if lvl = 0 ∧ warnTemp s ≤ tj then thermalLevel 1 i tj s else s
  let s := if critTemp s ≤ tj ∧ (lvl ≠ 2 ∨ old < critTemp s) then thermalLevel 2 i tj s else s
  if lvl ≠ 0 ∧ tj < normalTemp s then thermalLevel 0 i tj s else s

/-! ### The watchdog and the follow-ups (R545, R550) -/

/-- FW_WATCHDOG: the core restarts; a second expiry within 10 s of a restart is fatal. -/
def fwWatchdog (s : State) : State :=
  let st := (lamp s).code
  let ms := match s.restartAt with
    | some t => min ((s.ns - t) / 1000000) 0xFFFFFFFE
    | none => 0xFFFFFFFF
  let again := match s.restartAt with
    | some t => decide (s.ns < t + 10000000000)
    | none => false
  let s := logCount 6 (incSat s Reg.MGMT_WDOG_RESTARTS 1)
  let s := { s with restartAt := some s.ns, restarting := true }
  let c : List Cap := [(16, fld s Reg.MGMT_WDOG_RESTARTS), (8, st), (32, ms)]
  if again then raiseFatal unitMgmt 0 evFwWatchdog 0 c 6 9 s else raiseErr unitMgmt 0 evFwWatchdog 0 c s

/-- CORE_RESTART_DONE: the core runs again, booted from ROM with its valid patches. -/
def coreRestartDone (s : State) : State := if s.restarting then bootPatches { s with restarting := false } else s

/-- FOLLOWUP_DONE: a follow-up finishes and applies its count; the unit's next waiting error runs. -/
def followupDone (blk idx : Nat) (s : State) : State :=
  let u := fuUnit s blk idx
  match u.running with
  | none => s
  | some f =>
    let s := if f.src = evRailFault then logRailFault s else s
    { s with followUps := tblSet {} s.followUps (unitKey blk idx) ⟨u.waiting.head?, u.waiting.drop 1⟩ }

/-! ### The lamp log (R561 to R564) -/

/-- Temperature bin, VIN bin and rate class in force (Table 18-6). -/
def tjBin (s : State) : Nat :=
  let t := sfld s Reg.MGMT_THERM_STAT_TJ
  if t < -256 then 0 else min 15 (((t + 256) / 128).toNat + 1)

def vinBin (s : State) : Nat :=
  let v := fld s Reg.RAIL_VIN_MV
  if v < 1000 then 0 else min 15 ((v - 1000) / 350 + 1)

/-- Tick period in 2^-32 ns times the rate in Hz, against 1 s. -/
def slowerThan (s : State) (hz : Nat) : Bool := decide (2 ^ 32 * 1000000000 < hz * tickP s)

def rateClass (s : State) : Nat :=
  if !rasterRuns s then 0
  else if slowerThan s 60 then 1 else if slowerThan s 100 then 2 else if slowerThan s 144 then 3
  else if slowerThan s 200 then 4 else 5

def bump (t : Tbl Nat) (i k : Nat) : Tbl Nat := tblSet 0 t i (tblGet 0 t i + k)

/-- LOG_SECOND: one second more in each bin in force (R562). -/
def logSecond (s : State) : State :=
  let l := s.log
  let tj := bump l.tj (tjBin s) 1
  let vin := bump l.vin (vinBin s) 1
  let rate := bump l.rate (rateClass s) 1
  { s with log := { l with onSec := l.onSec + 1, tj := tj, vin := vin, rate := rate, sinceSec := l.sinceSec + 1 } }

def word32 (v : Nat) : Bytes := natLe (min v (2 ^ 32 - 1)) 4
def words32 (n : Nat) (f : Nat → Nat) : Bytes := (List.range n).flatMap fun i => word32 (f i)

/-- The bytes of a snapshot (Table 18-6). -/
def snapBytes (l : LampLog) (seq : Nat) : Bytes :=
  let m := fun (t : Tbl Nat) (i : Nat) => tblGet 0 t i / 60
  let b := natLe 0x565A4C4C 4 ++ natLe 0x0100 2 ++ [0#8, 0#8] ++ natLe seq 4 ++ word32 (l.onSec / 60) ++
    words32 16 (m l.tj) ++ words32 16 (m l.vin) ++ words32 8 (m l.rate) ++ words32 7 (tblGet 0 l.counts) ++
    natLe 0 4 ++ words32 16 (tblGet 0 l.lensUpd) ++ words32 192 (tblGet 0 l.relocks) ++
    words32 32 (tblGet 0 l.rankCe) ++ List.replicate 876 0#8
  b ++ natLe (crc32c b) 4

/-- Queues the pages of a snapshot. `k` counts the pages left. -/
def snapPages : Nat → Nat → Bytes → State → State
  | 0, _, _, s => s
  | k + 1, pg, bs, s => snapPages k (pg + 1) (bs.drop 256) (nvmWrite ⟨pg, 0, bs.take 256, 4, .snapshot⟩ s)

/-- A snapshot is written, to the place after the newest (R563). -/
def snapshotWrite (s : State) : State :=
  let n := s.log.snaps.getLastD s.log.base
  let place := if !s.log.snapAny then 0 else if n.place = 236 then 0 else n.place + 1
  let s := if s.log.cyclePending then logCount 0 { s with log := { s.log with cyclePending := false } } else s
  let l := s.log
  let x : SnapRun := ⟨place, (n.seq + 1) % 2 ^ 24, l.sinceSnuff, l.sinceRail, l.sinceVin, l.sinceSec, 8, false⟩
  snapPages 8 (6209 + 8 * place) (snapBytes l x.seq) { s with log := { l with snaps := l.snaps ++ [x], snapAny := true } }

/-- LOG_UPDATE: a snapshot, and the candle-hour counters with it (R161, R563). UPDATE reads 1 until the snapshots being
written are done (R6). -/
def logUpdate (s : State) : State := snapshotWrite (candleUpdate (setFld s Reg.MGMT_LOG_CTRL_UPDATE 1))

/-- UPDATE reads 0 again once no snapshot is being written. -/
def fixUpdate (s : State) : State := if s.log.snaps = [] then setFld s Reg.MGMT_LOG_CTRL_UPDATE 0 else s

/-- A page of the oldest snapshot being written is done; the last one makes it the newest. -/
def snapPageDone (ok : Bool) (s : State) : State :=
  match s.log.snaps with
  | [] => s
  | x :: t =>
    let x := { x with left := x.left - 1, failed := x.failed || !ok }
    if x.left ≠ 0 then { s with log := { s.log with snaps := x :: t } }
    else if x.failed then fixUpdate { s with log := { s.log with snaps := t } }
    else
      let s := fixUpdate { s with log := { s.log with snaps := t, base := x } }
      setFld (setFld s Reg.MGMT_LOG_STAT_PLACE x.place) Reg.MGMT_LOG_STAT_SEQ x.seq

/-- A flush record (R564). -/
def flushBytes (s : State) (q : Nat) : Bytes :=
  let l := s.log
  let b := natLe 0x565A4C46 4 ++ natLe q 4 ++ natLe l.base.seq 4 ++ word32 (l.sinceSec - l.base.secs) ++
    natLe (tjBin s) 1 ++ natLe (vinBin s) 1 ++ natLe (rateClass s) 1 ++ [0#8] ++
    natLe (min (l.sinceSnuff - l.base.snuffs) 0xFFFF) 2 ++ natLe (min (l.sinceRail - l.base.rails) 0xFFFF) 2 ++
    natLe (min (l.sinceVin - l.base.vins) 0xFFFF) 2 ++ List.replicate 98 0#8
  b ++ natLe (crc32c b) 4

/-- Writes the next flush record, to the older of its two places. -/
def flushWrite (s : State) : State :=
  let q := (s.log.flushSeq + 1) % 2 ^ 24
  nvmWrite ⟨6176, 128 * ((q + 1) % 2), flushBytes s q, 1, .flush⟩ { s with log := { s.log with flushSeq := q } }

/-! ### Test mode (R425) -/

def testEnterRun (j : Job) (d : Bytes) (s : State) : State :=
  if isLit s then complete j stDeviceState 0 0 s
  else if 1 < dByte d 4 then complete j stBadBody 0 0 s
  else complete j stOK 0 0 (fixTables (setFld s Reg.GEN_STATE_TEST (dByte d 4)))

def cmdTestEnter : Cmd where
  op := 0x8A
  bodyOk d := bodyZero d [(4, 4)]
  ready := always
  run := testEnterRun

/-! ### GO_DARK and orderly dark (R422, R538) -/

/-- GO_DARK runs from LIGHTING, LIT and SNUFFED (Table 17-4); in every other state the head is dark already. -/
def goDarkRun (j : Job) (_ : Bytes) (s : State) : State :=
  if lamp s = .lighting ∨ lamp s = .lit ∨ lamp s = .snuffed then
    match s.orderly with
    | some o => { s with orderly := some { o with jobs := o.jobs ++ [j] } }
    | none => { s with orderly := some ⟨[j], false⟩ }
  else complete j stOK 0 0 s

def cmdGoDark : Cmd where
  op := 0x10
  bodyOk d := bodyZero d []
  ready := always
  run := goDarkRun

/-- Step 5: READY_DARK once the emitter-matrix set is down, and GO_DARK completes. -/
def orderlyEnd (s : State) : State :=
  match s.orderly with
  | none => s
  | some o =>
    if decide (lamp s = .housekeeping) && decide (fld s Reg.RAIL_STAT_SEQ = 0) && !downOrder.any (railUp s) then
      o.jobs.foldl (fun s j => complete j stOK 0 0 s) (setLamp { s with orderly := none } .readyDark)
    else s

/-- Steps 2 to 4, after BLANK has gone out for 1 ms. -/
def orderlyDark (s : State) : State :=
  let s := trainsResume (settleStopped (setLamp (stopRaster s) .housekeeping))
  let s := snapshotWrite (candleUpdate (pauseReel s))
  orderlyEnd (if fld s Reg.RAIL_STAT_SEQ = 0 ∧ downOrder.any (railUp s) then railsDown false s else s)

/-- Orderly dark ends at once (R538): GO_DARK has not reached READY_DARK and completes with DEVICE_STATE. -/
def orderlyAbort (s : State) : State :=
  match s.orderly with
  | none => s
  | some o =>
    let s := if lamp s = .housekeeping then setLamp s .readyDark else s
    o.jobs.foldl (fun s j => complete j stDeviceState 0 0 s) { s with orderly := none }

/-! ### VIN_WARN (R280, R281, R504) -/

/-- A descriptor that waits for a mark that is discarded is not accepted; with the link down it gets no
completion. -/
def markDiscard (k : Nat) (s : State) : State :=
  if fld s Reg.HOST_LINK_MODE ≠ 0 then markFailed k s
  else forAll (markWaiters s k) popTaken (setFld s (Reg.CMD_KEY_STAT_BUSY k) 0)

/-- The key change of a slot is discarded. -/
def keyDiscard (k : Nat) (s : State) : State :=
  if fld s Reg.HOST_LINK_MODE ≠ 0 then keyFailed k s
  else setFld (dropKeyPend k s) (Reg.CMD_KEY_STAT_BUSY k) 0

/-- Completes a job whose write was discarded, if the host link is up. -/
def discardJob (j : Job) (st : Nat) (s : State) : State :=
  if fld s Reg.HOST_LINK_MODE ≠ 0 then complete j st 0 0 s else s

/-- A structure activation whose stores were discarded or failed (R528). -/
def actFailed (s : State) : State :=
  match s.act with
  | some a => complete a.job stStoreFail 0 0 { s with act := none }
  | none => s

def actDiscard (s : State) : State :=
  if fld s Reg.HOST_LINK_MODE ≠ 0 then actFailed s else { s with act := none }

/-- One queued write is discarded (R504). -/
def nvmDiscard (s : State) (w : NvmWr) : State :=
  match w.why with
  | .host j => if fld s Reg.HOST_LINK_MODE ≠ 0 then nvmComplete j 0x87 0 w.page s else s
  | .markHi k _ => markDiscard k s
  | .markLo k _ => markDiscard k s
  | .markZero k _ => keyDiscard k s
  | .key k => keyDiscard k s
  | .protection j _ => discardJob j stStoreFail s
  | .rail j => discardJob j stStoreFail s
  | .pin j _ => discardJob j stStoreFail s
  | .patch j _ left => if left = 0 then discardJob j stStoreFail s else s
  | .structPage => actDiscard s
  | .actRecord => actDiscard s
  | _ => s

/-- The queue's writes are discarded; snapshots being written are lost. -/
def nvmDiscardAll (s : State) : State :=
  let q := s.nvmQueue
  let s := fixUpdate (nvmFixQueue { s with nvmQueue := [], lensRewrite := [], log := { s.log with snaps := [] } })
  q.foldl nvmDiscard s

/-- Every lens output is grounded (Table 9-5). -/
def lensGround (s : State) : State :=
  if s.lens.grounded then s else emit { s with lens := { s.lens with grounded := true } } .lensGround

/-- Counters whose page write is queued and will be discarded stay as the store holds them (R161, R504). -/
def candleLost (s : State) : State :=
  let running := match s.nvmRun with
    | some w => if w.why = .candle then some ((w.page - 4096) / 16) else none
    | none => none
  let u := zonesAll.foldl (fun t z =>
    if running = some (z / 32) then t else tblSet 0 t z (counterValue s (candleCell z))) s.rmap.units
  { s with rmap := { s.rmap with units := u } }

/-- VIN_WARN. A start at step 9, and a PLAY that waits for the rails, end as at a rail fault. -/
def vinWarn (mv10 : Nat) (s : State) : State :=
  let st := (lamp s).code
  let s := setFld (setFld s Reg.RAIL_VIN_MV mv10) Reg.RAIL_VIN_WARN 1
  let s := logVinWarn { s with snuff := { s.snuff with vinHigh := false } }
  let s := raiseErr unitRail 0 evVinWarn 0 [(16, mv10), (8, st)] (railsDown true s)
  let s := candleLost { s with rmap := { s.rmap with acc := [] } }
  let s := assertPath 4 (lensGround (lensAbort s))
  let s := railFaultLamp (orderlyAbort (pauseIfOrderly s))
  flushWrite (nvmDiscardAll s)
where
  /-- Orderly dark, ended, leaves the reel PAUSED. -/
  pauseIfOrderly (s : State) : State := if s.orderly.isSome then pauseReel s else s

end Sys2Proof.Machine
end

