-- ==== Sys2Proof/Machine/Broadcast.lean ====
section
/-! DEFINITION. Broadcast commands (R472 to R475): CHAIN_BROADCAST, the BCAST block, its checks, and the
execution of held broadcasts. -/

namespace Sys2Proof.Machine

/-- A commands whose descriptor may be broadcast (R474). -/
def bcastCmd (op : Nat) : Option Cmd :=
  [cmdNop, cmdPlay, cmdPause, cmdSeek, cmdCommit, cmdWitnessSet, cmdGoDark, cmdSnuff, cmdSnuffRelease,
    cmdKeyRotate, cmdLensSet].find? fun c => decide (c.op = op)

/-- LENS_SET is allowed with INLINE only. -/
def bcastAllowed (d : Bytes) : Bool :=
  (bcastCmd (dOp d)).isSome && (decide (dOp d ≠ 0x0A) || bitOf (dByte d 4) 0)

/-- The job of an inner descriptor: it writes no completion (R474). -/
def innerJob (h : Held) : Job := { jobOf (.bcast h.origin h.seq h.atTick) h.desc with irq := false }

/-- The inner command ends without executing; the outer one ends with its status. -/
def bcastRefuse (h : Held) (st : Nat) (s : State) : State :=
  let s := complete { innerJob h with authed := decide (st = stBadBody) && dAuth h.desc } st 0 0 s
  match h.outer with
  | some j => complete j st 0 0 s
  | none => s

/-- The own copy is accepted: the outer command completes (R475). -/
def outerDone (h : Held) (s : State) : State :=
  match h.outer with
  | some j => complete j stOK 0 0 s
  | none => s

/-- The inner command executes, and is counted. -/
def bcastRun (h : Held) (s : State) : State :=
  match bcastCmd (dOp h.desc) with
  | some c => c.run (innerJob h) h.desc (incSat s Reg.CHN_CNT_BCAST 1)
  | none => s

/-- The unit of the inner command can accept it. -/
def bcastReady (s : State) (h : Held) : Bool :=
  match bcastCmd (dOp h.desc) with
  | some c => c.ready s h.desc
  | none => true

def bcastBodyOk (h : Held) : Bool :=
  match bcastCmd (dOp h.desc) with
  | some c => flagsOk h.desc && c.bodyOk h.desc
  | none => false

/-- Tick AT_TICK − 1 has been issued. -/
def bcastDue (s : State) (h : Held) : Bool := decide (0 ≤ sdiff 64 s.time.nextTick h.atTick)

/-- An authenticated broadcast takes effect on arrival, or is held for its tick; one that came in time and then waited past it
is held for the next BCAST_EXECUTE. -/
def bcastPlace (h : Held) (s : State) : State :=
  if !bcastBodyOk h then bcastRefuse h stBadBody s
  else if h.atTick = 0 then bcastRun h (outerDone h s)
  else if h.late then bcastRefuse h 0x93 s
  else if 16 ≤ s.chain.held.length then bcastRefuse h 0x94 s
  else outerDone h { s with chain := { s.chain with held := s.chain.held ++ [{ h with outer := none }] } }

/-- A broadcast that waits for its slot, its mark or its unit. -/
def bcastWait (h : Held) (s : State) : State :=
  { s with chain := { s.chain with waiting := s.chain.waiting ++ [h] } }

/-- An addressed unit checks the inner descriptor (R421, R474). -/
def bcastCheck (h : Held) (s : State) : State :=
  if !bcastAllowed h.desc then bcastRefuse h 0x92 s else
  match authCheck s h.desc with
  | .busy => bcastWait h s
  | .mark m => bcastWait h (startMark (dSlot h.desc) m s)
  | .fail st => bcastRefuse h st (authFail 0xFF h.desc st s)
  | .pass =>
    if h.atTick = 0 && !bcastReady s h then bcastWait h s
    else bcastPlace h (acceptCounter h.desc s)

/-- Broadcasts that wait are checked again, in their order. -/
def bcastRetry (s : State) : State :=
  let l := s.chain.waiting
  l.foldl (fun s h => bcastCheck h s) { s with chain := { s.chain with waiting := [] } }

/-- A mark or key record of slot `k` could not be written: its waiting broadcasts are not accepted (R435). -/
def bcastStoreFail (k : Nat) (s : State) : State :=
  let l := s.chain.waiting
  let mine := l.filter fun h => decide (dSlot h.desc = k) && dAuth h.desc
  let s := { s with chain := { s.chain with waiting := l.filter fun h => !(decide (dSlot h.desc = k) && dAuth h.desc) } }
  mine.foldl (fun s h => bcastRefuse h stStoreFail s) s

/-- VIN_WARN has discarded what the store had queued: broadcasts that waited for a mark are not accepted, the others are
checked again (R431, R504). `was` is the state before. -/
def bcastDropped (was s : State) : State :=
  let lost := fun (k : Nat) => slotBusy was k && !slotBusy s k
  let marks := fun (k : Nat) => was.nvmQueue.any fun w => match w.why with
    | .markHi j _ => decide (j = k)
    | .markLo j _ => decide (j = k)
    | _ => false
  let s := forAll ([0, 1, 2, 3].filter fun k => lost k && marks k) bcastStoreFail s
  if [0, 1, 2, 3].any lost then bcastRetry s else s

/-- A broadcast arrives at this unit: whether it is late shows now (R474). -/
def bcastArrive (h : Held) (s : State) : State :=
  bcastCheck { h with late := decide (h.atTick ≠ 0) && bcastDue s h } s

/-- This unit is addressed by ADDR (R474). -/
def bcastForMe (s : State) (a : Nat) : Bool :=
  let own := fld s Reg.CHN_STAT_ADDR
  decide (own ≠ 0) && (decide (a = 255) || decide (a = own))

/-- The BCAST control block. -/
def bcastCtrl (addr seq : Nat) (data : Bytes) : Nat :=
  0x66 + addr * 2 ^ 8 + seq * 2 ^ 16 + crc32c data * 2 ^ 24

/-- A BCAST arrives on UP: a copy that repeats one taken within the last 100 µs is discarded (R460); the first goes on
on DN, and to this unit where it is addressed. -/
def bcastSeen (ctrl : DWord) (data : Bytes) (s : State) : State :=
  let c := ctrl.toNat
  let d := sliceB data 0 80
  if crc32c d ≠ bitsOf c 24 32 then incSat s Reg.CHN_CNT_BCAST_BAD 1 else
  let recent := s.chain.copies.filter fun x => decide (s.ns ≤ x.2.2 + 100000)
  if recent.any fun x => decide (x.1 = ctrl ∧ x.2.1 = d) then s else
  let s := { s with chain := { s.chain with copies := (ctrl, d, s.ns) :: recent } }
  let s := if portUp s 1 then chainSend 1 0x66 c d s else s
  if bcastForMe s (bitsOf c 8 8) then
    bcastArrive ⟨leAt d 72 1, bitsOf c 16 8, leAt d 64 8, sliceB d 0 64, none, false⟩ s
  else s

/-- BCAST_EXECUTE: every held broadcast that is due and whose unit accepts it executes, oldest first. -/
def bcastExecute (s : State) : State :=
  let l := s.chain.held
  l.foldl (fun s h =>
    if bcastDue s h && bcastReady s h then bcastRun h s
    else { s with chain := { s.chain with held := s.chain.held ++ [h] } })
    { s with chain := { s.chain with held := [] } }

/-- CHAIN_BROADCAST (R472, R473, R475). -/
def chainBroadcastRun (j : Job) (d : Bytes) (s : State) : State :=
  let a := dByte d 4
  let src := leAt d 8 8
  if a = 0 ∨ src % 64 ≠ 0 ∨ !inHdm s src 64 then complete j 0x90 0 0 s
  else if !portUp s 1 && !bcastForMe s a then complete j 0x91 0 0 s
  else
    let m := memRead grpHost src 64 s
    let s := m.1
    if m.2.2 then complete j 0x90 0 0 s else
    let q := (s.chain.seq + 1) % 256
    let s := { s with chain := { s.chain with seq := q } }
    let own := fld s Reg.CHN_STAT_ADDR
    let data := m.2.1 ++ sliceB d 16 8 ++ natLe own 1 ++ List.replicate 7 0#8
    let s := if portUp s 1 then chainSend 1 0x66 (bcastCtrl a q data) data s else s
    if bcastForMe s a then bcastArrive ⟨own, q, leAt d 16 8, m.2.1, some j, false⟩ s
    else complete j stOK 0 0 s

def cmdChainBroadcast : Cmd where
  op := 0x8C
  bodyOk d := bodyZero d [(4, 4), (8, 23)]
  ready := always
  run := chainBroadcastRun

end Sys2Proof.Machine
end

