-- ==== Sys2Proof/Machine/Blt.lean ====
section
/-! DEFINITION. The 2D engine (R379 to R401): surfaces, the checks of Table 12-4, and COPY, FILL and
BLEND with their transforms, clips, order of work and poison. -/

namespace Sys2Proof.Machine

def evBlitDone : Nat := 224
def evBlitErr : Nat := 225

/-- Statuses of Table 12-5. -/
def bltRange : Nat := 0x68
def bltFormat : Nat := 0x69
def bltAlias : Nat := 0x6A
def bltOverlap : Nat := 0x6B
def bltWrite : Nat := 0x6C
def bltPoison : Nat := 0x6D

/-! ### Surfaces (R379 to R381) -/

/-- A surface entry as it reads. -/
structure Surf where
  base : Nat
  stride : Nat
  w : Nat
  h : Nat
  fmt : Nat
  cx0 : Nat
  cy0 : Nat
  cx1 : Nat
  cy1 : Nat

def surfNow (s : State) (i : Nat) : List Nat :=
  [fld s (Reg.BLT_SURF_BASE_BASE i), fld s (Reg.BLT_SURF_FMT_STRIDE i), fld s (Reg.BLT_SURF_SIZE_WIDTH i),
   fld s (Reg.BLT_SURF_SIZE_HEIGHT i), fld s (Reg.BLT_SURF_FMT_FMT i), fld s (Reg.BLT_SURF_CLIP_X0 i),
   fld s (Reg.BLT_SURF_CLIP_Y0 i), fld s (Reg.BLT_SURF_CLIP_X1 i), fld s (Reg.BLT_SURF_CLIP_Y1 i)]

def surfOf (l : List Nat) : Surf :=
  ⟨l.getD 0 0, l.getD 1 0, l.getD 2 0, l.getD 3 0, l.getD 4 0, l.getD 5 0, l.getD 6 0, l.getD 7 0, l.getD 8 0⟩

/-- Bytes of a pixel; a P10 word counts 4 for three samples. -/
def Surf.bpp (u : Surf) : Nat := if u.fmt = 0 then 1 else if u.fmt = 2 then 2 else 4
def Surf.p10 (u : Surf) : Bool := decide (u.fmt = 3)
def Surf.line (u : Surf) : Nat := if u.p10 then 4 * ceilDiv u.w 3 else u.bpp * u.w
def Surf.bytes (u : Surf) : Nat := u.stride * (u.h - 1) + u.line
def Surf.valid (u : Surf) (s : State) : Bool :=
  decide (u.w ≠ 0 ∧ u.h ≠ 0 ∧ u.base % 4 = 0 ∧ u.stride % 4 = 0 ∧ u.line ≤ u.stride ∧ u.base + u.bytes ≤ capacity s)
/-- Device address of the pixel, or of the word of the sample. -/
def Surf.at_ (u : Surf) (x y : Nat) : Nat :=
  u.base + y * u.stride + if u.p10 then 4 * (x / 3) else u.bpp * x

/-! ### The body (Table 12-2) -/

def blOp (d : Bytes) : Nat := dByte d 4
def blRot (d : Bytes) : Nat := dByte d 5 % 4
def blMirH (d : Bytes) : Bool := bitOf (dByte d 5) 2
def blMirV (d : Bytes) : Bool := bitOf (dByte d 5) 3
def blNotify (d : Bytes) : Bool := bitOf (dByte d 5) 4
def blPlain (d : Bytes) : Bool := decide (blRot d = 0) && !blMirH d && !blMirV d
def blDst (d : Bytes) : Nat := dByte d 6 % 16
def blSrc (d : Bytes) : Nat := dByte d 6 / 16
def blAlpha (d : Bytes) : Nat := dByte d 7
def blSX (d : Bytes) : Nat := leAt d 8 2
def blSY (d : Bytes) : Nat := leAt d 10 2
def blW (d : Bytes) : Nat := leAt d 12 2 + 1
def blH (d : Bytes) : Nat := leAt d 14 2 + 1
def blDX (d : Bytes) : Nat := leAt d 16 2
def blDY (d : Bytes) : Nat := leAt d 18 2
def blColour (d : Bytes) : Nat := leAt d 28 4
/-- Size of the destination rectangle (R387). -/
def blDW (d : Bytes) : Nat := if blRot d % 2 = 1 then blH d else blW d
def blDH (d : Bytes) : Nat := if blRot d % 2 = 1 then blW d else blH d

/-- Destination pixels within the effective clip, as half-open ranges (R389). -/
def blX0 (d : Bytes) (u : Surf) : Nat := max (max (blDX d) (leAt d 20 2)) u.cx0
def blX1 (d : Bytes) (u : Surf) : Nat := min (min (blDX d + blDW d) (leAt d 24 2 + 1)) (min (u.cx1 + 1) u.w)
def blY0 (d : Bytes) (u : Surf) : Nat := max (max (blDY d) (leAt d 22 2)) u.cy0
def blY1 (d : Bytes) (u : Surf) : Nat := min (min (blDY d + blDH d) (leAt d 26 2 + 1)) (min (u.cy1 + 1) u.h)
def blEmpty (d : Bytes) (u : Surf) : Bool := decide (blX1 d u ≤ blX0 d u ∨ blY1 d u ≤ blY0 d u)

/-- Source and destination are one entry, and the rectangles meet; a FILL has no source. -/
def blMeet (d : Bytes) : Bool :=
  decide (blOp d ≠ 1 ∧ blSrc d = blDst d) && overlaps (blSX d) (blW d) (blDX d) (blDW d) && overlaps (blSY d) (blH d) (blDY d) (blDH d)

/-! ### Checks (Table 12-4) -/

def blRangeOk (s : State) (d : Bytes) (dst src : Surf) : Bool :=
  decide (blOp d ≤ 2 ∧ dByte d 5 < 32 ∧ leAt d 32 8 = 0 ∧ blW d ≤ 16384 ∧ blH d ≤ 16384) && dst.valid s &&
  (decide (blOp d = 1) || (src.valid s && decide (blSX d + blW d ≤ src.w ∧ blSY d + blH d ≤ src.h)))

def blFormatOk (d : Bytes) (dst src : Surf) : Bool :=
  match blOp d with
  | 0 =>
    if dst.p10 then src.p10 && blPlain d && decide (blSX d % 3 = 0) &&
      (blEmpty d dst || decide (blX0 d dst % 3 = 0 ∧ (blX1 d dst - blX0 d dst) % 3 = 0))
    else decide (src.fmt = dst.fmt)
  | 1 => blPlain d
  | _ => decide (dst.fmt = 1 ∧ src.fmt < 2)

/-- The span of a destination row, rounded out to lines: address and length. -/
def blSpan (d : Bytes) (u : Surf) (y : Nat) : Nat × Nat :=
  let a := u.at_ (blX0 d u) y / 64 * 64
  let e := (u.at_ (blX1 d u - 1) y + u.bpp + 63) / 64 * 64
  (a, e - a)

/-- Rows of the destination within the clip. -/
def blRows (d : Bytes) (u : Surf) : List Nat := (List.range (blY1 d u - blY0 d u)).map fun i => blY0 d u + i

/-- First line of a destination row that the engine may not write. -/
def blWriteBad (s : State) (d : Bytes) (u : Surf) : Option Nat :=
  if blEmpty d u then none else
  (blRows d u).findSome? fun y =>
    let p := blSpan d u y
    (List.range (p.2 / 64)).findSome? fun i =>
      if writeCheck s grp2d (p.1 + 64 * i) 64 = .ok then none else some (p.1 + 64 * i)

/-- The first check that fails: its status and line address. -/
def blCheck (s : State) (d : Bytes) (dst src : Surf) : Option (Nat × Nat) :=
  if !blRangeOk s d dst src then some (bltRange, 0)
  else if !blFormatOk d dst src then some (bltFormat, 0)
  else if decide (blOp d ≠ 1 ∧ blSrc d ≠ blDst d) && overlaps dst.base dst.bytes src.base src.bytes then some (bltAlias, 0)
  else if decide (blOp d ≠ 1) && !blPlain d && blMeet d then some (bltOverlap, 0)
  else (blWriteBad s d dst).map fun a => (bltWrite, a)

/-! ### Pixels -/

/-- Source pixel of a destination offset (R387). -/
def blFrom (d : Bytes) (x y : Nat) : Nat × Nat :=
  let w := blW d
  let h := blH d
  let (i, j) := match blRot d with
    | 0 => (x, y)
    | 1 => (y, h - 1 - x)
    | 2 => (w - 1 - x, h - 1 - y)
    | _ => (w - 1 - y, x)
  (blSX d + (if blMirH d then w - 1 - i else i), blSY d + (if blMirV d then h - 1 - j else j))

/-- One blended channel (R388). -/
def blendChan (a x d : Nat) : Nat :=
  let u := x * a + d * (255 - a) + 128
  (u + u / 256) / 256

/-- BLEND of a source pixel over an RGBA destination pixel, both as 32-bit values. -/
def blendPixel (galpha : Nat) (src dst : Nat) : Nat :=
  let t := bitsOf src 24 8 * galpha + 128
  let a := (t + t / 256) / 256
  let c (i : Nat) : Nat := blendChan a (bitsOf src (8 * i) 8) (bitsOf dst (8 * i) 8) * 2 ^ (8 * i)
  c 0 + c 1 + c 2 + blendChan a 255 (bitsOf dst 24 8) * 2 ^ 24

/-- A pixel of a surface from lines held: its value, and whether its line is poisoned. -/
def surfPixel (l : LineSet) (u : Surf) (x y : Nat) : Nat × Bool :=
  match lineNat l (u.at_ x y) u.bpp with
  | some v => (v, false)
  | none => (0, true)

/-- A sample of a P10 surface. -/
def p10Sample (l : LineSet) (u : Surf) (x y : Nat) : Nat × Bool :=
  let p := surfPixel l u x y
  (bitsOf p.1 (10 * (x % 3)) 10, p.2)

/-- The value that destination pixel (x, y) takes, and whether a poisoned line feeds it. -/
def blPixel (d : Bytes) (dst src : Surf) (l : LineSet) (x y : Nat) : Nat × Bool :=
  match blOp d with
  | 0 =>
    let p := blFrom d (x - blDX d) (y - blDY d)
    surfPixel l src p.1 p.2
  | 1 => (bitsOf (blColour d) 0 (8 * dst.bpp), false)
  | _ =>
    let p := blFrom d (x - blDX d) (y - blDY d)
    let q := surfPixel l src p.1 p.2
    let v := if src.fmt = 0 then blColour d % 2 ^ 24 + q.1 * 2 ^ 24 else q.1
    let o := surfPixel l dst x y
    (blendPixel (blAlpha d) v o.1, q.2 || o.2)

/-- A word of a P10 destination row whose samples from column `x` on are written where `[lo, hi)` holds
them; the others keep their value. -/
def blWord (d : Bytes) (dst src : Surf) (l : LineSet) (lo hi x y : Nat) : Nat × Bool :=
  let part (i : Nat) : Nat × Bool :=
    if x + i < lo ∨ hi ≤ x + i then ((p10Sample l dst (x + i) y).1, false)
    else if blOp d = 1 then (bitsOf (blColour d) (10 * ((x + i) % 2)) 10, false)
    else
      let p := blFrom d (x + i - blDX d) (y - blDY d)
      p10Sample l src p.1 p.2
  let top : Nat := if blOp d = 1 then (if lo ≤ x ∧ x + 3 ≤ hi then 0 else (surfPixel l dst x y).1 / 2 ^ 30)
    else (surfPixel l src (blFrom d (x - blDX d) (y - blDY d)).1 (blFrom d (x - blDX d) (y - blDY d)).2).1 / 2 ^ 30
  let a := part 0
  let b := part 1
  let c := part 2
  (a.1 + b.1 * 2 ^ 10 + c.1 * 2 ^ 20 + top * 2 ^ 30, a.2 || b.2 || c.2)

/-- Bytes of a destination row from its first byte on, each with its poison. -/
def blRow (d : Bytes) (dst src : Surf) (l : LineSet) (y : Nat) : List (Byte × Bool) :=
  let x0 := blX0 d dst
  let x1 := blX1 d dst
  let put (p : Nat × Bool) (n : Nat) : List (Byte × Bool) := (natLe p.1 n).map fun b => (b, p.2)
  if dst.p10 then
    (List.range (ceilDiv x1 3 - x0 / 3)).flatMap fun i => put (blWord d dst src l x0 x1 (3 * (x0 / 3 + i)) y) 4
  else (List.range (x1 - x0)).flatMap fun i => put (blPixel d dst src l (x0 + i) y) dst.bpp

/-- Cuts a row into writes within lines. `k` bounds the lines. -/
def blCut : Nat → Nat → List (Byte × Bool) → List (Nat × List (Byte × Bool))
  | 0, _, _ => []
  | k + 1, a, bs =>
    if bs = [] then [] else
    let m := 64 - a % 64
    (a, bs.take m) :: blCut k (a + m) (bs.drop m)

/-- The writes of a row, left to right. -/
def blRowWrites (d : Bytes) (dst src : Surf) (l : LineSet) (y : Nat) : List (Nat × List (Byte × Bool)) :=
  let bs := blRow d dst src l y
  blCut (bs.length + 1) (dst.at_ (blX0 d dst) y) bs

/-- Lines of the words that a P10 FILL covers only in part: partial writes, which keep the word's other samples (R397). -/
def blEdges (d : Bytes) (dst : Surf) : List Nat :=
  if dst.p10 && decide (blOp d = 1) then (blRows d dst).flatMap fun y =>
    (if blX0 d dst % 3 = 0 then [] else [dst.at_ (blX0 d dst) y / 64]) ++
    (if blX1 d dst % 3 = 0 then [] else [dst.at_ (blX1 d dst - 1) y / 64])
  else []

/-- Lines of the pixels a BLIT reads (R389): source pixels that reach the clip, and for BLEND the destination's. -/
def blLines (d : Bytes) (dst src : Surf) : List Nat :=
  if blEmpty d dst then [] else
  let xs := (List.range (blX1 d dst - blX0 d dst)).map fun i => blX0 d dst + i
  let from_ := if blOp d = 1 then [] else (blRows d dst).flatMap fun y => xs.map fun x =>
    let p := blFrom d (x - blDX d) (y - blDY d)
    src.at_ p.1 p.2 / 64
  let own := if blOp d = 2 then (blRows d dst).flatMap fun y => xs.map fun x => dst.at_ x y / 64 else []
  (from_ ++ own).dedup

/-- Issues writes until one is rejected; answers the line rejected and whether a poisoned line fed one. A line of `edges` that a
write covers, with a word in part, is merged, and stays poisoned where it reads so (R327). -/
def blIssue (edges : List Nat) : List (Nat × List (Byte × Bool)) → Bool → State → State × Option Nat × Bool
  | [], bad, s => (s, none, bad)
  | (a, bs) :: t, bad, s =>
    if writeCheck s grp2d a bs.length = .ok then
      let p := bs.any Prod.snd
      let part := decide (bs.length = 64) && edges.contains (a / 64)
      let s := if part then lineMerge (a / 64) s else s
      let s := memWrite a (bs.map Prod.fst) (p || (part && s.poison.contains (a / 64))) s
      blIssue edges t (bad || p) (if p then incSat s Reg.BLT_CNT_POISON 1 else s)
    else (rejectWrite s grp2d a bs.length, some (a / 64 * 64), bad)

/-- Pixels of the destination within the clip. -/
def blPixels (d : Bytes) (u : Surf) : Nat := (blX1 d u - blX0 d u) * (blY1 d u - blY0 d u)

/-! ### A BLIT's end -/

/-- A BLIT ends: counts, event, completion (R401). `n` is the pixels written. -/
def blEnd (x : BltRun) (st addr n : Nat) (s : State) : State :=
  let s := setReg s Reg.BLT_PIXELS (BitVec.ofNat 64 ((reg s Reg.BLT_PIXELS).toNat + n))
  let s := setReg { s with blt := { s.blt with run := none } } Reg.BLT_STAT 0
  let s :=
    if st = 0 then
      let s := incSat s Reg.BLT_CNT_DONE 1
      if blNotify x.desc then raise evBlitDone [(8, x.ring), (16, x.job.tag), (32, n)] s else s
    else
      let s := incSat s Reg.BLT_CNT_ERR 1
      let s := setFld (setFld (setFld s Reg.BLT_LAST_ERR_STATUS st) Reg.BLT_LAST_ERR_RING x.ring) Reg.BLT_LAST_ERR_TAG x.job.tag
      raise evBlitErr [(8, x.ring), (16, x.job.tag), (8, st), (64, addr)] s
  complete x.job st 0 n s

/-- Pixels of a write that carries `n` bytes. -/
def pixelsIn (u : Surf) (x0 x1 a n row : Nat) : Nat :=
  if u.p10 then
    let c0 := 3 * ((a - row) / 4)
    min x1 (c0 + 3 * (n / 4)) - max x0 c0
  else n / u.bpp

/-- Rows in the order of R392. -/
def blOrder (d : Bytes) (u : Surf) : List Nat :=
  if blMeet d && decide (blSY d < blDY d) then (blRows d u).reverse else blRows d u

/-- The writes of a BLIT in their order, each with the address of its row, from the lines that it holds (R392). -/
def blWork (d : Bytes) (dst src : Surf) (l : LineSet) : List ((Nat × List (Byte × Bool)) × Nat) :=
  let back := blMeet d && decide (blSX d < blDX d)
  (blOrder d dst).flatMap fun y =>
    let ws := (blRowWrites d dst src l y).map fun w => (w, dst.at_ 0 y)
    if back then ws.reverse else ws

/-- The running BLIT does its work and ends (R392, R396, R397). The words that a P10 FILL covers in part keep their other samples
as the memory's merge reads them: no read of the engine (R389). -/
def blRun (x : BltRun) (s : State) : State :=
  let d := x.desc
  let dst := surfOf x.dst
  let src := surfOf x.src
  if blEmpty d dst then blEnd x 0 0 0 s else
  let f := fetchLines grp2d (blLines d dst src) [] s
  let edges := blEdges d dst
  let ws := blWork d dst src (f.2 ++ edges.map fun n => (n, peekLine s grp2d n 0))
  let r := blIssue edges (ws.map Prod.fst) false f.1
  let px (l : List ((Nat × List (Byte × Bool)) × Nat)) : Nat :=
    (l.map fun w => pixelsIn dst (blX0 d dst) (blX1 d dst) w.1.1 w.1.2.length w.2).sum
  match r.2.1 with
  | none => blEnd x (if r.2.2 then bltPoison else 0) 0 (blPixels d dst) r.1
  | some a => blEnd x bltWrite a (px (ws.takeWhile fun w => decide (w.1.1 / 64 * 64 ≠ a))) r.1

/-- BLIT: the checks of Table 12-4; the engine starts (R382, R395). -/
def blitRun (j : Job) (d : Bytes) (s : State) : State :=
  let x : BltRun := ⟨j, ringOf j, d, surfNow s (blDst d), surfNow s (blSrc d)⟩
  let s := { s with blt := { s.blt with last := x.ring } }
  match blCheck s d (surfOf x.dst) (surfOf x.src) with
  | some (st, a) => blEnd x st a 0 s
  | none =>
    let s := { s with blt := { s.blt with run := some x } }
    setFld (setFld (setFld s Reg.BLT_STAT_BUSY 1) Reg.BLT_STAT_RING x.ring) Reg.BLT_STAT_TAG j.tag

def cmdBlit : Cmd where
  op := 0x08
  bodyOk _ := true
  ready s _ := !flag s Reg.BLT_STAT_BUSY && !flag s Reg.BLT_CTRL_HOLD
  run := blitRun

/-- A BLIT waits in front of ring `r` for the engine alone. -/
def blitWaits (s : State) (r : Nat) : Bool :=
  match (ring s r).taken with
  | d :: _ => decide (dOp d = 0x08) && frontFree s r d && decide (frontAuth s r d = .pass)
  | [] => false

/-- Ring whose BLIT starts next, in round robin (R398). -/
def blitTurn (s : State) : Option Nat := ((List.range 8).map fun i => (s.blt.last + 1 + i) % 8).find? (blitWaits s)

/-- BLT_CTRL.CLR. -/
def bltClr (s : State) : State := setReg (setReg s Reg.BLT_CNT 0) Reg.BLT_PIXELS 0

/-- A running BLIT stops at once (R400). -/
def bltAbort (s : State) : State := setReg { s with blt := { s.blt with run := none } } Reg.BLT_STAT 0

end Sys2Proof.Machine
end

