-- ==== Sys2Proof/Machine/Clock.lean ====
section
/-! DEFINITION. The clock synthesizer: references, lock detection, the overshoot guard, changes of
frequency, holdover and return (R477 to R491). -/

namespace Sys2Proof.Machine

def evPllLock : Nat := 236
def evPllHoldover : Nat := 237
def evPllRefReturn : Nat := 238
def evClkMon : Nat := 239

/-! ### PLLs (R480, R481) -/

/-- PLL states. -/
def pllState (s : State) (p : Nat) : Nat := fld s (Reg.CLK_PLL_STAT_STATE p)

/-- Reference of a PLL: 0 XTAL, 1 LREFCLK (Table 15-2). -/
def pllRef (s : State) (p : Nat) : Nat :=
  if p ≤ 4 then 1 else if p = 7 then pllFld s Reg.CLK_TPLL_CFG_REF else 0

/-- The PLLs a reference feeds. -/
def pllsOf (s : State) (i : Nat) : List Nat := (List.range 8).filter fun p => decide (pllRef s p = i)

/-- MULT in force, in 2^-22. -/
def pllMult (s : State) (p : Nat) : Nat := (tblGet 0 s.clk.force (Reg.CLK_PLL_MULT p)).toNat % 2 ^ 32

/-- Steering factor of a PLL in 2^-40 (R488). -/
def pllSteer (s : State) (p : Nat) : Nat :=
  if p = 7 then (2 ^ 40 + sfld s Reg.CLK_TPLL_STEER_STEER).toNat else 2 ^ 40

/-- The spread runs (R485): it starts once lock is reached. -/
def spreading (s : State) (p : Nat) : Bool :=
  (decide (p = 5) || decide (p = 6)) && decide (pllState s p = 2) &&
  decide (pllFld s (Reg.CLK_PLL_SSC_MODE p) = 1 ∨ pllFld s (Reg.CLK_PLL_SSC_MODE p) = 2)

/-- Count of VCO / 4 that a lock window should hold, as a fraction: 4,096 reference cycles, or, with the
spread running, 5 modulation periods at the mean frequency (R481, R485). -/
def windowTarget (s : State) (p : Nat) : Nat × Nat :=
  if spreading s p then
    (312500 * pllMult s p * spreadNum s p, 2 ^ 22 * (300 + pllFld s (Reg.CLK_PLL_SSC_RATE p)) * 20000)
  else (1024 * pllMult s p * pllSteer s p, 2 ^ 62)

/-- Deviation of a count, as target × count error and target: `(d, t)` with ppm = d × 10^6 / t. -/
def deviation (s : State) (p count : Nat) : Int × Nat :=
  let t := windowTarget s p
  ((count * t.2 : Nat) - (t.1 : Int), t.1)

/-- Deviation in ppm, toward zero. -/
def devPpm (d : Int × Nat) : Int := (d.1 * 1000000).tdiv (d.2 : Int)

/-- Deviation of at most `k` ppm. -/
def devWithin (d : Int × Nat) (k : Nat) : Bool := decide (d.1.natAbs * 1000000 ≤ k * d.2)

/-- A relock starts: the outputs are gated until lock is declared (R482). -/
def relock (p : Nat) (s : State) : State :=
  let s := setFld (setFld s (Reg.CLK_PLL_STAT_STATE p) 1) (Reg.CLK_PLL_STAT_GATED p) 1
  { s with clk := { s.clk with good := tblSet 0 s.clk.good p 0, timedOut := setErase p s.clk.timedOut } }

/-- The registers of a PLL take effect (R487). -/
def pllForce (p : Nat) (s : State) : State :=
  let offs := [Reg.CLK_PLL_MULT p, Reg.CLK_PLL_SSC p] ++ (if p = 7 then [Reg.CLK_TPLL_CFG] else []) ++
    (List.range 48).map (Reg.CLK_OUT p)
  forAll offs (fun o s => { s with clk := { s.clk with force := tblSet (resetOf o) s.clk.force o (reg s o) } }) s

/-- PLL_LOCK with its cause: 1 LOCKED, 2 LOST, 3 TIMEOUT. -/
def pllLockCap (s : State) (p cause : Nat) : List Cap :=
  [(8, p), (8, cause), (16, sfld s (Reg.CLK_PLL_STAT_DEV p))]

/-- Lock is declared: the gates open, and what the PLL clocks retrains when its registers changed
(R482, R484, R487). -/
def pllLocked (p : Nat) (s : State) : State :=
  let s := setFld (setFld s (Reg.CLK_PLL_STAT_STATE p) 2) (Reg.CLK_PLL_STAT_GATED p) 0
  let s := raise evPllLock (pllLockCap s p 1) (setFld s (Reg.CLK_PLL_CTRL_APPLY p) 0)
  if s.clk.retrain.contains p then
    let s := { s with clk := { s.clk with retrain := setErase p s.clk.retrain } }
    if p ≤ 3 then
      forAll ((List.range 6).map fun i => 6 * p + i) (fun g s => if groupState s g = 0 then s else startTraining g s) s
    else forAll [0, 1] (fun k s => if fld s (Reg.CHN_PORT_STAT_STATE k) = 0 then s else portTrain k s) s
  else if p ≤ 3 then forAll ((List.range 6).map fun i => 6 * p + i) groupTrains s
  else if p = 4 then chainLanesBack s else s

/-- After a DPLL lock loss device memory holds nothing that can be relied on (Table 15-3): a free
content of it, within its capacity (log 15). -/
def loseDram (s : State) : State :=
  let cells := (Config.lostMem s.free).filter fun x => decide (x.1 < capacity s)
  let m := cells.foldl (fun m x => tblSet 0#8 m x.1 x.2) []
  let q := ((Config.lostPoison s.free).filter fun a => decide (64 * a < capacity s)).foldl (fun q a => setInsert a q) []
  drew { s with mem := m, poison := q }

/-- XPLL's outputs stop: the return lanes are lost, and the chain lanes fail (Table 15-3). -/
def xpllStops (s : State) : State := chainLanesFail (forAll groups returnLost s)

/-- A PLL loses lock while running (R484, Table 15-3). -/
def pllLost (p : Nat) (s : State) : State :=
  let s := relock p (incSat s (Reg.CLK_PLL_CNT_LOSSES p) 1)
  let cs := pllLockCap s p 2
  if p = 5 then raiseFatal unitClk 0 evPllLock 2 cs 4 7 s
  else if p = 6 then raiseFatal unitClk 0 evPllLock 2 cs 4 7 (loseDram s)
  else
    let s := raiseErr unitClk 0 evPllLock 2 cs s
    if p = 4 then xpllStops s else s

/-! ### The commands -/

/-- Once per second at most. -/
def oncePerSec (s : State) (t : Nat) : Bool := decide (t = 0 ∨ t + 1000000000 ≤ s.ns + 1)

/-- LOCK_WINDOW_END: a lock window held `count` cycles of VCO / 4 (R481). The detector is suspended in
holdover (R489). -/
def lockWindow (p count : Nat) (s : State) : State :=
  let st := pllState s p
  if st ≠ 1 ∧ st ≠ 2 then s else
  let d := deviation s p count
  let s := setSFld s (Reg.CLK_PLL_STAT_DEV p) (max (-32767) (devPpm d))
  if st = 1 then
    let n := if devWithin d 100 then tblGet 0 s.clk.good p + 1 else 0
    if 4 ≤ n then pllLocked p { s with clk := { s.clk with good := tblSet 0 s.clk.good p 0 } }
    else { s with clk := { s.clk with good := tblSet 0 s.clk.good p n } }
  else if !devWithin d 1000 then pllLost p s
  else if !devWithin d 100 && oncePerSec s (tblGet 0 s.clk.driftAt p) then
    raise evClkMon [(8, 4), (8, p)] { s with clk := { s.clk with driftAt := tblSet 0 s.clk.driftAt p (s.ns + 1) } }
  else s

/-- OVERSHOOT_CHECK: 256 reference cycles held `count` cycles of VCO / 4 (R483). What XPLL's outputs clock stops with them. -/
def overshoot (p count : Nat) (s : State) : State :=
  if pllState s p = 0 then s
  else if 64 * pllMult s p * pllSteer s p * 102 < count * 2 ^ 62 * 100 then
    let s := incSat (relock p s) (Reg.CLK_PLL_CNT_OVERSHOOT p) 1
    let s := raiseErr unitClk 0 evClkMon 3 [(8, 3), (8, p)] s
    if p = 4 then xpllStops s else s
  else s

/-- PLL_LOCK_TIMEOUT: 10 ms after its start-up step (R484). CPLL's is fatal there (Table 17-5, step 3). -/
def pllTimeout (p : Nat) (s : State) : State :=
  if pllState s p ≠ 1 ∨ s.clk.timedOut.contains p then s else
  let s := { s with clk := { s.clk with timedOut := setInsert p s.clk.timedOut } }
  if p = 5 ∧ lamp s = .housekeeping then raiseFatal unitClk 0 evPllLock 3 (pllLockCap s p 3) 4 9 s
  else raiseErr unitClk 0 evPllLock 3 (pllLockCap s p 3) s

/-- REF_LOSS: no edge for 1 µs (R478). Locked PLLs that it feeds hold over with their word (R489). -/
def refLoss (i : Nat) (s : State) : State :=
  if bitOf (fld s Reg.CLK_REF_STAT_PRESENT) i then
    let s := setFld (setFld s ⟨Reg.CLK_REF_STAT, i, i⟩ 0) ⟨Reg.CLK_REF_STAT, 4 + i, 4 + i⟩ 1
    let s := raise evClkMon [(8, 1), (8, i)] s
    forAll ((pllsOf s i).filter fun p => decide (pllState s p = 2))
      (fun p s => raise evPllHoldover [(8, p), (8, i), (32, pllMult s p)] (setFld s (Reg.CLK_PLL_STAT_STATE p) 3)) s
  else s

/-- What TPLL does with a built-out phase of `ps` (R490). -/
def pboReturn (ps : Int) (s : State) : State :=
  let m := fld s Reg.CLK_TPLL_CFG_PBO
  if m = 1 then s
  else if m = 2 ∧ isDark s then setFld s Reg.CLK_TPLL_PBO_OFFSET 0
  else setSFld s Reg.CLK_TPLL_PBO_OFFSET (sfld s Reg.CLK_TPLL_PBO_OFFSET + ps)

/-- REF_RETURN: 10 ms of edges; phase build-out, and tracking resumes (R478, R490). -/
def refReturn (i : Nat) (ps : Int) (s : State) : State :=
  if bitOf (fld s Reg.CLK_REF_STAT_PRESENT) i then s else
  let s := raise evPllRefReturn [(8, i), (32, ps)] (setFld s ⟨Reg.CLK_REF_STAT, i, i⟩ 1)
  let ps' := (pllsOf s i).filter fun p => decide (pllState s p = 3)
  let s := forAll ps' (fun p s => setFld s (Reg.CLK_PLL_STAT_STATE p) 2) s
  if ps'.contains 7 then pboReturn ps s else s

/-- REF_PPM_CHECK: LREFCLK against XTAL, in 0.1 ppm (R478). -/
def refPpm (ppm : Int) (s : State) : State :=
  if bitOf (fld s Reg.CLK_REF_STAT_PRESENT) 0 && bitOf (fld s Reg.CLK_REF_STAT_PRESENT) 1 then
    let s := setSFld s Reg.CLK_REF_STAT_PPM ppm
    if 2000 < ppm.natAbs ∧ oncePerSec s s.clk.ppmAt then
      raise evClkMon [(8, 2), (8, 1)] { s with clk := { s.clk with ppmAt := s.ns + 1 } }
    else s
  else s

/-- CLK_PLL_CTRL.APPLY, while dark (R487): it reads 1 until the PLL has locked (R6). DPLL's registers take no writes from
the host (R480). -/
def pllApply (p : Nat) (s : State) : State :=
  if isDark s && decide (p < 8 ∧ p ≠ 6) then
    let s := setFld (relock p (pllForce p s)) (Reg.CLK_PLL_CTRL_APPLY p) 1
    if p ≤ 4 then { s with clk := { s.clk with retrain := setInsert p s.clk.retrain } } else s
  else s

/-- CLK_CTRL.CLR. -/
def clkClr (s : State) : State := forAll (List.range 8) (fun p s => setReg s (Reg.CLK_PLL_CNT p) 0) s

end Sys2Proof.Machine
end

