-- ==== Sys2Proof/Machine/Fabric.lean ====
section
/-! DEFINITION. The memory fabric: tags (R24, R311, R312, R354), the write check at issue (R310), arbitration and age (R314 to
R316, R318), and the scheduler of a channel (R319, R320). The clients' accesses within a command are part of that
command (log 59); the requests here are those that the commands of the fabric state as issued. -/

namespace Sys2Proof.Machine

/-! ### Clients and tags (Tables 10-2 and 10-3) -/

/-- Class of a group: 0 RT, 1 HI, 2 NRT, 3 BG (Table 10-3). -/
def groupClass (g : Nat) : Nat :=
  if g = grpLantern ∨ g = grpOverlay then 0 else if g = grpDecoder ∨ g = grpHost then 1
  else if g = grpLossless ∨ g = grpMgmt then 2 else 3

/-- Number of a group's client, as MFB_TAGS numbers them. -/
def tagClient (g : Nat) : Nat :=
  if g = grpLantern then 0 else if g = grpDecoder then 1 else if g = grpHost then 2 else if g = grpOverlay then 3
  else if g = grpLossless then 4 else if g = grp2d then 5 else 6

/-- Tags of a request, first and number: a lantern's are those of the quad it serves; sixteen of the lossless engine's are
pipe 0's (R311, R354). None for a lantern that serves no quad. -/
def tagRange (s : State) (q : MemReq) : Nat × Nat :=
  if q.group = grpLantern then
    let n := fld s (Reg.LANT_STAT_QUAD q.member)
    if q.member < 50 ∧ n < 48 then (64 * n, 64) else (0, 0)
  else if q.group = grpDecoder then (3072, 512)
  else if q.group = grpHost then (3584, 128)
  else if q.group = grpOverlay then (3712, 128)
  else if q.group = grpLossless then (if q.member = 0 then (3840, 16) else (3856, 112))
  else if q.group = grp2d then (3968, 64)
  else (4032, 64)

/-- Requests of a channel that hold a tag: a write releases it when the channel's write queue has accepted it (R312). -/
def Arbiter.held (a : Arbiter) : List HeldReq := a.waiting ++ a.reads

/-- Every request that holds a tag. -/
def heldReqs (s : State) : List HeldReq := (s.dram.arb.map Prod.snd).flatMap Arbiter.held

/-- A tag is held. -/
def tagHeld (s : State) (t : Nat) : Bool := (heldReqs s).any fun h => decide (h.tag = t)

/-- The tag that a request takes: the lowest of its client's that is free. -/
def freeTagOf (s : State) (q : MemReq) : Option Nat :=
  let r := tagRange s q
  ((List.range r.2).map fun i => r.1 + i).find? fun t => !tagHeld s t

/-- MFB_TAGS of a client follows. -/
def fixTags (i : Nat) (s : State) : State :=
  let n := ((heldReqs s).filter fun h => decide (tagClient h.req.group = i)).length
  setPeak (setFld s (Reg.MFB_TAGS_IN_USE i) n) (Reg.MFB_TAGS_PEAK i) n

/-- Time in units of 50 ns, 16 bits (R315). -/
def time50 (s : State) : Nat := s.ns / 50 % 65536

/-- Age of a request: the signed 16-bit difference from its stamp. -/
def HeldReq.age (s : State) (h : HeldReq) : Int := sdiff 16 (time50 s) h.stamp

/-! ### Issue (R308, R310, R312) -/

/-- Channel of a request. -/
def reqCh (s : State) (q : MemReq) : Nat := (placeOf s (q.addr / 64)).ch

/-- Data of a write, within its line. -/
def reqData (q : MemReq) : Bytes := ((q.write.map Prod.fst).getD []).take (64 - q.addr % 64)

/-- The write check (R310). The CXL.mem port's writes are not checked, and lanterns and overlays never write (R192). -/
def issueCheck (s : State) (q : MemReq) : WriteCheck :=
  if q.write.isNone ∨ (q.group = grpHost ∧ q.member = 0) then .ok
  else if q.group = grpLantern ∨ q.group = grpOverlay then .partition
  else writeCheck s q.group q.addr (reqData q).length

/-- The request takes a tag and waits for its channel, or waits for a tag (R312). -/
def takeTag (q : MemReq) (s : State) : State :=
  match freeTagOf s q with
  | none => { s with dram := { s.dram with stalled := s.dram.stalled ++ [q] } }
  | some t =>
    let a := arbOf s (reqCh s q)
    fixTags (tagClient q.group) (setArb (reqCh s q) { a with waiting := a.waiting ++ [⟨t, time50 s, q, false⟩] } s)

/-- A client issues a request. -/
def issue (q : MemReq) (s : State) : State :=
  if q.group = grpLantern ∧ (tagRange s q).2 = 0 then s
  else if issueCheck s q ≠ .ok then
    (if q.group = grpLantern ∨ q.group = grpOverlay then incSat s Reg.MFB_REJECT_PART 1 else rejectWrite s q.group q.addr (reqData q).length)
  else if capacity s ≤ q.addr / 64 * 64 then incSat s Reg.MFB_REJECT_UNMAPPED 1
  else takeTag q s

/-- A tag has been released: a request that waited for one is issued. -/
def unstall (s : State) : State :=
  match s.dram.stalled.find? fun q => (freeTagOf s q).isSome with
  | none => s
  | some q => takeTag q { s with dram := { s.dram with stalled := s.dram.stalled.erase q } }

/-- A request has released its tag. -/
def released (h : HeldReq) (s : State) : State :=
  unstall (fixTags (tagClient h.req.group) { s with dram := { s.dram with promoted := setErase h.tag s.dram.promoted } })

/-! ### Level 1 and level 2 (R314 to R316) -/

/-- The channel queue has room for a request: 64 reads, 32 writes (R319). -/
def roomFor (a : Arbiter) (h : HeldReq) : Bool :=
  if h.req.write.isSome then decide (a.writes.length < 32) else decide (a.reads.length < 64)

/-- Number of a request's source within its group: the decoder with its carry copy, the overlay fetcher and the management core are
one source each, and elsewhere each member is one (R313, Table 10-3). -/
def sourceIn (q : MemReq) : Nat :=
  if q.group = grpDecoder ∨ q.group = grpOverlay ∨ q.group = grpMgmt then 0 else q.member

/-- Requests that can be granted: with room, and behind no earlier request of their source to the same line (R313). -/
def grantable (a : Arbiter) : List HeldReq → List HeldReq → List HeldReq
  | _, [] => []
  | seen, h :: t =>
    let held := seen.any fun k => decide (k.req.group = h.req.group ∧ sourceIn k.req = sourceIn h.req ∧
      k.req.addr / 64 = h.req.addr / 64)
    if roomFor a h && !held then h :: grantable a (h :: seen) t else grantable a (h :: seen) t

/-- The next of some numbers in round robin: the least above the last one granted, or the least of all. -/
def nextRound (last : Nat) (l : List Nat) : Nat :=
  match l.filter fun i => decide (last ≤ i) with
  | [] => l.foldl min (l.headD 0)
  | x :: t => t.foldl min x

/-- Level 1 and level 2 in their round robins: the class first in order, its next group, that group's next member, and its
first request. -/
def roundPick (a : Arbiter) (l : List HeldReq) : Option HeldReq :=
  let k := (l.map fun h => groupClass h.req.group).foldl min 3
  let gs := (l.filter fun h => decide (groupClass h.req.group = k)).map fun h => h.req.group
  let g := nextRound (tblGet 0 a.lastGroup k) gs
  let ms := (l.filter fun h => decide (h.req.group = g)).map fun h => h.req.member
  let m := nextRound (tblGet 0 a.lastMember g) ms
  l.find? fun h => decide (h.req.group = g ∧ h.req.member = m)

/-- The request that level 2 grants next, and whether a round robin chose it: every sixteenth is the oldest waiting (R316),
else promoted requests go first, oldest first (R315). Requests wait in the order of their issue. -/
def levelTwo (promoted : List Nat) (a : Arbiter) : Option (HeldReq × Bool) :=
  let l := grantable a [] a.waiting
  if a.grants % 16 = 15 then l.head?.map fun h => (h, false)
  else match l.find? fun h => promoted.contains h.tag with
  | some h => some (h, false)
  | none => (roundPick a l).map fun h => (h, true)

/-- The arbiter after a grant. A write goes into the queue with its promotion, since it gives its tag up (R315). -/
def Arbiter.granted (a : Arbiter) (promoted : List Nat) (h : HeldReq) (round : Bool) : Arbiter :=
  let a := { a with waiting := a.waiting.erase h, grants := (a.grants + 1) % 16 }
  let a := if h.req.write.isSome then { a with writes := a.writes ++ [{ h with prom := promoted.contains h.tag }] }
    else { a with reads := a.reads ++ [h] }
  if round then
    { a with lastGroup := tblSet 0 a.lastGroup (groupClass h.req.group) (h.req.group + 1),
             lastMember := tblSet 0 a.lastMember h.req.group (h.req.member + 1) }
  else a

/-- The channel's write queue accepts a write: it is visible from now on, and its tag is released (R312). A CXL.mem write
into a leased range is reported (R226). -/
def acceptWrite (h : HeldReq) (s : State) : State :=
  let q := h.req
  let s := lineStore (q.addr / 64) (q.addr % 64) (reqData q) ((q.write.map Prod.snd).getD false) s
  let s := if q.group = grpHost ∧ q.member = 0 then hostLease q.addr (reqData q).length s else s
  released h s

/-- Level 2 grants one request of a channel into its queue; the flag says that it is a write. -/
def grantOne (c : Nat) (s : State) : State × Option Bool :=
  let a := arbOf s c
  match levelTwo s.dram.promoted a with
  | none => (s, none)
  | some (h, round) =>
    let s := setArb c (a.granted s.dram.promoted h round) s
    if h.req.write.isSome then (acceptWrite h s, some true) else (s, some false)

/-- Level 2 grants whatever the channel queue has room for; `k` bounds the grants. -/
def grantAll (c : Nat) : Nat → State → State
  | 0, s => s
  | k + 1, s =>
    let r := grantOne c s
    if r.2 = none then r.1 else grantAll c k r.1

/-- Level 2 grants until it has granted a write; `k` bounds the grants. -/
def grantWrite (c : Nat) : Nat → State → State
  | 0, s => s
  | k + 1, s =>
    let r := grantOne c s
    match r.2 with
    | some false => grantWrite c k r.1
    | _ => r.1

/-! ### Level 3 (R319, R320) -/

/-- A row is open that the request is for. -/
def rowHit (s : State) (h : HeldReq) : Bool :=
  let pl := h.place s
  decide ((tblGet ({} : Bank) s.dram.banks (bankIx pl.ch (servingRank s pl) pl.bank)).openRow = some pl.row)

/-- Index of the bank of a request. -/
def reqBank (s : State) (h : HeldReq) : Nat := let pl := h.place s; bankIx pl.ch (servingRank s pl) pl.bank

/-- A request of a channel's queue is promoted (R315). -/
def HeldReq.isPromoted (promoted : List Nat) (h : HeldReq) : Bool :=
  h.prom || (h.req.write.isNone && promoted.contains h.tag)

/-- The run of row hits to a bank ends: after 32 lines, while a request for another row of the bank or a promoted request
for the channel waits (R320). -/
def runEnds (s : State) (a : Arbiter) : Bool :=
  decide (32 ≤ a.runHits) &&
  ((a.held.any fun h => s.dram.promoted.contains h.tag) || a.writes.any HeldReq.prom ||
    (a.held ++ a.writes).any fun h => decide (reqBank s h = a.runBank) && !rowHit s h)

/-- The oldest request of a list, the first of those of one age. -/
def eldest (s : State) : List HeldReq → Option HeldReq
  | [] => none
  | h :: t => match eldest s t with
    | none => some h
    | some k => if h.age s < k.age s then some k else some h

/-- A batch of writes drains: it starts when 24 wait or no read does, and ends when 8 remain and a read waits (R319). -/
def drains (a : Arbiter) : Bool :=
  if a.draining then decide (8 < a.writes.length) || (a.reads.isEmpty && !a.writes.isEmpty)
  else decide (24 ≤ a.writes.length) || (a.reads.isEmpty && !a.writes.isEmpty)

/-- The scheduler's choice in a channel's queue (R319, R320): promoted requests; then, among the writes while a batch drains and
among the reads otherwise, row hits but for a run that ends, the others but for that run, and, where the run's hits alone are
left, a request of the other kind that is not for that row. Oldest first in each. -/
def schedule (s : State) (a : Arbiter) : Option HeldReq :=
  let pool := if drains a then a.writes else a.reads
  let rest := if drains a then a.reads else a.writes
  let stop := runEnds s a
  let inRun := fun h => stop && rowHit s h && decide (reqBank s h = a.runBank)
  (eldest s ((a.reads ++ a.writes).filter (HeldReq.isPromoted s.dram.promoted))).orElse fun _ =>
  (eldest s (pool.filter fun h => rowHit s h && !inRun h)).orElse fun _ =>
  (eldest s (pool.filter fun h => !inRun h)).orElse fun _ =>
  (eldest s (if pool.isEmpty then [] else rest.filter fun h => decide (reqBank s h = a.runBank) && !rowHit s h)).orElse fun _ =>
  eldest s pool

/-- The run of row hits after an access (R320). -/
def Arbiter.ran (a : Arbiter) (hit : Bool) (bank : Nat) : Arbiter :=
  { a with runBank := bank, runHits := if !hit then 0 else if bank = a.runBank then a.runHits + 1 else 1 }

/-- A queued write goes to DRAM; the batch that it belongs to has begun. -/
def serveWrite (c : Nat) (h : HeldReq) (s : State) : State :=
  let a := arbOf s c
  let hit := rowHit s h
  let b := reqBank s h
  let s := setArb c ({ a with writes := a.writes.erase h, draining := drains a }.ran hit b) s
  writeAccess (h.place s) (decide ((reqData h.req).length = 64)) { s with dram := { s.dram with moved := s.dram.moved + 1 } }

/-- A queued read returns, `bad` the devices that read wrong. A line with a write in the queue is served from the queue
(R319), else from DRAM after the ECC decode. Its tag is released (R312). -/
def serveRead (c bad : Nat) (h : HeldReq) (s : State) : State :=
  let a := arbOf s c
  let line := h.req.addr / 64
  let queued := a.writes.any fun w => decide (w.req.addr / 64 = line)
  let hit := rowHit s h
  let b := reqBank s h
  let a := { a with reads := a.reads.erase h, draining := drains a }
  let s := setArb c (if queued then a else a.ran hit b) s
  let s := if queued then
      (if linePoisoned s line then poisonReturned c (64 * line) h.req.group true (servingRank s (h.place s)) s else s)
    else (lineRead h.req.group line bad s).1
  released h s

/-- The channel runs until a read has returned; `k` bounds the accesses. -/
def channelRun (c bad : Nat) : Nat → State → State
  | 0, s => s
  | k + 1, s =>
    let s := grantAll c (arbOf s c).waiting.length s
    match schedule s (arbOf s c) with
    | none => s
    | some h => if h.req.write.isSome then channelRun c bad k (serveWrite c h s) else serveRead c bad h s

/-- A batch of writes drains as long as it lasts and no promoted read comes before it (R319); `k` bounds the writes. -/
def batchRun (c : Nat) : Nat → State → State
  | 0, s => s
  | k + 1, s =>
    if !drains (arbOf s c) then setArb c { arbOf s c with draining := false } s else
    match schedule s (arbOf s c) with
    | none => s
    | some h => if h.req.write.isSome then batchRun c k (serveWrite c h s) else s

/-- No channel moves a line in self-refresh (R335, R337). -/
def channelRuns (s : State) (c : Nat) : Bool := decide (c < nch s) && !s.dram.selfRefresh

/-- MEM_READ_RETURN: clients have issued requests, and the next read that the channel serves returns. -/
def memReadReturn (c : Nat) (issued : List MemReq) (bad : Nat) (s : State) : State :=
  let s := issued.foldl (fun s q => issue q s) s
  if channelRuns s c then channelRun c bad ((arbOf s c).writes.length + (arbOf s c).waiting.length + 1) s else s

/-- MEM_WRITE_ACCEPT: clients have issued requests, and the channel's write queue accepts the next write that level 2 grants. A
batch that may begin has drained before it, so a full queue has room, and one that begins with it drains (R319). -/
def memWriteAccept (c : Nat) (issued : List MemReq) (s : State) : State :=
  let s := issued.foldl (fun s q => issue q s) s
  if !channelRuns s c then s else
  let s := batchRun c (arbOf s c).writes.length s
  let s := grantWrite c (arbOf s c).waiting.length s
  batchRun c (arbOf s c).writes.length s

/-! ### Age (R315, R318) -/

/-- The request that holds a tag. -/
def reqOf (s : State) (t : Nat) : Option HeldReq := (heldReqs s).find? fun h => decide (h.tag = t)

/-- REQUEST_PROMOTE: a request's age has reached AGE_LIMIT. -/
def requestPromote (t : Nat) (s : State) : State :=
  match reqOf s t with
  | none => s
  | some h =>
    if s.dram.promoted.contains t || decide (h.age s < fld s Reg.MFB_CFG_AGE_LIMIT) then s else
    let s := { s with dram := { s.dram with promoted := setInsert t s.dram.promoted } }
    setReg s Reg.MFB_PROMOTED (reg s Reg.MFB_PROMOTED + 1)

/-- STARVE_LIMIT as it is taken (R318). -/
def starveLimit (s : State) : Nat :=
  let a := fld s Reg.MFB_CFG_AGE_LIMIT
  let v := fld s Reg.MFB_CFG_STARVE_LIMIT
  min 32000 (if v ≤ a then a + 1 else v)

/-- ARB_STARVE, at most once per millisecond. -/
def arbStarve (t : Nat) (s : State) : State :=
  match reqOf s t with
  | none => s
  | some h =>
    if h.age s < starveLimit s ∨ (s.dram.starveAt ≠ 0 ∧ s.ns + 1 < s.dram.starveAt + 1000000) then s else
    let c := reqCh s h.req
    let s := { s with dram := { s.dram with starveAt := s.ns + 1 } }
    let s := incSat (setFld (setFld s Reg.MFB_STARVE_GROUP h.req.group) Reg.MFB_STARVE_CH c) Reg.MFB_STARVE_COUNT 1
    raise evArbStarve [(8, h.req.group), (8, h.req.member), (8, c), (16, h.age s)] s

end Sys2Proof.Machine
end

