-- ==== Sys2Proof/Machine/Dram.lean ====
section
/-! DEFINITION. What happens in the DRAM by itself: refresh and calibration (R329, R330, R339), the patrol scrubber
(R328), the row-hammer defence (R332, R333), migration (R343, R344), frequency changes (R337, R338); and
RANK_RETIRE (R348). -/

namespace Sys2Proof.Machine

/-! ### Refresh and calibration (R329, R330, R339) -/

/-- REFRESH_DUE: an interval owes a refresh. With its banks idle what is owed issues. At the limit the banks are closed and
it is forced; what else is owed then issues as well. -/
def refreshDue (c unit : Nat) (hot : Bool) (s : State) : State :=
  let s := setFld s (Reg.DMC_REFRESH_HOT c) (b2n hot)
  let d := tblGet 0 s.dram.debt (8 * c + unit) + 1
  let s := setDebt c unit d s
  if d < (if isDdr5 s then 4 else 8) then refreshIdle c unit s
  else if !(refreshBanks s c unit).any (bankOpen s) then setDebt c unit 0 s
  else incSat (refreshIdle c unit (forAll (refreshBanks s c unit) bankClose s)) (Reg.DMC_REFRESH_FORCED c) 1

/-- Banks of a physical rank with an open row. -/
def rankOpenBanks (s : State) (c rank : Nat) : List Nat :=
  ((List.range 64).map (bankIx c rank)).filter (bankOpen s)

/-- CALIBRATION_DUE of a rank in service: ZQ calibration, or the DQS oscillator tracking of DDR5. As a refresh at its limit it
closes the rank's rows first (R319, R339); a refresh that waits for one of them then issues. -/
def calibrationDue (c rank : Nat) (dqs : Bool) (s : State) : State :=
  if (dqs && !isDdr5 s) || decide (nch s ≤ c) || decide (rankState s c rank = 0) || s.dram.selfRefresh then s
  else forAll (List.range refreshUnits) (refreshIdle c) (forAll (rankOpenBanks s c rank) bankClose s)

/-- PAGE_IDLE_CLOSE: an open row has had no request for DMC_PAGE.IDLE (R321); a refresh that waits for the bank issues. -/
def pageIdle (c rank bank : Nat) (s : State) : State :=
  refreshIdle c (refreshUnit s rank bank) (bankClose (bankIx c rank bank) s)

/-! ### The patrol scrubber (R328) -/

/-- Address of a line of a channel, by its ordinal in a rank: bank, row (R307). -/
def ordPlace (s : State) (c ord : Nat) : DramPlace := placeOf s (lineOfOrd (isDdr5 s) (nch s) (dramRows s) c 0 ord)

/-- SCRUB_READ of a physical rank: a line of the logical rank it serves, or, on a spare, a line that no
device address names. -/
def scrubRead (c p addr bad : Nat) (s : State) : State :=
  let line := addr / 64
  let d5 := isDdr5 s
  let per := rankLines d5 (dramRows s)
  let ranks := (s.dram.pop.map DramPop.ranks).getD 1
  let st := rankState s c p
  let ord := if st = 2 then line % max 1 per else (placeOf s line).ord
  let s := setFld s (Reg.DMC_SCRUB_PROGRESS c) (min 65535 ((p * per + ord) * 65536 / max 1 (ranks * per)))
  let at_ := ordPlace s c ord
  let s := bankAccess c p at_.bank at_.row s
  if st = 2 then
    match devicesOf bad (lineDevices s) with
    | [] => s
    | [d] => correctedError c p d addr s
    | _ => uncorrectable c p addr s
  else if 64 * line < capacity s ∧ (placeOf s line).ch = c ∧ servingRank s (placeOf s line) = p then
    eccEffects c p line bad s
  else s

/-! ### Row hammer (R332, R333) -/

/-- A neighbour of a row is activated and precharged. Rows run from 0 to the training row. -/
def touchRow (c rank bank row : Nat) (s : State) : State :=
  if row < dramRows s then bankClose (bankIx c rank bank) (activate c rank bank row s) else s

/-- NEIGHBOUR_REFRESH of the row of a channel that has waited longest: on DDR5 by a refresh-management command, on DDR4 by
activating and precharging rows row − 1 and row + 1 (R332). -/
def neighbourRefresh (c : Nat) (s : State) : State :=
  match s.dram.sampled.find? fun x => decide (x.ch = c) with
  | none => s
  | some x =>
    let s := { s with dram := { s.dram with sampled := s.dram.sampled.erase x } }
    let s := setFld s (Reg.DMC_HAMMER_STAT_SAMPLED c) (fld s (Reg.DMC_HAMMER_STAT_SAMPLED c) + 1)
    if isDdr5 s then s
    else
      let s := bankClose (bankIx c x.rank x.bank) s
      touchRow c x.rank x.bank (x.row + 1) (if x.row = 0 then s else touchRow c x.rank x.bank (x.row - 1) s)

/-! ### Migration (R343, R344) -/

/-- The copy has reached the end of the rank. -/
def migrationEnd (c : Nat) (s : State) : State :=
  let src := fld s (Reg.DMC_MIGRATE_SRC c)
  let dst := fld s (Reg.DMC_MIGRATE_DST c)
  let s := match logRank s c src with
    | some r => setFld s (Reg.DMC_RANKMAP_PRANK c r) dst
    | none => s
  let s := endMigration c true (setRankState (setRankState s c dst 1) c src 5)
  let ms := (s.ns - tblGet 0 s.dram.migAt c) / 1000000
  rankRecord c (raise evRankMigrated [(8, c), (8, src), (8, dst), (32, ((ms : Nat) : Int))] s)

/-- A line is read from SOURCE and written to TARGET: what the read returned, as a full line or in poison form (R343). -/
def lineCopied (c src line bad : Nat) (s : State) : State :=
  let t := eccEffects c src line bad s
  match eccRead s line bad with
  | .good none b => if devicesOf (Nat.lor (tblGet 0 s.dram.errs line) bad) (lineDevices s) = [] then t else lineRewrite line b t
  | _ => t

/-- MIGRATION_COPY_LINE: the next line is read from SOURCE, `bad` the devices that read wrong, and written
to TARGET. -/
def copyLine (c bad : Nat) (s : State) : State :=
  let src := fld s (Reg.DMC_MIGRATE_SRC c)
  let ptr := fld s (Reg.DMC_MIGRATE_PTR c)
  let d5 := isDdr5 s
  let rows := dramRows s
  let line := lineOfOrd d5 (nch s) rows c ((logRank s c src).getD 0) ptr
  let at_ := ordPlace s c ptr
  let s := bankAccess c (fld s (Reg.DMC_MIGRATE_DST c)) at_.bank at_.row (bankAccess c src at_.bank at_.row s)
  let s := lineCopied c src line bad s
  let s := { s with dram := { s.dram with moved := s.dram.moved + 2 } }
  if !flag s (Reg.DMC_MIGRATE_ACTIVE c) then s else
  let s := setFld s (Reg.DMC_MIGRATE_PTR c) (ptr + 1)
  if rankLines d5 rows ≤ ptr + 1 then migrationEnd c s else s

/-! ### Data rates (Table 10-1, R337, R338, R480) -/

/-- Rates of Table 10-1 for a population, lowest first. -/
def ratesOf (p : DramPop) : List Nat :=
  if p.type = 2 then (if p.dimms = 2 then [4800] else [4800, 5200, 5600, 6000, 6400])
  else (if p.dimms = 2 then [2400, 2666, 2933] else [2400, 2666, 2933, 3200])

/-- Three times a data rate in MT/s: 2,666 and 2,933 stand for thirds (R480). -/
def rateThirds (r : Nat) : Nat := if r = 2666 then 8000 else if r = 2933 then 8800 else 3 * r

/-- DPLL's MULT for a data rate, in 2^-22, to the nearest. -/
def dpllMult (ddr5 : Bool) (r : Nat) : Nat := roundDiv ((if ddr5 then 2 else 4) * rateThirds r * 2 ^ 22) 75

/-- The memory system sets DPLL's registers for a rate (R480). -/
def setDpll (r : Nat) (s : State) : State :=
  let d5 := isDdr5 s
  let s := setReg s (Reg.CLK_PLL_MULT 6) (BitVec.ofNat 64 (dpllMult d5 r))
  let s := forAll (List.range 8) (fun o s =>
    setFld (setFld s (Reg.CLK_OUT_DIV 6 o) (if d5 then 4 else 8)) (Reg.CLK_OUT_EN 6 o) (b2n (decide (o < nch s)))) s
  pllForce 6 (setFld (setFld s (Reg.CLK_OUT_DIV 6 8) (if d5 then 16 else 32)) (Reg.CLK_OUT_EN 6 8) 1)

/-- The change to a rate is refused: not a rate of the population, or the active image's DRAM check fails. -/
def rateRefused (r : Nat) (s : State) : Bool :=
  match s.dram.pop with
  | none => true
  | some p =>
    let c := { capacityNow s with peak := nch s * 8 * r }
    let t : Timing := ⟨(reg s Reg.TIME_TICK_PERIOD_CUR).toNat, actRows s, blankRows s, rowPeriod s, fetchNow s⟩
    !(ratesOf p).contains r || (s.img.isSome && !(dramShare c t).fits)

/-- Channels that train: those populated; before a cold start knows its population, CH0 to CH3, which every one has (R303). -/
def trainChannels (s : State) : List Nat := List.range (if s.dram.pop.isNone then 4 else nch s)

/-- Steps of every channel. -/
def trainStep (v : Nat) (s : State) : State :=
  forAll (trainChannels s) (fun c s => setFld s (Reg.DMC_TRAIN_STEP c) v) s

/-- MFB_FREQ.GO reads 1 while a change runs or is held (R6). -/
def fixGo (s : State) : State :=
  setFld s Reg.MFB_FREQ_GO (b2n (s.dram.freqRun.isSome || s.dram.freqHeld.isSome))

/-- A frequency change starts: every channel enters self-refresh and DPLL relocks (R337), or it is refused. -/
def freqStart (r : Nat) (s : State) : State :=
  if rateRefused r s then fixGo (memTrain 6 0 0 0 s)
  else
    let s := forAll (s.dram.banks.map Prod.fst) bankClose
      { s with dram := { s.dram with freqRun := some r, selfRefresh := true, debt := [] } }
    let s := forAll (List.range 8) (fun c s => fixBehind c s) s
    fixGo (trainStep 0 (relock 6 (setDpll r s)))

/-- DPLL has locked: the channels leave self-refresh and train at the new rate, from step 1. -/
def freqLocked (s : State) : State :=
  if s.dram.freqRun.isSome && s.dram.selfRefresh && decide (pllState s 6 = 2) then
    trainStep 1 { s with dram := { s.dram with selfRefresh := false } }
  else s

/-- A training step from 1 to 6 runs in a channel. -/
def stepRuns (s : State) : Bool :=
  (trainChannels s).any fun c => decide (1 ≤ fld s (Reg.DMC_TRAIN_STEP c) ∧ fld s (Reg.DMC_TRAIN_STEP c) ≤ 6)

/-- Step 7 of a cold start trains a population that the start has not learnt yet (log 113). -/
def trainsUnknown (s : State) : Bool := s.dram.pop.isNone && decide (fld s (Reg.DMC_TRAIN_STEP 0) ≠ 0)

/-- MFB_FREQ_GO: held while a training step runs, the later TARGET winning (R338). -/
def freqGo (r : Nat) (s : State) : State :=
  let s := setFld s Reg.MFB_FREQ_TARGET r
  if stepRuns s || trainsUnknown s then
    fixGo (setFld { s with dram := { s.dram with freqHeld := some r } } Reg.MFB_FREQ_PENDING 1)
  else freqStart r s

/-- A held change is applied: training starts again at step 1 at the new rate. A refused one leaves what runs running. -/
def freqHeldNow (s : State) : State :=
  match s.dram.freqHeld with
  | none => s
  | some r => freqStart r (setFld { s with dram := { s.dram with freqHeld := none } } Reg.MFB_FREQ_PENDING 0)

/-- The change of the memory's rate that has a held change waiting in its place goes on: none waits, or the one that waits is
refused. -/
def freqGoesOn (s : State) : Bool :=
  match s.dram.freqHeld with
  | none => true
  | some r => rateRefused r s

/-! ### Ranks that fail training (R336, R341, R345, R346) -/

/-- The lines of a logical rank in a channel: the spare that takes it over holds what it was initialised with, zeros
(R334, R336). -/
def rankBlank (c r : Nat) (s : State) : State :=
  let here := fun line => decide ((placeOf s line).ch = c ∧ (placeOf s line).rank = r)
  { s with mem := s.mem.filter fun x => !here (x.1 / 64), poison := s.poison.filter fun l => !here l,
           dram := { s.dram with errs := s.dram.errs.filter fun x => !here x.1 } }

/-- A rank that cannot be used: the channel's spare takes its logical rank with no copy; without one it is OFFLINE, or a
FAILED_SPARE still (R347). -/
def rankReplace (c p v : Nat) (s : State) : State :=
  match spareOf s c, logRank s c p with
  | some sp, some r =>
    rankBlank c r (setFld (setRankState (setRankState s c p v) c sp 1) (Reg.DMC_RANKMAP_PRANK c r) sp)
  | _, _ => setRankState s c p (if v = 7 then 7 else 6)

/-- A rank fails training: an unused spare takes it over, or MEM_TRAIN is raised with cause FAIL and the failed step acts as
the trigger that it is (R336, R341). A SOURCE starts nothing new (R343). -/
def trainFailed (c p step : Nat) (s : State) : State :=
  let s := setFld (setFld s (Reg.DMC_TRAIN_FAILSTEP c) step) (Reg.DMC_TRAIN_FAILRANK c) p
  if rankState s c p = 1 ∧ (spareOf s c).isSome then rankRecord c (rankRetireEvent c p 4 (rankReplace c p 5 s))
  else if rankState s c p = 0 then s
  else retireTrigger c p 4 (memTrain 2 c p step s)

/-- The rate of a change is in force: its training is done. -/
def freqDone (r : Nat) (s : State) : State :=
  let s := trainStep 0 { s with dram := { s.dram with freqRun := none } }
  fixGo (memTrain 5 0 0 0 (setFld s Reg.MFB_STAT_RATE r))

/-- A channel trains in full at step 7 of the running start: at a cold start (R334). -/
def trainsFull (s : State) : Bool := decide (s.trigger ≠ 2) || s.dram.pop.isNone

/-- The step that follows step `k` of a channel at step 7 of a start, 0 for none: 1 to 7 in full; after a warm reset 1 and 4, and
then 2 to 6 where the margins of step 4 failed (R335). -/
def startNext (s : State) (c k : Nat) : Nat :=
  if trainsFull s then k + 1
  else if s.dram.margin.contains c then (if k < 6 then k + 1 else 0)
  else if k = 1 then 4 else 0

/-- Step `k` ends in the channels that run it at step 7 of a start; those named fail the margins of step 4 (log 113). -/
def startTrained (k : Nat) (bad : List Nat) (s : State) : State :=
  let on := (trainChannels s).filter fun c => decide (fld s (Reg.DMC_TRAIN_STEP c) = k ∧ k ≠ 0)
  let lost := on.filter fun c => !trainsFull s && decide (k = 4) && !s.dram.margin.contains c && bad.contains c
  let t := forAll on (fun c t => setFld t (Reg.DMC_TRAIN_STEP c) (if lost.contains c then 2 else startNext s c k)) s
  { t with dram := { t.dram with margin := t.dram.margin ++ lost } }

/-- FREQ_CHANGE_DONE: training has come through step `upTo`; `fails` are the ranks that failed (R336). A held change starts
training again once the step running has completed (R338). At step 7 of a start with no change running, the start's own training
goes on (log 113). -/
def freqStep (upTo : Nat) (fails : List (Nat × Nat)) (s : State) : State :=
  if !stepRuns s then s else
  match s.dram.freqRun with
  | none =>
    if s.dram.pop.isNone then startTrained upTo (fails.map Prod.fst) s
    else if freqGoesOn s then startTrained upTo (fails.map Prod.fst) (freqHeldNow s) else freqHeldNow s
  | some r =>
    let s := fails.foldl (fun s x => if x.1 < nch s then trainFailed x.1 x.2 upTo s else s) s
    let on := freqGoesOn s
    let s := freqHeldNow s
    if !on then s
    else if upTo < 6 then trainStep (upTo + 1) s
    else freqDone r s

/-! ### RANK_RETIRE (R348) -/

def stMemRange : Nat := 0x78
def stMemState : Nat := 0x79
def stMemNoSpare : Nat := 0x7A

/-- RETIRE. -/
def retireCmd (c p : Nat) (offlineOk : Bool) (s : State) : State × Nat :=
  let st := rankState s c p
  if st = 2 then (s, stMemRange)
  else if st ≠ 1 then (s, stMemState)
  else if (spareOf s c).isNone && !offlineOk then (s, stMemNoSpare)
  else (retireTrigger c p 3 s, stOK)

/-- RESTORE. -/
def restoreCmd (c p : Nat) (s : State) : State × Nat :=
  let st := rankState s c p
  if isLit s || !([5, 6, 7].contains st) then (s, stMemState) else
  let empty := s.dram.spare && !((List.range 4).any fun q => decide (rankState s c q = 2 ∨ rankState s c q = 4))
  let s := if empty then setRankState { s with dram := { s.dram with restored := setErase (4 * c + p) s.dram.restored } } c p 2
    else { s with dram := { s.dram with restored := setInsert (4 * c + p) s.dram.restored } }
  (rankRecord c s, stOK)

def rankRetireRun (j : Job) (d : Bytes) (s : State) : State :=
  let c := dByte d 6
  let p := dByte d 7
  if nch s ≤ c ∨ 3 < p ∨ rankState s c p = 0 then complete j stMemRange 0 0 s
  else
    let r := if dByte d 4 = 0 then retireCmd c p (bitOf (dByte d 5) 0) s else restoreCmd c p s
    complete j r.2 0 0 r.1

def cmdRankRetire : Cmd where
  op := 0x88
  bodyOk d := bodyZero d [(4, 7)] && decide (dByte d 4 < 2) && decide (dByte d 5 < 2)
  ready := always
  run := rankRetireRun

/-! ### MFB_CTRL.CLR and DMC_CTRL.CLR -/

def mfbClr (s : State) : State :=
  let s := forAll (List.range 7) (fun i s => setFld s (Reg.MFB_TAGS_PEAK i) 0) s
  setReg (setReg (setFld s Reg.MFB_STARVE_COUNT 0) Reg.MFB_PROMOTED 0) Reg.MFB_REJECT 0

def dmcClr (c : Nat) (s : State) : State :=
  let s := forAll (List.range 4) (fun p s => setFld s (Reg.DMC_ECC_CE_COUNT c p) 0) s
  setReg (setFld (setReg s (Reg.DMC_UE_CNT c) 0) (Reg.DMC_REFRESH_FORCED c) 0) (Reg.DMC_HAMMER_STAT c) 0

end Sys2Proof.Machine
end

