-- ==== Sys2Proof/Machine/Validate.lean ====
section
/-! DEFINITION. Validation of a structure image (R516 to R522, Table 17-3). A check answers the byte offset
of the fault within the image, or none; the first check that fails ends validation. -/

namespace Sys2Proof.Machine

/-- A refusal: code, section ID (0 for the header), byte offset. -/
abbrev Rej := Nat × Nat × Nat

/-- First offset whose check fails. -/
def firstBad (l : List (Bool × Nat)) : Option Nat := (l.find? fun x => !x.1).map Prod.snd

/-- The first refusal of a list of checks. -/
def firstRej : List (Option Rej) → Option Rej
  | [] => none
  | some r :: _ => some r
  | none :: t => firstRej t

/-- A check with its code and section. -/
def rejAt (code sec : Nat) (o : Option Nat) : Option Rej := o.map fun o => (code, sec, o)

/-- A condition at an offset. -/
def need (ok : Bool) (code sec off : Nat) : Option Rej := if ok then none else some (code, sec, off)

/-! ### The header and the END section (steps 3 to 8) -/

def imgLen (b : Bytes) : Nat := leAt b 8 4
def imgGen (b : Bytes) : Nat := leAt b 0x10 4
/-- Minor version 0x00 must carry 0 in every reserved byte (R516). -/
def imgStrict (b : Bytes) : Bool := decide (leAt b 4 1 = 0)
def imgCrc (b : Bytes) : Nat := leAt b (imgLen b - 20) 4
def imgKeySlot (b : Bytes) : Nat := leAt b (imgLen b - 24) 1

/-- Bytes of `b` in a range are zero. -/
def zeroAt (b : Bytes) (o n : Nat) : Bool := allZero (sliceB b o n)

/-- Offset of the first byte that is not zero, of a run of reserved bytes. -/
def reservedBad (b : Bytes) (o n : Nat) : List (Bool × Nat) :=
  (List.range n).map fun i => (decide (leAt b (o + i) 1 = 0), o + i)

/-- Step 3. -/
def checkFormat (b : Bytes) : Option Rej :=
  firstRej [need (decide (leAt b 0 4 = 0x565A5349)) 0x30 0 0, need (decide (leAt b 5 1 = 1)) 0x30 0 4,
    need (decide (leAt b 6 2 = 64)) 0x30 0 6,
    rejAt 0x30 0 (if imgStrict b then firstBad (reservedBad b 0x0E 2 ++ reservedBad b 0x14 44) else none)]

/-- Step 4; `room` is the source's length. -/
def checkLength (b : Bytes) (room : Nat) : Option Rej :=
  need (decide (96 ≤ imgLen b ∧ imgLen b ≤ 65536 ∧ imgLen b % 8 = 0 ∧ imgLen b ≤ room)) 0x31 0 8

/-- Step 5. -/
def checkDevice (b : Bytes) : Option Rej := need (decide (leAt b 0x0C 2 = 0x0192)) 0x32 0 0x0C

/-- Step 6. -/
def checkCrc (b : Bytes) : Option Rej :=
  need (decide (crc32c (b.take (imgLen b - 20)) = imgCrc b)) 0x33 0xFFFF (imgLen b - 20)

/-- Step 7, against the CRC of the activation record where one applies. -/
def checkRecord (b : Bytes) (rec : Option Nat) : Option Rej :=
  match rec with
  | some c => need (decide (imgCrc b = c)) 0x3F 0xFFFF (imgLen b - 20)
  | none => none

/-- Step 8. -/
def checkMac (s : State) (b : Bytes) : Option Rej :=
  let k := imgKeySlot b
  let n := imgLen b
  firstRej [need (decide (k < 2) && slotSet s k) 0x34 0xFFFF (n - 24),
    need (decide ((hmac (keyOf s k) (b.take (n - 16))).take 16 = sliceB b (n - 16) 16)) 0x34 0xFFFF (n - 16)]

/-! ### Sections (step 9) -/

/-- Payload length of a section (Table 17-2); COLOUR's follows from its own counts. -/
def secSize (id : Nat) (pay : Bytes) : Option Nat :=
  match id with
  | 0x0001 => some 104
  | 0x0010 => some 56
  | 0x0011 => some 8
  | 0x0020 => some 864
  | 0x0021 => some 48
  | 0x0030 => some 344
  | 0x0031 => some 16
  | 0x0040 => some (16 + 64 * leAt pay 0 1 + 2048 * leAt pay 1 1 + 24576)
  | 0x0041 => some 8
  | 0x0042 => some 208
  | 0x0050 => some 16
  | 0x0051 => some 24
  | 0x0060 => some 40
  | 0x0061 => some 16688
  | 0x0070 => some 1032
  | 0x0071 => some 40
  | 0x0072 => some 8
  | 0x0080 => some 512
  | 0xFFFF => some 24
  | _ => none

/-- Sections every image has. -/
def requiredSecs : List Nat :=
  [0x0001, 0x0010, 0x0011, 0x0020, 0x0021, 0x0030, 0x0031, 0x0040, 0x0041, 0x0050, 0x0051, 0x0060, 0x0070,
    0x0071, 0x0072, 0x0080, 0xFFFF]

/-- Walks the sections from `o`, the last ID being `last`. `k` bounds them. -/
def walkSecs (b : Bytes) : Nat → Nat → Nat → Option Rej
  | 0, _, o => some (0x35, 0, o)
  | k + 1, last, o =>
    if imgLen b < o + 8 then some (0x35, 0, o) else
    let id := leAt b o 2
    let n := leAt b (o + 4) 4
    if id ≤ last then some (0x35, id, o)
    else if imgStrict b && !zeroAt b (o + 2) 2 then some (0x35, id, o + 2)
    else if imgLen b < o + 8 + n ∨ secSize id (sliceB b (o + 8) n) ≠ some n then some (0x35, id, if (secSize id []).isSome then o + 4 else o)
    else if id = 0xFFFF then need (decide (o + 8 + n = imgLen b)) 0x35 id o
    else walkSecs b k id (o + 8 + n)

def checkSections (b : Bytes) : Option Rej :=
  firstRej (walkSecs b 20 0 64 :: requiredSecs.map fun id => need (hasSec b id) 0x35 id (imgLen b))

/-! ### Fields (step 10) -/

/-- Offset of a section's payload within the image. -/
def payAt (b : Bytes) (id : Nat) : Nat := ((findSec b id 20 64).map Prod.fst).getD 0 + 8

/-- A field of a section. -/
def inSec (b : Bytes) (id o n : Nat) : Nat := leAt b (payAt b id + o) n
def inSecI (b : Bytes) (id o : Nat) : Int := toSigned 16 (inSec b id o 2)

/-- A field of `n` bytes lies from `lo` to `hi`. -/
def rangeOk (b : Bytes) (id o n lo hi : Nat) : Bool × Nat :=
  (decide (lo ≤ inSec b id o n ∧ inSec b id o n ≤ hi), o)

/-- An fp32 that is finite; greater than 0; from 0 to 1.0. Subnormals count as 0 (R142). -/
def f32Finite (v : Nat) : Bool := decide (v / 2 ^ 23 % 256 ≠ 255)
def f32Positive (v : Nat) : Bool := decide (0x00800000 ≤ v ∧ v < 0x7F800000)
def f32Unit (v : Nat) : Bool := decide (v ≤ 0x3F800000) || decide (v % 2 ^ 31 < 0x00800000)

/-- The bits of a field outside a mask are zero. -/
def maskOk (b : Bytes) (id o n mask : Nat) : Bool × Nat :=
  (decide (Nat.land (inSec b id o n) mask = inSec b id o n), o)

/-- The checks on the fields of a section, with offsets in its payload, reserved bytes apart. -/
def fieldChecks (b : Bytes) (id : Nat) : List (Bool × Nat) :=
  let v := inSec b id
  let r := rangeOk b id
  match id with
  | 0x0010 =>
    [r 0 4 16 65536, r 4 4 16 65536, (f32Positive (v 8 4), 8), (f32Positive (v 12 4), 12), r 16 1 0 1, r 17 1 1 32,
      r 18 1 1 32, (decide (v 19 1 < v 17 1), 19), (f32Positive (v 20 4), 20), (f32Positive (v 24 4), 24)] ++
    (List.range 7).map fun i => (f32Unit (v (28 + 4 * i) 4), 28 + 4 * i)
  | 0x0011 => [(decide (inSec b 0x10 4 4 ≤ 16 * v 0 2), 0), (decide (inSec b 0x10 0 4 ≤ 96 * v 2 2), 2)]
  | 0x0020 => (List.range 24).flatMap fun g => [r (4 * g) 1 0 2, r (4 * g + 1) 1 0 7, r (4 * g + 2) 1 0 1]
  | 0x0021 => (List.range 48).map fun q => (decide (v q 1 < 50 ∨ v q 1 = 0x3F), q)
  | 0x0030 => (List.range 16).map fun i => r (16 * i + 14) 1 0 0x3F
  | 0x0031 =>
    [r 0 1 1 2, (decide (v 1 1 = 4 ∨ v 1 1 = 8), 1), r 2 1 1 2, r 3 1 1 4, r 4 1 0 1,
      (decide (v 4 1 = 0 ∨ v 3 1 = 2 ∨ v 3 1 = 4), 4), r 8 2 1 256]
  | 0x0040 =>
    let ns := v 0 1
    let nt := v 1 1
    [r 0 1 1 8, r 1 1 1 8, r 2 1 0 1, r 10 2 512 1024] ++
    ((List.range ns).flatMap fun i =>
      let o := 16 + 64 * i
      [r (o + 3) 1 0 1, (!((List.range i).any fun j => decide (v o 4 = v (16 + 64 * j) 4)), o)] ++
      ([0, 1, 2].map fun p => (decide (v (o + 4 + p) 1 < nt), o + 4 + p)) ++
      ((List.range 12).map fun j => (f32Finite (v (o + 8 + 4 * j) 4), o + 8 + 4 * j))) ++
    ((List.range 12288).map fun i => maskOk b id (16 + 64 * ns + 2048 * nt + 2 * i) 2 0xFFF)
  | 0x0041 => [r 0 2 16 8192, r 2 2 16 8192]
  | 0x0042 => [0, 1, 2].map fun p => r (68 * p) 1 10 30
  | 0x0050 => [r 8 4 0 0x1FFFF]
  | 0x0060 =>
    [r 0 1 0 15] ++ ((List.range 4).filter (bitOf (v 0 1))).flatMap (fun i => [r (10 + 8 * i) 1 0 50, r (11 + 8 * i) 1 1 255]) ++
    [(!bitOf (v 0 1) 3 || hasSec b 0x61, 0)]
  | 0x0061 =>
    ((List.range 6).map fun i => (decide (inSecI b id (2 * i) < inSecI b id (2 * i + 2)), 2 * i + 2)) ++
    ((List.range 8).map fun i => r (16 + i) 1 0 224) ++ [r 24 1 0 7, r 25 1 1 8] ++
    ((List.range (min 8 (v 25 1))).flatMap fun i => [r (32 + 2 * i) 1 0 23, r (33 + 2 * i) 1 0 15]) ++
    ((List.range 8320).map fun i => maskOk b id (48 + 2 * i) 2 0xFF7F) ++
    ((List.range 520).flatMap fun e =>
      let ws := (List.range 16).map fun k => v (48 + 32 * e + 2 * k) 2
      (List.range 16).map fun k => (decide (ws.getD k 0 = 0) || (ws.take (k + 1)).all fun w => decide (w / 256 ≠ 0), 48 + 32 * e + 2 * k))
  | 0x0070 =>
    ((List.range 8).filter (· ≠ 6)).flatMap (fun p => [(decide (16 * 2 ^ 22 ≤ v (8 * p) 4), 8 * p), maskOk b id (8 * p + 4) 4 0x1F3F03,
      (decide (bitsOf (v (8 * p + 4) 4) 0 2 < 3 ∧ bitsOf (v (8 * p + 4) 4) 16 5 ≤ 30), 8 * p + 4)]) ++
    [maskOk b id 64 4 0x7F07] ++
    ((List.range 240).filter fun i => decide (i < 229 ∨ 238 ≤ i)).flatMap (fun i => [r (72 + 4 * i) 1 1 255, maskOk b id (72 + 4 * i) 4 0x1FFFF])
  | 0x0071 =>
    [r 0 1 0 3, r 1 1 0 2, r 2 1 0 1, r 3 1 0 1, r 4 1 0 127, r 24 1 0 32] ++
    [32, 36].flatMap fun o => [maskOk b id o 4 0x0FFF1FFF, (decide (v o 4 / 2 ^ 10 % 4 < 2), o)]
  | 0x0072 => [r 0 1 0 3, r 1 1 0 2, (decide (v 0 1 = 0 ∨ v 1 1 ≠ 0), 1)]
  | 0x0080 => (List.range 256).map fun i => maskOk b id (2 * i) 2 0x13F
  | _ => []

/-- Reserved runs of a section's payload: offset and length. -/
def reservedRuns (b : Bytes) (id : Nat) : List (Nat × Nat) :=
  match id with
  | 0x0001 => [(100, 4)]
  | 0x0011 => [(4, 4)]
  | 0x0020 => (List.range 24).map fun g => (4 * g + 3, 1)
  | 0x0030 => (List.range 16).map fun i => (16 * i + 15, 1)
  | 0x0031 => [(5, 1), (10, 6)]
  | 0x0040 => [(3, 1), (12, 4)] ++ (List.range (inSec b 0x40 0 1)).flatMap fun i => [(16 + 64 * i + 7, 1), (16 + 64 * i + 56, 8)]
  | 0x0041 => [(4, 4)]
  | 0x0042 => [(1, 1), (69, 1), (137, 1), (204, 4)]
  | 0x0051 => [(5, 1)]
  | 0x0060 => [(1, 7)] ++ (List.range 4).map fun i => (14 + 8 * i, 2)
  | 0x0061 => [(26, 6)]
  | 0x0070 => [(68, 4)]
  | 0x0071 => [(5, 3), (25, 3)]
  | 0x0072 => [(2, 6)]
  | 0xFFFF => [(1, 3)]
  | _ => []

def reservedChecks (b : Bytes) (id : Nat) : List (Bool × Nat) :=
  (reservedRuns b id).flatMap fun r => (List.range r.2).map fun i => (decide (inSec b id (r.1 + i) 1 = 0), r.1 + i)

/-- Section IDs in the order of the image. -/
def secIds : List Nat :=
  [0x0001, 0x0010, 0x0011, 0x0020, 0x0021, 0x0030, 0x0031, 0x0040, 0x0041, 0x0042, 0x0050, 0x0051, 0x0060,
    0x0061, 0x0070, 0x0071, 0x0072, 0x0080, 0xFFFF]

def checkFields (b : Bytes) : Option Rej :=
  let ids := secIds.filter (hasSec b)
  firstRej ((ids.map fun id => rejAt 0x36 id ((firstBad (fieldChecks b id)).map (payAt b id + ·))) ++
    if imgStrict b then ids.map fun id => rejAt 0x36 id ((firstBad (reservedChecks b id)).map (payAt b id + ·)) else [])

/-! ### Raster, map, crossbar, rails, lens (steps 11 to 13) -/

/-- Step 11. -/
def checkRaster (b : Bytes) : Option Rej :=
  need (decide (inSec b 0x50 8 4 = inSec b 0x10 4 4)) 0x20 0x50 (payAt b 0x50 + 8)

/-- Columns of a wick: first and count. -/
def colFirst (b : Bytes) (n : Nat) : Nat := inSec b 0x20 (96 + 4 * n) 2
def colCount (b : Bytes) (n : Nat) : Nat := inSec b 0x20 (98 + 4 * n) 2

/-- A wick's columns (R208, R238): even, 2 to 512, within the head, and no other wick's before it. -/
def colsOk (b : Bytes) (n : Nat) : Bool :=
  let f := colFirst b n
  let c := colCount b n
  decide (c = 0) || (decide (c % 2 = 0 ∧ c ≤ 512 ∧ f + c ≤ inSec b 0x10 0 4) &&
    (List.range n).all fun m => decide (colCount b m = 0 ∨ colFirst b m + colCount b m ≤ f ∨ f + c ≤ colFirst b m))

/-- A group has a wick with columns. -/
def groupCols (b : Bytes) (g : Nat) : Bool := (List.range 8).any fun i => decide (colCount b (8 * g + i) ≠ 0)

/-- Spread of a PLL within R485; MODE 0 asks for none. -/
def sscOk (b : Bytes) (p : Nat) : Bool :=
  let w := inSec b 0x70 (8 * p + 4) 4
  let d := bitsOf w 8 6
  match bitsOf w 0 2 with
  | 0 => true
  | 1 => decide (p = 5) && decide (d ≤ 50 ∧ bitsOf w 16 5 ≤ 30)
  | 2 => decide (p = 5) && decide (d ≤ 25 ∧ bitsOf w 16 5 ≤ 30)
  | _ => false

/-- Step 12. The DPLL words are ignored (R480). -/
def checkMap (b : Bytes) : Option Rej :=
  let w := payAt b 0x20
  let k := payAt b 0x70
  firstRej
    [rejAt 0x37 0x20 ((firstBad (wicks.map fun n => (colsOk b n, 96 + 4 * n))).map (w + ·)),
      need (decide ((wicks.map (colCount b)).sum = inSec b 0x10 0 4)) 0x37 0x20 (w + 96),
      rejAt 0x37 0x20 ((firstBad (groups.map fun g => (decide (inSec b 0x20 (4 * g) 1 = 0) == !groupCols b g, 4 * g))).map (w + ·)),
      rejAt 0x37 0x70 ((firstBad (((List.range 8).filter (· ≠ 6)).map fun p => (sscOk b p, 8 * p + 4))).map (k + ·)),
      rejAt 0x37 0x70 ((firstBad ((wicks.filter fun n => groupCols b (n / 8)).map fun n =>
        (decide (inSec b 0x70 (72 + 4 * n) 1 = 3 - inSec b 0x20 (4 * (n / 8)) 1), 72 + 4 * n))).map (k + ·))]

/-- A quad in use has a wick with columns (R196). -/
def quadCols (b : Bytes) (q : Nat) : Bool := (List.range 4).any fun i => decide (colCount b (4 * q + i) ≠ 0)

/-- A quad's lantern breaks neither of the first two conditions of R196. -/
def quadNamed (b : Bytes) (q : Nat) : Bool :=
  let l := inSec b 0x21 q 1
  !quadCols b q || (decide (l ≠ 0x3F) &&
    !((List.range q).any fun p => quadCols b p && decide (inSec b 0x21 p 1 = l)))

/-- A rail in use keeps its target, its ILIM and every VLCD entry within R274. -/
def railOk (s : State) (b : Bytes) (i : Nat) : Bool :=
  let lo := sfld s (Reg.RAIL_ABS_VMIN i)
  let hi := sfld s (Reg.RAIL_ABS_VMAX i)
  let within := fun (x : Int) => decide (lo ≤ x ∧ x ≤ hi)
  !bitOf (inSec b 0x60 0 1) i ||
    (decide (inSec b 0x60 (12 + 8 * i) 2 ≤ fld s (Reg.RAIL_ABS_IMAX i)) && (decide (i = 3) || within (inSecI b 0x60 (8 + 8 * i))))

/-- A VLCD entry lies within the window of rail 3 (R274, R288). -/
def vlcdOk (s : State) (b : Bytes) (i : Nat) : Bool :=
  let v : Int := (inSec b 0x61 (16 + i) 1 * 100 : Nat)
  decide (sfld s (Reg.RAIL_ABS_VMIN 3) * 16 ≤ v ∧ v ≤ sfld s (Reg.RAIL_ABS_VMAX 3) * 16)

/-- Phases of waveform entry `e` of a band, up to the first with DUR 0. -/
def wavePhases (b : Bytes) (e : Nat) : List Nat :=
  ((List.range 16).map fun k => inSec b 0x61 (48 + 32 * e + 2 * k) 2).takeWhile fun w => decide (w / 256 ≠ 0)

/-- R288: the entry is balanced and at most 475 ms long. -/
def waveOk (b : Bytes) (e : Nat) : Bool :=
  let ps := wavePhases b e
  decide ((ps.map fun w => (if bitOf w 6 then -1 else 1 : Int) * ((w % 64 * (w / 256) : Nat) : Int)).sum = 0) &&
  decide ((ps.map fun w => w / 256).sum ≤ 475)

/-- Step 13. -/
def checkPlan (s : State) (b : Bytes) : Option Rej :=
  let r := payAt b 0x60
  let l := payAt b 0x61
  firstRej
    [rejAt 0x10 0x21 ((firstBad ((List.range 48).map fun q => (quadNamed b q, q))).map (payAt b 0x21 + ·)),
      rejAt 0x38 0x60 ((firstBad ((List.range 4).map fun i => (railOk s b i, 8 + 8 * i))).map (r + ·)),
      rejAt 0x38 0x61 (if hasSec b 0x61 then (firstBad ((List.range 8).map fun i => (vlcdOk s b i, 16 + i))).map (l + ·) else none),
      rejAt 0x39 0x61 (if hasSec b 0x61 then (firstBad ((List.range 520).map fun e => (waveOk b e, 48 + 32 * e))).map (l + ·) else none)]

/-! ### DRAM, MEMMAP, budget (steps 14 to 16) -/

/-- The data rate meets both conditions of R305. -/
def rateMeets (p : DramPop) (r : Nat) : Bool := (ratesOf p).contains r && decide (r ≤ p.bin)

/-- Step 14. -/
def checkDram (s : State) (b : Bytes) : Option Rej :=
  let v := inSec b 0x31
  match s.dram.pop with
  | none => some (0x3C, 0x31, payAt b 0x31)
  | some p =>
    rejAt 0x3C 0x31 ((firstBad [(decide (v 0 1 = p.type), 0), (decide (v 1 1 = p.nch), 1), (decide (v 2 1 = p.dimms), 2),
      (decide (v 3 1 = p.ranks), 3), (rateMeets p (v 6 2), 6), (decide (v 8 2 = p.rankGib), 8)]).map (payAt b 0x31 + ·))

/-- Places a MEMMAP section gives regions, with their offsets in it: base, size, offset. -/
def mapRegions (b : Bytes) : List (Nat × Nat × Nat) :=
  let v := fun o => inSec b 0x30 o 8
  [(v 272, 32 * 65536, 272), (v 280, v 296, 280), (v 288, v 296, 288), (v 304, v 320, 304), (v 312, v 320, 312), (v 328, v 336, 328)]

/-- Partitions: base, size, HDM. -/
def mapPart (b : Bytes) (i : Nat) : Nat × Nat × Bool :=
  (inSec b 0x30 (16 * i) 8, inSec b 0x30 (16 * i + 8) 6, bitOf (inSec b 0x30 (16 * i + 14) 1) 0)

/-- Ranges meet. -/
def rangesMeet (a n c m : Nat) : Bool := decide (0 < n ∧ 0 < m ∧ a < c + m ∧ c < a + n)

/-- Partition `i` is aligned, below the capacity, and meets none before it (R309). -/
def partOk (s : State) (b : Bytes) (i : Nat) : Bool :=
  let p := mapPart b i
  decide (p.2.1 = 0) || (decide (p.1 % 65536 = 0 ∧ p.2.1 % 65536 = 0 ∧ p.1 + p.2.1 ≤ capacity s) &&
    (List.range i).all fun j => !rangesMeet p.1 p.2.1 (mapPart b j).1 (mapPart b j).2.1)

/-- A region lies below the capacity, outside every HDM partition, and meets none before it. -/
def regionOk (s : State) (b : Bytes) (k : Nat) : Bool :=
  let l := mapRegions b
  let x := l.getD k (0, 0, 0)
  decide (x.1 + x.2.1 ≤ capacity s) &&
  ((List.range 16).all fun i => !(mapPart b i).2.2 || !rangesMeet x.1 x.2.1 (mapPart b i).1 (mapPart b i).2.1) &&
  (l.take k).all fun y => !rangesMeet x.1 x.2.1 y.1 y.2.1

/-- The reel store: multiples of 1 GiB, at least one, inside an HDM partition (R97). -/
def reelChecks (b : Bytes) : List (Bool × Nat) :=
  let a := inSec b 0x30 256 8
  let n := inSec b 0x30 264 8
  [(decide (a % 2 ^ 30 = 0), 256), (decide (n % 2 ^ 30 = 0 ∧ 2 ^ 30 ≤ n), 264), ((List.range 16).any fun i =>
    (mapPart b i).2.2 && decide ((mapPart b i).1 ≤ a ∧ a + n ≤ (mapPart b i).1 + (mapPart b i).2.1), 256)]

/-- Step 15. -/
def checkMemmap (s : State) (b : Bytes) : Option Rej :=
  let o := payAt b 0x30
  firstRej
    [rejAt 0x3B 0x30 ((firstBad ((List.range 16).map fun i => (partOk s b i, 16 * i))).map (o + ·)),
      rejAt 0x3B 0x30 ((firstBad (reelChecks b)).map (o + ·)),
      rejAt 0x3B 0x30 ((firstBad ((mapRegions b).zipIdx.map fun x => (regionOk s b x.2, x.1.2.2))).map (o + ·))]

/-- fcore of an image's CLOCKS section, over 20000 (R486). -/
def imgCore (b : Bytes) : Nat :=
  let w := inSec b 0x70 44 4
  if bitsOf w 0 2 = 1 then 20000 - bitsOf w 8 6 else 20000

/-- Capacity and timing that an image is checked against. -/
def imgCapacity (s : State) (b : Bytes) : Capacity := ⟨b, imgCore b, spreadNum s 6, dramPeak s⟩
def imgTiming (b : Bytes) : Timing := ⟨inSec b 0x50 0 8, inSec b 0x50 8 4, inSec b 0x50 12 2, inSec b 0x50 14 2, 0⟩

/-- Where a budget fault is reported: the field the check turns on. -/
def budgetAt (b : Bytes) (code : Nat) : Nat × Nat :=
  match code with
  | 1 => (0x50, payAt b 0x50)
  | 2 => (0x50, payAt b 0x50 + 14)
  | 3 => (0x50, payAt b 0x50 + 14)
  | 4 => (0x51, payAt b 0x51 + 6)
  | 5 => (0x51, payAt b 0x51 + 8)
  | _ => (0x51, payAt b 0x51 + 12)

/-- Step 16; the run is recorded with trigger 1 (R47). -/
def checkBudget (b : Bytes) (s : State) : State × Option Rej :=
  let r := budgetRun (imgCapacity s b) (imgTiming b) 1 0 s
  (r.1, if r.2 = 0 then none else some (r.2, budgetAt b r.2))

/-! ### Validation -/

/-- Steps 3 to 13. -/
def validateTo13 (s : State) (b : Bytes) (room : Nat) (rec : Option Nat) : Option Rej :=
  firstRej [checkFormat b, checkLength b room] |>.or <|
  firstRej [checkDevice b, checkCrc b, checkRecord b rec, checkMac s b] |>.or <|
  (checkSections b).or <| (checkFields b).or <| firstRej [checkRaster b, checkMap b, checkPlan s b]

/-- Steps 14 to 16. -/
def validateFrom14 (b : Bytes) (s : State) : State × Option Rej :=
  match firstRej [checkDram s b, checkMemmap s b] with
  | some r => (s, some r)
  | none => checkBudget b s

/-- Raises STRUCT_REJECT and records it (R530). -/
def structReject (r : Rej) (source trigger : Nat) (s : State) : State :=
  let w := r.1 + r.2.1 * 2 ^ 8 + source * 2 ^ 24 + trigger * 2 ^ 26
  let s := setReg (setReg s Reg.STR_REJECT (BitVec.ofNat 64 w)) Reg.STR_REJECT_OFF (BitVec.ofNat 64 (r.2.2 % 2 ^ 17))
  raiseErr unitStr 0 evStructReject 0
    [(8, r.1), (16, r.2.1), (32, ((r.2.2 : Nat) : Int)), (8, source), (8, trigger)] s

end Sys2Proof.Machine
end

