-- ==== Sys2Proof/Machine/Structure.lean ====
section
/-! DEFINITION. A structure image in force (R520, R531), STRUCT_ACTIVATE (R525 to R528), and the steps of a
start that an activation runs too (Table 17-5, steps 8 to 13). -/

namespace Sys2Proof.Machine

/-! ### Registers with an SI reset (R520, R537) -/

/-- Writes registers, and fields, in turn. -/
def setRegs (l : List (Nat × Nat)) (s : State) : State := l.foldl (fun s x => setReg s x.1 (BitVec.ofNat 64 x.2)) s
def setFlds (l : List (Fld × Nat)) (s : State) : State := l.foldl (fun s x => setFld s x.1 x.2) s

/-- Replaces the entries of a table from index `lo` up to `hi` by rising ones. -/
def tblBlock {α : Type} (lo hi : Nat) (l t : Tbl α) : Tbl α :=
  (t.filter fun p => decide (p.1 < lo)) ++ l ++ t.filter fun p => decide (hi ≤ p.1)

/-- Little-endian 16-bit words. -/
def words16 : Bytes → List Nat
  | a :: b :: t => (a.toNat + 256 * b.toNat) :: words16 t
  | _ => []

/-- The drive LUTs of COLOUR as SCAN_LUT registers. -/
def lutRegs (b : Bytes) : Tbl DWord :=
  let c := secOf b 0x40
  let ws := words16 (sliceB c (16 + 64 * leAt c 0 1 + 2048 * leAt c 1 1) 24576)
  (ws.zipIdx.map fun x => (Reg.SCAN_LUT (x.2 / 4096) (x.2 % 4096), BitVec.ofNat 64 (x.1 % 4096))).filter
    fun p => decide (p.2 ≠ resetOf p.1)

/-- The LUTs, shadow and in force. -/
def lutTake (b : Bytes) (s : State) : State :=
  let l := lutRegs b
  let s := { s with regs := tblBlock 0x304000 0x310000 l s.regs }
  { s with scan := { s.scan with force := tblBlock 0x304000 0x310000 l s.scan.force } }

/-- Places in device memory (MEMMAP). -/
def memmapTake (b : Bytes) (s : State) : State :=
  let m := secOf b 0x30
  let s := setRegs ((List.range 16).flatMap fun i =>
    [(Reg.MFB_PART_BASE i, leAt m (16 * i) 8),
      (Reg.MFB_PART_INFO i, leAt m (16 * i + 8) 6 + leAt m (16 * i + 14) 1 % 64 * 2 ^ 48)]) s
  setRegs [(Reg.REEL_BASE, leAt m 256 8), (Reg.REEL_SIZE, leAt m 264 8), (Reg.LDEC_ATLAS_A, leAt m 280 8),
    (Reg.LDEC_ATLAS_B, leAt m 288 8), (Reg.LDEC_ATLAS_SIZE, leAt m 296 8), (Reg.RMAP_SLOT_A, leAt m 304 8),
    (Reg.RMAP_SLOT_B, leAt m 312 8), (Reg.RMAP_SLOT_SIZE, leAt m 320 8), (Reg.RMAP_UNI_STAGE, leAt m 328 8),
    (Reg.RMAP_UNI_STAGE_SIZE, leAt m 336 8)] s

/-- The raster and its shadow set (TIMING, COLOUR). -/
def rasterTake (b : Bytes) (s : State) : State :=
  let t := secOf b 0x50
  let c := secOf b 0x40
  let l : List (Fld × Nat) := [(Reg.SCAN_ACT_ROWS_A, leAt t 8 4), (Reg.SCAN_BLANK_ROWS_B, leAt t 12 2),
    (Reg.SCAN_ROW_PERIOD_CLOCKS, leAt t 14 2), (Reg.SCAN_DITHER_EN, leAt c 2 1 % 2)]
  let s := l.foldl (fun s x => setFfld s x.1 x.2) (setFlds l s)
  let s := setRegs [(Reg.TIME_TICK_PERIOD, leAt t 0 8), (Reg.TIME_TICK_PERIOD_CUR, leAt t 0 8)] s
  let bg := leAt c 4 6
  let s := setFlds [(Reg.LANT_TERM_TERM, leAt c 10 2), (Reg.LANT_TERM_CUR_TERM, leAt c 10 2),
    (Reg.LANT_BG_CUR_BG, bg)] (setReg s Reg.LANT_BG (BitVec.ofNat 64 bg))
  lutTake b s

/-- The wicks and their groups (WICKMAP). -/
def wicksTake (b : Bytes) (s : State) : State :=
  let w := secOf b 0x20
  let s := setFlds (groups.flatMap fun g => [(Reg.WLN_GCFG_GEN g, leAt w (4 * g) 1),
    (Reg.WLN_GCFG_PRESET g, leAt w (4 * g + 1) 1), (Reg.WLN_GCFG_EQ_REQ_EN g, leAt w (4 * g + 2) 1)]) s
  setFlds (wicks.flatMap fun n => [(Reg.SCAN_W_COLS_FIRST n, leAt w (96 + 4 * n) 2),
    (Reg.SCAN_W_COLS_COUNT n, leAt w (98 + 4 * n) 2)]) s

/-- The rails: a rail no longer in use is off (R265). VLCD's target follows the lens band (R266); VLCD that is up stands
where it is until an update slews it (R285). -/
def railsTake (b : Bytes) (s : State) : State :=
  let r := secOf b 0x60
  let s := setFld s Reg.RAIL_STAT_USE (leAt r 0 1)
  let vlcd := if railInUse s 3 && railUp s 3 then fld s (Reg.RAIL_CFG_TARGET 3) else 0
  let s := setFlds ([0, 1, 2, 3].flatMap fun i => [(Reg.RAIL_CFG_TARGET i, if i = 3 then vlcd else leAt r (8 + 8 * i) 2),
    (Reg.RAIL_CFG_DELAY i, leAt r (10 + 8 * i) 1), (Reg.RAIL_CFG_SLOPE i, leAt r (11 + 8 * i) 1),
    (Reg.RAIL_CFG_ILIM i, leAt r (12 + 8 * i) 2)]) s
  let s := forAll [0, 1, 2, 3] (fun i s => if railInUse s i then s else setRail s i .off) s
  if hasLens s && !railUp s 3 then setVlcd (lensEntry s) s else s

/-- TB0 is FREE unless SYNC_IN disciplines it (R443). -/
def syncDiscFix (s : State) : State :=
  if flag s Reg.TIME_CFG_SYNC_DISC then s else
  let s := setFld (setTbState (setSlewDir (setRun s 0 0) 0 0) 0 tbFree) (Reg.TIME_TB_STAT_SLEWING 0) 0
  fixTb3 { s with time := { s.time with locked := setErase 0 s.time.locked } }

/-- Time and chain (TIME, CHAIN). -/
def timeTake (b : Bytes) (s : State) : State :=
  let t := secOf b 0x71
  let c := secOf b 0x72
  let s := setFlds [(Reg.TIME_TICK_CTRL_SEL, leAt t 0 1), (Reg.TIME_CFG_TB3_SRC, leAt t 1 1),
    (Reg.TIME_CFG_AUTO_SWITCH, leAt t 2 1), (Reg.TIME_CFG_SYNC_DISC, leAt t 3 1), (Reg.TIME_CFG_SLEW_PPM, leAt t 4 1),
    (Reg.TIME_PTP_PORT_IPV4, leAt t 20 4), (Reg.TIME_PTP_PORT_PREFIX, leAt t 24 1), (Reg.TIME_PTP_LAT_RX, leAt t 28 2),
    (Reg.TIME_PTP_LAT_TX, leAt t 30 2), (Reg.CHN_CFG_ROLE, leAt c 0 1), (Reg.CHN_CFG_GEN, leAt c 1 1)] s
  let s := setRegs [(Reg.TIME_TICK_T0, leAt t 8 8), (Reg.TIME_SYNC, leAt t 16 4),
    (Reg.TIME_PTP_CFG 0, Nat.land (leAt t 32 4) 0x0FFF1FFF), (Reg.TIME_PTP_CFG 1, Nat.land (leAt t 36 4) 0x0FFF1FFF)] s
  let s := { s with time := { s.time with t0Frac := 0 } }
  ptpJoin (fixTb3 (setHandD (syncDiscFix s) 0))

/-- Event routes (EVENTS). -/
def routesTake (b : Bytes) (s : State) : State :=
  let e := secOf b 0x80
  setRegs ((List.range 256).map fun i => (Reg.HOST_ROUTE i, Nat.land (leAt e (2 * i) 2) 0x13F)) s

/-- The crossbar of LANTERNS after the replacement of faulted lanterns in the quads in use; what the other entries say is
ignored (R196, R197). -/
def lanternsOf (b : Bytes) (s : State) : List Nat :=
  let l := secOf b 0x21
  let us := (List.range 48).filter (quadInUse s)
  us.foldl (fun m q =>
    let x := m.getD q 0x3F
    if x < 50 ∧ lantFaulted s x then
      let sp := if flag s Reg.LANT_CTRL_AUTO_SPARE then
          (List.range 50).find? fun y => !lantFaulted s y && !us.any fun p => decide (m.getD p 0x3F = y)
        else none
      m.set q (sp.getD 0x3F)
    else m) ((List.range 48).map fun q => leAt l q 1 % 64)

def lanternsTake (b : Bytes) (s : State) : State :=
  fixLants (setFlds ((lanternsOf b s).zipIdx.flatMap fun x => [(xbarFld x.2, x.1), (xbarCurFld x.2, x.1)]) s)

/-- Index of the first output of a PLL among the 240 of CLOCKS, and its outputs (Table 15-2). -/
def outBase (p : Nat) : Nat := [0, 48, 96, 144, 192, 224, 229, 238].getD p 0
def outCount (p : Nat) : Nat := [48, 48, 48, 48, 32, 5, 9, 2].getD p 0

/-- The CLOCKS words of a PLL. DPLL's are the memory system's (R480). -/
def clockRegs (b : Bytes) (p : Nat) : List (Nat × Nat) :=
  let c := secOf b 0x70
  [(Reg.CLK_PLL_MULT p, leAt c (8 * p) 4), (Reg.CLK_PLL_SSC p, leAt c (8 * p + 4) 4)] ++
  (List.range (outCount p)).map fun o => (Reg.CLK_OUT p o, leAt c (72 + 4 * (outBase p + o)) 4)

/-- PLLs whose CLOCKS words changed relock, and what they clock retrains (R487, R527). -/
def clocksTake (b : Bytes) (s : State) : State :=
  let s := setFld s Reg.CLK_TPLL_CFG_REF (leAt (secOf b 0x70) 64 1 % 2)
  forAll ((List.range 8).filter (· ≠ 6)) (fun p s =>
    let s := setRegs (clockRegs b p) s
    let offs := (clockRegs b p).map Prod.fst ++ if p = 7 then [Reg.CLK_TPLL_CFG] else []
    if offs.all fun o => decide (reg s o = tblGet (resetOf o) s.clk.force o) then s
    else
      let s := relock p (pllForce p s)
      if p ≤ 4 then { s with clk := { s.clk with retrain := setInsert p s.clk.retrain } } else s) s

/-- Every field with an SI reset takes its value from the image in force (R520). -/
def imageRegs (b : Bytes) (s : State) : State :=
  let s := memmapTake b (rasterTake b (wicksTake b (railsTake b s)))
  let s := routesTake b (timeTake b s)
  let s := setFlds [(Reg.STR_BUDGET_SMEAS_S_MAX, leAt (secOf b 0x51) 6 2),
    (Reg.RMAP_AGING_STAT_CURVE, b2n (hasSec b 0x42)), (Reg.MFB_FREQ_TARGET, leAt (secOf b 0x31) 6 2)] s
  fixLeases (clocksTake b (lanternsTake b s))

/-! ### The ray map and the reel across activations (R119, R158, R527) -/

/-- No generation is in force and both slots are free. -/
def rmapNone (s : State) : State :=
  setFlds [(Reg.RMAP_GEN_CUR, 0), (Reg.RMAP_STAT_CUR_SLOT, 0), (Reg.RMAP_STAT_NOMINAL, 1)] (slotFree s)

/-- A staging in progress is abandoned; its command completes if the host link is up. -/
def stageAbandon (s : State) : State :=
  match s.rmap.job with
  | none => s
  | some (j, _) =>
    let s := stageFree (slotFree s)
    if fld s Reg.HOST_LINK_MODE ≠ 0 then complete j stRmapReplaced 0 0 s else s

/-- The quantities of Table 5-1 that GEOMETRY supplies, and the slot places, of two images agree (R136, R158). F_X and F_Y
are not in the table, and COM_H and SEG_W are of ZONES. -/
def sameMap (a b : Bytes) : Bool :=
  let same (id o n : Nat) : Bool := decide (sliceB (secOf a id) o n = sliceB (secOf b id) o n)
  same 0x10 0 20 && same 0x10 28 28 && same 0x30 304 24

/-- The ray map as an image comes into force in place of another. -/
def rmapAcross (old new : Option Bytes) (s : State) : State :=
  let s := stageAbandon s
  match old, new with
  | some a, some b => if sameMap a b then s else rmapNone s
  | _, _ => rmapNone s

/-- The reel is STOPPED and no content frame is current. -/
def reelStop (s : State) : State :=
  let s := setNc none { s with reel := { s.reel with cur := none, prev := none, atEnd := false, still := false,
                                                     probe := false, judged := none, ahead := none } }
  let s := { s with scan := { s.scan with cues := [], rep := 0 } }
  let s := setFlds [(Reg.REEL_STATE_STATE, 0), (Reg.LDEC_STAT_CUR, 0), (Reg.LDEC_STAT_CUR_VALID, 0), (Reg.LDEC_FRAME_CUR, 0),
    (Reg.LDEC_LAYERS_STATE, 0)] s
  reelCheck { s with wantLight := false }

/-! ### An image comes into force -/

/-- The image is in force: its registers, and what follows them. `src` is 1 memory, 2 slot A, 3 slot B. -/
def imageTake (b : Bytes) (src : Nat) (s : State) : State :=
  let s := rmapAcross s.img (some b) s
  let s := imageRegs b { s with img := some b }
  let spare := leAt (secOf b 0x31) 4 1
  let s := setFlds [(Reg.STR_STAT_SRC, src), (Reg.STR_GEN_GEN, imgGen b),
    (Reg.STR_STAT_SPARE_PENDING, b2n (decide (spare ≠ b2n s.dram.spare)))] s
  let s := realign false (setReg s Reg.TIME_TICK_K0 0)
  reelCheck (agingCalc (quadsFresh s))

/-- The provisional map (R531): no image is in force; one partition covers the whole capacity. -/
def provisionalTake (s : State) : State :=
  let s := rmapAcross s.img none s
  let s := { s with img := none, time := { s.time with t0Frac := 0 } }
  let s := memmapTake [] (rasterTake [] (wicksTake [] (railsTake [] s)))
  let s := timeTake [] s
  let s := forAll (List.range 256) (fun i s => resetReg s (Reg.HOST_ROUTE i)) s
  let s := setFlds [(Reg.STR_BUDGET_SMEAS_S_MAX, 0), (Reg.RMAP_AGING_STAT_CURVE, 0), (Reg.MFB_FREQ_TARGET, 0),
    (Reg.STR_STAT_SRC, 0), (Reg.STR_GEN_GEN, 0), (Reg.STR_STAT_SPARE_PENDING, 0)] s
  let s := setRegs [(Reg.MFB_PART_INFO 0, fld s Reg.MFB_CAPACITY_BYTES % 2 ^ 48 + 0x3F * 2 ^ 48), (Reg.LANT_SPARE, 0)] s
  let s := forAll (List.range 12) (fun i s => setReg (setReg s (Reg.LANT_XBAR i) 0) (Reg.LANT_XBAR_CUR i) 0) s
  let s := forAll ((List.range 50).filter fun l => !lantFaulted s l) (fun l s => resetReg s (Reg.LANT_STAT l)) s
  fixLeases (agingCalc s)

/-! ### Steps of a start (Table 17-5) -/

def startStep (n : Nat) (s : State) : State := setFld s Reg.STR_STAT_STEP n

/-- HOST_WAIT with its reason: 1 IMAGE, 2 RAILS. -/
def hostWait (why : Nat) (s : State) : State :=
  let s := setFlds [(Reg.STR_STAT_WHY, why), (Reg.STR_STAT_FAIL_STEP, fld s Reg.STR_STAT_STEP)] s
  startTimed (setLamp s .hostWait)

/-- Step 13: READY_DARK, and STRUCT_DONE (R539). -/
def begin13 (s : State) : State :=
  let s := startTimed (setLamp (startStep 13 s) .readyDark)
  let s := fixTables { s with dram := { s.dram with startTable := false } }
  raise evStructDone [(8, (fld s Reg.STR_STAT_SRC : Int) - 1), (32, fld s Reg.STR_GEN_GEN), (8, s.trigger)] s

/-- Step 11: chain addressing. CHAIN_HEAD, not stable in time, reads low (R555). -/
def begin11 (ball fast : Bool) (s : State) : State :=
  let high := ball && !fast
  let s := setLevel (startStep 11 s) inHead (b2n high)
  chainStart high (if fast then inputFault inHead 2 s else s)

/-- Step 10: wick training (R251). -/
def begin10 (s : State) : State := wlnTrain (startStep 10 s)

/-- Every group in use is UP or FAILED. -/
def groupsTrained (s : State) : Bool :=
  groups.all fun g => !groupOn s g || decide (groupState s g = 4 ∨ groupState s g = 5)

/-- Step 9: the emitter-matrix rails, in a sequence that runs already, or in one of their own. -/
def begin9 (s : State) : State := startRails (startStep 9 s)

/-- Step 8: VLCD; without a LENS section it is skipped. -/
def begin8 (s : State) : State :=
  let s := { lensAbort (startStep 8 s) with railHeld := false }
  if hasLens s then startRails s
  else begin9 (loadOptical { s with lens := { s.lens with phase := .idle } })

/-- Step 8 ends (R298), and step 9 follows. Without VLCD nothing can be recovered, and at step 9 the rails stay down until
RAIL_CTRL.UP (R268, R273, log 127). A recovery whose fault escalates ends the start. -/
def end8 (temps : List Int) (failed : List (Nat × Option Nat)) (s : State) : State :=
  let s := loadOptical (lensRecovery temps (!railInUse s 3 || decide (railPhase s 3 = .pgood)) failed s)
  if lamp s = .housekeeping then begin9 s else s

/-! ### STRUCT_ACTIVATE (R525 to R528) -/

def stStructRefused : Nat := 0xA0
def stStrSlot : Nat := 0xA1

/-- First page of a structure slot. -/
def slotPage (k : Nat) : Nat := 1024 + 256 * k

/-- Activation may run in this state (R526). In test mode the lamplighter does not leave READY_DARK (R425). -/
def actAllowed (s : State) : Bool :=
  match lamp s with
  | .hostWait => true
  | .readyDark => !flag s Reg.GEN_STATE_TEST
  | _ => false

/-- Steps 1 and 2 of Table 17-3 for a slot, its bytes, and the CRC that step 7 compares: the record's,
when the record names this slot. -/
def slotImage (k : Nat) (s : State) : State × Bytes × Option Rej × Option Nat :=
  let o := 256 * slotPage k
  let n := leAt (nvmBytes s (o + 8) 4) 0 4
  let m := if 96 ≤ n ∧ n ≤ 65536 then n else 64
  let crc := if fld s Reg.STR_ACTREC_SLOT = k then some (fld s Reg.STR_ACTREC_CRC_CRC) else none
  let bad := (List.range (ceilDiv m 8)).find? fun i => nvmLost s (o / 8 + i)
  let torn := match s.tornPage with
    | some pg => decide (slotPage k ≤ pg ∧ pg < slotPage k + 256)
    | none => false
  let r : Option Rej := match bad with
    | some i => some (0x3D, 0, 8 * i)
    | none => if torn then some (0x3E, 0, 0) else none
  (nvmTouch 7 o m s, nvmBytes s o 65536, r, crc)

/-- The image of a command or a start, by source. The loader reads device memory on the host allotment (R18). -/
def sourceImage (source src len : Nat) (s : State) : State × Bytes × Nat × Option Rej × Option Nat :=
  if source = 0 then
    let p := (peekRange s grpHost src len).findIdx? Option.isNone
    let m := memRead grpHost src len s
    (m.1, m.2.1, len, if m.2.2 then some (0x3D, 0, p.getD 0) else none, none)
  else
    let x := slotImage (source - 1) s
    (x.1, x.2.1, 65536, x.2.2.1, x.2.2.2)

/-- Steps 3 and 4 of R527, or their wait for the panel rails: step 4 once the emitter rails are down. -/
def actRails (s : State) : State :=
  match s.act with
  | some a =>
    if a.begun && !a.taken && decide (fld s Reg.RAIL_STAT_SEQ = 0) then
      if downOrder.any (railUp s) then railsDown false s
      else
        let s := imageTake a.image a.source { s with act := some { a with taken := true } }
        let rate := leAt (secOf a.image 0x31) 6 2
        begin8 (if rate = fld s Reg.MFB_STAT_RATE then s else freqGo rate s)
    else s
  | none => s

/-- An activation that has begun step 3 and ends before step 4 leaves the new image in force (R528). -/
def actInForce (s : State) : State :=
  match s.act with
  | some a => if a.begun && !a.taken then imageTake a.image a.source { s with act := some { a with taken := true } } else s
  | none => s

/-- Step 3 of R527. From here the command completes with OK. -/
def actBegin (s : State) : State :=
  match s.act with
  | none => s
  | some a =>
    if !actAllowed s then complete a.job stDeviceState 0 0 { s with act := none } else
    let s := setFld (setLamp { s with act := some { a with begun := true }, trigger := 3 } .housekeeping) Reg.STR_STAT_WHY 0
    actRails (reelStop (groupsDown s))

/-- The activation record that step 2 writes (R523). -/
def actRecordWrite (s : State) (a : Activation) : NvmWr :=
  recWrite s recAct (natLe a.slot 4 ++ natLe (imgGen a.image) 4 ++ natLe (imgLen a.image) 4 ++ natLe (imgCrc a.image) 4) 3 .actRecord

/-- Step 2: the pages, then the record, then step 3. -/
def actStore (s : State) : State :=
  match s.act with
  | none => s
  | some a =>
    if a.pagesLeft ≠ 0 then
      (List.range a.pagesLeft).foldl (fun s i =>
        nvmWrite ⟨slotPage a.slot + i, 0, (a.image.drop (256 * i)).take 256, 3, .structPage⟩ s) s
    else if a.recording then nvmWrite (actRecordWrite s a) s
    else actBegin s

/-- A page of the image, or the record, has been written. -/
def actWritten (record ok : Bool) (s : State) : State :=
  match s.act with
  | none => s
  | some a =>
    if !ok then
      actFailed (nvmFixQueue { s with nvmQueue := s.nvmQueue.filter fun w => decide (w.why ≠ .structPage) })
    else if record then actBegin (loadActRecord s)
    else
      let s := { s with act := some { a with pagesLeft := a.pagesLeft - 1 } }
      if a.pagesLeft = 1 then actStore s else s

/-- Body of STRUCT_ACTIVATE. -/
def acSource (d : Bytes) : Nat := dByte d 4
def acStore (d : Bytes) : Bool := bitOf (dByte d 5) 0
def acSlot (d : Bytes) : Nat := dByte d 5 / 2 % 2
def acBodyOk (d : Bytes) : Bool := bodyZero d [(4, 5), (8, 19)] && decide (dByte d 5 < 4)

/-- A body rule is broken (R525). -/
def acBroken (s : State) (d : Bytes) : Bool :=
  let src := leAt d 8 8
  let n := leAt d 16 4
  decide (2 < acSource d) || (acStore d && decide (acSource d ≠ 0)) ||
  (decide (acSource d = 0) && (decide (src % 64 ≠ 0 ∨ n < 96 ∨ 65536 < n) || !inHdm s src n))

def structActivateRun (j : Job) (d : Bytes) (s : State) : State :=
  if !actAllowed s then complete j stDeviceState 0 0 s
  else if acBroken s d then complete j stBadBody 0 0 s
  else if acStore d && (decide (fld s Reg.STR_ACTREC_SLOT = acSlot d) || blockProtected s (slotPage (acSlot d))) then
    complete j stStrSlot 0 0 s
  else
    let x := sourceImage (acSource d) (leAt d 8 8) (leAt d 16 4) s
    let b := x.2.1
    let r := match x.2.2.2.1 with
      | some r => (x.1, some r)
      | none => match validateTo13 x.1 b x.2.2.1 x.2.2.2.2 with
        | some r => (x.1, some r)
        | none => validateFrom14 b x.1
    match r.2 with
    | some e => complete j stStructRefused 0 0 (structReject e (acSource d) 3 r.1)
    | none =>
      let img := b.take (imgLen b)
      let pages := if acStore d then ceilDiv img.length 256 else 0
      let slot := if acStore d then acSlot d else acSource d - 1
      let a : Activation := ⟨img, acSource d + 1, j, pages, slot, acStore d || decide (acSource d ≠ 0), false, false⟩
      actStore { r.1 with act := some a }

/-- A page of the slot that the command reads is being written: the loader waits for the write to finish (R503, log 47). -/
def slotBeingWritten (s : State) (d : Bytes) : Bool :=
  match s.nvmRun with
  | some w => decide (1 ≤ acSource d ∧ acSource d ≤ 2 ∧ slotPage (acSource d - 1) ≤ w.page ∧ w.page < slotPage (acSource d - 1) + 256)
  | none => false

def cmdStructActivate : Cmd where
  op := 0x80
  bodyOk := acBodyOk
  ready s d := !actAllowed s || (s.act.isNone && !slotBeingWritten s d)
  run := structActivateRun

/-! ### The rails and what waits for them -/

end Sys2Proof.Machine
end

