-- ==== Sys2Proof/Machine/NvmDone.lean ====
section
/-! DEFINITION. The end of a write of the non-volatile store (R502) and what it means to whoever asked for
it (R431, R435, R465, R496, R509 to R514, R523, R563). -/

namespace Sys2Proof.Machine

/-- Steps 3 and 4 of R502 for a main-block write: the groups are programmed, the journal cell reads DONE and
the block is free. `ok` false: the groups keep their bytes. -/
def mainBlockEnd (w : NvmWr) (ok : Bool) (s : State) : State :=
  let s := if ok then nvmProgram (256 * w.page + w.off) w.data s else s
  let q := fld s Reg.NVM_WSEQ_MAIN
  let s := nvmProgram (journalAt false q) (journalCell w q 0xF0) s
  let s := incSat { s with nvmRun := none } Reg.NVM_CNT_WRITES 1
  setFld (setFld s Reg.NVM_STAT_BUSY 0) Reg.NVM_STAT_PAGE 0

/-- A patrol rewrite programs what its group reads now; a group that has become uncorrectable stays so
(R496). -/
def patrolWrite (w : NvmWr) (ok : Bool) (s : State) : State :=
  let o := 256 * w.page + w.off
  if nvmLost s (o / 8) then mainBlockEnd w false s
  else
    let s := mainBlockEnd { w with data := nvmBytes s o 8 } ok s
    if ok then incSat s Reg.NVM_PATROL_REWRITES 1 else s

/-- A queued candle-hour page write takes the cells after those that read now (R499). -/
def candleAgain (s : State) (w : NvmWr) : List NvmWr :=
  candleWrites s ((w.page - 4096) / 16) (w.off / 8) ((List.range (w.data.length / 8)).map fun i => leAt w.data (8 * i) 5)

/-- Queued writes whose place or sequence follows from the write that has just ended. -/
def requeue (w : NvmWr) (s : State) : State :=
  let f := fun (x : NvmWr) => match w.why, x.why with
    | .candle, .candle => if x.page / 16 = w.page / 16 then candleAgain s x else [x]
    | .rank c, .rank k => if c = k then [recWrite s (recRank c) (rankPayload s c) 3 (.rank c)] else [x]
    | _, _ => [x]
  { s with nvmQueue := s.nvmQueue.flatMap f }

/-- Completes a command whose record has been written, or has not. -/
def storeDone (j : Job) (ok : Bool) (s : State) : State := complete j (if ok then stOK else stStoreFail) 0 0 s

/-- A mark write of a slot ended: HI is followed by LO (R432); a failure leaves the descriptor unaccepted
(R435). -/
def markWritten (k m : Nat) (hi ok : Bool) (s : State) : State :=
  if !ok then bcastStoreFail k (markFailed k s)
  else if hi then nvmWrite (markWrite s (2 * k + 1) (m / 256 % 2 ^ 40) (.markLo k m)) s
  else bcastRetry (markDone k m s)

/-- A write for a key change ended (R435). -/
def keyWritten (k : Nat) (zero ok : Bool) (s : State) : State :=
  if !ok then bcastRetry (keyFailed k s)
  else if zero then
    match keyPending s k with
    | some p => keyNextWrite p s
    | none => s
  else bcastRetry (keyDone k s)

/-- A page of the patch store ended; the last one installs the patch (R514). Where VIN_WARN has discarded the pages after it,
the command has ended with them (R504). -/
def patchWritten (j : Job) (p : Patch) (left : Nat) (ok : Bool) (s : State) : State :=
  if !ok then
    if left ≠ 0 ∧ !(s.nvmQueue.any fun w => isPatch w.why) then s else
    storeDone j false (nvmFixQueue { s with nvmQueue := s.nvmQueue.filter fun w => !isPatch w.why })
  else if left ≠ 0 then s
  else
    let l := (s.patches.filter fun x => decide (x.page < p.page)) ++ [p] ++ s.patches.filter fun x => decide (p.page < x.page)
    storeDone j true { s with patches := l }

/-- BP in force judges the writes that wait: those of pages it now covers do not start (R513). A host write ends as refused, a
page of a structure slot as not written. -/
def protectQueue (s : State) : State :=
  let hit := s.nvmQueue.filter fun w => blockProtected s w.page
  hit.foldl (fun s w => match w.why with
    | .host j => nvmComplete j 0x82 0 w.page s
    | .structPage => actWritten false false s
    | _ => s) (nvmFixQueue { s with nvmQueue := s.nvmQueue.filter fun w => !blockProtected s w.page })

/-- What the end of a write does for its owner. -/
def nvmOwner (w : NvmWr) (ok : Bool) (s : State) : State :=
  match w.why with
  | .host j => nvmComplete j 0 (fld s Reg.NVM_WSEQ_MAIN) w.page s
  | .markHi k m => markWritten k m true ok s
  | .markLo k m => markWritten k m false ok s
  | .markZero k _ => keyWritten k true ok s
  | .key k => keyWritten k false ok s
  | .protection j pw =>
    let s := protectQueue (loadProtection s)
    storeDone j ok (if pw && ok then endSession s else s)
  | .rail j => storeDone j ok (loadRailAbs s)
  | .pin j a => storeDone j ok (if ok then pinChanged a s else s)
  | .structPage => actWritten false ok s
  | .actRecord => actWritten true ok s
  | .patch j p left => patchWritten j p left ok s
  | .snapshot => snapPageDone ok s
  | _ => s

/-- The running main-block write ends. What its owner writes next queues: the block is taken until the end
of the step. -/
def mainBlockFinish (ok : Bool) (s : State) : State :=
  match s.nvmRun with
  | none => s
  | some w =>
    let good := ok || (match w.why with
      | .host _ => true
      | _ => false)
    let s := if w.why = .patrol then patrolWrite w good s else mainBlockEnd w good s
    let s := nvmOwner w good { requeue w s with nvmRun := some w }
    { s with nvmRun := none }

/-- The running main-block write ends and the next queued one starts. -/
def mainBlockDone (ok : Bool) (s : State) : State := nvmStart (mainBlockFinish ok s)

end Sys2Proof.Machine
end

