-- ==== Sys2Proof/Machine/Startup.lean ====
section
/-! DEFINITION. Cold start, warm reset, function-level reset and loss of VIN (R420, R507, R532, R535 to R537), what
a start loads from the non-volatile store (R549, R565), and the steps of Table 17-5. -/

namespace Sys2Proof.Machine

/-! ### Loss of the supply (R507, Table 17-4) -/

/-- The bytes of a write that fall in its groups `a` up to `b`, counted from its first: place and bytes. -/
def groupPart (w : NvmWr) (a b : Nat) : Nat × Bytes :=
  let o := 256 * w.page + w.off
  let lo := max o (8 * (o / 8 + a))
  let hi := min (o + w.data.length) (8 * (o / 8 + b))
  (lo, sliceB w.data (lo - o) (hi - lo))

/-- Marks a group uncorrectable. -/
def loseGroup (g : Nat) (s : State) : State := { s with nvmBad := tblSet 0 s.nvmBad g 2 }

/-- A write is torn (R506, R507). How far it had come is free: `k` groups programmed and the next in progress,
which reads old, new or uncorrectable; every group programmed; or the journal cell itself being programmed,
at the write's start, at its end, or just rewritten DONE. -/
def tearWrite (lens : Bool) (w : NvmWr) (s : State) : State :=
  let n := (w.off + w.data.length - 1) / 8 - w.off / 8 + 1
  let k := Config.tornGroups s.free % (n + 4)
  let r := Config.tornRead s.free % 3
  let q := wseq s lens
  let part := fun (b : Nat) (s : State) => nvmProgram (groupPart w 0 b).1 (groupPart w 0 b).2 s
  let s := drew s
  if k < n then
    let s := part (if r = 1 then k + 1 else k) s
    if r = 2 then loseGroup ((256 * w.page + w.off) / 8 + k) s else s
  else if k = n then part n s
  else if k = n + 1 then loseGroup (journalAt lens q / 8) s
  else if k = n + 2 then loseGroup (journalAt lens q / 8) (part n s)
  else nvmProgram (journalAt lens q) (journalCell w q 0xF0) (part n s)

/-- A running write is torn. A patrol rewrite programs what its group reads now, and nothing in a group that has become
uncorrectable (R496). -/
def tearPresent (lens : Bool) (w : NvmWr) (s : State) : State :=
  if w.why ≠ .patrol then tearWrite lens w s else
  let o := 256 * w.page + w.off
  let t := tearWrite lens { w with data := nvmBytes s o 8 } s
  if nvmLost s (o / 8) then loseGroup (o / 8) t else t

/-- What stays without supply (Table 17-6): the non-volatile store, and the levels at the inputs. -/
def powerOff (s : State) : State :=
  let t : State := { ns := s.ns, free := s.free, out := s.out, pending := s.pending, nvm := s.nvm, nvmBad := s.nvmBad,
                     patches := s.patches, snuff := { inputHigh := s.snuff.inputHigh } }
  setFlds [(Reg.MGMT_IN_STAT_LEVEL, fld s Reg.MGMT_IN_STAT_LEVEL), (Reg.GEN_STATE_PROV_EN, fld s Reg.GEN_STATE_PROV_EN)] t

/-- VIN_LOSS: VINT is out of regulation and the lamplighter is in OFF. -/
def vinLoss (s : State) : State :=
  if lamp s = .off then s else
  let s := match s.nvmRun with
    | some w => tearPresent false w s
    | none => s
  let s := match s.lensRun with
    | some w => tearPresent true w s
    | none => s
  powerOff s

/-! ### The lamp log at a cold start (R549, R563 to R566) -/

/-- The place below `n` that is valid and whose sequence of `w` bits is latest. -/
def newestOf (w : Nat) (valid : Nat → Bool) (seq : Nat → Nat) : Nat → Option Nat
  | 0 => none
  | n + 1 =>
    let m := newestOf w valid seq n
    if !valid n then m else
    match m with
    | none => some n
    | some k => some (if 0 < sdiff w (seq n) (seq k) then n else k)

/-- A place of `n` bytes with a magic number whose CRC-32C and groups are good. -/
def magicValid (s : State) (o n magic : Nat) (mask : Bytes → Bytes) : Bool :=
  decide (leNat (nvmBytes s o 4) = magic) && !nvmAnyLost s o n &&
  decide (leNat (nvmBytes s (o + n - 4) 4) = crc32c (mask (nvmBytes s o (n - 4))))

def snapAt (i : Nat) : Nat := 256 * (6209 + 8 * i)
def snapValid (s : State) (i : Nat) : Bool :=
  magicValid s (snapAt i) 2048 0x565A4C4C id && decide (leNat (nvmBytes s (snapAt i + 4) 2) = 0x0100)
def snapNewest (s : State) : Option Nat := newestOf 24 (snapValid s) (fun i => leNat (nvmBytes s (snapAt i + 8) 3)) 237

def flushAt (i : Nat) : Nat := 256 * 6176 + 128 * i
def flushNewest (s : State) : Option Nat :=
  newestOf 24 (fun i => magicValid s (flushAt i) 128 0x565A4C46 id) (fun i => leNat (nvmBytes s (flushAt i + 4) 3)) 2

def faultAt (e : Nat) : Nat := 256 * 6177 + 128 * e
def faultNewest (s : State) : Option Nat :=
  newestOf 32 (fun e => magicValid s (faultAt e) 128 0x565A4C58 fun b => spliceB b 0x0B [0#8])
    (fun e => leNat (nvmBytes s (faultAt e + 4) 4)) 64

/-- `n` words of 4 bytes as a table, each times `k`. -/
def wordsTbl (b : Bytes) (off n k : Nat) : Tbl Nat :=
  (List.range n).foldl (fun t i => tblSet 0 t i (k * leAt b (off + 4 * i) 4)) []

/-- The counts of a snapshot (Table 18-6). -/
def snapLog (b : Bytes) : LampLog :=
  { onSec := 60 * leAt b 0x0C 4, tj := wordsTbl b 0x10 16 60, vin := wordsTbl b 0x50 16 60, rate := wordsTbl b 0x90 8 60,
    counts := wordsTbl b 0xB0 7 1, lensUpd := wordsTbl b 0xD0 16 1, relocks := wordsTbl b 0x110 192 1,
    rankCe := wordsTbl b 0x410 32 1 }

/-- Adds a flush record to the counts (R564, R565). -/
def flushAdd (b : Bytes) (l : LampLog) : LampLog :=
  let sec := leAt b 0x0C 4
  let add := fun (t : Tbl Nat) (i n : Nat) => tblSet 0 t i (satAdd 32 (tblGet 0 t i) n)
  { l with
    onSec := l.onSec + sec, tj := bump l.tj (leAt b 0x10 1) sec, vin := bump l.vin (leAt b 0x11 1) sec,
    rate := bump l.rate (leAt b 0x12 1) sec,
    counts := add (add (add l.counts 1 (leAt b 0x14 2)) 2 (leAt b 0x16 2)) 3 (leAt b 0x18 2),
    sinceSnuff := leAt b 0x14 2, sinceRail := leAt b 0x16 2, sinceVin := leAt b 0x18 2, sinceSec := sec }

/-- The counts of the newest snapshot, with the newest flush record when it names that snapshot (R565). -/
def loadLog (s : State) : State :=
  let s := nvmTouch 8 (256 * 6176) (256 * 1929) s
  let l : LampLog := match snapNewest s with
    | some i =>
      let b := nvmBytes s (snapAt i) 2048
      { snapLog b with base := { place := i, seq := leAt b 8 3 }, snapAny := true }
    | none => {}
  let s := setFlds [(Reg.MGMT_LOG_STAT_PLACE, l.base.place), (Reg.MGMT_LOG_STAT_SEQ, l.base.seq)] s
  let l := { l with cyclePending := true }
  match flushNewest s with
  | some i =>
    let b := nvmBytes s (flushAt i) 128
    let l := { l with flushSeq := leAt b 4 3 }
    if leAt b 8 4 = l.base.seq then setFld { s with log := flushAdd b l } Reg.MGMT_LOG_STAT_FLUSHED 1
    else { s with log := l }
  | none => { s with log := l }

/-- The newest fault-ring entry; unacknowledged, FIRST_FATAL is loaded from it (R549, R566). -/
def loadFaultRing (s : State) : State :=
  match faultNewest s with
  | none => s
  | some e =>
    let b := nvmBytes s (faultAt e) 128
    let s := setFld { s with log := { s.log with ringSeq := leAt b 4 4, ringAny := true, ffEntry := e } } Reg.MGMT_LOG_STAT_RING e
    if leAt b 0x0B 1 = 0xAA then s
    else setRegs ([(Reg.MGMT_FF_SRC, leAt b 8 1 + leAt b 9 1 % 8 * 2 ^ 8 + leAt b 0x0A 1 % 16 * 2 ^ 12 + 2 ^ 16 + 2 ^ 17),
        (Reg.MGMT_FF_TIME, leAt b 0x10 8)] ++
      [0, 1, 2, 3].map fun i => (Reg.MGMT_FF_DATA i, leAt b (0x18 + 8 * i) 8)) s

/-! ### Step 2: the management core boots -/

/-- What a cold start reads from the store before step 3. -/
def loadStore (s : State) : State :=
  let s := loadIdentity (tornScans s)
  let s := setSFld s Reg.MGMT_THERM_CFG_WARN (tjMax s / 16 - 10)
  let s := loadCandle (loadActRecord (loadPin (loadRailAbs (loadProtection (loadKeys s)))))
  loadFaultRing (loadLog s)

/-- COLD_START: VIN is good and the lamplighter leaves OFF. VIN reads at least 9.00 V, a value the spec leaves
open (log 6). -/
def coldStart (s : State) : State :=
  if lamp s ≠ .off then s else
  let s := powerOff s
  let s := setFld (drew s) Reg.RAIL_VIN_MV (900 + Config.freeNat s.free % 64636)
  let s := startStep 2 (setLamp { s with trigger := 1, startAt := s.ns } .housekeeping)
  let s := setLevel (setLevel (setLevel s inSnuff (b2n s.snuff.inputHigh)) inReset 1) inAlert 1
  let s := loadStore s
  if s.snuff.inputHigh then s else assertPath 2 s

/-! ### Warm reset (R536, R537) -/

/-- Every ring, the MSI-X table and the password session cleared; completions of running commands go nowhere, and
the copies of NVM_READs run on (R420). -/
def hostClear (s : State) : State :=
  let s := { s with rings := [], msix := [], pba := [], flr := s.flr + 1 }
  endSession (setReg (setReg s Reg.HOST_VEC_SENT 0) Reg.HOST_VEC_LATE 0)

/-- The rings' registers at their reset values. -/
def ringRegsReset (s : State) : State :=
  forAll (List.range 8) (fun r s =>
    forAll [Reg.CMD_RING_BASE r, Reg.CMD_RING_CFG r, Reg.CMD_RING_PTR r, Reg.CMD_RING_CTRL r, Reg.CMD_CQ_BASE r,
      Reg.CMD_CQ_PTR r, Reg.CMD_RING_STAT r] (fun o s => resetReg s o) s) s

/-- The lens waveform stops and its common is OPEN (R297); an update that waits for VLCD is given up. -/
def lensReset (s : State) : State :=
  let s := lensAbort s
  { s with lens := { s.lens with phase := .idle, forced := [], forceJob := none } }

/-- The panel rails have been discharged (Table 9-5). -/
def railsReset (s : State) : State :=
  railActs 0 0 (setFld { forAll [0, 1, 2, 3] (fun i s => setRail s i .off) s with railThen := false, railFaulted := false, railHeld := false }
    Reg.RAIL_STAT_SEQ 0)

/-- Every channel is in self-refresh: its requests are gone, every row is closed and every predictor reads 2 (R321, R335). -/
def dramReset (s : State) : State :=
  let s := if s.dram.freqRun.isSome then setDpll (fld s Reg.MFB_STAT_RATE) s else s
  let s := { s with dram := { s.dram with arb := [], stalled := [], promoted := [], sampled := [], debt := [],
                                          freqRun := none, freqHeld := none, startTable := false, selfRefresh := true,
                                          banks := [], setUp := false, margin := [] } }
  let s := forAll (List.range 8) (fun c s => fixBehind c s) (setFld s Reg.MFB_FREQ_PENDING 0)
  fixGo (trainStep 0 (forAll (List.range 7) fixTags s))

/-- Commits, witness rectangles, leases, overlay planes and the raster's own state (Table 17-6). -/
def scanReset (s : State) : State :=
  let keep := fun (t : Tbl DWord) => t.filter fun p =>
    decide (p.1 < 0x300100) || decide (0x300300 ≤ p.1 ∧ p.1 < 0x301000) || decide (0x302000 ≤ p.1)
  let s := stopRaster s
  let s := { s with regs := keep s.regs, scan := { force := keep s.scan.force }, leaseRaised := false }
  let s := { s with optPend := [], optArmed := [] }
  setFld (resetReg (resetReg s Reg.SCAN_GEN) Reg.SCAN_STAT) Reg.SCAN_CTRL_LUT_CUR 0

/-- PTP and the beacon servo start again in ACQUIRING, with no master selected; every base keeps counting (R456). -/
def timeReset (s : State) : State :=
  let s := { s with time := { s.time with ptp := [], lockRun := [] } }
  let s := forAll [0, 1] (fun d s =>
    setTbState (setReg (setReg s (Reg.TIME_PTP_STAT d) 0) (Reg.TIME_PTP_GM d) 0) (d + 1) tbAcquiring) s
  if tb3Copies s then fixTb3 s else setTbState s 3 tbAcquiring

/-- The chain ports are down until step 11. Broadcasts that were accepted or wait end with the reset, like the commands of the
rings, and raise nothing (log 87); SEQ goes on (R473). -/
def chainReset (s : State) : State :=
  setReg (setReg (setReg { s with chain := { seq := s.chain.seq } } Reg.CHN_STAT 0) (Reg.CHN_PORT_STAT 0) 0) (Reg.CHN_PORT_STAT 1) 0

/-- Each set slot's last counter is taken to be its mark (R431). -/
def marksAsLast (s : State) : State :=
  forAll [0, 1, 2, 3] (fun k s =>
    if slotSet s k then setFld s (Reg.CMD_KEY_CTR_LAST k) (fld s (Reg.CMD_KEY_MARK_MARK k)) else s) s

/-- The causes that still hold assert their paths again (R553). -/
def pathsAgain (s : State) : State :=
  let s := if s.snuff.inputHigh then s else assertPath 2 s
  let s := if s.snuff.vinHigh then s else assertPath 4 s
  let s := if groups.any (headFaulty s) then assertPath 5 s else s
  if critTemp s ≤ sfld s Reg.MGMT_THERM_STAT_TJ then assertPath 6 s else s

/-- Before a warm reset takes hold: the head is blanked, writes of the store in progress end, host writes that
wait are dropped (R504), the lens and the rails stop. -/
def warmDown (s : State) : State :=
  let s := sendBlank (lowPath s) s
  let s := lensReset (lensBlockDone true (stageAbandon s))
  let s := mainBlockFinish true s
  let s := nvmFixQueue { s with nvmQueue := s.nvmQueue.filter fun w => decide (w.prio ≠ 5) }
  railsReset (groupsDown s)

/-- What a warm reset clears (Table 17-6). -/
def warmClear (s : State) : State :=
  let s := actInForce s
  let s := bltAbort (hleAbort { s with act := none, cand := none, orderly := none, wantLight := false, rowZero := false,
                                       held := none, hdm := [], cxlRegs := [], linkLost := false, restarting := false,
                                       nvmReads := [] })
  let s := uniFree { s with rmap := { s.rmap with push := none, acc := [] }, wln := {} }
  let s := setRegs [(Reg.RMAP_UNI_STAT, 0), (Reg.HOST_APER, 0)] (ringRegsReset (hostClear s))
  let s := setFlds [(Reg.HOST_LINK_MODE, 0), (Reg.HOST_LINK_SPEED, 0), (Reg.HOST_LINK_WIDTH, 0), (Reg.GEN_STATE_TEST, 0),
    (Reg.MGMT_SNUFF_STAT_HOLD, 0), (Reg.MGMT_SNUFF_STAT_LOW, 0), (Reg.STR_STAT_WHY, 0)] s
  let s := marksAsLast (chainReset (timeReset (reelStop (dramReset (scanReset s)))))
  fixTables (fixLeases s)

/-- WARM_RESET. A hot reset and RESET_N do the same (R405). -/
def warmReset (s : State) : State :=
  if lamp s = .off then s else
  let s := warmClear (warmDown s)
  let s := logCount 4 (incSat s Reg.STR_BOOT_WARM 1)
  let s := startStep 2 (setLamp { s with trigger := 2, startAt := s.ns } .housekeeping)
  nvmStart (pathsAgain (tornScans s))

/-! ### Function-level reset (R420) -/

/-- FUNCTION_LEVEL_RESET: every ring stops and is reset; HZ_JOBs and the BLIT end at once (R377, R400). -/
def flReset (s : State) : State :=
  if lamp s = .off then s else
  let s := forAll (List.range 8) (fun r s =>
    setFlds [(Reg.CMD_RING_STAT_STATE r, 0), (Reg.CMD_RING_STAT_INFLIGHT r, 0)] (ringClear r (ringDisable r s))) s
  hostClear (bltAbort (hleAbort s))

/-! ### Steps 3 and 4: clocks and regulators -/

/-- Registers of a PLL under ROM defaults: MULT and the dividers of Table 15-2, every output enabled. DPLL
starts at the lowest data rate's 9.6 GHz. -/
def romClock (p : Nat) : List (Nat × Nat) :=
  let half := 2 ^ 21
  let mult := if p ≤ 4 then 165 * half else if p = 5 then 240 * 2 * half else if p = 6 then 384 * 2 * half else 200 * 2 * half
  let div := fun (o : Nat) =>
    if p = 4 ∧ 8 ≤ o then 8 else if p ≤ 4 then 1 else if p = 5 then [5, 4, 5, 15, 48].getD o 1
    else if p = 6 then (if o = 8 then 16 else 4) else if o = 0 then 10 else 50
  (Reg.CLK_PLL_MULT p, mult) :: (List.range (outCount p)).map fun o => (Reg.CLK_OUT p o, div o + 2 ^ 16)

/-- A PLL starts from the CLOCKS section in force, or from ROM defaults, which are in force but read in no
register. -/
def pllStart (p : Nat) (s : State) : State :=
  relock p (match s.img with
  | some b => if p = 6 then s else pllForce p (setRegs (clockRegs b p) s)
  | none => forAll (List.range (romClock p).length) (fun i s =>
      let x := (romClock p).getD i (0, 0)
      { s with clk := { s.clk with force := tblSet (resetOf x.1) s.clk.force x.1 (BitVec.ofNat 64 x.2) } }) s)

/-- Step 3. TPLL runs on through a warm reset. -/
def begin3 (s : State) : State :=
  forAll ((List.range 8).filter fun p => decide (s.trigger ≠ 2 ∨ p ≠ 7)) pllStart (startStep 3 s)

/-- The references of locked PLLs have edges. -/
def refsPresent (s : State) : State :=
  forAll (((List.range 8).filter fun p => decide (pllState s p = 2)).map (pllRef s))
    (fun i s => setFld s ⟨Reg.CLK_REF_STAT, i, i⟩ 1) s

/-- Step 4. A warm reset does not sequence the regulators again. -/
def begin4 (s : State) : State :=
  let s := startStep 4 s
  if s.trigger = 2 then s else vrmBegin s

/-- Step 3 ends: each PLL has locked or has timed out. -/
def end3 (locked : Nat) (s : State) : State :=
  let s := forAll ((List.range 8).filter fun p => decide (pllState s p = 1)) (fun p s =>
    if bitOf locked p then pllLocked p s else pllTimeout p s) s
  let s := refsPresent s
  if lamp s = .housekeeping then begin4 s else s

/-! ### Step 6: the image -/

/-- Room, bytes, source and first checks of the image this start reads (R524, R529). -/
def startImage (s : State) : State × Bytes × Nat × Nat × Option Rej × Option Nat :=
  match s.img, s.trigger with
  | some b, 2 => (s, b, b.length, fld s Reg.STR_STAT_SRC, none, none)
  | _, _ =>
    let k := fld s Reg.STR_ACTREC_SLOT
    let x := sourceImage (if k = 1 then 2 else 1) 0 0 s
    (x.1, x.2.1, x.2.2.1, if k = 1 then 3 else 2, x.2.2.2.1, x.2.2.2.2)

/-- STRUCT_REJECT of a start. -/
def startReject (r : Rej) (src : Nat) (s : State) : State :=
  structReject r (src - 1) s.trigger (setFld { s with cand := none } Reg.STR_STAT_FAIL_STEP (fld s Reg.STR_STAT_STEP))

/-- Step 7 begins: every channel leaves self-refresh and trains from step 1 (R334, R335). A frequency change that runs trains by
itself. -/
def trainBegin (s : State) : State :=
  if s.dram.freqRun.isSome then s else trainStep 1 { s with dram := { s.dram with selfRefresh := false } }

/-- Step 6, and the start of step 7. -/
def run6 (s : State) : State :=
  let x := startImage (startStep 6 s)
  let b := x.2.1
  let src := x.2.2.2.1
  let r := match x.2.2.2.2.1 with
    | some r => some r
    | none => validateTo13 x.1 b x.2.2.1 x.2.2.2.2.2
  let s := match r with
    | some e => startReject e src x.1
    | none => { x.1 with cand := some (b.take (imgLen b), src) }
  trainBegin (startStep 7 { s with dram := { s.dram with startTable := decide (s.trigger = 1) } })

/-- A write of a page from `a` up to `b` runs: what reads there waits for it (R503). -/
def writesIn (s : State) (a b : Nat) : Bool :=
  match s.nvmRun with
  | some w => decide (a ≤ w.page ∧ w.page < b)
  | none => false

/-- Step 4 ends: every regulator is on, or one has failed. Step 5 begins at once and passes (Table 17-5). -/
def end4 (fail : Option (Nat × Nat)) (s : State) : State :=
  match fail with
  | some (r, c) => if r < 8 then vrmFail r c (fld s (Reg.RAIL_VRM_STAT_STATUS r)) s else s
  | none =>
    if writesIn s 1024 1536 then s
    else if (List.range 8).all fun r => !vrmPresent s r || decide (vrmState s r = 3) then fixTables (run6 (startStep 5 s)) else s

/-! ### Step 7: DRAM -/

/-- State that the rank record binds a rank to, 0 for none (R347). -/
def rankBound (s : State) (c p : Nat) : Nat :=
  match recRead s (recRank c) with
  | some b => if leAt b (8 * p + 4) 4 = serialOf s c p then leAt b (8 * p) 4 else 0
  | none => 0

/-- A record names a DIMM that is no longer there. -/
def rankStale (s : State) (c : Nat) : Bool :=
  match recRead s (recRank c) with
  | some b => (List.range 4).any fun p => decide (leAt b (8 * p) 4 ≠ 0 ∧ leAt b (8 * p + 4) 4 ≠ serialOf s c p)
  | none => false

/-- Ranks of a channel as a cold start finds them (R340, R347). -/
def rankSetup (spare : Bool) (c : Nat) (s : State) : State :=
  match s.dram.pop with
  | none => s
  | some q =>
    let use := usableRanks q.ranks spare
    let s := forAll (List.range 4) (fun r s =>
      setFlds [(Reg.DMC_RANKMAP_PRANK c r, if r < use then r else 0), (Reg.DMC_RANKMAP_VALID c r, b2n (decide (r < use)))]
        (setRankState s c r (if q.ranks ≤ r then 0 else if use ≤ r then
          (if rankBound s c r = 3 then 5 else if 5 ≤ rankBound s c r ∧ rankBound s c r ≤ 7 then rankBound s c r else 2) else 1))) s
    let s := recTouch (recRank c) (setFlds [(Reg.DMC_MIGRATE_PTR c, 0), (Reg.DMC_MIGRATE_ACTIVE c, 0)] s)
    let s := forAll (List.range use) (fun p s =>
      let v := rankBound s c p
      if v = 3 ∨ v = 5 then rankReplace c p 5 s
      else if v = 6 then setRankState s c p 6
      else if v = 7 then rankReplace c p 7 s
      else s) s
    if rankStale s c then rankRecord c s else s

/-- A channel has trained: it has a rank that serves. -/
def channelTrained (s : State) (c : Nat) : Bool :=
  (List.range 4).any fun p => decide (rankState s c p = 1 ∨ rankState s c p = 3)

/-- Registers of the population (R305, R306). -/
def popRegs (s : State) : State :=
  match s.dram.pop with
  | none => s
  | some q =>
    let s := setFlds [(Reg.MFB_STAT_TYPE, q.type), (Reg.MFB_STAT_NCH, q.nch), (Reg.MFB_CAPACITY_BYTES, capacityOf q s.dram.spare)] s
    forAll (List.range q.nch) (fun c s => setFlds [(Reg.DMC_POP_DIMMS c, q.dimms), (Reg.DMC_POP_RANKS c, q.ranks),
      (Reg.DMC_POP_THREEDS c, b2n q.threeDS), (Reg.DMC_POP_RANK_GIB c, q.rankGib)] s) s

/-- The channels run at a data rate; DPLL has relocked to it. -/
def rateTake (r : Nat) (s : State) : State :=
  let f := s.clk.force
  let s := setDpll r (setFld s Reg.MFB_STAT_RATE r)
  if s.clk.force = f then s else pllLocked 6 (relock 6 s)

/-- The lowest data rate of Table 10-1 for the population. -/
def lowestRate (s : State) : Nat := ((s.dram.pop.map ratesOf).getD []).headD 0

/-- Rate that the channels train at: the kept one at a warm reset with its image, the section's where it meets
R305, else the lowest. -/
def startRate (s : State) : Nat :=
  match s.cand, s.dram.pop with
  | some (b, _), some q =>
    let v := leAt (secOf b 0x31) 6 2
    if s.trigger = 2 ∧ s.img.isSome ∧ fld s Reg.MFB_STAT_RATE ≠ 0 then fld s Reg.MFB_STAT_RATE
    else if rateMeets q v then v else lowestRate s
  | _, _ => lowestRate s

/-- The spare reservation, and with it the ranks and the capacity. -/
def spareTake (spare : Bool) (s : State) : State :=
  let s := popRegs { s with dram := { s.dram with spare := spare } }
  forAll (List.range (nch s)) (rankSetup spare) s

/-- The start ends under the provisional map, in HOST_WAIT (R530, R531). An error that escalates on the way ends it in DARK_FAULT
(R534). -/
def toProvisional (s : State) : State :=
  let s := if s.dram.spare then spareTake false s else s
  let s := provisionalTake (rateTake (lowestRate s) s)
  if lamp s = .darkFault then s else startTimed (setLamp (setFld s Reg.STR_STAT_WHY 1) .hostWait)

/-- Steps 14 to 16 of Table 17-3, and the image in force. -/
def imageStart (s : State) : State :=
  match s.cand with
  | none => toProvisional s
  | some (b, src) =>
    let s := if (checkDram s b).isSome then memTrain 3 0 0 0 s else s
    let x := validateFrom14 b s
    match x.2 with
    | some r => toProvisional (startReject r src x.1)
    | none =>
      let s := imageTake b src { x.1 with cand := none }
      if lamp s = .darkFault then s else begin8 s

/-- Table 10-1 and R303: type, DIMMs per channel, ranks per DIMM, DIMM size, ranks per channel, channels. -/
def popListed (p : DramPop) : Bool :=
  let per := p.ranks / max 1 p.dimms
  (decide (p.nch = 4) || decide (p.nch = 8)) && decide (p.dimms = 1 ∨ p.dimms = 2) && decide (p.ranks = per * p.dimms ∧ p.ranks ≤ 4) &&
  (if p.type = 2 then (decide (per = 1) || decide (per = 2)) && decide (per * p.rankGib ≤ 256)
   else decide (p.type = 1) && (decide (per = 1) || decide (per = 2) || (decide (per = 4) && decide (p.dimms = 1))) &&
     decide (per * p.rankGib ≤ 128))

/-- DIMMs whose SPD cannot be read or describes a part outside Table 10-1: all of them in a population that it does not
list (R302, R303, R305). -/
def badDimms (p : DramPop) : List (Nat × Nat) :=
  if popListed p then p.spdBad else (List.range p.nch).flatMap fun c => (List.range p.dimms).map fun d => (c, d)

/-- MEM_TRAIN SPD for each of them, with its channel and first rank. -/
def spdEvents (p : DramPop) (s : State) : State :=
  (badDimms p).foldl (fun s x => memTrain 4 x.1 (x.2 * (p.ranks / max 1 p.dimms)) 0 s) s

/-- Training steps that run in a channel at step 7: all of them at a cold start (R334); 1 and 4 after a warm reset, and 2 to
6 where the step-4 margins fail their check (R335). -/
def stepRan (known : Bool) (margins : List Nat) (c step : Nat) : Bool :=
  decide (1 ≤ step ∧ step ≤ 7) && (!known || decide (step = 1 ∨ step = 4) || (margins.contains c && decide (step ≤ 6)))

/-- What step 7 of a start finds and sets up once: the population, the spare with the ranks and the capacity, and the rate. After
a warm reset they are kept. -/
def dramSetUp (info : StartInfo) (q : DramPop) (s : State) : State :=
  let known := s.dram.pop.isSome
  let s := { s with dram := { s.dram with pop := some q, serials := if known then s.dram.serials else info.serials,
                                          restored := if known then s.dram.restored else [], setUp := true } }
  let want := match s.cand with
    | some (b, _) => decide (leAt (secOf b 0x31) 4 1 = 1) && decide (s.trigger = 1)
    | none => false
  let s := if known then s else spareTake (want && decide (q.ranks = 2 ∨ q.ranks = 4)) s
  let s := if known then s else spdEvents q s
  rateTake (startRate s) s

/-- No channel can serve (Table 17-5, step 7). -/
def dramDead (s : State) : State := raiseFatal unitDmc 0 evMemTrain 2 [(8, 2), (8, 0), (8, 0), (8, 0)] 5 9 (trainStep 0 s)

/-- The channels have trained; a frequency change among it is done. -/
def trained (s : State) : State :=
  match s.dram.freqRun with
  | some r => freqDone r s
  | none => trainStep 0 s

/-- Step 7 ends: the population found, and ranks that failed training. A held frequency change ends the training step alone:
training starts again at the new rate, within step 7 (R338). While DPLL relocks for it nothing ends. -/
def end7 (info : StartInfo) (s : State) : State :=
  let known := decide (s.trigger = 2) && s.dram.pop.isSome
  let q := s.dram.pop.getD info.pop
  if q.type = 0 ∨ q.nch = 0 then dramDead s
  else if s.dram.freqRun.isSome ∧ !stepRuns s then s
  else
    let s := if s.dram.setUp then s else dramSetUp info q s
    let fails := info.trainFail.filter fun x => decide (x.1 < nch s) && stepRan known info.marginFail x.1 x.2.2
    let s := fails.foldl (fun s x => trainFailed x.1 x.2.1 x.2.2 s) s
    let on := freqGoesOn s
    let s := freqHeldNow s
    if !on then s else
    let s := trained s
    if !(List.range (nch s)).any (channelTrained s) then dramDead s
    else if lamp s ≠ .housekeeping then s
    else imageStart s

/-! ### Steps 8 to 12 -/

/-- Step 8 ends once VLCD is power-good or has failed and no lens record is being written. -/
def end8Ready (info : StartInfo) (s : State) : State :=
  if s.lensRun.isSome then s
  else if !railInUse s 3 || decide (railPhase s 3 = .pgood) then end8 info.lensTemps info.recoverFail s
  else if railPhase s 3 = .ramping ∧ !info.vlcdOk then
    let s := railFault 3 4 (sfld s (Reg.RAIL_MEAS_V 3)) s
    if lamp s = .housekeeping then end8 info.lensTemps info.recoverFail s else s
  else if s.railHeld then end8 info.lensTemps info.recoverFail s
  else s

/-- Every emitter-matrix rail in use is power-good and no sequence runs. -/
def emittersUp (s : State) : Bool :=
  (downOrder.all fun i => !railInUse s i || decide (railPhase s i = .pgood)) && decide (fld s Reg.RAIL_STAT_SEQ = 0)

/-- Step 9 ends: power-good, or a ramp that failed (R269). -/
def end9 (fail : Option Nat) (s : State) : State :=
  match fail with
  | some i => if i < 3 ∧ railPhase s i = .ramping then railFault i 4 (sfld s (Reg.RAIL_MEAS_V i)) s else s
  | none => if emittersUp s then begin10 s else s

/-- The end of the step running. -/
def stepDone (info : StartInfo) (s : State) : State :=
  match fld s Reg.STR_STAT_STEP with
  | 2 => if writesIn s 64 320 then s else begin3 (setFld (bootPatches (resetNHigh s)) Reg.RAIL_STAT_VINT_OK 1)
  | 3 => end3 info.pllLocked.toNat s
  | 4 => end4 info.vrmFail s
  | 7 => end7 info s
  | 8 => end8Ready info s
  | 9 => end9 info.railFail s
  | 10 => if groupsTrained s then begin11 info.chainHead info.headFast s else s
  | 11 => startStep 12 s
  | 12 => begin13 s
  | _ => s

/-- STARTUP_STEP_DONE: the step running ends and the next one begins. An activation's step 3 waits for the rails
instead. Orderly dark is no start. -/
def startupStepDone (info : StartInfo) (s : State) : State :=
  if lamp s ≠ .housekeeping ∨ s.orderly.isSome then s else
  match s.act with
  | some a => if a.taken then stepDone info s else actRails s
  | none => stepDone info s

end Sys2Proof.Machine
end

