-- ==== Sys2Proof/Machine/HostRegs.lean ====
section
/-! DEFINITION. Host writes to BAR0 registers: the access codes (R6, R8, R9), the halves of 64-bit registers
(R11, R586), the MSI-X table and the CXL.cachemem range (Table 13-2), and what a write to each register with an
action of its own does. -/

namespace Sys2Proof.Machine

/-! ### Access codes (Table 0-5) -/

/-- Contents of a register after a write of `v` to one of its fields. -/
def fieldWrite (lit : Bool) (v o : Nat) (f : FieldRow) : Nat :=
  let w := f.hi - f.lo + 1
  let x := bitsOf v f.lo w
  let old := bitsOf o f.lo w
  match f.acc with
  | .rw => putBits o f.lo w x
  | .rwl => if lit then o else putBits o f.lo w x
  | .rw1c => putBits o f.lo w (Nat.xor old (Nat.land old x))
  | .rw1cs => putBits o f.lo w (Nat.xor old (Nat.land old x))
  | .ro => o
  | .wo => o
  | .sc => o

/-- Contents of a register after a write of `v` to all of its fields. -/
def regWritten (d : RegDef) (lit : Bool) (o v : Nat) : Nat := d.fields.foldl (fieldWrite lit v) o

/-- A write that does what the access codes say and nothing more. -/
def plainWrite (off v : Nat) (s : State) : State :=
  match findReg off with
  | some d => setReg s off (BitVec.ofNat 64 (regWritten d (isLit s) (reg s off).toNat v))
  | none => s

/-- Does `f` when bit `b` of the value is 1. -/
def onBit (v b : Nat) (f : State → State) (s : State) : State := if bitOf v b then f s else s

/-! ### Registers with actions -/

/-- Registers of the host port and of the command rings. -/
def writeRing (r o v : Nat) (s : State) : State :=
  let off := 0x10100 + 0x40 * r + o
  match o with
  | 0x08 =>
    let c := bitsOf v 16 6
    if ringRuns s r then setFld s (Reg.CMD_RING_CFG_VEC r) c else plainWrite off v s
  | 0x0C => doorbell r v s
  | 0x14 => onBit v 1 (ringReset r) (if bitOf v 0 then ringEnable r s else ringDisable r s)
  | 0x20 => cqHead r (v % 4096) s
  | _ => if ringRuns s r then s else plainWrite off v s

def writeHost (off v : Nat) (s : State) : State :=
  if off = Reg.GEN_TEST then onBit v 8 (testForce (v % 256)) (plainWrite off v s)
  else if off = Reg.HOST_APER then setReg s off (BitVec.ofNat 64 (v / 2 ^ 30 * 2 ^ 30))
  else if off = Reg.HOST_ERR_CNT then onBit v 48 hostErrClr s
  else if off = Reg.HOST_VEC_ACK then vecAck v s
  else plainWrite off v s

/-- Registers of the memory system and of the engines. -/
def writeMem (off v : Nat) (s : State) : State :=
  if off = Reg.MFB_FREQ then
    let s := plainWrite off v s
    if bitOf v 16 && !isLit s then freqGo (v % 65536) s else s
  else if off = Reg.MFB_CTRL then onBit v 0 mfbClr s
  else if 0x80000 ≤ off ∧ off < 0x100000 ∧ off % 0x10000 = 0x88 then onBit v 0 (dmcClr (off / 0x10000 - 8)) s
  else if off = Reg.REEL_WM then reelWmWrite (BitVec.ofNat 64 v) s
  else if off = Reg.LDEC_CTRL then onBit v 0 ldecClr s
  else if off = Reg.HLE_CTRL then onBit v 0 hleClr (plainWrite off v s)
  else if off = Reg.BLT_CTRL then onBit v 0 bltClr (plainWrite off v s)
  else if off = Reg.STR_BUDGET_CTRL then onBit v 0 peakClr s
  else plainWrite off v s

/-- Registers of the lanterns, the ray map, scan-out and the wick lanes. A TERM outside 512 to 1,024 is taken
as the nearer bound (R185). -/
def writeScan (off v : Nat) (s : State) : State :=
  if off = Reg.LANT_TERM then setFld s Reg.LANT_TERM_TERM (max 512 (min 1024 (v % 2048)))
  else if 0x200000 ≤ off ∧ off < 0x232000 ∧ off % 0x1000 = 0x40 then onBit v 0 (lantClr ((off - 0x200000) / 0x1000)) s
  else if off = Reg.RMAP_CTRL then onBit v 0 rmapClr s
  else if off = Reg.RMAP_AGING_CTRL then onBit v 4 agingCalc (agingSettle (plainWrite off v s))
  else if off = Reg.SCAN_CTRL then onBit v 0 scanClr (plainWrite off v s)
  else if off = Reg.WLN_CTRL then
    onBit v 16 wlnClr (onBit v 0 (fun s => if isLit s then s else wlnTrainCmd s) (plainWrite off v s))
  else if 0x340100 ≤ off ∧ off < 0x340700 ∧ off % 0x40 = 0 then
    onBit v 16 (retrainCmd ((off - 0x340100) / 0x40)) (plainWrite off v s)
  else plainWrite off v s

/-- TIME_CFG: TB3_SRC follows R447, SYNC_DISC decides whether TB0 is FREE (R443). -/
def writeTimeCfg (v : Nat) (s : State) : State :=
  let old := fld s Reg.TIME_CFG_TB3_SRC
  let disc := flag s Reg.TIME_CFG_SYNC_DISC
  let s := setFld (plainWrite Reg.TIME_CFG v s) Reg.TIME_CFG_TB3_SRC old
  let s := if flag s Reg.TIME_CFG_SYNC_DISC = disc then s else syncDiscFix s
  tb3SrcWrite (bitsOf v 12 2) s

/-- Registers of time and chains. -/
def writeTime (off v : Nat) (s : State) : State :=
  if off = Reg.TIME_CFG then writeTimeCfg v s
  else if off = Reg.TIME_TICK_CTRL then onBit v 8 (fun s => setReg s Reg.TIME_TICK_STAT 0) (selWrite (v % 4) s)
  else if off = Reg.TIME_TICK_T0 then t0Write (BitVec.ofNat 64 v) s
  else if off = Reg.TIME_TB0_SET_NS then tb0Step (v % 2 ^ 32) s
  else if 0x390400 ≤ off ∧ off < 0x390500 ∧ off % 0x20 = 0 then cmpCfgWrite ((off - 0x390400) / 0x20) (v % 2 ^ 32) s
  else if off = Reg.CHN_CTRL then onBit v 1 (fun s => setReg s Reg.CHN_CNT 0) (onBit v 0 remeasure s)
  else if off = Reg.CHN_CFG then cmpSweep (fixTb3 (plainWrite off v s))
  else if off = Reg.TIME_PTP_PORT ∨ off = Reg.TIME_PTP_CFG 0 ∨ off = Reg.TIME_PTP_CFG 1 then
    let t := plainWrite off v s
    if reg t off = reg s off then t else ptpJoin t
  else plainWrite off v s

/-- Registers of the clock synthesizer. Writes to DPLL's are discarded (R480); SSC.MODE reads 0 for PLLs
without spread; outputs beyond Table 15-2 do not exist. -/
def writeClk (off v : Nat) (s : State) : State :=
  if off = Reg.CLK_CTRL then onBit v 0 clkClr s
  else if 0x3A0100 ≤ off ∧ off < 0x3A0300 then
    let p := (off - 0x3A0100) / 0x40
    if p = 6 then s
    else match (off - 0x3A0100) % 0x40 with
      | 0x04 => if p = 5 then plainWrite off v s else plainWrite off (v / 4 * 4) s
      | 0x08 => onBit v 0 (pllApply p) s
      | _ => plainWrite off v s
  else if 0x3A1000 ≤ off then
    let p := (off - 0x3A1000) / 0x100
    if p = 6 ∨ outCount p ≤ (off - 0x3A1000) % 0x100 / 4 then s else plainWrite off v s
  else plainWrite off v s

/-- Registers of power, the lens, the store and management. -/
def writeMgmt (off v : Nat) (s : State) : State :=
  if off = Reg.RAIL_CTRL then onBit v 1 railDownCmd (onBit v 0 railUpCmd s)
  else if off = Reg.NVM_CTRL then onBit v 0 nvmClr s
  else if 0x3E0100 ≤ off ∧ off < 0x3E0120 then forAll (sourcesOf ((off - 0x3E0100) / 8) v) clearEvent s
  else if off = Reg.MGMT_FF_SRC then onBit v 16 firstFatalAck s
  else if off = Reg.MGMT_LOG_CTRL then onBit v 0 logUpdate s
  else plainWrite off v s

/-- A whole register is written. -/
def regWrite (off v : Nat) (s : State) : State :=
  if 0x10100 ≤ off ∧ off < 0x10300 then writeRing ((off - 0x10100) / 0x40) ((off - 0x10100) % 0x40) v s
  else if off < 0x20000 then writeHost off v s
  else if off < 0x200000 then writeMem off v s
  else if off < 0x260000 then writeScan off v s
  else if off < 0x300000 then writeMem off v s
  else if off < 0x380000 then writeScan off v s
  else if off < 0x3A0000 then writeTime off v s
  else if off < 0x3B0000 then writeClk off v s
  else writeMgmt off v s

/-! ### The MSI-X table (Table 13-2; entries as PCI Express lays them down, log 20) -/

/-- A 32-bit word of an entry is written. Unmasking a vector sends its pending message. -/
def msixWrite (off v : Nat) (s : State) : State :=
  let n := (off - 0x2000) / 16
  let e := tblGet ({} : MsixEntry) s.msix n
  let e := match off % 16 with
    | 0 => { e with addr := e.addr / 2 ^ 32 * 2 ^ 32 + v }
    | 4 => { e with addr := e.addr % 2 ^ 32 + v * 2 ^ 32 }
    | 8 => { e with data := v }
    | _ => { e with masked := bitOf v 0 }
  let s := { s with msix := tblSet {} s.msix n e, held := none }
  if !e.masked && s.cfg.msixEnable && !s.cfg.msixMask && s.pba.contains n then emit { s with pba := setErase n s.pba } (.msix n) else s

/-! ### The CXL.cachemem primary range (R407, Table 13-2) -/

/-- A word of the HDM decoder capability as CXL 2.0 lays it out (PRESUMED, log 18), by its offset from the capability's start: two
decoders, and for each that the host has tried to commit its base, size, control with Committed and Error Not Committed, and
DPA skip (R408). Other words are as they were written. -/
def hdmWord (s : State) (o : Nat) : Option Nat :=
  if o = 0 then some 1
  else if o < 0x10 ∨ 0x50 ≤ o then none
  else
    let x := tblGet {} s.hdm ((o - 0x10) / 0x20)
    if !x.committed && !x.error then none else
    match (o - 0x10) % 0x20 with
    | 0x00 => some (x.base % 2 ^ 32)
    | 0x04 => some (x.base / 2 ^ 32)
    | 0x08 => some (x.size % 2 ^ 32)
    | 0x0C => some (x.size / 2 ^ 32)
    | 0x10 => some (Nat.log2 x.ways % 16 * 2 ^ 4 + 2 ^ 9 + b2n x.committed * 2 ^ 10 + b2n x.error * 2 ^ 11)
    | 0x14 => some (x.skip % 2 ^ 32)
    | 0x18 => some (x.skip / 2 ^ 32)
    | _ => none

/-- Offset of a word from the start of the HDM decoder capability, which the range holds in mode 1. -/
def hdmOff (s : State) (off : Nat) : Option Nat :=
  let c := 0x1000 + 4 * (Config.hdmCapAt % 0x3E0)
  if fld s Reg.HOST_LINK_MODE = 1 ∧ c ≤ off then some (off - c) else none

/-- A 32-bit word of the range: the HDM decoders as they stand; of the others CXL 2.0 lays down what they read at reset and what
a write leaves (log 18). -/
def cxlWord (s : State) (off : Nat) : Nat :=
  match (hdmOff s off).bind (hdmWord s) with
  | some v => v % 2 ^ 32
  | none => match tblGet 0 s.cxlRegs off with
    | 0 => Config.cxlReset off % 2 ^ 32
    | v + 1 => v

/-- A write of a 32-bit word. A decoder commit is HDM_DECODER_COMMIT. -/
def cxlWrite (off v : Nat) (s : State) : State :=
  { s with cxlRegs := tblSet 0 s.cxlRegs off (Config.cxlWritten off (cxlWord s off) v % 2 ^ 32 + 1), held := none }

/-! ### Widths (R10, R11, R586) -/

/-- Low half of a register that a write of its high half alone keeps. -/
def keptLow (d : RegDef) (o : Nat) : Nat :=
  d.fields.foldl (fun l f => match f.acc with
    | .rw => putBits l f.lo (f.hi - f.lo + 1) (bitsOf o f.lo (f.hi - f.lo + 1))
    | .rwl => putBits l f.lo (f.hi - f.lo + 1) (bitsOf o f.lo (f.hi - f.lo + 1))
    | _ => l) 0 % 2 ^ 32

/-- The register map with the read-only copies of the shadow set in force, 0x800 above it (R219). -/
def readMap (off : Nat) : Option RegDef :=
  if 0x300800 ≤ off ∧ off < 0x301000 then (if isShadow (off - 0x800) then findReg (off - 0x800) else none) else findReg off

/-- A write to an offset that takes none: where it holds a read-only copy, or its high half, the held low half of another
register is discarded (R11). -/
def copyWrite (off : Nat) (s : State) : State :=
  if (readMap off).isSome || (decide (off % 8 = 4) && (readMap (off - 4)).any fun d => d.wide) then { s with held := none }
  else s

/-- A 32-bit write. -/
def write32 (off v : Nat) (s : State) : State :=
  if 0x1000 ≤ off ∧ off < 0x2000 then cxlWrite off v s
  else if 0x2000 ≤ off ∧ off < 0x2400 then msixWrite off v s
  else if 0x3000 ≤ off ∧ off < 0x3008 then { s with held := none } else
  match findReg off with
  | some d => if d.wide then { s with held := some (off, v) } else regWrite off v { s with held := none }
  | none =>
    if off % 8 ≠ 4 then copyWrite off s else
    match findReg (off - 4) with
    | some d =>
      if !d.wide then s else
      let lo := match s.held with
        | some (o, x) => if o = off - 4 then x else keptLow d (reg s (off - 4)).toNat
        | none => keptLow d (reg s (off - 4)).toNat
      regWrite (off - 4) (lo + v * 2 ^ 32) { s with held := none }
    | none => copyWrite off s

/-- A write of BAR0. -/
def barWrite (off : Nat) (wide : Bool) (v : Nat) (s : State) : State :=
  if !wide then write32 off (v % 2 ^ 32) s
  else match findReg off with
    | some d =>
      if d.wide then regWrite off v { s with held := none } else write32 (off + 4) (v / 2 ^ 32) (write32 off (v % 2 ^ 32) s)
    | none => write32 (off + 4) (v / 2 ^ 32) (write32 off (v % 2 ^ 32) s)

/-- An access that R10 refuses. -/
def badAccess (off : Nat) (s : State) : State := cxlErr 1 off (incSat s Reg.HOST_ERR_CNT_ACCESS 1)

/-- The access is naturally aligned. -/
def aligned (off : Nat) (wide : Bool) : Bool := decide (off % (if wide then 8 else 4) = 0)

end Sys2Proof.Machine
end

