-- ==== Sys2Proof/Machine/Meanings.lean ====
section
/-! DEFINITION. The meaning of every command: one call of its effect on a state that nothing has left yet, and what
is left to settle once it has acted. -/

namespace Sys2Proof.Machine

/-! ### What is left to settle -/

/-- A structure activation whose steps have ended, wherever they ended, completes with OK, its image in force (R527, R528). -/
def settleAct (s : State) : State :=
  match s.act with
  | some a => if a.begun && decide (lamp s ≠ .housekeeping) then complete a.job stOK 0 0 { actInForce s with act := none } else s
  | none => s

/-- GO_DARKs that DARK_FAULT has cut short answer DEVICE_STATE (log 34). -/
def settleDark (s : State) : State :=
  match s.orderly with
  | some o =>
    if lamp s = .darkFault then o.jobs.foldl (fun s j => complete j stDeviceState 0 0 s) { s with orderly := none } else s
  | none => s

/-- DARK_FAULT has stopped the raster: what waited for a boundary point takes effect (R19, R221, R229). -/
def settleHalt (s : State) : State :=
  if s.scan.halted then settleStopped { s with scan := { s.scan with halted := false } } else s

/-- What a command's effect has let go on: the regulators of a failure, the lighting that a PLAY waits for, the lens driver, what a stopped raster no
longer holds back, and the commands that have ended. -/
def settleOnce (s : State) : State := settleAct (settleDark (settleHalt (lensSettle (lightIfReady (vrmSettle s)))))

/-- What is left to settle settles. A completion that escalates into DARK_FAULT, which is entered once, may itself let
something go on. -/
def settleAll (s : State) : State := settleOnce (settleOnce s)

/-- A meaning that always completes: the command's effect on a state nothing has left yet. The queue of
waiting commands is not the command's to change. -/
def done (f : State → State) (s : State) : Host.Outcome State Fault Refusal :=
  .next { settleAll (f (fresh s)) with pending := s.pending }

/-- The meaning of a host write to a register: a held low half of another register is discarded (R11). -/
def doneWrite (f : State → State) (s : State) : Host.Outcome State Fault Refusal :=
  done (fun s => f { s with held := none }) s

/-! ### Command rings -/

def execRingEnable (r : Nat) (s : State) : Host.Outcome State Fault Refusal :=
  doneWrite (fun s => if r < 8 then ringEnable r s else s) s

def execRingDisable (r : Nat) (s : State) : Host.Outcome State Fault Refusal :=
  doneWrite (fun s => if r < 8 then ringDisable r s else s) s

def execRingReset (r : Nat) (s : State) : Host.Outcome State Fault Refusal :=
  doneWrite (fun s => if r < 8 then ringReset r s else s) s

def execCmdRingDb (r : Nat) (tail : Word) (s : State) : Host.Outcome State Fault Refusal :=
  doneWrite (fun s => if r < 8 then doorbell r tail.toNat s else s) s

def execCqHeadWrite (r : Nat) (head : BitVec 12) (s : State) : Host.Outcome State Fault Refusal :=
  doneWrite (fun s => if r < 8 then cqHead r head.toNat s else s) s

def execDescriptorTake (s : State) : Host.Outcome State Fault Refusal := done takeNext s

def execNop (r : Nat) (s : State) : Host.Outcome State Fault Refusal := done (runRing cmdNop r) s

/-! ### Keys -/

def execKeyLoad (r : Nat) (s : State) : Host.Outcome State Fault Refusal := done (ringKeyLoad r) s

def execKeyRotate (r : Nat) (s : State) : Host.Outcome State Fault Refusal := done (runRing cmdKeyRotate r) s

/-! ### The host port -/

/-- HOST_MEM_READ: a CXL.mem read. An address that no decoder maps does not reach the device. -/
def execHostMemRead (addr len : Nat) (s : State) : Host.Outcome State Fault Refusal :=
  done (fun s => if cxlMem s then
    match hostMap s addr len with
    | some a => hostRead false a len s
    | none => s
    else s) s

/-- HOST_MEM_WRITE: a CXL.mem write. -/
def execHostMemWrite (addr : Nat) (data : Bytes) (poison : Bool) (s : State) :
    Host.Outcome State Fault Refusal :=
  done (fun s => if cxlMem s then
    match hostMap s addr data.length with
    | some a => hostWrite a data poison s
    | none => s
    else s) s

/-- APERTURE_ACCESS: BAR2 exists in mode 3 only, and is 64 GiB (R403). -/
def execApertureAccess (off : Nat) (acc : HostAccess) (s : State) : Host.Outcome State Fault Refusal :=
  done (fun s => if fld s Reg.HOST_LINK_MODE = 3 ∧ off + accessBytes acc ≤ bar2Size then aperture off acc s else s) s

def execHdmDecoderCommit (d base size skip ways : Nat) (s : State) : Host.Outcome State Fault Refusal :=
  doneWrite (fun s => if d < 2 then hdmCommit d base size skip ways s else s) s

/-- BAR0_BAD_ACCESS (R10): a read returns 0, a write is discarded, CXL_ERR is raised. -/
def execBar0BadAccess (off size : Nat) (isWrite : Bool) (s : State) : Host.Outcome State Fault Refusal :=
  done (fun s =>
    let s := incSat s Reg.HOST_ERR_CNT_ACCESS 1
    let s := if isWrite then s else emit s (.hostData (List.replicate size 0#8) false)
    cxlErr 1 off s) s

def execLinkDown (s : State) : Host.Outcome State Fault Refusal := done linkDown s

def execLinkUp (partner : BitVec 3) (speed width : Nat) (s : State) : Host.Outcome State Fault Refusal :=
  done (linkUp partner.toNat speed width) s

def execHostVecAck (ack : DWord) (s : State) : Host.Outcome State Fault Refusal := doneWrite (vecAck ack.toNat) s

/-- GEN_TEST_FORCE: a write of GEN_TEST with SRC and FORCE. -/
def execGenTestForce (src : BitVec 8) (s : State) : Host.Outcome State Fault Refusal :=
  doneWrite (fun s => testForce src.toNat (setFld s Reg.GEN_TEST_SRC src.toNat)) s

def execHostErrClr (s : State) : Host.Outcome State Fault Refusal := doneWrite hostErrClr s

/-! ### Registers written whole -/

/-- REGISTER_WRITE. -/
def execRegisterWrite (off : Nat) (wide : Bool) (v : DWord) (s : State) : Host.Outcome State Fault Refusal :=
  done (fun s => if lamp s = .off then s else if aligned off wide then barWrite off wide v.toNat s else badAccess off s) s

/-! ### Memory fabric and DRAM -/

def execMemReadReturn (c : Nat) (issued : List MemReq) (bad : BitVec 18) (s : State) : Host.Outcome State Fault Refusal :=
  done (memReadReturn c issued bad.toNat) s

def execMemWriteAccept (c : Nat) (issued : List MemReq) (s : State) : Host.Outcome State Fault Refusal :=
  done (memWriteAccept c issued) s

def execRequestPromote (tag : Nat) (s : State) : Host.Outcome State Fault Refusal := done (requestPromote tag) s

def execArbStarve (tag : Nat) (s : State) : Host.Outcome State Fault Refusal := done (arbStarve tag) s

def execRefreshDue (c unit : Nat) (hot : Bool) (s : State) : Host.Outcome State Fault Refusal :=
  done (fun s => if channelRuns s c ∧ unit < refreshUnits then refreshDue c unit hot s else s) s

/-- CALIBRATION_DUE: a rank's calibration, as a refresh at its limit (R339). -/
def execCalibrationDue (c rank : Nat) (dqs : Bool) (s : State) : Host.Outcome State Fault Refusal :=
  done (calibrationDue c rank dqs) s

/-- PAGE_IDLE_CLOSE: an open row with no request for DMC_PAGE.IDLE closes (R321). -/
def execPageIdleClose (c rank bank : Nat) (s : State) : Host.Outcome State Fault Refusal :=
  done (fun s => if bankOpen s (bankIx c rank bank) then pageIdle c rank bank s else s) s

def execScrubRead (c rank addr : Nat) (bad : BitVec 18) (s : State) : Host.Outcome State Fault Refusal :=
  done (fun s =>
    if channelRuns s c ∧ rank < 4 ∧ fld s (Reg.DMC_SCRUB_PERIOD c) ≠ 0 ∧ [1, 2, 3, 4].contains (rankState s c rank) then
      scrubRead c rank addr bad.toNat s else s) s

def execNeighbourRefresh (c : Nat) (s : State) : Host.Outcome State Fault Refusal :=
  done (fun s => if channelRuns s c then neighbourRefresh c s else s) s

/-- HAMMER_WINDOW_END: the table clears. -/
def execHammerWindowEnd (c : Nat) (s : State) : Host.Outcome State Fault Refusal :=
  done (fun s => { s with dram := { s.dram with hammer := tblSet [] s.dram.hammer c [], hammerRaised := setErase c s.dram.hammerRaised } }) s

/-- CE_WINDOW_END: the rank's count restarts (R341). -/
def execCeWindowEnd (c rank : Nat) (s : State) : Host.Outcome State Fault Refusal :=
  done (fun s =>
    if c < 8 ∧ rank < 4 then
      setFld { s with dram := { s.dram with ceWin := tblSet 0 s.dram.ceWin (4 * c + rank) 0 } } (Reg.DMC_ECC_CE_WINDOW c rank) 0
    else s) s

def execMigrationCopyLine (c : Nat) (bad : BitVec 18) (s : State) : Host.Outcome State Fault Refusal :=
  done (fun s => if channelRuns s c ∧ flag s (Reg.DMC_MIGRATE_ACTIVE c) then copyLine c bad.toNat s else s) s

def execMfbFreqGo (target : BitVec 16) (s : State) : Host.Outcome State Fault Refusal :=
  doneWrite (fun s => if lamp s = .off ∨ isLit s then s else freqGo target.toNat s) s

def execFreqChangeDone (upTo : Nat) (fails : List (Nat × Nat)) (s : State) : Host.Outcome State Fault Refusal :=
  done (freqStep upTo fails) s

def execRankRetire (r : Nat) (s : State) : Host.Outcome State Fault Refusal := done (runRing cmdRankRetire r) s

def execMfbClr (s : State) : Host.Outcome State Fault Refusal := doneWrite mfbClr s

def execDmcClr (c : Nat) (s : State) : Host.Outcome State Fault Refusal :=
  doneWrite (fun s => if c < 8 then dmcClr c s else s) s

/-! ### The reel -/

def execReelMap (r : Nat) (s : State) : Host.Outcome State Fault Refusal := done (runRing cmdReelMap r) s

def execReelFetch (r : Nat) (s : State) : Host.Outcome State Fault Refusal := done (runRing cmdReelFetch r) s

def execFetchUnitLanded (f u : Nat) (data : Bytes) (s : State) : Host.Outcome State Fault Refusal :=
  done (fun s => match (liveFetches s)[f]? with
    | some x => unitLanded x u data s
    | none => s) s

/-- FETCH_READ_ERROR: the host read of unit `u` failed or was poisoned (R107). -/
def execFetchReadError (f u : Nat) (s : State) : Host.Outcome State Fault Refusal :=
  done (fun s => match (liveFetches s)[f]? with
    | some x => if u < x.count then fetchStop x stFetchSrc (incSat s Reg.REEL_FETCH_STAT_FAILED 1) else s
    | none => s) s

def execFetchComplete (f : Nat) (s : State) : Host.Outcome State Fault Refusal :=
  done (fun s => match (liveFetches s)[f]? with
    | some x => fetchComplete x s
    | none => s) s

def execPlay (r : Nat) (s : State) : Host.Outcome State Fault Refusal := done (runRing cmdPlay r) s

def execPause (r : Nat) (s : State) : Host.Outcome State Fault Refusal := done (runRing cmdPause r) s

def execSeek (r : Nat) (s : State) : Host.Outcome State Fault Refusal := done (runRing cmdSeek r) s

def execReelWmWrite (v : DWord) (s : State) : Host.Outcome State Fault Refusal := doneWrite (reelWmWrite v) s

/-! ### The layer decoder -/

def execDecodeStart (s : State) : Host.Outcome State Fault Refusal := done decodeStart s

def execRecordResident (s : State) : Host.Outcome State Fault Refusal := done recordResident s

def execSideUnpackDone (s : State) : Host.Outcome State Fault Refusal := done sideUnpackDone s

def execDecodeDone (s : State) : Host.Outcome State Fault Refusal := done decodeDone s

def execCarryCopyDone (s : State) : Host.Outcome State Fault Refusal := done carryCopyDone s

def execLdecClr (s : State) : Host.Outcome State Fault Refusal := doneWrite ldecClr s

/-! ### The lossless engine -/

def execHzJob (r : Nat) (s : State) : Host.Outcome State Fault Refusal := done (runRing cmdHzJob r) s

def execHzJobStart (s : State) : Host.Outcome State Fault Refusal := done hzStart s

def execHzJobEnd (p : Nat) (s : State) : Host.Outcome State Fault Refusal :=
  done (fun s => if p < 4 then hzJobEnd p s else s) s

def execHleClr (s : State) : Host.Outcome State Fault Refusal := doneWrite hleClr s

/-! ### The 2D engine -/

def execBlitComplete (s : State) : Host.Outcome State Fault Refusal :=
  done (fun s => match s.blt.run with
    | some x => blRun x s
    | none => s) s

/-- BLIT: a descriptor that fails its authentication ends at once; one that passes takes its turn. -/
def execBlit (r : Nat) (s : State) : Host.Outcome State Fault Refusal :=
  done (fun s => if blitWaits s r ∧ blitTurn s ≠ some r then s else runRing cmdBlit r s) s

def execBltClr (s : State) : Host.Outcome State Fault Refusal := doneWrite bltClr s

/-! ### Ray map and aging -/

def execRaymapLoad (r : Nat) (s : State) : Host.Outcome State Fault Refusal := done (runRing cmdRaymapLoad r) s

def execRaymapStageDone (s : State) : Host.Outcome State Fault Refusal := done raymapStageDone s

def execAgingRecalc (s : State) : Host.Outcome State Fault Refusal := doneWrite agingCalc s

def execAgingModeWrite (mode : BitVec 2) (s : State) : Host.Outcome State Fault Refusal :=
  doneWrite (fun s => agingSettle (setFld s Reg.RMAP_AGING_CTRL_MODE mode.toNat)) s

def execCandleHourUpdate (s : State) : Host.Outcome State Fault Refusal :=
  done (fun s => if lamp s = .off then s else candleUpdate s) s

def execRmapClr (s : State) : Host.Outcome State Fault Refusal := doneWrite rmapClr s

/-! ### Uniformity -/

def execUniformityPush (r : Nat) (s : State) : Host.Outcome State Fault Refusal :=
  done (runRing cmdUniformityPush r) s

def execUniUnpackDone (s : State) : Host.Outcome State Fault Refusal := done uniUnpackDone s

/-- ROW_PERIOD_INTERVAL: TABLE blocks while the raster is stopped. -/
def execRowPeriodInterval (s : State) : Host.Outcome State Fault Refusal :=
  done (fun s => if flag s Reg.SCAN_STAT_RUN then s else uniSend s) s

/-- TABLE_ACK on the return lane of group `g`. -/
def execTableAck (g : Nat) (payload : DWord) (s : State) : Host.Outcome State Fault Refusal :=
  done (returnHeard g ⟨2#2, payload⟩) s

/-- TABLE_ACK_TIMEOUT: 10 ms have passed since a commit word (R168). -/
def execTableAckTimeout (n : Nat) (s : State) : Host.Outcome State Fault Refusal := done (uniRetry n) s

/-! ### Lanterns -/

def execLanternRowDone (l clocks : Nat) (cpar : List Nat) (s : State) : Host.Outcome State Fault Refusal :=
  done (fun s => if canBuild s l then rowDone l clocks cpar s else s) s

def execLantClr (l : Nat) (s : State) : Host.Outcome State Fault Refusal :=
  doneWrite (fun s => if l < 50 then lantClr l s else s) s

/-- LANTERN_PROGRESS_TIMEOUT: it owes a row and has completed no ray for 50 µs (R198). -/
def execLanternProgressTimeout (l : Nat) (s : State) : Host.Outcome State Fault Refusal :=
  done (fun s => if owesRow s l then lantFault l 1 s else s) s

/-- LANTERN_CHECK_FAULT: a residue check, or with `table` a table's parity, fails (R198). -/
def execLanternCheckFault (l : Nat) (table : Bool) (s : State) : Host.Outcome State Fault Refusal :=
  done (fun s => if l < 50 ∧ !lantFaulted s l then lantFault l (if table then 3 else 2) s else s) s

def execSpareJoin (l : Nat) (s : State) : Host.Outcome State Fault Refusal :=
  done (fun s => if l < 50 ∧ lantState s l = 3 then spareJoin l s else s) s

/-! ### COMMIT and WITNESS_SET -/

def execCommit (r : Nat) (s : State) : Host.Outcome State Fault Refusal := done (runRing cmdCommit r) s

def execWitnessSet (r : Nat) (s : State) : Host.Outcome State Fault Refusal := done (runRing cmdWitnessSet r) s

/-! ### The raster -/

def execScanRestart (s : State) : Host.Outcome State Fault Refusal :=
  done (fun s => if rasterRuns s && s.scan.started && s.scan.aborting && s.scan.live && !s.scan.past && holdsFour s then
    scanRestart s else s) s

def execTick (s : State) : Host.Outcome State Fault Refusal :=
  done (fun s => if lamp s = .off ∨ tickP s = 0 then s else tick s) s

def execRowStart (late : BitVec 4) (s : State) : Host.Outcome State Fault Refusal :=
  done (fun s => if rasterRuns s && s.scan.started then rowStart late s else s) s

/-- BOUNDARY_POINT, once the active rows have gone, or at its time in a frame that was aborted (R53). -/
def execBoundaryPoint (s : State) : Host.Outcome State Fault Refusal :=
  done (fun s =>
    if rasterRuns s && s.scan.started && !s.scan.past && (decide (actRows s ≤ s.scan.nextRow) || decide (s.scan.aborts ≠ 0)) then
      boundaryPoint s else s) s

def execPeakClr (s : State) : Host.Outcome State Fault Refusal := doneWrite peakClr s

def execScanClr (s : State) : Host.Outcome State Fault Refusal := doneWrite scanClr s

/-! ### Wick lanes -/

def execStatus (g : Nat) (payload : DWord) (s : State) : Host.Outcome State Fault Refusal :=
  done (returnHeard g ⟨2#2, payload⟩) s

def execLaneOrder (g : Nat) (payload : DWord) (s : State) : Host.Outcome State Fault Refusal :=
  done (returnHeard g ⟨2#2, payload⟩) s

def execLensTemp (g : Nat) (payload : DWord) (s : State) : Host.Outcome State Fault Refusal :=
  done (returnHeard g ⟨2#2, payload⟩) s

/-- RETURN_UNKNOWN_BLOCK: ignored and counted (R245). Any type byte that Table 8-3 does not list stands for it. -/
def execReturnUnknownBlock (g : Nat) (s : State) : Host.Outcome State Fault Refusal :=
  done (returnHeard g ⟨2#2, 0xFF#64⟩) s

/-- RETURN_LANE_LOCK: block lock in either polarity (R236, R245). -/
def execReturnLaneLock (g : Nat) (heard : List RxBlock) (s : State) : Host.Outcome State Fault Refusal :=
  done (returnLock g heard) s

def execReturnLaneLoss (g : Nat) (s : State) : Host.Outcome State Fault Refusal := done (returnLost g) s

def execStatusTimeout (g : Nat) (s : State) : Host.Outcome State Fault Refusal := done (returnLost g) s

/-- TRAIN_TIMEOUT: the attempt has not reached UP in time (R254). -/
def execTrainTimeout (g : Nat) (s : State) : Host.Outcome State Fault Refusal :=
  done (fun s => if groupOn s g ∧ 1 ≤ groupState s g ∧ groupState s g ≤ 3 then attemptFailed g s else s) s

def execRelockLate (n : Nat) (s : State) : Host.Outcome State Fault Refusal :=
  done (fun s => if n < 192 then relockLate n s else s) s

/-- ADAPT_FREEZE: 65,536 consecutive IDLE blocks (R263). -/
def execAdaptFreeze (idx : Nat) (s : State) : Host.Outcome State Fault Refusal := done (adaptFreeze idx) s

def execWlnTrain (s : State) : Host.Outcome State Fault Refusal :=
  doneWrite (fun s => if isLit s then s else wlnTrainCmd s) s

/-- RETRAIN: one group, at any time (R251, R255). -/
def execRetrain (g : Nat) (s : State) : Host.Outcome State Fault Refusal := doneWrite (retrainCmd g) s

def execWlnClr (s : State) : Host.Outcome State Fault Refusal := doneWrite wlnClr s

/-! ### The chain -/

def execCtrain (p input : Nat) (heard : List RxBlock) (s : State) : Host.Outcome State Fault Refusal :=
  done (fun s => if p < 2 ∧ input < 4 ∧ chainOn s then ctrain p input heard s else s) s

def execCstat (p : Nat) (payload : DWord) (s : State) : Host.Outcome State Fault Refusal :=
  done (fun s => if p < 2 ∧ chainOn s then cstat p payload.toNat s else s) s

def execCstatTimer (s : State) : Host.Outcome State Fault Refusal :=
  done (fun s => if chainOn s then cstatTimer s else s) s

def execChainLaneFail (p i : Nat) (s : State) : Host.Outcome State Fault Refusal :=
  done (fun s => if p < 2 ∧ i < 4 ∧ chainOn s then laneFail p i s else s) s

def execChainLaneReturn (p i : Nat) (s : State) : Host.Outcome State Fault Refusal :=
  done (fun s => if p < 2 ∧ i < 4 ∧ chainOn s then laneReturn p i s else s) s

/-- CHN_CTRL.CLR. -/
def execChnClr (s : State) : Host.Outcome State Fault Refusal := doneWrite (fun s => setReg s Reg.CHN_CNT 0) s

def execAddrOffer (payload : DWord) (s : State) : Host.Outcome State Fault Refusal :=
  done (fun s => if chainOn s ∧ portUp s 0 then addrOffer (bitsOf payload.toNat 8 8) (messageThaw 0 s) else s) s

def execAddrOfferTimer (s : State) : Host.Outcome State Fault Refusal :=
  done (fun s => if chainOn s then addrOfferTimer s else s) s

/-- CHAIN_HEAD_TIMEOUT: an AUTO unit whose UP port has not come UP in the 2 s is head by absence (R461). -/
def execChainHeadTimeout (s : State) : Host.Outcome State Fault Refusal :=
  done (fun s =>
    if chainOn s ∧ fld s Reg.CHN_CFG_ROLE = 1 ∧ !isHead s ∧ !s.chain.upSeen then
      becomeHead true s
    else s) s

def execChainPin (r : Nat) (s : State) : Host.Outcome State Fault Refusal := done (runRing cmdChainPin r) s

/-- DELAY_REQ: answered on the same lane with the turnaround. -/
def execDelayReq (p i : Nat) (seq : BitVec 8) (turn : Word) (s : State) : Host.Outcome State Fault Refusal :=
  done (fun s =>
    if p < 2 ∧ i < 4 ∧ chainOn s ∧ portState s p ≠ 3 then
      chainEmit p [i] 0x64 (0x64 + seq.toNat * 2 ^ 8 + turn.toNat * 2 ^ 16) [] (chainThaw p (inputFor (portOf s p) i).toList s)
    else s) s

def execDelayResp (i : Nat) (payload : DWord) (t1 t4 : Nat) (s : State) : Host.Outcome State Fault Refusal :=
  done (fun s => if i < 4 ∧ chainOn s then delayResp i payload.toNat t1 t4 (chainThaw 0 (inputFor (portOf s 0) i).toList s) else s) s

def execRemeasure (s : State) : Host.Outcome State Fault Refusal := doneWrite remeasure s

def execBeacon (m : BeaconMsg) (s : State) : Host.Outcome State Fault Refusal :=
  done (fun s => if chainOn s ∧ portUp s 0 then
      beacon m (chainThaw 0 (inputFor (portOf s 0) (fld s (Reg.CHN_PORT_STAT_BLANE 0))).toList s) else s) s

def execChainBeaconLoss (s : State) : Host.Outcome State Fault Refusal :=
  done (fun s => if chainOn s then beaconLoss s else s) s

/-! ### Broadcasts -/

def execBcast (ctrl : DWord) (data : Bytes) (s : State) : Host.Outcome State Fault Refusal :=
  done (fun s => if chainOn s ∧ portUp s 0 then bcastSeen ctrl data (messageThaw 0 s) else s) s

def execBcastExecute (s : State) : Host.Outcome State Fault Refusal := done bcastExecute s

def execChainBroadcast (r : Nat) (s : State) : Host.Outcome State Fault Refusal := done (runRing cmdChainBroadcast r) s

/-! ### Time -/

/-- TIME_COMPARE: an armed unit's base has reached its target. -/
def execTimeCompare (n : Nat) (s : State) : Host.Outcome State Fault Refusal :=
  done (fun s => if n < 8 ∧ flag s (Reg.TIME_CMP_CFG_EN n) then cmpFire false n s else s) s

/-- COMPARE_ARM. -/
def execCompareArm (n : Nat) (cfg : Word) (s : State) : Host.Outcome State Fault Refusal :=
  doneWrite (fun s => if n < 8 then cmpCfgWrite n cfg.toNat s else s) s

/-- HANDOVER_END: d reaches 0 (R453). -/
def execHandoverEnd (s : State) : Host.Outcome State Fault Refusal := done (fun s => fixTb3 (setHandD s 0)) s

def execTimeSelWrite (sel : BitVec 2) (s : State) : Host.Outcome State Fault Refusal :=
  doneWrite (selWrite sel.toNat) s

/-- TIME_TICK_CTRL.CNT_CLR. -/
def execTimeCntClr (s : State) : Host.Outcome State Fault Refusal :=
  doneWrite (fun s => setReg s Reg.TIME_TICK_STAT 0) s

def execTimeT0Write (t0 : DWord) (s : State) : Host.Outcome State Fault Refusal := doneWrite (t0Write t0) s

def execTb0StepWrite (ns : Word) (s : State) : Host.Outcome State Fault Refusal := doneWrite (tb0Step ns.toNat) s

def execTb3SrcWrite (src : BitVec 2) (s : State) : Host.Outcome State Fault Refusal :=
  doneWrite (tb3SrcWrite src.toNat) s

def execTbSecRead (b : Nat) (s : State) : Host.Outcome State Fault Refusal :=
  done (fun s => if b < 4 then tbSecRead b s else s) s

def execPtpSync (d : Nat) (m : SyncMsg) (s : State) : Host.Outcome State Fault Refusal :=
  done (fun s => if d < 2 ∧ ptpRuns s then ptpSync d m s else s) s

def execPtpFollowUp (d : Nat) (m : FollowUpMsg) (s : State) : Host.Outcome State Fault Refusal :=
  done (fun s => if d < 2 ∧ ptpRuns s then ptpFollowUp d m s else s) s

def execAnnounce (d : Nat) (m : AnnounceMsg) (s : State) : Host.Outcome State Fault Refusal :=
  done (fun s => if d < 2 ∧ ptpRuns s then announceSeen d m s else s) s

def execAnnounceReceiptTimeout (d : Nat) (s : State) : Host.Outcome State Fault Refusal :=
  done (fun s => if d < 2 then announceTimeout d s else s) s

/-- SYNC_TIMEOUT: three Sync intervals without a Sync from the selected master. -/
def execSyncTimeout (d : Nat) (s : State) : Host.Outcome State Fault Refusal :=
  done (fun s => if d < 2 then refLost (d + 1) s else s) s

def execPtpDelayResp (d : Nat) (m : DelayRespMsg) (s : State) : Host.Outcome State Fault Refusal :=
  done (fun s => if d < 2 ∧ ptpRuns s then delayRespSeen d m s else s) s

def execPtpDelayReqTimer (d : Nat) (s : State) : Host.Outcome State Fault Refusal :=
  done (fun s => if d < 2 ∧ ptpRuns s then delayReqTimer d s else s) s

def execPtpPdelayReq (d : Nat) (_master : DWord) (seq : BitVec 16) (rx tx : Nat) (s : State) :
    Host.Outcome State Fault Refusal :=
  done (fun s => if d < 2 ∧ ptpRuns s then pdelayReq d seq rx tx s else s) s

/-- PTP_IGNORED_MESSAGE. -/
def execPtpIgnoredMessage (d : Nat) (s : State) : Host.Outcome State Fault Refusal :=
  done (fun s => if d < 2 ∧ ptpRuns s then ptpBad d s else s) s

/-- ARP_REQUEST: the port answers for its own address (Table 14-3). -/
def execArpRequest (target : Word) (s : State) : Host.Outcome State Fault Refusal :=
  done (fun s => if ptpRuns s ∧ target.toNat = fld s Reg.TIME_PTP_PORT_IPV4 then emit s (.arp target.toNat) else s) s

def execSyncInEdge (s : State) : Host.Outcome State Fault Refusal :=
  done (fun s => if lamp s = .off then s else syncEdge s) s

def execSyncLoss (s : State) : Host.Outcome State Fault Refusal := done syncLoss s

/-! ### Clocks -/

def execLockWindowEnd (p count : Nat) (s : State) : Host.Outcome State Fault Refusal :=
  done (fun s => if p < 8 then freqLocked (lockWindow p count s) else s) s

def execOvershootCheck (p count : Nat) (s : State) : Host.Outcome State Fault Refusal :=
  done (fun s => if p < 8 then overshoot p count s else s) s

def execPllLockTimeout (p : Nat) (s : State) : Host.Outcome State Fault Refusal :=
  done (fun s => if p < 8 then pllTimeout p s else s) s

def execRefLoss (i : Nat) (s : State) : Host.Outcome State Fault Refusal :=
  done (fun s => if i < 4 then refLoss i s else s) s

def execRefReturn (i : Nat) (ps : Int) (s : State) : Host.Outcome State Fault Refusal :=
  done (fun s => if i < 4 then refReturn i ps s else s) s

def execRefPpmCheck (ppm : Int) (s : State) : Host.Outcome State Fault Refusal := done (refPpm ppm) s

def execPllApply (p : Nat) (s : State) : Host.Outcome State Fault Refusal := doneWrite (pllApply p) s

def execClkClr (s : State) : Host.Outcome State Fault Refusal := doneWrite clkClr s

/-! ### Rails and regulators -/

def execRailUp (s : State) : Host.Outcome State Fault Refusal := doneWrite railUpCmd s

def execRailDown (s : State) : Host.Outcome State Fault Refusal := doneWrite railDownCmd s

def execRailDelayExpire (i : Nat) (s : State) : Host.Outcome State Fault Refusal :=
  done (railDelayExpire i) s

/-- RAIL_FAULT: a condition of Table 9-2 has lasted its filter time on a power-good rail. -/
def execRailFault (i kind : Nat) (measured : Int) (s : State) : Host.Outcome State Fault Refusal :=
  done (fun s => if decide (i < 4) && (railPhase s i).good then railFault i kind measured s else s) s

/-- RAIL_RAMP_TIMEOUT: a ramp that fails is handled as a fault of that rail, kind 0x4 (R269). -/
def execRailRampTimeout (i : Nat) (v : Int) (s : State) : Host.Outcome State Fault Refusal :=
  done (fun s => if railPhase s i = .ramping then railFault i 4 v s else s) s

def execRailLimits (r : Nat) (s : State) : Host.Outcome State Fault Refusal := done (runRing cmdRailLimits r) s

def execVrmPoll (r : Nat) (x : VrmReading) (s : State) : Host.Outcome State Fault Refusal :=
  done (fun s => if r < 8 then vrmPoll r x (alertRead x.alertHigh s) else s) s

/-- VRM_RAMP_TIMEOUT: a ramping regulator missed its VOUT for 20 ms (R277). After VIN_WARN the supplies may fall, and
nothing fails (R576). -/
def execVrmRampTimeout (r : Nat) (status : BitVec 16) (s : State) : Host.Outcome State Fault Refusal :=
  done (fun s => if decide (r < 8) && decide (vrmState s r = 2) && s.snuff.vinHigh then vrmFail r 3 status.toNat s else s) s

/-! ### The lens -/

def execLensSet (r : Nat) (s : State) : Host.Outcome State Fault Refusal := done (runRing cmdLensSet r) s

/-- LENS_NO_TEMP: no valid report for 1 s (R283). -/
def execLensNoTemp (s : State) : Host.Outcome State Fault Refusal :=
  done (fun s => if !hasLens s || s.lens.noTemp then s else
    lensFault 1 0xFF 0xFF { s with lens := { s.lens with noTemp := true } }) s

def execLensUpdateStart (s : State) : Host.Outcome State Fault Refusal := done lensUpdateStart s

/-- VLCD_SETTLED: the journal open write starts (R285). -/
def execVlcdSettled (s : State) : Host.Outcome State Fault Refusal :=
  done (fun s => match s.lens.phase with
    | .vlcd c => lensGoOn (lensReady c s)
    | _ => s) s

def execLensPhaseEnd (s : State) : Host.Outcome State Fault Refusal := done lensPhaseEnd s

def execLensWaveformEnd (s : State) : Host.Outcome State Fault Refusal := done (fun s => lensGoOn (lensWaveEnd s)) s

def execLensJournalOpenDone (ok : Bool) (s : State) : Host.Outcome State Fault Refusal :=
  done (fun s => if lensRunIsOpen s then lensBlockDone ok s else s) s

def execLensJournalDoneComplete (ok : Bool) (s : State) : Host.Outcome State Fault Refusal :=
  done (fun s => if lensRunIsOpen s then s else lensBlockDone ok s) s

def execLensOvercurrent (output : Nat) (s : State) : Host.Outcome State Fault Refusal :=
  done (lensOvercurrent output) s

def execLensForce (r : Nat) (s : State) : Host.Outcome State Fault Refusal := done (runRing cmdLensForce r) s

/-! ### The non-volatile store -/

def execNvmRead (r : Nat) (s : State) : Host.Outcome State Fault Refusal := done (runRing cmdNvmRead r) s

def execNvmReadCopyDone (s : State) : Host.Outcome State Fault Refusal := done nvmReadCopyDone s

def execNvmWrite (r : Nat) (s : State) : Host.Outcome State Fault Refusal := done (runRing cmdNvmWrite r) s

def execNvmUnlock (r : Nat) (s : State) : Host.Outcome State Fault Refusal := done (runRing cmdNvmUnlock r) s

def execNvmProtect (r : Nat) (s : State) : Host.Outcome State Fault Refusal := done (runRing cmdNvmProtect r) s

def execNvmPassword (r : Nat) (s : State) : Host.Outcome State Fault Refusal := done (runRing cmdNvmPassword r) s

def execNvmPatrolRead (kind : Nat) (s : State) : Host.Outcome State Fault Refusal := done (patrolRead kind) s

def execNvmClr (s : State) : Host.Outcome State Fault Refusal := doneWrite nvmClr s

def execFwPatch (r : Nat) (s : State) : Host.Outcome State Fault Refusal := done (runRing cmdFwPatch r) s

/-! ### Ends of store writes -/

def execNvmWriteDone (lens ok : Bool) (s : State) : Host.Outcome State Fault Refusal :=
  done (fun s => if lens then lensBlockDone ok s else mainBlockDone ok s) s

/-! ### Structure images -/

def execStructActivate (r : Nat) (s : State) : Host.Outcome State Fault Refusal := done (runRing cmdStructActivate r) s

def execRailPowerGood (i : Nat) (v : Int) (s : State) : Host.Outcome State Fault Refusal :=
  done (fun s => actRails (railPowerGood i v s)) s

def execRailRampDownDone (i : Nat) (s : State) : Host.Outcome State Fault Refusal :=
  done (fun s => actRails (orderlyEnd (railRampDownDone i s))) s

/-! ### Power, resets and start-up -/

def execVinLoss (s : State) : Host.Outcome State Fault Refusal := done vinLoss s

def execColdStart (s : State) : Host.Outcome State Fault Refusal := done coldStart s

def execWarmReset (_hot : Bool) (s : State) : Host.Outcome State Fault Refusal := done warmReset s

def execFunctionLevelReset (s : State) : Host.Outcome State Fault Refusal := done flReset s

def execStartupStepDone (info : StartInfo) (s : State) : Host.Outcome State Fault Refusal := done (startupStepDone info) s

/-! ### Management, health and the lamplighter -/

/-- EVENT_CLEAR: a write of MGMT_EV_PEND (R541). -/
def execEventClear (i : Nat) (mask : DWord) (s : State) : Host.Outcome State Fault Refusal :=
  doneWrite (fun s => if i < 4 then forAll (sourcesOf i mask.toNat) clearEvent s else s) s

def execFirstFatalAck (s : State) : Host.Outcome State Fault Refusal := doneWrite firstFatalAck s

def execSnuff (r : Nat) (s : State) : Host.Outcome State Fault Refusal := done (runRing cmdSnuff r) s

def execSnuffRelease (r : Nat) (s : State) : Host.Outcome State Fault Refusal := done (runRing cmdSnuffRelease r) s

def execSnuffNLow (s : State) : Host.Outcome State Fault Refusal := done snuffNLow s

def execSnuffNHigh (s : State) : Host.Outcome State Fault Refusal := done snuffNHigh s

def execProvEnChange (level : Bool) (s : State) : Host.Outcome State Fault Refusal := done (provEnChange level) s

/-- SMBALERT_N_LOW: every STATUS_WORD is read; each reading is a VRM_POLL (R278). -/
def execSmbalertNLow (readings : List VrmReading) (s : State) : Host.Outcome State Fault Refusal :=
  done (fun s => vrmPollAll readings (setLevel (setInput s inAlert { inputOf s inAlert with held := false }) inAlert 0)) s

/-- SMBALERT_N_STUCK: low for 100 ms while every STATUS_WORD reads clean; it is ignored until high. -/
def execSmbalertNStuck (s : State) : Host.Outcome State Fault Refusal :=
  done (fun s => if lamp s = .off ∨ (inputOf s inAlert).held then s
    else inputFault inAlert 1 (setLevel (setInput s inAlert { inputOf s inAlert with held := true }) inAlert 0)) s

def execResetNShortPulse (s : State) : Host.Outcome State Fault Refusal := done resetNShortPulse s

/-- RESET_N_STUCK: low for more than 1 s; the reset holds until the input is high. -/
def execResetNStuck (s : State) : Host.Outcome State Fault Refusal :=
  done (fun s => if lamp s = .off then s
    else inputFault inReset 1 (setLevel (setInput s inReset { inputOf s inReset with held := true }) inReset 0)) s

def execThermalSample (readings : List Int) (s : State) : Host.Outcome State Fault Refusal :=
  done (fun s => if lamp s = .off then s else thermalSample readings s) s

def execFwWatchdog (s : State) : Host.Outcome State Fault Refusal :=
  done (fun s => if lamp s = .off ∨ s.restarting then s else fwWatchdog s) s

/-- CORE_RESTART_DONE: the follow-up that was running begins again. -/
def execCoreRestartDone (s : State) : Host.Outcome State Fault Refusal :=
  done coreRestartDone s

def execFollowupDone (blk idx : Nat) (s : State) : Host.Outcome State Fault Refusal :=
  done (fun s => if s.restarting then s else followupDone blk idx s) s

def execLogSecond (s : State) : Host.Outcome State Fault Refusal :=
  done (fun s => if lamp s = .off then s else logSecond s) s

def execLogUpdate (s : State) : Host.Outcome State Fault Refusal :=
  doneWrite (fun s => if lamp s = .off then s else logUpdate s) s

def execSnapshotTimer (s : State) : Host.Outcome State Fault Refusal :=
  done (fun s => if lamp s = .off then s else snapshotWrite s) s

def execTestEnter (r : Nat) (s : State) : Host.Outcome State Fault Refusal := done (runRing cmdTestEnter r) s

def execGoDark (r : Nat) (s : State) : Host.Outcome State Fault Refusal := done (runRing cmdGoDark r) s

def execOrderlyDarkBlankEnd (s : State) : Host.Outcome State Fault Refusal :=
  done (fun s => match s.orderly with
    | some o => if o.blanking && decide (lamp s ≠ .housekeeping) then orderlyDark s else s
    | none => s) s

def execVinWarn (mv10 : Nat) (s : State) : Host.Outcome State Fault Refusal :=
  done (fun s => if lamp s = .off then s else bcastDropped s (vinWarn mv10 s)) s

/-- VIN_RECOVER: VIN is above 9.0 V again; nothing else changes. -/
def execVinRecover (mv10 : Nat) (s : State) : Host.Outcome State Fault Refusal :=
  done (fun s => if lamp s = .off then s
    else { setFld s Reg.RAIL_VIN_MV mv10 with snuff := { s.snuff with vinHigh := true } }) s

end Sys2Proof.Machine
end

