-- ==== Sys2Proof/Machine/Dispatch.lean ====
section
/-! DEFINITION. The effect of a command on everything but the queue: one arm per constructor. -/

namespace Sys2Proof.Machine

def exec (i : Instr) (s : State) : Host.Outcome State Fault Refusal :=
  match i with
  | .coldStart => Sys2Proof.Machine.execColdStart s
  | .warmReset hot => Sys2Proof.Machine.execWarmReset hot s
  | .vinLoss => Sys2Proof.Machine.execVinLoss s
  | .vinWarn mv10 => Sys2Proof.Machine.execVinWarn mv10 s
  | .vinRecover mv10 => Sys2Proof.Machine.execVinRecover mv10 s
  | .startupStepDone info => Sys2Proof.Machine.execStartupStepDone info s
  | .functionLevelReset => Sys2Proof.Machine.execFunctionLevelReset s
  | .linkDown => Sys2Proof.Machine.execLinkDown s
  | .linkUp partner speed width => Sys2Proof.Machine.execLinkUp partner speed width s
  | .hostMemRead addr len => Sys2Proof.Machine.execHostMemRead addr len s
  | .hostMemWrite addr data poison => Sys2Proof.Machine.execHostMemWrite addr data poison s
  | .apertureAccess off acc => Sys2Proof.Machine.execApertureAccess off acc s
  | .hdmDecoderCommit d base size skip ways => Sys2Proof.Machine.execHdmDecoderCommit d base size skip ways s
  | .bar0BadAccess off size isWrite => Sys2Proof.Machine.execBar0BadAccess off size isWrite s
  | .registerWrite off wide v => Sys2Proof.Machine.execRegisterWrite off wide v s
  | .tbSecRead b => Sys2Proof.Machine.execTbSecRead b s
  | .cmdRingDb r tail => Sys2Proof.Machine.execCmdRingDb r tail s
  | .ringEnable r => Sys2Proof.Machine.execRingEnable r s
  | .ringDisable r => Sys2Proof.Machine.execRingDisable r s
  | .ringReset r => Sys2Proof.Machine.execRingReset r s
  | .cqHeadWrite r head => Sys2Proof.Machine.execCqHeadWrite r head s
  | .hostVecAck ack => Sys2Proof.Machine.execHostVecAck ack s
  | .genTestForce src => Sys2Proof.Machine.execGenTestForce src s
  | .timeSelWrite sel => Sys2Proof.Machine.execTimeSelWrite sel s
  | .timeCntClr => Sys2Proof.Machine.execTimeCntClr s
  | .timeT0Write t0 => Sys2Proof.Machine.execTimeT0Write t0 s
  | .tb0StepWrite ns => Sys2Proof.Machine.execTb0StepWrite ns s
  | .tb3SrcWrite src => Sys2Proof.Machine.execTb3SrcWrite src s
  | .compareArm n cfg => Sys2Proof.Machine.execCompareArm n cfg s
  | .peakClr => Sys2Proof.Machine.execPeakClr s
  | .ldecClr => Sys2Proof.Machine.execLdecClr s
  | .rmapClr => Sys2Proof.Machine.execRmapClr s
  | .lantClr l => Sys2Proof.Machine.execLantClr l s
  | .scanClr => Sys2Proof.Machine.execScanClr s
  | .wlnClr => Sys2Proof.Machine.execWlnClr s
  | .mfbClr => Sys2Proof.Machine.execMfbClr s
  | .dmcClr c => Sys2Proof.Machine.execDmcClr c s
  | .hleClr => Sys2Proof.Machine.execHleClr s
  | .bltClr => Sys2Proof.Machine.execBltClr s
  | .hostErrClr => Sys2Proof.Machine.execHostErrClr s
  | .clkClr => Sys2Proof.Machine.execClkClr s
  | .chnClr => Sys2Proof.Machine.execChnClr s
  | .nvmClr => Sys2Proof.Machine.execNvmClr s
  | .agingRecalc => Sys2Proof.Machine.execAgingRecalc s
  | .agingModeWrite mode => Sys2Proof.Machine.execAgingModeWrite mode s
  | .wlnTrain => Sys2Proof.Machine.execWlnTrain s
  | .retrain g => Sys2Proof.Machine.execRetrain g s
  | .railUp => Sys2Proof.Machine.execRailUp s
  | .railDown => Sys2Proof.Machine.execRailDown s
  | .mfbFreqGo target => Sys2Proof.Machine.execMfbFreqGo target s
  | .pllApply p => Sys2Proof.Machine.execPllApply p s
  | .remeasure => Sys2Proof.Machine.execRemeasure s
  | .logUpdate => Sys2Proof.Machine.execLogUpdate s
  | .eventClear idx mask => Sys2Proof.Machine.execEventClear idx mask s
  | .firstFatalAck => Sys2Proof.Machine.execFirstFatalAck s
  | .reelWmWrite v => Sys2Proof.Machine.execReelWmWrite v s
  | .descriptorTake => Sys2Proof.Machine.execDescriptorTake s
  | .nop r => Sys2Proof.Machine.execNop r s
  | .reelMap r => Sys2Proof.Machine.execReelMap r s
  | .reelFetch r => Sys2Proof.Machine.execReelFetch r s
  | .play r => Sys2Proof.Machine.execPlay r s
  | .pause r => Sys2Proof.Machine.execPause r s
  | .seek r => Sys2Proof.Machine.execSeek r s
  | .commit r => Sys2Proof.Machine.execCommit r s
  | .blit r => Sys2Proof.Machine.execBlit r s
  | .blitComplete => Sys2Proof.Machine.execBlitComplete s
  | .hzJob r => Sys2Proof.Machine.execHzJob r s
  | .hzJobStart => Sys2Proof.Machine.execHzJobStart s
  | .hzJobEnd p => Sys2Proof.Machine.execHzJobEnd p s
  | .lensSet r => Sys2Proof.Machine.execLensSet r s
  | .nvmRead r => Sys2Proof.Machine.execNvmRead r s
  | .nvmReadCopyDone => Sys2Proof.Machine.execNvmReadCopyDone s
  | .nvmWrite r => Sys2Proof.Machine.execNvmWrite r s
  | .nvmUnlock r => Sys2Proof.Machine.execNvmUnlock r s
  | .witnessSet r => Sys2Proof.Machine.execWitnessSet r s
  | .raymapLoad r => Sys2Proof.Machine.execRaymapLoad r s
  | .raymapStageDone => Sys2Proof.Machine.execRaymapStageDone s
  | .uniformityPush r => Sys2Proof.Machine.execUniformityPush r s
  | .uniUnpackDone => Sys2Proof.Machine.execUniUnpackDone s
  | .goDark r => Sys2Proof.Machine.execGoDark r s
  | .orderlyDarkBlankEnd => Sys2Proof.Machine.execOrderlyDarkBlankEnd s
  | .snuff r => Sys2Proof.Machine.execSnuff r s
  | .structActivate r => Sys2Proof.Machine.execStructActivate r s
  | .railLimits r => Sys2Proof.Machine.execRailLimits r s
  | .keyLoad r => Sys2Proof.Machine.execKeyLoad r s
  | .keyRotate r => Sys2Proof.Machine.execKeyRotate r s
  | .nvmProtect r => Sys2Proof.Machine.execNvmProtect r s
  | .nvmPassword r => Sys2Proof.Machine.execNvmPassword r s
  | .snuffRelease r => Sys2Proof.Machine.execSnuffRelease r s
  | .chainPin r => Sys2Proof.Machine.execChainPin r s
  | .chainBroadcast r => Sys2Proof.Machine.execChainBroadcast r s
  | .rankRetire r => Sys2Proof.Machine.execRankRetire r s
  | .fwPatch r => Sys2Proof.Machine.execFwPatch r s
  | .testEnter r => Sys2Proof.Machine.execTestEnter r s
  | .lensForce r => Sys2Proof.Machine.execLensForce r s
  | .tick => Sys2Proof.Machine.execTick s
  | .rowStart late => Sys2Proof.Machine.execRowStart late s
  | .scanRestart => Sys2Proof.Machine.execScanRestart s
  | .boundaryPoint => Sys2Proof.Machine.execBoundaryPoint s
  | .lanternRowDone l clocks cpar => Sys2Proof.Machine.execLanternRowDone l clocks cpar s
  | .lanternProgressTimeout l => Sys2Proof.Machine.execLanternProgressTimeout l s
  | .lanternCheckFault l table => Sys2Proof.Machine.execLanternCheckFault l table s
  | .spareJoin l => Sys2Proof.Machine.execSpareJoin l s
  | .decodeStart => Sys2Proof.Machine.execDecodeStart s
  | .recordResident => Sys2Proof.Machine.execRecordResident s
  | .sideUnpackDone => Sys2Proof.Machine.execSideUnpackDone s
  | .decodeDone => Sys2Proof.Machine.execDecodeDone s
  | .carryCopyDone => Sys2Proof.Machine.execCarryCopyDone s
  | .fetchUnitLanded f u data => Sys2Proof.Machine.execFetchUnitLanded f u data s
  | .fetchReadError f u => Sys2Proof.Machine.execFetchReadError f u s
  | .fetchComplete f => Sys2Proof.Machine.execFetchComplete f s
  | .memReadReturn c issued bad => Sys2Proof.Machine.execMemReadReturn c issued bad s
  | .memWriteAccept c issued => Sys2Proof.Machine.execMemWriteAccept c issued s
  | .requestPromote tag => Sys2Proof.Machine.execRequestPromote tag s
  | .arbStarve tag => Sys2Proof.Machine.execArbStarve tag s
  | .refreshDue c unit hot => Sys2Proof.Machine.execRefreshDue c unit hot s
  | .calibrationDue c rank dqs => Sys2Proof.Machine.execCalibrationDue c rank dqs s
  | .scrubRead c rank addr bad => Sys2Proof.Machine.execScrubRead c rank addr bad s
  | .neighbourRefresh c => Sys2Proof.Machine.execNeighbourRefresh c s
  | .hammerWindowEnd c => Sys2Proof.Machine.execHammerWindowEnd c s
  | .pageIdleClose c rank bank => Sys2Proof.Machine.execPageIdleClose c rank bank s
  | .ceWindowEnd c rank => Sys2Proof.Machine.execCeWindowEnd c rank s
  | .migrationCopyLine c bad => Sys2Proof.Machine.execMigrationCopyLine c bad s
  | .freqChangeDone upTo fails => Sys2Proof.Machine.execFreqChangeDone upTo fails s
  | .candleHourUpdate => Sys2Proof.Machine.execCandleHourUpdate s
  | .tableAck g payload => Sys2Proof.Machine.execTableAck g payload s
  | .tableAckTimeout n => Sys2Proof.Machine.execTableAckTimeout n s
  | .status g payload => Sys2Proof.Machine.execStatus g payload s
  | .laneOrder g payload => Sys2Proof.Machine.execLaneOrder g payload s
  | .lensTemp g payload => Sys2Proof.Machine.execLensTemp g payload s
  | .returnUnknownBlock g => Sys2Proof.Machine.execReturnUnknownBlock g s
  | .returnLaneLock g heard => Sys2Proof.Machine.execReturnLaneLock g heard s
  | .returnLaneLoss g => Sys2Proof.Machine.execReturnLaneLoss g s
  | .statusTimeout g => Sys2Proof.Machine.execStatusTimeout g s
  | .trainTimeout g => Sys2Proof.Machine.execTrainTimeout g s
  | .relockLate n => Sys2Proof.Machine.execRelockLate n s
  | .adaptFreeze g => Sys2Proof.Machine.execAdaptFreeze g s
  | .ctrain p input heard => Sys2Proof.Machine.execCtrain p input heard s
  | .cstat p payload => Sys2Proof.Machine.execCstat p payload s
  | .cstatTimer => Sys2Proof.Machine.execCstatTimer s
  | .chainLaneFail p idx => Sys2Proof.Machine.execChainLaneFail p idx s
  | .chainLaneReturn p idx => Sys2Proof.Machine.execChainLaneReturn p idx s
  | .addrOffer payload => Sys2Proof.Machine.execAddrOffer payload s
  | .addrOfferTimer => Sys2Proof.Machine.execAddrOfferTimer s
  | .chainHeadTimeout => Sys2Proof.Machine.execChainHeadTimeout s
  | .delayReq p idx seq turn => Sys2Proof.Machine.execDelayReq p idx seq turn s
  | .delayResp idx payload t1 t4 => Sys2Proof.Machine.execDelayResp idx payload t1 t4 s
  | .beacon m => Sys2Proof.Machine.execBeacon m s
  | .chainBeaconLoss => Sys2Proof.Machine.execChainBeaconLoss s
  | .bcast ctrl data => Sys2Proof.Machine.execBcast ctrl data s
  | .bcastExecute => Sys2Proof.Machine.execBcastExecute s
  | .ptpSync d m => Sys2Proof.Machine.execPtpSync d m s
  | .announce d m => Sys2Proof.Machine.execAnnounce d m s
  | .ptpDelayResp d m => Sys2Proof.Machine.execPtpDelayResp d m s
  | .ptpIgnoredMessage d => Sys2Proof.Machine.execPtpIgnoredMessage d s
  | .arpRequest target => Sys2Proof.Machine.execArpRequest target s
  | .announceReceiptTimeout d => Sys2Proof.Machine.execAnnounceReceiptTimeout d s
  | .syncTimeout d => Sys2Proof.Machine.execSyncTimeout d s
  | .handoverEnd => Sys2Proof.Machine.execHandoverEnd s
  | .timeCompare n => Sys2Proof.Machine.execTimeCompare n s
  | .syncInEdge => Sys2Proof.Machine.execSyncInEdge s
  | .syncLoss => Sys2Proof.Machine.execSyncLoss s
  | .snuffNLow => Sys2Proof.Machine.execSnuffNLow s
  | .snuffNHigh => Sys2Proof.Machine.execSnuffNHigh s
  | .provEnChange level => Sys2Proof.Machine.execProvEnChange level s
  | .smbalertNLow readings => Sys2Proof.Machine.execSmbalertNLow readings s
  | .refLoss idx => Sys2Proof.Machine.execRefLoss idx s
  | .refReturn idx ps => Sys2Proof.Machine.execRefReturn idx ps s
  | .refPpmCheck ppm => Sys2Proof.Machine.execRefPpmCheck ppm s
  | .lockWindowEnd p count => Sys2Proof.Machine.execLockWindowEnd p count s
  | .overshootCheck p count => Sys2Proof.Machine.execOvershootCheck p count s
  | .pllLockTimeout p => Sys2Proof.Machine.execPllLockTimeout p s
  | .railDelayExpire idx => Sys2Proof.Machine.execRailDelayExpire idx s
  | .railPowerGood idx v => Sys2Proof.Machine.execRailPowerGood idx v s
  | .railRampDownDone idx => Sys2Proof.Machine.execRailRampDownDone idx s
  | .railRampTimeout idx v => Sys2Proof.Machine.execRailRampTimeout idx v s
  | .railFault idx kind measured => Sys2Proof.Machine.execRailFault idx kind measured s
  | .vrmPoll r x => Sys2Proof.Machine.execVrmPoll r x s
  | .vrmRampTimeout r status => Sys2Proof.Machine.execVrmRampTimeout r status s
  | .lensUpdateStart => Sys2Proof.Machine.execLensUpdateStart s
  | .vlcdSettled => Sys2Proof.Machine.execVlcdSettled s
  | .lensJournalOpenDone ok => Sys2Proof.Machine.execLensJournalOpenDone ok s
  | .lensPhaseEnd => Sys2Proof.Machine.execLensPhaseEnd s
  | .lensWaveformEnd => Sys2Proof.Machine.execLensWaveformEnd s
  | .lensJournalDoneComplete ok => Sys2Proof.Machine.execLensJournalDoneComplete ok s
  | .lensOvercurrent output => Sys2Proof.Machine.execLensOvercurrent output s
  | .lensNoTemp => Sys2Proof.Machine.execLensNoTemp s
  | .nvmWriteDone lens ok => Sys2Proof.Machine.execNvmWriteDone lens ok s
  | .nvmPatrolRead kind => Sys2Proof.Machine.execNvmPatrolRead kind s
  | .snapshotTimer => Sys2Proof.Machine.execSnapshotTimer s
  | .logSecond => Sys2Proof.Machine.execLogSecond s
  | .thermalSample readings => Sys2Proof.Machine.execThermalSample readings s
  | .fwWatchdog => Sys2Proof.Machine.execFwWatchdog s
  | .coreRestartDone => Sys2Proof.Machine.execCoreRestartDone s
  | .followupDone block index => Sys2Proof.Machine.execFollowupDone block index s
  | .ptpFollowUp d m => Sys2Proof.Machine.execPtpFollowUp d m s
  | .ptpPdelayReq d master seq rx tx => Sys2Proof.Machine.execPtpPdelayReq d master seq rx tx s
  | .ptpDelayReqTimer d => Sys2Proof.Machine.execPtpDelayReqTimer d s
  | .resetNShortPulse => Sys2Proof.Machine.execResetNShortPulse s
  | .resetNStuck => Sys2Proof.Machine.execResetNStuck s
  | .smbalertNStuck => Sys2Proof.Machine.execSmbalertNStuck s
  | .rowPeriodInterval => Sys2Proof.Machine.execRowPeriodInterval s

end Sys2Proof.Machine
end

