-- ==== Sys2Proof/WellFormed.lean ====
section
/-! DEFINITION. The commands whose operands name something that exists: a ring, a wick, a channel, a rail. The
meaning of a command whose operands do not leaves the state as it is. -/

namespace Sys2Proof

/-- Operands as numbers that the block's units bound: rings and vectors of Table 13-2, wicks and groups of Table
8-1, channels and ranks of R303, tags of Table 10-2. -/
def below (n i : Nat) : Bool := decide (i < n)

/-- Members of a client group (Table 10-3): a lantern by its number, OV0 to OV3, the layer decoder and the carry copy, the
CXL.mem port, the command unit, the structure loader and the reel fetch, 4 pipes and ray map staging, the management core
and the uniformity push, the 2D engine. -/
def groupMembers : List Nat := [50, 4, 2, 4, 5, 2, 1]

/-- A request comes from a member of a group. -/
def MemReq.wf (q : MemReq) : Bool := below (groupMembers.getD q.group 0) q.member

/-- A control block of a type (Tables 8-3 and 14-4). -/
def blockType (t : Nat) (w : DWord) : Bool := decide (w.toNat % 256 = t)

/-- The results of a start-up step are in range (Table 17-5). -/
def StartInfo.wf (x : StartInfo) : Bool :=
  (match x.vrmFail with
  | some (r, c) => below 8 r && decide (1 ≤ c ∧ c ≤ 4)
  | none => true) &&
  below 3 x.pop.type && decide (x.pop.nch = 0 ∨ x.pop.nch = 4 ∨ x.pop.nch = 8) && below 3 x.pop.dimms && below 5 x.pop.ranks &&
  (x.trainFail.all fun f => below 8 f.1 && below 4 f.2.1 && below 8 f.2.2) && (x.recoverFail.all fun f => below 16 f.1) &&
  (match x.railFail with
  | some i => below 3 i
  | none => true)

/-- The operands are in range. -/
def Instr.wf : Instr → Bool
  | .startupStepDone info => info.wf
  | .linkUp partner speed width => decide (partner ≠ 0#3) && decide ((if partner.toNat % 4 = 0 then 1 else 3) ≤ speed ∧ speed ≤ 5) &&
    [1, 2, 4, 8].contains width
  | .hdmDecoderCommit d _ _ _ _ => below 2 d
  | .vinWarn v | .vinRecover v => below 65536 v
  | .tbSecRead b => below 4 b
  | .cmdRingDb r _ | .ringEnable r | .ringDisable r | .ringReset r | .cqHeadWrite r _ => below 8 r
  | .compareArm n _ | .timeCompare n => below 8 n
  | .lantClr l | .lanternProgressTimeout l | .lanternCheckFault l _ | .spareJoin l | .lanternRowDone l _ _ => below 50 l
  | .dmcClr c | .hammerWindowEnd c | .migrationCopyLine c _ => below 8 c
  | .retrain g | .returnUnknownBlock g | .returnLaneLock g _ | .returnLaneLoss g | .statusTimeout g
  | .trainTimeout g => below 24 g
  | .adaptFreeze i => below 32 i
  | .status g w => below 24 g && blockType 0x80 w
  | .laneOrder g w => below 24 g && blockType 0x81 w
  | .tableAck g w => below 24 g && blockType 0x82 w
  | .lensTemp g w => below 24 g && blockType 0x83 w
  | .tableAckTimeout n | .relockLate n => below 192 n
  | .pllApply p | .lockWindowEnd p _ | .overshootCheck p _ | .pllLockTimeout p => below 8 p
  | .eventClear i _ => below 4 i
  | .nop r | .reelMap r | .reelFetch r | .play r | .pause r | .seek r | .commit r | .blit r | .hzJob r | .lensSet r
  | .nvmRead r | .nvmWrite r | .nvmUnlock r | .witnessSet r | .raymapLoad r | .uniformityPush r | .goDark r | .snuff r
  | .structActivate r | .railLimits r | .keyLoad r | .keyRotate r | .nvmProtect r | .nvmPassword r | .snuffRelease r
  | .chainPin r | .chainBroadcast r | .rankRetire r | .fwPatch r | .testEnter r | .lensForce r => below 8 r
  | .hzJobEnd p => below 4 p
  | .fetchUnitLanded _ _ data => below 4097 data.length
  | .memReadReturn c issued _ | .memWriteAccept c issued => below 8 c && issued.all MemReq.wf
  | .requestPromote tag | .arbStarve tag => below 4096 tag
  | .neighbourRefresh c => below 8 c
  | .freqChangeDone upTo fails => decide (1 ≤ upTo ∧ upTo ≤ 6) && fails.all fun f => below 8 f.1 && below 4 f.2
  | .refreshDue c unit _ => below 8 c && below 4 unit
  | .calibrationDue c rank _ | .scrubRead c rank _ _ | .pageIdleClose c rank _
  | .ceWindowEnd c rank => below 8 c && below 4 rank
  | .ctrain p input _ => below 2 p && below 4 input
  | .cstat p w => below 2 p && blockType 0x61 w
  | .addrOffer w => blockType 0x62 w
  | .chainLaneFail p i | .chainLaneReturn p i | .delayReq p i _ _ => below 2 p && below 4 i
  | .delayResp i _ _ _ => below 4 i
  | .bcast _ data => decide (data.length = 80)
  | .ptpSync d _ | .announce d _ | .ptpDelayResp d _ | .ptpIgnoredMessage d | .announceReceiptTimeout d | .syncTimeout d
  | .ptpFollowUp d _ | .ptpPdelayReq d _ _ _ _ | .ptpDelayReqTimer d => below 2 d
  | .refLoss i | .refReturn i _ => below 4 i
  | .railDelayExpire i | .railPowerGood i _ | .railRampDownDone i | .railRampTimeout i _ => below 4 i
  | .railFault i kind _ => below 4 i && decide (1 ≤ kind ∧ kind ≤ 4)
  | .vrmPoll r _ | .vrmRampTimeout r _ => below 8 r
  | .lensOvercurrent output => below 112 output
  | .nvmPatrolRead kind => below 3 kind
  | .thermalSample readings => decide (readings.length = 16)
  | .bar0BadAccess off size _ => !((decide (size = 4) || decide (size = 8)) && decide (off % size = 0))
  | .coldStart | .warmReset _ | .vinLoss | .functionLevelReset | .linkDown | .hostMemRead _ _ | .hostMemWrite _ _ _
  | .apertureAccess _ _ | .registerWrite _ _ _ | .hostVecAck _ | .genTestForce _ | .timeSelWrite _ | .timeCntClr
  | .timeT0Write _ | .tb0StepWrite _ | .tb3SrcWrite _ | .peakClr | .ldecClr | .rmapClr | .scanClr | .wlnClr | .mfbClr
  | .hleClr | .bltClr | .hostErrClr | .clkClr | .chnClr | .nvmClr | .agingRecalc | .agingModeWrite _ | .wlnTrain | .railUp
  | .railDown | .mfbFreqGo _ | .remeasure | .logUpdate | .firstFatalAck | .reelWmWrite _ | .descriptorTake | .blitComplete
  | .hzJobStart | .nvmReadCopyDone | .raymapStageDone | .uniUnpackDone | .orderlyDarkBlankEnd | .tick | .rowStart _
  | .scanRestart | .boundaryPoint | .decodeStart | .recordResident | .sideUnpackDone | .decodeDone | .carryCopyDone
  | .fetchReadError _ _ | .fetchComplete _ | .candleHourUpdate | .cstatTimer
  | .addrOfferTimer | .chainHeadTimeout | .beacon _ | .chainBeaconLoss | .bcastExecute | .arpRequest _ | .handoverEnd
  | .syncInEdge | .syncLoss | .snuffNLow | .snuffNHigh | .provEnChange _ | .smbalertNLow _ | .refPpmCheck _
  | .lensUpdateStart | .vlcdSettled | .lensJournalOpenDone _ | .lensPhaseEnd | .lensWaveformEnd
  | .lensJournalDoneComplete _ | .lensNoTemp | .nvmWriteDone _ _ | .snapshotTimer | .logSecond | .fwWatchdog
  | .coreRestartDone | .followupDone _ _ | .resetNShortPulse | .resetNStuck | .smbalertNStuck | .rowPeriodInterval => true

end Sys2Proof
end

