-- ==== Sys2Proof/Safety.lean ====
section
/-! DEFINITION. What counts as a safe run, in the terms the claims use: the canonical form of the state, no
activation left unsettled, completion of a command, and the kinds of state a command may change. -/

namespace Sys2Proof

open Machine

namespace Machine

/-- The register file is canonical: offsets rise and no entry equals its register's reset value. -/
def regsWf (t : Tbl DWord) : Bool := tblRising t && t.all fun p => decide (p.2 ≠ resetOf p.1)

/-- Device memory and its poison are in canonical form: addresses and line numbers rise, and no byte listed equals
what an unlisted one reads as. -/
def Memory.wf (s : State) : Bool := tblWf 0#8 s.mem && setWf s.poison

/-- Memory, its poison, the non-volatile store, the health of its groups and the register file are in
canonical form, so that equal contents are equal data. -/
def State.canonical (s : State) : Bool :=
  Memory.wf s && tblWf 0#8 s.nvm && tblWf 0 s.nvmBad && regsWf s.regs

/-- Nothing is left to settle: no structure activation whose start has ended waits for its completion (R527, R528), no
GO_DARK outlives the entry into DARK_FAULT (log 34), no change waits for the boundary point of a raster that DARK_FAULT
has stopped (R19), no work of the lens driver waits that could go on (R293, R300), no PLAY waits for rails that are
good (R533), and no regulators stay on after a failure whose ring entry is written (R549). -/
structure State.settled (s : State) : Prop where
  act : ∀ a, s.act = some a → a.begun = true → lamp s = .housekeeping
  orderly : s.orderly = none ∨ lamp s ≠ .darkFault
  halted : s.scan.halted = false
  lens : lensDue s = false
  light : lightDue s = false
  vrm : s.vrmFailed = false ∨ nvmHas s isRingWrite = true

/-- No unit has four follow-ups waiting: an error of any unit runs, waits or merges, and none escalates (R545,
R546). -/
def State.calm (s : State) : Prop := ∀ u, (tblGet {} s.followUps u).waiting.length < 4

/-- At the units of the lens driver fewer than four errors wait, no two alike, and none but those of LENS_FAULT with causes 2, 3
and 4: none of these units escalates (R301, R545, R546). -/
def State.lensUnits (s : State) : Prop := ∀ c, c < 16 →
  let w := (fuUnit s unitLens c).waiting
  w.length < 4 ∧ w.Nodup ∧ ∀ f, f ∈ w → f.src = evLensFault ∧ 2 ≤ f.cause ∧ f.cause ≤ 4

/-- A safe step: it answers a next state that is canonical and has nothing left to settle. -/
def SafeStep (s : State) : Prop := ∃ t, step s = .next t ∧ t.canonical = true ∧ t.settled

end Machine

/-- The command completes from `s`, and its next state satisfies `P`. -/
def Completes (c : Instr) (s : State) (P : State → Prop) : Prop := ∃ t, exec c s = .next t ∧ P t

/-- The ember bit of an event source (R540). -/
def Ember (src : Nat) (t : State) : Prop := flag t (emberFld src) = true

/-- A count has gone up by one, or stands at its field's largest value. -/
def Counted (f : Fld) (s t : State) : Prop := fld t f = satAdd (f.hi - f.lo + 1) (fld s f) 1

/-- A block, a message or data have left the part in the step that led to `t`. -/
def Sent (e : Emission) (t : State) : Prop := e ∈ t.out

/-- A completion entry with this TAG, OPCODE, STATUS and DETAIL has been written (R417, Table 13-4). -/
def completed (tag op st detail : Nat) (t : State) : Bool :=
  t.out.any fun e => match e with
    | .hostWrite _ x => decide (x.length = 16 ∧ leAt x 0 2 = tag ∧ leAt x 2 1 = st ∧ leAt x 3 1 = op ∧ leAt x 4 1 = detail)
    | _ => false

/-- Descriptor `d` has been completed with status `st`, DETAIL 0. -/
def answered (d : Bytes) (st : Nat) (t : State) : Bool := completed (dTag d) (dOp d) st 0 t

/-- Completions of ring `r` can be written (R418). -/
def openRing (s : State) (r : Nat) : Bool :=
  decide (r < 8) && decide (fld s Reg.HOST_LINK_MODE ≠ 0)

/-- A job of an open ring whose command was taken since the last reset and the ring's last CQ_WRITE error (R418), with the
TAG and OPCODE of a descriptor. -/
def jobOpen (s : State) (j : Job) : Bool :=
  (match j.origin with
   | .ring r g e => openRing s r && decide (g = s.flr ∧ e = (ring s r).errors)
   | _ => false) && decide (j.tag < 65536 ∧ j.opcode < 256)

/-- Descriptor `d` stands in front of ring `r`, was taken since the ring's last CQ_WRITE error (R418), is command `c`'s,
passes every check of R421 and R426, nothing makes it wait (R414), and its completion can be written. -/
def ready (c : Cmd) (r : Nat) (d : Bytes) (s : State) : Bool :=
  openRing s r && decide ((ring s r).doomed = 0) && decide ((ring s r).taken.head? = some d) && decide (dOp d = c.op) && frontFree s r d &&
  decide (frontAuth s r d = .pass) && c.ready s d && flagsOk d && c.bodyOk d

/-- The state in which the descriptor in front of ring `r` executes: out of its queue, its counter accepted (R426). -/
def accepted (r : Nat) (d : Bytes) (s : State) : State := acceptFront r d (fresh s)

/-- No INPUT_FAULT of input `i` was raised within the last 10 ms (R555). -/
def inputQuiet (s : State) (i : Nat) : Bool :=
  match (inputOf s i).fault with
  | some t => decide (t + 10000000 ≤ s.ns)
  | none => true

/-- The lines of `[a, a + n)` lie within capacity, store no wrong symbol, and every rank that serves them is in
service (R308, R322, R345). -/
def sound (s : State) (a n : Nat) : Prop :=
  ∀ line, a / 64 ≤ line → 64 * line < a + n → 64 * line < capacity s ∧ tblGet 0 s.dram.errs line = 0 ∧
    rankDead s (placeOf s line).ch (physRank s (placeOf s line).ch (placeOf s line).rank) = false ∧
    rankDead s (placeOf s line).ch (servingRank s (placeOf s line)) = false

/-- The lines of `[a, a + n)` are sound and none is poisoned: a read answers the bytes stored. -/
def clean (s : State) (a n : Nat) : Prop :=
  sound s a n ∧ ∀ line, a / 64 ≤ line → 64 * line < a + n → linePoisoned s line = false

/-- No channel waits to inject an error into a line (DMC_INJECT). -/
def noInject (s : State) : Prop := ∀ line, flag s (Reg.DMC_INJECT_ARM (placeOf s line).ch) = false

/-- A client may write every part of `[a, a + n)` that lies in a line (R310). -/
def mayWrite (s : State) (grp a n : Nat) : Prop :=
  ∀ b m, a ≤ b → 0 < m → b + m ≤ a + n → m ≤ 64 → writeCheck s grp b m = .ok

/-- Device memory after a store of `data` at `a`: the bytes stored, and every other byte as before. -/
def Stored (a : Nat) (data : Bytes) (s t : State) : Prop :=
  ∀ b, tblGet 0#8 t.mem b = if a ≤ b ∧ b < a + data.length then data.getD (b - a) 0#8 else tblGet 0#8 s.mem b

/-- Device memory after stores at their addresses, one after the other: the bytes stored, and every other byte as before. -/
def Placed (ws : List (Nat × Bytes)) (s t : State) : Prop :=
  ∀ b, tblGet 0#8 t.mem b = (ws.foldl (fun m w b => if w.1 ≤ b ∧ b < w.1 + w.2.length then w.2.getD (b - w.1) 0#8 else m b)
    (fun b => tblGet 0#8 s.mem b)) b

/-- SNUFF_RELEASE. -/
def isRelease (d : Bytes) : Bool := decide (dOp d = 0x86)

/-- What may release a snuff path (R424, R474, R553): SNUFF_RELEASE, also as a broadcast that is sent to this unit, arrives, has
waited or is held; and a reset or the loss of the supply. -/
def mayRelease (s : State) : Instr → Bool
  | .snuffRelease _ | .warmReset _ | .vinLoss => true
  | .bcastExecute => s.chain.held.any fun h => isRelease h.desc
  | .nvmWriteDone _ _ | .vinWarn _ => s.chain.waiting.any fun h => isRelease h.desc
  | .bcast _ d => isRelease (sliceB (sliceB d 0 80) 0 64)
  | .chainBroadcast r => match (ring s r).taken with
    | d :: _ => isRelease (memRead grpHost (leAt d 8 8) 64 (accepted r d s)).2.1
    | [] => false
  | _ => false

/-! ### Kinds of state -/

/-- The kinds of state the spec names: the registers of each block of Table 1-1, the lamplighter's state, and
the state that no register holds. -/
inductive Part where
  /-- Registers of the block with a code of Table 1-1, but for GEN_STATE.STATE. -/
  | regs (block : Nat)
  | lamp | held | clock | resets | draws | memory | dram | store | rings | keys | link | messages | followUps | snuff
  | inputs | log | core | rails | lens | time | chain | clk | wln | scan | reel | rmap | hle | blt | structure | sequence
deriving DecidableEq, Repr

/-- Block code of the window an offset lies in (Table 1-1); 0 for the gaps of R16. -/
def blockOf (off : Nat) : Nat :=
  if off < 0x10000 then 0x01 else if off < 0x20000 then 0x02 else if off < 0x40000 then 0x03
  else if off < 0x80000 then 0x04 else if off < 0x100000 then 0x05 else if off < 0x120000 then 0x06
  else if off < 0x140000 then 0x07 else if off < 0x150000 then 0x08 else if off < 0x200000 then 0
  else if off < 0x240000 then 0x09 else if off < 0x260000 then 0x0A else if off < 0x270000 then 0x0B
  else if off < 0x300000 then 0 else if off < 0x340000 then 0x0C else if off < 0x380000 then 0x0D
  else if off < 0x390000 then 0x0E else if off < 0x3A0000 then 0x0F else if off < 0x3B0000 then 0x10
  else if off < 0x3C0000 then 0x11 else if off < 0x3D0000 then 0x12 else if off < 0x3E0000 then 0x13
  else if off < 0x400000 then 0x14 else 0

/-- A kind of state is the same in two states. Messages are the vectors' records (R403, R437); the part's own
emissions and the queue belong to no kind. -/
def Part.same (s t : State) : Part → Prop
  | .regs b => ∀ off, blockOf off = b → off ≠ Reg.GEN_STATE → reg t off = reg s off
  | .lamp => reg t Reg.GEN_STATE = reg s Reg.GEN_STATE
  | .held => t.held = s.held
  | .clock => t.ns = s.ns
  | .resets => t.flr = s.flr
  | .draws => t.free = s.free
  | .memory => t.mem = s.mem ∧ t.poison = s.poison
  | .dram => t.dram = s.dram
  | .store => t.nvm = s.nvm ∧ t.nvmBad = s.nvmBad ∧ t.nvmRun = s.nvmRun ∧ t.nvmQueue = s.nvmQueue ∧
      t.lensRun = s.lensRun ∧ t.lensRewrite = s.lensRewrite ∧ t.nvmCeAt = s.nvmCeAt ∧ t.tornPage = s.tornPage ∧ t.patrolGrp = s.patrolGrp ∧
      t.patches = s.patches ∧ t.nvmReads = s.nvmReads
  | .rings => t.rings = s.rings ∧ t.rrRing = s.rrRing
  | .keys => t.keys = s.keys ∧ t.keyPend = s.keyPend
  | .link => t.hdm = s.hdm ∧ t.linkLost = s.linkLost ∧ t.leaseRaised = s.leaseRaised ∧
      t.cxlPoisonAt = s.cxlPoisonAt ∧ t.cxlAperAt = s.cxlAperAt ∧ t.cxlRegs = s.cxlRegs
  | .messages => t.msix = s.msix ∧ t.cfg = s.cfg ∧ t.pba = s.pba
  | .followUps => t.followUps = s.followUps
  | .snuff => t.snuff = s.snuff
  | .inputs => t.inputs = s.inputs
  | .log => t.log = s.log
  | .core => t.restartAt = s.restartAt ∧ t.restarting = s.restarting
  | .rails => t.rails = s.rails ∧ t.railSeqAt = s.railSeqAt ∧ t.railThen = s.railThen ∧
      t.railFaulted = s.railFaulted ∧ t.railHeld = s.railHeld ∧ t.vrms = s.vrms ∧ t.vrmFailed = s.vrmFailed ∧
      t.vrmEn = s.vrmEn
  | .lens => t.lens = s.lens ∧ t.optPend = s.optPend ∧ t.optArmed = s.optArmed
  | .time => t.time = s.time
  | .chain => t.chain = s.chain
  | .clk => t.clk = s.clk
  | .wln => t.wln = s.wln
  | .scan => t.scan = s.scan
  | .reel => t.reel = s.reel
  | .rmap => t.rmap = s.rmap
  | .hle => t.hle = s.hle
  | .blt => t.blt = s.blt
  | .structure => t.img = s.img ∧ t.act = s.act ∧ t.trigger = s.trigger ∧ t.startAt = s.startAt ∧ t.cand = s.cand
  | .sequence => t.orderly = s.orderly ∧ t.wantLight = s.wantLight ∧ t.rowZero = s.rowZero

/-- The frame: every kind of state but those listed is unchanged. -/
def Frame (ps : List Part) (s t : State) : Prop := ∀ p, p ∉ ps → Part.same s t p

/-- The families of the opcode table. -/
inductive Family where
  /-- Power, resets and start-up. -/
  | power
  /-- Link, host accesses and registers written whole. -/
  | host
  /-- Register writes with a rule of their own. -/
  | write
  /-- Commands of the rings. -/
  | ring
  /-- Ticks, rows, lanterns, decoder and reel. -/
  | picture
  /-- Memory fabric and DRAM. -/
  | memory
  /-- Wick lanes and chain. -/
  | lanes
  /-- Time bases, inputs and clocks. -/
  | clocks
  /-- Rails, regulators, lens and store. -/
  | panel
  /-- Health: thermal supervision, watchdog, follow-ups, the lamp log. -/
  | health
deriving DecidableEq, Repr

/-- The family of a command. -/
def Instr.family : Instr → Family
  | .coldStart | .warmReset _ | .vinLoss | .vinWarn _ | .vinRecover _ | .startupStepDone _ | .functionLevelReset
  | .resetNShortPulse | .resetNStuck => .power
  | .linkDown | .linkUp _ _ _ | .hostMemRead _ _ | .hostMemWrite _ _ _ | .apertureAccess _ _
  | .hdmDecoderCommit _ _ _ _ _ | .bar0BadAccess _ _ _ | .registerWrite _ _ _ | .tbSecRead _ | .descriptorTake => .host
  | .cmdRingDb _ _ | .ringEnable _ | .ringDisable _ | .ringReset _ | .cqHeadWrite _ _ | .hostVecAck _
  | .genTestForce _ | .timeSelWrite _ | .timeCntClr | .timeT0Write _ | .tb0StepWrite _ | .tb3SrcWrite _
  | .compareArm _ _ | .peakClr | .ldecClr | .rmapClr | .lantClr _ | .scanClr | .wlnClr | .mfbClr | .dmcClr _
  | .hleClr | .bltClr | .hostErrClr | .clkClr | .chnClr | .nvmClr | .agingRecalc | .agingModeWrite _ | .wlnTrain
  | .retrain _ | .railUp | .railDown | .mfbFreqGo _ | .pllApply _ | .remeasure | .logUpdate | .eventClear _ _
  | .firstFatalAck | .reelWmWrite _ => .write
  | .nop _ | .reelMap _ | .reelFetch _ | .play _ | .pause _ | .seek _ | .commit _ | .blit _ | .blitComplete
  | .hzJob _ | .hzJobStart | .hzJobEnd _ | .lensSet _ | .nvmRead _ | .nvmReadCopyDone | .nvmWrite _
  | .nvmUnlock _ | .witnessSet _ | .raymapLoad _ | .raymapStageDone | .uniformityPush _ | .uniUnpackDone
  | .goDark _ | .orderlyDarkBlankEnd | .snuff _ | .structActivate _ | .railLimits _ | .keyLoad _ | .keyRotate _
  | .nvmProtect _ | .nvmPassword _ | .snuffRelease _ | .chainPin _ | .chainBroadcast _ | .rankRetire _
  | .fwPatch _ | .testEnter _ | .lensForce _ => .ring
  | .tick | .rowStart _ | .scanRestart | .boundaryPoint | .lanternRowDone _ _ _ | .lanternProgressTimeout _
  | .lanternCheckFault _ _ | .spareJoin _ | .decodeStart | .recordResident | .sideUnpackDone | .decodeDone
  | .carryCopyDone | .fetchUnitLanded _ _ _ | .fetchReadError _ _ | .fetchComplete _ | .rowPeriodInterval => .picture
  | .memReadReturn _ _ _ | .memWriteAccept _ _ | .requestPromote _ | .arbStarve _ | .refreshDue _ _ _
  | .calibrationDue _ _ _ | .scrubRead _ _ _ _ | .neighbourRefresh _ | .hammerWindowEnd _
  | .pageIdleClose _ _ _ | .ceWindowEnd _ _ | .migrationCopyLine _ _ | .freqChangeDone _ _ | .candleHourUpdate => .memory
  | .tableAck _ _ | .tableAckTimeout _ | .status _ _ | .laneOrder _ _ | .lensTemp _ _ | .returnUnknownBlock _
  | .returnLaneLock _ _ | .returnLaneLoss _ | .statusTimeout _ | .trainTimeout _ | .relockLate _
  | .adaptFreeze _ | .ctrain _ _ _ | .cstat _ _ | .cstatTimer | .chainLaneFail _ _ | .chainLaneReturn _ _
  | .addrOffer _ | .addrOfferTimer | .chainHeadTimeout | .delayReq _ _ _ _ | .delayResp _ _ _ _ | .beacon _
  | .chainBeaconLoss | .bcast _ _ | .bcastExecute => .lanes
  | .ptpSync _ _ | .announce _ _ | .ptpDelayResp _ _ | .ptpIgnoredMessage _ | .arpRequest _
  | .announceReceiptTimeout _ | .syncTimeout _ | .handoverEnd | .timeCompare _ | .syncInEdge | .syncLoss
  | .refLoss _ | .refReturn _ _ | .refPpmCheck _ | .lockWindowEnd _ _ | .overshootCheck _ _ | .pllLockTimeout _
  | .ptpFollowUp _ _ | .ptpPdelayReq _ _ _ _ _ | .ptpDelayReqTimer _ => .clocks
  | .railDelayExpire _ | .railPowerGood _ _ | .railRampDownDone _ | .railRampTimeout _ _ | .railFault _ _ _
  | .vrmPoll _ _ | .vrmRampTimeout _ _ | .lensUpdateStart | .vlcdSettled | .lensJournalOpenDone _
  | .lensPhaseEnd | .lensWaveformEnd | .lensJournalDoneComplete _ | .lensOvercurrent _ | .lensNoTemp
  | .nvmWriteDone _ _ | .nvmPatrolRead _ | .smbalertNLow _ | .smbalertNStuck => .panel
  | .snuffNLow | .snuffNHigh | .provEnChange _ | .snapshotTimer | .logSecond | .thermalSample _ | .fwWatchdog
  | .coreRestartDone | .followupDone _ _ => .health

/-- What the record of an event may change (R403, R436, R437, R540). -/
def eventParts : List Part := [.messages, .regs 0x01, .regs 0x14]

/-- What an error may change besides: its follow-up takes its place (R545 to R547). -/
def errParts : List Part := [.followUps] ++ eventParts

/-- What the completion of a ring's command may change: its entry, and the error of a ring whose entry cannot be
written (R417, R418). -/
def ringParts : List Part := [.rings, .regs 0x02] ++ errParts

/-- What completions may change: a broadcast's ends in CHN_BCAST_LAST (R461). -/
def doneParts : List Part := [.regs 0x0E] ++ ringParts

/-- What reads and writes of device memory may change: errors corrected and found, rows opened, counts, ranks that are
given up and the records of it (R319 to R347). -/
def memParts : List Part := [.memory, .dram, .draws, .log, .store, .regs 0x04, .regs 0x05, .regs 0x13]

/-- What entering DARK_FAULT may change besides: the state it leaves and records, the raster and what waited for its
boundary point, the lens waveform, the rails, and the commands cut short (R19, R534, R548, R549). -/
def darkParts : List Part :=
  doneParts ++ [.lamp, .log, .store, .rails, .lens, .time, .clk, .scan, .reel, .rmap, .hle, .structure, .sequence, .regs 0x03,
    .regs 0x06, .regs 0x07, .regs 0x08, .regs 0x09, .regs 0x0A, .regs 0x0C, .regs 0x0F, .regs 0x10, .regs 0x11, .regs 0x12,
    .regs 0x13]

/-- The frame of a command: every kind of state but those listed is unchanged, and, where the lamplighter enters
DARK_FAULT, every kind but those and darkParts. -/
def Within (ps : List Part) (s t : State) : Prop :=
  Frame (if lamp s ≠ .darkFault ∧ lamp t = .darkFault then ps ++ darkParts else ps) s t

/-- The registers of every block. -/
def allRegs : List Part := (List.range 21).map .regs

/-- Every kind of state but housekeeping time, which no command moves. -/
def allButClock : List Part :=
  allRegs ++ darkParts ++ memParts ++ [.held, .resets, .keys, .link, .snuff, .inputs, .core, .chain, .clk, .wln, .hle, .blt]

/-- The kinds of state a command may change. -/
def mayChange : Instr → List Part
  | .coldStart | .vinLoss =>
    allButClock
  | .warmReset _ =>
    doneParts ++ memParts ++ allRegs ++ [.lamp, .held, .resets, .keys, .link, .core, .rails, .lens, .time,
      .chain, .clk, .wln, .scan, .reel, .rmap, .hle, .blt, .structure, .sequence]
  | .vinWarn _ =>
    doneParts ++ memParts ++ [.lamp, .keys, .snuff, .rails, .lens, .time, .chain, .wln, .scan, .reel, .rmap,
      .structure, .sequence, .regs 0x03, .regs 0x06, .regs 0x07, .regs 0x08, .regs 0x09, .regs 0x0A, .regs 0x0C,
      .regs 0x0D, .regs 0x0F, .regs 0x10, .regs 0x11, .regs 0x12]
  | .vinRecover _ =>
    [.store, .snuff, .lens, .regs 0x11, .regs 0x12, .regs 0x13]
  | .startupStepDone _ =>
    doneParts ++ memParts ++ allRegs ++ [.lamp, .inputs, .rails, .lens, .time, .chain, .clk, .wln, .scan, .rmap,
      .hle, .structure, .sequence]
  | .functionLevelReset =>
    [.resets, .rings, .messages, .hle, .blt, .regs 0x01, .regs 0x02, .regs 0x08, .regs 0x0B, .regs 0x13]
  | .linkDown =>
    eventParts ++ [.link, .regs 0x13]
  | .linkUp _ _ _ =>
    eventParts ++ [.link]
  | .hostMemRead _ _ =>
    errParts ++ memParts ++ [.link]
  | .hostMemWrite _ _ _ | .apertureAccess _ _ | .memReadReturn _ _ _ | .memWriteAccept _ _ =>
    errParts ++ memParts ++ [.link, .regs 0x0C]
  | .hdmDecoderCommit _ _ _ _ _ =>
    errParts ++ [.held, .link]
  | .bar0BadAccess _ _ _ =>
    errParts
  | .registerWrite _ _ _ =>
    doneParts ++ allRegs ++ [.lamp, .held, .dram, .store, .link, .log, .rails, .lens, .time, .chain, .clk, .wln,
      .scan, .rmap, .sequence]
  | .tbSecRead _ | .ptpIgnoredMessage _ | .ptpPdelayReq _ _ _ _ _ =>
    [.regs 0x0F]
  | .cmdRingDb _ _ | .ringEnable _ =>
    errParts ++ [.held, .regs 0x02]
  | .ringDisable _ =>
    [.held, .regs 0x02]
  | .ringReset _ | .cqHeadWrite _ _ =>
    [.held, .rings, .regs 0x02]
  | .hostVecAck _ =>
    [.held, .messages, .regs 0x01]
  | .genTestForce _ =>
    eventParts ++ [.held]
  | .timeSelWrite _ | .tb0StepWrite _ | .tb3SrcWrite _ =>
    eventParts ++ [.held, .time, .regs 0x0F, .regs 0x10]
  | .timeCntClr =>
    [.held, .regs 0x0F]
  | .timeT0Write _ =>
    eventParts ++ [.held, .time, .regs 0x0F]
  | .compareArm _ _ =>
    eventParts ++ [.held, .regs 0x0F]
  | .peakClr =>
    [.held, .regs 0x03]
  | .ldecClr =>
    [.held, .regs 0x07]
  | .rmapClr =>
    [.held, .regs 0x0A]
  | .lantClr _ =>
    [.held, .regs 0x09]
  | .scanClr =>
    [.held, .regs 0x0C]
  | .wlnClr =>
    [.held, .regs 0x0D]
  | .mfbClr =>
    [.held, .regs 0x04]
  | .dmcClr _ =>
    [.held, .regs 0x05]
  | .hleClr =>
    [.held, .regs 0x08]
  | .bltClr =>
    [.held, .regs 0x0B]
  | .hostErrClr =>
    [.held, .regs 0x01]
  | .clkClr =>
    [.held, .regs 0x10]
  | .chnClr =>
    [.held, .regs 0x0E]
  | .nvmClr =>
    [.held, .regs 0x13]
  | .agingRecalc | .agingModeWrite _ =>
    eventParts ++ [.held, .scan, .rmap, .regs 0x09, .regs 0x0A, .regs 0x0C]
  | .wlnTrain | .retrain _ =>
    [.held, .wln, .rmap, .regs 0x0C, .regs 0x0D]
  | .railUp =>
    eventParts ++ [.lamp, .held, .dram, .rails, .lens, .scan, .sequence, .regs 0x03, .regs 0x10, .regs 0x11]
  | .railDown =>
    eventParts ++ [.held, .rails, .regs 0x11]
  | .mfbFreqGo _ =>
    errParts ++ [.held, .dram, .clk, .regs 0x04, .regs 0x05, .regs 0x10]
  | .pllApply _ =>
    [.held, .clk, .regs 0x10]
  | .remeasure =>
    [.held, .chain, .regs 0x0E]
  | .logUpdate =>
    errParts ++ [.held, .store, .log, .scan, .rmap, .regs 0x09, .regs 0x0A, .regs 0x0C, .regs 0x13]
  | .eventClear _ _ =>
    [.held, .regs 0x14]
  | .firstFatalAck =>
    errParts ++ [.held, .store, .regs 0x13]
  | .reelWmWrite _ =>
    eventParts ++ [.held, .regs 0x06]
  | .descriptorTake | .nvmWrite _ | .fwPatch _ =>
    ringParts ++ memParts
  | .nop _ | .nvmRead _ | .nvmUnlock _ | .railLimits _ | .nvmProtect _ | .nvmPassword _ | .chainPin _ =>
    ringParts ++ [.store, .regs 0x13]
  | .reelMap _ =>
    ringParts ++ memParts ++ [.reel, .regs 0x06]
  | .reelFetch _ | .pause _ =>
    ringParts ++ [.store, .reel, .regs 0x06, .regs 0x13]
  | .play _ =>
    ringParts ++ [.lamp, .dram, .store, .rails, .scan, .reel, .sequence, .regs 0x06, .regs 0x07, .regs 0x08,
      .regs 0x10, .regs 0x11, .regs 0x13]
  | .seek _ =>
    ringParts ++ [.store, .reel, .regs 0x06, .regs 0x07, .regs 0x08, .regs 0x13]
  | .commit _ =>
    doneParts ++ [.store, .lens, .time, .scan, .rmap, .regs 0x03, .regs 0x09, .regs 0x0A, .regs 0x0C, .regs 0x0F,
      .regs 0x13]
  | .blit _ =>
    ringParts ++ [.store, .blt, .regs 0x0B, .regs 0x13]
  | .blitComplete =>
    doneParts ++ memParts ++ [.blt, .regs 0x0B]
  | .hzJob _ =>
    ringParts ++ memParts ++ [.hle, .regs 0x08]
  | .hzJobStart =>
    [.hle, .regs 0x08]
  | .hzJobEnd _ =>
    doneParts ++ memParts ++ [.hle, .regs 0x08]
  | .lensSet _ =>
    ringParts ++ memParts ++ [.regs 0x12]
  | .nvmReadCopyDone =>
    doneParts ++ memParts
  | .witnessSet _ =>
    ringParts ++ [.store, .scan, .regs 0x0C, .regs 0x13]
  | .raymapLoad _ =>
    doneParts ++ [.store, .rmap, .hle, .regs 0x08, .regs 0x0A, .regs 0x13]
  | .raymapStageDone =>
    doneParts ++ memParts ++ [.scan, .reel, .rmap, .hle, .regs 0x06, .regs 0x07, .regs 0x08, .regs 0x09,
      .regs 0x0A, .regs 0x0C]
  | .uniformityPush _ =>
    ringParts ++ memParts ++ [.rmap, .hle, .regs 0x08, .regs 0x0A]
  | .uniUnpackDone =>
    doneParts ++ memParts ++ [.rmap, .hle, .regs 0x08, .regs 0x0A]
  | .goDark _ =>
    doneParts ++ [.store, .sequence, .regs 0x13]
  | .orderlyDarkBlankEnd =>
    doneParts ++ [.lamp, .dram, .store, .log, .rails, .lens, .time, .wln, .scan, .reel, .rmap, .structure,
      .sequence, .regs 0x06, .regs 0x07, .regs 0x08, .regs 0x09, .regs 0x0A, .regs 0x0C, .regs 0x0D, .regs 0x0F,
      .regs 0x10, .regs 0x11, .regs 0x13]
  | .snuff _ =>
    ringParts ++ [.lamp, .store, .log, .scan, .regs 0x13]
  | .structActivate _ =>
    doneParts ++ memParts ++ allRegs ++ [.lamp, .rails, .lens, .time, .clk, .wln, .scan, .reel, .rmap, .hle,
      .structure, .sequence]
  | .keyLoad _ =>
    ringParts ++ memParts ++ [.keys]
  | .keyRotate _ =>
    ringParts ++ [.store, .keys, .regs 0x13]
  | .snuffRelease _ =>
    ringParts ++ [.lamp, .store, .wln, .regs 0x0C, .regs 0x0D, .regs 0x10, .regs 0x13]
  | .chainBroadcast _ | .bcast _ _ | .bcastExecute =>
    doneParts ++ memParts ++ [.lamp, .keys, .rails, .lens, .time, .chain, .wln, .scan, .reel, .rmap, .sequence,
      .regs 0x03, .regs 0x06, .regs 0x07, .regs 0x08, .regs 0x09, .regs 0x0A, .regs 0x0C, .regs 0x0D, .regs 0x0F,
      .regs 0x10, .regs 0x11, .regs 0x12]
  | .rankRetire _ =>
    ringParts ++ [.memory, .dram, .store, .regs 0x05, .regs 0x13]
  | .testEnter _ =>
    ringParts ++ [.lamp, .dram, .store, .scan, .sequence, .regs 0x05, .regs 0x10, .regs 0x13]
  | .lensForce _ | .lensOvercurrent _ =>
    doneParts ++ [.store, .lens, .regs 0x12, .regs 0x13]
  | .tick =>
    errParts ++ memParts ++ [.link, .time, .chain, .wln, .scan, .regs 0x0C, .regs 0x0E, .regs 0x0F]
  | .rowStart _ =>
    errParts ++ memParts ++ [.lamp, .link, .wln, .scan, .rmap, .sequence, .regs 0x09, .regs 0x0A, .regs 0x0C]
  | .scanRestart =>
    errParts ++ memParts ++ [.lamp, .wln, .scan, .rmap, .sequence, .regs 0x0A, .regs 0x0C]
  | .boundaryPoint =>
    doneParts ++ memParts ++ [.lens, .time, .scan, .reel, .rmap, .sequence, .regs 0x03, .regs 0x06, .regs 0x07,
      .regs 0x08, .regs 0x09, .regs 0x0A, .regs 0x0C, .regs 0x0F, .regs 0x12]
  | .lanternRowDone _ _ _ =>
    errParts ++ memParts ++ [.scan, .regs 0x09, .regs 0x0A, .regs 0x0C]
  | .lanternProgressTimeout _ | .lanternCheckFault _ _ =>
    errParts ++ [.scan, .regs 0x09, .regs 0x0C]
  | .spareJoin _ =>
    [.regs 0x09]
  | .decodeStart | .recordResident =>
    errParts ++ memParts ++ [.reel, .regs 0x06, .regs 0x07, .regs 0x08]
  | .sideUnpackDone | .carryCopyDone =>
    errParts ++ memParts ++ [.reel, .regs 0x07, .regs 0x08]
  | .decodeDone =>
    errParts ++ memParts ++ [.scan, .reel, .regs 0x06, .regs 0x07, .regs 0x08]
  | .fetchUnitLanded _ _ _ | .fetchReadError _ _ | .fetchComplete _ =>
    doneParts ++ memParts ++ [.reel, .regs 0x06]
  | .requestPromote _ =>
    [.dram, .regs 0x04]
  | .arbStarve _ =>
    eventParts ++ [.dram, .regs 0x04]
  | .refreshDue _ _ _ | .calibrationDue _ _ _ | .pageIdleClose _ _ _ | .ceWindowEnd _ _ =>
    [.dram, .regs 0x05]
  | .scrubRead _ _ _ _ | .migrationCopyLine _ _ =>
    errParts ++ [.draws, .memory, .dram, .store, .log, .regs 0x05, .regs 0x13]
  | .neighbourRefresh _ =>
    eventParts ++ [.draws, .dram, .regs 0x05]
  | .hammerWindowEnd _ =>
    [.dram]
  | .freqChangeDone _ _ =>
    errParts ++ [.memory, .dram, .store, .clk, .regs 0x04, .regs 0x05, .regs 0x10, .regs 0x13]
  | .candleHourUpdate =>
    errParts ++ [.store, .scan, .rmap, .regs 0x09, .regs 0x0A, .regs 0x0C, .regs 0x13]
  | .tableAck _ _ | .status _ _ | .laneOrder _ _ | .lensTemp _ _ | .returnUnknownBlock _ | .returnLaneLock _ _ =>
    doneParts ++ [.lamp, .dram, .log, .lens, .wln, .scan, .rmap, .sequence, .regs 0x0A, .regs 0x0C, .regs 0x0D,
      .regs 0x10, .regs 0x12]
  | .tableAckTimeout _ =>
    doneParts ++ [.scan, .rmap, .regs 0x0A]
  | .returnLaneLoss _ | .statusTimeout _ =>
    errParts ++ [.wln, .regs 0x0D]
  | .trainTimeout _ =>
    errParts ++ [.wln, .regs 0x0C, .regs 0x0D]
  | .relockLate _ =>
    errParts ++ [.regs 0x0D]
  | .adaptFreeze _ =>
    [.chain, .regs 0x0D]
  | .ctrain _ _ _ | .cstat _ _ | .chainLaneFail _ _ | .chainLaneReturn _ _ =>
    errParts ++ [.chain, .regs 0x0E]
  | .cstatTimer | .addrOfferTimer | .arpRequest _ =>
    []
  | .addrOffer _ =>
    eventParts ++ [.time, .chain, .regs 0x0E, .regs 0x0F]
  | .chainHeadTimeout =>
    eventParts ++ [.time, .regs 0x0E, .regs 0x0F, .regs 0x10]
  | .delayReq _ _ _ _ =>
    [.chain]
  | .delayResp _ _ _ _ =>
    [.chain, .regs 0x0E]
  | .beacon _ =>
    eventParts ++ [.draws, .time, .chain, .regs 0x0E, .regs 0x0F, .regs 0x10]
  | .chainBeaconLoss =>
    errParts ++ [.time, .chain, .regs 0x0E, .regs 0x0F, .regs 0x10]
  | .ptpSync _ _ | .ptpFollowUp _ _ =>
    eventParts ++ [.draws, .time, .regs 0x0F, .regs 0x10]
  | .announce _ _ | .announceReceiptTimeout _ | .syncTimeout _ =>
    eventParts ++ [.time, .regs 0x0F, .regs 0x10]
  | .ptpDelayResp _ _ =>
    [.time, .regs 0x0F]
  | .handoverEnd =>
    [.time, .regs 0x0F, .regs 0x10]
  | .timeCompare _ =>
    eventParts ++ [.regs 0x0F]
  | .syncInEdge =>
    errParts ++ [.draws, .inputs, .time, .regs 0x0F, .regs 0x10]
  | .syncLoss =>
    errParts ++ [.inputs, .time, .regs 0x0F, .regs 0x10]
  | .snuffNLow =>
    errParts ++ [.lamp, .snuff, .inputs, .log, .scan]
  | .snuffNHigh =>
    [.snuff, .inputs, .regs 0x14]
  | .provEnChange _ | .resetNShortPulse | .resetNStuck | .smbalertNStuck =>
    errParts ++ [.inputs]
  | .smbalertNLow _ | .vrmPoll _ _ =>
    doneParts ++ [.lamp, .store, .inputs, .log, .rails, .lens, .scan, .regs 0x11, .regs 0x12, .regs 0x13]
  | .refLoss _ | .refReturn _ _ =>
    eventParts ++ [.regs 0x10]
  | .refPpmCheck _ =>
    eventParts ++ [.clk, .regs 0x10]
  | .lockWindowEnd _ _ =>
    errParts ++ [.lamp, .draws, .memory, .dram, .log, .chain, .clk, .wln, .scan, .rmap, .sequence, .regs 0x05,
      .regs 0x0C, .regs 0x0D, .regs 0x0E, .regs 0x10]
  | .overshootCheck _ _ =>
    errParts ++ [.chain, .clk, .wln, .regs 0x0D, .regs 0x0E, .regs 0x10]
  | .pllLockTimeout _ =>
    errParts ++ [.clk]
  | .railDelayExpire _ =>
    [.rails, .regs 0x11]
  | .railPowerGood _ _ | .railRampDownDone _ =>
    doneParts ++ allRegs ++ [.lamp, .dram, .store, .rails, .lens, .time, .clk, .scan, .rmap, .hle, .structure,
      .sequence]
  | .railRampTimeout _ _ | .railFault _ _ _ =>
    doneParts ++ [.lamp, .dram, .store, .log, .rails, .lens, .scan, .sequence, .regs 0x03, .regs 0x06,
      .regs 0x10, .regs 0x11, .regs 0x12, .regs 0x13]
  | .vrmRampTimeout _ _ =>
    doneParts ++ [.lamp, .store, .log, .rails, .lens, .scan, .structure, .regs 0x11, .regs 0x12, .regs 0x13]
  | .lensUpdateStart =>
    [.store, .lens, .regs 0x11, .regs 0x12, .regs 0x13]
  | .vlcdSettled =>
    [.store, .lens, .regs 0x13]
  | .lensJournalOpenDone _ | .lensJournalDoneComplete _ =>
    doneParts ++ [.store, .log, .lens, .regs 0x0A, .regs 0x12, .regs 0x13]
  | .lensPhaseEnd =>
    [.lens, .regs 0x12]
  | .lensWaveformEnd =>
    [.store, .lens, .regs 0x12, .regs 0x13]
  | .lensNoTemp =>
    errParts ++ [.lens, .regs 0x12]
  | .nvmWriteDone _ _ =>
    doneParts ++ memParts ++ allRegs ++ [.lamp, .keys, .rails, .lens, .time, .chain, .clk, .wln, .scan, .reel,
      .rmap, .hle, .structure, .sequence]
  | .nvmPatrolRead _ =>
    errParts ++ [.store, .regs 0x13]
  | .snapshotTimer =>
    [.store, .log, .regs 0x13]
  | .logSecond =>
    [.log]
  | .thermalSample _ =>
    errParts ++ [.lamp, .draws, .snuff, .log, .scan]
  | .fwWatchdog =>
    errParts ++ [.log, .core]
  | .coreRestartDone =>
    doneParts ++ [.store, .core, .lens, .regs 0x03, .regs 0x12, .regs 0x13]
  | .followupDone _ _ =>
    [.followUps, .log]
  | .ptpDelayReqTimer _ =>
    [.time]
  | .rowPeriodInterval =>
    errParts ++ memParts ++ [.rmap]

end Sys2Proof
end

