-- ==== Sys2Proof/Certificates/Slice0/Obligations.lean ====
section
/-! DEFINITION. The statements about the model, for the provers. -/

open Sys2Proof Sys2Proof.Machine

/-- For every command c and state s, a step of s with c put in front of its queue is exec of c on s with the
queue's rest. -/
def Obligations.StepRunsTheFrontCommand : Prop :=
  ∀ (c : Instr) (s : State), step { s with pending := c :: s.pending } = exec c s

/-- With an empty queue a step answers a next state whose housekeeping time is 2 ns later (the model's choice,
log 2). Nothing leaves the block, and every kind of state but housekeeping time, the time unit, the clock
synthesizer and their registers is unchanged. -/
def Obligations.EmptyQueueLetsTimePass : Prop :=
  ∀ s : State, s.pending = [] → ∃ t, step s = .next t ∧ t.ns = s.ns + 2 ∧ t.out = [] ∧ t.pending = [] ∧
    Frame [.clock, .time, .clk, .regs 0x0F, .regs 0x10] s t

/-- In the state at power-on the lamplighter is in OFF, every register reads the value its Reset column gives
('SI' and 'Stored' as 0, log 4), memory lists nothing, no command waits, and the non-volatile store holds the
identity page alone: its magic number, its version and the CRC-32C of what it holds. Values the spec gives no
reset for, the identity page's other fields among them, are the model's (log 3, log 4, log 135). -/
def Obligations.ResetStateIsUnpowered : Prop :=
  lamp State.reset = .off ∧ (∀ off, reg State.reset off = resetOf off) ∧ State.reset.mem = [] ∧
    State.reset.pending = [] ∧ (∀ a, 256 ≤ a → tblGet 0#8 State.reset.nvm a = 0#8) ∧
    leNat (nvmBytes State.reset 0 4) = 0x565A4944 ∧ leNat (nvmBytes State.reset 4 2) = 0x0100 ∧
    leNat (nvmBytes State.reset 252 4) = crc32c (nvmBytes State.reset 0 252)

/-- The state at power-on is in canonical form, nothing is left to settle, no unit has four follow-ups
waiting, and the units of the lens driver are as their invariant says. The canonical form is the model's own
(log 3). -/
def Obligations.ResetStateIsCanonical : Prop :=
  State.reset.canonical = true ∧ State.reset.settled ∧ State.reset.calm ∧ State.reset.lensUnits

/-- From every state in canonical form, a step that answers a next state answers one in canonical form:
addresses of device memory and of the non-volatile store rise strictly and list no byte equal to what an
unlisted one reads as, and the same of poisoned lines, the health of the store's groups and the register file.
The form is the model's own (log 3). -/
def Obligations.EveryStepKeepsCanonicalForm : Prop :=
  ∀ s t : State, s.canonical = true → step s = .next t → t.canonical = true

/-- From every state with nothing left to settle, a step that answers a next state answers one with nothing
left to settle: an activation that has begun and still runs means HOUSEKEEPING (R527, R528); no GO_DARK
outlives the entry into DARK_FAULT (the model's choice, log 34); no change waits for the boundary point of a
raster that DARK_FAULT stopped (R19); no work of the lens driver waits that could go on (R293, R300); no PLAY
waits for rails that are good (R533); and no regulators stay on after a failure whose ring entry is written
(R549). And from every state in which fewer than four errors wait at each unit of the lens driver, no two
alike and none but LENS_FAULT's causes 2 to 4, so does every next state: none of these units escalates (R301,
R545). -/
def Obligations.EveryStepSettlesActivations : Prop :=
  ∀ s t : State, step s = .next t → (s.settled → t.settled) ∧ (s.lensUnits → t.lensUnits)

/-- For every command c and state s, exec of c on s answers no refusal: every row of the opcode table has the
effect the spec gives it. -/
def Obligations.NoCommandIsRefused : Prop :=
  ∀ (c : Instr) (s : State) (r : Refusal), exec c s ≠ .refused r

/-- For every command c and state s, exec of c on s answers no fault, and where it answers a next state the
queue of waiting commands is as it was. The queue is the model's own (log 3). -/
def Obligations.CommandsAnswerAndLeaveTheQueue : Prop :=
  ∀ (c : Instr) (s : State), (∀ f, exec c s ≠ .fault f) ∧ ∀ t, exec c s = .next t → t.pending = s.pending

/-- Frame of the commands of the power and health families (supply, resets, start-up steps, RESET_N, SNUFF_N,
PROV_EN, thermal samples, watchdog, follow-ups, lamp log) with operands in range: from a state with nothing
left to settle, every kind of state but those mayChange lists for the command, and where it makes the
lamplighter enter DARK_FAULT those of darkParts, is unchanged. -/
def Obligations.PowerAndHealthFrame : Prop :=
  ∀ (c : Instr) (s t : State), c.family = .power ∨ c.family = .health → c.wf = true → s.settled → exec c s = .next t →
    Within (mayChange c) s t

/-- Frame of the commands of the host and write families (link events, host memory and aperture accesses,
decoders, register writes, ring control, CLR bits, time, rail and clock writes) with operands in range: from a
state with nothing left to settle, every kind of state but those mayChange lists for the command, and where it
makes the lamplighter enter DARK_FAULT those of darkParts, is unchanged. -/
def Obligations.HostAndWriteFrame : Prop :=
  ∀ (c : Instr) (s t : State), c.family = .host ∨ c.family = .write → c.wf = true → s.settled → exec c s = .next t →
    Within (mayChange c) s t

/-- Frame of the commands of the rings and of the ends of those that finish later with operands in range: from
a state with nothing left to settle, every kind of state but those mayChange lists for the command, and where
it makes the lamplighter enter DARK_FAULT those of darkParts, is unchanged. -/
def Obligations.RingCommandsFrame : Prop :=
  ∀ (c : Instr) (s t : State), c.family = .ring → c.wf = true → s.settled → exec c s = .next t →
    Within (mayChange c) s t

/-- Frame of the commands of the picture and memory families with operands in range: from a state with nothing
left to settle, every kind of state but those mayChange lists for the command, and where it makes the
lamplighter enter DARK_FAULT those of darkParts, is unchanged. -/
def Obligations.PictureAndMemoryFrame : Prop :=
  ∀ (c : Instr) (s t : State), c.family = .picture ∨ c.family = .memory → c.wf = true → s.settled → exec c s = .next t →
    Within (mayChange c) s t

/-- Frame of the commands of the lanes, clocks and panel families with operands in range: from a state with
nothing left to settle, every kind of state but those mayChange lists for the command, and where it makes the
lamplighter enter DARK_FAULT those of darkParts, is unchanged. -/
def Obligations.LanesClocksAndPanelFrame : Prop :=
  ∀ (c : Instr) (s t : State), c.family = .lanes ∨ c.family = .clocks ∨ c.family = .panel → c.wf = true → s.settled → exec c s = .next t →
    Within (mayChange c) s t

/-- From every state with nothing left to settle, PEAK_CLR, LDEC_CLR, RMAP_CLR, LANT_CLR, SCAN_CLR, WLN_CLR,
MFB_CLR, DMC_CLR, HLE_CLR, BLT_CLR, HOST_ERR_CLR, CLK_CLR, CHN_CLR, NVM_CLR and TIME_CNT_CLR each answer a
next state in which every count, peak or statistics register that the bit clears reads 0. -/
def Obligations.ClearBitsZeroTheirCounts : Prop :=
  ∀ s : State, s.settled →
    Completes .peakClr s (fun t => (∀ i, 1 ≤ i → i ≤ 3 → fld t (Reg.STR_BUDGET_LOAD_PEAK i) = 0) ∧
      fld t Reg.STR_BUDGET_SMEAS_S_PEAK = 0) ∧
    Completes .ldecClr s (fun t => fld t Reg.LDEC_TIME_PEAK = 0 ∧ reg t Reg.LDEC_CNT = 0) ∧
    Completes .rmapClr s (fun t => reg t Reg.RMAP_SUBST = 0 ∧ fld t Reg.RMAP_AGING_STAT_UPDATES = 0) ∧
    (∀ l, l < 50 → Completes (.lantClr l) s (fun t => reg t (Reg.LANT_RAYS l) = 0 ∧ reg t (Reg.LANT_SAMPLES l) = 0 ∧
      reg t (Reg.LANT_FILLS l) = 0 ∧ reg t (Reg.LANT_POISON l) = 0 ∧ fld t (Reg.LANT_ROWTIME_PEAK l) = 0)) ∧
    Completes .scanClr s (fun t => reg t Reg.SCAN_ABORT_STAT = 0 ∧ reg t Reg.SCAN_OV_STAT = 0 ∧
      reg t Reg.SCAN_LEASE_VIOL = 0 ∧ ∀ n, n < 192 → reg t (Reg.SCAN_W_ABORTS n) = 0) ∧
    Completes .wlnClr s (fun t => (∀ g, g < 24 → reg t (Reg.WLN_GCNT g) = 0) ∧
      ∀ n, n < 192 → reg t (Reg.WLN_W_RELOCK n) = 0 ∧ reg t (Reg.WLN_W_CRCERR n) = 0) ∧
    Completes .mfbClr s (fun t => (∀ i, i < 7 → fld t (Reg.MFB_TAGS_PEAK i) = 0) ∧ fld t Reg.MFB_STARVE_COUNT = 0 ∧
      reg t Reg.MFB_PROMOTED = 0 ∧ reg t Reg.MFB_REJECT = 0) ∧
    (∀ c, c < 8 → Completes (.dmcClr c) s (fun t => (∀ p, p < 4 → fld t (Reg.DMC_ECC_CE_COUNT c p) = 0) ∧
      reg t (Reg.DMC_UE_CNT c) = 0 ∧ fld t (Reg.DMC_REFRESH_FORCED c) = 0 ∧ reg t (Reg.DMC_HAMMER_STAT c) = 0)) ∧
    Completes .hleClr s (fun t => reg t Reg.HLE_CNT = 0 ∧ reg t Reg.HLE_BYTES_IN = 0 ∧ reg t Reg.HLE_BYTES_OUT = 0) ∧
    Completes .bltClr s (fun t => reg t Reg.BLT_CNT = 0 ∧ reg t Reg.BLT_PIXELS = 0) ∧
    Completes .hostErrClr s (fun t => fld t Reg.HOST_ERR_CNT_ACCESS = 0 ∧ fld t Reg.HOST_ERR_CNT_POISON = 0 ∧
      fld t Reg.HOST_ERR_CNT_APER = 0) ∧
    Completes .clkClr s (fun t => ∀ p, p < 8 → reg t (Reg.CLK_PLL_CNT p) = 0) ∧
    Completes .chnClr s (fun t => reg t Reg.CHN_CNT = 0) ∧
    Completes .nvmClr s (fun t => reg t Reg.NVM_CNT = 0 ∧ fld t Reg.NVM_PATROL_REWRITES = 0) ∧
    Completes .timeCntClr s (fun t => reg t Reg.TIME_TICK_STAT = 0)

/-- EVENT_CLEAR of word i with a mask completes from every state with nothing left to settle. For every source
whose bit is 1 the ember bit, COUNT, OVF, FIRST_VALID and FORCED read 0; every other source's ember bit and
counts read as before. An occurrence after the clear becomes the new FIRST: it stores its own capture and
time. -/
def Obligations.EventClearClearsTheRecord : Prop :=
  ∀ (s : State) (i : Nat) (mask : DWord), s.settled → i < 4 →
    Completes (.eventClear i mask) s (fun t => ∀ src, src < 256 →
      if src / 64 = i ∧ bitOf mask.toNat (src % 64) = true then
        fld t (emberFld src) = 0 ∧ fld t (Reg.MGMT_EV_CNT_COUNT src) = 0 ∧ fld t (Reg.MGMT_EV_CNT_OVF src) = 0 ∧
        fld t (Reg.MGMT_EV_CNT_FIRST_VALID src) = 0 ∧ fld t (Reg.MGMT_EV_CNT_FORCED src) = 0 ∧
        ∀ data, data < 2 ^ 256 → (reg (recordEvent src data false t) (Reg.MGMT_EV_TIME src)).toNat = tb0 t ∧
          ∀ k, k < 4 → (reg (recordEvent src data false t) (Reg.MGMT_EV_DATA src k)).toNat = bitsOf data (64 * k) 64
      else fld t (emberFld src) = fld s (emberFld src) ∧ reg t (Reg.MGMT_EV_CNT src) = reg s (Reg.MGMT_EV_CNT src))

/-- Recording an occurrence of a source sets its ember bit; adds 1 to COUNT, and sets OVF instead when COUNT
already reads 0xFFFF; and when FIRST_VALID is 0 stores the capture's four words and the TB0 count and sets
FIRST_VALID. When FIRST_VALID is 1, FIRST is unchanged. -/
def Obligations.AnOccurrenceIsRecorded : Prop :=
  ∀ (s : State) (src data : Nat) (forced : Bool), src < 256 → data < 2 ^ 256 →
    let t := recordEvent src data forced s
    Ember src t ∧
    (if fld s (Reg.MGMT_EV_CNT_COUNT src) = 0xFFFF then
      fld t (Reg.MGMT_EV_CNT_OVF src) = 1 ∧ fld t (Reg.MGMT_EV_CNT_COUNT src) = 0xFFFF
     else fld t (Reg.MGMT_EV_CNT_COUNT src) = fld s (Reg.MGMT_EV_CNT_COUNT src) + 1 ∧
      fld t (Reg.MGMT_EV_CNT_OVF src) = fld s (Reg.MGMT_EV_CNT_OVF src)) ∧
    fld t (Reg.MGMT_EV_CNT_FIRST_VALID src) = 1 ∧
    (if fld s (Reg.MGMT_EV_CNT_FIRST_VALID src) = 1 then
      reg t (Reg.MGMT_EV_TIME src) = reg s (Reg.MGMT_EV_TIME src) ∧
      ∀ i, i < 4 → reg t (Reg.MGMT_EV_DATA src i) = reg s (Reg.MGMT_EV_DATA src i)
     else (reg t (Reg.MGMT_EV_TIME src)).toNat = tb0 s ∧
      ∀ i, i < 4 → (reg t (Reg.MGMT_EV_DATA src i)).toNat = bitsOf data (64 * i) 64)

/-- Occurrences: an occurrence on v while SENT is 0 sends one message and sets SENT; one while SENT is 1 sets
LATE. A message goes out while MSI-X is enabled and neither the vector nor the function is masked; masked, it
waits in the pending bit array; disabled, it goes nowhere. HOST_VEC_ACK completes from every state with
nothing left to settle: for each bit written 1 whose SENT is set, SENT clears when LATE is 0; when LATE is 1,
LATE clears, one message goes out and SENT stays set. Bits written 0 keep SENT and LATE. -/
def Obligations.VectorsAcknowledgeOneByOne : Prop :=
  (∀ (s : State) (v : Nat), v < 64 →
    let t := vecOccur v s
    bitOf (reg t Reg.HOST_VEC_SENT).toNat v = true ∧
    (if bitOf (reg s Reg.HOST_VEC_SENT).toNat v then bitOf (reg t Reg.HOST_VEC_LATE).toNat v = true ∧ t.out = s.out
     else if s.cfg.msixEnable = false then t.out = s.out
     else if (tblGet {} s.msix v).masked || s.cfg.msixMask then v ∈ t.pba ∧ t.out = s.out else t.out = s.out ++ [.msix v])) ∧
  ∀ (s : State) (ack : DWord), s.settled →
    Completes (.hostVecAck ack) s (fun t => ∀ v, v < 64 →
      let sent := bitOf (reg s Reg.HOST_VEC_SENT).toNat v
      let late := bitOf (reg s Reg.HOST_VEC_LATE).toNat v
      if bitOf ack.toNat v && sent then
        bitOf (reg t Reg.HOST_VEC_LATE).toNat v = false ∧ bitOf (reg t Reg.HOST_VEC_SENT).toNat v = late ∧
        (late = true → s.cfg.msixEnable = true →
          if (tblGet {} s.msix v).masked || s.cfg.msixMask then v ∈ t.pba else Sent (.msix v) t)
      else bitOf (reg t Reg.HOST_VEC_LATE).toNat v = late ∧ bitOf (reg t Reg.HOST_VEC_SENT).toNat v = sent)

/-- With operands in range and nothing left to settle: a doorbell on a running ring below the ring size that
leaves at most size - 1 descriptors sets TAIL (12 bits; R411 keeps the size at 4,096 or less); one at or above
the size, or that puts more in the ring, stops it with error DOORBELL (2) and raises CMD_RING_ERR; on a ring
that does not run it changes no register and raises nothing. A ring whose head equals its tail has nothing to
take. Premise of the error case: no unit has four follow-ups waiting. -/
def Obligations.DoorbellMovesTheTail : Prop :=
  ∀ (s : State) (r : Nat) (tail : Word), s.settled → s.calm → r < 8 →
    let z := ringSize s r
    let h := fld s (Reg.CMD_RING_PTR_HEAD r)
    let u := fld s (Reg.CMD_RING_PTR_TAIL r)
    let n := (u + z - h) % z + (tail.toNat + z - u) % z
    (ringRuns s r = true → tail.toNat < z → n ≤ z - 1 → Completes (.cmdRingDb r tail) s (fun t =>
      fld t (Reg.CMD_RING_PTR_TAIL r) = tail.toNat % 4096 ∧ fld t (Reg.CMD_RING_PTR_HEAD r) = h ∧ ringRuns t r = true)) ∧
    (ringRuns s r = true → z ≤ tail.toNat ∨ z - 1 < n → Completes (.cmdRingDb r tail) s (fun t =>
      fld t (Reg.CMD_RING_STAT_STATE r) = 2 ∧ fld t (Reg.CMD_RING_STAT_ERR r) = 2 ∧ Ember evCmdRingErr t ∧
      fld t (Reg.CMD_RING_PTR_TAIL r) = u)) ∧
    (ringRuns s r = false → Completes (.cmdRingDb r tail) s (fun t => ∀ off, reg t off = reg s off)) ∧
    (h = u → takeable s r = false)

/-- With r below 8, nothing left to settle and, for an error, no unit with four follow-ups waiting: EN written
1 starts a stopped ring whose base, sizes and partition R411 allows, and otherwise stops it with error BASE
(1) and raises CMD_RING_ERR; EN written 0 stops a running one; RESET of a stopped ring sets HEAD, TAIL and the
completion pointers to 0, PHASE to 1 and LOST to 0; a write of CMD_CQ_PTR.HEAD is taken; DESCRIPTOR_TAKE takes
an unpoisoned descriptor with a known opcode from the first ring in round-robin order that has one: HEAD moves
on by one around the ring and the descriptor stands behind those taken. -/
def Obligations.RingsStartStopAndReset : Prop :=
  ∀ (s : State) (r : Nat), s.settled → r < 8 →
    (ringRuns s r = false → ringOk s r = true → Completes (.ringEnable r) s (fun t =>
      ringRuns t r = true ∧ fld t (Reg.CMD_RING_CTRL_EN r) = 1)) ∧
    (ringRuns s r = false → ringOk s r = false → s.calm → Completes (.ringEnable r) s (fun t =>
      fld t (Reg.CMD_RING_STAT_STATE r) = 2 ∧ fld t (Reg.CMD_RING_STAT_ERR r) = 1 ∧
      fld t (Reg.CMD_RING_CTRL_EN r) = 0 ∧ Ember evCmdRingErr t)) ∧
    (ringRuns s r = true → Completes (.ringDisable r) s (fun t =>
      fld t (Reg.CMD_RING_STAT_STATE r) = 0 ∧ fld t (Reg.CMD_RING_CTRL_EN r) = 0)) ∧
    (ringRuns s r = false → Completes (.ringReset r) s (fun t =>
      fld t (Reg.CMD_RING_PTR_HEAD r) = 0 ∧ fld t (Reg.CMD_RING_PTR_TAIL r) = 0 ∧ fld t (Reg.CMD_CQ_PTR_HEAD r) = 0 ∧
      fld t (Reg.CMD_CQ_PTR_TAIL r) = 0 ∧ fld t (Reg.CMD_CQ_PTR_PHASE r) = 1 ∧ fld t (Reg.CMD_RING_STAT_LOST r) = 0)) ∧
    (∀ head : BitVec 12, Completes (.cqHeadWrite r head) s (fun t => fld t (Reg.CMD_CQ_PTR_HEAD r) = head.toNat)) ∧
    ((ringOrder s).find? (takeable s) = some r →
      let h := fld s (Reg.CMD_RING_PTR_HEAD r)
      let m := memRead grpHost (fld s (Reg.CMD_RING_BASE_BASE r) + 64 * h) 64 (fresh s)
      m.2.2 = false → knownOp (dOp m.2.1) = true →
      Completes .descriptorTake s (fun t => (ring t r).taken = (ring s r).taken ++ [m.2.1] ∧ t.rrRing = r ∧
        fld t (Reg.CMD_RING_PTR_HEAD r) = (h + 1) % ringSize s r % 4096))

/-- COLD_START from OFF leads to HOUSEKEEPING at start-up step 2 with device memory, rings and activation
empty. WARM_RESET outside OFF, with no follow-up running or waiting, leads to HOUSEKEEPING at step 2 with
every ring empty and the link down. VIN_LOSS outside OFF leads to OFF with device memory and rings empty. Each
answers a next state from every such state. (That device memory reads as empty after power is lost is the
model's choice, log 5; step numbers are Table 17-5's.) -/
def Obligations.PowerCommandsMoveTheLamplighter : Prop :=
  (∀ s : State, lamp s = .off → Completes .coldStart s (fun t => lamp t = .housekeeping ∧
    fld t Reg.STR_STAT_STEP = 2 ∧ t.trigger = 1 ∧ t.mem = [] ∧ t.rings = [] ∧ t.act = none ∧ t.ns = s.ns)) ∧
  (∀ (s : State) (hot : Bool), lamp s ≠ .off → s.followUps = [] → Completes (.warmReset hot) s (fun t => lamp t = .housekeeping ∧
    fld t Reg.STR_STAT_STEP = 2 ∧ t.trigger = 2 ∧ t.rings = [] ∧ t.act = none ∧ fld t Reg.HOST_LINK_MODE = 0)) ∧
  (∀ s : State, lamp s ≠ .off → Completes .vinLoss s (fun t => lamp t = .off ∧ t.mem = [] ∧ t.rings = [] ∧ t.act = none))

/-- FUNCTION_LEVEL_RESET outside OFF, with nothing left to settle: every ring stops with HEAD and TAIL 0 and
no descriptor waiting; SENT, LATE, the MSI-X table and the password session clear; HDM decoders, HOST_APER,
keys, event routes and device memory are as before; the generation that completions of running commands are
matched against moves on. -/
def Obligations.FunctionLevelResetStopsTheRings : Prop :=
  ∀ s : State, s.settled → lamp s ≠ .off → Completes .functionLevelReset s (fun t =>
    (∀ r, r < 8 → fld t (Reg.CMD_RING_STAT_STATE r) = 0 ∧ fld t (Reg.CMD_RING_PTR_HEAD r) = 0 ∧
      fld t (Reg.CMD_RING_PTR_TAIL r) = 0 ∧ (ring t r).taken = []) ∧
    reg t Reg.HOST_VEC_SENT = 0 ∧ reg t Reg.HOST_VEC_LATE = 0 ∧ t.msix = [] ∧ fld t Reg.NVM_STAT_SESSION = 0 ∧
    t.hdm = s.hdm ∧ reg t Reg.HOST_APER = reg s Reg.HOST_APER ∧ t.keys = s.keys ∧ t.mem = s.mem ∧ t.flr = s.flr + 1 ∧
    ∀ e, e < 256 → reg t (Reg.HOST_ROUTE e) = reg s (Reg.HOST_ROUTE e))

/-- With the lamplighter in HOUSEKEEPING, nothing left to settle, no unit with four follow-ups waiting, no
orderly dark and no activation. Step 2 waits for a write of the patch pages, and then step 3 begins. Step 3:
step 4 begins where every locking PLL has locked; CPLL that has not is fatal. Step 4: where every regulator is
on and no record page is being written, step 7 begins (steps 5 and 6 pass at once); a regulator that failed is
in FAILED, the lamplighter in DARK_FAULT and the REGULATOR path holds. Step 7 with the population found, no
change of the data rate and no rank that failed: no channel that serves is fatal, and without an image the
start ends in HOST_WAIT, reason IMAGE. Step 8 waits for a lens record that is being written; with VLCD power-
good or not in use, and no recovery failed, step 9 begins; a VLCD ramp that missed is a rail fault, and step 9
begins all the same. Step 9: step 10 begins where the emitter rails are up; a ramp that missed is a rail
fault, and the start ends in HOST_WAIT, reason RAILS, with FAIL_STEP 9; else it goes on. Step 10 goes on until
every group in use has trained, and step 11 begins; step 12 follows it; and the end of step 12, with no PLAY
that waits for rails, is step 13: READY_DARK and STRUCT_DONE. -/
def Obligations.StartUpStepsFollowOneAnother : Prop :=
  ∀ (s : State) (info : StartInfo), lamp s = .housekeeping → s.settled → s.calm → s.orderly = none → s.act = none →
    let P (P : State → Prop) : Prop := Completes (.startupStepDone info) s P
    let step (n : Nat) (t : State) : Prop := lamp t = .housekeeping ∧ fld t Reg.STR_STAT_STEP = n
    (fld s Reg.STR_STAT_STEP = 2 → P (step (if writesIn s 64 320 then 2 else 3))) ∧
    (fld s Reg.STR_STAT_STEP = 3 →
      ((∀ p, p < 8 → pllState s p = 1 → bitOf info.pllLocked.toNat p = true) → P (step 4)) ∧
      (pllState s 5 = 1 → bitOf info.pllLocked.toNat 5 = false → s.clk.timedOut.contains 5 = false →
        P (fun t => lamp t = .darkFault))) ∧
    (fld s Reg.STR_STAT_STEP = 4 →
      (∀ r c, info.vrmFail = some (r, c) → r < 8 → P (fun t => vrmState t r = 4 ∧ lamp t = .darkFault ∧
        pathHolds t 8 = true)) ∧
      (info.vrmFail = none → writesIn s 1024 1536 = true → P (step 4)) ∧
      (info.vrmFail = none → writesIn s 1024 1536 = false → (∀ r, r < 8 → vrmPresent s r = true → vrmState s r = 3) →
        P (step 7))) ∧
    (∀ q, fld s Reg.STR_STAT_STEP = 7 → s.dram.pop = some q → q.type ≠ 0 → q.nch ≠ 0 → s.dram.setUp = true →
      s.dram.freqRun = none → s.dram.freqHeld = none → info.trainFail = [] →
      ((∀ c, c < nch s → channelTrained s c = false) → P (fun t => lamp t = .darkFault)) ∧
      (∀ c, c < nch s → channelTrained s c = true → s.cand = none → s.dram.spare = false →
        P (fun t => lamp t = .hostWait ∧ fld t Reg.STR_STAT_WHY = 1 ∧ t.img = none))) ∧
    (fld s Reg.STR_STAT_STEP = 8 →
      (s.lensRun ≠ none → P (step 8)) ∧
      (s.lensRun = none → info.recoverFail = [] →
        (railInUse s 3 = false ∨ railPhase s 3 = .pgood → P (step 9)) ∧
        (railInUse s 3 = true → railPhase s 3 = .ramping → info.vlcdOk = false →
          ¬ (s.railFaulted = true ∧ fld s Reg.RAIL_STAT_SEQ = 2) → P (fun t => step 9 t ∧
            bitOf (reg t Reg.RAIL_FAULT_STAT).toNat 3 = true ∧ pathHolds t 3 = true ∧ Ember evRailFault t)))) ∧
    (fld s Reg.STR_STAT_STEP = 9 →
      (info.railFail = none → P (step (if emittersUp s then 10 else 9))) ∧
      (∀ i, info.railFail = some i → i < 3 → railPhase s i = .ramping →
        ¬ (s.railFaulted = true ∧ fld s Reg.RAIL_STAT_SEQ = 2) → P (fun t => lamp t = .hostWait ∧
          fld t Reg.STR_STAT_WHY = 2 ∧ fld t Reg.STR_STAT_FAIL_STEP = 9 ∧ Ember evRailFault t ∧ pathHolds t 3 = true))) ∧
    (fld s Reg.STR_STAT_STEP = 10 → P (step (if groupsTrained s then 11 else 10))) ∧
    (fld s Reg.STR_STAT_STEP = 11 → P (step 12)) ∧
    (fld s Reg.STR_STAT_STEP = 12 → s.wantLight = false → P (fun t =>
      fld t Reg.STR_STAT_STEP = 13 ∧ lamp t = .readyDark ∧ Ember evStructDone t))

/-- Outside OFF, with nothing left to settle and no unit with four follow-ups waiting: VIN_WARN records the
supply and asserts the VIN path; VIN_RECOVER records the supply and allows the release; a short RESET_N pulse
is noted, and the seventeenth within 10 ms raises INPUT_FAULT; RESET_N low for more than 1 s raises
INPUT_FAULT and is held. The faults presume none of that input within 10 ms. -/
def Obligations.SupplyAndResetInputs : Prop :=
  ∀ s : State, s.settled → s.calm → lamp s ≠ .off →
    (∀ v, v < 65536 → Completes (.vinWarn v) s (fun t => fld t Reg.RAIL_VIN_MV = v ∧ fld t Reg.RAIL_VIN_WARN = 1 ∧
      pathHolds t 4 = true ∧ t.snuff.vinHigh = false)) ∧
    (∀ v, v < 65536 → Completes (.vinRecover v) s (fun t => fld t Reg.RAIL_VIN_MV = v ∧ t.snuff.vinHigh = true)) ∧
    Completes .resetNShortPulse s (fun t => (inputOf t inReset).edges.head? = some s.ns) ∧
    (inputQuiet s inReset = true → 16 < (recentEdges s inReset 10000000).length →
      Completes .resetNShortPulse s (fun t => Ember evInputFault t)) ∧
    (inputQuiet s inReset = true → Completes .resetNStuck s (fun t => Ember evInputFault t ∧
      (inputOf t inReset).held = true ∧ levelOf t inReset = false))

/-- With nothing left to settle: LINK_UP, outside OFF and from step 5 of a start on, on a link that is down,
with a partner that supports a mode and a speed and width that Table 13-1 lists for it, sets MODE to the first
mode the partner supports and SPEED and WIDTH to those in force, and raises CXL_LINK where the link had gone
down without a reset. LINK_DOWN of a trained link clears them, ends the NVM password session and raises
CXL_LINK. -/
def Obligations.TheLinkGoesUpAndDown : Prop :=
  ∀ s : State, s.settled →
    (∀ (partner : BitVec 3) speed width, (Instr.linkUp partner speed width).wf = true → lamp s ≠ .off →
      5 ≤ fld s Reg.STR_STAT_STEP → fld s Reg.HOST_LINK_MODE = 0 →
      linkMode partner.toNat ≠ 0 → linkRuns (linkMode partner.toNat) speed width = true →
      Completes (.linkUp partner speed width) s (fun t => fld t Reg.HOST_LINK_MODE = linkMode partner.toNat ∧
        fld t Reg.HOST_LINK_SPEED = speed ∧ fld t Reg.HOST_LINK_WIDTH = width ∧
        (s.linkLost = true → Ember evCxlLink t))) ∧
    (fld s Reg.HOST_LINK_MODE ≠ 0 → Completes .linkDown s (fun t => fld t Reg.HOST_LINK_MODE = 0 ∧
      fld t Reg.HOST_LINK_SPEED = 0 ∧ fld t Reg.HOST_LINK_WIDTH = 0 ∧ fld t Reg.NVM_STAT_SESSION = 0 ∧
      Ember evCxlLink t))

/-- With nothing left to settle, over CXL.mem where a committed decoder maps the whole access, and over the
aperture of 64 GiB in mode 3 within an HDM partition: a write whose lines store no wrong symbol and are served
by ranks in service stores its bytes, and every other byte of device memory is unchanged; a read of such
lines, none of them poisoned, returns the stored bytes. -/
def Obligations.HostMemoryAccesses : Prop :=
  ∀ s : State, s.settled →
    (∀ addr a data p, cxlMem s = true → hostMap s addr data.length = some a → sound s a data.length →
      Completes (.hostMemWrite addr data p) s (Stored a data s)) ∧
    (∀ addr a n, cxlMem s = true → hostMap s addr n = some a → sound s a n →
      (∀ line, a / 64 ≤ line → 64 * line < a + n → linePoisoned s line = false) →
      Completes (.hostMemRead addr n) s (fun t => Sent (.hostData (tblGetRun 0#8 s.mem a n) false) t ∧ t.mem = s.mem)) ∧
    (∀ off data p, fld s Reg.HOST_LINK_MODE = 3 → off + data.length ≤ bar2Size → inHdm s (fld s Reg.HOST_APER_BASE + off) data.length = true →
      fld s Reg.HOST_APER_BASE + off + data.length ≤ capacity s → sound s (fld s Reg.HOST_APER_BASE + off) data.length →
      Completes (.apertureAccess off (.write data p)) s (Stored (fld s Reg.HOST_APER_BASE + off) data s)) ∧
    (∀ off n, fld s Reg.HOST_LINK_MODE = 3 → off + n ≤ bar2Size → inHdm s (fld s Reg.HOST_APER_BASE + off) n = true →
      fld s Reg.HOST_APER_BASE + off + n ≤ capacity s → sound s (fld s Reg.HOST_APER_BASE + off) n →
      (∀ line, (fld s Reg.HOST_APER_BASE + off) / 64 ≤ line → 64 * line < fld s Reg.HOST_APER_BASE + off + n →
        linePoisoned s line = false) →
      Completes (.apertureAccess off (.read n)) s (fun t =>
        Sent (.hostData (tblGetRun 0#8 s.mem (fld s Reg.HOST_APER_BASE + off) n) false) t))

/-- With nothing left to settle: a decoder commit in mode 1 of one way within HDM partitions and capacity is
committed at its device address; in mode 2 the base programmed for a range maps the run of partitions it
stands for; a refused BAR0 access, with no unit having four follow-ups waiting, counts in HOST_ERR_CNT.ACCESS,
raises CXL_ERR and answers a read with zeros; a 64-bit write of a stopped ring's CMD_RING_BASE outside OFF is
taken; a read of TIME_TB_SEC latches the base's nanoseconds in TIME_TB_NS. -/
def Obligations.HostPortWrites : Prop :=
  ∀ s : State, s.settled →
    (∀ base size skip, fld s Reg.HOST_LINK_MODE = 1 → inParts s 0 skip size = true → skip + size ≤ capacity s →
      Completes (.hdmDecoderCommit 0 base size skip 1) s (fun t => tblGet {} t.hdm 0 = ⟨base, size, skip, true, false, skip, 1⟩)) ∧
    (∀ j base size skip ways x, j < 2 → fld s Reg.HOST_LINK_MODE = 2 → hdmRun s j = some x →
      Completes (.hdmDecoderCommit j base size skip ways) s (fun t => hostRange t j = some (base, x.2 - x.1, x.1))) ∧
    (∀ off size w, (Instr.bar0BadAccess off size w).wf = true → s.calm → Completes (.bar0BadAccess off size w) s (fun t =>
      Counted Reg.HOST_ERR_CNT_ACCESS s t ∧ Ember evCxlErr t ∧
      (w = false → Sent (.hostData (List.replicate size 0#8) false) t))) ∧
    (∀ r v, r < 8 → lamp s ≠ .off → ringRuns s r = false → Completes (.registerWrite (Reg.CMD_RING_BASE r) true v) s
      (fun t => fld t (Reg.CMD_RING_BASE_BASE r) = bitsOf v.toNat (Reg.CMD_RING_BASE_BASE r).lo
        ((Reg.CMD_RING_BASE_BASE r).hi - (Reg.CMD_RING_BASE_BASE r).lo + 1) ∧ t.held = none)) ∧
    (∀ b, b < 4 → Completes (.tbSecRead b) s (fun t => fld t (Reg.TIME_TB_NS_NS b) = totalOf s b % 1000000000))

/-- With nothing left to settle, outside OFF and outside the CXL.cachemem range, the MSI-X table and the
pending bits: a write of the low half of a 64-bit register changes no register and holds the half; the write
of the high half that follows then has the outcome that one 64-bit write of both halves has on the state
before. A write to a 32-bit register, to the CXL.cachemem range or to the MSI-X table in between discards the
held half. -/
def Obligations.TwoHalvesWriteAsOne : Prop :=
  ∀ (s : State) (off : Nat) (d : RegDef) (lo hi : Word), s.settled → lamp s ≠ .off →
    findReg off = some d → d.wide = true → off % 8 = 0 → ¬ (0x1000 ≤ off ∧ off < 0x3008) →
    ∃ t, exec (.registerWrite off false (lo.zeroExtend 64)) s = .next t ∧ (∀ o, reg t o = reg s o) ∧
      t.held = some (off, lo.toNat) ∧
      exec (.registerWrite (off + 4) false (hi.zeroExtend 64)) t = exec (.registerWrite off true (hi ++ lo)) s ∧
      ∀ (o : Nat) (v : DWord), o % 4 = 0 →
        (0x1000 ≤ o ∧ o < 0x2400 ∨ ∃ e, findReg o = some e ∧ e.wide = false) →
        Completes (.registerWrite o false v) t (fun u => u.held = none)

/-- With nothing left to settle: while dark, a write of SEL, T0 or TB3_SRC (not 3) is taken; a write of
TIME_TB0_SET_NS sets TB0 to SET_SEC seconds and the nanoseconds written, unless TB0 drives ticks while lit;
setting EN of a compare unit whose target is still ahead arms it with FIRED 0; one whose target is past fires
late at once; TIME_COMPARE on an armed unit counts and raises TIME_COMPARE, and disarms a unit that is not
periodic; HANDOVER_END leaves no handover. -/
def Obligations.TimeWritesTakeEffect : Prop :=
  ∀ s : State, s.settled →
    (∀ sel, isDark s = true → Completes (.timeSelWrite sel) s (fun t => selBase t = sel.toNat)) ∧
    (∀ t0, isDark s = true → Completes (.timeT0Write t0) s (fun t => reg t Reg.TIME_TICK_T0 = t0)) ∧
    (∀ src : BitVec 2, isDark s = true → src.toNat ≠ 3 → Completes (.tb3SrcWrite src) s (fun t => tb3Src t = src.toNat)) ∧
    (∀ ns : Word, (drivesTicks s 0 && isLit s) = false → Completes (.tb0StepWrite ns) s (fun t =>
      totalOf t 0 = (fld s Reg.TIME_TB0_SET_SEC_SEC * 1000000000 + ns.toNat) % totalMod ∧ Ember evTimeStep t)) ∧
    (∀ n (cfg : Word), n < 8 → flag s (Reg.TIME_CMP_CFG_EN n) = false → bitOf cfg.toNat 0 = true →
      let past := decide (0 < sdiff 64 (countOf s (bitsOf cfg.toNat 1 2)) (cmpTarget s n))
      Completes (.compareArm n cfg) s (fun t =>
        if past then Ember evTimeCompare t ∧ flag t (Reg.TIME_CMP_CFG_LATE n) = true
        else flag t (Reg.TIME_CMP_CFG_EN n) = true ∧ fld t (Reg.TIME_CMP_CFG_FIRED n) = 0)) ∧
    (∀ n, n < 8 → flag s (Reg.TIME_CMP_CFG_EN n) = true → Completes (.timeCompare n) s (fun t =>
      Ember evTimeCompare t ∧ Counted (Reg.TIME_CMP_CFG_FIRED n) s t ∧
      (flag s (Reg.TIME_CMP_CFG_PERIODIC n) = false → flag t (Reg.TIME_CMP_CFG_EN n) = false))) ∧
    Completes .handoverEnd s (fun t => handD t = 0 ∧ flag t Reg.TIME_TICK_CTRL_HANDOVER = false)

/-- With nothing left to settle and d below 2, the PTP commands while the client runs: a one-step Sync from
the selected master, or the Follow_Up of a two-step Sync, sets the base's OFFSET to the mean path delay less
the offset measured; a two-step Sync waits; an Announce with fewer than 255 steps is kept; a Pdelay_Resp that
was asked for sets the mean path delay; an ignored message is counted; the timeouts drop the selected master
or the reference; requests and replies go out. The filter, the servo's rate word, is a free value (log 6). -/
def Obligations.TimeBasesFollowTheirReferences : Prop :=
  ∀ (s : State) (d : Nat), s.settled → d < 2 →
    (∀ m : SyncMsg, ptpRuns s = true → (ptpOf s d).sel = some m.master → m.twoStep = false →
      let ms := wrapDiff (rxStamp s m.rx - ((m.origin * 65536 : Nat) : Int) - m.corr)
      Completes (.ptpSync d m) s (fun t => (ptpOf t d).ms = some ms ∧ Counted (Reg.TIME_PTP_CNT_SYNC d) s t ∧
        reg t (Reg.TIME_TB_OFFSET (d + 1)) = BitVec.ofNat 64 (ofSigned 64 ((ptpOf s d).mpd - ms)))) ∧
    (∀ m : SyncMsg, ptpRuns s = true → (ptpOf s d).sel = some m.master → m.twoStep = true →
      Completes (.ptpSync d m) s (fun t => (ptpOf t d).wait = some (m.master, m.seq.toNat, rxStamp s m.rx, m.corr))) ∧
    (∀ (m : FollowUpMsg) rx c, ptpRuns s = true → (ptpOf s d).wait = some (m.master, m.seq.toNat, rx, c) →
      let ms := wrapDiff (rx - ((m.origin * 65536 : Nat) : Int) - (c + m.corr))
      Completes (.ptpFollowUp d m) s (fun t => (ptpOf t d).wait = none ∧ (ptpOf t d).ms = some ms ∧
        reg t (Reg.TIME_TB_OFFSET (d + 1)) = BitVec.ofNat 64 (ofSigned 64 ((ptpOf s d).mpd - ms)))) ∧
    (∀ m : AnnounceMsg, ptpRuns s = true → m.steps.toNat < 255 → Completes (.announce d m) s (fun t =>
      ∃ n, (⟨m.master, m, n⟩ : Foreign) ∈ (ptpOf t d).masters)) ∧
    (∀ m : DelayRespMsg, ptpRuns s = true → (ptpOf s d).asked = some m.seq.toNat →
      flag s (Reg.TIME_PTP_CFG_P2P d) = true → Completes (.ptpDelayResp d m) s (fun t =>
        (ptpOf t d).mpd = wrapDiff (rxStamp s m.t4 - txStamp s m.t3 - m.corr) / 2 ∧ (ptpOf t d).asked = none)) ∧
    (ptpRuns s = true → Completes (.ptpIgnoredMessage d) s (Counted (Reg.TIME_PTP_CNT_BAD d) s)) ∧
    (ptpRuns s = true → Completes (.arpRequest (BitVec.ofNat 32 (fld s Reg.TIME_PTP_PORT_IPV4))) s
      (Sent (.arp (fld s Reg.TIME_PTP_PORT_IPV4)))) ∧
    (∀ id seq rx tx, ptpRuns s = true → flag s (Reg.TIME_PTP_CFG_P2P d) = true →
      Completes (.ptpPdelayReq d id seq rx tx) s
        (Sent (.ptp d ptpPdelayRespKind seq.toNat (txStamp s tx - rxStamp s rx).toNat))) ∧
    (ptpRuns s = true → flag s (Reg.TIME_PTP_CFG_P2P d) = true ∨ (ptpOf s d).sel ≠ none →
      let q := ((ptpOf s d).seq + 1) % 65536
      Completes (.ptpDelayReqTimer d) s (fun t => (ptpOf t d).asked = some q ∧
        Sent (.ptp d (if flag s (Reg.TIME_PTP_CFG_P2P d) then ptpPdelayReqKind else ptpDelayReqKind) q 0) t)) ∧
    Completes (.announceReceiptTimeout d) s (fun t => Counted (Reg.TIME_PTP_CNT_TIMEOUT d) s t ∧
      ∀ f, f ∈ (ptpOf t d).masters → some f.master ≠ (ptpOf s d).sel) ∧
    (tbState s (d + 1) = tbLocked ∨ tbState s (d + 1) = tbAcquiring → Completes (.syncTimeout d) s (fun t =>
      tbState t (d + 1) = if (d + 1) ∈ s.time.locked then tbHoldover else tbFree))

/-- With nothing left to settle and no unit with four follow-ups waiting: outside OFF every SYNC_IN edge is
noted; one that comes one period after the last qualified edge, with no more than two edges within the period
and no recent excess, is qualified; the loss of qualified edges, with no INPUT_FAULT of the input within 10
ms, raises INPUT_FAULT and starts qualification again. -/
def Obligations.SyncInIsQualified : Prop :=
  ∀ s : State, s.settled → s.calm →
    (lamp s ≠ .off → Completes .syncInEdge s (fun t => t.time.syncPrev.head? = some s.ns)) ∧
    (∀ g, lamp s ≠ .off → s.time.syncBad = none → s.time.syncGood = some g → onPeriod s g s.ns = true →
      (recentEdges s inSync (syncPeriod s)).length ≤ 2 →
      Completes .syncInEdge s (fun t => t.time.syncGood = some s.ns)) ∧
    (s.time.syncGood ≠ none → inputQuiet s inSync = true → Completes .syncLoss s (fun t =>
      Ember evInputFault t ∧ t.time.syncGood = none))

/-- With nothing left to settle and no unit with four follow-ups waiting, p below 8 and i below 4: APPLY while
dark on a PLL other than DPLL relocks it with its outputs gated; the fourth good window in a row locks a
locking PLL and opens its gates; an overshoot of more than 2 % relocks and counts; a locking PLL that has not
timed out raises PLL_LOCK at its timeout, and CPLL's at start-up is fatal; a reference lost reads not present
and raises CLK_MON, and the locked PLLs it feeds hold over; one that returns reads present; LREFCLK's offset
reads in CLK_REF_STAT.PPM. -/
def Obligations.ClocksLockAndRelock : Prop :=
  ∀ (s : State) (p : Nat), s.settled → s.calm → p < 8 →
    (isDark s = true → p ≠ 6 → Completes (.pllApply p) s (fun t => pllState t p = 1 ∧
      flag t (Reg.CLK_PLL_STAT_GATED p) = true)) ∧
    (∀ n, pllState s p = 1 → devWithin (deviation s p n) 100 = true → tblGet 0 s.clk.good p = 3 →
      Completes (.lockWindowEnd p n) s (fun t => pllState t p = 2 ∧ flag t (Reg.CLK_PLL_STAT_GATED p) = false)) ∧
    (∀ n, pllState s p ≠ 0 → 64 * pllMult s p * pllSteer s p * 102 < n * 2 ^ 62 * 100 →
      Completes (.overshootCheck p n) s (fun t => pllState t p = 1 ∧ Counted (Reg.CLK_PLL_CNT_OVERSHOOT p) s t ∧
        Ember evClkMon t)) ∧
    (pllState s p = 1 → s.clk.timedOut.contains p = false → p ≠ 5 ∨ lamp s ≠ .housekeeping →
      Completes (.pllLockTimeout p) s (fun t => t.clk.timedOut.contains p = true ∧ Ember evPllLock t)) ∧
    (pllState s 5 = 1 → s.clk.timedOut.contains 5 = false → lamp s = .housekeeping →
      Completes (.pllLockTimeout 5) s (fun t => lamp t = .darkFault)) ∧
    (∀ i, i < 4 → bitOf (fld s Reg.CLK_REF_STAT_PRESENT) i = true → Completes (.refLoss i) s (fun t =>
      bitOf (fld t Reg.CLK_REF_STAT_PRESENT) i = false ∧ Ember evClkMon t ∧
      ∀ q, q ∈ pllsOf s i → pllState s q = 2 → pllState t q = 3)) ∧
    (∀ i ps, i < 4 → bitOf (fld s Reg.CLK_REF_STAT_PRESENT) i = false → Completes (.refReturn i ps) s (fun t =>
      bitOf (fld t Reg.CLK_REF_STAT_PRESENT) i = true ∧ Ember evPllRefReturn t)) ∧
    (∀ x : Int, bitOf (fld s Reg.CLK_REF_STAT_PRESENT) 0 = true → bitOf (fld s Reg.CLK_REF_STAT_PRESENT) 1 = true →
      -32768 ≤ x → x ≤ 32767 → Completes (.refPpmCheck x) s (fun t => sfld t Reg.CLK_REF_STAT_PPM = x ∧
        (2000 < x.natAbs → s.clk.ppmAt = 0 → Ember evClkMon t)))

/-- With nothing left to settle and the chain ports on, p below 2 and i below 4: an input that hears blocks
and holds lock shows the lane and port of the last CTRAIN it delivers, and its polarity; CSTAT the partner's
good lanes; a lane that fails is counted and waits; one that returns waits no more; an offer on an UP port
that is up sets OFFER_RX and the address of R462 to R464 in a unit that is not head; a unit with role AUTO
whose UP port has not come up becomes head with address 1; CSTAT goes out on every lane, ADDR_OFFER on every
lane in use and DELAY_RESP on the lane of its DELAY_REQ, each lane where its output is clocked; a DELAY_RESP
of the sequence awaited is one exchange more; REMEASURE starts the good UP lanes of a member again. -/
def Obligations.ChainLanesAndAddresses : Prop :=
  ∀ (s : State) (p i : Nat), s.settled → chainOn s = true → p < 2 → i < 4 →
    (∀ heard b, let y := hearAll chainType (tblGet {} (portOf s p).rx i) heard
      y.1.lock = true → (y.2.reverse.find? fun x => rxCtl x && decide (rxType x = 0x60)) = some b →
      Completes (.ctrain p i heard) s (fun t =>
        tblGet 0 (portOf t p).seen i = 1 + bitsOf b.payload.toNat 8 2 + 4 * bitsOf b.payload.toNat 16 1 ∧
        bitOf (reg t (Reg.CHN_PORT_STAT p)).toNat (16 + i) = y.1.inv)) ∧
    (∀ w : DWord, Completes (.cstat p w) s (fun t => (portOf t p).partner = bitsOf w.toNat 8 4)) ∧
    ((inputFor (portOf s p) i).isSome = true → Completes (.chainLaneFail p i) s (fun t =>
      Counted Reg.CHN_CNT_LANE_FAIL s t ∧ (portOf t p).failed.contains i = true)) ∧
    ((portOf s p).failed.contains i = true → (inputFor (portOf s p) i).isSome = true →
      Completes (.chainLaneReturn p i) s (fun t => (portOf t p).failed = setErase i (portOf s p).failed)) ∧
    (∀ w : DWord, portUp s 0 = true → isHead s = false → Completes (.addrOffer w) s (fun t =>
      fld t Reg.CHN_STAT_OFFER_RX = bitsOf w.toNat 8 8 ∧
      fld t Reg.CHN_STAT_ADDR = (offerOutcome s (bitsOf w.toNat 8 8)).2 ∧
      (s.chain.outcome ≠ offerOutcome s (bitsOf w.toNat 8 8) → Ember evChainAddr t))) ∧
    (portUp s 1 = true → offerTx s ≠ 0 → clockedLanes s 1 (usedLanes s 1) ≠ [] →
      Completes .addrOfferTimer s (Sent (.chain 1 (clockedLanes s 1 (usedLanes s 1)) 0x62 (0x62 + offerTx s * 2 ^ 8) []))) ∧
    (portState s p ≠ 3 → clockedLanes s p (List.range 4) ≠ [] →
      Completes .cstatTimer s (Sent (.chain p (clockedLanes s p (List.range 4)) 0x61 (cstatBlock s p) []))) ∧
    (fld s Reg.CHN_CFG_ROLE = 1 → isHead s = false → s.chain.upSeen = false →
      Completes .chainHeadTimeout s (fun t => isHead t = true ∧ fld t Reg.CHN_STAT_ADDR = 1)) ∧
    (∀ (q : BitVec 8) (w : Word), portState s p ≠ 3 → clkRuns s 4 (4 * p + i) = true → Completes (.delayReq p i q w) s
      (Sent (.chain p [i] 0x64 (0x64 + q.toNat * 2 ^ 8 + w.toNat * 2 ^ 16) []))) ∧
    (∀ (w : DWord) t1 t4, portState s 0 ≠ 3 → bitsOf w.toNat 8 8 = (tblGet {} s.chain.delays i).seq →
      (tblGet {} s.chain.delays i).count < 256 → Completes (.delayResp i w t1 t4) s (fun t =>
        (tblGet {} t.chain.delays i).count = (tblGet {} s.chain.delays i).count + 1 ∧
        (tblGet {} t.chain.delays i).sum =
          (tblGet {} s.chain.delays i).sum + ((t4 : Int) - t1 - (bitsOf w.toNat 16 32 : Nat)))) ∧
    (isHead s = false → bitOf (goodLanes s 0) i = true → clkRuns s 4 i = true → Completes .remeasure s (fun t =>
      (tblGet {} t.chain.delays i).count = 0 ∧ (tblGet {} t.chain.delays i).sum = 0 ∧ Sent (.chain 0 [i] 0x63 0x63 []) t))

/-- With nothing left to settle and i below 4: the end of a delay starts the ramp, up or, when the rails
before it are off, down. With no orderly dark and no activation running, power-good of a ramping rail records
its voltage, and a rail whose ramp-down ends, with no PLAY waiting for rails and no start running, is off.
RAIL_CTRL.UP while dark with no sequence starts one, with VLCD when that is in use and off, and otherwise with
the first emitter rail in use that is off, in the order VGL, VGH, VSRC; RAIL_CTRL.DOWN starts one with the
first rail of the power-down order that is up. With no unit having four follow-ups waiting, a fault of a rail
that stands at its target, or a ramp that misses power-good, outside the power-down after an earlier fault,
sets the rail's ember bit, asserts the RAIL path and raises RAIL_FAULT; outside any power-down the rail goes
down. -/
def Obligations.RailsSequence : Prop :=
  ∀ (s : State) (i : Nat), s.settled → i < 4 →
    (railPhase s i = .delay → Completes (.railDelayExpire i) s (fun t => railPhase t i = .ramping)) ∧
    (railPhase s i = .downDelay → downTurn s i = true → Completes (.railDelayExpire i) s
      (fun t => railPhase t i = .down)) ∧
    (s.orderly = none → s.act = none →
      (∀ v : Int, railPhase s i = .ramping → -32768 ≤ v → v ≤ 32767 → Completes (.railPowerGood i v) s (fun t =>
        railPhase t i = .pgood ∧ bitOf (fld t Reg.RAIL_STAT_PGOOD) i = true ∧ sfld t (Reg.RAIL_MEAS_V i) = v)) ∧
      (railPhase s i = .down → s.wantLight = false → lamp s ≠ .housekeeping → Completes (.railRampDownDone i) s (fun t =>
        railPhase t i = .off ∧ bitOf (fld t Reg.RAIL_STAT_PGOOD) i = false))) ∧
    (isDark s = true → fld s Reg.RAIL_STAT_SEQ = 0 → lamp s ≠ .off →
      (railInUse s 3 = true → railPhase s 3 = .off → Completes .railUp s (fun t => fld t Reg.RAIL_STAT_SEQ = 1 ∧
        fld t Reg.RAIL_CTRL_UP = 1 ∧ railPhase t 3 = .delay)) ∧
      (∀ j, railInUse s 3 = false ∨ railUp s 3 = true → nextUp s = some j → Completes .railUp s (fun t =>
        fld t Reg.RAIL_STAT_SEQ = 1 ∧ fld t Reg.RAIL_CTRL_UP = 1 ∧ railPhase t j = .delay))) ∧
    (∀ j, isDark s = true → fld s Reg.RAIL_STAT_SEQ = 0 → downOrder.find? (fun k => railUp s k && decide (railPhase s k ≠ .delay)) = some j →
      Completes .railDown s (fun t => fld t Reg.RAIL_STAT_SEQ = 2 ∧ fld t Reg.RAIL_CTRL_DOWN = 1 ∧ railPhase t j = .down)) ∧
    (s.calm → ¬ (s.railFaulted = true ∧ fld s Reg.RAIL_STAT_SEQ = 2) →
      let P (t : State) : Prop := bitOf (reg t Reg.RAIL_FAULT_STAT).toNat i = true ∧ pathHolds t 3 = true ∧ Ember evRailFault t
      (∀ k (v : Int), (railPhase s i).good = true → Completes (.railFault i k v) s (fun t => P t ∧
        (fld s Reg.RAIL_STAT_SEQ ≠ 2 → railPhase t i ≠ .pgood))) ∧
      (∀ v : Int, railPhase s i = .ramping → Completes (.railRampTimeout i v) s (fun t => P t ∧
        (fld s Reg.RAIL_STAT_SEQ ≠ 2 → railPhase t i ≠ .ramping))))

/-- With nothing left to settle, r below 8 and outside OFF: a reading of a regulator that is not failed, with
no fault bit and, where it is on, within its window, sets STATUS and VOUT; a ramping one within 3 % of its
voltage is on while VIN is high. While VIN is high, one with a PMBus or mode failure, with a fault bit, that
is on and outside its window, or still ramping after 20 ms, fails: its state reads FAILED, the lamplighter is
in DARK_FAULT, the REGULATOR path holds, and VRM_EN is low, at once or as soon as the fault-ring entry that is
being written has been (R549). The fault bits of STATUS_WORD are the model's (log 11). -/
def Obligations.RegulatorsAreReadAndFail : Prop :=
  ∀ (s : State) (r : Nat), s.settled → r < 8 → lamp s ≠ .off →
    let bad (x : VrmReading) : Prop := Nat.land x.status.toNat (vrmFaultMask (decide (vrmState s r = 3))) ≠ 0 ∨
      vrmState s r = 3 ∧ vrmOutside s r x.vout.toNat = true
    let failed (t : State) : Prop := vrmState t r = 4 ∧ lamp t = .darkFault ∧ pathHolds t 8 = true ∧
      (t.vrmEn = false ∨ t.vrmFailed = true ∧ nvmHas t isRingWrite = true)
    (∀ x : VrmReading, vrmState s r ≠ 0 → vrmState s r ≠ 4 →
      (x.busFail = false → x.modeFail = false → ¬ bad x → Completes (.vrmPoll r x) s (fun t =>
        fld t (Reg.RAIL_VRM_STAT_STATUS r) = x.status.toNat ∧ fld t (Reg.RAIL_VRM_STAT_VOUT r) = x.vout.toNat ∧
        (vrmState s r = 2 → s.snuff.vinHigh = true → 97 * vrmVout (vrmEntry s r) ≤ 100 * x.vout.toNat →
          100 * x.vout.toNat ≤ 103 * vrmVout (vrmEntry s r) → vrmState t r = 3))) ∧
      (s.snuff.vinHigh = true → x.busFail = true ∨ x.modeFail = true ∨ bad x → Completes (.vrmPoll r x) s failed)) ∧
    (∀ w, vrmState s r = 2 → s.snuff.vinHigh = true → Completes (.vrmRampTimeout r w) s failed)

/-- With nothing left to settle: an update that can start takes the next common that is PENDING or OPEN;
settled VLCD starts its open write, or waits for the lens block and for VIN. The open write done starts the
waveform while VLCD is power-good; a phase boundary inside the waveform moves every segment to its phase
there; the waveform over, one with a reset first puts the common's levels at 0 and goes on with its
transitions, and any other starts the done write, or waits for the lens block, for VIN and for a restart of
the core; the done write done records the levels driven, raises LENS_DONE and leaves the driver idle. With no
unit having four follow-ups waiting, an overcurrent opens the common, or suspends it at the third fault, and
raises LENS_FAULT, and a second without a report raises LENS_FAULT. The ends of writes and the overcurrent
presume no LENS_FORCE work waits, and the ends of writes no group of the lens block that waits to be
rewritten. -/
def Obligations.LensUpdatesRunTheirCourse : Prop :=
  ∀ s : State, s.settled →
    (∀ c, lensCanStart s = true → (lensOrder s).find? (fun c => decide (commonState s c = 1 ∨ commonState s c = 3)) = some c →
      Completes .lensUpdateStart s (fun t => commonState t c = 2 ∧ lensBusyWith t = some c ∧
        fld t Reg.LENS_STAT_COMMON = c)) ∧
    (∀ c, s.lens.phase = .vlcd c →
      (s.lensRun = none → s.snuff.vinHigh = true → Completes .vlcdSettled s (fun t =>
        t.lens.phase = .opening c ∧ t.lensRun.isSome = true ∧ t.lens.driving = targetsOf s c)) ∧
      (s.lensRun ≠ none ∨ s.snuff.vinHigh = false → Completes .vlcdSettled s (fun t => t.lens.phase = .ready c ∧ t.lensRun = s.lensRun))) ∧
    (s.lens.forced = [] → s.lens.forceJob = none →
      (∀ c w, c < 16 → s.lensRewrite = [] → s.lensRun = some w → w.why = .lensOpen c → s.lens.phase = .opening c → railPhase s 3 = .pgood →
        Completes (.lensJournalOpenDone true) s (fun t => t.lens.phase = .wave c 0 ∧ t.lensRun = none ∧
          fld t Reg.LENS_STAT_DRIVING = 1 ∧ Sent (.lensDrive c (waveDrive s c 0)) t)) ∧
      (∀ c w, c < 16 → s.lensRewrite = [] → s.lensRun = some w → w.why = .lensDone c → s.lens.phase = .closing c → s.lens.driving.length = 96 →
        Completes (.lensJournalDoneComplete true) s (fun t => t.lens.phase = .idle ∧ t.lensRun = none ∧ Ember evLensDone t ∧
          ∀ g, g < 96 → fld t (lensLevel (96 * c + g)) = s.lens.driving.getD g 0 % 8)) ∧
      (∀ c k o, s.calm → c < 16 → o < 112 → s.lens.phase = .wave c k → Completes (.lensOvercurrent o) s (fun t =>
        t.lens.phase = .idle ∧ Ember evLensFault t ∧
        commonState t c = if 3 ≤ tblGet 0 s.lens.faults c + 1 then 4 else 3))) ∧
    (∀ c k, s.lens.phase = .wave c k →
      (k + 1 < (waveBounds s c).length → Completes .lensPhaseEnd s (fun t => t.lens.phase = .wave c (k + 1) ∧
        Sent (.lensDrive c (waveDrive s c (k + 1))) t)) ∧
      (waveOver s c k = true → s.lens.reset = true → c < 16 → (s.lens.driving.all fun v => decide (v = 0)) = false →
        Completes .lensWaveformEnd s (fun t => t.lens.phase = .wave c 0 ∧ t.lens.reset = false ∧
          ∀ z, z ∈ zonesOf c → fld t (lensLevel z) = 0)) ∧
      (waveOver s c k = true → s.lens.reset = false →
        (s.lensRun = none → s.snuff.vinHigh = true → s.restarting = false → Completes .lensWaveformEnd s (fun t =>
          t.lens.phase = .closing c ∧ t.lensRun.isSome = true ∧ fld t Reg.LENS_STAT_DRIVING = 0)) ∧
        (s.lensRun ≠ none ∨ s.snuff.vinHigh = false ∨ s.restarting = true → Completes .lensWaveformEnd s (fun t =>
          t.lens.phase = .ended c ∧ t.lensRun = s.lensRun ∧ fld t Reg.LENS_STAT_DRIVING = 0)))) ∧
    (s.calm → hasLens s = true → s.lens.noTemp = false → Completes .lensNoTemp s (fun t =>
      t.lens.noTemp = true ∧ Ember evLensFault t))

/-- With nothing left to settle: the running write of the main block below the journal, but for the patrol's,
ends with its bytes in the array and the write counted, whatever waits behind it and whoever owns it; where
nothing waits behind it a flush record, fault-ring entry, acknowledgement, candle page or rank record leaves
the block free, and the entry of a regulator failure takes VRM_EN low. A host write answers OK; the HI cell of
a mark is followed by its LO cell, and the LO cell puts the mark in force; a key record puts its key in force
with its counter and mark 0 and answers OK (with no broadcast waiting); a protection, rail or pin record and
the last page of a patch answer OK, the patch then installed; one of these records that fails answers
STORE_FAIL and leaves the array's bytes. A write of a record of the lens block ends with its bytes in the
array and counted. NVM_PATROL_READ moves on to the next group, and in a page that is being written it waits
for the write to finish. -/
def Obligations.StoreWritesEnd : Prop :=
  ∀ s : State, s.settled →
    (∀ w, s.nvmRun = some w → w.why ≠ .patrol → w.page < 8112 → w.off + w.data.length ≤ 256 →
      let P (P : State → Prop) : Prop := Completes (.nvmWriteDone false true) s P
      let ok (j : Job) (t : State) : Prop := jobOpen s j = true → completed j.tag j.opcode stOK 0 t = true
      P (fun t => nvmBytes t (256 * w.page + w.off) w.data.length = w.data ∧ Counted Reg.NVM_CNT_WRITES s t) ∧
      (w.why = .flush ∨ w.why = .faultRing ∨ w.why = .faultAck ∨ w.why = .candle ∨ (∃ c, w.why = .rank c) →
        s.nvmQueue = [] → P (fun t => t.nvmRun = none ∧ fld t Reg.NVM_STAT_BUSY = 0 ∧
          (s.vrmFailed = true → t.vrmEn = false))) ∧
      (∀ j, w.why = .host j → P (ok j)) ∧
      (∀ k m, w.why = .markHi k m → P (fun t => ∃ x, (t.nvmRun = some x ∨ x ∈ t.nvmQueue) ∧ x.why = .markLo k m)) ∧
      (∀ k m, k < 4 → w.why = .markLo k m → s.chain.waiting = [] → P (fun t =>
        fld t (Reg.CMD_KEY_MARK_MARK k) = m % 2 ^ 64 ∧ fld t (Reg.CMD_KEY_STAT_BUSY k) = 0)) ∧
      (∀ k p, k < 4 → w.why = .key k → keyPending s k = some p → s.chain.waiting = [] → P (fun t =>
        tblGet [] t.keys k = p.key.getD [] ∧ fld t (Reg.CMD_KEY_STAT_SET k) = b2n p.key.isSome ∧
        fld t (Reg.CMD_KEY_CTR_LAST k) = 0 ∧ fld t (Reg.CMD_KEY_MARK_MARK k) = 0 ∧ ok p.job t)) ∧
      (∀ j b, w.why = .protection j b → P (ok j)) ∧
      (∀ j, w.why = .rail j → P (ok j)) ∧
      (∀ j a, w.why = .pin j a → P (ok j)) ∧
      (∀ j p, w.why = .patch j p 0 → P (fun t => p ∈ t.patches ∧ ok j t)) ∧
      (∀ j, w.why = .rail j ∨ (∃ a, w.why = .pin j a) ∨ (∃ b, w.why = .protection j b) →
        Completes (.nvmWriteDone false false) s (fun t =>
          nvmBytes t (256 * w.page + w.off) w.data.length = nvmBytes s (256 * w.page + w.off) w.data.length ∧
          (jobOpen s j = true → completed j.tag j.opcode stStoreFail 0 t = true)))) ∧
    (∀ w, s.lensRun = some w → 8176 ≤ w.page → w.page < 8184 → w.off + w.data.length ≤ 256 →
      Completes (.nvmWriteDone true true) s (fun t => nvmBytes t (256 * w.page + w.off) w.data.length = w.data ∧
        Counted Reg.NVM_CNT_WRITES s t)) ∧
    (∀ kind, kind < 3 → pageBusy s (s.patrolGrp / 32) = false → Completes (.nvmPatrolRead kind) s (fun t =>
      t.patrolGrp = (s.patrolGrp + 1) % 262144)) ∧
    (∀ kind, kind < 3 → pageBusy s (s.patrolGrp / 32) = true → Completes (.nvmPatrolRead kind) s (fun t =>
      t.patrolGrp = s.patrolGrp))

/-- With nothing left to settle, no unit with four follow-ups waiting, g below 24 and n below 192: WLN_TRAIN
while dark puts every group in use in ACQ at attempt 1, RETRAIN one, and each reads 1 while what it started
runs; TRAIN_TIMEOUT begins the next attempt, or fails the group after the last. Blocks that bring a return
lane of a group in use to lock lock it with the polarity its receiver found; the first block after lock is
discarded; afterwards STATUS, LANE_ORDER and LENS_TEMP, told apart by their type bytes, are kept whole, an
unknown block is counted, 65,536 IDLE blocks freeze adaptation, of an input of a chain port as well, and the
lane's loss or 100 ms without STATUS clears the lock, counts, and raises the group's wicks' events; a relock
that takes longer than 300 µs is counted and raised. -/
def Obligations.WickGroupsTrainAndReport : Prop :=
  ∀ (s : State) (g n : Nat), s.settled → s.calm → g < 24 → n < 192 →
    (∀ h, h < 24 → isLit s = false → groupOn s h = true → Completes .wlnTrain s (fun t => flag t Reg.WLN_CTRL_TRAIN = true ∧
      ∀ k, k < 24 → groupOn s k = true → groupState t k = 1 ∧ fld t (Reg.WLN_GSTAT_ATTEMPT k) = 1)) ∧
    (groupOn s g = true → Completes (.retrain g) s (fun t => groupState t g = 1 ∧ fld t (Reg.WLN_GSTAT_ATTEMPT g) = 1 ∧
      flag t (Reg.WLN_GCFG_RETRAIN g) = true)) ∧
    (groupOn s g = true → 1 ≤ groupState s g → groupState s g ≤ 3 → Completes (.trainTimeout g) s (fun t =>
      if fld s (Reg.WLN_GSTAT_ATTEMPT g) < max 1 (fld s Reg.WLN_TRAIN_CFG_ATTEMPTS) then
        groupState t g = 1 ∧ fld t (Reg.WLN_GSTAT_ATTEMPT g) = fld s (Reg.WLN_GSTAT_ATTEMPT g) + 1
      else groupState t g = 5 ∧ Ember (8 * g) t)) ∧
    (∀ heard, groupOn s g = true → flag s (Reg.WLN_GSTAT_RET_LOCK g) = false →
      let x := (hearAll returnType (tblGet {} s.wln.rx g) heard).1
      x.lock = true → Completes (.returnLaneLock g heard) s (fun t =>
        flag t (Reg.WLN_GSTAT_RET_LOCK g) = true ∧ flag t (Reg.WLN_GSTAT_RET_INV g) = x.inv)) ∧
    (laneHears s g = true →
      (∀ w, (tblGet {} s.wln.rx g).first = true → Completes (.status g w) s (fun t =>
        (tblGet {} t.wln.rx g).first = false ∧ ∀ o, reg t o = reg s o)) ∧
      ((tblGet {} s.wln.rx g).first = false →
        (∀ w : DWord, w.toNat % 256 = 0x80 → Completes (.status g w) s (fun t => reg t (Reg.WLN_GSTATUS g) = w)) ∧
        (∀ w : DWord, w.toNat % 256 = 0x81 → Completes (.laneOrder g w) s (fun t => reg t (Reg.WLN_GORDER g) = w)) ∧
        (∀ w : DWord, w.toNat % 256 = 0x83 → Completes (.lensTemp g w) s (fun t => reg t (Reg.WLN_GLENS g) = w)) ∧
        Completes (.returnUnknownBlock g) s (Counted (Reg.WLN_GCNT_UNKNOWN g) s)) ∧
      Completes (.adaptFreeze g) s (fun t => bitOf (reg t Reg.WLN_RX_FROZEN).toNat g = true) ∧
      Completes (.returnLaneLoss g) s (fun t => flag t (Reg.WLN_GSTAT_RET_LOCK g) = false ∧
        Counted (Reg.WLN_GCNT_RET_LOSS g) s t ∧ Ember (8 * g) t) ∧
      Completes (.statusTimeout g) s (fun t => flag t (Reg.WLN_GSTAT_RET_LOCK g) = false ∧
        Counted (Reg.WLN_GCNT_RET_LOSS g) s t ∧ Ember (8 * g) t)) ∧
    (∀ p i, p < 2 → i < 4 → tblGet 0 (portOf s p).seen i ≠ 0 → Completes (.adaptFreeze (24 + 4 * p + i)) s (fun t =>
      i ∈ (portOf t p).frozen)) ∧
    (wickState s n = 2 ∨ wickState s n = 3 → Completes (.relockLate n) s (fun t =>
      Counted (Reg.WLN_W_RELOCK_LATE n) s t ∧ Ember n t))

/-- With nothing left to settle and a uniformity push being sent: a TABLE_ACK with status OK and the entry's
CRC on the return lane of the wick's group, not the first block after its lock, accepts the wick while another
is still being sent or awaited; that of the last wick, every other accepted, answers OK and switches: STATE
reads 2, and the banks flip at once while the raster is stopped, or wait for a row 0. 10 ms without one send
the wick's table again from address 0, up to three attempts in all, and count the retry; after the third the
wick has failed, and with no other still being sent or awaited its event is raised and the push ends with
status 0x57. The ends presume distinct wicks of the head, and the failure no unit with four follow-ups
waiting. -/
def Obligations.TableTransfersAreAcknowledged : Prop :=
  ∀ (s : State) (p : UniPush) (e : UniEntry), s.settled → s.rmap.push = some p → p.unpacking = false →
    p.switching = false → p.entries.find? (fun f => decide (f.wick = e.wick ∧ f.phase = 1)) = some e →
    (∀ (w : DWord), laneHears s (e.wick / 8) = true → (tblGet {} s.wln.rx (e.wick / 8)).first = false →
      w.toNat % 256 = 0x82 → bitsOf w.toNat 8 8 = e.wick → bitsOf w.toNat 16 8 = 0 →
      bitsOf w.toNat 24 32 = e.crc → (∃ f, f ∈ p.entries ∧ f.wick ≠ e.wick ∧ f.phase < 2) →
      Completes (.tableAck (e.wick / 8) w) s (fun t => ∃ q, t.rmap.push = some q ∧
        { e with phase := 2 } ∈ q.entries ∧ ∀ f, f ∈ q.entries → f.wick = e.wick → f.phase = 2)) ∧
    (∀ (w : DWord), laneHears s (e.wick / 8) = true → (tblGet {} s.wln.rx (e.wick / 8)).first = false →
      w.toNat % 256 = 0x82 → bitsOf w.toNat 8 8 = e.wick → bitsOf w.toNat 16 8 = 0 → bitsOf w.toNat 24 32 = e.crc →
      (p.entries.map UniEntry.wick).Nodup → (∀ f, f ∈ p.entries → f.wick < 192 ∧ (f.wick ≠ e.wick → f.phase = 2)) →
      Completes (.tableAck (e.wick / 8) w) s (fun t => fld t Reg.RMAP_UNI_STAT_STATE = 2 ∧
        (jobOpen s p.job = true → completed p.job.tag p.job.opcode stOK 0 t = true) ∧
        (rasterRuns s = true → t.scan.flips = p.entries.map UniEntry.wick) ∧
        (rasterRuns s = false → ∀ f, f ∈ p.entries → fld t (uniBank f.wick) = 1 - fld s (uniBank f.wick)))) ∧
    (s.calm → 3 ≤ e.attempts → e.wick < 192 → (∀ f, f ∈ p.entries → f.wick ≠ e.wick → 2 ≤ f.phase) →
      Completes (.tableAckTimeout e.wick) s (fun t => t.rmap.push = none ∧ fld t Reg.RMAP_UNI_STAT_STATE = 0 ∧
        Ember e.wick t ∧ (jobOpen s p.job = true → completed p.job.tag p.job.opcode 0x57 0 t = true))) ∧
    (e.attempts < 3 → Completes (.tableAckTimeout e.wick) s (fun t => ∃ q, t.rmap.push = some q ∧
      { e with sent := 0, phase := 0, attempts := e.attempts + 1 } ∈ q.entries ∧
      Counted Reg.RMAP_UNI_STAT_RETRIES s t))

/-- With nothing left to settle, no unit with four follow-ups waiting and the chain ports on: a beacon with a
bad CRC counts as missed; a good one to a unit that is not head sets TICK_LO, HOLD, HOPS and the slew
received; three intervals without one raise CHAIN_BEACON_LOSS; a BCAST with a bad CRC is counted; a good one
for another unit that repeats none taken within 100 µs is remembered and goes on on a DN port that is up; a
held NOP that is due executes, is counted and raises CHAIN_BCAST. -/
def Obligations.BeaconsAndBroadcasts : Prop :=
  ∀ s : State, s.settled → s.calm → chainOn s = true →
    (∀ m : BeaconMsg, portUp s 0 = true →
      let crc := crc32c (natLe m.ctrl.toNat 8 ++ natLe m.data1.toNat 8 ++ natLe m.data2.toNat 4)
      Completes (.beacon m) s (fun t =>
        if crc ≠ bitsOf m.data2.toNat 32 32 then Counted Reg.CHN_CNT_MISSED s t
        else isHead s = false → fld t Reg.CHN_BEACON_TICK_LO = bitsOf m.ctrl.toNat 8 16 ∧
          fld t Reg.CHN_BEACON_HOLD = bitsOf m.data1.toNat 48 1 ∧ fld t Reg.CHN_BEACON_HOPS = bitsOf m.data1.toNat 56 8 ∧
          t.chain.slew = toSigned 32 m.data2.toNat)) ∧
    (isHead s = false → Completes .chainBeaconLoss s (fun t => Ember evChainBeaconLoss t ∧ t.chain.badRun = 0)) ∧
    (∀ (c : DWord) d, d.length = 80 → portUp s 0 = true → crc32c d ≠ bitsOf c.toNat 24 32 →
      Completes (.bcast c d) s (Counted Reg.CHN_CNT_BCAST_BAD s)) ∧
    (∀ (c : DWord) d, d.length = 80 → portUp s 0 = true → crc32c d = bitsOf c.toNat 24 32 →
      (∀ x, x ∈ s.chain.copies → s.ns ≤ x.2.2 + 100000 → ¬ (x.1 = c ∧ x.2.1 = d)) →
      bcastForMe s (bitsOf c.toNat 8 8) = false → Completes (.bcast c d) s (fun t =>
        (c, d, s.ns) ∈ t.chain.copies ∧ (portUp s 1 = true → clockedLanes s 1 (usedLanes s 1) ≠ [] →
          Sent (.chain 1 (clockedLanes s 1 (usedLanes s 1)) 0x66 c.toNat d) t))) ∧
    (∀ h : Held, s.chain.held = [h] → bcastDue s h = true → dOp h.desc = 0x01 → Completes .bcastExecute s (fun t =>
      t.chain.held = [] ∧ Counted Reg.CHN_CNT_BCAST s t ∧ Ember 230 t))

/-- With nothing left to settle: on a channel that runs, with no request held or stalled, a request of a
client with tags that passes its check takes a tag and completes. A read's data return releases the tag, and
one wrong device is corrected, counted and raised; a write stores its bytes within the line and no others,
releases its tag and, with no read waiting, is served from the channel's queue. Level 2's round robin grants a
waiting request of the first class, of RT, HI, NRT and BG, that can be granted (the order of grants is the
model's where R314 leaves it, log 59). A request that holds a tag and is at the age limit is promoted once;
one at the starve limit raises ARB_STARVE and is counted. -/
def Obligations.MemoryRequestsComplete : Prop :=
  (∀ (s : State) (q : MemReq), s.settled → s.dram.arb = [] → s.dram.stalled = [] → channelRuns s (reqCh s q) = true →
    (tagRange s q).2 ≠ 0 → sound s q.addr 1 →
    let c := reqCh s q
    let p := servingRank s (placeOf s (q.addr / 64))
    (q.write = none →
      (linePoisoned s (q.addr / 64) = false → Completes (.memReadReturn c [q] 0) s (fun t =>
        heldReqs t = [] ∧ fld t (Reg.MFB_TAGS_IN_USE (tagClient q.group)) = 0 ∧ t.mem = s.mem)) ∧
      (∀ d, d < lineDevices s → tblGet 0 s.dram.ceWin (4 * c + p) + 1 ≤ fld s (Reg.DMC_ECC_CFG_CE_THRESH c) →
        Completes (.memReadReturn c [q] (BitVec.ofNat 18 (2 ^ d))) s (fun t => heldReqs t = [] ∧ Ember evMemCe t ∧
          Counted (Reg.DMC_ECC_CE_COUNT c p) s t ∧ fld t (Reg.DMC_ECC_CE_DEVICE c p) = d ∧
          ∀ b, tblGet 0#8 t.mem b = tblGet 0#8 s.mem b))) ∧
    (q.write ≠ none → issueCheck s q = .ok → Completes (.memWriteAccept c [q]) s (fun t =>
      Stored q.addr (reqData q) s t ∧ heldReqs t = [] ∧ (arbOf t c).writes = []))) ∧
  (∀ (pr : List Nat) (a : Arbiter) (h : HeldReq), levelTwo pr a = some (h, true) →
    h ∈ a.waiting ∧ ∀ k, k ∈ grantable a [] a.waiting → groupClass h.req.group ≤ groupClass k.req.group) ∧
  (∀ (s : State) (tag : Nat) (h : HeldReq), s.settled → reqOf s tag = some h →
    (s.dram.promoted.contains tag = false → (fld s Reg.MFB_CFG_AGE_LIMIT : Int) ≤ h.age s → Completes (.requestPromote tag) s
      (fun t => t.dram.promoted.contains tag = true ∧ reg t Reg.MFB_PROMOTED = reg s Reg.MFB_PROMOTED + 1)) ∧
    ((starveLimit s : Int) ≤ h.age s → s.dram.starveAt = 0 → Completes (.arbStarve tag) s (fun t => Ember evArbStarve t ∧
      Counted Reg.MFB_STARVE_COUNT s t ∧ fld t Reg.MFB_STARVE_GROUP = h.req.group % 16 ∧
      fld t Reg.MFB_STARVE_CH = reqCh s h.req % 16)))

/-- With nothing left to settle, on a channel c below 8: where the channel runs, a refresh with every bank of
the unit idle leaves no debt, with one open owes one more below the limit, and at the limit is forced: the
banks close and it is counted; a scrub that finds one wrong device in a line its rank serves corrects and
counts it; the row of the channel that has waited longest for its neighbours' refresh leaves the list on DDR5
and is counted; a migration copies its next line below the end of the rank. A calibration of a rank in
service, outside self-refresh, closes its open banks and changes no bank of another rank; of any other rank it
changes nothing; a hammer window's end empties the table; an idle open page closes; a correction window
restarts. While a frequency change trains with no other held, a step below 6 is followed by the next, and step
6 leaves the new rate in force and raises MEM_TRAIN; a held one that is allowed starts in its place. With none
running or held, in the full training of a start, a channel whose step ends goes on to the next. A candle-hour
update adds each zone's whole units. -/
def Obligations.DramIsKept : Prop :=
  ∀ (s : State) (c r : Nat), s.settled → c < 8 → r < 4 →
    (channelRuns s c = true →
      (∀ unit hot, unit < 4 →
        let limit := if isDdr5 s then 4 else 8
        let idle := !(refreshBanks s c unit).any (bankOpen s)
        let debt := tblGet 0 s.dram.debt (8 * c + unit)
        (idle = true → Completes (.refreshDue c unit hot) s (fun t => tblGet 0 t.dram.debt (8 * c + unit) = 0 ∧
          flag t (Reg.DMC_REFRESH_HOT c) = hot)) ∧
        (idle = false → debt + 1 < limit → Completes (.refreshDue c unit hot) s (fun t =>
          tblGet 0 t.dram.debt (8 * c + unit) = debt + 1)) ∧
        (idle = false → limit ≤ debt + 1 → Completes (.refreshDue c unit hot) s (fun t =>
          tblGet 0 t.dram.debt (8 * c + unit) = 0 ∧ (refreshBanks s c unit).any (bankOpen t) = false ∧
          Counted (Reg.DMC_REFRESH_FORCED c) s t))) ∧
      (∀ a d, fld s (Reg.DMC_SCRUB_PERIOD c) ≠ 0 → rankState s c r = 1 → 64 * (a / 64) < capacity s →
        (placeOf s (a / 64)).ch = c → servingRank s (placeOf s (a / 64)) = r → tblGet 0 s.dram.errs (a / 64) = 0 →
        d < lineDevices s → tblGet 0 s.dram.ceWin (4 * c + r) + 1 ≤ fld s (Reg.DMC_ECC_CFG_CE_THRESH c) →
        Completes (.scrubRead c r a (BitVec.ofNat 18 (2 ^ d))) s (fun t => Ember evMemCe t ∧
          Counted (Reg.DMC_ECC_CE_COUNT c r) s t)) ∧
      (∀ x, s.dram.sampled.find? (fun y => decide (y.ch = c)) = some x → Completes (.neighbourRefresh c) s (fun t =>
        fld t (Reg.DMC_HAMMER_STAT_SAMPLED c) = (fld s (Reg.DMC_HAMMER_STAT_SAMPLED c) + 1) %
          2 ^ ((Reg.DMC_HAMMER_STAT_SAMPLED c).hi - (Reg.DMC_HAMMER_STAT_SAMPLED c).lo + 1) ∧
        (isDdr5 s = true → t.dram.sampled = s.dram.sampled.erase x))) ∧
      (flag s (Reg.DMC_MIGRATE_ACTIVE c) = true → (∀ line, tblGet 0 s.dram.errs line = 0) →
        fld s (Reg.DMC_MIGRATE_PTR c) + 1 < rankLines (isDdr5 s) (dramRows s) →
        fld s (Reg.DMC_MIGRATE_PTR c) + 1 < 2 ^ ((Reg.DMC_MIGRATE_PTR c).hi - (Reg.DMC_MIGRATE_PTR c).lo + 1) →
        Completes (.migrationCopyLine c 0) s (fun t => fld t (Reg.DMC_MIGRATE_PTR c) = fld s (Reg.DMC_MIGRATE_PTR c) + 1))) ∧
    (∀ dqs, let on := (!dqs || isDdr5 s) && decide (c < nch s ∧ rankState s c r ≠ 0) && !s.dram.selfRefresh
      if on then Completes (.calibrationDue c r dqs) s (fun t => (∀ b, b < 64 → bankOpen t (bankIx c r b) = false) ∧
        ∀ q b, q < 4 → q ≠ r → b < 64 → bankOpen t (bankIx c q b) = bankOpen s (bankIx c q b))
      else Completes (.calibrationDue c r dqs) s (Frame [] s)) ∧
    Completes (.hammerWindowEnd c) s (fun t => tblGet [] t.dram.hammer c = []) ∧
    (∀ b, bankOpen s (bankIx c r b) = true → Completes (.pageIdleClose c r b) s (fun t => bankOpen t (bankIx c r b) = false)) ∧
    Completes (.ceWindowEnd c r) s (fun t => tblGet 0 t.dram.ceWin (4 * c + r) = 0 ∧ fld t (Reg.DMC_ECC_CE_WINDOW c r) = 0) ∧
    (∀ f upTo, s.dram.freqRun = some f → stepRuns s = true →
      (s.dram.freqHeld = none → upTo < 6 → Completes (.freqChangeDone upTo []) s (fun t =>
        t.dram.freqRun = some f ∧ ∀ k, k < nch s → k < 8 → fld t (Reg.DMC_TRAIN_STEP k) = upTo + 1)) ∧
      (s.dram.freqHeld = none → f < 65536 → Completes (.freqChangeDone 6 []) s (fun t =>
        fld t Reg.MFB_STAT_RATE = f ∧ t.dram.freqRun = none ∧ fld t Reg.MFB_FREQ_GO = 0 ∧ Ember evMemTrain t)) ∧
      (∀ h, s.dram.freqHeld = some h → rateRefused h s = false → Completes (.freqChangeDone upTo []) s (fun t =>
        t.dram.freqRun = some h ∧ t.dram.freqHeld = none ∧ flag t Reg.MFB_FREQ_PENDING = false ∧ pllState t 6 = 1))) ∧
    (∀ k fails, s.dram.freqRun = none → s.dram.freqHeld = none → s.dram.pop.isSome = true → trainsFull s = true →
      c < nch s → fld s (Reg.DMC_TRAIN_STEP c) = k → 1 ≤ k → k ≤ 6 → Completes (.freqChangeDone k fails) s (fun t =>
        fld t (Reg.DMC_TRAIN_STEP c) = k + 1)) ∧
    (lamp s ≠ .off → Completes .candleHourUpdate s (fun t => ∀ z, z ∈ zonesAll →
      tblGet 0 t.rmap.units z = (tblGet 0 s.rmap.units z + tblGet 0 s.rmap.acc z / 2 ^ 24) % 2 ^ 40))

/-- With nothing left to settle: MFB_FREQ.GO while dark and outside OFF sets TARGET, and starts the change
with every channel in self-refresh and DPLL relocking, also in place of one whose DPLL relocks, or holds it
while a channel trains; GO reads 1 meanwhile; AGING_RECALC makes recomputed gains pending, or puts them in
force at once under AUTO while the raster is stopped; a write of the aging mode is taken; LOG_UPDATE, which
then reads 1, and the snapshot timer begin a snapshot of the lamp log outside OFF. -/
def Obligations.DataRateAndAgingWrites : Prop :=
  ∀ s : State, s.settled →
    (∀ f, isDark s = true → lamp s ≠ .off → (stepRuns s || trainsUnknown s) = true →
      Completes (.mfbFreqGo f) s (fun t => fld t Reg.MFB_FREQ_TARGET = f.toNat ∧ flag t Reg.MFB_FREQ_PENDING = true ∧
        flag t Reg.MFB_FREQ_GO = true ∧ t.dram.freqHeld = some f.toNat)) ∧
    (∀ f, isDark s = true → lamp s ≠ .off → (stepRuns s || trainsUnknown s) = false →
      rateRefused f.toNat (setFld s Reg.MFB_FREQ_TARGET f.toNat) = false → Completes (.mfbFreqGo f) s (fun t =>
        fld t Reg.MFB_FREQ_TARGET = f.toNat ∧ t.dram.freqRun = some f.toNat ∧ t.dram.selfRefresh = true ∧
        flag t Reg.MFB_FREQ_GO = true ∧ pllState t 6 = 1)) ∧
    Completes .agingRecalc s (fun t =>
      if rasterRuns s = true ∨ fld s Reg.RMAP_AGING_CTRL_MODE ≠ 0 then
        t.rmap.pend = some (gainsAll s) ∧ flag t Reg.RMAP_AGING_STAT_PENDING = true
      else t.rmap.gains = gainsAll s ∧ t.rmap.pend = none) ∧
    (∀ m : BitVec 2, Completes (.agingModeWrite m) s (fun t => fld t Reg.RMAP_AGING_CTRL_MODE = m.toNat)) ∧
    (lamp s ≠ .off → Completes .logUpdate s (fun t => flag t Reg.MGMT_LOG_CTRL_UPDATE = true ∧ t.log.snaps.length = s.log.snaps.length + 1)) ∧
    (lamp s ≠ .off → Completes .snapshotTimer s (fun t => t.log.snaps.length = s.log.snaps.length + 1))

/-- With nothing left to settle and no unit with four follow-ups waiting: SNUFF_N low asserts the INPUT path
outside OFF; high for 10 ms allows its release; PROV_EN reads its level, but low on a level that comes as one
of more than four changes within 1 s while it was not held low for that already; SMBALERT_N low reads low, and
stuck low raises INPUT_FAULT; sixteen valid readings read in MGMT_THERM_SENS; a watchdog expiry restarts the
core and raises FW_WATCHDOG, and a second within 10 s ends in DARK_FAULT; the restart ends; a follow-up that
finishes hands over to the first that waits; a second is added to the lamp log; FIRST_FATAL clears when
acknowledged. -/
def Obligations.HealthCommandsAct : Prop :=
  ∀ s : State, s.settled → s.calm →
    (lamp s ≠ .off → Completes .snuffNLow s (fun t => pathHolds t 2 = true ∧ t.snuff.inputHigh = false)) ∧
    Completes .snuffNHigh s (fun t => t.snuff.inputHigh = true ∧ levelOf t inSnuff = true) ∧
    (∀ level, Completes (.provEnChange level) s (fun t => flag t Reg.GEN_STATE_PROV_EN =
      (level && ((inputOf s inProv).held || decide ((recentEdges s inProv 1000000000).length ≤ 4))))) ∧
    (∀ xs, Completes (.smbalertNLow xs) s (fun t => levelOf t inAlert = false)) ∧
    (lamp s ≠ .off → (inputOf s inAlert).held = false → inputQuiet s inAlert = true →
      Completes .smbalertNStuck s (fun t => Ember evInputFault t ∧ (inputOf t inAlert).held = true)) ∧
    (∀ xs : List Int, lamp s ≠ .off → xs.length = 16 → (∀ x, x ∈ xs → sensorInvalid x = false) →
      Completes (.thermalSample xs) s (fun t => ∀ i, i < 16 → sfld t (Reg.MGMT_THERM_SENS_TEMP i) = xs.getD i 0 ∧
        flag t (Reg.MGMT_THERM_SENS_INVALID i) = false)) ∧
    (lamp s ≠ .off → s.restarting = false → Completes .fwWatchdog s (fun t => Ember evFwWatchdog t ∧
      Counted Reg.MGMT_WDOG_RESTARTS s t ∧ t.restarting = true ∧
      (∀ r, s.restartAt = some r → s.ns < r + 10000000000 → lamp t = .darkFault))) ∧
    Completes .coreRestartDone s (fun t => t.restarting = false) ∧
    (∀ b i, s.restarting = false → (fuUnit s b i).running ≠ none → Completes (.followupDone b i) s (fun t =>
      (fuUnit t b i).running = (fuUnit s b i).waiting.head? ∧ (fuUnit t b i).waiting = (fuUnit s b i).waiting.drop 1)) ∧
    (lamp s ≠ .off → Completes .logSecond s (fun t => t.log.onSec = s.log.onSec + 1)) ∧
    (flag s Reg.MGMT_FF_SRC_VALID = true → Completes .firstFatalAck s (fun t => reg t Reg.MGMT_FF_SRC = 0)) ∧
    (∀ src, flag s Reg.GEN_STATE_TEST = true → Completes (.genTestForce src) s (fun t => Ember src.toNat t ∧
      fld t Reg.GEN_TEST_SRC = src.toNat))

/-- Asserting path p, 1 to 9: if it already holds, nothing changes. Otherwise it holds, every other path holds
as before, LOW reads the lowest code holding, every wick that sends carries BLANK with that code, LIGHTING and
LIT become SNUFFED and other states stay, and SNUFF is raised. -/
def Obligations.PathsAssertAndHold : Prop :=
  ∀ (s : State) (p : Nat), 1 ≤ p → p ≤ 9 →
    let t := assertPath p s
    (pathHolds s p = true → t = s) ∧
    (pathHolds s p = false →
      (∀ q, 1 ≤ q → q ≤ 9 → pathHolds t q = (decide (q = p) || pathHolds s q)) ∧
      fld t Reg.MGMT_SNUFF_STAT_LOW = lowPath t ∧ lamp t = (if isLit s then .snuffed else lamp s) ∧ Ember evSnuff t ∧
      ∀ n, n < 192 → wickSends s n = true → Sent (.wickCtl n 0x40 (blankBlock n (lowPath t))) t)

/-- An error of a unit: with no follow-up running it runs; else, equal in source and cause to one waiting, it
merges and nothing changes; else, with fewer than four waiting, it waits last; else MGMT_ESC records unit and
source, the lamplighter, outside OFF and DARK_FAULT, enters DARK_FAULT with WHY ESCALATION (6), and path 9
holds. The last presumes the invariant of the lens driver's units, none of which escalates. -/
def Obligations.AFifthErrorEscalates : Prop :=
  ∀ (s : State) (blk idx src cause data : Nat), blk < 256 → idx < 256 → src < 256 →
    let u := fuUnit s blk idx
    let t := followUp blk idx src cause data s
    (u.running = none → (fuUnit t blk idx).running = some ⟨src, cause⟩ ∧ (fuUnit t blk idx).waiting = u.waiting ∧ t.regs = s.regs) ∧
    (u.running ≠ none → (⟨src, cause⟩ : FollowUp) ∈ u.waiting → t = s) ∧
    (u.running ≠ none → (⟨src, cause⟩ : FollowUp) ∉ u.waiting → u.waiting.length < 4 →
      (fuUnit t blk idx).waiting = u.waiting ++ [⟨src, cause⟩] ∧ lamp t = lamp s) ∧
    (u.running ≠ none → (⟨src, cause⟩ : FollowUp) ∉ u.waiting → 4 ≤ u.waiting.length → lamp s ≠ .off →
      lamp s ≠ .darkFault → s.lensUnits → lamp t = .darkFault ∧ fld t Reg.STR_STAT_WHY = 6 ∧ fld t Reg.MGMT_ESC_UNIT = blk ∧
      fld t Reg.MGMT_ESC_SRC = src ∧ pathHolds t 9 = true)

/-- A SNUFF with AUTH clear passes the checks. In front of a ring that can answer, with nothing left to
settle: outside SNUFFED, the command path holds afterwards, every wick that sends carries BLANK when the path
did not hold before, and the command completes with OK; in SNUFFED it completes with OK and the snuff paths,
GEN_STATE and the lamp log are as before. -/
def Obligations.SnuffTakesTheCommandPath : Prop :=
  (∀ (s : State) (d : Bytes), dOp d = 0x11 → dAuth d = false → authCheck s d = .pass) ∧
  ∀ (s : State) (r : Nat) (d : Bytes), s.settled → ready cmdSnuff r d s = true →
    (lamp s ≠ .snuffed → Completes (.snuff r) s (fun t => answered d stOK t = true ∧ pathHolds t 1 = true ∧
      (pathHolds s 1 = false → ∀ n, n < 192 → wickSends s n = true → Sent (.wickCtl n 0x40 (blankBlock n (lowPath t))) t))) ∧
    (lamp s = .snuffed → Completes (.snuff r) s (fun t => answered d stOK t = true ∧ lamp t = .snuffed ∧
      reg t Reg.MGMT_SNUFF_STAT = reg s Reg.MGMT_SNUFF_STAT ∧ t.log = s.log))

/-- With nothing left to settle and an authenticated SNUFF_RELEASE in front of a ring that can answer: a path
1 to 9 holds afterwards exactly when it held and its release condition did not; the command completes with OK
when none holds, and otherwise with SNUFF_HELD and in DETAIL the lowest code still holding; its counter is its
slot's last accepted one either way. -/
def Obligations.SnuffReleaseReleasesWhatItCan : Prop :=
  ∀ (s : State) (r : Nat) (d : Bytes), s.settled → ready cmdSnuffRelease r d s = true →
    Completes (.snuffRelease r) s (fun t =>
      (∀ p, 1 ≤ p → p ≤ 9 → pathHolds t p = (pathHolds s p && !pathReleasable s p)) ∧
      (lowPath t = 0 → answered d stOK t = true) ∧
      (lowPath t ≠ 0 → completed (dTag d) (dOp d) stSnuffHeld (lowPath t) t = true) ∧
      fld t (Reg.CMD_KEY_CTR_LAST (dSlot d)) = dCounter d)

/-- With nothing left to settle and the command in front of a ring that can answer: NOP answers OK; TEST_ENTER
while dark sets GEN_STATE.TEST to MODE and answers OK; NVM_UNLOCK without lockout, with no password set or the
one in force, opens the session and answers OK; PAUSE outside STOPPED pauses a reel that plays or has ended
and answers OK; FW_PATCH REMOVE while dark deletes every patch and answers OK; GO_DARK starts orderly dark
from LIGHTING, LIT and SNUFFED, and answers OK in the other states. -/
def Obligations.SimpleRingCommandsAnswer : Prop :=
  ∀ (s : State) (r : Nat) (d : Bytes), s.settled →
    (ready cmdNop r d s = true → Completes (.nop r) s (fun t => answered d stOK t = true)) ∧
    (ready cmdTestEnter r d s = true → isDark s = true → dByte d 4 ≤ 1 → Completes (.testEnter r) s (fun t =>
      answered d stOK t = true ∧ fld t Reg.GEN_STATE_TEST = dByte d 4)) ∧
    (ready cmdNvmUnlock r d s = true → dByte d 4 = 0 → flag s Reg.NVM_STAT_LOCKOUT = false →
      flag s Reg.NVM_STAT_PW_SET = false ∨ sha256 (sliceB d 8 16) = passwordDigest s →
      Completes (.nvmUnlock r) s (fun t => answered d stOK t = true ∧ flag t Reg.NVM_STAT_SESSION = true ∧
        fld t Reg.NVM_UNLOCK_STAT_FAILS = 0)) ∧
    (ready cmdPause r d s = true → playState s ≠ plStopped → Completes (.pause r) s (fun t => answered d stOK t = true ∧
      playState t = if playState s = plPlaying ∨ playState s = plEnded then plPaused else playState s)) ∧
    (ready cmdFwPatch r d s = true → isDark s = true → dByte d 4 = 1 → Completes (.fwPatch r) s (fun t =>
      answered d stOK t = true ∧ t.patches = [])) ∧
    (ready cmdGoDark r d s = true → isLit s = true ∨ lamp s = .snuffed → Completes (.goDark r) s (fun t =>
      ∃ o, t.orderly = some o ∧ (jobOf (.ring r s.flr (ring s r).errors) d) ∈ o.jobs)) ∧
    (ready cmdGoDark r d s = true → isLit s = false → lamp s ≠ .snuffed → Completes (.goDark r) s (fun t =>
      answered d stOK t = true ∧ t.orderly = s.orderly))

/-- With nothing left to settle: in front of a ring that can answer, an allowed REEL_MAP SET whose entry lies
in sound memory, aligned, that the host's group may write (R310) enters the span; an allowed REEL_FETCH is
noted as running; PLAY of a record in a valid span, where the lamplighter does not bar it and the reel does
not play, moves the cursor there and plays; SEEK outside STOPPED moves the cursor; each answers OK but the
fetch, which runs. A unit of a fetch without ADV stores its 4,096 bytes; a read error counts and ends the
fetch; a fetch whose units have all landed answers OK. A write of REEL_WM is taken. -/
def Obligations.ReelCommandsAnswer : Prop :=
  ∀ (s : State) (r : Nat) (d : Bytes), s.settled →
    (ready cmdReelMap r d s = true → dByte d 4 = 0 → (reelMapOp d s).2 = stOK → spanAt s (leAt d 6 2) % 32 = 0 →
      writeCheck s grpHost (spanAt s (leAt d 6 2)) 32 = .ok → sound s (spanAt s (leAt d 6 2)) 32 → Completes (.reelMap r) s (fun t =>
      answered d stOK t = true ∧ (spanRaw t (leAt d 6 2)).start = leAt d 8 4 ∧
      (spanRaw t (leAt d 6 2)).len = leAt d 12 4 ∧ (spanRaw t (leAt d 6 2)).fill = leAt d 16 4)) ∧
    (ready cmdReelFetch r d s = true → leAt d 24 8 % 64 = 0 → 1 ≤ leAt d 12 4 → leAt d 12 4 ≤ 262144 → s.img.isSome = true →
      fetchOk s (bitOf (dByte d 4) 0) (leAt d 6 2) (leAt d 8 4) (leAt d 12 4) = true → Completes (.reelFetch r) s (fun t =>
      (liveFetches t).length = (liveFetches s).length + 1 ∧ fld t Reg.REEL_FETCH_STAT_RUNNING = (liveFetches s).length + 1)) ∧
    (ready cmdPlay r d s = true → playBarred s = false → bitOf (dByte d 4) 0 = false → playState s ≠ plPlaying →
      targetOk s d = true → Completes (.play r) s (fun t => answered d stOK t = true ∧ playState t = plPlaying ∧
        fld t Reg.REEL_CURSOR_SPAN = leAt d 6 2 ∧ fld t Reg.REEL_CURSOR_OFFSET = leAt d 8 4)) ∧
    (ready cmdSeek r d s = true → playState s ≠ plStopped → targetOk s d = true → Completes (.seek r) s (fun t =>
      answered d stOK t = true ∧ fld t Reg.REEL_CURSOR_SPAN = leAt d 6 2 ∧ fld t Reg.REEL_CURSOR_OFFSET = leAt d 8 4)) ∧
    (∀ f u x data, (liveFetches s)[f]? = some x → x.adv = false → u < x.count → x.inOrder ≤ u → x.ahead.contains u = false →
      let a := reelBase s + (x.dst + u) * reelUnit
      writeCheck s grpHost a reelUnit = .ok → sound s a reelUnit → Completes (.fetchUnitLanded f u data) s
        (Stored a (sliceB data 0 reelUnit) s)) ∧
    (∀ f u x, (liveFetches s)[f]? = some x → u < x.count → Completes (.fetchReadError f u) s (fun t =>
      Counted Reg.REEL_FETCH_STAT_FAILED s t ∧ x ∉ t.reel.fetches)) ∧
    (∀ f x, (liveFetches s)[f]? = some x → x.adv = false → x.count ≤ x.inOrder → jobOpen s x.job = true →
      Completes (.fetchComplete f) s (fun t => completed x.job.tag x.job.opcode stOK 0 t = true ∧ x ∉ t.reel.fetches)) ∧
    (∀ v, Completes (.reelWmWrite v) s (fun t => reg t Reg.REEL_WM = v))

/-- With nothing left to settle and the command, accepted, in front of a ring that can answer: RAIL_LIMITS
within range while dark, NVM_PROTECT, NVM_PASSWORD, CHAIN_PIN with a valid operation, KEY_ROTATE of its own
slot and KEY_LOAD with CLEAR each have their record's write running or waiting, the key slot busy; NVM_READ
and NVM_WRITE of an allowed range join the copies and the writes. A copy that finishes leaves the queue of
copies, and, from groups that read without error to sound memory that management may write, stores the array's
bytes at the destination and no others, and answers OK. -/
def Obligations.StoreCommandsQueueTheirWrites : Prop :=
  ∀ (s : State) (r : Nat) (d : Bytes), s.settled →
    (ready cmdRailLimits r d s = true → isDark s = true → railLimitsOk s d = true → Completes (.railLimits r) s (fun t =>
      nvmHas t isRailWrite = true)) ∧
    (ready cmdNvmProtect r d s = true → Completes (.nvmProtect r) s (fun t => nvmHas t isProtection = true)) ∧
    (ready cmdNvmPassword r d s = true → dByte d 4 = 1 ∨ dByte d 4 = 0 ∧ allZero (sliceB d 8 16) = false →
      Completes (.nvmPassword r) s (fun t => nvmHas t isProtection = true)) ∧
    (ready cmdChainPin r d s = true → dByte d 4 = 1 ∨ dByte d 4 = 0 ∧ dByte d 5 ≠ 0 ∧ dByte d 5 ≠ 255 →
      Completes (.chainPin r) s (fun t => nvmHas t isPinWrite = true)) ∧
    (ready cmdKeyRotate r d s = true → dSlot d = dByte d 4 → Completes (.keyRotate r) s (fun t =>
      slotBusy t (dByte d 4) = true ∧ ∃ p, keyPending t (dByte d 4) = some p)) ∧
    (ready cmdKeyLoad r d s = true → klBodyOk d = true → klClear d = true → klPlain d = false → klTarget d < 4 →
      dSlot d = klTarget d ∨ dSlot d = 1 → klSrc d = 0 → allZero (klDigest d) = true → klPermit d = 0 →
      Completes (.keyLoad r) s (fun t => slotBusy t (klTarget d) = true ∧ ∃ p, keyPending t (klTarget d) = some p)) ∧
    (ready cmdNvmRead r d s = true → 1 ≤ nrLen d → nrLen d ≤ 65536 → nrOff d + nrLen d ≤ 2097152 →
      inParts s (grantBit grpMgmt) (nrDst d) (nrLen d) = true →
      ((pagesOf (nrOff d) (nrLen d)).all fun p => decide (accessStatus s (pageRead p) = none) && !pageBusy s p) = true →
      Completes (.nvmRead r) s (fun t => t.nvmReads = s.nvmReads ++ [(jobOf (.ring r s.flr (ring s r).errors) d, d)])) ∧
    (∀ j e l, s.nvmReads = (j, e) :: l → Completes .nvmReadCopyDone s (fun t => t.nvmReads = l ∧
      (1 ≤ nrLen e → (∀ g, nrOff e / 8 ≤ g → 8 * g < nrOff e + nrLen e → tblGet 0 s.nvmBad g = 0) →
        mayWrite s grpMgmt (nrDst e) (nrLen e) → sound s (nrDst e) (nrLen e) →
        Stored (nrDst e) (nvmBytes s (nrOff e) (nrLen e)) s t ∧
        (jobOpen s j = true → completed j.tag j.opcode stOK 0 t = true)))) ∧
    (ready cmdNvmWrite r d s = true → 1 ≤ nrLen d → nrOff d % 256 + nrLen d ≤ 256 → nrOff d + nrLen d ≤ 2097152 →
      accessStatus s (pageWrite s (nrOff d / 256)) = none → nrOff d % 8 = 0 → nrLen d % 8 = 0 →
      Completes (.nvmWrite r) s (fun t => ∃ w, (t.nvmRun = some w ∨ w ∈ t.nvmQueue) ∧ w.page = nrOff d / 256 ∧
        w.off = nrOff d % 256 ∧ w.data.length = nrLen d ∧ w.why = .host (jobOf (.ring r s.flr (ring s r).errors) d)))

/-- With nothing left to settle and the command, accepted, in front of a ring that can answer: LENS_FORCE
RESET with a mask and a level makes the commons it names OPEN with that target while the driver is idle and
answers OK; RANK_RETIRE RETIRE of a serving rank whose channel has an unused spare starts its migration and
answers OK; CHAIN_BROADCAST to another unit sends BCAST on a DN port that is up and answers OK. After 1 ms of
blanking in orderly dark the raster stops and the reel does not play. -/
def Obligations.PanelAndChainCommandsAnswer : Prop :=
  ∀ (s : State) (r : Nat) (d : Bytes), s.settled →
    (ready cmdLensForce r d s = true → dByte d 4 = 0 → leAt d 6 2 ≠ 0 → dByte d 8 ≤ 7 → s.lens.phase = .idle →
      s.lens.forced = [] → Completes (.lensForce r) s (fun t => answered d stOK t = true ∧
        ∀ c, c < 16 → bitOf (leAt d 6 2) c = true → commonState t c = 3 ∧
          ∀ z, z ∈ zonesOf c → fld t (lensTarget z) = dByte d 8)) ∧
    (ready cmdRankRetire r d s = true → dByte d 4 = 0 → dByte d 6 < nch s → dByte d 6 < 8 → dByte d 7 ≤ 3 →
      rankState s (dByte d 6) (dByte d 7) = 1 → (spareOf s (dByte d 6)).isSome = true →
      Completes (.rankRetire r) s (fun t => answered d stOK t = true ∧ rankState t (dByte d 6) (dByte d 7) = 3 ∧
        flag t (Reg.DMC_MIGRATE_ACTIVE (dByte d 6)) = true)) ∧
    (ready cmdChainBroadcast r d s = true → dByte d 4 ≠ 0 → leAt d 8 8 % 64 = 0 → inHdm s (leAt d 8 8) 64 = true →
      portUp s 1 = true → bcastForMe s (dByte d 4) = false → sound s (leAt d 8 8) 64 →
      linePoisoned s (leAt d 8 8 / 64) = false → Completes (.chainBroadcast r) s (fun t => answered d stOK t = true ∧
        (clockedLanes s 1 (usedLanes s 1) ≠ [] →
          ∃ p x, Sent (.chain 1 (clockedLanes s 1 (usedLanes s 1)) 0x66 p x) t ∧ x.take 64 = tblGetRun 0#8 s.mem (leAt d 8 8) 64))) ∧
    (∀ o, s.orderly = some o → o.blanking = true → lamp s ≠ .housekeeping → Completes .orderlyDarkBlankEnd s (fun t =>
      flag t Reg.SCAN_STAT_RUN = false ∧ playState t ≠ plPlaying))

/-- From every state with nothing left to settle: after any command but SNUFF_RELEASE, VIN_LOSS and
WARM_RESET, every snuff path that held holds; but that CHAIN_BROADCAST, BCAST, BCAST_EXECUTE, and the end of a
store write and VIN_WARN, which let broadcasts go on, may execute a SNUFF_RELEASE where the broadcast that is
sent, arrives, is held or waits is one (mayRelease). (A cold start acts in OFF alone and starts with no path.)
-/
def Obligations.OnlyReleaseAndResetsReleaseAPath : Prop :=
  ∀ (c : Instr) (s t : State), s.settled → c.wf = true → lamp s ≠ .off → exec c s = .next t →
    mayRelease s c = false →
    ∀ p, 1 ≤ p → p ≤ 9 → pathHolds s p = true → pathHolds t p = true

/-- From every state in DARK_FAULT with nothing left to settle, a command other than WARM_RESET and VIN_LOSS
that answers a next state answers one in DARK_FAULT (Table 17-4). -/
def Obligations.DarkFaultIsLeftByResetsAlone : Prop :=
  ∀ (c : Instr) (s t : State), s.settled → c.wf = true → lamp s = .darkFault → exec c s = .next t → (∀ h, c ≠ .warmReset h) →
    c ≠ .vinLoss → lamp t = .darkFault

/-- With nothing left to settle: outside OFF, with a tick period in force, TICK numbers and times the tick;
with no overlay enabled it starts a scan frame in the stopped raster of a lit or snuffed head, and after a
boundary point with none deferred; else, while the raster runs, it is deferred and counted (behind a deferred
frame after the boundary point too: the model's choice, log 92). ROW_START passes a blanking row of the frame;
an active row that is blanked; an active row that every wick holds, which goes out behind its ROW_START on
every running wick that sends it (no overlay enabled); a row that a wick misses aborts the frame, counted and
raised. SCAN_RESTART sends FRAME_START and row 0 again. BOUNDARY_POINT ends the active rows (no overlay
enabled), puts the pending set in force, and makes a ready, due frame current. While the raster is stopped, a
row period sends the next TABLE block of a push, or its commit word. -/
def Obligations.TicksRowsAndBoundaryPointsRun : Prop :=
  ∀ s : State, s.settled →
    (lamp s ≠ .off → tickP s ≠ 0 → Completes .tick s (fun t => reg t Reg.TIME_TICK_COUNT = BitVec.ofNat 64 s.time.nextTick ∧
      reg t Reg.TIME_TICK_LAST = BitVec.ofNat 64 (tickTime s s.time.nextTick) ∧
      t.time.nextTick = (s.time.nextTick + 1) % 2 ^ 64 ∧
      (rasterRuns s = false ∧ building s = true ∧ ((planes s).all fun p => !p.en) = true ∨
          rasterRuns s = true ∧ s.scan.deferred = [] ∧ s.scan.past = true →
        t.scan.frame = s.time.nextTick ∧ t.scan.nextRow = 0 ∧ rasterRuns t = true) ∧
      (rasterRuns s = true → s.scan.deferred ≠ [] ∨ s.scan.past = false →
        t.scan.deferred = s.scan.deferred ++ [s.time.nextTick] ∧ Counted Reg.TIME_TICK_STAT_DEFER_CNT s t))) ∧
    (rasterRuns s = true → s.scan.started = true →
      (s.scan.past = true → s.scan.deferred = [] → s.scan.nextRow < s.scan.rows → s.rmap.push = none →
        ∀ late, Completes (.rowStart late) s (fun t => t.scan.nextRow = s.scan.nextRow + 1 ∧
          fld t Reg.SCAN_STAT_ROW = s.scan.nextRow % 65536)) ∧
      (∀ late, s.scan.past = false → s.scan.aborting = false → s.scan.dead = false → s.scan.nextRow < actRows s →
        (s.scan.live = false → Completes (.rowStart late) s (fun t => t.scan.nextRow = s.scan.nextRow + 1)) ∧
        (s.scan.live = true → missers s s.scan.nextRow = [] → ((planes s).all fun p => !p.en) = true →
          Completes (.rowStart late) s (fun t => t.scan.nextRow = s.scan.nextRow + 1 ∧
            ∀ n, n < 192 → sendsRow s n s.scan.nextRow = true → wickRuns s n = true →
              ∃ cs,
              let b := rowStartBlock s.scan.nextRow (frameNo s) n (fld s (uniBank n)) (b2n (decide (s.scan.aborts ≠ 0)))
                (b2n (s.wln.resume.contains n))
              Sent (.wickRow n s.scan.nextRow b cs (rowCrc b cs)) t)) ∧
        (s.scan.live = true → missers s s.scan.nextRow ≠ [] → Completes (.rowStart late) s (fun t =>
          t.scan.aborts = s.scan.aborts + 1 ∧ Counted Reg.SCAN_ABORT_STAT_COUNT s t ∧
          fld t Reg.SCAN_ABORT_STAT_ROW = s.scan.nextRow % 65536 ∧ Ember evScanAbort t))) ∧
      (s.scan.aborting = true → s.scan.live = true → s.scan.past = false → holdsFour s = true →
        Completes .scanRestart s (fun t => t.scan.nextRow = 1 ∧ t.scan.aborting = false ∧
          ∀ n, n < 192 → wickRuns s n = true → ∃ p, Sent (.wickCtl n 0x20 p) t)) ∧
      (s.scan.past = false → actRows s ≤ s.scan.nextRow ∨ s.scan.aborts ≠ 0 →
        (s.scan.witPend = [] → s.scan.pend = none → playState s = plStopped → ((planes s).all fun p => !p.en) = true →
          Completes .boundaryPoint s (fun t => t.scan.past = true)) ∧
        (∀ c, s.scan.pend = some c → Completes .boundaryPoint s (fun t => t.scan.pend = none ∧
          fld t Reg.SCAN_GEN_CUR = c.gen % 65536)) ∧
        (∀ x, s.scan.witPend = [] → s.scan.pend = none → rmapStaged s = false → playState s = plPlaying →
          s.reel.nc = some x → ncReady x = true → genReady s x.c.gen = true → x.knownLate = false →
          dueAt s x.c.pt (tickTime s (followingTick s)) = true → Completes .boundaryPoint s (fun t =>
            t.reel.cur = some x.c ∧ t.reel.nc = none)))) ∧
    (∀ p e l, rasterRuns s = false → s.rmap.push = some p → p.unpacking = false → p.switching = false → p.entries = e :: l →
      tableOpen s e.wick = true → 0 < tableLimit s e.wick → e.phase = 0 → Completes .rowPeriodInterval s (fun t =>
        if e.sent < e.words then ∃ x, Sent (.wickCtl e.wick 0x30 (tableBlock e.sent x)) t
        else Sent (.wickCtl e.wick 0x30 (tableBlock 0xFFFFFF e.crc)) t))

/-- With nothing left to settle and no unit with four follow-ups waiting: a lantern that can build, with
parity failures in sound lines alone, ends its row, and its quad goes on to the next; with the nominal ray map
and no layers, the FIFO of every wick of the quad gains the row, three values a column. A lantern that owes a
row and makes no progress, or one with a failed check, is FAULTED with its cause, and LANT_STALL is raised;
under AUTO_SPARE the lowest spare takes its quad over. A joining spare becomes ACTIVE. -/
def Obligations.LanternsBuildFailAndJoin : Prop :=
  ∀ (s : State) (l : Nat), s.settled → s.calm →
    (∀ clocks cpar, canBuild s l = true → (∀ a, a ∈ cpar → sound s (64 * a) 64 ∧ linePoisoned s a = false) → Completes (.lanternRowDone l clocks cpar) s (fun t =>
      (quadOf t (lantQuad s l)).row = (quadOf s (lantQuad s l)).row + 1 ∧
      (mapNominal s = true → curLayers s = [] → ∀ n, n ∈ quadWicks s (lantQuad s l) → ∃ vals,
        fifoOf t n = fifoOf s n ++ [⟨(quadOf s (lantQuad s l)).row, vals⟩] ∧ vals.length = 3 * wickCols s n))) ∧
    (let P (cause : Nat) (t : State) : Prop := fld t (Reg.LANT_FAULT_CAUSE l) = cause ∧ lantFaulted t l = true ∧
        lantState t l = 2 ∧ Ember evLantStall t ∧
        ∀ p, lantQuad s l < 48 → flag s Reg.LANT_CTRL_AUTO_SPARE = true → lowSpare s = some p → p ≠ l →
          xbarCur t (lantQuad s l) = p;
      (owesRow s l = true →
        Completes (.lanternProgressTimeout l) s (P 1)) ∧
      (∀ table, l < 50 → lantFaulted s l = false →
        Completes (.lanternCheckFault l table) s (P (if table = true then 3 else 2)))) ∧
    (l < 50 → lantState s l = 3 → Completes (.spareJoin l) s (fun t => lantState t l = 1))

/-- With nothing left to settle: while the reel plays or is paused and the decoder is free, a resident header
at the cursor that passes steps 1 to 5 is taken up, and one that fails them is refused, counted and reported
with DEC_ERR. A resident record that passes steps 6 to 10 is parsed, with the layers and places that its table
gives. Side data that unpack to valid cues give the record its cues. A record that passes step 12 has its body
decoded: from a record that reads without error, the planes that decode stand at their layers' places, where
they may be written to sound memory, and every other byte is as before. A carried layer's copy ends, and the
next is left: from planes that read without error to sound memory that may be written and that the planes do
not meet, their bytes stand at the copy's places, and every other byte is as before. Both presume no error to
inject. -/
def Obligations.RecordsAreDecodedStepByStep : Prop :=
  ∀ (s : State), s.settled →
    (∀ n o e h, s.reel.nc = none → playState s = plPlaying ∨ playState s = plPaused → s.reel.probe = false →
      cursor s = some (n, o) → spanOf s n = some e → o < e.len → o < e.fill →
      peekRange s grpDecoder (unitAt s e o) 256 = h.map some →
      (hdrCheck h = none → o + unitsOf (hRecLen h) ≤ e.len → Completes .decodeStart s (fun t =>
        ∃ x, t.reel.nc = some x ∧ x.hdr = h ∧ x.c.span = n ∧ x.c.off = o ∧ x.c.frame = hFrame h ∧ x.parsed = false)) ∧
      (∀ code off, hdrCheck h = some (code, off) → Completes .decodeStart s (fun t => t.reel.nc = none ∧
        Counted Reg.LDEC_CNT_REFUSED s t ∧ Ember evDecErr t))) ∧
    (∀ x e, s.reel.nc = some x → spanOf s x.c.span = some e →
      (∀ b l r, x.parsed = false → x.c.off + unitsOf x.c.recLen ≤ e.fill → hFlags x.hdr / 4 % 64 = 0 →
        seqFail s x.c x.hdr = none → genStale s x.c.gen = false →
        peekRange s grpDecoder (unitAt s e x.c.off + hLt x.hdr) (64 * hLayers x.hdr) = b.map some →
        tableCheck s x.hdr b (hLayers x.hdr) 0 (recRegions x.hdr) = .ok l →
        budgetCheck s x.hdr (ncAtlas s) l = .ok r → Completes .recordResident s (fun t =>
          ∃ y, t.reel.nc = some y ∧ y.parsed = true ∧ y.c.layers = r.1)) ∧
      (∀ u cs, x.parsed = true → x.side = false →
        poisonAt (hSdOff x.hdr) (peekRange s grpLossless (unitAt s e x.c.off + hSdOff x.hdr) (hSdLen x.hdr)) = none →
        unpackSide (peekRange s grpLossless (unitAt s e x.c.off + hSdOff x.hdr) (hSdLen x.hdr)) (hSdUlen x.hdr) = .ok u →
        cuesOf (hStrict x.hdr) u (u.length / 8 + 1) 0 = .ok cs → Completes .sideUnpackDone s (fun t =>
          ∃ y, t.reel.nc = some y ∧ y.side = true ∧ y.c.cues = cs)) ∧
      (x.parsed = true → x.body = false →
        crcOk x.hdr x.c.layers (peekRange s grpDecoder (unitAt s e x.c.off) x.c.recLen) = true →
        Completes .decodeDone s (fun t => (∃ y, t.reel.nc = some y ∧ y.body = true ∧
          y.c.layers.length = x.c.layers.length) ∧
        (noInject s → clean s (unitAt s e x.c.off) x.c.recLen →
          let ws : List (Nat × Bytes) := x.c.layers.flatMap fun k =>
            match decodePlanes (peekRange s grpDecoder (unitAt s e x.c.off) x.c.recLen) k k.offs 0 with
            | .ok ps => (ps.zip [k.yAt, k.cAt, k.aAt]).map fun p => (p.2, p.1)
            | .error _ => []
          (∀ w, w ∈ ws → mayWrite s grpDecoder w.1 w.2.length ∧ sound s w.1 w.2.length) → Placed ws s t)))) ∧
    (∀ x i a b l, s.reel.nc = some x → x.carries = (i, a, b) :: l →
      let ps := (a.sizes.zip [a.yAt, a.cAt, a.aAt]).zip [b.yAt, b.cAt, b.aAt]
      Completes .carryCopyDone s (fun t => t.reel.nc = some { x with carries := l } ∧
        (noInject s → (∀ p, p ∈ ps → clean s p.1.2 p.1.1 ∧ mayWrite s grpDecoder p.2 p.1.1 ∧ sound s p.2 p.1.1) →
          (∀ p q, p ∈ ps → q ∈ ps → overlaps p.1.2 p.1.1 q.2 q.1.1 = false) →
          Placed (ps.map fun p => (p.2, tblGetRun 0#8 s.mem p.1.2 p.1.1)) s t)))

/-- With nothing left to settle and the command in front of a ring that can answer: a COMMIT whose checks pass
makes its set pending with generation CUR + 1 while the raster runs, completing a set it replaces as merged,
and puts it in force and answers OK while the raster is stopped; one whose check fails answers COMMIT_REFUSED
with the code in DETAIL and leaves CUR. WITNESS_SET within the head waits for its boundary point while the
raster runs, and otherwise takes effect and answers OK. An inline LENS_SET of valid levels sets TARGET of each
zone, 0xF apart, and answers OK. -/
def Obligations.CommitsAndSettingsTakeEffect : Prop :=
  ∀ (s : State) (r : Nat) (d : Bytes), s.settled →
    (let a := accepted r d s
      let gen := (fld s Reg.SCAN_GEN_CUR + 1) % 65536
      ready cmdCommit r d s = true → s.img.isSome = true → (∀ c, s.scan.pend = some c → jobOpen s c.job = true) →
      ((commitCheck (snapshot a) gen a).2 = 0 → rasterRuns s = true → Completes (.commit r) s (fun t =>
        fld t Reg.SCAN_GEN_PEND = gen ∧ fld t Reg.SCAN_STAT_PEND = 1 ∧
        (∃ c, t.scan.pend = some c ∧ c.gen = gen ∧ c.shadow = snapshot a ∧ c.job = jobOf (.ring r s.flr (ring s r).errors) d) ∧
        ∀ c, s.scan.pend = some c → completed c.job.tag c.job.opcode stCommitMerged 0 t = true)) ∧
      ((commitCheck (snapshot a) gen a).2 = 0 → rasterRuns s = false → Completes (.commit r) s (fun t =>
        answered d stOK t = true ∧ fld t Reg.SCAN_GEN_CUR = gen ∧ t.scan.pend = none)) ∧
      ((commitCheck (snapshot a) gen a).2 ≠ 0 → Completes (.commit r) s (fun t =>
        completed (dTag d) (dOp d) stCommitRefused (commitCheck (snapshot a) gen a).2 t = true ∧
        fld t Reg.SCAN_GEN_CUR = fld s Reg.SCAN_GEN_CUR))) ∧
    (ready cmdWitnessSet r d s = true → s.img.isSome = true → dByte d 4 ≤ 63 → dByte d 5 ≤ 3 →
      leAt d 8 2 + leAt d 12 2 < geoPX s → leAt d 10 2 + leAt d 14 2 < geoPY s →
      (rasterRuns s = true → Completes (.witnessSet r) s (fun t => t.scan.witPend = s.scan.witPend ++
        [⟨jobOf (.ring r s.flr (ring s r).errors) d, dByte d 4, dByte d 5, leAt d 8 8, leAt d 16 4, leAt d 20 4⟩])) ∧
      (rasterRuns s = false → Completes (.witnessSet r) s (fun t => answered d stOK t = true ∧
        fld t (Reg.SCAN_WIT_CFG_MODE (dByte d 4)) = dByte d 5 ∧ fld t (Reg.SCAN_WIT_CFG_EXPECT (dByte d 4)) = leAt d 20 4 ∧
        reg t (Reg.SCAN_WIT_RECT (dByte d 4)) = BitVec.ofNat 64 (leAt d 8 8)))) ∧
    (ready cmdLensSet r d s = true → hasLens s = true → dByte d 4 = 1 → 1 ≤ leAt d 8 2 → leAt d 8 2 ≤ 56 →
      leAt d 6 2 + leAt d 8 2 ≤ 1536 →
      (((nibbles (sliceB d 12 28)).take (leAt d 8 2)).all fun v => decide (v ≤ 7 ∨ v = 15)) = true →
      Completes (.lensSet r) s (fun t => answered d stOK t = true ∧ ∀ i, i < leAt d 8 2 →
        fld t (lensTarget (leAt d 6 2 + i)) = if (nibbles (sliceB d 12 28)).getD i 0 = 15 then fld s (lensTarget (leAt d 6 2 + i))
          else (nibbles (sliceB d 12 28)).getD i 0))

/-- With nothing left to settle and the command in front of a ring that can answer: a RAYMAP_LOAD that its
checks allow, with no staging in progress, notes the generation as staging; when its image is valid, staging
ends with the generation staged, which swaps at once while the raster is stopped, unless on demand. A
UNIFORMITY_PUSH of a valid image begins to send; a packed one unpacks, and then begins. From a source that
reads without error to sound memory that may be written, with no error to inject, staging puts the image's
records and residues in the free slot, and unpacking the image in the staging region, and every other byte is
as before. A STRUCT_ACTIVATE that may run, with an image that passes every check, begins at once from memory
with nothing stored, and otherwise first writes its pages or record; an image that fails a check is answered
with STRUCT_REFUSED and leaves the image in force. -/
def Obligations.MapsTablesAndStructuresAreLoaded : Prop :=
  ∀ (s : State) (r : Nat) (d : Bytes), s.settled →
    (ready cmdRaymapLoad r d s = true → s.img.isSome = true → leAt d 6 2 ≠ 0 →
      fld s Reg.RMAP_GEN_CUR = 0 ∨ 0 < sdiff 16 (leAt d 6 2) (fld s Reg.RMAP_GEN_CUR) → leAt d 8 8 % 64 = 0 →
      inHdm s (leAt d 8 8) (leAt d 16 4) = true → meetsSlot s (leAt d 8 8) (leAt d 16 4) = false →
      fld s Reg.RMAP_STAT_NC = 0 ∨ bitOf (dByte d 4) 1 = true → s.rmap.job = none → Completes (.raymapLoad r) s (fun t =>
        fld t Reg.RMAP_STAT_NC = 1 ∧ fld t Reg.RMAP_GEN_STAGED = leAt d 6 2 ∧
        t.rmap.job = some (jobOf (.ring r s.flr (ring s r).errors) d, leAt d 8 8, leAt d 16 4, bitOf (dByte d 4) 0))) ∧
    (∀ j src len body, s.rmap.job = some (j, src, len, false) →
      mapCheck s (peekRange s grpLossless src len) (fld s Reg.RMAP_GEN_STAGED) = .ok body →
      let base := rmapBase s (1 - curSlot s)
      let ws := [(base, body.take (mapRecs s)), (base + residStart s, body.drop (mapRecs s))]
      (noInject s → clean s src len → (∀ w, w ∈ ws → mayWrite s grpLossless w.1 w.2.length ∧ sound s w.1 w.2.length) →
        Completes .raymapStageDone s (Placed ws s)) ∧
      (rmapSwapMode s = 2 → Completes .raymapStageDone s (fun t => fld t Reg.RMAP_STAT_NC = 2 ∧ t.rmap.job = none)) ∧
      (rmapSwapMode s ≠ 2 → rasterRuns s = false → Completes .raymapStageDone s (fun t => fld t Reg.RMAP_STAT_NC = 0 ∧
        fld t Reg.RMAP_GEN_CUR = fld s Reg.RMAP_GEN_STAGED ∧ fld t Reg.RMAP_STAT_NOMINAL = 0))) ∧
    (ready cmdUniformityPush r d s = true → s.img ≠ none → s.rmap.push = none → leAt d 8 8 % 64 = 0 →
      inHdm s (leAt d 8 8) (leAt d 16 4) = true →
      (bitOf (dByte d 4) 0 = true → Completes (.uniformityPush r) s (fun t => ∃ p, t.rmap.push = some p ∧
        p.unpacking = true ∧ p.src = leAt d 8 8 ∧ p.len = leAt d 16 4)) ∧
      (∀ es, bitOf (dByte d 4) 0 = false → (uniImage (leAt d 8 8) (leAt d 16 4) (accepted r d s)).2 = some es →
        Completes (.uniformityPush r) s (fun t => fld t Reg.RMAP_UNI_STAT_STATE = 1 ∧
          ∃ p, t.rmap.push = some p ∧ p.unpacking = false ∧ p.entries = es))) ∧
    (∀ p bs es, s.rmap.push = some p → p.unpacking = true → s.hle.uni.isSome = true →
      gunzip (peekRange (fresh s) grpLossless p.src p.len) (fld s Reg.RMAP_UNI_STAGE_SIZE_SIZE) = .ok bs →
      (uniImage (uniStage s) bs.length (clientWrite grpLossless (uniStage s) bs false
        (pipeBytes p.len bs.length (uniFree (memRead grpLossless p.src p.len (fresh s)).1)))).2 = some es →
      Completes .uniUnpackDone s (fun t => fld t Reg.RMAP_UNI_STAT_STATE = 1 ∧ ∃ q, t.rmap.push = some q ∧
        (q.unpacking = false ∧ q.entries = es ∧ q.src = uniStage s ∧ q.len = bs.length) ∧
        (noInject s → clean s p.src p.len → mayWrite s grpLossless (uniStage s) bs.length → sound s (uniStage s) bs.length →
          Placed [(uniStage s, bs)] s t))) ∧
    (let a := accepted r d s
      let x := sourceImage (acSource d) (leAt d 8 8) (leAt d 16 4) a
      ready cmdStructActivate r d s = true → actAllowed s = true → acBroken s d = false →
      (acStore d = true → fld s Reg.STR_ACTREC_SLOT ≠ acSlot d ∧ blockProtected s (slotPage (acSlot d)) = false) →
      (x.2.2.2.1 = none → validateTo13 x.1 x.2.1 x.2.2.1 x.2.2.2.2 = none → (validateFrom14 x.2.1 x.1).2 = none →
        (acStore d = true ∨ acSource d ≠ 0 → Completes (.structActivate r) s (fun t => ∃ y, t.act = some y ∧
          y.image = x.2.1.take (imgLen x.2.1) ∧ y.job = jobOf (.ring r s.flr (ring s r).errors) d ∧ y.begun = false)) ∧
        (acStore d = false → acSource d = 0 → (downOrder.any (railUp s)) = true → fld s Reg.RAIL_STAT_SEQ = 0 →
          Completes (.structActivate r) s (fun t => lamp t = .housekeeping ∧ ∃ y, t.act = some y ∧
            y.image = x.2.1.take (imgLen x.2.1) ∧ y.begun = true)) ∧
        (acStore d = false → acSource d = 0 → (downOrder.any (railUp s)) = false → fld s Reg.RAIL_STAT_SEQ = 0 →
          Completes (.structActivate r) s (fun t => t.img = some (x.2.1.take (imgLen x.2.1))))) ∧
      (x.2.2.2.1 = none → (validateTo13 x.1 x.2.1 x.2.2.1 x.2.2.2.2).isSome = true → Completes (.structActivate r) s (fun t =>
        answered d stStructRefused t = true ∧ t.img = s.img)))

/-- With nothing left to settle: a BLIT in front of a ring that can answer, in its turn, that passes the
checks of Table 12-4 runs, and BLT_STAT names it; one that fails a check answers with its status, which
BLT_LAST_ERR keeps. A running BLIT ends and frees the engine; one with no pixel to write is counted and
answers OK. One whose lines read without error and whose writes are allowed, to sound memory and with no error
to inject, writes its pixels, the writes of its rows in their order from the lines as they stood, changes no
other byte, is counted and answers OK. An HZ_JOB with a sound body and source chain queues. With no staging or
unpacking waiting and no HOLD, the next job starts on a free pool pipe; a job's end frees its pipe and raises
HZ_DONE. With sources that read without error, a destination chain of one buffer with END that meets nothing
it must not and is sound memory that may be written, as the result record is, and no error to inject: the end
of a COMPRESS whose form verifies stores the compressed form in the buffer, and of a DECOMPRESS of a stream
that ends well within the buffer what it decodes to; the result record says so, every other byte is as before,
and the job answers OK. -/
def Obligations.EnginesTakeTheirJobsAndEndThem : Prop :=
  ∀ (s : State) (r : Nat) (d : Bytes), s.settled →
    (ready cmdBlit r d s = true → blitTurn s = some r →
      (blCheck (accepted r d s) d (surfOf (surfNow s (blDst d))) (surfOf (surfNow s (blSrc d))) = none →
        Completes (.blit r) s (fun t =>
          t.blt.run = some ⟨jobOf (.ring r s.flr (ring s r).errors) d, r, d, surfNow s (blDst d), surfNow s (blSrc d)⟩ ∧
          fld t Reg.BLT_STAT_BUSY = 1 ∧ fld t Reg.BLT_STAT_RING = r ∧ fld t Reg.BLT_STAT_TAG = dTag d)) ∧
      (∀ st a, blCheck (accepted r d s) d (surfOf (surfNow s (blDst d))) (surfOf (surfNow s (blSrc d))) = some (st, a) →
        st ≠ 0 → st < 256 → Completes (.blit r) s (fun t => answered d st t = true ∧
          fld t Reg.BLT_LAST_ERR_STATUS = st ∧ t.blt.run = none))) ∧
    (∀ x, s.blt.run = some x → Completes .blitComplete s (fun t => t.blt.run = none ∧ fld t Reg.BLT_STAT_BUSY = 0) ∧
      (blEmpty x.desc (surfOf x.dst) = true → jobOpen s x.job = true → Completes .blitComplete s (fun t =>
        Counted Reg.BLT_CNT_DONE s t ∧ completed x.job.tag x.job.opcode stOK 0 t = true))) ∧
    (∀ x, s.blt.run = some x → blEmpty x.desc (surfOf x.dst) = false → noInject s →
      let lines := blLines x.desc (surfOf x.dst) (surfOf x.src) ++ blEdges x.desc (surfOf x.dst)
      let held : LineSet := lines.map fun n => (n, some (tblGetRun 0#8 s.mem (64 * n) 64))
      let ws := (blWork x.desc (surfOf x.dst) (surfOf x.src) held).map fun w => (w.1.1, w.1.2.map Prod.fst)
      (∀ n, n ∈ lines → clean s (64 * n) 64) →
      (∀ w, w ∈ ws → writeCheck s grp2d w.1 w.2.length = .ok ∧ sound s w.1 w.2.length) →
      Completes .blitComplete s (fun t => Placed ws s t ∧ Counted Reg.BLT_CNT_DONE s t ∧
        (jobOpen s x.job = true → completed x.job.tag x.job.opcode stOK 0 t = true))) ∧
    (∀ src, ready cmdHzJob r d s = true → hzBodyOk s d = true →
      (readChain (chainFuel (accepted r d s)) (hzSrc d) 0 [] (accepted r d s)).2 = some src →
      Completes (.hzJob r) s (fun t => t.hle.queue = s.hle.queue ++ [⟨jobOf (.ring r s.flr (ring s r).errors) d, r, d, src⟩])) ∧
    (∀ p x, stageWants s = false → uniWants s = false → flag s Reg.HLE_CTRL_HOLD = false → freePipe s = some p →
      hzNext s = some x → Completes .hzJobStart s (fun t => tblGet none t.hle.run p = some x ∧ pipeState t p = 1 ∧
        t.hle.queue = s.hle.queue.erase x)) ∧
    (∀ p x, p < 4 → tblGet none s.hle.run p = some x → Completes (.hzJobEnd p) s (fun t =>
      tblGet none t.hle.run p = none ∧ pipeState t p = 0 ∧ Ember evHzDone t)) ∧
    (∀ p x a n, p < 4 → tblGet none s.hle.run p = some x → noInject s → 0 < n → n < 2 ^ 32 → a < 2 ^ 64 →
      (∀ b, b ∈ x.src → clean s b.1 b.2) → clean s (hzDst x.desc) 16 →
      tblGetRun 0#8 s.mem (hzDst x.desc) 16 = natLe a 8 ++ natLe n 4 ++ [1#8, 0#8, 0#8, 0#8] →
      ((hzAvoid x).any fun b => overlaps a n b.1 b.2) = false → hzResOk s x.desc = true →
      mayWrite s grpLossless (hzRes x.desc) 32 → sound s (hzRes x.desc) 32 →
      let src := x.src.flatMap fun b => tblGetRun 0#8 s.mem b.1 b.2
      let room (out : Bytes) : Prop := out.length ≤ n ∧ mayWrite s grpLossless a out.length ∧ sound s a out.length
      let ends (out : Bytes) (q : HzResult) : Prop := Completes (.hzJobEnd p) s (fun t =>
        Placed [(a, out), (hzRes x.desc, hzRecordBytes q)] s t ∧
        (jobOpen s x.job = true → completed x.job.tag x.job.opcode stOK 0 t = true))
      (let out := deflate src (hzEffort x.desc) (hzLazy x.desc) (hzRaw x.desc)
       hzOp x.desc = 1 → room out → hzVerify (hzRaw x.desc) out src.length = (src, true) →
       ends out { status := 0, members := b2n (!hzRaw x.desc), crc := crc32 src, inPos := src.length,
                   outJob := out.length, outTotal := out.length }) ∧
      (∀ y out, hzOp x.desc = 0 → room out → out.length ≤ 300 * infFuel (src.map some) →
        infRun (infFuel (src.map some)) (out.length + 1)
          { r := ⟨src.map some, 0, 0⟩, raw := hzRaw x.desc, multi := hzMulti x.desc } = (y, out, some .ended) →
        ends out { status := 0, members := y.members, crc := Nat.xor y.crc 0xFFFFFFFF, inPos := ceilDiv y.r.pos 8,
                   outJob := out.length, outTotal := out.length }))

/-- For a descriptor with AUTH whose slot is set and not busy and whose MAC matches, the checks answer
AUTH_REPLAY exactly when its unsigned counter is not greater than CMD_KEY_CTR.LAST, or is above 2^64 - 256 and
the command is not KEY_ROTATE with 2^64 - 1. With nothing left to settle, such a NOP in front of a ring that
can answer, taken since the ring's last CQ_WRITE error, completes with AUTH_REPLAY, raises AUTH_FAIL, and
leaves the slot's last counter. -/
def Obligations.CountersPassInOrder : Prop :=
  ∀ (s : State) (d : Bytes), dAuth d = true → slotBusy s (dSlot d) = false → slotSet s (dSlot d) = true →
    macOk (keyOf s (dSlot d)) d = true →
    (authCheck s d = .fail stAuthReplay ↔ ¬ (fld s (Reg.CMD_KEY_CTR_LAST (dSlot d)) < dCounter d ∧
      (dCounter d ≤ 2 ^ 64 - 256 ∨ dOp d = 0x83 ∧ dCounter d = 2 ^ 64 - 1))) ∧
    (∀ r, s.settled → openRing s r = true → (ring s r).doomed = 0 → (ring s r).taken.head? = some d → dOp d = 0x01 → frontFree s r d = true →
      frontAuth s r d = .fail stAuthReplay → Completes (.nop r) s (fun t => answered d stAuthReplay t = true ∧
        Ember evAuthFail t ∧ fld t (Reg.CMD_KEY_CTR_LAST (dSlot d)) = fld s (Reg.CMD_KEY_CTR_LAST (dSlot d))))
end

