-- ==== Sys2Proof/Machine/Balls.lean ====
section
/-! DEFINITION. Where the balls lie (R568 to R572, Table 19-2): which outputs and inputs of the block the wicks,
lanes and pins of the commands are. -/

namespace Sys2Proof.Machine

/-- A ball of the 66 × 66 array, rows and columns from 1 (R568). -/
structure Ball where
  row : Nat
  col : Nat
deriving DecidableEq, Repr

def Ball.onArray (b : Ball) : Bool := decide (1 ≤ b.row ∧ b.row ≤ 66 ∧ 1 ≤ b.col ∧ b.col ≤ 66)

/-- The ball one column higher: the second of a pair. -/
def Ball.next (b : Ball) : Ball := ⟨b.row, b.col + 1⟩

/-- TXP of the output of wick `n`; TXN is next to it (R570). -/
def wickTxp (n : Nat) : Ball :=
  let g := n / 8
  let i := n % 8
  ⟨9 * (g / 12) + 1 + 2 * (i / 2), 4 + 5 * (g % 12) + 3 * (i % 2)⟩

/-- RXP of return lane `g`; RXN is next to it (R570). -/
def returnRxp (g : Nat) : Ball := ⟨9 * (g / 12) + 9, 4 + 5 * (g % 12)⟩

/-- TXP and RXP of lane `j` of chain port `p` (0 UP, 1 DN); the second of each pair is next to it (R571). -/
def chainTxp (p j : Nat) : Ball := ⟨9 * p + 1 + 2 * j, 1⟩
def chainRxp (p j : Nat) : Ball := ⟨9 * p + 2 + 2 * j, 2⟩

/-- TXP and RXP of CXL lane `j` (R571). -/
def cxlTxp (j : Nat) : Ball := ⟨1 + 2 * j, 64⟩
def cxlRxp (j : Nat) : Ball := ⟨2 + 2 * j, 65⟩

/-- TST[k] (R572). -/
def tstBall (k : Nat) : Ball := ⟨57 + k / 6, 55 + k % 6⟩

/-- Signals of Table 19-2 with one ball, or the first ball of a pair. -/
inductive Named where
  | resetN | snuffN | provEn | chainHead | tck | tms | tdi | tdo | trstN | thermDa | perstN | clkreqN | wakeN
  | xtalIn | lrefclkP | cxlRefclkP | syncInP | syncOutP | ethTxp | ethRxp | mdc | mdio | rcalCxl | rcalCxlRtn
deriving DecidableEq, Repr

/-- Table 19-2. -/
def Named.ball : Named → Ball
  | .resetN => ⟨56, 57⟩
  | .snuffN => ⟨56, 58⟩
  | .provEn => ⟨56, 59⟩
  | .chainHead => ⟨56, 60⟩
  | .tck => ⟨64, 53⟩
  | .tms => ⟨64, 54⟩
  | .tdi => ⟨64, 55⟩
  | .tdo => ⟨64, 56⟩
  | .trstN => ⟨64, 57⟩
  | .thermDa => ⟨66, 49⟩
  | .perstN => ⟨18, 64⟩
  | .clkreqN => ⟨18, 65⟩
  | .wakeN => ⟨18, 66⟩
  | .xtalIn => ⟨58, 49⟩
  | .lrefclkP => ⟨60, 49⟩
  | .cxlRefclkP => ⟨17, 64⟩
  | .syncInP => ⟨62, 49⟩
  | .syncOutP => ⟨64, 49⟩
  | .ethTxp => ⟨58, 53⟩
  | .ethRxp => ⟨60, 53⟩
  | .mdc => ⟨62, 53⟩
  | .mdio => ⟨62, 54⟩
  | .rcalCxl => ⟨15, 66⟩
  | .rcalCxlRtn => ⟨17, 66⟩

end Sys2Proof.Machine
end

