-- ==== Sys2Proof/Laws/Balls.lean ====
section
/-! SUPPORT. The worked example of R570, and that no two lane pairs share a ball. -/

namespace Sys2Proof.Machine

theorem wickTxp_w77 : wickTxp 77 = ⟨5, 52⟩ ∧ returnRxp 9 = ⟨9, 49⟩ := by decide

/-- First balls of every wick, return, chain and CXL pair. -/
def lanePairs : List Ball :=
  (List.range 192).map wickTxp ++ (List.range 24).map returnRxp ++
    (List.range 2).flatMap (fun p => (List.range 4).flatMap fun j => [chainTxp p j, chainRxp p j]) ++
    (List.range 8).flatMap fun j => [cxlTxp j, cxlRxp j]

def Ball.index (b : Ball) : Nat := 66 * b.row + b.col

theorem lanePairs_distinct :
    (lanePairs ++ lanePairs.map Ball.next).all Ball.onArray = true ∧
      ((lanePairs ++ lanePairs.map Ball.next).map Ball.index).dedup.length = 496 := by decide +kernel

end Sys2Proof.Machine
end

