-- ==== Sys2Proof/Laws/Bits.lean ====
section
/-! SUPPORT. The laws of bit fields and byte orders: a field reads as it was written, and a write
leaves every other field alone. -/

namespace Sys2Proof.Machine

theorem putBits_eq (v lo w x : Nat) :
    putBits v lo w x = v % 2 ^ lo + 2 ^ lo * (x % 2 ^ w + 2 ^ w * (v / 2 ^ lo / 2 ^ w)) := by
  unfold putBits bitsOf
  generalize hP : 2 ^ lo = P
  generalize hW : 2 ^ w = W
  generalize x % W = y
  have h1 := Nat.div_add_mod v P
  have h2 := Nat.div_add_mod (v / P) W
  generalize v % P = c at *
  generalize v / P / W = a at *
  generalize v / P % W = b at *
  rw [← h2] at h1
  subst h1
  rw [Nat.mul_add, Nat.mul_comm b P, Nat.mul_add, Nat.mul_comm y P]
  omega

theorem bitsOf_lt (v lo w : Nat) : bitsOf v lo w < 2 ^ w := Nat.mod_lt _ (Nat.two_pow_pos w)

theorem bitsOf_put_same (v lo w x : Nat) : bitsOf (putBits v lo w x) lo w = x % 2 ^ w := by
  rw [putBits_eq]
  unfold bitsOf
  rw [Nat.add_mul_div_left _ _ (Nat.two_pow_pos lo), Nat.div_eq_of_lt (Nat.mod_lt _ (Nat.two_pow_pos lo)), Nat.zero_add,
    Nat.add_mul_mod_self_left, Nat.mod_mod]

theorem bitsOf_put_above (v lo w x lo' w' : Nat) (h : lo + w ≤ lo') :
    bitsOf (putBits v lo w x) lo' w' = bitsOf v lo' w' := by
  obtain ⟨k, rfl⟩ := Nat.exists_eq_add_of_le h
  rw [putBits_eq]
  unfold bitsOf
  rw [pow_add, pow_add, ← Nat.div_div_eq_div_mul, ← Nat.div_div_eq_div_mul, ← Nat.div_div_eq_div_mul,
    ← Nat.div_div_eq_div_mul,
    Nat.add_mul_div_left _ _ (Nat.two_pow_pos lo), Nat.div_eq_of_lt (Nat.mod_lt _ (Nat.two_pow_pos lo)), Nat.zero_add,
    Nat.add_mul_div_left _ _ (Nat.two_pow_pos w), Nat.div_eq_of_lt (Nat.mod_lt _ (Nat.two_pow_pos w)), Nat.zero_add]

theorem bitsOf_put_below (v lo w x lo' w' : Nat) (h : lo' + w' ≤ lo) :
    bitsOf (putBits v lo w x) lo' w' = bitsOf v lo' w' := by
  obtain ⟨k, rfl⟩ := Nat.exists_eq_add_of_le h
  have hmod : ∀ n : Nat, n / 2 ^ lo' % 2 ^ w' = n % (2 ^ (lo' + w' + k)) / 2 ^ lo' % 2 ^ w' := by
    intro n
    have h1 : (2 : Nat) ^ (lo' + w' + k) = 2 ^ lo' * 2 ^ (w' + k) := by rw [Nat.add_assoc, pow_add]
    rw [h1, Nat.mod_mul_right_div_self, Nat.mod_mod_of_dvd _ (pow_dvd_pow 2 (Nat.le_add_right w' k))]
  unfold bitsOf
  rw [putBits_eq, hmod, hmod v, Nat.add_mul_mod_self_left, Nat.mod_mod]

/-- A write of a field leaves every field that shares no bit with it alone. -/
theorem bitsOf_put_disjoint (v lo w x lo' w' : Nat) (h : lo + w ≤ lo' ∨ lo' + w' ≤ lo) :
    bitsOf (putBits v lo w x) lo' w' = bitsOf v lo' w' :=
  h.elim (bitsOf_put_above v lo w x lo' w') (bitsOf_put_below v lo w x lo' w')

theorem putBits_lt {v n : Nat} (lo w x : Nat) (hv : v < 2 ^ n) (h : lo + w ≤ n) : putBits v lo w x < 2 ^ n := by
  rw [putBits_eq]
  obtain ⟨k, rfl⟩ := Nat.exists_eq_add_of_le h
  have ha : v / 2 ^ lo / 2 ^ w < 2 ^ k := by
    rw [Nat.div_div_eq_div_mul, ← pow_add]
    exact Nat.div_lt_of_lt_mul (by rw [← pow_add]; exact hv)
  have hx := Nat.mod_lt x (Nat.two_pow_pos w)
  have hc := Nat.mod_lt v (Nat.two_pow_pos lo)
  have h1 : x % 2 ^ w + 2 ^ w * (v / 2 ^ lo / 2 ^ w) + 1 ≤ 2 ^ w * 2 ^ k := by
    calc _ ≤ 2 ^ w * (v / 2 ^ lo / 2 ^ w + 1) := by rw [Nat.mul_add]; omega
      _ ≤ _ := Nat.mul_le_mul_left _ ha
  generalize x % 2 ^ w + 2 ^ w * (v / 2 ^ lo / 2 ^ w) = y at *
  calc _ < 2 ^ lo * (y + 1) := by rw [Nat.mul_add]; omega
    _ ≤ 2 ^ lo * (2 ^ w * 2 ^ k) := Nat.mul_le_mul_left _ h1
    _ = _ := by rw [pow_add, pow_add, Nat.mul_assoc]

theorem leNat_natLe (v n : Nat) : leNat (natLe v n) = v % 256 ^ n := by
  induction n generalizing v with
  | zero => simp [natLe, leNat, Nat.mod_one]
  | succ n ih =>
    simp only [natLe, leNat, ih]
    rw [BitVec.toNat_ofNat, show 256 ^ (n + 1) = 256 * 256 ^ n from Nat.pow_succ']
    exact Nat.mod_mul.symm

theorem natLe_length (v n : Nat) : (natLe v n).length = n := by
  induction n generalizing v with
  | zero => rfl
  | succ n ih => simp [natLe, ih]

theorem leNat_lt (bs : Bytes) : leNat bs < 256 ^ bs.length := by
  induction bs with
  | nil => simp [leNat]
  | cons b t ih =>
    have := b.isLt
    simp only [leNat, List.length_cons, pow_succ]
    omega

end Sys2Proof.Machine
end

