-- ==== Sys2Proof/Laws/Command.lean ====
section
/-! SUPPORT. What every command's frame of execution does: `done` answers one next state with the queue as it
was, and settles what its effect has let go on. -/

namespace Sys2Proof.Machine

/-- A meaning over `done` answers exactly one next state. -/
theorem done_eq (f : State → State) (s : State) :
    done f s = .next { settleAll (f (fresh s)) with pending := s.pending } := rfl

theorem doneWrite_eq (f : State → State) (s : State) :
    doneWrite f s = .next { settleAll (f { fresh s with held := none }) with pending := s.pending } := rfl

/-- A state without an activation or a GO_DARK, whose raster was not stopped by DARK_FAULT, has nothing left to settle
when neither the lens driver nor a PLAY can go on. -/
theorem State.settled_of_none {s : State} (ha : s.act = none) (ho : s.orderly = none) (hh : s.scan.halted = false)
    (hl : lensDue s = false) (hp : lightDue s = false) (hv : s.vrmFailed = false) : s.settled :=
  ⟨fun a h => by simp [ha] at h, .inl ho, hh, hl, hp, .inl hv⟩

/-- A state without follow-ups has no unit with four waiting. -/
theorem State.calm_of_nil {s : State} (h : s.followUps = []) : s.calm := by
  intro u
  simp [h, tblGet]

/-! ### Settling changes nothing while nothing is left to settle -/

theorem vrmSettle_of (s : State) (h : s.vrmFailed = false ∨ nvmHas s isRingWrite = true) : vrmSettle s = s := by
  rcases h with h | h <;> simp [vrmSettle, h]

theorem lightIfReady_of (s : State) (h : lightDue s = false) : lightIfReady s = s := by
  simp [lightIfReady, h]

theorem lensSettle_of (s : State) (h : lensDue s = false) : lensSettle s = s := by
  simp [lensSettle, h]

theorem settleHalt_of (s : State) (h : s.scan.halted = false) : settleHalt s = s := by
  simp [settleHalt, h]

theorem settleDark_of (s : State) (h : s.orderly = none ∨ lamp s ≠ .darkFault) : settleDark s = s := by
  unfold settleDark
  split
  · rename_i o ho
    rcases h with h | h
    · simp [h] at ho
    · rw [if_neg h]
  · rfl

theorem settleAct_of (s : State) (h : ∀ a, s.act = some a → a.begun = true → lamp s = .housekeeping) :
    settleAct s = s := by
  unfold settleAct
  split
  · rename_i a ha
    split
    · rename_i hb
      simp only [Bool.and_eq_true, decide_eq_true_eq] at hb
      exact absurd (h a ha hb.1) hb.2
    · rfl
  · rfl

theorem settleOnce_of_settled {s : State} (h : s.settled) : settleOnce s = s := by
  rw [settleOnce, vrmSettle_of s h.vrm, lightIfReady_of s h.light, lensSettle_of s h.lens, settleHalt_of s h.halted,
    settleDark_of s h.orderly, settleAct_of s h.act]

theorem settleAll_of_settled {s : State} (h : s.settled) : settleAll s = s := by
  rw [settleAll, settleOnce_of_settled h, settleOnce_of_settled h]

/-- A meaning whose effect leaves nothing to settle answers that effect. -/
theorem done_of_settled {f : State → State} {s : State} (h : (f (fresh s)).settled) :
    done f s = .next { f (fresh s) with pending := s.pending } := by rw [done_eq, settleAll_of_settled h]

theorem doneWrite_of_settled {f : State → State} {s : State} (h : (f { fresh s with held := none }).settled) :
    doneWrite f s = .next { f { fresh s with held := none } with pending := s.pending } := by
  rw [doneWrite_eq, settleAll_of_settled h]

/-! ### What each settling does when something is left -/

/-- An activation whose steps have ended completes with OK (R527, R528). -/
theorem settleAct_act (s : State) (a : Activation) (h : s.act = some a) :
    settleAct s = if a.begun = true ∧ lamp s ≠ .housekeeping then complete a.job stOK 0 0 { actInForce s with act := none } else s := by
  simp [settleAct, h, Bool.and_eq_true]

/-- The lamplighter leaves READY_DARK by LIGHTING once a PLAY waits no longer (Table 17-4). -/
theorem lightIfReady_due (s : State) (h : lightDue s = true) :
    lightIfReady s =
      let s := setLamp { frameCounts s with wantLight := false, rowZero := false } .lighting
      if lowPath s = 0 then fixSteer s else setLamp s .snuffed := by
  simp [lightIfReady, h]

end Sys2Proof.Machine
end

