-- ==== Sys2Proof/Laws/Table.lean ====
section
/-! SUPPORT. The laws of sparse tables: a read after a write, what a write leaves alone, and that every
operation keeps the canonical form. The read laws hold of every table, canonical or not. -/

namespace Sys2Proof.Machine

variable {α : Type}

/-! ### Reads -/

@[simp] theorem tblGet_nil (d : α) (i : Nat) : tblGet d ([] : Tbl α) i = d := rfl

theorem tblGet_erase (d : α) (t : Tbl α) (i k : Nat) :
    tblGet d (tblErase t i) k = if k = i then d else tblGet d t k := by
  induction t with
  | nil => simp [tblErase]
  | cons p t ih =>
    obtain ⟨j, w⟩ := p
    simp only [tblErase] at ih
    by_cases hj : j = i
    · subst hj; by_cases hk : k = j <;> simp_all [tblErase, tblGet]
    · by_cases hk : k = i
      · subst hk; simp_all [tblErase, tblGet, Ne.symm hj]
      · simp_all [tblErase, tblGet]

theorem tblGet_put (d : α) (t : Tbl α) (i : Nat) (v : α) (k : Nat) :
    tblGet d (tblPut t i v) k = if k = i then v else tblGet d t k := by
  induction t with
  | nil => simp [tblPut, tblGet]
  | cons p t ih =>
    obtain ⟨j, w⟩ := p
    simp only [tblPut]
    split
    · by_cases hk : k = i <;> simp [tblGet, hk]
    · split
      · next h => subst h; by_cases hk : k = i <;> simp [tblGet, hk]
      · by_cases hk : k = i
        · subst hk; simp_all [tblGet]
        · simp_all [tblGet]

/-- A read after a write. -/
theorem tblGet_set [DecidableEq α] (d : α) (t : Tbl α) (i : Nat) (v : α) (k : Nat) :
    tblGet d (tblSet d t i v) k = if k = i then v else tblGet d t k := by
  unfold tblSet
  split
  · next h => rw [tblGet_erase, h]
  · rw [tblGet_put]

@[simp] theorem tblGet_set_same [DecidableEq α] (d : α) (t : Tbl α) (i : Nat) (v : α) :
    tblGet d (tblSet d t i v) i = v := by simp [tblGet_set]

theorem tblGet_set_ne [DecidableEq α] (d : α) (t : Tbl α) {i k : Nat} (v : α) (h : k ≠ i) :
    tblGet d (tblSet d t i v) k = tblGet d t k := by simp [tblGet_set, h]

/-- A read after a run of writes. -/
theorem tblGet_setRun [DecidableEq α] (d : α) (t : Tbl α) (i : Nat) (vs : List α) (k : Nat) :
    tblGet d (tblSetRun d t i vs) k = if i ≤ k ∧ k < i + vs.length then vs.getD (k - i) d else tblGet d t k := by
  induction vs generalizing t i with
  | nil => simp [tblSetRun]
  | cons v vs ih =>
    simp only [tblSetRun, ih, tblGet_set, List.length_cons]
    by_cases hk : k = i
    · subst hk; simp
    · by_cases h : i + 1 ≤ k ∧ k < i + 1 + vs.length
      · have : k - i = (k - (i + 1)) + 1 := by omega
        rw [if_pos h, if_pos (by omega), this, List.getD_cons_succ]
      · rw [if_neg h, if_neg hk, if_neg (by omega)]

/-- A run of writes leaves every index outside the run alone. -/
theorem tblGet_setRun_outside [DecidableEq α] (d : α) (t : Tbl α) (i : Nat) (vs : List α) (k : Nat)
    (h : k < i ∨ i + vs.length ≤ k) : tblGet d (tblSetRun d t i vs) k = tblGet d t k := by
  rw [tblGet_setRun, if_neg (by omega)]

theorem tblGetRun_length (d : α) (t : Tbl α) (i n : Nat) : (tblGetRun d t i n).length = n := by
  induction n generalizing i with
  | zero => rfl
  | succ n ih => simp [tblGetRun, ih]

theorem tblGetRun_getD (d : α) (t : Tbl α) (i n k : Nat) (h : k < n) :
    (tblGetRun d t i n).getD k d = tblGet d t (i + k) := by
  induction n generalizing i k with
  | zero => omega
  | succ n ih =>
    cases k with
    | zero => simp [tblGetRun]
    | succ k => simp only [tblGetRun, List.getD_cons_succ, ih (i + 1) k (by omega)]; congr 1; omega

/-! ### The canonical form -/

theorem tblRising_iff (t : Tbl α) : tblRising t = true ↔ (t.map Prod.fst).Pairwise (· < ·) := by
  induction t with
  | nil => simp [tblRising]
  | cons p t ih =>
    obtain ⟨i, w⟩ := p
    cases t with
    | nil => simp [tblRising]
    | cons q t =>
      obtain ⟨j, x⟩ := q
      simp only [tblRising, Bool.and_eq_true, decide_eq_true_eq, ih, List.map_cons, List.pairwise_cons]
      constructor
      · rintro ⟨h, hj, hp⟩
        refine ⟨fun a ha => ?_, hj, hp⟩
        rcases List.mem_cons.1 ha with rfl | ha
        · exact h
        · exact lt_trans h (hj a ha)
      · rintro ⟨h, hp⟩
        exact ⟨h j (by simp), hp⟩

theorem tblRising_filter (p : Nat × α → Bool) {t : Tbl α} (h : tblRising t = true) : tblRising (t.filter p) = true := by
  rw [tblRising_iff] at *
  exact List.Pairwise.sublist (List.Sublist.map _ List.filter_sublist) h

theorem mem_tblPut {t : Tbl α} {i : Nat} {v : α} {p : Nat × α} (h : p ∈ tblPut t i v) : p = (i, v) ∨ p ∈ t := by
  induction t with
  | nil => simpa [tblPut] using h
  | cons q t ih =>
    obtain ⟨j, w⟩ := q
    simp only [tblPut] at h
    split at h
    · simpa using h
    · split at h
      · simp at h ⊢; tauto
      · simp at h ⊢; tauto

theorem tblRising_put {t : Tbl α} (i : Nat) (v : α) (h : tblRising t = true) : tblRising (tblPut t i v) = true := by
  rw [tblRising_iff] at *
  induction t with
  | nil => simp [tblPut]
  | cons q t ih =>
    obtain ⟨j, w⟩ := q
    simp only [List.map_cons, List.pairwise_cons] at h
    simp only [tblPut]
    split
    · next hi =>
      simp only [List.map_cons, List.pairwise_cons]
      refine ⟨fun a ha => ?_, h⟩
      rcases List.mem_cons.1 ha with rfl | ha
      · exact hi
      · exact lt_trans hi (h.1 a ha)
    · split
      · next hij => subst hij; simpa using h
      · simp only [List.map_cons, List.pairwise_cons]
        refine ⟨fun a ha => ?_, ih h.2⟩
        obtain ⟨p, hp, rfl⟩ := List.mem_map.1 ha
        rcases mem_tblPut hp with rfl | hp
        · show j < i; omega
        · exact h.1 _ (List.mem_map_of_mem hp)

theorem tblWf_set [DecidableEq α] {d : α} {t : Tbl α} (i : Nat) (v : α) (h : tblWf d t = true) :
    tblWf d (tblSet d t i v) = true := by
  simp only [tblWf, Bool.and_eq_true, List.all_eq_true, decide_eq_true_eq] at h ⊢
  unfold tblSet
  split
  · exact ⟨tblRising_filter _ h.1, fun p hp => h.2 p (List.mem_filter.1 hp).1⟩
  · next hv =>
    refine ⟨tblRising_put i v h.1, fun p hp => ?_⟩
    rcases mem_tblPut hp with rfl | hp
    · exact hv
    · exact h.2 p hp

theorem tblWf_setRun [DecidableEq α] {d : α} {t : Tbl α} (i : Nat) (vs : List α) (h : tblWf d t = true) :
    tblWf d (tblSetRun d t i vs) = true := by
  induction vs generalizing t i with
  | nil => exact h
  | cons v vs ih => exact ih (i + 1) (tblWf_set i v h)

theorem tblWf_filter [DecidableEq α] {d : α} {t : Tbl α} (p : Nat × α → Bool) (h : tblWf d t = true) :
    tblWf d (t.filter p) = true := by
  simp only [tblWf, Bool.and_eq_true, List.all_eq_true, decide_eq_true_eq] at h ⊢
  exact ⟨tblRising_filter _ h.1, fun q hq => h.2 q (List.mem_filter.1 hq).1⟩

theorem tblWf_clear [DecidableEq α] {d : α} {t : Tbl α} (lo hi : Nat) (h : tblWf d t = true) :
    tblWf d (tblClear t lo hi) = true := tblWf_filter _ h

@[simp] theorem tblWf_nil [DecidableEq α] (d : α) : tblWf d ([] : Tbl α) = true := rfl

/-- Canonical tables with the same contents are the same table. -/
theorem tblWf_ext [DecidableEq α] {d : α} {t u : Tbl α} (ht : tblWf d t = true) (hu : tblWf d u = true)
    (h : ∀ i, tblGet d t i = tblGet d u i) : t = u := by
  have key : ∀ (t : Tbl α) (i : Nat) (w : α), tblWf d ((i, w) :: t) = true →
      (∀ k, k ≤ i → tblGet d t k = d) ∧ w ≠ d ∧ tblWf d t = true := by
    intro t i w h
    simp only [tblWf, Bool.and_eq_true, List.all_eq_true, decide_eq_true_eq, tblRising_iff, List.map_cons,
      List.pairwise_cons] at h ⊢
    refine ⟨fun k hk => ?_, h.2 (i, w) (by simp), h.1.2, fun p hp => h.2 p (by simp [hp])⟩
    have hall : ∀ p ∈ t, k ≠ p.1 := fun p hp => by
      have := h.1.1 p.1 (List.mem_map_of_mem hp); omega
    clear h
    induction t with
    | nil => rfl
    | cons q t ih =>
      obtain ⟨j, x⟩ := q
      have := hall (j, x) (by simp)
      simp only [tblGet, if_neg this]
      exact ih fun p hp => hall p (by simp [hp])
  induction t generalizing u with
  | nil =>
    cases u with
    | nil => rfl
    | cons q u =>
      obtain ⟨j, x⟩ := q
      have := h j
      simp [tblGet] at this
      exact absurd this.symm (key u j x hu).2.1
  | cons p t ih =>
    obtain ⟨i, w⟩ := p
    obtain ⟨ht1, ht2, ht3⟩ := key t i w ht
    cases u with
    | nil => exact absurd (by simpa [tblGet] using h i) ht2
    | cons q u =>
      obtain ⟨j, x⟩ := q
      obtain ⟨hu1, hu2, hu3⟩ := key u j x hu
      have hij : i = j := by
        rcases lt_trichotomy i j with hl | hl | hl
        · have := h i; simp only [tblGet, if_true, if_neg (Nat.ne_of_lt hl), hu1 i (Nat.le_of_lt hl)] at this
          exact absurd this ht2
        · exact hl
        · have := h j; simp only [tblGet, if_true, if_neg (Nat.ne_of_lt hl), ht1 j (Nat.le_of_lt hl)] at this
          exact absurd this.symm hu2
      subst hij
      have hw : w = x := by simpa [tblGet] using h i
      subst hw
      rw [ih ht3 hu3 fun k => ?_]
      by_cases hk : k = i
      · subst hk; rw [ht1 k (Nat.le_refl k), hu1 k (Nat.le_refl k)]
      · simpa [tblGet, hk] using h k

/-! ### Rising lists of numbers -/

theorem setWf_iff (l : List Nat) : setWf l = true ↔ l.Pairwise (· < ·) := by
  induction l with
  | nil => simp [setWf]
  | cons i l ih =>
    cases l with
    | nil => simp [setWf]
    | cons j l =>
      simp only [setWf, Bool.and_eq_true, decide_eq_true_eq, ih, List.pairwise_cons]
      constructor
      · rintro ⟨h, hj, hp⟩
        refine ⟨fun a ha => ?_, hj, hp⟩
        rcases List.mem_cons.1 ha with rfl | ha
        · exact h
        · exact lt_trans h (hj a ha)
      · rintro ⟨h, hp⟩; exact ⟨h j (by simp), hp⟩

@[simp] theorem mem_setInsert (i k : Nat) (l : List Nat) : k ∈ setInsert i l ↔ k = i ∨ k ∈ l := by
  induction l with
  | nil => simp [setInsert]
  | cons j l ih =>
    simp only [setInsert]
    split
    · simp
    · split
      · next h => subst h; simp
      · simp [ih]; tauto

@[simp] theorem mem_setErase (i k : Nat) (l : List Nat) : k ∈ setErase i l ↔ k ≠ i ∧ k ∈ l := by
  simp [setErase]; tauto

theorem setWf_insert {l : List Nat} (i : Nat) (h : setWf l = true) : setWf (setInsert i l) = true := by
  rw [setWf_iff] at *
  induction l with
  | nil => simp [setInsert]
  | cons j l ih =>
    simp only [List.pairwise_cons] at h
    simp only [setInsert]
    split
    · next hi =>
      simp only [List.pairwise_cons]
      refine ⟨fun a ha => ?_, h⟩
      rcases List.mem_cons.1 ha with rfl | ha
      · exact hi
      · exact lt_trans hi (h.1 a ha)
    · split
      · simpa using h
      · simp only [List.pairwise_cons]
        refine ⟨fun a ha => ?_, ih h.2⟩
        rcases (mem_setInsert i a l).1 ha with rfl | ha
        · omega
        · exact h.1 a ha

theorem setWf_erase {l : List Nat} (i : Nat) (h : setWf l = true) : setWf (setErase i l) = true := by
  rw [setWf_iff] at *
  exact List.Pairwise.filter _ h

theorem setWf_filter {l : List Nat} (p : Nat → Bool) (h : setWf l = true) : setWf (l.filter p) = true := by
  rw [setWf_iff] at *
  exact List.Pairwise.filter _ h

@[simp] theorem setWf_nil : setWf [] = true := rfl

end Sys2Proof.Machine
end

