-- ==== Sys2Proof/Laws/State.lean ====
section
/-! SUPPORT. One lemma per field of State per update: what each of the small writes of Machine/Ops.lean
leaves alone, and what it writes. -/

namespace Sys2Proof.Machine

/-! ### setReg -/

@[simp] theorem setReg_held (s : State) (o : Nat) (v : DWord) : (setReg s o v).held = s.held := rfl
@[simp] theorem setReg_ns (s : State) (o : Nat) (v : DWord) : (setReg s o v).ns = s.ns := rfl
@[simp] theorem setReg_flr (s : State) (o : Nat) (v : DWord) : (setReg s o v).flr = s.flr := rfl
@[simp] theorem setReg_free (s : State) (o : Nat) (v : DWord) : (setReg s o v).free = s.free := rfl
@[simp] theorem setReg_out (s : State) (o : Nat) (v : DWord) : (setReg s o v).out = s.out := rfl
@[simp] theorem setReg_pending (s : State) (o : Nat) (v : DWord) : (setReg s o v).pending = s.pending := rfl
@[simp] theorem setReg_mem (s : State) (o : Nat) (v : DWord) : (setReg s o v).mem = s.mem := rfl
@[simp] theorem setReg_poison (s : State) (o : Nat) (v : DWord) : (setReg s o v).poison = s.poison := rfl
@[simp] theorem setReg_dram (s : State) (o : Nat) (v : DWord) : (setReg s o v).dram = s.dram := rfl
@[simp] theorem setReg_nvm (s : State) (o : Nat) (v : DWord) : (setReg s o v).nvm = s.nvm := rfl
@[simp] theorem setReg_nvmBad (s : State) (o : Nat) (v : DWord) : (setReg s o v).nvmBad = s.nvmBad := rfl
@[simp] theorem setReg_nvmRun (s : State) (o : Nat) (v : DWord) : (setReg s o v).nvmRun = s.nvmRun := rfl
@[simp] theorem setReg_nvmQueue (s : State) (o : Nat) (v : DWord) : (setReg s o v).nvmQueue = s.nvmQueue := rfl
@[simp] theorem setReg_lensRun (s : State) (o : Nat) (v : DWord) : (setReg s o v).lensRun = s.lensRun := rfl
@[simp] theorem setReg_lensRewrite (s : State) (o : Nat) (v : DWord) : (setReg s o v).lensRewrite = s.lensRewrite := rfl
@[simp] theorem setReg_nvmCeAt (s : State) (o : Nat) (v : DWord) : (setReg s o v).nvmCeAt = s.nvmCeAt := rfl
@[simp] theorem setReg_tornPage (s : State) (o : Nat) (v : DWord) : (setReg s o v).tornPage = s.tornPage := rfl
@[simp] theorem setReg_patrolGrp (s : State) (o : Nat) (v : DWord) : (setReg s o v).patrolGrp = s.patrolGrp := rfl
@[simp] theorem setReg_patches (s : State) (o : Nat) (v : DWord) : (setReg s o v).patches = s.patches := rfl
@[simp] theorem setReg_nvmReads (s : State) (o : Nat) (v : DWord) : (setReg s o v).nvmReads = s.nvmReads := rfl
@[simp] theorem setReg_rings (s : State) (o : Nat) (v : DWord) : (setReg s o v).rings = s.rings := rfl
@[simp] theorem setReg_rrRing (s : State) (o : Nat) (v : DWord) : (setReg s o v).rrRing = s.rrRing := rfl
@[simp] theorem setReg_keys (s : State) (o : Nat) (v : DWord) : (setReg s o v).keys = s.keys := rfl
@[simp] theorem setReg_keyPend (s : State) (o : Nat) (v : DWord) : (setReg s o v).keyPend = s.keyPend := rfl
@[simp] theorem setReg_hdm (s : State) (o : Nat) (v : DWord) : (setReg s o v).hdm = s.hdm := rfl
@[simp] theorem setReg_linkLost (s : State) (o : Nat) (v : DWord) : (setReg s o v).linkLost = s.linkLost := rfl
@[simp] theorem setReg_leaseRaised (s : State) (o : Nat) (v : DWord) : (setReg s o v).leaseRaised = s.leaseRaised := rfl
@[simp] theorem setReg_msix (s : State) (o : Nat) (v : DWord) : (setReg s o v).msix = s.msix := rfl
@[simp] theorem setReg_cfg (s : State) (o : Nat) (v : DWord) : (setReg s o v).cfg = s.cfg := rfl
@[simp] theorem setReg_pba (s : State) (o : Nat) (v : DWord) : (setReg s o v).pba = s.pba := rfl
@[simp] theorem setReg_cxlPoisonAt (s : State) (o : Nat) (v : DWord) : (setReg s o v).cxlPoisonAt = s.cxlPoisonAt := rfl
@[simp] theorem setReg_cxlAperAt (s : State) (o : Nat) (v : DWord) : (setReg s o v).cxlAperAt = s.cxlAperAt := rfl
@[simp] theorem setReg_followUps (s : State) (o : Nat) (v : DWord) : (setReg s o v).followUps = s.followUps := rfl
@[simp] theorem setReg_snuff (s : State) (o : Nat) (v : DWord) : (setReg s o v).snuff = s.snuff := rfl
@[simp] theorem setReg_inputs (s : State) (o : Nat) (v : DWord) : (setReg s o v).inputs = s.inputs := rfl
@[simp] theorem setReg_log (s : State) (o : Nat) (v : DWord) : (setReg s o v).log = s.log := rfl
@[simp] theorem setReg_restartAt (s : State) (o : Nat) (v : DWord) : (setReg s o v).restartAt = s.restartAt := rfl
@[simp] theorem setReg_restarting (s : State) (o : Nat) (v : DWord) : (setReg s o v).restarting = s.restarting := rfl
@[simp] theorem setReg_rails (s : State) (o : Nat) (v : DWord) : (setReg s o v).rails = s.rails := rfl
@[simp] theorem setReg_railSeqAt (s : State) (o : Nat) (v : DWord) : (setReg s o v).railSeqAt = s.railSeqAt := rfl
@[simp] theorem setReg_railThen (s : State) (o : Nat) (v : DWord) : (setReg s o v).railThen = s.railThen := rfl
@[simp] theorem setReg_vrmEn (s : State) (o : Nat) (v : DWord) : (setReg s o v).vrmEn = s.vrmEn := rfl
@[simp] theorem setReg_cxlRegs (s : State) (o : Nat) (v : DWord) : (setReg s o v).cxlRegs = s.cxlRegs := rfl
@[simp] theorem setReg_railFaulted (s : State) (o : Nat) (v : DWord) : (setReg s o v).railFaulted = s.railFaulted := rfl
@[simp] theorem setReg_railHeld (s : State) (o : Nat) (v : DWord) : (setReg s o v).railHeld = s.railHeld := rfl
@[simp] theorem setReg_vrms (s : State) (o : Nat) (v : DWord) : (setReg s o v).vrms = s.vrms := rfl
@[simp] theorem setReg_vrmFailed (s : State) (o : Nat) (v : DWord) : (setReg s o v).vrmFailed = s.vrmFailed := rfl
@[simp] theorem setReg_lens (s : State) (o : Nat) (v : DWord) : (setReg s o v).lens = s.lens := rfl
@[simp] theorem setReg_optPend (s : State) (o : Nat) (v : DWord) : (setReg s o v).optPend = s.optPend := rfl
@[simp] theorem setReg_optArmed (s : State) (o : Nat) (v : DWord) : (setReg s o v).optArmed = s.optArmed := rfl
@[simp] theorem setReg_time (s : State) (o : Nat) (v : DWord) : (setReg s o v).time = s.time := rfl
@[simp] theorem setReg_chain (s : State) (o : Nat) (v : DWord) : (setReg s o v).chain = s.chain := rfl
@[simp] theorem setReg_clk (s : State) (o : Nat) (v : DWord) : (setReg s o v).clk = s.clk := rfl
@[simp] theorem setReg_wln (s : State) (o : Nat) (v : DWord) : (setReg s o v).wln = s.wln := rfl
@[simp] theorem setReg_scan (s : State) (o : Nat) (v : DWord) : (setReg s o v).scan = s.scan := rfl
@[simp] theorem setReg_reel (s : State) (o : Nat) (v : DWord) : (setReg s o v).reel = s.reel := rfl
@[simp] theorem setReg_rmap (s : State) (o : Nat) (v : DWord) : (setReg s o v).rmap = s.rmap := rfl
@[simp] theorem setReg_hle (s : State) (o : Nat) (v : DWord) : (setReg s o v).hle = s.hle := rfl
@[simp] theorem setReg_blt (s : State) (o : Nat) (v : DWord) : (setReg s o v).blt = s.blt := rfl
@[simp] theorem setReg_img (s : State) (o : Nat) (v : DWord) : (setReg s o v).img = s.img := rfl
@[simp] theorem setReg_act (s : State) (o : Nat) (v : DWord) : (setReg s o v).act = s.act := rfl
@[simp] theorem setReg_trigger (s : State) (o : Nat) (v : DWord) : (setReg s o v).trigger = s.trigger := rfl
@[simp] theorem setReg_startAt (s : State) (o : Nat) (v : DWord) : (setReg s o v).startAt = s.startAt := rfl
@[simp] theorem setReg_cand (s : State) (o : Nat) (v : DWord) : (setReg s o v).cand = s.cand := rfl
@[simp] theorem setReg_orderly (s : State) (o : Nat) (v : DWord) : (setReg s o v).orderly = s.orderly := rfl
@[simp] theorem setReg_wantLight (s : State) (o : Nat) (v : DWord) : (setReg s o v).wantLight = s.wantLight := rfl
@[simp] theorem setReg_rowZero (s : State) (o : Nat) (v : DWord) : (setReg s o v).rowZero = s.rowZero := rfl

/-! ### setFld -/

@[simp] theorem setFld_held (s : State) (f : Fld) (v : Nat) : (setFld s f v).held = s.held := rfl
@[simp] theorem setFld_ns (s : State) (f : Fld) (v : Nat) : (setFld s f v).ns = s.ns := rfl
@[simp] theorem setFld_flr (s : State) (f : Fld) (v : Nat) : (setFld s f v).flr = s.flr := rfl
@[simp] theorem setFld_free (s : State) (f : Fld) (v : Nat) : (setFld s f v).free = s.free := rfl
@[simp] theorem setFld_out (s : State) (f : Fld) (v : Nat) : (setFld s f v).out = s.out := rfl
@[simp] theorem setFld_pending (s : State) (f : Fld) (v : Nat) : (setFld s f v).pending = s.pending := rfl
@[simp] theorem setFld_mem (s : State) (f : Fld) (v : Nat) : (setFld s f v).mem = s.mem := rfl
@[simp] theorem setFld_poison (s : State) (f : Fld) (v : Nat) : (setFld s f v).poison = s.poison := rfl
@[simp] theorem setFld_dram (s : State) (f : Fld) (v : Nat) : (setFld s f v).dram = s.dram := rfl
@[simp] theorem setFld_nvm (s : State) (f : Fld) (v : Nat) : (setFld s f v).nvm = s.nvm := rfl
@[simp] theorem setFld_nvmBad (s : State) (f : Fld) (v : Nat) : (setFld s f v).nvmBad = s.nvmBad := rfl
@[simp] theorem setFld_nvmRun (s : State) (f : Fld) (v : Nat) : (setFld s f v).nvmRun = s.nvmRun := rfl
@[simp] theorem setFld_nvmQueue (s : State) (f : Fld) (v : Nat) : (setFld s f v).nvmQueue = s.nvmQueue := rfl
@[simp] theorem setFld_lensRun (s : State) (f : Fld) (v : Nat) : (setFld s f v).lensRun = s.lensRun := rfl
@[simp] theorem setFld_lensRewrite (s : State) (f : Fld) (v : Nat) : (setFld s f v).lensRewrite = s.lensRewrite := rfl
@[simp] theorem setFld_nvmCeAt (s : State) (f : Fld) (v : Nat) : (setFld s f v).nvmCeAt = s.nvmCeAt := rfl
@[simp] theorem setFld_tornPage (s : State) (f : Fld) (v : Nat) : (setFld s f v).tornPage = s.tornPage := rfl
@[simp] theorem setFld_patrolGrp (s : State) (f : Fld) (v : Nat) : (setFld s f v).patrolGrp = s.patrolGrp := rfl
@[simp] theorem setFld_patches (s : State) (f : Fld) (v : Nat) : (setFld s f v).patches = s.patches := rfl
@[simp] theorem setFld_nvmReads (s : State) (f : Fld) (v : Nat) : (setFld s f v).nvmReads = s.nvmReads := rfl
@[simp] theorem setFld_rings (s : State) (f : Fld) (v : Nat) : (setFld s f v).rings = s.rings := rfl
@[simp] theorem setFld_rrRing (s : State) (f : Fld) (v : Nat) : (setFld s f v).rrRing = s.rrRing := rfl
@[simp] theorem setFld_keys (s : State) (f : Fld) (v : Nat) : (setFld s f v).keys = s.keys := rfl
@[simp] theorem setFld_keyPend (s : State) (f : Fld) (v : Nat) : (setFld s f v).keyPend = s.keyPend := rfl
@[simp] theorem setFld_hdm (s : State) (f : Fld) (v : Nat) : (setFld s f v).hdm = s.hdm := rfl
@[simp] theorem setFld_linkLost (s : State) (f : Fld) (v : Nat) : (setFld s f v).linkLost = s.linkLost := rfl
@[simp] theorem setFld_leaseRaised (s : State) (f : Fld) (v : Nat) : (setFld s f v).leaseRaised = s.leaseRaised := rfl
@[simp] theorem setFld_msix (s : State) (f : Fld) (v : Nat) : (setFld s f v).msix = s.msix := rfl
@[simp] theorem setFld_cfg (s : State) (f : Fld) (v : Nat) : (setFld s f v).cfg = s.cfg := rfl
@[simp] theorem setFld_pba (s : State) (f : Fld) (v : Nat) : (setFld s f v).pba = s.pba := rfl
@[simp] theorem setFld_cxlPoisonAt (s : State) (f : Fld) (v : Nat) : (setFld s f v).cxlPoisonAt = s.cxlPoisonAt := rfl
@[simp] theorem setFld_cxlAperAt (s : State) (f : Fld) (v : Nat) : (setFld s f v).cxlAperAt = s.cxlAperAt := rfl
@[simp] theorem setFld_followUps (s : State) (f : Fld) (v : Nat) : (setFld s f v).followUps = s.followUps := rfl
@[simp] theorem setFld_snuff (s : State) (f : Fld) (v : Nat) : (setFld s f v).snuff = s.snuff := rfl
@[simp] theorem setFld_inputs (s : State) (f : Fld) (v : Nat) : (setFld s f v).inputs = s.inputs := rfl
@[simp] theorem setFld_log (s : State) (f : Fld) (v : Nat) : (setFld s f v).log = s.log := rfl
@[simp] theorem setFld_restartAt (s : State) (f : Fld) (v : Nat) : (setFld s f v).restartAt = s.restartAt := rfl
@[simp] theorem setFld_restarting (s : State) (f : Fld) (v : Nat) : (setFld s f v).restarting = s.restarting := rfl
@[simp] theorem setFld_rails (s : State) (f : Fld) (v : Nat) : (setFld s f v).rails = s.rails := rfl
@[simp] theorem setFld_railSeqAt (s : State) (f : Fld) (v : Nat) : (setFld s f v).railSeqAt = s.railSeqAt := rfl
@[simp] theorem setFld_railThen (s : State) (f : Fld) (v : Nat) : (setFld s f v).railThen = s.railThen := rfl
@[simp] theorem setFld_vrmEn (s : State) (f : Fld) (v : Nat) : (setFld s f v).vrmEn = s.vrmEn := rfl
@[simp] theorem setFld_cxlRegs (s : State) (f : Fld) (v : Nat) : (setFld s f v).cxlRegs = s.cxlRegs := rfl
@[simp] theorem setFld_railFaulted (s : State) (f : Fld) (v : Nat) : (setFld s f v).railFaulted = s.railFaulted := rfl
@[simp] theorem setFld_railHeld (s : State) (f : Fld) (v : Nat) : (setFld s f v).railHeld = s.railHeld := rfl
@[simp] theorem setFld_vrms (s : State) (f : Fld) (v : Nat) : (setFld s f v).vrms = s.vrms := rfl
@[simp] theorem setFld_vrmFailed (s : State) (f : Fld) (v : Nat) : (setFld s f v).vrmFailed = s.vrmFailed := rfl
@[simp] theorem setFld_lens (s : State) (f : Fld) (v : Nat) : (setFld s f v).lens = s.lens := rfl
@[simp] theorem setFld_optPend (s : State) (f : Fld) (v : Nat) : (setFld s f v).optPend = s.optPend := rfl
@[simp] theorem setFld_optArmed (s : State) (f : Fld) (v : Nat) : (setFld s f v).optArmed = s.optArmed := rfl
@[simp] theorem setFld_time (s : State) (f : Fld) (v : Nat) : (setFld s f v).time = s.time := rfl
@[simp] theorem setFld_chain (s : State) (f : Fld) (v : Nat) : (setFld s f v).chain = s.chain := rfl
@[simp] theorem setFld_clk (s : State) (f : Fld) (v : Nat) : (setFld s f v).clk = s.clk := rfl
@[simp] theorem setFld_wln (s : State) (f : Fld) (v : Nat) : (setFld s f v).wln = s.wln := rfl
@[simp] theorem setFld_scan (s : State) (f : Fld) (v : Nat) : (setFld s f v).scan = s.scan := rfl
@[simp] theorem setFld_reel (s : State) (f : Fld) (v : Nat) : (setFld s f v).reel = s.reel := rfl
@[simp] theorem setFld_rmap (s : State) (f : Fld) (v : Nat) : (setFld s f v).rmap = s.rmap := rfl
@[simp] theorem setFld_hle (s : State) (f : Fld) (v : Nat) : (setFld s f v).hle = s.hle := rfl
@[simp] theorem setFld_blt (s : State) (f : Fld) (v : Nat) : (setFld s f v).blt = s.blt := rfl
@[simp] theorem setFld_img (s : State) (f : Fld) (v : Nat) : (setFld s f v).img = s.img := rfl
@[simp] theorem setFld_act (s : State) (f : Fld) (v : Nat) : (setFld s f v).act = s.act := rfl
@[simp] theorem setFld_trigger (s : State) (f : Fld) (v : Nat) : (setFld s f v).trigger = s.trigger := rfl
@[simp] theorem setFld_startAt (s : State) (f : Fld) (v : Nat) : (setFld s f v).startAt = s.startAt := rfl
@[simp] theorem setFld_cand (s : State) (f : Fld) (v : Nat) : (setFld s f v).cand = s.cand := rfl
@[simp] theorem setFld_orderly (s : State) (f : Fld) (v : Nat) : (setFld s f v).orderly = s.orderly := rfl
@[simp] theorem setFld_wantLight (s : State) (f : Fld) (v : Nat) : (setFld s f v).wantLight = s.wantLight := rfl
@[simp] theorem setFld_rowZero (s : State) (f : Fld) (v : Nat) : (setFld s f v).rowZero = s.rowZero := rfl

/-! ### incSat -/

@[simp] theorem incSat_held (s : State) (f : Fld) (k : Nat) : (incSat s f k).held = s.held := rfl
@[simp] theorem incSat_ns (s : State) (f : Fld) (k : Nat) : (incSat s f k).ns = s.ns := rfl
@[simp] theorem incSat_flr (s : State) (f : Fld) (k : Nat) : (incSat s f k).flr = s.flr := rfl
@[simp] theorem incSat_free (s : State) (f : Fld) (k : Nat) : (incSat s f k).free = s.free := rfl
@[simp] theorem incSat_out (s : State) (f : Fld) (k : Nat) : (incSat s f k).out = s.out := rfl
@[simp] theorem incSat_pending (s : State) (f : Fld) (k : Nat) : (incSat s f k).pending = s.pending := rfl
@[simp] theorem incSat_mem (s : State) (f : Fld) (k : Nat) : (incSat s f k).mem = s.mem := rfl
@[simp] theorem incSat_poison (s : State) (f : Fld) (k : Nat) : (incSat s f k).poison = s.poison := rfl
@[simp] theorem incSat_dram (s : State) (f : Fld) (k : Nat) : (incSat s f k).dram = s.dram := rfl
@[simp] theorem incSat_nvm (s : State) (f : Fld) (k : Nat) : (incSat s f k).nvm = s.nvm := rfl
@[simp] theorem incSat_nvmBad (s : State) (f : Fld) (k : Nat) : (incSat s f k).nvmBad = s.nvmBad := rfl
@[simp] theorem incSat_nvmRun (s : State) (f : Fld) (k : Nat) : (incSat s f k).nvmRun = s.nvmRun := rfl
@[simp] theorem incSat_nvmQueue (s : State) (f : Fld) (k : Nat) : (incSat s f k).nvmQueue = s.nvmQueue := rfl
@[simp] theorem incSat_lensRun (s : State) (f : Fld) (k : Nat) : (incSat s f k).lensRun = s.lensRun := rfl
@[simp] theorem incSat_lensRewrite (s : State) (f : Fld) (k : Nat) : (incSat s f k).lensRewrite = s.lensRewrite := rfl
@[simp] theorem incSat_nvmCeAt (s : State) (f : Fld) (k : Nat) : (incSat s f k).nvmCeAt = s.nvmCeAt := rfl
@[simp] theorem incSat_tornPage (s : State) (f : Fld) (k : Nat) : (incSat s f k).tornPage = s.tornPage := rfl
@[simp] theorem incSat_patrolGrp (s : State) (f : Fld) (k : Nat) : (incSat s f k).patrolGrp = s.patrolGrp := rfl
@[simp] theorem incSat_patches (s : State) (f : Fld) (k : Nat) : (incSat s f k).patches = s.patches := rfl
@[simp] theorem incSat_nvmReads (s : State) (f : Fld) (k : Nat) : (incSat s f k).nvmReads = s.nvmReads := rfl
@[simp] theorem incSat_rings (s : State) (f : Fld) (k : Nat) : (incSat s f k).rings = s.rings := rfl
@[simp] theorem incSat_rrRing (s : State) (f : Fld) (k : Nat) : (incSat s f k).rrRing = s.rrRing := rfl
@[simp] theorem incSat_keys (s : State) (f : Fld) (k : Nat) : (incSat s f k).keys = s.keys := rfl
@[simp] theorem incSat_keyPend (s : State) (f : Fld) (k : Nat) : (incSat s f k).keyPend = s.keyPend := rfl
@[simp] theorem incSat_hdm (s : State) (f : Fld) (k : Nat) : (incSat s f k).hdm = s.hdm := rfl
@[simp] theorem incSat_linkLost (s : State) (f : Fld) (k : Nat) : (incSat s f k).linkLost = s.linkLost := rfl
@[simp] theorem incSat_leaseRaised (s : State) (f : Fld) (k : Nat) : (incSat s f k).leaseRaised = s.leaseRaised := rfl
@[simp] theorem incSat_msix (s : State) (f : Fld) (k : Nat) : (incSat s f k).msix = s.msix := rfl
@[simp] theorem incSat_cfg (s : State) (f : Fld) (k : Nat) : (incSat s f k).cfg = s.cfg := rfl
@[simp] theorem incSat_pba (s : State) (f : Fld) (k : Nat) : (incSat s f k).pba = s.pba := rfl
@[simp] theorem incSat_cxlPoisonAt (s : State) (f : Fld) (k : Nat) : (incSat s f k).cxlPoisonAt = s.cxlPoisonAt := rfl
@[simp] theorem incSat_cxlAperAt (s : State) (f : Fld) (k : Nat) : (incSat s f k).cxlAperAt = s.cxlAperAt := rfl
@[simp] theorem incSat_followUps (s : State) (f : Fld) (k : Nat) : (incSat s f k).followUps = s.followUps := rfl
@[simp] theorem incSat_snuff (s : State) (f : Fld) (k : Nat) : (incSat s f k).snuff = s.snuff := rfl
@[simp] theorem incSat_inputs (s : State) (f : Fld) (k : Nat) : (incSat s f k).inputs = s.inputs := rfl
@[simp] theorem incSat_log (s : State) (f : Fld) (k : Nat) : (incSat s f k).log = s.log := rfl
@[simp] theorem incSat_restartAt (s : State) (f : Fld) (k : Nat) : (incSat s f k).restartAt = s.restartAt := rfl
@[simp] theorem incSat_restarting (s : State) (f : Fld) (k : Nat) : (incSat s f k).restarting = s.restarting := rfl
@[simp] theorem incSat_rails (s : State) (f : Fld) (k : Nat) : (incSat s f k).rails = s.rails := rfl
@[simp] theorem incSat_railSeqAt (s : State) (f : Fld) (k : Nat) : (incSat s f k).railSeqAt = s.railSeqAt := rfl
@[simp] theorem incSat_railThen (s : State) (f : Fld) (k : Nat) : (incSat s f k).railThen = s.railThen := rfl
@[simp] theorem incSat_vrmEn (s : State) (f : Fld) (k : Nat) : (incSat s f k).vrmEn = s.vrmEn := rfl
@[simp] theorem incSat_cxlRegs (s : State) (f : Fld) (k : Nat) : (incSat s f k).cxlRegs = s.cxlRegs := rfl
@[simp] theorem incSat_railFaulted (s : State) (f : Fld) (k : Nat) : (incSat s f k).railFaulted = s.railFaulted := rfl
@[simp] theorem incSat_railHeld (s : State) (f : Fld) (k : Nat) : (incSat s f k).railHeld = s.railHeld := rfl
@[simp] theorem incSat_vrms (s : State) (f : Fld) (k : Nat) : (incSat s f k).vrms = s.vrms := rfl
@[simp] theorem incSat_vrmFailed (s : State) (f : Fld) (k : Nat) : (incSat s f k).vrmFailed = s.vrmFailed := rfl
@[simp] theorem incSat_lens (s : State) (f : Fld) (k : Nat) : (incSat s f k).lens = s.lens := rfl
@[simp] theorem incSat_optPend (s : State) (f : Fld) (k : Nat) : (incSat s f k).optPend = s.optPend := rfl
@[simp] theorem incSat_optArmed (s : State) (f : Fld) (k : Nat) : (incSat s f k).optArmed = s.optArmed := rfl
@[simp] theorem incSat_time (s : State) (f : Fld) (k : Nat) : (incSat s f k).time = s.time := rfl
@[simp] theorem incSat_chain (s : State) (f : Fld) (k : Nat) : (incSat s f k).chain = s.chain := rfl
@[simp] theorem incSat_clk (s : State) (f : Fld) (k : Nat) : (incSat s f k).clk = s.clk := rfl
@[simp] theorem incSat_wln (s : State) (f : Fld) (k : Nat) : (incSat s f k).wln = s.wln := rfl
@[simp] theorem incSat_scan (s : State) (f : Fld) (k : Nat) : (incSat s f k).scan = s.scan := rfl
@[simp] theorem incSat_reel (s : State) (f : Fld) (k : Nat) : (incSat s f k).reel = s.reel := rfl
@[simp] theorem incSat_rmap (s : State) (f : Fld) (k : Nat) : (incSat s f k).rmap = s.rmap := rfl
@[simp] theorem incSat_hle (s : State) (f : Fld) (k : Nat) : (incSat s f k).hle = s.hle := rfl
@[simp] theorem incSat_blt (s : State) (f : Fld) (k : Nat) : (incSat s f k).blt = s.blt := rfl
@[simp] theorem incSat_img (s : State) (f : Fld) (k : Nat) : (incSat s f k).img = s.img := rfl
@[simp] theorem incSat_act (s : State) (f : Fld) (k : Nat) : (incSat s f k).act = s.act := rfl
@[simp] theorem incSat_trigger (s : State) (f : Fld) (k : Nat) : (incSat s f k).trigger = s.trigger := rfl
@[simp] theorem incSat_startAt (s : State) (f : Fld) (k : Nat) : (incSat s f k).startAt = s.startAt := rfl
@[simp] theorem incSat_cand (s : State) (f : Fld) (k : Nat) : (incSat s f k).cand = s.cand := rfl
@[simp] theorem incSat_orderly (s : State) (f : Fld) (k : Nat) : (incSat s f k).orderly = s.orderly := rfl
@[simp] theorem incSat_wantLight (s : State) (f : Fld) (k : Nat) : (incSat s f k).wantLight = s.wantLight := rfl
@[simp] theorem incSat_rowZero (s : State) (f : Fld) (k : Nat) : (incSat s f k).rowZero = s.rowZero := rfl

/-! ### setPeak -/

@[simp] theorem setPeak_held (s : State) (f : Fld) (v : Nat) : (setPeak s f v).held = s.held := rfl
@[simp] theorem setPeak_ns (s : State) (f : Fld) (v : Nat) : (setPeak s f v).ns = s.ns := rfl
@[simp] theorem setPeak_flr (s : State) (f : Fld) (v : Nat) : (setPeak s f v).flr = s.flr := rfl
@[simp] theorem setPeak_free (s : State) (f : Fld) (v : Nat) : (setPeak s f v).free = s.free := rfl
@[simp] theorem setPeak_out (s : State) (f : Fld) (v : Nat) : (setPeak s f v).out = s.out := rfl
@[simp] theorem setPeak_pending (s : State) (f : Fld) (v : Nat) : (setPeak s f v).pending = s.pending := rfl
@[simp] theorem setPeak_mem (s : State) (f : Fld) (v : Nat) : (setPeak s f v).mem = s.mem := rfl
@[simp] theorem setPeak_poison (s : State) (f : Fld) (v : Nat) : (setPeak s f v).poison = s.poison := rfl
@[simp] theorem setPeak_dram (s : State) (f : Fld) (v : Nat) : (setPeak s f v).dram = s.dram := rfl
@[simp] theorem setPeak_nvm (s : State) (f : Fld) (v : Nat) : (setPeak s f v).nvm = s.nvm := rfl
@[simp] theorem setPeak_nvmBad (s : State) (f : Fld) (v : Nat) : (setPeak s f v).nvmBad = s.nvmBad := rfl
@[simp] theorem setPeak_nvmRun (s : State) (f : Fld) (v : Nat) : (setPeak s f v).nvmRun = s.nvmRun := rfl
@[simp] theorem setPeak_nvmQueue (s : State) (f : Fld) (v : Nat) : (setPeak s f v).nvmQueue = s.nvmQueue := rfl
@[simp] theorem setPeak_lensRun (s : State) (f : Fld) (v : Nat) : (setPeak s f v).lensRun = s.lensRun := rfl
@[simp] theorem setPeak_lensRewrite (s : State) (f : Fld) (v : Nat) : (setPeak s f v).lensRewrite = s.lensRewrite := rfl
@[simp] theorem setPeak_nvmCeAt (s : State) (f : Fld) (v : Nat) : (setPeak s f v).nvmCeAt = s.nvmCeAt := rfl
@[simp] theorem setPeak_tornPage (s : State) (f : Fld) (v : Nat) : (setPeak s f v).tornPage = s.tornPage := rfl
@[simp] theorem setPeak_patrolGrp (s : State) (f : Fld) (v : Nat) : (setPeak s f v).patrolGrp = s.patrolGrp := rfl
@[simp] theorem setPeak_patches (s : State) (f : Fld) (v : Nat) : (setPeak s f v).patches = s.patches := rfl
@[simp] theorem setPeak_nvmReads (s : State) (f : Fld) (v : Nat) : (setPeak s f v).nvmReads = s.nvmReads := rfl
@[simp] theorem setPeak_rings (s : State) (f : Fld) (v : Nat) : (setPeak s f v).rings = s.rings := rfl
@[simp] theorem setPeak_rrRing (s : State) (f : Fld) (v : Nat) : (setPeak s f v).rrRing = s.rrRing := rfl
@[simp] theorem setPeak_keys (s : State) (f : Fld) (v : Nat) : (setPeak s f v).keys = s.keys := rfl
@[simp] theorem setPeak_keyPend (s : State) (f : Fld) (v : Nat) : (setPeak s f v).keyPend = s.keyPend := rfl
@[simp] theorem setPeak_hdm (s : State) (f : Fld) (v : Nat) : (setPeak s f v).hdm = s.hdm := rfl
@[simp] theorem setPeak_linkLost (s : State) (f : Fld) (v : Nat) : (setPeak s f v).linkLost = s.linkLost := rfl
@[simp] theorem setPeak_leaseRaised (s : State) (f : Fld) (v : Nat) : (setPeak s f v).leaseRaised = s.leaseRaised := rfl
@[simp] theorem setPeak_msix (s : State) (f : Fld) (v : Nat) : (setPeak s f v).msix = s.msix := rfl
@[simp] theorem setPeak_cfg (s : State) (f : Fld) (v : Nat) : (setPeak s f v).cfg = s.cfg := rfl
@[simp] theorem setPeak_pba (s : State) (f : Fld) (v : Nat) : (setPeak s f v).pba = s.pba := rfl
@[simp] theorem setPeak_cxlPoisonAt (s : State) (f : Fld) (v : Nat) : (setPeak s f v).cxlPoisonAt = s.cxlPoisonAt := rfl
@[simp] theorem setPeak_cxlAperAt (s : State) (f : Fld) (v : Nat) : (setPeak s f v).cxlAperAt = s.cxlAperAt := rfl
@[simp] theorem setPeak_followUps (s : State) (f : Fld) (v : Nat) : (setPeak s f v).followUps = s.followUps := rfl
@[simp] theorem setPeak_snuff (s : State) (f : Fld) (v : Nat) : (setPeak s f v).snuff = s.snuff := rfl
@[simp] theorem setPeak_inputs (s : State) (f : Fld) (v : Nat) : (setPeak s f v).inputs = s.inputs := rfl
@[simp] theorem setPeak_log (s : State) (f : Fld) (v : Nat) : (setPeak s f v).log = s.log := rfl
@[simp] theorem setPeak_restartAt (s : State) (f : Fld) (v : Nat) : (setPeak s f v).restartAt = s.restartAt := rfl
@[simp] theorem setPeak_restarting (s : State) (f : Fld) (v : Nat) : (setPeak s f v).restarting = s.restarting := rfl
@[simp] theorem setPeak_rails (s : State) (f : Fld) (v : Nat) : (setPeak s f v).rails = s.rails := rfl
@[simp] theorem setPeak_railSeqAt (s : State) (f : Fld) (v : Nat) : (setPeak s f v).railSeqAt = s.railSeqAt := rfl
@[simp] theorem setPeak_railThen (s : State) (f : Fld) (v : Nat) : (setPeak s f v).railThen = s.railThen := rfl
@[simp] theorem setPeak_vrmEn (s : State) (f : Fld) (v : Nat) : (setPeak s f v).vrmEn = s.vrmEn := rfl
@[simp] theorem setPeak_cxlRegs (s : State) (f : Fld) (v : Nat) : (setPeak s f v).cxlRegs = s.cxlRegs := rfl
@[simp] theorem setPeak_railFaulted (s : State) (f : Fld) (v : Nat) : (setPeak s f v).railFaulted = s.railFaulted := rfl
@[simp] theorem setPeak_railHeld (s : State) (f : Fld) (v : Nat) : (setPeak s f v).railHeld = s.railHeld := rfl
@[simp] theorem setPeak_vrms (s : State) (f : Fld) (v : Nat) : (setPeak s f v).vrms = s.vrms := rfl
@[simp] theorem setPeak_vrmFailed (s : State) (f : Fld) (v : Nat) : (setPeak s f v).vrmFailed = s.vrmFailed := rfl
@[simp] theorem setPeak_lens (s : State) (f : Fld) (v : Nat) : (setPeak s f v).lens = s.lens := rfl
@[simp] theorem setPeak_optPend (s : State) (f : Fld) (v : Nat) : (setPeak s f v).optPend = s.optPend := rfl
@[simp] theorem setPeak_optArmed (s : State) (f : Fld) (v : Nat) : (setPeak s f v).optArmed = s.optArmed := rfl
@[simp] theorem setPeak_time (s : State) (f : Fld) (v : Nat) : (setPeak s f v).time = s.time := rfl
@[simp] theorem setPeak_chain (s : State) (f : Fld) (v : Nat) : (setPeak s f v).chain = s.chain := rfl
@[simp] theorem setPeak_clk (s : State) (f : Fld) (v : Nat) : (setPeak s f v).clk = s.clk := rfl
@[simp] theorem setPeak_wln (s : State) (f : Fld) (v : Nat) : (setPeak s f v).wln = s.wln := rfl
@[simp] theorem setPeak_scan (s : State) (f : Fld) (v : Nat) : (setPeak s f v).scan = s.scan := rfl
@[simp] theorem setPeak_reel (s : State) (f : Fld) (v : Nat) : (setPeak s f v).reel = s.reel := rfl
@[simp] theorem setPeak_rmap (s : State) (f : Fld) (v : Nat) : (setPeak s f v).rmap = s.rmap := rfl
@[simp] theorem setPeak_hle (s : State) (f : Fld) (v : Nat) : (setPeak s f v).hle = s.hle := rfl
@[simp] theorem setPeak_blt (s : State) (f : Fld) (v : Nat) : (setPeak s f v).blt = s.blt := rfl
@[simp] theorem setPeak_img (s : State) (f : Fld) (v : Nat) : (setPeak s f v).img = s.img := rfl
@[simp] theorem setPeak_act (s : State) (f : Fld) (v : Nat) : (setPeak s f v).act = s.act := rfl
@[simp] theorem setPeak_trigger (s : State) (f : Fld) (v : Nat) : (setPeak s f v).trigger = s.trigger := rfl
@[simp] theorem setPeak_startAt (s : State) (f : Fld) (v : Nat) : (setPeak s f v).startAt = s.startAt := rfl
@[simp] theorem setPeak_cand (s : State) (f : Fld) (v : Nat) : (setPeak s f v).cand = s.cand := rfl
@[simp] theorem setPeak_orderly (s : State) (f : Fld) (v : Nat) : (setPeak s f v).orderly = s.orderly := rfl
@[simp] theorem setPeak_wantLight (s : State) (f : Fld) (v : Nat) : (setPeak s f v).wantLight = s.wantLight := rfl
@[simp] theorem setPeak_rowZero (s : State) (f : Fld) (v : Nat) : (setPeak s f v).rowZero = s.rowZero := rfl

/-! ### setSat -/

@[simp] theorem setSat_held (s : State) (f : Fld) (v : Nat) : (setSat s f v).held = s.held := rfl
@[simp] theorem setSat_ns (s : State) (f : Fld) (v : Nat) : (setSat s f v).ns = s.ns := rfl
@[simp] theorem setSat_flr (s : State) (f : Fld) (v : Nat) : (setSat s f v).flr = s.flr := rfl
@[simp] theorem setSat_free (s : State) (f : Fld) (v : Nat) : (setSat s f v).free = s.free := rfl
@[simp] theorem setSat_out (s : State) (f : Fld) (v : Nat) : (setSat s f v).out = s.out := rfl
@[simp] theorem setSat_pending (s : State) (f : Fld) (v : Nat) : (setSat s f v).pending = s.pending := rfl
@[simp] theorem setSat_mem (s : State) (f : Fld) (v : Nat) : (setSat s f v).mem = s.mem := rfl
@[simp] theorem setSat_poison (s : State) (f : Fld) (v : Nat) : (setSat s f v).poison = s.poison := rfl
@[simp] theorem setSat_dram (s : State) (f : Fld) (v : Nat) : (setSat s f v).dram = s.dram := rfl
@[simp] theorem setSat_nvm (s : State) (f : Fld) (v : Nat) : (setSat s f v).nvm = s.nvm := rfl
@[simp] theorem setSat_nvmBad (s : State) (f : Fld) (v : Nat) : (setSat s f v).nvmBad = s.nvmBad := rfl
@[simp] theorem setSat_nvmRun (s : State) (f : Fld) (v : Nat) : (setSat s f v).nvmRun = s.nvmRun := rfl
@[simp] theorem setSat_nvmQueue (s : State) (f : Fld) (v : Nat) : (setSat s f v).nvmQueue = s.nvmQueue := rfl
@[simp] theorem setSat_lensRun (s : State) (f : Fld) (v : Nat) : (setSat s f v).lensRun = s.lensRun := rfl
@[simp] theorem setSat_lensRewrite (s : State) (f : Fld) (v : Nat) : (setSat s f v).lensRewrite = s.lensRewrite := rfl
@[simp] theorem setSat_nvmCeAt (s : State) (f : Fld) (v : Nat) : (setSat s f v).nvmCeAt = s.nvmCeAt := rfl
@[simp] theorem setSat_tornPage (s : State) (f : Fld) (v : Nat) : (setSat s f v).tornPage = s.tornPage := rfl
@[simp] theorem setSat_patrolGrp (s : State) (f : Fld) (v : Nat) : (setSat s f v).patrolGrp = s.patrolGrp := rfl
@[simp] theorem setSat_patches (s : State) (f : Fld) (v : Nat) : (setSat s f v).patches = s.patches := rfl
@[simp] theorem setSat_nvmReads (s : State) (f : Fld) (v : Nat) : (setSat s f v).nvmReads = s.nvmReads := rfl
@[simp] theorem setSat_rings (s : State) (f : Fld) (v : Nat) : (setSat s f v).rings = s.rings := rfl
@[simp] theorem setSat_rrRing (s : State) (f : Fld) (v : Nat) : (setSat s f v).rrRing = s.rrRing := rfl
@[simp] theorem setSat_keys (s : State) (f : Fld) (v : Nat) : (setSat s f v).keys = s.keys := rfl
@[simp] theorem setSat_keyPend (s : State) (f : Fld) (v : Nat) : (setSat s f v).keyPend = s.keyPend := rfl
@[simp] theorem setSat_hdm (s : State) (f : Fld) (v : Nat) : (setSat s f v).hdm = s.hdm := rfl
@[simp] theorem setSat_linkLost (s : State) (f : Fld) (v : Nat) : (setSat s f v).linkLost = s.linkLost := rfl
@[simp] theorem setSat_leaseRaised (s : State) (f : Fld) (v : Nat) : (setSat s f v).leaseRaised = s.leaseRaised := rfl
@[simp] theorem setSat_msix (s : State) (f : Fld) (v : Nat) : (setSat s f v).msix = s.msix := rfl
@[simp] theorem setSat_cfg (s : State) (f : Fld) (v : Nat) : (setSat s f v).cfg = s.cfg := rfl
@[simp] theorem setSat_pba (s : State) (f : Fld) (v : Nat) : (setSat s f v).pba = s.pba := rfl
@[simp] theorem setSat_cxlPoisonAt (s : State) (f : Fld) (v : Nat) : (setSat s f v).cxlPoisonAt = s.cxlPoisonAt := rfl
@[simp] theorem setSat_cxlAperAt (s : State) (f : Fld) (v : Nat) : (setSat s f v).cxlAperAt = s.cxlAperAt := rfl
@[simp] theorem setSat_followUps (s : State) (f : Fld) (v : Nat) : (setSat s f v).followUps = s.followUps := rfl
@[simp] theorem setSat_snuff (s : State) (f : Fld) (v : Nat) : (setSat s f v).snuff = s.snuff := rfl
@[simp] theorem setSat_inputs (s : State) (f : Fld) (v : Nat) : (setSat s f v).inputs = s.inputs := rfl
@[simp] theorem setSat_log (s : State) (f : Fld) (v : Nat) : (setSat s f v).log = s.log := rfl
@[simp] theorem setSat_restartAt (s : State) (f : Fld) (v : Nat) : (setSat s f v).restartAt = s.restartAt := rfl
@[simp] theorem setSat_restarting (s : State) (f : Fld) (v : Nat) : (setSat s f v).restarting = s.restarting := rfl
@[simp] theorem setSat_rails (s : State) (f : Fld) (v : Nat) : (setSat s f v).rails = s.rails := rfl
@[simp] theorem setSat_railSeqAt (s : State) (f : Fld) (v : Nat) : (setSat s f v).railSeqAt = s.railSeqAt := rfl
@[simp] theorem setSat_railThen (s : State) (f : Fld) (v : Nat) : (setSat s f v).railThen = s.railThen := rfl
@[simp] theorem setSat_vrmEn (s : State) (f : Fld) (v : Nat) : (setSat s f v).vrmEn = s.vrmEn := rfl
@[simp] theorem setSat_cxlRegs (s : State) (f : Fld) (v : Nat) : (setSat s f v).cxlRegs = s.cxlRegs := rfl
@[simp] theorem setSat_railFaulted (s : State) (f : Fld) (v : Nat) : (setSat s f v).railFaulted = s.railFaulted := rfl
@[simp] theorem setSat_railHeld (s : State) (f : Fld) (v : Nat) : (setSat s f v).railHeld = s.railHeld := rfl
@[simp] theorem setSat_vrms (s : State) (f : Fld) (v : Nat) : (setSat s f v).vrms = s.vrms := rfl
@[simp] theorem setSat_vrmFailed (s : State) (f : Fld) (v : Nat) : (setSat s f v).vrmFailed = s.vrmFailed := rfl
@[simp] theorem setSat_lens (s : State) (f : Fld) (v : Nat) : (setSat s f v).lens = s.lens := rfl
@[simp] theorem setSat_optPend (s : State) (f : Fld) (v : Nat) : (setSat s f v).optPend = s.optPend := rfl
@[simp] theorem setSat_optArmed (s : State) (f : Fld) (v : Nat) : (setSat s f v).optArmed = s.optArmed := rfl
@[simp] theorem setSat_time (s : State) (f : Fld) (v : Nat) : (setSat s f v).time = s.time := rfl
@[simp] theorem setSat_chain (s : State) (f : Fld) (v : Nat) : (setSat s f v).chain = s.chain := rfl
@[simp] theorem setSat_clk (s : State) (f : Fld) (v : Nat) : (setSat s f v).clk = s.clk := rfl
@[simp] theorem setSat_wln (s : State) (f : Fld) (v : Nat) : (setSat s f v).wln = s.wln := rfl
@[simp] theorem setSat_scan (s : State) (f : Fld) (v : Nat) : (setSat s f v).scan = s.scan := rfl
@[simp] theorem setSat_reel (s : State) (f : Fld) (v : Nat) : (setSat s f v).reel = s.reel := rfl
@[simp] theorem setSat_rmap (s : State) (f : Fld) (v : Nat) : (setSat s f v).rmap = s.rmap := rfl
@[simp] theorem setSat_hle (s : State) (f : Fld) (v : Nat) : (setSat s f v).hle = s.hle := rfl
@[simp] theorem setSat_blt (s : State) (f : Fld) (v : Nat) : (setSat s f v).blt = s.blt := rfl
@[simp] theorem setSat_img (s : State) (f : Fld) (v : Nat) : (setSat s f v).img = s.img := rfl
@[simp] theorem setSat_act (s : State) (f : Fld) (v : Nat) : (setSat s f v).act = s.act := rfl
@[simp] theorem setSat_trigger (s : State) (f : Fld) (v : Nat) : (setSat s f v).trigger = s.trigger := rfl
@[simp] theorem setSat_startAt (s : State) (f : Fld) (v : Nat) : (setSat s f v).startAt = s.startAt := rfl
@[simp] theorem setSat_cand (s : State) (f : Fld) (v : Nat) : (setSat s f v).cand = s.cand := rfl
@[simp] theorem setSat_orderly (s : State) (f : Fld) (v : Nat) : (setSat s f v).orderly = s.orderly := rfl
@[simp] theorem setSat_wantLight (s : State) (f : Fld) (v : Nat) : (setSat s f v).wantLight = s.wantLight := rfl
@[simp] theorem setSat_rowZero (s : State) (f : Fld) (v : Nat) : (setSat s f v).rowZero = s.rowZero := rfl

/-! ### setSFld -/

@[simp] theorem setSFld_held (s : State) (f : Fld) (v : Int) : (setSFld s f v).held = s.held := rfl
@[simp] theorem setSFld_ns (s : State) (f : Fld) (v : Int) : (setSFld s f v).ns = s.ns := rfl
@[simp] theorem setSFld_flr (s : State) (f : Fld) (v : Int) : (setSFld s f v).flr = s.flr := rfl
@[simp] theorem setSFld_free (s : State) (f : Fld) (v : Int) : (setSFld s f v).free = s.free := rfl
@[simp] theorem setSFld_out (s : State) (f : Fld) (v : Int) : (setSFld s f v).out = s.out := rfl
@[simp] theorem setSFld_pending (s : State) (f : Fld) (v : Int) : (setSFld s f v).pending = s.pending := rfl
@[simp] theorem setSFld_mem (s : State) (f : Fld) (v : Int) : (setSFld s f v).mem = s.mem := rfl
@[simp] theorem setSFld_poison (s : State) (f : Fld) (v : Int) : (setSFld s f v).poison = s.poison := rfl
@[simp] theorem setSFld_dram (s : State) (f : Fld) (v : Int) : (setSFld s f v).dram = s.dram := rfl
@[simp] theorem setSFld_nvm (s : State) (f : Fld) (v : Int) : (setSFld s f v).nvm = s.nvm := rfl
@[simp] theorem setSFld_nvmBad (s : State) (f : Fld) (v : Int) : (setSFld s f v).nvmBad = s.nvmBad := rfl
@[simp] theorem setSFld_nvmRun (s : State) (f : Fld) (v : Int) : (setSFld s f v).nvmRun = s.nvmRun := rfl
@[simp] theorem setSFld_nvmQueue (s : State) (f : Fld) (v : Int) : (setSFld s f v).nvmQueue = s.nvmQueue := rfl
@[simp] theorem setSFld_lensRun (s : State) (f : Fld) (v : Int) : (setSFld s f v).lensRun = s.lensRun := rfl
@[simp] theorem setSFld_lensRewrite (s : State) (f : Fld) (v : Int) : (setSFld s f v).lensRewrite = s.lensRewrite := rfl
@[simp] theorem setSFld_nvmCeAt (s : State) (f : Fld) (v : Int) : (setSFld s f v).nvmCeAt = s.nvmCeAt := rfl
@[simp] theorem setSFld_tornPage (s : State) (f : Fld) (v : Int) : (setSFld s f v).tornPage = s.tornPage := rfl
@[simp] theorem setSFld_patrolGrp (s : State) (f : Fld) (v : Int) : (setSFld s f v).patrolGrp = s.patrolGrp := rfl
@[simp] theorem setSFld_patches (s : State) (f : Fld) (v : Int) : (setSFld s f v).patches = s.patches := rfl
@[simp] theorem setSFld_nvmReads (s : State) (f : Fld) (v : Int) : (setSFld s f v).nvmReads = s.nvmReads := rfl
@[simp] theorem setSFld_rings (s : State) (f : Fld) (v : Int) : (setSFld s f v).rings = s.rings := rfl
@[simp] theorem setSFld_rrRing (s : State) (f : Fld) (v : Int) : (setSFld s f v).rrRing = s.rrRing := rfl
@[simp] theorem setSFld_keys (s : State) (f : Fld) (v : Int) : (setSFld s f v).keys = s.keys := rfl
@[simp] theorem setSFld_keyPend (s : State) (f : Fld) (v : Int) : (setSFld s f v).keyPend = s.keyPend := rfl
@[simp] theorem setSFld_hdm (s : State) (f : Fld) (v : Int) : (setSFld s f v).hdm = s.hdm := rfl
@[simp] theorem setSFld_linkLost (s : State) (f : Fld) (v : Int) : (setSFld s f v).linkLost = s.linkLost := rfl
@[simp] theorem setSFld_leaseRaised (s : State) (f : Fld) (v : Int) : (setSFld s f v).leaseRaised = s.leaseRaised := rfl
@[simp] theorem setSFld_msix (s : State) (f : Fld) (v : Int) : (setSFld s f v).msix = s.msix := rfl
@[simp] theorem setSFld_cfg (s : State) (f : Fld) (v : Int) : (setSFld s f v).cfg = s.cfg := rfl
@[simp] theorem setSFld_pba (s : State) (f : Fld) (v : Int) : (setSFld s f v).pba = s.pba := rfl
@[simp] theorem setSFld_cxlPoisonAt (s : State) (f : Fld) (v : Int) : (setSFld s f v).cxlPoisonAt = s.cxlPoisonAt := rfl
@[simp] theorem setSFld_cxlAperAt (s : State) (f : Fld) (v : Int) : (setSFld s f v).cxlAperAt = s.cxlAperAt := rfl
@[simp] theorem setSFld_followUps (s : State) (f : Fld) (v : Int) : (setSFld s f v).followUps = s.followUps := rfl
@[simp] theorem setSFld_snuff (s : State) (f : Fld) (v : Int) : (setSFld s f v).snuff = s.snuff := rfl
@[simp] theorem setSFld_inputs (s : State) (f : Fld) (v : Int) : (setSFld s f v).inputs = s.inputs := rfl
@[simp] theorem setSFld_log (s : State) (f : Fld) (v : Int) : (setSFld s f v).log = s.log := rfl
@[simp] theorem setSFld_restartAt (s : State) (f : Fld) (v : Int) : (setSFld s f v).restartAt = s.restartAt := rfl
@[simp] theorem setSFld_restarting (s : State) (f : Fld) (v : Int) : (setSFld s f v).restarting = s.restarting := rfl
@[simp] theorem setSFld_rails (s : State) (f : Fld) (v : Int) : (setSFld s f v).rails = s.rails := rfl
@[simp] theorem setSFld_railSeqAt (s : State) (f : Fld) (v : Int) : (setSFld s f v).railSeqAt = s.railSeqAt := rfl
@[simp] theorem setSFld_railThen (s : State) (f : Fld) (v : Int) : (setSFld s f v).railThen = s.railThen := rfl
@[simp] theorem setSFld_vrmEn (s : State) (f : Fld) (v : Int) : (setSFld s f v).vrmEn = s.vrmEn := rfl
@[simp] theorem setSFld_cxlRegs (s : State) (f : Fld) (v : Int) : (setSFld s f v).cxlRegs = s.cxlRegs := rfl
@[simp] theorem setSFld_railFaulted (s : State) (f : Fld) (v : Int) : (setSFld s f v).railFaulted = s.railFaulted := rfl
@[simp] theorem setSFld_railHeld (s : State) (f : Fld) (v : Int) : (setSFld s f v).railHeld = s.railHeld := rfl
@[simp] theorem setSFld_vrms (s : State) (f : Fld) (v : Int) : (setSFld s f v).vrms = s.vrms := rfl
@[simp] theorem setSFld_vrmFailed (s : State) (f : Fld) (v : Int) : (setSFld s f v).vrmFailed = s.vrmFailed := rfl
@[simp] theorem setSFld_lens (s : State) (f : Fld) (v : Int) : (setSFld s f v).lens = s.lens := rfl
@[simp] theorem setSFld_optPend (s : State) (f : Fld) (v : Int) : (setSFld s f v).optPend = s.optPend := rfl
@[simp] theorem setSFld_optArmed (s : State) (f : Fld) (v : Int) : (setSFld s f v).optArmed = s.optArmed := rfl
@[simp] theorem setSFld_time (s : State) (f : Fld) (v : Int) : (setSFld s f v).time = s.time := rfl
@[simp] theorem setSFld_chain (s : State) (f : Fld) (v : Int) : (setSFld s f v).chain = s.chain := rfl
@[simp] theorem setSFld_clk (s : State) (f : Fld) (v : Int) : (setSFld s f v).clk = s.clk := rfl
@[simp] theorem setSFld_wln (s : State) (f : Fld) (v : Int) : (setSFld s f v).wln = s.wln := rfl
@[simp] theorem setSFld_scan (s : State) (f : Fld) (v : Int) : (setSFld s f v).scan = s.scan := rfl
@[simp] theorem setSFld_reel (s : State) (f : Fld) (v : Int) : (setSFld s f v).reel = s.reel := rfl
@[simp] theorem setSFld_rmap (s : State) (f : Fld) (v : Int) : (setSFld s f v).rmap = s.rmap := rfl
@[simp] theorem setSFld_hle (s : State) (f : Fld) (v : Int) : (setSFld s f v).hle = s.hle := rfl
@[simp] theorem setSFld_blt (s : State) (f : Fld) (v : Int) : (setSFld s f v).blt = s.blt := rfl
@[simp] theorem setSFld_img (s : State) (f : Fld) (v : Int) : (setSFld s f v).img = s.img := rfl
@[simp] theorem setSFld_act (s : State) (f : Fld) (v : Int) : (setSFld s f v).act = s.act := rfl
@[simp] theorem setSFld_trigger (s : State) (f : Fld) (v : Int) : (setSFld s f v).trigger = s.trigger := rfl
@[simp] theorem setSFld_startAt (s : State) (f : Fld) (v : Int) : (setSFld s f v).startAt = s.startAt := rfl
@[simp] theorem setSFld_cand (s : State) (f : Fld) (v : Int) : (setSFld s f v).cand = s.cand := rfl
@[simp] theorem setSFld_orderly (s : State) (f : Fld) (v : Int) : (setSFld s f v).orderly = s.orderly := rfl
@[simp] theorem setSFld_wantLight (s : State) (f : Fld) (v : Int) : (setSFld s f v).wantLight = s.wantLight := rfl
@[simp] theorem setSFld_rowZero (s : State) (f : Fld) (v : Int) : (setSFld s f v).rowZero = s.rowZero := rfl

/-! ### resetReg -/

@[simp] theorem resetReg_held (s : State) (o : Nat) : (resetReg s o).held = s.held := rfl
@[simp] theorem resetReg_ns (s : State) (o : Nat) : (resetReg s o).ns = s.ns := rfl
@[simp] theorem resetReg_flr (s : State) (o : Nat) : (resetReg s o).flr = s.flr := rfl
@[simp] theorem resetReg_free (s : State) (o : Nat) : (resetReg s o).free = s.free := rfl
@[simp] theorem resetReg_out (s : State) (o : Nat) : (resetReg s o).out = s.out := rfl
@[simp] theorem resetReg_pending (s : State) (o : Nat) : (resetReg s o).pending = s.pending := rfl
@[simp] theorem resetReg_mem (s : State) (o : Nat) : (resetReg s o).mem = s.mem := rfl
@[simp] theorem resetReg_poison (s : State) (o : Nat) : (resetReg s o).poison = s.poison := rfl
@[simp] theorem resetReg_dram (s : State) (o : Nat) : (resetReg s o).dram = s.dram := rfl
@[simp] theorem resetReg_nvm (s : State) (o : Nat) : (resetReg s o).nvm = s.nvm := rfl
@[simp] theorem resetReg_nvmBad (s : State) (o : Nat) : (resetReg s o).nvmBad = s.nvmBad := rfl
@[simp] theorem resetReg_nvmRun (s : State) (o : Nat) : (resetReg s o).nvmRun = s.nvmRun := rfl
@[simp] theorem resetReg_nvmQueue (s : State) (o : Nat) : (resetReg s o).nvmQueue = s.nvmQueue := rfl
@[simp] theorem resetReg_lensRun (s : State) (o : Nat) : (resetReg s o).lensRun = s.lensRun := rfl
@[simp] theorem resetReg_lensRewrite (s : State) (o : Nat) : (resetReg s o).lensRewrite = s.lensRewrite := rfl
@[simp] theorem resetReg_nvmCeAt (s : State) (o : Nat) : (resetReg s o).nvmCeAt = s.nvmCeAt := rfl
@[simp] theorem resetReg_tornPage (s : State) (o : Nat) : (resetReg s o).tornPage = s.tornPage := rfl
@[simp] theorem resetReg_patrolGrp (s : State) (o : Nat) : (resetReg s o).patrolGrp = s.patrolGrp := rfl
@[simp] theorem resetReg_patches (s : State) (o : Nat) : (resetReg s o).patches = s.patches := rfl
@[simp] theorem resetReg_nvmReads (s : State) (o : Nat) : (resetReg s o).nvmReads = s.nvmReads := rfl
@[simp] theorem resetReg_rings (s : State) (o : Nat) : (resetReg s o).rings = s.rings := rfl
@[simp] theorem resetReg_rrRing (s : State) (o : Nat) : (resetReg s o).rrRing = s.rrRing := rfl
@[simp] theorem resetReg_keys (s : State) (o : Nat) : (resetReg s o).keys = s.keys := rfl
@[simp] theorem resetReg_keyPend (s : State) (o : Nat) : (resetReg s o).keyPend = s.keyPend := rfl
@[simp] theorem resetReg_hdm (s : State) (o : Nat) : (resetReg s o).hdm = s.hdm := rfl
@[simp] theorem resetReg_linkLost (s : State) (o : Nat) : (resetReg s o).linkLost = s.linkLost := rfl
@[simp] theorem resetReg_leaseRaised (s : State) (o : Nat) : (resetReg s o).leaseRaised = s.leaseRaised := rfl
@[simp] theorem resetReg_msix (s : State) (o : Nat) : (resetReg s o).msix = s.msix := rfl
@[simp] theorem resetReg_cfg (s : State) (o : Nat) : (resetReg s o).cfg = s.cfg := rfl
@[simp] theorem resetReg_pba (s : State) (o : Nat) : (resetReg s o).pba = s.pba := rfl
@[simp] theorem resetReg_cxlPoisonAt (s : State) (o : Nat) : (resetReg s o).cxlPoisonAt = s.cxlPoisonAt := rfl
@[simp] theorem resetReg_cxlAperAt (s : State) (o : Nat) : (resetReg s o).cxlAperAt = s.cxlAperAt := rfl
@[simp] theorem resetReg_followUps (s : State) (o : Nat) : (resetReg s o).followUps = s.followUps := rfl
@[simp] theorem resetReg_snuff (s : State) (o : Nat) : (resetReg s o).snuff = s.snuff := rfl
@[simp] theorem resetReg_inputs (s : State) (o : Nat) : (resetReg s o).inputs = s.inputs := rfl
@[simp] theorem resetReg_log (s : State) (o : Nat) : (resetReg s o).log = s.log := rfl
@[simp] theorem resetReg_restartAt (s : State) (o : Nat) : (resetReg s o).restartAt = s.restartAt := rfl
@[simp] theorem resetReg_restarting (s : State) (o : Nat) : (resetReg s o).restarting = s.restarting := rfl
@[simp] theorem resetReg_rails (s : State) (o : Nat) : (resetReg s o).rails = s.rails := rfl
@[simp] theorem resetReg_railSeqAt (s : State) (o : Nat) : (resetReg s o).railSeqAt = s.railSeqAt := rfl
@[simp] theorem resetReg_railThen (s : State) (o : Nat) : (resetReg s o).railThen = s.railThen := rfl
@[simp] theorem resetReg_vrmEn (s : State) (o : Nat) : (resetReg s o).vrmEn = s.vrmEn := rfl
@[simp] theorem resetReg_cxlRegs (s : State) (o : Nat) : (resetReg s o).cxlRegs = s.cxlRegs := rfl
@[simp] theorem resetReg_railFaulted (s : State) (o : Nat) : (resetReg s o).railFaulted = s.railFaulted := rfl
@[simp] theorem resetReg_railHeld (s : State) (o : Nat) : (resetReg s o).railHeld = s.railHeld := rfl
@[simp] theorem resetReg_vrms (s : State) (o : Nat) : (resetReg s o).vrms = s.vrms := rfl
@[simp] theorem resetReg_vrmFailed (s : State) (o : Nat) : (resetReg s o).vrmFailed = s.vrmFailed := rfl
@[simp] theorem resetReg_lens (s : State) (o : Nat) : (resetReg s o).lens = s.lens := rfl
@[simp] theorem resetReg_optPend (s : State) (o : Nat) : (resetReg s o).optPend = s.optPend := rfl
@[simp] theorem resetReg_optArmed (s : State) (o : Nat) : (resetReg s o).optArmed = s.optArmed := rfl
@[simp] theorem resetReg_time (s : State) (o : Nat) : (resetReg s o).time = s.time := rfl
@[simp] theorem resetReg_chain (s : State) (o : Nat) : (resetReg s o).chain = s.chain := rfl
@[simp] theorem resetReg_clk (s : State) (o : Nat) : (resetReg s o).clk = s.clk := rfl
@[simp] theorem resetReg_wln (s : State) (o : Nat) : (resetReg s o).wln = s.wln := rfl
@[simp] theorem resetReg_scan (s : State) (o : Nat) : (resetReg s o).scan = s.scan := rfl
@[simp] theorem resetReg_reel (s : State) (o : Nat) : (resetReg s o).reel = s.reel := rfl
@[simp] theorem resetReg_rmap (s : State) (o : Nat) : (resetReg s o).rmap = s.rmap := rfl
@[simp] theorem resetReg_hle (s : State) (o : Nat) : (resetReg s o).hle = s.hle := rfl
@[simp] theorem resetReg_blt (s : State) (o : Nat) : (resetReg s o).blt = s.blt := rfl
@[simp] theorem resetReg_img (s : State) (o : Nat) : (resetReg s o).img = s.img := rfl
@[simp] theorem resetReg_act (s : State) (o : Nat) : (resetReg s o).act = s.act := rfl
@[simp] theorem resetReg_trigger (s : State) (o : Nat) : (resetReg s o).trigger = s.trigger := rfl
@[simp] theorem resetReg_startAt (s : State) (o : Nat) : (resetReg s o).startAt = s.startAt := rfl
@[simp] theorem resetReg_cand (s : State) (o : Nat) : (resetReg s o).cand = s.cand := rfl
@[simp] theorem resetReg_orderly (s : State) (o : Nat) : (resetReg s o).orderly = s.orderly := rfl
@[simp] theorem resetReg_wantLight (s : State) (o : Nat) : (resetReg s o).wantLight = s.wantLight := rfl
@[simp] theorem resetReg_rowZero (s : State) (o : Nat) : (resetReg s o).rowZero = s.rowZero := rfl

/-! ### setLamp -/

@[simp] theorem setLamp_held (s : State) (l : Lamp) : (setLamp s l).held = s.held := rfl
@[simp] theorem setLamp_ns (s : State) (l : Lamp) : (setLamp s l).ns = s.ns := rfl
@[simp] theorem setLamp_flr (s : State) (l : Lamp) : (setLamp s l).flr = s.flr := rfl
@[simp] theorem setLamp_free (s : State) (l : Lamp) : (setLamp s l).free = s.free := rfl
@[simp] theorem setLamp_out (s : State) (l : Lamp) : (setLamp s l).out = s.out := rfl
@[simp] theorem setLamp_pending (s : State) (l : Lamp) : (setLamp s l).pending = s.pending := rfl
@[simp] theorem setLamp_mem (s : State) (l : Lamp) : (setLamp s l).mem = s.mem := rfl
@[simp] theorem setLamp_poison (s : State) (l : Lamp) : (setLamp s l).poison = s.poison := rfl
@[simp] theorem setLamp_dram (s : State) (l : Lamp) : (setLamp s l).dram = s.dram := rfl
@[simp] theorem setLamp_nvm (s : State) (l : Lamp) : (setLamp s l).nvm = s.nvm := rfl
@[simp] theorem setLamp_nvmBad (s : State) (l : Lamp) : (setLamp s l).nvmBad = s.nvmBad := rfl
@[simp] theorem setLamp_nvmRun (s : State) (l : Lamp) : (setLamp s l).nvmRun = s.nvmRun := rfl
@[simp] theorem setLamp_nvmQueue (s : State) (l : Lamp) : (setLamp s l).nvmQueue = s.nvmQueue := rfl
@[simp] theorem setLamp_lensRun (s : State) (l : Lamp) : (setLamp s l).lensRun = s.lensRun := rfl
@[simp] theorem setLamp_lensRewrite (s : State) (l : Lamp) : (setLamp s l).lensRewrite = s.lensRewrite := rfl
@[simp] theorem setLamp_nvmCeAt (s : State) (l : Lamp) : (setLamp s l).nvmCeAt = s.nvmCeAt := rfl
@[simp] theorem setLamp_tornPage (s : State) (l : Lamp) : (setLamp s l).tornPage = s.tornPage := rfl
@[simp] theorem setLamp_patrolGrp (s : State) (l : Lamp) : (setLamp s l).patrolGrp = s.patrolGrp := rfl
@[simp] theorem setLamp_patches (s : State) (l : Lamp) : (setLamp s l).patches = s.patches := rfl
@[simp] theorem setLamp_nvmReads (s : State) (l : Lamp) : (setLamp s l).nvmReads = s.nvmReads := rfl
@[simp] theorem setLamp_rings (s : State) (l : Lamp) : (setLamp s l).rings = s.rings := rfl
@[simp] theorem setLamp_rrRing (s : State) (l : Lamp) : (setLamp s l).rrRing = s.rrRing := rfl
@[simp] theorem setLamp_keys (s : State) (l : Lamp) : (setLamp s l).keys = s.keys := rfl
@[simp] theorem setLamp_keyPend (s : State) (l : Lamp) : (setLamp s l).keyPend = s.keyPend := rfl
@[simp] theorem setLamp_hdm (s : State) (l : Lamp) : (setLamp s l).hdm = s.hdm := rfl
@[simp] theorem setLamp_linkLost (s : State) (l : Lamp) : (setLamp s l).linkLost = s.linkLost := rfl
@[simp] theorem setLamp_leaseRaised (s : State) (l : Lamp) : (setLamp s l).leaseRaised = s.leaseRaised := rfl
@[simp] theorem setLamp_msix (s : State) (l : Lamp) : (setLamp s l).msix = s.msix := rfl
@[simp] theorem setLamp_cfg (s : State) (l : Lamp) : (setLamp s l).cfg = s.cfg := rfl
@[simp] theorem setLamp_pba (s : State) (l : Lamp) : (setLamp s l).pba = s.pba := rfl
@[simp] theorem setLamp_cxlPoisonAt (s : State) (l : Lamp) : (setLamp s l).cxlPoisonAt = s.cxlPoisonAt := rfl
@[simp] theorem setLamp_cxlAperAt (s : State) (l : Lamp) : (setLamp s l).cxlAperAt = s.cxlAperAt := rfl
@[simp] theorem setLamp_followUps (s : State) (l : Lamp) : (setLamp s l).followUps = s.followUps := rfl
@[simp] theorem setLamp_snuff (s : State) (l : Lamp) : (setLamp s l).snuff = s.snuff := rfl
@[simp] theorem setLamp_inputs (s : State) (l : Lamp) : (setLamp s l).inputs = s.inputs := rfl
@[simp] theorem setLamp_log (s : State) (l : Lamp) : (setLamp s l).log = s.log := rfl
@[simp] theorem setLamp_restartAt (s : State) (l : Lamp) : (setLamp s l).restartAt = s.restartAt := rfl
@[simp] theorem setLamp_restarting (s : State) (l : Lamp) : (setLamp s l).restarting = s.restarting := rfl
@[simp] theorem setLamp_rails (s : State) (l : Lamp) : (setLamp s l).rails = s.rails := rfl
@[simp] theorem setLamp_railSeqAt (s : State) (l : Lamp) : (setLamp s l).railSeqAt = s.railSeqAt := rfl
@[simp] theorem setLamp_railThen (s : State) (l : Lamp) : (setLamp s l).railThen = s.railThen := rfl
@[simp] theorem setLamp_vrmEn (s : State) (l : Lamp) : (setLamp s l).vrmEn = s.vrmEn := rfl
@[simp] theorem setLamp_cxlRegs (s : State) (l : Lamp) : (setLamp s l).cxlRegs = s.cxlRegs := rfl
@[simp] theorem setLamp_railFaulted (s : State) (l : Lamp) : (setLamp s l).railFaulted = s.railFaulted := rfl
@[simp] theorem setLamp_railHeld (s : State) (l : Lamp) : (setLamp s l).railHeld = s.railHeld := rfl
@[simp] theorem setLamp_vrms (s : State) (l : Lamp) : (setLamp s l).vrms = s.vrms := rfl
@[simp] theorem setLamp_vrmFailed (s : State) (l : Lamp) : (setLamp s l).vrmFailed = s.vrmFailed := rfl
@[simp] theorem setLamp_lens (s : State) (l : Lamp) : (setLamp s l).lens = s.lens := rfl
@[simp] theorem setLamp_optPend (s : State) (l : Lamp) : (setLamp s l).optPend = s.optPend := rfl
@[simp] theorem setLamp_optArmed (s : State) (l : Lamp) : (setLamp s l).optArmed = s.optArmed := rfl
@[simp] theorem setLamp_time (s : State) (l : Lamp) : (setLamp s l).time = s.time := rfl
@[simp] theorem setLamp_chain (s : State) (l : Lamp) : (setLamp s l).chain = s.chain := rfl
@[simp] theorem setLamp_clk (s : State) (l : Lamp) : (setLamp s l).clk = s.clk := rfl
@[simp] theorem setLamp_wln (s : State) (l : Lamp) : (setLamp s l).wln = s.wln := rfl
@[simp] theorem setLamp_scan (s : State) (l : Lamp) : (setLamp s l).scan = s.scan := rfl
@[simp] theorem setLamp_reel (s : State) (l : Lamp) : (setLamp s l).reel = s.reel := rfl
@[simp] theorem setLamp_rmap (s : State) (l : Lamp) : (setLamp s l).rmap = s.rmap := rfl
@[simp] theorem setLamp_hle (s : State) (l : Lamp) : (setLamp s l).hle = s.hle := rfl
@[simp] theorem setLamp_blt (s : State) (l : Lamp) : (setLamp s l).blt = s.blt := rfl
@[simp] theorem setLamp_img (s : State) (l : Lamp) : (setLamp s l).img = s.img := rfl
@[simp] theorem setLamp_act (s : State) (l : Lamp) : (setLamp s l).act = s.act := rfl
@[simp] theorem setLamp_trigger (s : State) (l : Lamp) : (setLamp s l).trigger = s.trigger := rfl
@[simp] theorem setLamp_startAt (s : State) (l : Lamp) : (setLamp s l).startAt = s.startAt := rfl
@[simp] theorem setLamp_cand (s : State) (l : Lamp) : (setLamp s l).cand = s.cand := rfl
@[simp] theorem setLamp_orderly (s : State) (l : Lamp) : (setLamp s l).orderly = s.orderly := rfl
@[simp] theorem setLamp_wantLight (s : State) (l : Lamp) : (setLamp s l).wantLight = s.wantLight := rfl
@[simp] theorem setLamp_rowZero (s : State) (l : Lamp) : (setLamp s l).rowZero = s.rowZero := rfl

/-! ### emit -/

@[simp] theorem emit_regs (s : State) (e : Emission) : (emit s e).regs = s.regs := rfl
@[simp] theorem emit_held (s : State) (e : Emission) : (emit s e).held = s.held := rfl
@[simp] theorem emit_ns (s : State) (e : Emission) : (emit s e).ns = s.ns := rfl
@[simp] theorem emit_flr (s : State) (e : Emission) : (emit s e).flr = s.flr := rfl
@[simp] theorem emit_free (s : State) (e : Emission) : (emit s e).free = s.free := rfl
@[simp] theorem emit_pending (s : State) (e : Emission) : (emit s e).pending = s.pending := rfl
@[simp] theorem emit_mem (s : State) (e : Emission) : (emit s e).mem = s.mem := rfl
@[simp] theorem emit_poison (s : State) (e : Emission) : (emit s e).poison = s.poison := rfl
@[simp] theorem emit_dram (s : State) (e : Emission) : (emit s e).dram = s.dram := rfl
@[simp] theorem emit_nvm (s : State) (e : Emission) : (emit s e).nvm = s.nvm := rfl
@[simp] theorem emit_nvmBad (s : State) (e : Emission) : (emit s e).nvmBad = s.nvmBad := rfl
@[simp] theorem emit_nvmRun (s : State) (e : Emission) : (emit s e).nvmRun = s.nvmRun := rfl
@[simp] theorem emit_nvmQueue (s : State) (e : Emission) : (emit s e).nvmQueue = s.nvmQueue := rfl
@[simp] theorem emit_lensRun (s : State) (e : Emission) : (emit s e).lensRun = s.lensRun := rfl
@[simp] theorem emit_lensRewrite (s : State) (e : Emission) : (emit s e).lensRewrite = s.lensRewrite := rfl
@[simp] theorem emit_nvmCeAt (s : State) (e : Emission) : (emit s e).nvmCeAt = s.nvmCeAt := rfl
@[simp] theorem emit_tornPage (s : State) (e : Emission) : (emit s e).tornPage = s.tornPage := rfl
@[simp] theorem emit_patrolGrp (s : State) (e : Emission) : (emit s e).patrolGrp = s.patrolGrp := rfl
@[simp] theorem emit_patches (s : State) (e : Emission) : (emit s e).patches = s.patches := rfl
@[simp] theorem emit_nvmReads (s : State) (e : Emission) : (emit s e).nvmReads = s.nvmReads := rfl
@[simp] theorem emit_rings (s : State) (e : Emission) : (emit s e).rings = s.rings := rfl
@[simp] theorem emit_rrRing (s : State) (e : Emission) : (emit s e).rrRing = s.rrRing := rfl
@[simp] theorem emit_keys (s : State) (e : Emission) : (emit s e).keys = s.keys := rfl
@[simp] theorem emit_keyPend (s : State) (e : Emission) : (emit s e).keyPend = s.keyPend := rfl
@[simp] theorem emit_hdm (s : State) (e : Emission) : (emit s e).hdm = s.hdm := rfl
@[simp] theorem emit_linkLost (s : State) (e : Emission) : (emit s e).linkLost = s.linkLost := rfl
@[simp] theorem emit_leaseRaised (s : State) (e : Emission) : (emit s e).leaseRaised = s.leaseRaised := rfl
@[simp] theorem emit_msix (s : State) (e : Emission) : (emit s e).msix = s.msix := rfl
@[simp] theorem emit_cfg (s : State) (e : Emission) : (emit s e).cfg = s.cfg := rfl
@[simp] theorem emit_pba (s : State) (e : Emission) : (emit s e).pba = s.pba := rfl
@[simp] theorem emit_cxlPoisonAt (s : State) (e : Emission) : (emit s e).cxlPoisonAt = s.cxlPoisonAt := rfl
@[simp] theorem emit_cxlAperAt (s : State) (e : Emission) : (emit s e).cxlAperAt = s.cxlAperAt := rfl
@[simp] theorem emit_followUps (s : State) (e : Emission) : (emit s e).followUps = s.followUps := rfl
@[simp] theorem emit_snuff (s : State) (e : Emission) : (emit s e).snuff = s.snuff := rfl
@[simp] theorem emit_inputs (s : State) (e : Emission) : (emit s e).inputs = s.inputs := rfl
@[simp] theorem emit_log (s : State) (e : Emission) : (emit s e).log = s.log := rfl
@[simp] theorem emit_restartAt (s : State) (e : Emission) : (emit s e).restartAt = s.restartAt := rfl
@[simp] theorem emit_restarting (s : State) (e : Emission) : (emit s e).restarting = s.restarting := rfl
@[simp] theorem emit_rails (s : State) (e : Emission) : (emit s e).rails = s.rails := rfl
@[simp] theorem emit_railSeqAt (s : State) (e : Emission) : (emit s e).railSeqAt = s.railSeqAt := rfl
@[simp] theorem emit_railThen (s : State) (e : Emission) : (emit s e).railThen = s.railThen := rfl
@[simp] theorem emit_vrmEn (s : State) (e : Emission) : (emit s e).vrmEn = s.vrmEn := rfl
@[simp] theorem emit_cxlRegs (s : State) (e : Emission) : (emit s e).cxlRegs = s.cxlRegs := rfl
@[simp] theorem emit_railFaulted (s : State) (e : Emission) : (emit s e).railFaulted = s.railFaulted := rfl
@[simp] theorem emit_railHeld (s : State) (e : Emission) : (emit s e).railHeld = s.railHeld := rfl
@[simp] theorem emit_vrms (s : State) (e : Emission) : (emit s e).vrms = s.vrms := rfl
@[simp] theorem emit_vrmFailed (s : State) (e : Emission) : (emit s e).vrmFailed = s.vrmFailed := rfl
@[simp] theorem emit_lens (s : State) (e : Emission) : (emit s e).lens = s.lens := rfl
@[simp] theorem emit_optPend (s : State) (e : Emission) : (emit s e).optPend = s.optPend := rfl
@[simp] theorem emit_optArmed (s : State) (e : Emission) : (emit s e).optArmed = s.optArmed := rfl
@[simp] theorem emit_time (s : State) (e : Emission) : (emit s e).time = s.time := rfl
@[simp] theorem emit_chain (s : State) (e : Emission) : (emit s e).chain = s.chain := rfl
@[simp] theorem emit_clk (s : State) (e : Emission) : (emit s e).clk = s.clk := rfl
@[simp] theorem emit_wln (s : State) (e : Emission) : (emit s e).wln = s.wln := rfl
@[simp] theorem emit_scan (s : State) (e : Emission) : (emit s e).scan = s.scan := rfl
@[simp] theorem emit_reel (s : State) (e : Emission) : (emit s e).reel = s.reel := rfl
@[simp] theorem emit_rmap (s : State) (e : Emission) : (emit s e).rmap = s.rmap := rfl
@[simp] theorem emit_hle (s : State) (e : Emission) : (emit s e).hle = s.hle := rfl
@[simp] theorem emit_blt (s : State) (e : Emission) : (emit s e).blt = s.blt := rfl
@[simp] theorem emit_img (s : State) (e : Emission) : (emit s e).img = s.img := rfl
@[simp] theorem emit_act (s : State) (e : Emission) : (emit s e).act = s.act := rfl
@[simp] theorem emit_trigger (s : State) (e : Emission) : (emit s e).trigger = s.trigger := rfl
@[simp] theorem emit_startAt (s : State) (e : Emission) : (emit s e).startAt = s.startAt := rfl
@[simp] theorem emit_cand (s : State) (e : Emission) : (emit s e).cand = s.cand := rfl
@[simp] theorem emit_orderly (s : State) (e : Emission) : (emit s e).orderly = s.orderly := rfl
@[simp] theorem emit_wantLight (s : State) (e : Emission) : (emit s e).wantLight = s.wantLight := rfl
@[simp] theorem emit_rowZero (s : State) (e : Emission) : (emit s e).rowZero = s.rowZero := rfl

/-! ### fresh -/

@[simp] theorem fresh_regs (s : State) : (fresh s).regs = s.regs := rfl
@[simp] theorem fresh_held (s : State) : (fresh s).held = s.held := rfl
@[simp] theorem fresh_ns (s : State) : (fresh s).ns = s.ns := rfl
@[simp] theorem fresh_flr (s : State) : (fresh s).flr = s.flr := rfl
@[simp] theorem fresh_free (s : State) : (fresh s).free = s.free := rfl
@[simp] theorem fresh_pending (s : State) : (fresh s).pending = s.pending := rfl
@[simp] theorem fresh_mem (s : State) : (fresh s).mem = s.mem := rfl
@[simp] theorem fresh_poison (s : State) : (fresh s).poison = s.poison := rfl
@[simp] theorem fresh_dram (s : State) : (fresh s).dram = s.dram := rfl
@[simp] theorem fresh_nvm (s : State) : (fresh s).nvm = s.nvm := rfl
@[simp] theorem fresh_nvmBad (s : State) : (fresh s).nvmBad = s.nvmBad := rfl
@[simp] theorem fresh_nvmRun (s : State) : (fresh s).nvmRun = s.nvmRun := rfl
@[simp] theorem fresh_nvmQueue (s : State) : (fresh s).nvmQueue = s.nvmQueue := rfl
@[simp] theorem fresh_lensRun (s : State) : (fresh s).lensRun = s.lensRun := rfl
@[simp] theorem fresh_lensRewrite (s : State) : (fresh s).lensRewrite = s.lensRewrite := rfl
@[simp] theorem fresh_nvmCeAt (s : State) : (fresh s).nvmCeAt = s.nvmCeAt := rfl
@[simp] theorem fresh_tornPage (s : State) : (fresh s).tornPage = s.tornPage := rfl
@[simp] theorem fresh_patrolGrp (s : State) : (fresh s).patrolGrp = s.patrolGrp := rfl
@[simp] theorem fresh_patches (s : State) : (fresh s).patches = s.patches := rfl
@[simp] theorem fresh_nvmReads (s : State) : (fresh s).nvmReads = s.nvmReads := rfl
@[simp] theorem fresh_rings (s : State) : (fresh s).rings = s.rings := rfl
@[simp] theorem fresh_rrRing (s : State) : (fresh s).rrRing = s.rrRing := rfl
@[simp] theorem fresh_keys (s : State) : (fresh s).keys = s.keys := rfl
@[simp] theorem fresh_keyPend (s : State) : (fresh s).keyPend = s.keyPend := rfl
@[simp] theorem fresh_hdm (s : State) : (fresh s).hdm = s.hdm := rfl
@[simp] theorem fresh_linkLost (s : State) : (fresh s).linkLost = s.linkLost := rfl
@[simp] theorem fresh_leaseRaised (s : State) : (fresh s).leaseRaised = s.leaseRaised := rfl
@[simp] theorem fresh_msix (s : State) : (fresh s).msix = s.msix := rfl
@[simp] theorem fresh_cfg (s : State) : (fresh s).cfg = s.cfg := rfl
@[simp] theorem fresh_pba (s : State) : (fresh s).pba = s.pba := rfl
@[simp] theorem fresh_cxlPoisonAt (s : State) : (fresh s).cxlPoisonAt = s.cxlPoisonAt := rfl
@[simp] theorem fresh_cxlAperAt (s : State) : (fresh s).cxlAperAt = s.cxlAperAt := rfl
@[simp] theorem fresh_followUps (s : State) : (fresh s).followUps = s.followUps := rfl
@[simp] theorem fresh_snuff (s : State) : (fresh s).snuff = s.snuff := rfl
@[simp] theorem fresh_inputs (s : State) : (fresh s).inputs = s.inputs := rfl
@[simp] theorem fresh_log (s : State) : (fresh s).log = s.log := rfl
@[simp] theorem fresh_restartAt (s : State) : (fresh s).restartAt = s.restartAt := rfl
@[simp] theorem fresh_restarting (s : State) : (fresh s).restarting = s.restarting := rfl
@[simp] theorem fresh_rails (s : State) : (fresh s).rails = s.rails := rfl
@[simp] theorem fresh_railSeqAt (s : State) : (fresh s).railSeqAt = s.railSeqAt := rfl
@[simp] theorem fresh_railThen (s : State) : (fresh s).railThen = s.railThen := rfl
@[simp] theorem fresh_vrmEn (s : State) : (fresh s).vrmEn = s.vrmEn := rfl
@[simp] theorem fresh_cxlRegs (s : State) : (fresh s).cxlRegs = s.cxlRegs := rfl
@[simp] theorem fresh_railFaulted (s : State) : (fresh s).railFaulted = s.railFaulted := rfl
@[simp] theorem fresh_railHeld (s : State) : (fresh s).railHeld = s.railHeld := rfl
@[simp] theorem fresh_vrms (s : State) : (fresh s).vrms = s.vrms := rfl
@[simp] theorem fresh_vrmFailed (s : State) : (fresh s).vrmFailed = s.vrmFailed := rfl
@[simp] theorem fresh_lens (s : State) : (fresh s).lens = s.lens := rfl
@[simp] theorem fresh_optPend (s : State) : (fresh s).optPend = s.optPend := rfl
@[simp] theorem fresh_optArmed (s : State) : (fresh s).optArmed = s.optArmed := rfl
@[simp] theorem fresh_time (s : State) : (fresh s).time = s.time := rfl
@[simp] theorem fresh_chain (s : State) : (fresh s).chain = s.chain := rfl
@[simp] theorem fresh_clk (s : State) : (fresh s).clk = s.clk := rfl
@[simp] theorem fresh_wln (s : State) : (fresh s).wln = s.wln := rfl
@[simp] theorem fresh_scan (s : State) : (fresh s).scan = s.scan := rfl
@[simp] theorem fresh_reel (s : State) : (fresh s).reel = s.reel := rfl
@[simp] theorem fresh_rmap (s : State) : (fresh s).rmap = s.rmap := rfl
@[simp] theorem fresh_hle (s : State) : (fresh s).hle = s.hle := rfl
@[simp] theorem fresh_blt (s : State) : (fresh s).blt = s.blt := rfl
@[simp] theorem fresh_img (s : State) : (fresh s).img = s.img := rfl
@[simp] theorem fresh_act (s : State) : (fresh s).act = s.act := rfl
@[simp] theorem fresh_trigger (s : State) : (fresh s).trigger = s.trigger := rfl
@[simp] theorem fresh_startAt (s : State) : (fresh s).startAt = s.startAt := rfl
@[simp] theorem fresh_cand (s : State) : (fresh s).cand = s.cand := rfl
@[simp] theorem fresh_orderly (s : State) : (fresh s).orderly = s.orderly := rfl
@[simp] theorem fresh_wantLight (s : State) : (fresh s).wantLight = s.wantLight := rfl
@[simp] theorem fresh_rowZero (s : State) : (fresh s).rowZero = s.rowZero := rfl

/-! ### drew -/

@[simp] theorem drew_regs (s : State) : (drew s).regs = s.regs := rfl
@[simp] theorem drew_held (s : State) : (drew s).held = s.held := rfl
@[simp] theorem drew_ns (s : State) : (drew s).ns = s.ns := rfl
@[simp] theorem drew_flr (s : State) : (drew s).flr = s.flr := rfl
@[simp] theorem drew_out (s : State) : (drew s).out = s.out := rfl
@[simp] theorem drew_pending (s : State) : (drew s).pending = s.pending := rfl
@[simp] theorem drew_mem (s : State) : (drew s).mem = s.mem := rfl
@[simp] theorem drew_poison (s : State) : (drew s).poison = s.poison := rfl
@[simp] theorem drew_dram (s : State) : (drew s).dram = s.dram := rfl
@[simp] theorem drew_nvm (s : State) : (drew s).nvm = s.nvm := rfl
@[simp] theorem drew_nvmBad (s : State) : (drew s).nvmBad = s.nvmBad := rfl
@[simp] theorem drew_nvmRun (s : State) : (drew s).nvmRun = s.nvmRun := rfl
@[simp] theorem drew_nvmQueue (s : State) : (drew s).nvmQueue = s.nvmQueue := rfl
@[simp] theorem drew_lensRun (s : State) : (drew s).lensRun = s.lensRun := rfl
@[simp] theorem drew_lensRewrite (s : State) : (drew s).lensRewrite = s.lensRewrite := rfl
@[simp] theorem drew_nvmCeAt (s : State) : (drew s).nvmCeAt = s.nvmCeAt := rfl
@[simp] theorem drew_tornPage (s : State) : (drew s).tornPage = s.tornPage := rfl
@[simp] theorem drew_patrolGrp (s : State) : (drew s).patrolGrp = s.patrolGrp := rfl
@[simp] theorem drew_patches (s : State) : (drew s).patches = s.patches := rfl
@[simp] theorem drew_nvmReads (s : State) : (drew s).nvmReads = s.nvmReads := rfl
@[simp] theorem drew_rings (s : State) : (drew s).rings = s.rings := rfl
@[simp] theorem drew_rrRing (s : State) : (drew s).rrRing = s.rrRing := rfl
@[simp] theorem drew_keys (s : State) : (drew s).keys = s.keys := rfl
@[simp] theorem drew_keyPend (s : State) : (drew s).keyPend = s.keyPend := rfl
@[simp] theorem drew_hdm (s : State) : (drew s).hdm = s.hdm := rfl
@[simp] theorem drew_linkLost (s : State) : (drew s).linkLost = s.linkLost := rfl
@[simp] theorem drew_leaseRaised (s : State) : (drew s).leaseRaised = s.leaseRaised := rfl
@[simp] theorem drew_msix (s : State) : (drew s).msix = s.msix := rfl
@[simp] theorem drew_cfg (s : State) : (drew s).cfg = s.cfg := rfl
@[simp] theorem drew_pba (s : State) : (drew s).pba = s.pba := rfl
@[simp] theorem drew_cxlPoisonAt (s : State) : (drew s).cxlPoisonAt = s.cxlPoisonAt := rfl
@[simp] theorem drew_cxlAperAt (s : State) : (drew s).cxlAperAt = s.cxlAperAt := rfl
@[simp] theorem drew_followUps (s : State) : (drew s).followUps = s.followUps := rfl
@[simp] theorem drew_snuff (s : State) : (drew s).snuff = s.snuff := rfl
@[simp] theorem drew_inputs (s : State) : (drew s).inputs = s.inputs := rfl
@[simp] theorem drew_log (s : State) : (drew s).log = s.log := rfl
@[simp] theorem drew_restartAt (s : State) : (drew s).restartAt = s.restartAt := rfl
@[simp] theorem drew_restarting (s : State) : (drew s).restarting = s.restarting := rfl
@[simp] theorem drew_rails (s : State) : (drew s).rails = s.rails := rfl
@[simp] theorem drew_railSeqAt (s : State) : (drew s).railSeqAt = s.railSeqAt := rfl
@[simp] theorem drew_railThen (s : State) : (drew s).railThen = s.railThen := rfl
@[simp] theorem drew_vrmEn (s : State) : (drew s).vrmEn = s.vrmEn := rfl
@[simp] theorem drew_cxlRegs (s : State) : (drew s).cxlRegs = s.cxlRegs := rfl
@[simp] theorem drew_railFaulted (s : State) : (drew s).railFaulted = s.railFaulted := rfl
@[simp] theorem drew_railHeld (s : State) : (drew s).railHeld = s.railHeld := rfl
@[simp] theorem drew_vrms (s : State) : (drew s).vrms = s.vrms := rfl
@[simp] theorem drew_vrmFailed (s : State) : (drew s).vrmFailed = s.vrmFailed := rfl
@[simp] theorem drew_lens (s : State) : (drew s).lens = s.lens := rfl
@[simp] theorem drew_optPend (s : State) : (drew s).optPend = s.optPend := rfl
@[simp] theorem drew_optArmed (s : State) : (drew s).optArmed = s.optArmed := rfl
@[simp] theorem drew_time (s : State) : (drew s).time = s.time := rfl
@[simp] theorem drew_chain (s : State) : (drew s).chain = s.chain := rfl
@[simp] theorem drew_clk (s : State) : (drew s).clk = s.clk := rfl
@[simp] theorem drew_wln (s : State) : (drew s).wln = s.wln := rfl
@[simp] theorem drew_scan (s : State) : (drew s).scan = s.scan := rfl
@[simp] theorem drew_reel (s : State) : (drew s).reel = s.reel := rfl
@[simp] theorem drew_rmap (s : State) : (drew s).rmap = s.rmap := rfl
@[simp] theorem drew_hle (s : State) : (drew s).hle = s.hle := rfl
@[simp] theorem drew_blt (s : State) : (drew s).blt = s.blt := rfl
@[simp] theorem drew_img (s : State) : (drew s).img = s.img := rfl
@[simp] theorem drew_act (s : State) : (drew s).act = s.act := rfl
@[simp] theorem drew_trigger (s : State) : (drew s).trigger = s.trigger := rfl
@[simp] theorem drew_startAt (s : State) : (drew s).startAt = s.startAt := rfl
@[simp] theorem drew_cand (s : State) : (drew s).cand = s.cand := rfl
@[simp] theorem drew_orderly (s : State) : (drew s).orderly = s.orderly := rfl
@[simp] theorem drew_wantLight (s : State) : (drew s).wantLight = s.wantLight := rfl
@[simp] theorem drew_rowZero (s : State) : (drew s).rowZero = s.rowZero := rfl

/-! ### setRing -/

@[simp] theorem setRing_regs (s : State) (r : Nat) (x : Ring) : (setRing s r x).regs = s.regs := rfl
@[simp] theorem setRing_held (s : State) (r : Nat) (x : Ring) : (setRing s r x).held = s.held := rfl
@[simp] theorem setRing_ns (s : State) (r : Nat) (x : Ring) : (setRing s r x).ns = s.ns := rfl
@[simp] theorem setRing_flr (s : State) (r : Nat) (x : Ring) : (setRing s r x).flr = s.flr := rfl
@[simp] theorem setRing_free (s : State) (r : Nat) (x : Ring) : (setRing s r x).free = s.free := rfl
@[simp] theorem setRing_out (s : State) (r : Nat) (x : Ring) : (setRing s r x).out = s.out := rfl
@[simp] theorem setRing_pending (s : State) (r : Nat) (x : Ring) : (setRing s r x).pending = s.pending := rfl
@[simp] theorem setRing_mem (s : State) (r : Nat) (x : Ring) : (setRing s r x).mem = s.mem := rfl
@[simp] theorem setRing_poison (s : State) (r : Nat) (x : Ring) : (setRing s r x).poison = s.poison := rfl
@[simp] theorem setRing_dram (s : State) (r : Nat) (x : Ring) : (setRing s r x).dram = s.dram := rfl
@[simp] theorem setRing_nvm (s : State) (r : Nat) (x : Ring) : (setRing s r x).nvm = s.nvm := rfl
@[simp] theorem setRing_nvmBad (s : State) (r : Nat) (x : Ring) : (setRing s r x).nvmBad = s.nvmBad := rfl
@[simp] theorem setRing_nvmRun (s : State) (r : Nat) (x : Ring) : (setRing s r x).nvmRun = s.nvmRun := rfl
@[simp] theorem setRing_nvmQueue (s : State) (r : Nat) (x : Ring) : (setRing s r x).nvmQueue = s.nvmQueue := rfl
@[simp] theorem setRing_lensRun (s : State) (r : Nat) (x : Ring) : (setRing s r x).lensRun = s.lensRun := rfl
@[simp] theorem setRing_lensRewrite (s : State) (r : Nat) (x : Ring) : (setRing s r x).lensRewrite = s.lensRewrite := rfl
@[simp] theorem setRing_nvmCeAt (s : State) (r : Nat) (x : Ring) : (setRing s r x).nvmCeAt = s.nvmCeAt := rfl
@[simp] theorem setRing_tornPage (s : State) (r : Nat) (x : Ring) : (setRing s r x).tornPage = s.tornPage := rfl
@[simp] theorem setRing_patrolGrp (s : State) (r : Nat) (x : Ring) : (setRing s r x).patrolGrp = s.patrolGrp := rfl
@[simp] theorem setRing_patches (s : State) (r : Nat) (x : Ring) : (setRing s r x).patches = s.patches := rfl
@[simp] theorem setRing_nvmReads (s : State) (r : Nat) (x : Ring) : (setRing s r x).nvmReads = s.nvmReads := rfl
@[simp] theorem setRing_rrRing (s : State) (r : Nat) (x : Ring) : (setRing s r x).rrRing = s.rrRing := rfl
@[simp] theorem setRing_keys (s : State) (r : Nat) (x : Ring) : (setRing s r x).keys = s.keys := rfl
@[simp] theorem setRing_keyPend (s : State) (r : Nat) (x : Ring) : (setRing s r x).keyPend = s.keyPend := rfl
@[simp] theorem setRing_hdm (s : State) (r : Nat) (x : Ring) : (setRing s r x).hdm = s.hdm := rfl
@[simp] theorem setRing_linkLost (s : State) (r : Nat) (x : Ring) : (setRing s r x).linkLost = s.linkLost := rfl
@[simp] theorem setRing_leaseRaised (s : State) (r : Nat) (x : Ring) : (setRing s r x).leaseRaised = s.leaseRaised := rfl
@[simp] theorem setRing_msix (s : State) (r : Nat) (x : Ring) : (setRing s r x).msix = s.msix := rfl
@[simp] theorem setRing_cfg (s : State) (r : Nat) (x : Ring) : (setRing s r x).cfg = s.cfg := rfl
@[simp] theorem setRing_pba (s : State) (r : Nat) (x : Ring) : (setRing s r x).pba = s.pba := rfl
@[simp] theorem setRing_cxlPoisonAt (s : State) (r : Nat) (x : Ring) : (setRing s r x).cxlPoisonAt = s.cxlPoisonAt := rfl
@[simp] theorem setRing_cxlAperAt (s : State) (r : Nat) (x : Ring) : (setRing s r x).cxlAperAt = s.cxlAperAt := rfl
@[simp] theorem setRing_followUps (s : State) (r : Nat) (x : Ring) : (setRing s r x).followUps = s.followUps := rfl
@[simp] theorem setRing_snuff (s : State) (r : Nat) (x : Ring) : (setRing s r x).snuff = s.snuff := rfl
@[simp] theorem setRing_inputs (s : State) (r : Nat) (x : Ring) : (setRing s r x).inputs = s.inputs := rfl
@[simp] theorem setRing_log (s : State) (r : Nat) (x : Ring) : (setRing s r x).log = s.log := rfl
@[simp] theorem setRing_restartAt (s : State) (r : Nat) (x : Ring) : (setRing s r x).restartAt = s.restartAt := rfl
@[simp] theorem setRing_restarting (s : State) (r : Nat) (x : Ring) : (setRing s r x).restarting = s.restarting := rfl
@[simp] theorem setRing_rails (s : State) (r : Nat) (x : Ring) : (setRing s r x).rails = s.rails := rfl
@[simp] theorem setRing_railSeqAt (s : State) (r : Nat) (x : Ring) : (setRing s r x).railSeqAt = s.railSeqAt := rfl
@[simp] theorem setRing_railThen (s : State) (r : Nat) (x : Ring) : (setRing s r x).railThen = s.railThen := rfl
@[simp] theorem setRing_vrmEn (s : State) (r : Nat) (x : Ring) : (setRing s r x).vrmEn = s.vrmEn := rfl
@[simp] theorem setRing_cxlRegs (s : State) (r : Nat) (x : Ring) : (setRing s r x).cxlRegs = s.cxlRegs := rfl
@[simp] theorem setRing_railFaulted (s : State) (r : Nat) (x : Ring) : (setRing s r x).railFaulted = s.railFaulted := rfl
@[simp] theorem setRing_railHeld (s : State) (r : Nat) (x : Ring) : (setRing s r x).railHeld = s.railHeld := rfl
@[simp] theorem setRing_vrms (s : State) (r : Nat) (x : Ring) : (setRing s r x).vrms = s.vrms := rfl
@[simp] theorem setRing_vrmFailed (s : State) (r : Nat) (x : Ring) : (setRing s r x).vrmFailed = s.vrmFailed := rfl
@[simp] theorem setRing_lens (s : State) (r : Nat) (x : Ring) : (setRing s r x).lens = s.lens := rfl
@[simp] theorem setRing_optPend (s : State) (r : Nat) (x : Ring) : (setRing s r x).optPend = s.optPend := rfl
@[simp] theorem setRing_optArmed (s : State) (r : Nat) (x : Ring) : (setRing s r x).optArmed = s.optArmed := rfl
@[simp] theorem setRing_time (s : State) (r : Nat) (x : Ring) : (setRing s r x).time = s.time := rfl
@[simp] theorem setRing_chain (s : State) (r : Nat) (x : Ring) : (setRing s r x).chain = s.chain := rfl
@[simp] theorem setRing_clk (s : State) (r : Nat) (x : Ring) : (setRing s r x).clk = s.clk := rfl
@[simp] theorem setRing_wln (s : State) (r : Nat) (x : Ring) : (setRing s r x).wln = s.wln := rfl
@[simp] theorem setRing_scan (s : State) (r : Nat) (x : Ring) : (setRing s r x).scan = s.scan := rfl
@[simp] theorem setRing_reel (s : State) (r : Nat) (x : Ring) : (setRing s r x).reel = s.reel := rfl
@[simp] theorem setRing_rmap (s : State) (r : Nat) (x : Ring) : (setRing s r x).rmap = s.rmap := rfl
@[simp] theorem setRing_hle (s : State) (r : Nat) (x : Ring) : (setRing s r x).hle = s.hle := rfl
@[simp] theorem setRing_blt (s : State) (r : Nat) (x : Ring) : (setRing s r x).blt = s.blt := rfl
@[simp] theorem setRing_img (s : State) (r : Nat) (x : Ring) : (setRing s r x).img = s.img := rfl
@[simp] theorem setRing_act (s : State) (r : Nat) (x : Ring) : (setRing s r x).act = s.act := rfl
@[simp] theorem setRing_trigger (s : State) (r : Nat) (x : Ring) : (setRing s r x).trigger = s.trigger := rfl
@[simp] theorem setRing_startAt (s : State) (r : Nat) (x : Ring) : (setRing s r x).startAt = s.startAt := rfl
@[simp] theorem setRing_cand (s : State) (r : Nat) (x : Ring) : (setRing s r x).cand = s.cand := rfl
@[simp] theorem setRing_orderly (s : State) (r : Nat) (x : Ring) : (setRing s r x).orderly = s.orderly := rfl
@[simp] theorem setRing_wantLight (s : State) (r : Nat) (x : Ring) : (setRing s r x).wantLight = s.wantLight := rfl
@[simp] theorem setRing_rowZero (s : State) (r : Nat) (x : Ring) : (setRing s r x).rowZero = s.rowZero := rfl

/-! ### setRail -/

@[simp] theorem setRail_held (s : State) (i : Nat) (p : RailPhase) : (setRail s i p).held = s.held := by
  rw [setRail, setFld_held]
@[simp] theorem setRail_ns (s : State) (i : Nat) (p : RailPhase) : (setRail s i p).ns = s.ns := by
  rw [setRail, setFld_ns]
@[simp] theorem setRail_flr (s : State) (i : Nat) (p : RailPhase) : (setRail s i p).flr = s.flr := by
  rw [setRail, setFld_flr]
@[simp] theorem setRail_free (s : State) (i : Nat) (p : RailPhase) : (setRail s i p).free = s.free := by
  rw [setRail, setFld_free]
@[simp] theorem setRail_out (s : State) (i : Nat) (p : RailPhase) : (setRail s i p).out = s.out := by
  rw [setRail, setFld_out]
@[simp] theorem setRail_pending (s : State) (i : Nat) (p : RailPhase) : (setRail s i p).pending = s.pending := by
  rw [setRail, setFld_pending]
@[simp] theorem setRail_mem (s : State) (i : Nat) (p : RailPhase) : (setRail s i p).mem = s.mem := by
  rw [setRail, setFld_mem]
@[simp] theorem setRail_poison (s : State) (i : Nat) (p : RailPhase) : (setRail s i p).poison = s.poison := by
  rw [setRail, setFld_poison]
@[simp] theorem setRail_dram (s : State) (i : Nat) (p : RailPhase) : (setRail s i p).dram = s.dram := by
  rw [setRail, setFld_dram]
@[simp] theorem setRail_nvm (s : State) (i : Nat) (p : RailPhase) : (setRail s i p).nvm = s.nvm := by
  rw [setRail, setFld_nvm]
@[simp] theorem setRail_nvmBad (s : State) (i : Nat) (p : RailPhase) : (setRail s i p).nvmBad = s.nvmBad := by
  rw [setRail, setFld_nvmBad]
@[simp] theorem setRail_nvmRun (s : State) (i : Nat) (p : RailPhase) : (setRail s i p).nvmRun = s.nvmRun := by
  rw [setRail, setFld_nvmRun]
@[simp] theorem setRail_nvmQueue (s : State) (i : Nat) (p : RailPhase) : (setRail s i p).nvmQueue = s.nvmQueue := by
  rw [setRail, setFld_nvmQueue]
@[simp] theorem setRail_lensRun (s : State) (i : Nat) (p : RailPhase) : (setRail s i p).lensRun = s.lensRun := by
  rw [setRail, setFld_lensRun]
@[simp] theorem setRail_lensRewrite (s : State) (i : Nat) (p : RailPhase) : (setRail s i p).lensRewrite = s.lensRewrite := by
  rw [setRail, setFld_lensRewrite]
@[simp] theorem setRail_nvmCeAt (s : State) (i : Nat) (p : RailPhase) : (setRail s i p).nvmCeAt = s.nvmCeAt := by
  rw [setRail, setFld_nvmCeAt]
@[simp] theorem setRail_tornPage (s : State) (i : Nat) (p : RailPhase) : (setRail s i p).tornPage = s.tornPage := by
  rw [setRail, setFld_tornPage]
@[simp] theorem setRail_patrolGrp (s : State) (i : Nat) (p : RailPhase) : (setRail s i p).patrolGrp = s.patrolGrp := by
  rw [setRail, setFld_patrolGrp]
@[simp] theorem setRail_patches (s : State) (i : Nat) (p : RailPhase) : (setRail s i p).patches = s.patches := by
  rw [setRail, setFld_patches]
@[simp] theorem setRail_nvmReads (s : State) (i : Nat) (p : RailPhase) : (setRail s i p).nvmReads = s.nvmReads := by
  rw [setRail, setFld_nvmReads]
@[simp] theorem setRail_rings (s : State) (i : Nat) (p : RailPhase) : (setRail s i p).rings = s.rings := by
  rw [setRail, setFld_rings]
@[simp] theorem setRail_rrRing (s : State) (i : Nat) (p : RailPhase) : (setRail s i p).rrRing = s.rrRing := by
  rw [setRail, setFld_rrRing]
@[simp] theorem setRail_keys (s : State) (i : Nat) (p : RailPhase) : (setRail s i p).keys = s.keys := by
  rw [setRail, setFld_keys]
@[simp] theorem setRail_keyPend (s : State) (i : Nat) (p : RailPhase) : (setRail s i p).keyPend = s.keyPend := by
  rw [setRail, setFld_keyPend]
@[simp] theorem setRail_hdm (s : State) (i : Nat) (p : RailPhase) : (setRail s i p).hdm = s.hdm := by
  rw [setRail, setFld_hdm]
@[simp] theorem setRail_linkLost (s : State) (i : Nat) (p : RailPhase) : (setRail s i p).linkLost = s.linkLost := by
  rw [setRail, setFld_linkLost]
@[simp] theorem setRail_leaseRaised (s : State) (i : Nat) (p : RailPhase) : (setRail s i p).leaseRaised = s.leaseRaised := by
  rw [setRail, setFld_leaseRaised]
@[simp] theorem setRail_msix (s : State) (i : Nat) (p : RailPhase) : (setRail s i p).msix = s.msix := by
  rw [setRail, setFld_msix]
@[simp] theorem setRail_cfg (s : State) (i : Nat) (p : RailPhase) : (setRail s i p).cfg = s.cfg := by
  rw [setRail, setFld_cfg]
@[simp] theorem setRail_pba (s : State) (i : Nat) (p : RailPhase) : (setRail s i p).pba = s.pba := by
  rw [setRail, setFld_pba]
@[simp] theorem setRail_cxlPoisonAt (s : State) (i : Nat) (p : RailPhase) : (setRail s i p).cxlPoisonAt = s.cxlPoisonAt := by
  rw [setRail, setFld_cxlPoisonAt]
@[simp] theorem setRail_cxlAperAt (s : State) (i : Nat) (p : RailPhase) : (setRail s i p).cxlAperAt = s.cxlAperAt := by
  rw [setRail, setFld_cxlAperAt]
@[simp] theorem setRail_followUps (s : State) (i : Nat) (p : RailPhase) : (setRail s i p).followUps = s.followUps := by
  rw [setRail, setFld_followUps]
@[simp] theorem setRail_snuff (s : State) (i : Nat) (p : RailPhase) : (setRail s i p).snuff = s.snuff := by
  rw [setRail, setFld_snuff]
@[simp] theorem setRail_inputs (s : State) (i : Nat) (p : RailPhase) : (setRail s i p).inputs = s.inputs := by
  rw [setRail, setFld_inputs]
@[simp] theorem setRail_log (s : State) (i : Nat) (p : RailPhase) : (setRail s i p).log = s.log := by
  rw [setRail, setFld_log]
@[simp] theorem setRail_restartAt (s : State) (i : Nat) (p : RailPhase) : (setRail s i p).restartAt = s.restartAt := by
  rw [setRail, setFld_restartAt]
@[simp] theorem setRail_restarting (s : State) (i : Nat) (p : RailPhase) : (setRail s i p).restarting = s.restarting := by
  rw [setRail, setFld_restarting]
@[simp] theorem setRail_railSeqAt (s : State) (i : Nat) (p : RailPhase) : (setRail s i p).railSeqAt = s.railSeqAt := by
  rw [setRail, setFld_railSeqAt]
@[simp] theorem setRail_railThen (s : State) (i : Nat) (p : RailPhase) : (setRail s i p).railThen = s.railThen := by
  rw [setRail, setFld_railThen]
@[simp] theorem setRail_vrmEn (s : State) (i : Nat) (p : RailPhase) : (setRail s i p).vrmEn = s.vrmEn := by
  rw [setRail, setFld_vrmEn]
@[simp] theorem setRail_cxlRegs (s : State) (i : Nat) (p : RailPhase) : (setRail s i p).cxlRegs = s.cxlRegs := by
  rw [setRail, setFld_cxlRegs]
@[simp] theorem setRail_railFaulted (s : State) (i : Nat) (p : RailPhase) : (setRail s i p).railFaulted = s.railFaulted := by
  rw [setRail, setFld_railFaulted]
@[simp] theorem setRail_railHeld (s : State) (i : Nat) (p : RailPhase) : (setRail s i p).railHeld = s.railHeld := by
  rw [setRail, setFld_railHeld]
@[simp] theorem setRail_vrms (s : State) (i : Nat) (p : RailPhase) : (setRail s i p).vrms = s.vrms := by
  rw [setRail, setFld_vrms]
@[simp] theorem setRail_vrmFailed (s : State) (i : Nat) (p : RailPhase) : (setRail s i p).vrmFailed = s.vrmFailed := by
  rw [setRail, setFld_vrmFailed]
@[simp] theorem setRail_lens (s : State) (i : Nat) (p : RailPhase) : (setRail s i p).lens = s.lens := by
  rw [setRail, setFld_lens]
@[simp] theorem setRail_optPend (s : State) (i : Nat) (p : RailPhase) : (setRail s i p).optPend = s.optPend := by
  rw [setRail, setFld_optPend]
@[simp] theorem setRail_optArmed (s : State) (i : Nat) (p : RailPhase) : (setRail s i p).optArmed = s.optArmed := by
  rw [setRail, setFld_optArmed]
@[simp] theorem setRail_time (s : State) (i : Nat) (p : RailPhase) : (setRail s i p).time = s.time := by
  rw [setRail, setFld_time]
@[simp] theorem setRail_chain (s : State) (i : Nat) (p : RailPhase) : (setRail s i p).chain = s.chain := by
  rw [setRail, setFld_chain]
@[simp] theorem setRail_clk (s : State) (i : Nat) (p : RailPhase) : (setRail s i p).clk = s.clk := by
  rw [setRail, setFld_clk]
@[simp] theorem setRail_wln (s : State) (i : Nat) (p : RailPhase) : (setRail s i p).wln = s.wln := by
  rw [setRail, setFld_wln]
@[simp] theorem setRail_scan (s : State) (i : Nat) (p : RailPhase) : (setRail s i p).scan = s.scan := by
  rw [setRail, setFld_scan]
@[simp] theorem setRail_reel (s : State) (i : Nat) (p : RailPhase) : (setRail s i p).reel = s.reel := by
  rw [setRail, setFld_reel]
@[simp] theorem setRail_rmap (s : State) (i : Nat) (p : RailPhase) : (setRail s i p).rmap = s.rmap := by
  rw [setRail, setFld_rmap]
@[simp] theorem setRail_hle (s : State) (i : Nat) (p : RailPhase) : (setRail s i p).hle = s.hle := by
  rw [setRail, setFld_hle]
@[simp] theorem setRail_blt (s : State) (i : Nat) (p : RailPhase) : (setRail s i p).blt = s.blt := by
  rw [setRail, setFld_blt]
@[simp] theorem setRail_img (s : State) (i : Nat) (p : RailPhase) : (setRail s i p).img = s.img := by
  rw [setRail, setFld_img]
@[simp] theorem setRail_act (s : State) (i : Nat) (p : RailPhase) : (setRail s i p).act = s.act := by
  rw [setRail, setFld_act]
@[simp] theorem setRail_trigger (s : State) (i : Nat) (p : RailPhase) : (setRail s i p).trigger = s.trigger := by
  rw [setRail, setFld_trigger]
@[simp] theorem setRail_startAt (s : State) (i : Nat) (p : RailPhase) : (setRail s i p).startAt = s.startAt := by
  rw [setRail, setFld_startAt]
@[simp] theorem setRail_cand (s : State) (i : Nat) (p : RailPhase) : (setRail s i p).cand = s.cand := by
  rw [setRail, setFld_cand]
@[simp] theorem setRail_orderly (s : State) (i : Nat) (p : RailPhase) : (setRail s i p).orderly = s.orderly := by
  rw [setRail, setFld_orderly]
@[simp] theorem setRail_wantLight (s : State) (i : Nat) (p : RailPhase) : (setRail s i p).wantLight = s.wantLight := by
  rw [setRail, setFld_wantLight]
@[simp] theorem setRail_rowZero (s : State) (i : Nat) (p : RailPhase) : (setRail s i p).rowZero = s.rowZero := by
  rw [setRail, setFld_rowZero]

/-! ### setHold -/

@[simp] theorem setHold_held (s : State) (p v : Nat) : (setHold s p v).held = s.held := by
  rw [setHold, fixLow, setFld_held, setFld_held]
@[simp] theorem setHold_ns (s : State) (p v : Nat) : (setHold s p v).ns = s.ns := by
  rw [setHold, fixLow, setFld_ns, setFld_ns]
@[simp] theorem setHold_flr (s : State) (p v : Nat) : (setHold s p v).flr = s.flr := by
  rw [setHold, fixLow, setFld_flr, setFld_flr]
@[simp] theorem setHold_free (s : State) (p v : Nat) : (setHold s p v).free = s.free := by
  rw [setHold, fixLow, setFld_free, setFld_free]
@[simp] theorem setHold_out (s : State) (p v : Nat) : (setHold s p v).out = s.out := by
  rw [setHold, fixLow, setFld_out, setFld_out]
@[simp] theorem setHold_pending (s : State) (p v : Nat) : (setHold s p v).pending = s.pending := by
  rw [setHold, fixLow, setFld_pending, setFld_pending]
@[simp] theorem setHold_mem (s : State) (p v : Nat) : (setHold s p v).mem = s.mem := by
  rw [setHold, fixLow, setFld_mem, setFld_mem]
@[simp] theorem setHold_poison (s : State) (p v : Nat) : (setHold s p v).poison = s.poison := by
  rw [setHold, fixLow, setFld_poison, setFld_poison]
@[simp] theorem setHold_dram (s : State) (p v : Nat) : (setHold s p v).dram = s.dram := by
  rw [setHold, fixLow, setFld_dram, setFld_dram]
@[simp] theorem setHold_nvm (s : State) (p v : Nat) : (setHold s p v).nvm = s.nvm := by
  rw [setHold, fixLow, setFld_nvm, setFld_nvm]
@[simp] theorem setHold_nvmBad (s : State) (p v : Nat) : (setHold s p v).nvmBad = s.nvmBad := by
  rw [setHold, fixLow, setFld_nvmBad, setFld_nvmBad]
@[simp] theorem setHold_nvmRun (s : State) (p v : Nat) : (setHold s p v).nvmRun = s.nvmRun := by
  rw [setHold, fixLow, setFld_nvmRun, setFld_nvmRun]
@[simp] theorem setHold_nvmQueue (s : State) (p v : Nat) : (setHold s p v).nvmQueue = s.nvmQueue := by
  rw [setHold, fixLow, setFld_nvmQueue, setFld_nvmQueue]
@[simp] theorem setHold_lensRun (s : State) (p v : Nat) : (setHold s p v).lensRun = s.lensRun := by
  rw [setHold, fixLow, setFld_lensRun, setFld_lensRun]
@[simp] theorem setHold_lensRewrite (s : State) (p v : Nat) : (setHold s p v).lensRewrite = s.lensRewrite := by
  rw [setHold, fixLow, setFld_lensRewrite, setFld_lensRewrite]
@[simp] theorem setHold_nvmCeAt (s : State) (p v : Nat) : (setHold s p v).nvmCeAt = s.nvmCeAt := by
  rw [setHold, fixLow, setFld_nvmCeAt, setFld_nvmCeAt]
@[simp] theorem setHold_tornPage (s : State) (p v : Nat) : (setHold s p v).tornPage = s.tornPage := by
  rw [setHold, fixLow, setFld_tornPage, setFld_tornPage]
@[simp] theorem setHold_patrolGrp (s : State) (p v : Nat) : (setHold s p v).patrolGrp = s.patrolGrp := by
  rw [setHold, fixLow, setFld_patrolGrp, setFld_patrolGrp]
@[simp] theorem setHold_patches (s : State) (p v : Nat) : (setHold s p v).patches = s.patches := by
  rw [setHold, fixLow, setFld_patches, setFld_patches]
@[simp] theorem setHold_nvmReads (s : State) (p v : Nat) : (setHold s p v).nvmReads = s.nvmReads := by
  rw [setHold, fixLow, setFld_nvmReads, setFld_nvmReads]
@[simp] theorem setHold_rings (s : State) (p v : Nat) : (setHold s p v).rings = s.rings := by
  rw [setHold, fixLow, setFld_rings, setFld_rings]
@[simp] theorem setHold_rrRing (s : State) (p v : Nat) : (setHold s p v).rrRing = s.rrRing := by
  rw [setHold, fixLow, setFld_rrRing, setFld_rrRing]
@[simp] theorem setHold_keys (s : State) (p v : Nat) : (setHold s p v).keys = s.keys := by
  rw [setHold, fixLow, setFld_keys, setFld_keys]
@[simp] theorem setHold_keyPend (s : State) (p v : Nat) : (setHold s p v).keyPend = s.keyPend := by
  rw [setHold, fixLow, setFld_keyPend, setFld_keyPend]
@[simp] theorem setHold_hdm (s : State) (p v : Nat) : (setHold s p v).hdm = s.hdm := by
  rw [setHold, fixLow, setFld_hdm, setFld_hdm]
@[simp] theorem setHold_linkLost (s : State) (p v : Nat) : (setHold s p v).linkLost = s.linkLost := by
  rw [setHold, fixLow, setFld_linkLost, setFld_linkLost]
@[simp] theorem setHold_leaseRaised (s : State) (p v : Nat) : (setHold s p v).leaseRaised = s.leaseRaised := by
  rw [setHold, fixLow, setFld_leaseRaised, setFld_leaseRaised]
@[simp] theorem setHold_msix (s : State) (p v : Nat) : (setHold s p v).msix = s.msix := by
  rw [setHold, fixLow, setFld_msix, setFld_msix]
@[simp] theorem setHold_cfg (s : State) (p v : Nat) : (setHold s p v).cfg = s.cfg := by
  rw [setHold, fixLow, setFld_cfg, setFld_cfg]
@[simp] theorem setHold_pba (s : State) (p v : Nat) : (setHold s p v).pba = s.pba := by
  rw [setHold, fixLow, setFld_pba, setFld_pba]
@[simp] theorem setHold_cxlPoisonAt (s : State) (p v : Nat) : (setHold s p v).cxlPoisonAt = s.cxlPoisonAt := by
  rw [setHold, fixLow, setFld_cxlPoisonAt, setFld_cxlPoisonAt]
@[simp] theorem setHold_cxlAperAt (s : State) (p v : Nat) : (setHold s p v).cxlAperAt = s.cxlAperAt := by
  rw [setHold, fixLow, setFld_cxlAperAt, setFld_cxlAperAt]
@[simp] theorem setHold_followUps (s : State) (p v : Nat) : (setHold s p v).followUps = s.followUps := by
  rw [setHold, fixLow, setFld_followUps, setFld_followUps]
@[simp] theorem setHold_snuff (s : State) (p v : Nat) : (setHold s p v).snuff = s.snuff := by
  rw [setHold, fixLow, setFld_snuff, setFld_snuff]
@[simp] theorem setHold_inputs (s : State) (p v : Nat) : (setHold s p v).inputs = s.inputs := by
  rw [setHold, fixLow, setFld_inputs, setFld_inputs]
@[simp] theorem setHold_log (s : State) (p v : Nat) : (setHold s p v).log = s.log := by
  rw [setHold, fixLow, setFld_log, setFld_log]
@[simp] theorem setHold_restartAt (s : State) (p v : Nat) : (setHold s p v).restartAt = s.restartAt := by
  rw [setHold, fixLow, setFld_restartAt, setFld_restartAt]
@[simp] theorem setHold_restarting (s : State) (p v : Nat) : (setHold s p v).restarting = s.restarting := by
  rw [setHold, fixLow, setFld_restarting, setFld_restarting]
@[simp] theorem setHold_rails (s : State) (p v : Nat) : (setHold s p v).rails = s.rails := by
  rw [setHold, fixLow, setFld_rails, setFld_rails]
@[simp] theorem setHold_railSeqAt (s : State) (p v : Nat) : (setHold s p v).railSeqAt = s.railSeqAt := by
  rw [setHold, fixLow, setFld_railSeqAt, setFld_railSeqAt]
@[simp] theorem setHold_railThen (s : State) (p v : Nat) : (setHold s p v).railThen = s.railThen := by
  rw [setHold, fixLow, setFld_railThen, setFld_railThen]
@[simp] theorem setHold_vrmEn (s : State) (p v : Nat) : (setHold s p v).vrmEn = s.vrmEn := by
  rw [setHold, fixLow, setFld_vrmEn, setFld_vrmEn]
@[simp] theorem setHold_cxlRegs (s : State) (p v : Nat) : (setHold s p v).cxlRegs = s.cxlRegs := by
  rw [setHold, fixLow, setFld_cxlRegs, setFld_cxlRegs]
@[simp] theorem setHold_railFaulted (s : State) (p v : Nat) : (setHold s p v).railFaulted = s.railFaulted := by
  rw [setHold, fixLow, setFld_railFaulted, setFld_railFaulted]
@[simp] theorem setHold_railHeld (s : State) (p v : Nat) : (setHold s p v).railHeld = s.railHeld := by
  rw [setHold, fixLow, setFld_railHeld, setFld_railHeld]
@[simp] theorem setHold_vrms (s : State) (p v : Nat) : (setHold s p v).vrms = s.vrms := by
  rw [setHold, fixLow, setFld_vrms, setFld_vrms]
@[simp] theorem setHold_vrmFailed (s : State) (p v : Nat) : (setHold s p v).vrmFailed = s.vrmFailed := by
  rw [setHold, fixLow, setFld_vrmFailed, setFld_vrmFailed]
@[simp] theorem setHold_lens (s : State) (p v : Nat) : (setHold s p v).lens = s.lens := by
  rw [setHold, fixLow, setFld_lens, setFld_lens]
@[simp] theorem setHold_optPend (s : State) (p v : Nat) : (setHold s p v).optPend = s.optPend := by
  rw [setHold, fixLow, setFld_optPend, setFld_optPend]
@[simp] theorem setHold_optArmed (s : State) (p v : Nat) : (setHold s p v).optArmed = s.optArmed := by
  rw [setHold, fixLow, setFld_optArmed, setFld_optArmed]
@[simp] theorem setHold_time (s : State) (p v : Nat) : (setHold s p v).time = s.time := by
  rw [setHold, fixLow, setFld_time, setFld_time]
@[simp] theorem setHold_chain (s : State) (p v : Nat) : (setHold s p v).chain = s.chain := by
  rw [setHold, fixLow, setFld_chain, setFld_chain]
@[simp] theorem setHold_clk (s : State) (p v : Nat) : (setHold s p v).clk = s.clk := by
  rw [setHold, fixLow, setFld_clk, setFld_clk]
@[simp] theorem setHold_wln (s : State) (p v : Nat) : (setHold s p v).wln = s.wln := by
  rw [setHold, fixLow, setFld_wln, setFld_wln]
@[simp] theorem setHold_scan (s : State) (p v : Nat) : (setHold s p v).scan = s.scan := by
  rw [setHold, fixLow, setFld_scan, setFld_scan]
@[simp] theorem setHold_reel (s : State) (p v : Nat) : (setHold s p v).reel = s.reel := by
  rw [setHold, fixLow, setFld_reel, setFld_reel]
@[simp] theorem setHold_rmap (s : State) (p v : Nat) : (setHold s p v).rmap = s.rmap := by
  rw [setHold, fixLow, setFld_rmap, setFld_rmap]
@[simp] theorem setHold_hle (s : State) (p v : Nat) : (setHold s p v).hle = s.hle := by
  rw [setHold, fixLow, setFld_hle, setFld_hle]
@[simp] theorem setHold_blt (s : State) (p v : Nat) : (setHold s p v).blt = s.blt := by
  rw [setHold, fixLow, setFld_blt, setFld_blt]
@[simp] theorem setHold_img (s : State) (p v : Nat) : (setHold s p v).img = s.img := by
  rw [setHold, fixLow, setFld_img, setFld_img]
@[simp] theorem setHold_act (s : State) (p v : Nat) : (setHold s p v).act = s.act := by
  rw [setHold, fixLow, setFld_act, setFld_act]
@[simp] theorem setHold_trigger (s : State) (p v : Nat) : (setHold s p v).trigger = s.trigger := by
  rw [setHold, fixLow, setFld_trigger, setFld_trigger]
@[simp] theorem setHold_startAt (s : State) (p v : Nat) : (setHold s p v).startAt = s.startAt := by
  rw [setHold, fixLow, setFld_startAt, setFld_startAt]
@[simp] theorem setHold_cand (s : State) (p v : Nat) : (setHold s p v).cand = s.cand := by
  rw [setHold, fixLow, setFld_cand, setFld_cand]
@[simp] theorem setHold_orderly (s : State) (p v : Nat) : (setHold s p v).orderly = s.orderly := by
  rw [setHold, fixLow, setFld_orderly, setFld_orderly]
@[simp] theorem setHold_wantLight (s : State) (p v : Nat) : (setHold s p v).wantLight = s.wantLight := by
  rw [setHold, fixLow, setFld_wantLight, setFld_wantLight]
@[simp] theorem setHold_rowZero (s : State) (p v : Nat) : (setHold s p v).rowZero = s.rowZero := by
  rw [setHold, fixLow, setFld_rowZero, setFld_rowZero]

@[simp] theorem emit_out (s : State) (e : Emission) : (emit s e).out = s.out ++ [e] := rfl
@[simp] theorem fresh_out (s : State) : (fresh s).out = [] := rfl
@[simp] theorem drew_free (s : State) : (drew s).free = s.free + 1 := rfl
@[simp] theorem setRing_rings (s : State) (r : Nat) (x : Ring) :
    (setRing s r x).rings = tblSet {} s.rings r x := rfl
@[simp] theorem setRail_rails (s : State) (i : Nat) (p : RailPhase) :
    (setRail s i p).rails = tblSet .off s.rails i p := by
  rw [setRail, setFld_rails]
@[simp] theorem setReg_regs (s : State) (o : Nat) (v : DWord) :
    (setReg s o v).regs = tblSet (resetOf o) s.regs o v := rfl

end Sys2Proof.Machine
end

