-- ==== Sys2Proof/Laws/Regs.lean ====
section
/-! SUPPORT. The laws of the register file: a register or a field reads as it was written, and a write
leaves every other register, and every field that shares no bit with the one written, alone. -/

namespace Sys2Proof.Machine

theorem reg_setReg (s : State) (o k : Nat) (v : DWord) : reg (setReg s o v) k = if k = o then v else reg s k := by
  simp only [reg, setReg]
  by_cases h : k = o
  · subst h; simp
  · simp only [if_neg h]
    have : ∀ (d e : DWord) (t : Tbl DWord), tblGet d (tblSet e t o v) k = tblGet d t k := by
      intro d e t
      unfold tblSet
      split
      · rw [tblGet_erase, if_neg h]
      · rw [tblGet_put, if_neg h]
    exact this _ _ _

@[simp] theorem reg_setReg_same (s : State) (o : Nat) (v : DWord) : reg (setReg s o v) o = v := by simp [reg_setReg]

theorem reg_setReg_ne (s : State) {o k : Nat} (v : DWord) (h : k ≠ o) : reg (setReg s o v) k = reg s k := by
  simp [reg_setReg, h]

theorem reg_setFld_ne (s : State) {f : Fld} {k : Nat} (v : Nat) (h : k ≠ f.off) : reg (setFld s f v) k = reg s k :=
  reg_setReg_ne s _ h

/-- A field fits its register. -/
def Fld.ok (f : Fld) : Prop := f.lo ≤ f.hi ∧ f.hi < 64

theorem toNat_setFld (s : State) (f : Fld) (v : Nat) (h : f.ok) :
    (reg (setFld s f v) f.off).toNat = putBits (reg s f.off).toNat f.lo (f.hi - f.lo + 1) v := by
  have h1 := h.1
  have h2 := h.2
  rw [setFld, reg_setReg_same, BitVec.toNat_ofNat]
  exact Nat.mod_eq_of_lt (putBits_lt _ _ _ (BitVec.isLt _) (by omega))

/-- A field reads as it was written, cut to its width. -/
theorem fld_setFld_same (s : State) (f : Fld) (v : Nat) (h : f.ok) :
    fld (setFld s f v) f = v % 2 ^ (f.hi - f.lo + 1) := by
  rw [fld, toNat_setFld s f v h, bitsOf_put_same]

/-- A field that shares no bit with the one written reads as before. -/
theorem fld_setFld_ne (s : State) (f g : Fld) (v : Nat) (hf : f.ok) (hg : g.lo ≤ g.hi)
    (h : g.off ≠ f.off ∨ g.hi < f.lo ∨ f.hi < g.lo) : fld (setFld s f v) g = fld s g := by
  by_cases ho : g.off = f.off
  · have h1 := hf.1
    rw [fld, fld, ho, toNat_setFld s f v hf, bitsOf_put_disjoint]
    rcases h with h | h | h
    · exact absurd ho h
    · right; omega
    · left; omega
  · rw [fld, fld, reg_setFld_ne s v ho]

theorem fld_setReg_ne (s : State) (o : Nat) (v : DWord) {g : Fld} (h : g.off ≠ o) : fld (setReg s o v) g = fld s g := by
  rw [fld, fld, reg_setReg_ne s v h]

theorem fld_lt (s : State) (f : Fld) : fld s f < 2 ^ (f.hi - f.lo + 1) := bitsOf_lt _ _ _

/-- Two states with the same register file read the same. -/
theorem reg_congr {s t : State} (h : t.regs = s.regs) (o : Nat) : reg t o = reg s o := by simp only [reg, h]
theorem fld_congr {s t : State} (h : t.regs = s.regs) (f : Fld) : fld t f = fld s f := by simp only [fld, reg, h]
theorem fld_congr_reg {s t : State} {f : Fld} (h : reg t f.off = reg s f.off) : fld t f = fld s f := by simp only [fld, h]
theorem flag_congr {s t : State} (h : t.regs = s.regs) (f : Fld) : flag t f = flag s f := by simp only [flag, fld_congr h]

@[simp] theorem reg_emit (s : State) (e : Emission) (o : Nat) : reg (emit s e) o = reg s o := rfl
@[simp] theorem fld_emit (s : State) (e : Emission) (f : Fld) : fld (emit s e) f = fld s f := rfl
@[simp] theorem reg_fresh (s : State) (o : Nat) : reg (fresh s) o = reg s o := rfl
@[simp] theorem fld_fresh (s : State) (f : Fld) : fld (fresh s) f = fld s f := rfl
@[simp] theorem flag_fresh (s : State) (f : Fld) : flag (fresh s) f = flag s f := rfl
@[simp] theorem lamp_fresh (s : State) : lamp (fresh s) = lamp s := rfl

/-- The lamplighter's state is the field's alone. -/
theorem lamp_congr {s t : State} (h : fld t Reg.GEN_STATE_STATE = fld s Reg.GEN_STATE_STATE) : lamp t = lamp s := by
  simp only [lamp, h]

/-- The lamplighter's state reads as it was written. -/
@[simp] theorem lamp_setLamp (s : State) (l : Lamp) : lamp (setLamp s l) = l := by
  have h : fld (setLamp s l) Reg.GEN_STATE_STATE = l.code % 8 :=
    fld_setFld_same s Reg.GEN_STATE_STATE l.code ⟨by decide, by decide⟩
  rw [lamp, h]
  cases l <;> rfl

/-! ### Saturating counts and peaks -/

theorem fld_incSat (s : State) (f : Fld) (k : Nat) (h : f.ok) :
    fld (incSat s f k) f = min (fld s f + k) (2 ^ (f.hi - f.lo + 1) - 1) := by
  rw [incSat, fld_setFld_same s f _ h, satAdd]
  have := Nat.two_pow_pos (f.hi - f.lo + 1)
  exact Nat.mod_eq_of_lt (by omega)

theorem fld_setPeak (s : State) (f : Fld) (v : Nat) (h : f.ok) :
    fld (setPeak s f v) f = max (fld s f) (min v (2 ^ (f.hi - f.lo + 1) - 1)) := by
  rw [setPeak, fld_setFld_same s f _ h]
  have := Nat.two_pow_pos (f.hi - f.lo + 1)
  have := fld_lt s f
  exact Nat.mod_eq_of_lt (by omega)

theorem fld_setSat (s : State) (f : Fld) (v : Nat) (h : f.ok) :
    fld (setSat s f v) f = min v (2 ^ (f.hi - f.lo + 1) - 1) := by
  rw [setSat, fld_setFld_same s f _ h]
  have := Nat.two_pow_pos (f.hi - f.lo + 1)
  exact Nat.mod_eq_of_lt (by omega)

/-! ### `forAll` -/

@[simp] theorem forAll_nil (g : Nat → State → State) (s : State) : forAll [] g s = s := rfl
@[simp] theorem forAll_cons (n : Nat) (ns : List Nat) (g : Nat → State → State) (s : State) :
    forAll (n :: ns) g s = forAll ns g (g n s) := rfl

/-- What every application keeps, all of them together keep. -/
theorem forAll_keeps (P : State → Prop) (ns : List Nat) (g : Nat → State → State)
    (hg : ∀ n ∈ ns, ∀ s, P s → P (g n s)) (s : State) (h : P s) : P (forAll ns g s) := by
  induction ns generalizing s with
  | nil => exact h
  | cons n ns ih => exact ih (fun m hm => hg m (List.mem_cons_of_mem n hm)) _ (hg n (by simp) s h)

/-- A value that no application changes. -/
theorem forAll_same {β : Type} (v : State → β) (ns : List Nat) (g : Nat → State → State)
    (hg : ∀ n ∈ ns, ∀ s, v (g n s) = v s) (s : State) : v (forAll ns g s) = v s :=
  forAll_keeps (fun t => v t = v s) ns g (fun n hn t ht => (hg n hn t).trans ht) s rfl

end Sys2Proof.Machine
end

