-- ==== Sys2Proof/Laws/Frame.lean ====
section
/-! SUPPORT. Frames compose: what each shared operation of Machine/Ops.lean may change, said once. -/

namespace Sys2Proof

open Machine

theorem Part.same_refl (s : State) (p : Part) : Part.same s s p := by
  cases p <;> simp [Part.same]

theorem Part.same_trans {s t u : State} {p : Part} (h : Part.same s t p) (k : Part.same t u p) : Part.same s u p := by
  cases p <;> simp_all [Part.same]

theorem Frame.refl (ps : List Part) (s : State) : Frame ps s s := fun p _ => Part.same_refl s p

theorem Frame.trans {ps : List Part} {s t u : State} (h : Frame ps s t) (k : Frame ps t u) : Frame ps s u :=
  fun p hp => Part.same_trans (h p hp) (k p hp)

theorem Frame.mono {ps qs : List Part} {s t : State} (h : Frame ps s t) (hs : ps ⊆ qs) : Frame qs s t :=
  fun p hp => h p fun hm => hp (hs hm)

theorem Frame.comp {ps qs rs : List Part} {s t u : State} (h : Frame ps s t) (k : Frame qs t u) (hp : ps ⊆ rs)
    (hq : qs ⊆ rs) : Frame rs s u := (h.mono hp).trans (k.mono hq)

/-- A frame bounds a command whichever way the lamplighter goes. -/
theorem Within.of_frame {ps : List Part} {s t : State} (h : Frame ps s t) : Within ps s t := by
  unfold Within
  split
  · exact h.mono (List.subset_append_left _ _)
  · exact h

theorem Within.mono {ps qs : List Part} {s t : State} (h : Within ps s t) (hs : ps ⊆ qs) : Within qs s t := by
  unfold Within at *
  split
  · rename_i hd
    rw [if_pos hd] at h
    exact h.mono (List.append_subset.2 ⟨fun p hp => List.mem_append_left _ (hs hp), List.subset_append_right _ _⟩)
  · rename_i hd
    rw [if_neg hd] at h
    exact h.mono hs

/-- Bounds compose while nothing leaves DARK_FAULT. -/
theorem Within.trans {ps : List Part} {s t u : State} (h : Within ps s t) (k : Within ps t u)
    (hs : lamp s = .darkFault → lamp t = .darkFault) (ht : lamp t = .darkFault → lamp u = .darkFault) :
    Within ps s u := by
  have hp : ps ⊆ ps ++ darkParts := List.subset_append_left _ _
  unfold Within at *
  by_cases hd : lamp s ≠ .darkFault ∧ lamp u = .darkFault
  · rw [if_pos hd]
    split at h <;> split at k
    · exact h.trans k
    · exact h.trans (k.mono hp)
    · exact (h.mono hp).trans k
    · exact (h.mono hp).trans (k.mono hp)
  · rw [if_neg hd]
    rw [if_neg fun c => hd ⟨c.1, ht c.2⟩] at h
    rw [if_neg fun c => hd ⟨fun e => c.1 (hs e), c.2⟩] at k
    exact h.trans k

/-- A frame from a frame over a list of applications. -/
theorem Frame.forAll {ps : List Part} (ns : List Nat) (g : Nat → State → State)
    (hg : ∀ n ∈ ns, ∀ s, Frame ps s (g n s)) (s : State) : Frame ps s (forAll ns g s) :=
  forAll_keeps (Frame ps s) ns g (fun n hn t ht => ht.trans (hg n hn t)) s (Frame.refl ps s)

theorem frame_setReg (s : State) (o : Nat) (v : DWord) (h : o ≠ Reg.GEN_STATE) :
    Frame [.regs (blockOf o)] s (setReg s o v) := by
  intro p hp
  cases p with
  | regs b =>
    intro k hk _
    exact reg_setReg_ne s v fun h => hp (by simp [← hk, h])
  | lamp => exact reg_setReg_ne s v (Ne.symm h)
  | _ => simp [Part.same]

theorem frame_setFld (s : State) (f : Fld) (v : Nat) (h : f.off ≠ Reg.GEN_STATE) :
    Frame [.regs (blockOf f.off)] s (setFld s f v) := frame_setReg s f.off _ h

theorem frame_setLamp (s : State) (l : Lamp) : Frame [.lamp] s (setLamp s l) := by
  intro p hp
  cases p with
  | regs b => intro k _ hk; exact reg_setFld_ne s _ hk
  | lamp => exact absurd (by simp) hp
  | _ => simp [Part.same]

theorem frame_emit (s : State) (e : Emission) : Frame [] s (emit s e) := fun p _ => by
  cases p <;> simp [Part.same]

theorem frame_fresh (s : State) : Frame [] s (fresh s) := fun p _ => by
  cases p <;> simp [Part.same]

theorem frame_drew (s : State) : Frame [.draws] s (drew s) := fun p hp => by
  cases p with
  | draws => exact absurd (by simp) hp
  | regs b => intro k _ _; rfl
  | lamp => rfl
  | _ => simp [Part.same]

theorem frame_setRing (s : State) (r : Nat) (x : Ring) : Frame [.rings] s (setRing s r x) := fun p hp => by
  cases p with
  | rings => exact absurd (by simp) hp
  | regs b => intro k _ _; rfl
  | lamp => rfl
  | _ => simp [Part.same]

end Sys2Proof
end

