-- ==== Sys2Proof/Machine/Line.lean ====
section
/-! DEFINITION. Line coding of wick, return and chain lanes (R234 to R238, R457): the blocks of a row, how a
block stands on the line, the scrambler and what an inverted pair delivers. Receivers stand in Machine/Receive.lean. Emissions and the
commands of lanes carry blocks before scrambling; the bits between them are time's (log 22). -/

namespace Sys2Proof.Machine

/-- A block before scrambling: control or data, and its 64-bit payload. -/
structure Block where
  ctl : Bool
  payload : Nat
deriving DecidableEq, Repr

/-- Payload of data block `b` of a row: codes 6b to 6b + 5, and SEQ = b mod 16 (R237). -/
def dataPayload (codes : List Nat) (b : Nat) : Nat :=
  ((List.range 6).map fun j => codes.getD (6 * b + j) 0 % 1024 * 2 ^ (10 * j)).sum + b % 16 * 2 ^ 60

/-- ROW_END (Table 8-2). -/
def rowEndBlock (row crc : Nat) : Nat := 0x11 + crc % 2 ^ 24 * 2 ^ 8 + row % 2 ^ 16 * 2 ^ 32

/-- The blocks of a row: ROW_START, its data blocks, ROW_END (R237, R238). -/
def rowAsBlocks (start : Nat) (codes : List Nat) (row : Nat) : List Block :=
  ⟨true, start⟩ :: (List.range (codes.length / 6)).map (fun b => ⟨false, dataPayload codes b⟩) ++
    [⟨true, rowEndBlock row (rowCrc start codes)⟩]

/-- Payload bits in line order: bit 0 first (R234). -/
def payloadBits (v : Nat) : List Bool := (List.range 64).map (bitOf v)

/-- Payload of bits in line order. -/
def bitsPayload : List Bool → Nat
  | [] => 0
  | b :: t => b2n b + 2 * bitsPayload t

/-- The last 58 scrambled bits of a lane, newest first. -/
abbrev Scrambler := List Bool

/-- Bit sent or received `k` payload bits earlier. -/
def Scrambler.back (t : Scrambler) (k : Nat) : Bool := t.getD (k - 1) false

/-- A lane's scrambler starts anywhere (R235, log 6). -/
def Scrambler.start (lane : Nat) : Scrambler := (List.range 58).map fun k => Config.freeBool (58 * lane + k)

/-- Transmit (R235): the state after, and the bits sent. -/
def scramble : Scrambler → List Bool → Scrambler × List Bool
  | t, [] => (t, [])
  | t, d :: ds =>
    let x := xor d (xor (t.back 39) (t.back 58))
    let r := scramble ((x :: t).take 58) ds
    (r.1, x :: r.2)

/-- Receive (R235): the state after, and the payload bits. -/
def descramble : Scrambler → List Bool → Scrambler × List Bool
  | t, [] => (t, [])
  | t, x :: xs =>
    let r := descramble ((x :: t).take 58) xs
    (r.1, xor x (xor (t.back 39) (t.back 58)) :: r.2)

/-- The sync header as sent: 0b01 for data and 0b10 for control, the high bit first (R234). -/
def headerBits (ctl : Bool) : List Bool := if ctl then [true, false] else [false, true]

/-- A block on the line: the header as written, then the scrambled payload (R234, R235). -/
def blockLine (t : Scrambler) (b : Block) : Scrambler × List Bool :=
  let r := scramble t (payloadBits b.payload)
  (r.1, headerBits b.ctl ++ r.2)

/-- A header is valid when its bits differ (R234). -/
def headerValid : List Bool → Bool
  | a :: b :: _ => xor a b
  | _ => false

/-- A block received: its header says control or data, its payload is descrambled. -/
def blockRead (t : Scrambler) (line : List Bool) : Scrambler × Block :=
  let r := descramble t (line.drop 2)
  (r.1, ⟨line.getD 0 false, bitsPayload r.2⟩)

/-- An inverted pair (R236). -/
def inverted (line : List Bool) : List Bool := line.map not

/-- What a receiver in lock reads of a block whose pair is inverted (R236). -/
def Block.inverted (b : Block) : Block := ⟨!b.ctl, 2 ^ 64 - 1 - b.payload⟩

end Sys2Proof.Machine
end

