-- ==== Sys2Proof/Laws/Line.lean ====
section
/-! SUPPORT. The scrambler of R235 and its receiver: from equal states the receiver gives back what was sent, and
after 58 bits its state no longer depends on where it started. -/

namespace Sys2Proof.Machine

/-- A receiver that begins in the transmitter's state gives back every bit and ends in its state. -/
theorem descramble_scramble (t : Scrambler) (ds : List Bool) :
    descramble t (scramble t ds).2 = ((scramble t ds).1, ds) := by
  induction ds generalizing t with
  | nil => rfl
  | cons d ds ih => simp only [scramble, descramble, ih]; simp

/-- The receiver's state holds the last 58 bits received. -/
theorem descramble_state (t : Scrambler) (xs : List Bool) (h : t.length ≤ 58) :
    (descramble t xs).1 = (xs.reverse ++ t).take 58 := by
  induction xs generalizing t with
  | nil => simpa [descramble] using (List.take_of_length_le h).symm
  | cons x xs ih =>
    simp only [descramble]
    rw [ih _ (by simp), List.take_append, List.take_take, Nat.min_eq_left (Nat.sub_le _ _), ← List.take_append]
    simp

/-- Receivers that began apart agree once 58 payload bits have gone by (R235). -/
theorem descramble_settles (t u : Scrambler) (xs : List Bool) (ht : t.length ≤ 58) (hu : u.length ≤ 58)
    (h : 58 ≤ xs.length) : (descramble t xs).1 = (descramble u xs).1 := by
  rw [descramble_state t xs ht, descramble_state u xs hu, List.take_append_of_le_length (by simpa using h),
    List.take_append_of_le_length (by simpa using h)]

/-- The worked example after R238: data block 5 of a row of W77. -/
theorem dataPayload_w77 : dataPayload (List.replicate 30 0 ++ [0x3FF, 0x000, 0x155, 0x2AA, 0x001, 0x200]) 5 =
    0x580001AA955003FF := by decide

/-- An inverted TRAIN block shows a low byte of 0xAF and an inverted IDLE block all ones (R236). -/
theorem inverted_train : (Block.inverted ⟨true, 0x50⟩).payload % 256 = 0xAF ∧
    Block.inverted ⟨true, 0⟩ = ⟨false, 2 ^ 64 - 1⟩ := by decide

end Sys2Proof.Machine
end

