-- ==== Sys2Proof/Laws/Ops.lean ====
section
/-! SUPPORT. What the shared operations of Machine/Ops.lean may change: messages, events, the lamp log's counts,
the snuffer, the store's writes, the rails, DARK_FAULT, errors and completions, each said once. -/

namespace Sys2Proof

open Machine

/-! ### Blocks of the offsets the shared operations write -/

theorem blockOf_mgmt {o : Nat} (h : 0x3E0000 ≤ o) (k : o < 0x400000) : blockOf o = 0x14 := by
  unfold blockOf
  iterate 21 rw [if_neg (by omega)]
  rw [if_pos k]

theorem blockOf_cmd {o : Nat} (h : 0x10000 ≤ o) (k : o < 0x20000) : blockOf o = 0x02 := by
  unfold blockOf
  rw [if_neg (by omega), if_pos k]

theorem blockOf_host {o : Nat} (k : o < 0x10000) : blockOf o = 0x01 := by
  unfold blockOf
  rw [if_pos k]

theorem blockOf_scan {o : Nat} (h : 0x300000 ≤ o) (k : o < 0x340000) : blockOf o = 0x0C := by
  unfold blockOf
  iterate 13 rw [if_neg (by omega)]
  rw [if_pos k]

/-- A write of a register of block `b` changes no other kind of state. -/
theorem frame_reg {b o : Nat} (s : State) (v : DWord) (h : blockOf o = b) (g : o ≠ Reg.GEN_STATE) :
    Frame [.regs b] s (setReg s o v) := h ▸ frame_setReg s o v g

theorem frame_fld {b : Nat} (s : State) (f : Fld) (v : Nat) (h : blockOf f.off = b) (g : f.off ≠ Reg.GEN_STATE) :
    Frame [.regs b] s (setFld s f v) := frame_reg s _ h g

/-! ### Messages and events (R403, R436, R437, R540) -/

theorem frame_sendMsix (v : Nat) (s : State) : Frame [.messages] s (sendMsix v s) := by
  unfold sendMsix
  split
  · exact Frame.refl _ _
  · split
    · intro p hp
      cases p with
      | messages => exact absurd (by simp) hp
      | regs b => intro k _ _; rfl
      | lamp => rfl
      | _ => simp [Part.same]
    · exact (frame_emit s _).mono (by simp)

theorem frame_vecOccur (v : Nat) (s : State) : Frame [.messages, .regs 0x01] s (vecOccur v s) := by
  unfold vecOccur
  simp only
  split
  · exact (frame_reg s _ (blockOf_host (by decide)) (by decide)).mono (by simp)
  · exact (frame_reg s _ (blockOf_host (by decide)) (by decide)).comp (frame_sendMsix v _) (by simp) (by simp)

theorem frame_storeFirst (src data : Nat) (forced : Bool) (s : State) (h : src < 256) :
    Frame [.regs 0x14] s (storeFirst src data forced s) := by
  have hb : ∀ o, 0x3E1000 ≤ o → o < 0x400000 → blockOf o = 0x14 := fun o h k => blockOf_mgmt (by omega) k
  unfold storeFirst
  refine Frame.trans (Frame.trans (Frame.trans (frame_reg s _ (hb _ ?_ ?_) ?_) (Frame.forAll _ _ ?_ _))
    (frame_fld _ _ _ (hb _ ?_ ?_) ?_)) (frame_fld _ _ _ (hb _ ?_ ?_) ?_)
  · show _ ≤ 0x3E1008 + 0x40 * src; omega
  · show 0x3E1008 + 0x40 * src < _; omega
  · show 0x3E1008 + 0x40 * src ≠ 0x18; omega
  · intro i hi t
    have : i < 4 := by simp at hi; omega
    refine frame_reg t _ (hb _ ?_ ?_) ?_
    · show _ ≤ 0x3E1010 + 0x40 * src + 8 * i; omega
    · show 0x3E1010 + 0x40 * src + 8 * i < _; omega
    · show 0x3E1010 + 0x40 * src + 8 * i ≠ 0x18; omega
  all_goals first
    | (show _ ≤ 0x3E1000 + 0x40 * src; omega)
    | (show 0x3E1000 + 0x40 * src < _; omega)
    | (show 0x3E1000 + 0x40 * src ≠ 0x18; omega)

theorem frame_recordEvent (src data : Nat) (forced : Bool) (s : State) (h : src < 256) :
    Frame eventParts s (recordEvent src data forced s) := by
  have hp : blockOf (emberFld src).off = 0x14 :=
    blockOf_mgmt (by show _ ≤ 0x3E0100 + 8 * (src / 64); omega) (by show 0x3E0100 + 8 * (src / 64) < _; omega)
  have hg : (emberFld src).off ≠ Reg.GEN_STATE := by show 0x3E0100 + 8 * (src / 64) ≠ 0x18; omega
  have hc : blockOf (0x3E1000 + 0x40 * src) = 0x14 := blockOf_mgmt (by omega) (by omega)
  have hk : 0x3E1000 + 0x40 * src ≠ Reg.GEN_STATE := by show _ ≠ 0x18; omega
  have hm : ∀ {s t}, Frame [.regs 0x14] s t → Frame eventParts s t := fun h => h.mono (by simp [eventParts])
  unfold recordEvent
  extract_lets s1 s2 s3
  have h1 : Frame eventParts s s1 := hm (frame_fld s _ _ hp hg)
  have h2 : Frame eventParts s1 s2 := by
    show Frame _ _ (ite _ _ _)
    split
    · exact hm (frame_fld _ (Reg.MGMT_EV_CNT_OVF src) _ hc hk)
    · exact hm (frame_fld _ (Reg.MGMT_EV_CNT_COUNT src) _ hc hk)
  have h3 : Frame eventParts s2 s3 := by
    show Frame _ _ (ite _ _ _)
    split
    · exact Frame.refl _ _
    · exact hm (frame_storeFirst src data forced _ h)
  refine (h1.trans h2).trans (h3.trans ?_)
  split
  · exact (frame_vecOccur _ _).mono (by simp [eventParts])
  · exact Frame.refl _ _

theorem frame_raise (src : Nat) (cs : List Cap) (s : State) (h : src < 256) : Frame eventParts s (raise src cs s) :=
  frame_recordEvent src _ false s h

/-- An occurrence sets the ember bit of its source (R540). -/
theorem ember_recordEvent (src data : Nat) (forced : Bool) (s : State) (h : src < 256) :
    Ember src (recordEvent src data forced s) := by
  have key : ∀ t u : State, reg u (emberFld src).off = reg t (emberFld src).off → Ember src t → Ember src u := by
    intro t u hr ht
    unfold Ember flag at *
    rwa [fld_congr_reg hr]
  have ho : (emberFld src).off = 0x3E0100 + 8 * (src / 64) := rfl
  have hne : ∀ o, 0x3E1000 ≤ o → (emberFld src).off ≠ o := fun o h => by rw [ho]; omega
  unfold recordEvent
  extract_lets s1 s2 s3
  have h1 : Ember src s1 := by
    unfold Ember flag
    rw [fld_setFld_same s (emberFld src) 1 ⟨Nat.le_refl _, Nat.mod_lt _ (by decide)⟩]
    simp [emberFld]
  have h2 : Ember src s2 := by
    refine key s1 s2 ?_ h1
    show reg (ite _ _ _) _ = _
    split
    · exact reg_setFld_ne _ _ (hne _ (by show _ ≤ 0x3E1000 + 0x40 * src; omega))
    · exact reg_setFld_ne _ _ (hne _ (by show _ ≤ 0x3E1000 + 0x40 * src; omega))
  have h3 : Ember src s3 := by
    refine key s2 s3 ?_ h2
    show reg (ite _ _ _) _ = _
    split
    · rfl
    · unfold storeFirst
      rw [reg_setFld_ne _ _ (hne _ (by show _ ≤ 0x3E1000 + 0x40 * src; omega)),
        reg_setFld_ne _ _ (hne _ (by show _ ≤ 0x3E1000 + 0x40 * src; omega)),
        forAll_same (fun t => reg t (emberFld src).off), reg_setReg_ne _ _ (hne _ (by show _ ≤ 0x3E1008 + 0x40 * src; omega))]
      intro i _ t
      exact reg_setReg_ne _ _ (hne _ (by show _ ≤ 0x3E1010 + 0x40 * src + 8 * i; omega))
  split
  · refine key s3 _ ?_ h3
    have hl : (emberFld src).off ≠ Reg.HOST_VEC_LATE := by rw [ho]; show _ ≠ 0x50; omega
    have hs : (emberFld src).off ≠ Reg.HOST_VEC_SENT := by rw [ho]; show _ ≠ 0x48; omega
    unfold vecOccur sendMsix
    simp only
    split
    · exact reg_setReg_ne _ _ hl
    · split
      · exact reg_setReg_ne _ _ hs
      · split
        · exact reg_setReg_ne _ _ hs
        · exact reg_setReg_ne _ _ hs
  · exact h3

theorem ember_raise (src : Nat) (cs : List Cap) (s : State) (h : src < 256) : Ember src (raise src cs s) :=
  ember_recordEvent src _ false s h

/-! ### The lamp log's counts, the snuffer (R551 to R554, R562) -/

theorem frame_log (s : State) (l : LampLog) : Frame [.log] s { s with log := l } := fun p hp => by
  cases p <;> first | exact fun _ _ _ => rfl | rfl | exact absurd List.mem_cons_self hp | simp [Part.same]

theorem frame_logCount (i : Nat) (s : State) : Frame [.log] s (logCount i s) := frame_log s _

theorem frame_scan (s : State) (x : ScanState) : Frame [.scan] s { s with scan := x } := fun p hp => by
  cases p <;> first | exact fun _ _ _ => rfl | rfl | exact absurd List.mem_cons_self hp | simp [Part.same]

theorem frame_sendBlank (cause : Nat) (s : State) : Frame [] s (sendBlank cause s) :=
  Frame.forAll _ _ (fun _ _ t => frame_emit t _) s

theorem frame_setHold (s : State) (p v : Nat) : Frame [.regs 0x14] s (setHold s p v) :=
  (frame_fld s ⟨Reg.MGMT_SNUFF_STAT, p, p⟩ _ (blockOf_mgmt (o := Reg.MGMT_SNUFF_STAT) (by decide) (by decide))
    (by show Reg.MGMT_SNUFF_STAT ≠ _; decide)).trans
    (frame_fld _ Reg.MGMT_SNUFF_STAT_LOW _ (blockOf_mgmt (by decide) (by decide)) (by decide))

/-- The parts a snuff path's assertion may change. -/
def snuffParts : List Part := [.lamp, .log, .scan, .messages, .regs 0x01, .regs 0x14]

theorem frame_assertPath (p : Nat) (s : State) : Frame snuffParts s (assertPath p s) := by
  have hm : ∀ {s t}, Frame [.regs 0x14] s t → Frame snuffParts s t := fun h => h.mono (by simp [snuffParts])
  unfold assertPath
  split
  · exact Frame.refl _ _
  · extract_lets s1 s2 st s3 sc s4
    have h1 : Frame snuffParts s s1 := (hm (frame_setHold s p 1)).trans
      (hm (frame_fld _ _ _ (blockOf_mgmt (by decide) (by decide)) (by decide)))
    have h2 : Frame snuffParts s1 s2 :=
      ((frame_logCount 1 s1).trans (frame_log _ _)).mono (by simp [snuffParts])
    have h3 : Frame snuffParts s2 s3 := by
      show Frame _ _ (ite _ _ _)
      split
      · exact (frame_setLamp _ _).mono (by simp [snuffParts])
      · exact Frame.refl _ _
    have h4 : Frame snuffParts s3 s4 :=
      (frame_scan s3 _).comp (frame_sendBlank _ _) (by simp [snuffParts]) (by simp)
    exact (h1.trans h2).trans ((h3.trans h4).trans ((frame_raise _ _ _ (by decide)).mono (by simp [snuffParts, eventParts])))

/-! ### The non-volatile store's writes (R501, R502) -/

def storeParts : List Part := [.store, .regs 0x13]

theorem blockOf_nvm {o : Nat} (h : 0x3D0000 ≤ o) (k : o < 0x3E0000) : blockOf o = 0x13 := by
  unfold blockOf
  iterate 20 rw [if_neg (by omega)]
  rw [if_pos k]

theorem frame_store (s : State) (a : List Host.Cell) (b : Tbl Nat) (c : Option NvmWr) (d : List NvmWr) (e : Option NvmWr) :
    Frame [.store] s { s with nvm := a, nvmBad := b, nvmRun := c, nvmQueue := d, lensRun := e } := fun p hp => by
  cases p <;> first | exact fun _ _ _ => rfl | rfl | exact absurd List.mem_cons_self hp | simp [Part.same]

theorem frame_nvmProgram (off : Nat) (data : Bytes) (s : State) : Frame [.store] s (nvmProgram off data s) :=
  frame_store s _ _ s.nvmRun s.nvmQueue s.lensRun

theorem frame_nvmFld (s : State) (f : Fld) (v : Nat) (h : f.off = Reg.NVM_STAT ∨ f.off = Reg.NVM_WSEQ) :
    Frame storeParts s (setFld s f v) :=
  (frame_fld s f v (blockOf_nvm (by rcases h with h | h <;> rw [h] <;> decide) (by rcases h with h | h <;> rw [h] <;> decide))
    (by rcases h with h | h <;> rw [h] <;> decide)).mono (by simp [storeParts])

theorem frame_nvmBegin (lens : Bool) (w : NvmWr) (s : State) : Frame storeParts s (nvmBegin lens w s) := by
  unfold nvmBegin
  extract_lets q s1
  have h1 : Frame storeParts s s1 := (frame_nvmProgram _ _ s).mono (by simp [storeParts])
  refine h1.trans ?_
  split
  · exact (((frame_store s1 s1.nvm s1.nvmBad s1.nvmRun s1.nvmQueue (some w)).mono (by simp [storeParts])).trans
      (frame_nvmFld _ _ _ (.inr rfl))).trans (frame_nvmFld _ _ _ (.inl rfl))
  · exact ((((frame_store s1 s1.nvm s1.nvmBad (some w) s1.nvmQueue s1.lensRun).mono (by simp [storeParts])).trans
      (frame_nvmFld _ _ _ (.inr rfl))).trans (frame_nvmFld _ _ _ (.inl rfl))).trans (frame_nvmFld _ _ _ (.inl rfl))

theorem frame_nvmFixQueue (s : State) : Frame storeParts s (nvmFixQueue s) := frame_nvmFld s _ _ (.inl rfl)

theorem frame_nvmStart (s : State) : Frame storeParts s (nvmStart s) := by
  unfold nvmStart
  split
  · exact (((frame_store s s.nvm s.nvmBad s.nvmRun _ s.lensRun).mono (by simp [storeParts])).trans
      (frame_nvmBegin _ _ _)).trans (frame_nvmFixQueue _)
  · exact Frame.refl _ _

theorem frame_nvmWrite (w : NvmWr) (s : State) : Frame storeParts s (nvmWrite w s) :=
  (((frame_store s s.nvm s.nvmBad s.nvmRun _ s.lensRun).mono (by simp [storeParts])).trans
    (frame_nvmFixQueue _)).trans (frame_nvmStart _)

theorem frame_pushRing (src st why data : Nat) (s : State) :
    Frame [.log, .store, .regs 0x13, .regs 0x14] s (pushRing src st why data s) := by
  unfold pushRing
  extract_lets e w s1
  have h1 : Frame [.regs 0x14] s s1 := frame_fld s _ _ (blockOf_mgmt (by decide) (by decide)) (by decide)
  exact (h1.mono (by simp)).trans (((frame_log s1 _).mono (by simp)).trans
    ((frame_nvmWrite w _).mono (by simp [storeParts])))

/-! ### Panel rails (R267, R272) -/

theorem blockOf_rail {o : Nat} (h : 0x3B0000 ≤ o) (k : o < 0x3C0000) : blockOf o = 0x11 := by
  unfold blockOf
  iterate 18 rw [if_neg (by omega)]
  rw [if_pos k]

def railParts : List Part := [.rails, .messages, .regs 0x01, .regs 0x11, .regs 0x14]

theorem frame_rails (s : State) (a : Tbl RailPhase) (b : Nat) (c d : Bool) :
    Frame [.rails] s { s with rails := a, railSeqAt := b, railThen := c, railFaulted := d } := fun p hp => by
  cases p <;> first | exact fun _ _ _ => rfl | rfl | exact absurd List.mem_cons_self hp | simp [Part.same]

theorem frame_railFld (s : State) (f : Fld) (v : Nat) (h : f.off = Reg.RAIL_STAT ∨ f.off = Reg.RAIL_CTRL) :
    Frame railParts s (setFld s f v) :=
  (frame_fld s f v (blockOf_rail (by rcases h with h | h <;> rw [h] <;> decide) (by rcases h with h | h <;> rw [h] <;> decide))
    (by rcases h with h | h <;> rw [h] <;> decide)).mono (by simp [railParts])

theorem frame_railState (s : State) (a : Tbl RailPhase) (b : Nat) (c d : Bool) :
    Frame railParts s { s with rails := a, railSeqAt := b, railThen := c, railFaulted := d } :=
  (frame_rails s a b c d).mono (by simp [railParts])

theorem frame_setRail (s : State) (i : Nat) (p : RailPhase) : Frame railParts s (setRail s i p) :=
  (frame_railState s _ s.railSeqAt s.railThen s.railFaulted).trans (frame_railFld _ ⟨Reg.RAIL_STAT, 4 + i, 4 + i⟩ _ (.inl rfl))

theorem frame_railActs (up down : Nat) (s : State) : Frame railParts s (railActs up down s) :=
  (frame_railFld s Reg.RAIL_CTRL_UP _ (.inr rfl)).trans (frame_railFld _ Reg.RAIL_CTRL_DOWN _ (.inr rfl))

theorem frame_railSeqDone (s : State) : Frame railParts s (railSeqDone s) := by
  have h : Frame railParts s (setFld { s with railFaulted := false } Reg.RAIL_STAT_SEQ 0) :=
    (frame_railState s s.rails s.railSeqAt s.railThen false).trans (frame_railFld _ _ 0 (.inl rfl))
  exact (h.trans (frame_railActs 0 0 _)).trans ((frame_raise _ _ _ (by decide)).mono (by simp [railParts, eventParts]))

theorem frame_railHeld (s : State) (b : Bool) : Frame railParts s { s with railHeld := b } := fun p hp => by
  cases p <;> first | exact fun _ _ _ => rfl | rfl | exact absurd List.mem_cons_self hp | simp [Part.same]

theorem frame_vlcdDown (s : State) : Frame railParts s (vlcdDown s) := by
  unfold vlcdDown
  split
  · exact frame_setRail s 3 _
  · exact frame_setRail s 3 _
  · exact frame_setRail s 3 _
  · exact Frame.refl _ _

theorem frame_railsDown (lcd : Bool) (s : State) : Frame railParts s (railsDown lcd s) := by
  have h1 : ∀ t : State, Frame railParts t (Machine.forAll downOrder
      (fun i s => if decide (railPhase s i = .delay) then setRail s i .off else s) t) := fun t =>
    Frame.forAll _ _ (fun i _ t => by
      split
      · exact frame_setRail t i _
      · exact Frame.refl _ _) t
  have h2 : ∀ t : State, Frame railParts t
      { setFld (setFld t Reg.RAIL_CTRL_UP 0) Reg.RAIL_STAT_SEQ 2 with railSeqAt := t.ns, railThen := false } :=
    fun t => ((frame_railFld t Reg.RAIL_CTRL_UP 0 (.inr rfl)).trans (frame_railFld _ Reg.RAIL_STAT_SEQ 2 (.inl rfl))).trans
      (frame_railState _ _ t.ns false _)
  have h4 : ∀ (t : State) (l : List Nat) (b : Prop) [Decidable b], Frame railParts t (match l with
      | [] => if b then t else railSeqDone t
      | i :: u => Machine.forAll u (fun j s => setRail s j .downDelay) (setRail t i .down)) := fun t l b _ => by
    cases l with
    | nil =>
      dsimp only
      split
      · exact Frame.refl _ _
      · exact frame_railSeqDone t
    | cons i u => exact (frame_setRail t i _).trans (Frame.forAll _ _ (fun j _ t => frame_setRail t j _) _)
  have h0 : Frame railParts s (if lcd then vlcdDown { s with railHeld := true } else s) := by
    split
    · exact (frame_railHeld s true).trans (frame_vlcdDown _)
    · exact Frame.refl _ _
  unfold railsDown
  extract_lets s0 s1 ups s2
  show Frame railParts s (ite _ _ _)
  split
  · exact h0
  · split
    · exact h0
    · exact ((h0.trans (h1 _)).trans (h2 _)).trans (h4 _ _ _)

/-! ### Errors, follow-ups and DARK_FAULT (R534, R545 to R549) -/

theorem blockOf_lens {o : Nat} (h : 0x3C0000 ≤ o) (k : o < 0x3D0000) : blockOf o = 0x12 := by
  unfold blockOf
  iterate 19 rw [if_neg (by omega)]
  rw [if_pos k]

theorem blockOf_str {o : Nat} (h : 0x20000 ≤ o) (k : o < 0x40000) : blockOf o = 0x03 := by
  unfold blockOf
  iterate 2 rw [if_neg (by omega)]
  rw [if_pos k]

theorem frame_followUps (s : State) (x : Tbl FuUnit) : Frame [.followUps] s { s with followUps := x } := fun p hp => by
  cases p <;> first | exact fun _ _ _ => rfl | rfl | exact absurd List.mem_cons_self hp | simp [Part.same]

theorem frame_followQueue (blk idx src cause : Nat) (s : State) :
    Frame [.followUps, .regs 0x14] s (followQueue blk idx src cause s).1 := by
  have hm : ∀ (t : State) (f : Fld) (v : Nat), f.off = Reg.MGMT_ESC → Frame [.followUps, .regs 0x14] t (setFld t f v) :=
    fun t f v h => (frame_fld t f v (blockOf_mgmt (by rw [h]; decide) (by rw [h]; decide)) (by rw [h]; decide)).mono (by simp)
  have hf : ∀ (t : State) (x : Tbl FuUnit), Frame [.followUps, .regs 0x14] t { t with followUps := x } :=
    fun t x => (frame_followUps t x).mono (by simp)
  unfold followQueue
  extract_lets u f
  split
  · exact hf s _
  · split
    · exact Frame.refl _ _
    · split
      · exact ((hm s _ _ rfl).trans (hm _ _ _ rfl)).trans (hm _ _ _ rfl)
      · exact (hf s _).trans (hm _ _ _ rfl)

theorem frame_firstFatal (src st why data : Nat) (s : State) :
    Frame [.log, .regs 0x14] s (firstFatal src st why data s) := by
  have hm : ∀ (t : State) (o : Nat) (v : DWord), 0x3E0200 ≤ o → o < 0x400000 →
      Frame [.log, .regs 0x14] t (setReg t o v) := fun t o v h k =>
    (frame_reg t v (blockOf_mgmt (by omega) k) (by show _ ≠ 0x18; omega)).mono (by simp)
  unfold firstFatal
  split
  · exact Frame.refl _ _
  · refine ((((frame_log s _).mono (by simp)).trans (hm _ _ _ (by decide) (by decide))).trans
      (hm _ _ _ (by decide) (by decide))).trans (Frame.forAll _ _ ?_ _)
    intro i hi t
    have : i < 4 := by simp at hi; omega
    exact hm t _ _ (by show _ ≤ 0x3E0210 + 8 * i; omega) (by show 0x3E0210 + 8 * i < _; omega)

theorem frame_stopRaster (s : State) : Frame [.scan, .regs 0x0C] s (stopRaster s) := by
  have hm : ∀ (t : State) (o : Nat) (v : DWord), 0x300000 ≤ o → o < 0x340000 →
      Frame [.scan, .regs 0x0C] t (setReg t o v) := fun t o v h k =>
    (frame_reg t v (blockOf_scan h k) (by show _ ≠ 0x18; omega)).mono (by simp)
  unfold stopRaster
  extract_lets sc s1 s2
  have h1 : Frame [.scan, .regs 0x0C] s s1 := (frame_scan s _).mono (by simp)
  have h2 : Frame [.scan, .regs 0x0C] s1 s2 :=
    (hm s1 Reg.SCAN_STAT _ (by decide) (by decide)).trans (hm _ Reg.SCAN_STAT _ (by decide) (by decide))
  refine (h1.trans h2).trans (Frame.forAll _ _ ?_ _)
  intro n hn t
  have : n < 192 := by simpa [wicks] using hn
  exact hm t _ _ (by show _ ≤ 0x310000 + 0x400 * n; omega) (by show 0x310000 + 0x400 * n < _; omega)

theorem frame_lens (s : State) (x : LensState) : Frame [.lens] s { s with lens := x } := fun p hp => by
  cases p <;> first | exact fun _ _ _ => rfl | rfl | exact absurd List.mem_cons_self hp | simp [Part.same]

def lensParts : List Part := [.lens, .regs 0x12]

theorem frame_lensFld (s : State) (f : Fld) (v : Nat) (h : 0x3C0000 ≤ f.off ∧ f.off < 0x3D0000) :
    Frame lensParts s (setFld s f v) :=
  (frame_fld s f v (blockOf_lens h.1 h.2) (by have := h.1; show _ ≠ 0x18; omega)).mono (by simp [lensParts])

theorem frame_lensInc (s : State) (f : Fld) (k : Nat) (h : 0x3C0000 ≤ f.off ∧ f.off < 0x3D0000) :
    Frame lensParts s (incSat s f k) := by
  unfold incSat
  exact frame_lensFld s f _ h

theorem frame_lensStop (c : Nat) (s : State) : Frame lensParts s (lensStop c s) := by
  unfold lensStop
  extract_lets s1
  exact ((frame_lensFld s (lensState c) 3 ⟨by show _ ≤ Reg.LENS_CSTATE; decide, by show Reg.LENS_CSTATE < _; decide⟩).trans
    (frame_lensFld _ Reg.LENS_STAT_DRIVING 0 ⟨by decide, by decide⟩)).trans
    (((frame_lens s1 _).mono (by simp [lensParts])).trans ((frame_emit _ _).mono (by simp)))

theorem frame_lensGiveUp (c : Nat) (s : State) : Frame lensParts s (lensGiveUp c s) := by
  have h : ∀ v, Frame lensParts s (setFld s (lensState c) v) := fun v =>
    frame_lensFld s (lensState c) v ⟨by show _ ≤ Reg.LENS_CSTATE; decide, by show Reg.LENS_CSTATE < _; decide⟩
  unfold lensGiveUp
  extract_lets s1
  have h1 : Frame lensParts s s1 := by
    show Frame _ _ (ite _ _ _)
    split
    · exact h _
    · exact h _
  exact h1.trans ((frame_lens s1 _).mono (by simp [lensParts]))

/-- The parts an error may change (R545 to R549). -/
def faultParts : List Part :=
  [.lamp, .messages, .followUps, .log, .scan, .store, .rails, .lens, .sequence, .regs 0x01, .regs 0x03, .regs 0x0C,
    .regs 0x11, .regs 0x12, .regs 0x13, .regs 0x14]

theorem frame_followJoin (blk idx src cause : Nat) (s : State) :
    Frame [.followUps, .regs 0x14] s (followJoin blk idx src cause s) := frame_followQueue blk idx src cause s

theorem frame_lensAbortDark (s : State) : Frame faultParts s (lensAbortDark s) := by
  have hs : lensParts ⊆ faultParts := by simp [lensParts, faultParts]
  have hw : ∀ c, Frame faultParts s (followJoin unitLens c evLensFault 3 (raise evLensFault (lensFaultCap 3 c 0xFF)
      (incSat (lensStop c s) Reg.LENS_FAULT_CNT_FAULTS 1))) := fun c =>
    (((frame_lensStop c s).trans (frame_lensInc _ Reg.LENS_FAULT_CNT_FAULTS 1 ⟨by decide, by decide⟩)).mono hs).trans
      ((frame_raise _ _ _ (by decide)).comp (frame_followJoin _ _ _ _ _) (by simp [eventParts, faultParts])
        (by simp [faultParts]))
  unfold lensAbortDark
  split
  · exact hw _
  · exact (frame_lensGiveUp _ s).mono hs
  · exact (frame_lensGiveUp _ s).mono hs
  · exact Frame.refl _ _

theorem frame_sequence (s : State) (a : Option Orderly) (b c : Bool) :
    Frame [.sequence] s { s with orderly := a, wantLight := b, rowZero := c } := fun p hp => by
  cases p <;> first | exact fun _ _ _ => rfl | rfl | exact absurd List.mem_cons_self hp | simp [Part.same]

theorem frame_raiseIn (lo hi src : Nat) (cs : List Cap) (s : State) (h : hi ≤ 256) :
    Frame faultParts s (raiseIn lo hi src cs s) := by
  unfold raiseIn
  split
  · exact (frame_raise src cs s (by omega)).mono (by simp [eventParts, faultParts])
  · exact Frame.refl _ _

theorem frame_darkEnter (why src data : Nat) (s : State) : Frame faultParts s (darkEnter why src data s) := by
  have hs : ∀ (t : State) (f : Fld) (v : Nat), f.off = Reg.STR_STAT → Frame faultParts t (setFld t f v) :=
    fun t f v h => (frame_fld t f v (blockOf_str (by rw [h]; decide) (by rw [h]; decide)) (by rw [h]; decide)).mono
      (by simp [faultParts])
  unfold darkEnter
  extract_lets st s1 s2
  have h1 : Frame faultParts s s1 := (hs s _ _ rfl).trans (hs _ _ _ rfl)
  have h2 : Frame faultParts s1 s2 := ((frame_firstFatal _ _ _ _ s1).mono (by simp [faultParts])).trans
    ((frame_pushRing _ _ _ _ _).mono (by simp [faultParts]))
  have h3 : Frame faultParts s2 (logCount 5 s2) := (frame_logCount _ s2).mono (by simp [faultParts])
  exact (h1.trans h2).trans (h3.trans (((frame_sequence _ _ false _).mono (by simp [faultParts])).trans
    ((frame_setLamp _ .darkFault).mono (by simp [faultParts]))))

theorem frame_darkStops (path src : Nat) (cs : List Cap) (s : State) : Frame faultParts s (darkStops path src cs s) := by
  unfold darkStops
  extract_lets s1
  have h1 : Frame faultParts s s1 :=
    ((frame_raiseIn 0 240 src cs s (by decide)).trans ((frame_railsDown true _).mono (by simp [railParts, faultParts]))).trans
      ((frame_raiseIn 240 245 src cs _ (by decide)).trans (frame_lensAbortDark _))
  exact h1.trans (((frame_raiseIn 245 253 src cs s1 (by decide)).trans
    ((frame_assertPath path _).mono (by simp [snuffParts, faultParts]))).trans (frame_raiseIn 253 256 src cs _ (by decide)))

theorem frame_darkFault (why path src data noted : Nat) (cs : List Cap) (s : State) :
    Frame faultParts s (darkFault why path src data noted cs s) := by
  have hr : ∀ t, Frame faultParts t (raiseIn 0 256 noted cs t) := fun t => frame_raiseIn 0 256 noted cs t (by decide)
  unfold darkFault
  split
  · exact hr s
  · split
    · split
      · exact frame_darkStops _ _ _ _
      · split
        · exact (hr s).trans ((frame_assertPath path _).mono (by simp [snuffParts, faultParts]))
        · exact hr s
    · extract_lets s1
      have h1 : Frame faultParts s s1 := ((frame_darkEnter why src data s).trans (frame_darkStops _ _ _ _)).trans
        ((frame_stopRaster _).mono (by simp [faultParts]))
      exact h1.trans ((frame_scan s1 _).mono (by simp [faultParts]))

theorem frame_followUp (blk idx src cause data : Nat) (s : State) :
    Frame faultParts s (followUp blk idx src cause data s) := by
  have h := (frame_followQueue blk idx src cause s).mono (qs := faultParts) (by simp [faultParts])
  unfold followUp
  extract_lets q
  split
  · exact h.trans (frame_darkFault _ _ _ _ _ _ _)
  · exact h

theorem frame_raiseErr (blk idx src cause : Nat) (cs : List Cap) (s : State) (h : src < 256) :
    Frame faultParts s (raiseErr blk idx src cause cs s) :=
  ((frame_raise src cs s h).mono (by simp [eventParts, faultParts])).trans (frame_followUp _ _ _ _ _ _)

theorem frame_raiseFatal (blk idx src cause : Nat) (cs : List Cap) (why path : Nat) (s : State) :
    Frame faultParts s (raiseFatal blk idx src cause cs why path s) :=
  (frame_darkFault _ _ _ _ _ _ _).trans (frame_followUp _ _ _ _ _ _)

/-- With fewer than four waiting, an error queues and escalates nothing (R546). -/
theorem followUp_calm (blk idx src cause data : Nat) (s : State) (h : (fuUnit s blk idx).waiting.length < 4) :
    followUp blk idx src cause data s = (followQueue blk idx src cause s).1 := by
  unfold followUp
  have : (followQueue blk idx src cause s).2 = false := by
    unfold followQueue
    extract_lets u f
    split
    · rfl
    · split
      · rfl
      · rw [if_neg (by show ¬ 4 ≤ (fuUnit s blk idx).waiting.length; omega)]
  simp only [this, Bool.false_eq_true, if_false]

/-! ### Completions (R416, R417) -/

theorem frame_cmdFld (s : State) (f : Fld) (v : Nat) (h : 0x10000 ≤ f.off ∧ f.off < 0x20000) :
    Frame (.regs 0x02 :: faultParts) s (setFld s f v) :=
  (frame_fld s f v (blockOf_cmd h.1 h.2) (by have := h.1; show _ ≠ 0x18; omega)).mono (by simp)

theorem frame_ringError (r cause : Nat) (s : State) (h : r < 8) :
    Frame (.regs 0x02 :: faultParts) s (ringError r cause s) := by
  unfold ringError
  extract_lets s1
  have h1 : Frame (.regs 0x02 :: faultParts) s s1 :=
    ((frame_cmdFld s (Reg.CMD_RING_STAT_STATE r) _ ⟨by show _ ≤ 0x10124 + 0x40 * r; omega, by show 0x10124 + 0x40 * r < _; omega⟩).trans
      (frame_cmdFld _ (Reg.CMD_RING_STAT_ERR r) _ ⟨by show _ ≤ 0x10124 + 0x40 * r; omega, by show 0x10124 + 0x40 * r < _; omega⟩)).trans
      (frame_cmdFld _ (Reg.CMD_RING_CTRL_EN r) _ ⟨by show _ ≤ 0x10114 + 0x40 * r; omega, by show 0x10114 + 0x40 * r < _; omega⟩)
  exact h1.trans ((frame_raiseErr _ _ _ _ _ _ (by decide)).mono (by simp [faultParts]))

end Sys2Proof
end

