-- ==== Sys2Proof/Laws/Memory.lean ====
section
/-! SUPPORT. Device memory: every operation over it keeps the canonical form, what counts and events leave of it,
and that a write within a line is read back. -/

namespace Sys2Proof.Machine

/-- The bytes of memory are the same, and the list of poisoned lines stays in canonical form. -/
def MemKept (s t : State) : Prop := t.mem = s.mem ∧ (setWf s.poison = true → setWf t.poison = true)

theorem MemKept.of_eq {s t : State} (hm : t.mem = s.mem) (hp : t.poison = s.poison) : MemKept s t := ⟨hm, fun h => hp ▸ h⟩

theorem MemKept.rfl' (s : State) : MemKept s s := .of_eq rfl rfl

theorem MemKept.trans {s t u : State} (h : MemKept s t) (k : MemKept t u) : MemKept s u :=
  ⟨k.1.trans h.1, fun hs => k.2 (h.2 hs)⟩

theorem MemKept.wf {s t : State} (h : MemKept s t) (hs : Memory.wf s = true) : Memory.wf t = true := by
  simp only [Memory.wf, Bool.and_eq_true] at hs ⊢
  exact ⟨h.1 ▸ hs.1, h.2 hs.2⟩

theorem MemKept.of_frame {ps : List Part} {s t : State} (h : Frame ps s t) (hp : Part.memory ∉ ps) : MemKept s t :=
  .of_eq (h .memory hp).1 (h .memory hp).2

theorem memory_wf_reset : Memory.wf State.reset = true := by decide

/-! ### Counts and events leave memory alone -/

theorem memKept_raise (src : Nat) (cs : List Cap) (s : State) (h : src < 256) : MemKept s (raise src cs s) :=
  .of_frame (frame_raise src cs s h) (by decide)

theorem memKept_raiseErr (blk idx src cause : Nat) (cs : List Cap) (s : State) (h : src < 256) :
    MemKept s (raiseErr blk idx src cause cs s) := .of_frame (frame_raiseErr blk idx src cause cs s h) (by decide)

theorem memKept_setFld (s : State) (f : Fld) (v : Nat) : MemKept s (setFld s f v) := .of_eq (by simp) (by simp)

theorem memKept_incSat (s : State) (f : Fld) (k : Nat) : MemKept s (incSat s f k) := .of_eq (by simp) (by simp)

theorem memKept_dram (s : State) (d : MemState) : MemKept s { s with dram := d } := .of_eq rfl rfl

theorem memKept_log (s : State) (l : LampLog) : MemKept s { s with log := l } := .of_eq rfl rfl

theorem memKept_setRankState (s : State) (c p v : Nat) : MemKept s (setRankState s c p v) := memKept_setFld s _ v

theorem memKept_fixTable (c : Nat) (s : State) : MemKept s (fixTable c s) := memKept_setFld s _ _

theorem memKept_setReg (s : State) (o : Nat) (v : DWord) : MemKept s (setReg s o v) :=
  .of_eq (setReg_mem s o v) (setReg_poison s o v)

theorem memKept_eccLast (c addr kind p d : Nat) (s : State) : MemKept s (eccLast c addr kind p d s) :=
  memKept_setReg s _ _

theorem memKept_rankRecord (c : Nat) (s : State) : MemKept s (rankRecord c s) :=
  .of_frame (frame_nvmWrite _ s) (by decide)

theorem memKept_memUe (addr len c p : Nat) (s : State) : MemKept s (memUe addr len c p s) :=
  memKept_raiseErr _ _ _ _ _ s (by decide)

theorem memKept_rankRetireEvent (c p cause : Nat) (s : State) : MemKept s (rankRetireEvent c p cause s) :=
  memKept_raiseErr _ _ _ _ _ s (by decide)

theorem memKept_poison (s : State) (p : Nat → Bool) : MemKept s { s with poison := s.poison.filter p } :=
  ⟨rfl, setWf_filter p⟩

theorem memKept_endMigration (c : Nat) (keep : Bool) (s : State) : MemKept s (endMigration c keep s) := by
  unfold endMigration
  extract_lets here d1 s1
  have h : MemKept s s1 := by
    refine ⟨rfl, fun hs => ?_⟩
    show setWf (ite _ _ _) = true
    split
    · exact hs
    · exact setWf_filter _ hs
  exact (h.trans (memKept_setFld s1 _ 0)).trans (memKept_fixTable c _)

theorem memKept_startMigration (c p sp cause : Nat) (s : State) : MemKept s (startMigration c p sp cause s) := by
  unfold startMigration
  refine .trans ?_ (memKept_rankRecord c _)
  refine .trans ?_ (memKept_rankRetireEvent c p cause _)
  refine .trans ?_ (memKept_dram _ _)
  refine .trans ?_ (memKept_fixTable c _)
  refine .trans ?_ (memKept_setFld _ (Reg.DMC_MIGRATE_ACTIVE c) 1)
  refine .trans ?_ (memKept_setFld _ (Reg.DMC_MIGRATE_DST c) sp)
  refine .trans ?_ (memKept_setFld _ (Reg.DMC_MIGRATE_SRC c) p)
  refine .trans ?_ (memKept_setFld _ (Reg.DMC_MIGRATE_PTR c) 0)
  exact .trans (memKept_setRankState s c p 3) (memKept_setRankState _ c sp 4)

theorem memKept_rankOffline (c p : Nat) (s : State) : MemKept s (rankOffline c p s) :=
  (memKept_setRankState s c p 6).trans ((memKept_memUe _ _ _ _ _).trans (memKept_rankRecord c _))

theorem memKept_retireTrigger (c p cause : Nat) (s : State) : MemKept s (retireTrigger c p cause s) := by
  unfold retireTrigger
  split
  · split
    · exact memKept_startMigration _ _ _ _ s
    · exact memKept_rankOffline c p s
  · exact (memKept_setRankState s c p 7).trans ((memKept_rankRetireEvent _ _ _ _).trans (memKept_rankRecord c _))
  · exact ((memKept_setRankState s c p 7).trans (memKept_setRankState _ _ _ 1)).trans
      ((memKept_endMigration c false _).trans ((memKept_rankRetireEvent _ _ _ _).trans (memKept_rankRecord c _)))
  · exact .rfl' s

theorem memKept_autoTrigger (c p cause : Nat) (s : State) : MemKept s (autoTrigger c p cause s) := by
  unfold autoTrigger
  split
  · exact memKept_retireTrigger c p cause s
  · exact .rfl' s

theorem memKept_correctedError (c p d addr : Nat) (s : State) : MemKept s (correctedError c p d addr s) := by
  unfold correctedError
  extract_lets w ce d1 s1 l1 s2 s3 s4 s5
  have h3 : MemKept s s3 := .trans (.trans (memKept_dram s _) (memKept_log s1 _))
    (.trans (memKept_incSat s2 (Reg.DMC_ECC_CE_COUNT c p) 1) (memKept_incSat _ (Reg.DMC_ECC_CE_WINDOW c p) 1))
  have h4 : MemKept s3 s4 := (memKept_setFld s3 (Reg.DMC_ECC_CE_DEVICE c p) d).trans (memKept_eccLast _ _ _ _ _ _)
  have h5 : MemKept s s5 := (h3.trans h4).trans (memKept_raise _ _ s4 (by decide))
  split
  · exact h5.trans (memKept_autoTrigger _ _ _ s5)
  · exact h5

theorem memKept_uncorrectable (c p addr : Nat) (s : State) : MemKept s (uncorrectable c p addr s) :=
  ((memKept_incSat s (Reg.DMC_UE_CNT_UE c) 1).trans (memKept_eccLast _ _ _ _ _ _)).trans
    ((memKept_memUe _ _ _ _ _).trans (memKept_autoTrigger _ _ _ _))

theorem memKept_poisonReturned (c addr grp : Nat) (fresh_ : Bool) (p : Nat) (s : State) :
    MemKept s (poisonReturned c addr grp fresh_ p s) := by
  unfold poisonReturned
  extract_lets s1 s2 t
  have h2 : MemKept s s2 := by
    refine MemKept.trans (t := s1) (memKept_incSat s (Reg.DMC_UE_CNT_POISON_READ c) 1) ?_
    show MemKept s1 (ite _ _ _)
    split
    · exact memKept_eccLast _ _ _ _ _ s1
    · exact .rfl' s1
  split
  · exact h2.trans ((memKept_dram s2 _).trans (memKept_raise _ _ _ (by decide)))
  · exact h2

theorem memKept_sampleRow (c rank bank row : Nat) (s : State) : MemKept s (sampleRow c rank bank row s) := .of_eq rfl rfl

theorem memKept_hammerActivate (c rank bank row : Nat) (s : State) : MemKept s (hammerActivate c rank bank row s) := by
  unfold hammerActivate
  extract_lets l hit l1 d1 s1 s2
  split
  · have h : MemKept s s2 := (memKept_dram s _).trans (memKept_incSat s1 (Reg.DMC_HAMMER_STAT_TABLE_HITS c) 1)
    split
    · exact h
    · exact h.trans ((memKept_dram s2 _).trans (memKept_raise _ _ _ (by decide)))
  · exact memKept_dram s _

theorem memKept_activate (c rank bank row : Nat) (s : State) : MemKept s (activate c rank bank row s) := by
  unfold activate
  extract_lets s1
  have h : MemKept s s1 := memKept_sampleRow c rank bank row s
  split
  · exact h.trans (memKept_hammerActivate c rank bank row s1)
  · exact h

theorem memKept_setDebt (c unit v : Nat) (s : State) : MemKept s (setDebt c unit v s) :=
  (memKept_dram s _).trans (memKept_setFld _ _ _)

theorem memKept_refreshIdle (c unit : Nat) (s : State) : MemKept s (refreshIdle c unit s) := by
  unfold refreshIdle
  split
  · exact memKept_setDebt c unit 0 s
  · exact .rfl' s

theorem memKept_setBank (i : Nat) (b : Bank) (s : State) : MemKept s (setBank i b s) := .of_eq rfl rfl

theorem memKept_bankOpenRow (c rank bank row : Nat) (s : State) : MemKept s (bankOpenRow c rank bank row s) := by
  unfold bankOpenRow
  extract_lets b
  refine .trans ?_ (memKept_setBank _ _ _)
  split
  · exact .rfl' s
  · exact memKept_activate _ _ _ _ s

theorem memKept_bankAccess (c rank bank row : Nat) (s : State) : MemKept s (bankAccess c rank bank row s) := by
  unfold bankAccess
  extract_lets s1 b
  have h : MemKept s s1 := memKept_bankOpenRow c rank bank row s
  split
  · exact h.trans ((memKept_setBank _ _ s1).trans (memKept_refreshIdle _ _ _))
  · exact h

theorem memKept_writeAccess (pl : DramPlace) (full : Bool) (s : State) : MemKept s (writeAccess pl full s) := by
  unfold writeAccess
  extract_lets p s1 s2
  have h1 : MemKept s s1 := by
    show MemKept s (ite _ _ _)
    split
    · exact .rfl' s
    · exact memKept_bankOpenRow _ _ _ _ s
  have h2 : MemKept s s2 := h1.trans (memKept_bankAccess _ _ _ _ s1)
  split
  · exact h2.trans (memKept_bankAccess _ _ _ _ s2)
  · exact h2

/-! ### An access leaves the stored symbols alone -/

theorem dram_raise (src : Nat) (cs : List Cap) (s : State) (h : src < 256) : (raise src cs s).dram = s.dram :=
  frame_raise src cs s h .dram (by decide)

theorem errs_hammerActivate (c rank bank row : Nat) (s : State) :
    (hammerActivate c rank bank row s).dram.errs = s.dram.errs := by
  unfold hammerActivate
  extract_lets l hit l1 d1 s1 s2
  clear_value l hit l1
  have h : s2.dram.errs = s.dram.errs := by rw [show s2.dram = s1.dram from incSat_dram _ _ _]
  clear_value s2 s1
  split
  · split
    · exact h
    · rw [dram_raise evHammerTable _ _ (by decide)]; exact h
  · rfl

theorem errs_bankOpenRow (c rank bank row : Nat) (s : State) :
    (bankOpenRow c rank bank row s).dram.errs = s.dram.errs := by
  unfold bankOpenRow
  extract_lets b
  show (ite (_ = _) _ _ : State).dram.errs = _
  split
  · rfl
  · unfold activate
    extract_lets s1
    split
    · exact errs_hammerActivate c rank bank row s1
    · rfl

theorem errs_bankAccess (c rank bank row : Nat) (s : State) : (bankAccess c rank bank row s).dram.errs = s.dram.errs := by
  unfold bankAccess
  extract_lets s1 b
  split
  · unfold refreshIdle
    split
    · simp [setDebt, fixBehind, setBank, s1, errs_bankOpenRow]
    · exact errs_bankOpenRow c rank bank row s
  · exact errs_bankOpenRow c rank bank row s

theorem errs_writeAccess (pl : DramPlace) (full : Bool) (s : State) : (writeAccess pl full s).dram.errs = s.dram.errs := by
  unfold writeAccess
  extract_lets p s1 s2
  have h : s2.dram.errs = s.dram.errs := by
    refine (errs_bankAccess _ _ _ _ s1).trans ?_
    show (ite (_ = _) _ _ : State).dram.errs = _
    split
    · rfl
    · exact errs_bankOpenRow _ _ _ _ s
  split
  · exact (errs_bankAccess _ _ _ _ s2).trans h
  · exact h

/-! ### Every operation over memory keeps the canonical form -/

theorem wf_setPoison (line : Nat) {s : State} (h : Memory.wf s = true) : Memory.wf (setPoison line s) = true := by
  simp only [Memory.wf, Bool.and_eq_true] at h ⊢
  exact ⟨h.1, setWf_insert line h.2⟩

theorem wf_clearPoison (line : Nat) {s : State} (h : Memory.wf s = true) : Memory.wf (clearPoison line s) = true := by
  simp only [Memory.wf, Bool.and_eq_true] at h ⊢
  exact ⟨h.1, setWf_erase line h.2⟩

theorem memKept_clearErrs (line : Nat) (s : State) : MemKept s (clearErrs line s) := .of_eq rfl rfl

theorem memKept_setPoison (line : Nat) (s : State) : MemKept s (setPoison line s) := ⟨rfl, setWf_insert line⟩

theorem memKept_clearPoison (line : Nat) (s : State) : MemKept s (clearPoison line s) := ⟨rfl, setWf_erase line⟩

theorem memKept_poisonLine (p line : Nat) (s : State) : MemKept s (poisonLine p line s) := by
  unfold poisonLine
  extract_lets pl d1 s1
  have h : MemKept s s1 := by
    show MemKept s (ite _ _ _)
    split
    · exact memKept_dram s _
    · exact .rfl' s
  exact h.trans ((memKept_clearErrs line s1).trans (memKept_setPoison line _))

/-- A run of bytes stored anywhere keeps the form. -/
theorem wf_store (a : Nat) (b : Bytes) {s : State} (h : Memory.wf s = true) :
    Memory.wf { s with mem := tblSetRun 0#8 s.mem a b } = true := by
  simp only [Memory.wf, Bool.and_eq_true] at h ⊢
  exact ⟨tblWf_setRun a b h.1, h.2⟩

theorem wf_loseDram (s : State) : Memory.wf (loseDram s) = true := by
  have h1 : ∀ (l : List (Nat × Byte)) (m : Tbl Byte), tblWf 0#8 m = true →
      tblWf 0#8 (l.foldl (fun m x => tblSet 0#8 m x.1 x.2) m) = true := fun l => by
    induction l with
    | nil => exact fun m h => h
    | cons x l ih => exact fun m h => ih _ (tblWf_set _ _ h)
  have h2 : ∀ (l q : List Nat), setWf q = true → setWf (l.foldl (fun q a => setInsert a q) q) = true := fun l => by
    induction l with
    | nil => exact fun q h => h
    | cons x l ih => exact fun q h => ih _ (setWf_insert _ h)
  simp only [Memory.wf, loseDram, drew_mem, drew_poison, Bool.and_eq_true]
  exact ⟨h1 _ _ rfl, h2 _ _ rfl⟩

theorem memKept_injectWrite (c line : Nat) (s : State) : MemKept s (injectWrite c line s) := by
  unfold injectWrite
  split
  · extract_lets m s1
    have h : MemKept s s1 := by
      show MemKept s (ite _ _ _)
      split
      · exact memKept_setPoison line s
      · exact memKept_clearPoison line s
    exact h.trans ((memKept_dram s1 _).trans (memKept_setFld _ _ 0))
  · exact .rfl' s

/-! ### The decode of a line -/

/-- What a line's decode may do to memory: the form stays canonical, and only the line's own bytes may change. -/
def LineKept (line : Nat) (s t : State) : Prop :=
  (Memory.wf s = true → Memory.wf t = true) ∧ ∀ k, k / 64 ≠ line → tblGet 0#8 t.mem k = tblGet 0#8 s.mem k

theorem MemKept.line {s t : State} (h : MemKept s t) (line : Nat) : LineKept line s t :=
  ⟨h.wf, fun k _ => by rw [h.1]⟩

theorem LineKept.trans {line : Nat} {s t u : State} (h : LineKept line s t) (k : LineKept line t u) : LineKept line s u :=
  ⟨fun hs => k.1 (h.1 hs), fun a ha => (k.2 a ha).trans (h.2 a ha)⟩

theorem lineKept_store (line o : Nat) (data : Bytes) (s : State) (h : o + data.length ≤ 64) :
    LineKept line s { s with mem := tblSetRun 0#8 s.mem (64 * line + o) data } :=
  ⟨wf_store _ _, fun k hk => tblGet_setRun_outside _ _ _ _ _ (by omega)⟩

theorem eccRead_bytes {s : State} {line bad : Nat} {d : Option Nat} {b : Bytes} (h : eccRead s line bad = .good d b) :
    b.length = 64 := by
  have hl : (lineBytes s line).length = 64 := tblGetRun_length _ _ _ _
  unfold eccRead at h
  extract_lets mask was at h
  generalize devicesOf mask (lineDevices s) = ds at h
  rcases ds with _ | ⟨x, _ | ⟨y, _ | ⟨z, l⟩⟩⟩ <;> dsimp only at h
  · split at h
    · simp at h
    · injection h with _ h; rw [← h, hl]
  · split at h
    · simp at h
    · injection h with _ h; rw [← h, hl]
  · simp at h
  · split at h
    · unfold eccStored at h
      extract_lets decode e at h
      split at h
      · injection h with _ h; rw [← h]; simp
      · split at h <;> simp at h
    · split at h
      · simp at h
      · injection h with _ h; rw [← h]; simp

theorem lineKept_lineRewrite (line : Nat) (b : Bytes) (s : State) (h : b.length = 64) :
    LineKept line s (lineRewrite line b s) :=
  (lineKept_store line 0 b s (by omega)).trans ((memKept_clearErrs line _).line line)

theorem lineKept_eccEffects (c p line bad : Nat) (s : State) : LineKept line s (eccEffects c p line bad s) := by
  unfold eccEffects
  extract_lets r s1
  have h : MemKept s s1 := by
    show MemKept s (ite _ _ _)
    split
    · exact .of_eq rfl rfl
    · exact .rfl' s
  clear_value s1
  rcases hr : r with ⟨_ | d, b⟩ | ⟨_ | d⟩ | _ <;> dsimp only
  · exact h.line line
  · exact (h.line line).trans ((lineKept_lineRewrite line b s1 (eccRead_bytes hr)).trans
      ((memKept_correctedError _ _ _ _ _).line line))
  · exact h.line line
  · exact (h.trans ((memKept_clearErrs line s1).trans (memKept_correctedError _ _ _ _ _))).line line
  · exact (h.trans ((memKept_poisonLine _ line s1).trans (memKept_uncorrectable _ _ _ _))).line line

/-- A line that stores no wrong symbol, read without an error, is corrected nowhere (R322). -/
theorem eccEffects_clean (c p line : Nat) {s : State} (h : tblGet 0 s.dram.errs line = 0) :
    eccEffects c p line 0 s = s := by
  have hd : devicesOf (Nat.lor 0 0) (lineDevices s) = [] := by
    simp [devicesOf, bitOf]
  simp only [eccEffects, eccRead, h, hd]
  split <;> rename_i hr <;> split at hr <;> simp_all

theorem mergeSource_clean {line : Nat} {s : State} (h : tblGet 0 s.dram.errs line = 0) : mergeSource line s = s := by
  unfold mergeSource
  simp only [eccEffects_clean _ _ _ h, h, if_true]
  split <;> rfl

theorem lineKept_mergeSource (line : Nat) (s : State) : LineKept line s (mergeSource line s) := by
  unfold mergeSource
  extract_lets pl t
  have h : LineKept line s t := lineKept_eccEffects _ _ line 0 s
  split
  · rename_i b hr
    split
    · exact h
    · exact h.trans (lineKept_lineRewrite line b t (eccRead_bytes hr))
  · exact h

theorem lineKept_lineMerge (line : Nat) (s : State) : LineKept line s (lineMerge line s) :=
  ((memKept_bankOpenRow _ _ _ _ s).line line).trans (lineKept_mergeSource line _)

theorem lineKept_lineDecode (grp line bad : Nat) (s : State) : LineKept line s (lineDecode grp line bad s).1 := by
  unfold lineDecode
  extract_lets pl p t
  have h : LineKept line s t := lineKept_eccEffects _ _ line bad s
  split
  · exact (memKept_poisonReturned _ _ _ _ _ s).line line
  · split
    · exact h
    · exact h.trans ((memKept_poisonReturned _ _ _ _ _ t).line line)
    · exact h.trans ((memKept_poisonReturned _ _ _ _ _ t).line line)

/-- A client's read of a line changes no other line (R325). -/
theorem lineKept_lineRead (grp line bad : Nat) (s : State) : LineKept line s (lineRead grp line bad s).1 := by
  unfold lineRead
  split
  · exact (memKept_incSat s _ 1).line line
  · exact (((memKept_dram s _).trans (memKept_bankAccess _ _ _ _ _)).line line).trans (lineKept_lineDecode _ _ _ _)

theorem wf_lineRead (grp line bad : Nat) {s : State} (h : Memory.wf s = true) :
    Memory.wf (lineRead grp line bad s).1 = true := (lineKept_lineRead grp line bad s).1 h

/-! ### A write of a line -/

/-- A line accepts nothing; or the bytes written, over what the merge starts from when they are fewer than 64. -/
theorem lineStore_cases (line o : Nat) (data : Bytes) (poison : Bool) (s : State) :
    lineStore line o data poison s = s ∨ ∃ u, (u = s ∨ u = mergeSource line s) ∧
      MemKept { u with mem := tblSetRun 0#8 u.mem (64 * line + o) data } (lineStore line o data poison s) := by
  unfold lineStore
  extract_lets pl full s1 s2 s3 s4 d5 s5
  split
  · exact .inl rfl
  · refine .inr ⟨s1, ?_, ?_⟩
    · show ite _ _ _ = s ∨ ite _ _ _ = mergeSource line s
      split
      · exact .inl rfl
      · exact .inr rfl
    · have h4 : MemKept s3 s4 := by
        show MemKept s3 (ite _ _ _)
        split
        · exact memKept_setPoison line s3
        · split
          · exact memKept_clearPoison line s3
          · exact .rfl' s3
      have h5 : MemKept s4 s5 := by
        show MemKept s4 (ite _ _ _)
        split
        · exact memKept_dram s4 _
        · exact .rfl' s4
      exact (memKept_clearErrs line s2).trans ((h4.trans h5).trans (memKept_injectWrite _ _ s5))

/-- A client's write to a line changes no other line. -/
theorem lineKept_lineWrite (line o : Nat) (data : Bytes) (poison : Bool) (s : State) (ho : o + data.length ≤ 64) :
    LineKept line s (lineWrite line o data poison s) := by
  unfold lineWrite
  split
  · exact (memKept_incSat s _ 1).line line
  · extract_lets d1 s1
    refine LineKept.trans (((memKept_dram s _).trans (memKept_writeAccess (placeOf s1 line)
      (decide (data.length = 64)) s1)).line line) ?_
    rcases lineStore_cases line o data poison (writeAccess (placeOf s1 line) (decide (data.length = 64)) s1) with
      k | ⟨u, hu, k⟩
    · rw [k]; exact (MemKept.rfl' _).line line
    · refine LineKept.trans ?_ ((lineKept_store line o data u ho).trans (k.line line))
      rcases hu with rfl | rfl
      · exact (MemKept.rfl' _).line line
      · exact lineKept_mergeSource line _

/-- A client's write to a line that stores no wrong symbol leaves the bytes of memory as they were, or stores the bytes
written. -/
theorem lineWrite_cases (line o : Nat) (data : Bytes) (poison : Bool) (s : State) (he : tblGet 0 s.dram.errs line = 0) :
    MemKept s (lineWrite line o data poison s) ∨
      MemKept { s with mem := tblSetRun 0#8 s.mem (64 * line + o) data } (lineWrite line o data poison s) := by
  unfold lineWrite
  split
  · exact .inl (memKept_incSat s _ 1)
  · extract_lets d1 s1
    let s2 := writeAccess (placeOf s1 line) (decide (data.length = 64)) s1
    have h : MemKept s s2 := (memKept_dram s _).trans (memKept_writeAccess _ _ s1)
    have h2 : tblGet 0 s2.dram.errs line = 0 := by rw [errs_writeAccess]; exact he
    rcases lineStore_cases line o data poison s2 with k | ⟨u, hu, k⟩
    · exact .inl (k ▸ h)
    · have hu : u = s2 := hu.elim id fun h => h.trans (mergeSource_clean h2)
      subst hu
      exact .inr ⟨k.1.trans (by simp only [h.1]), fun hs => k.2 (h.2 hs)⟩

theorem wf_lineWrite (line o : Nat) (data : Bytes) (poison : Bool) {s : State} (h : Memory.wf s = true) :
    Memory.wf (lineWrite line o data poison s) = true := by
  unfold lineWrite
  split
  · exact (memKept_incSat s _ 1).wf h
  · extract_lets d1 s1
    have h2 := ((memKept_dram s d1).trans (memKept_writeAccess (placeOf s1 line) (decide (data.length = 64)) s1)).wf h
    rcases lineStore_cases line o data poison (writeAccess (placeOf s1 line) (decide (data.length = 64)) s1) with
      k | ⟨u, hu, k⟩
    · rw [k]; exact h2
    · refine k.wf (wf_store _ _ ?_)
      rcases hu with rfl | rfl
      · exact h2
      · exact (lineKept_mergeSource line _).1 h2

theorem wf_linesRead (grp k line : Nat) {s : State} (h : Memory.wf s = true) :
    Memory.wf (linesRead grp k line s).1 = true := by
  induction k generalizing line s with
  | zero => exact h
  | succ k ih => exact ih _ (wf_lineRead grp line 0 h)

theorem wf_memRead (grp a n : Nat) {s : State} (h : Memory.wf s = true) : Memory.wf (memRead grp a n s).1 = true :=
  wf_linesRead _ _ _ h

theorem wf_linesWrite (poison : Bool) (k a : Nat) (data : Bytes) {s : State} (h : Memory.wf s = true) :
    Memory.wf (linesWrite poison k a data s) = true := by
  induction k generalizing a data s with
  | zero => exact h
  | succ k ih => exact ih _ _ (wf_lineWrite _ _ _ poison h)

theorem wf_memWrite (a : Nat) (data : Bytes) (poison : Bool) {s : State} (h : Memory.wf s = true) :
    Memory.wf (memWrite a data poison s) = true := wf_linesWrite _ _ _ _ h

theorem memKept_rejectWrite (s : State) (grp a n : Nat) : MemKept s (rejectWrite s grp a n) := by
  unfold rejectWrite
  split
  · exact .rfl' s
  · exact memKept_incSat s _ 1
  · exact memKept_incSat s _ 1

theorem wf_clientLines (grp : Nat) (poison : Bool) (k a : Nat) (data : Bytes) {s : State} (h : Memory.wf s = true) :
    Memory.wf (clientLines grp poison k a data s) = true := by
  induction k generalizing a data s with
  | zero => exact h
  | succ k ih =>
    refine ih _ _ ?_
    split
    · exact wf_lineWrite _ _ _ poison h
    · exact (memKept_rejectWrite s _ _ _).wf h

theorem wf_clientWrite (grp a : Nat) (data : Bytes) (poison : Bool) {s : State} (h : Memory.wf s = true) :
    Memory.wf (clientWrite grp a data poison s) = true := wf_clientLines _ _ _ _ _ h

theorem wf_setSpan (n : Nat) (e : Span) {s : State} (h : Memory.wf s = true) : Memory.wf (setSpan n e s) = true :=
  wf_clientWrite _ _ _ _ h

/-! ### A write is read back -/

/-- A write within a line that stores no wrong symbol, if it changes memory, leaves the bytes written where they stand; every
other byte is as before (R308, R327). -/
theorem lineWrite_byte (line o : Nat) (data : Bytes) (poison : Bool) (s : State) (k : Nat)
    (he : tblGet 0 s.dram.errs line = 0) :
    tblGet 0#8 (lineWrite line o data poison s).mem k =
      if (64 * line + o ≤ k ∧ k < 64 * line + o + data.length) ∧ (lineWrite line o data poison s).mem ≠ s.mem then
        data.getD (k - (64 * line + o)) 0#8 else tblGet 0#8 s.mem k := by
  by_cases hm : (lineWrite line o data poison s).mem = s.mem
  · rw [if_neg (fun h => h.2 hm), hm]
  · have key : (lineWrite line o data poison s).mem = tblSetRun 0#8 s.mem (64 * line + o) data := by
      rcases lineWrite_cases line o data poison s he with h | h
      · exact absurd h.1 hm
      · exact h.1
    rw [key, tblGet_setRun]
    have hm' : tblSetRun 0#8 s.mem (64 * line + o) data ≠ s.mem := key ▸ hm
    by_cases hk : 64 * line + o ≤ k ∧ k < 64 * line + o + data.length
    · rw [if_pos hk, if_pos ⟨hk, hm'⟩]
    · rw [if_neg hk, if_neg fun h => hk h.1]

end Sys2Proof.Machine
end

