-- ==== Sys2Proof/Machine/HostRead.lean ====
section
/-! DEFINITION. What the host reads: the registers that show a selected entry (R99, R163, R219), 32-bit and 64-bit reads
of BAR0 (R9, R586), and configuration space (R402, R403, R409). The table has no row for a read of a plain
register: it changes nothing. -/

namespace Sys2Proof.Machine

/-! ### BAR0 -/

/-- The register at `off` as a read returns it: the entry that a select register picks, a SCAN_LUT entry by
SCAN_CTRL.LUT_CUR, and the copies of the shadow set in force 0x800 above it. With no image in force the span table has no
place, and REEL_SPAN_VIEW reads 0 (DESIGN CHOICE, log 124). -/
def readReg (s : State) (off : Nat) : Nat :=
  if 0x100108 ≤ off ∧ off < 0x100128 then
    if s.img.isNone then 0 else leNat (tblGetRun 0#8 s.mem (spanAt s (fld s Reg.REEL_SPAN_SEL_SPAN) + (off - 0x100108)) 8)
  else if off = Reg.RMAP_AGING_GAIN then
    let z := fld s Reg.RMAP_AGING_SEL_ZONE
    agingGain s z 0 + agingGain s z 1 * 2 ^ 16 + agingGain s z 2 * 2 ^ 32
  else if off = Reg.RMAP_AGING_CH then agingUnits s (fld s Reg.RMAP_AGING_SEL_ZONE)
  else if 0x304000 ≤ off ∧ off < 0x310000 ∧ flag s Reg.SCAN_CTRL_LUT_CUR then (forceReg s off).toNat
  else if 0x300800 ≤ off ∧ off < 0x301000 then (if isShadow (off - 0x800) then (forceReg s (off - 0x800)).toNat else 0)
  else (reg s off).toNat

/-- A 32-bit word of the MSI-X table. -/
def msixWord (s : State) (off : Nat) : Nat :=
  let e := tblGet ({} : MsixEntry) s.msix ((off - 0x2000) / 16)
  match off % 16 with
  | 0 => e.addr % 2 ^ 32
  | 4 => e.addr / 2 ^ 32
  | 8 => e.data
  | _ => b2n e.masked

/-- A 32-bit word of the MSI-X pending bit array. -/
def pbaWord (s : State) (off : Nat) : Nat :=
  s.pba.foldl (fun v n => if n / 32 = (off - 0x3000) / 4 then v + 2 ^ (n % 32) else v) 0

/-- A 32-bit read; an offset that holds no register reads 0 (R9). -/
def read32 (s : State) (off : Nat) : Nat :=
  if 0x1000 ≤ off ∧ off < 0x2000 then cxlWord s off
  else if 0x2000 ≤ off ∧ off < 0x2400 then msixWord s off
  else if 0x3000 ≤ off ∧ off < 0x3008 then pbaWord s off
  else match readMap off with
  | some _ => readReg s off % 2 ^ 32
  | none =>
    if off % 8 ≠ 4 then 0 else
    match readMap (off - 4) with
    | some d => if d.wide then readReg s (off - 4) / 2 ^ 32 else 0
    | none => 0

/-- A read of BAR0. A 64-bit read returns both halves, each as a 32-bit read of its offset returns it, from one
state (R11, R586). -/
def barRead (s : State) (off : Nat) (wide : Bool) : Nat :=
  read32 s off + (if wide then read32 s (off + 4) * 2 ^ 32 else 0)

/-! ### Configuration space (R402, R403) -/

/-- A memory BAR (R403): its size, whether it is 64 bits wide, whether it is prefetchable. -/
structure Bar where
  size : Nat
  wide : Bool
  prefetchable : Bool
deriving DecidableEq, Repr

/-- What configuration space holds in a link mode. -/
structure ConfigSpace where
  vendor : Nat
  device : Nat
  classCode : Nat
  /-- The PCI Express capability with function-level reset, AER, MSI-X and its vectors. -/
  flr : Bool
  /-- The AER capability's registers: its words in order. -/
  aer : List Nat
  /-- MSI-X: vectors, enable, function mask. -/
  msix : Nat × Bool × Bool
  /-- The CXL DVSEC for devices: Mem_Capable, Cache_Capable, HDM_Count where the spec gives it; the sizes of
  Range 1 and Range 2 in mode 2 (R409). -/
  cxlDvsec : Option (Nat × Nat × Option Nat × List Nat)
  /-- The Register Locator DVSEC: BAR and offset of the component register block (R407). -/
  locator : Option (Nat × Nat)
  /-- BAR0, and BAR2 where it exists. -/
  bar0 : Bar
  bar2 : Option Bar
deriving DecidableEq, Repr

/-- A word of the AER capability (log 20). -/
def aerWord (s : State) (o : Nat) : Nat :=
  match tblGet 0 s.cfg.aer o with
  | 0 => Config.aerReset o % 2 ^ 32
  | v + 1 => v

/-- Size that DVSEC Range `j + 1` reports in mode 2 (R409). -/
def dvsecSize (s : State) (j : Nat) : Nat := ((hdmRun s j).map fun r => r.2 - r.1).getD 0

/-- Configuration space in the mode in force. -/
def configSpace (s : State) : ConfigSpace :=
  let m := fld s Reg.HOST_LINK_MODE
  let cxl := decide (m = 1 ∨ m = 2)
  { vendor := 0x1E5A, device := 0x0192, classCode := 0x038000, flr := true,
    aer := (List.range 11).map fun i => aerWord s (4 * i), msix := (64, s.cfg.msixEnable, s.cfg.msixMask),
    cxlDvsec := if cxl then some (1, 0, if m = 1 then some 2 else none, if m = 2 then [dvsecSize s 0, dvsecSize s 1] else [])
      else none,
    locator := if cxl then some (0, 0) else none,
    bar0 := ⟨0x400000, true, false⟩, bar2 := if m = 3 then some ⟨bar2Size, true, true⟩ else none }

end Sys2Proof.Machine
end

