-- ==== Sys2Proof/Tests/Slice0.lean ====
section
/-! SUPPORT. Small tests: the spec's worked examples, an ill-formed command for each check of `Instr.wf`, and
for the obligations concrete states and operands that meet their hypotheses, with the clause's own conclusion
where it is small to evaluate. Each test is one step on a small state. -/

namespace Sys2Proof.Tests

set_option Elab.async false

open Machine

/-! ### Helpers -/

/-- The machine at power-on with the lamplighter moved and fields written. -/
def base (l : Lamp) (fs : List (Fld × Nat)) : State := fs.foldl (fun s p => setFld s p.1 p.2) (setLamp State.reset l)

/-- The command completes, and its next state satisfies `p`. -/
def runs (c : Instr) (s : State) (p : State → Bool) : Bool :=
  match exec c s with
  | .next t => p t
  | _ => false

/-- A decidable form of `settled` for a state with no activation and no orderly dark. -/
def settledB (s : State) : Bool :=
  s.act.isNone && s.orderly.isNone && !s.scan.halted && !lensDue s && !lightDue s && !s.vrmFailed

theorem settled_of_settledB {s : State} (h : settledB s = true) : s.settled := by
  simp only [settledB, Bool.and_eq_true, Bool.not_eq_true', Option.isNone_iff_eq_none] at h
  exact State.settled_of_none h.1.1.1.1.1 h.1.1.1.1.2 h.1.1.1.2 h.1.1.2 h.1.2 h.2

/-- Such a state with no follow-up has nothing left to settle and is calm. -/
theorem quiet {s : State} (h : settledB s = true) (k : s.followUps = []) : s.settled ∧ s.calm :=
  ⟨settled_of_settledB h, State.calm_of_nil k⟩

/-- A decidable form of `sound`. -/
def soundB (s : State) (a n : Nat) : Bool :=
  (List.range (n / 64 + 2)).all fun i =>
    let line := a / 64 + i
    !decide (64 * line < a + n) || (decide (64 * line < capacity s ∧ tblGet 0 s.dram.errs line = 0 ∧
      rankDead s (placeOf s line).ch (physRank s (placeOf s line).ch (placeOf s line).rank) = false ∧
      rankDead s (placeOf s line).ch (servingRank s (placeOf s line)) = false))

theorem sound_of_soundB {s : State} {a n : Nat} (h : soundB s a n = true) : sound s a n := by
  intro line hl hn
  have hi : line - a / 64 < n / 64 + 2 := by omega
  have := List.all_eq_true.mp h (line - a / 64) (List.mem_range.mpr hi)
  rw [show a / 64 + (line - a / 64) = line by omega] at this
  simpa [hn] using this

theorem clean_of_soundB {s : State} {a n : Nat} (h : soundB s a n = true) (hp : s.poison = []) : clean s a n :=
  ⟨sound_of_soundB h, fun line _ _ => by simp [linePoisoned, hp]⟩

/-- In a partition at 0 that grants the client's group, with no lease, the client may write all of the range. -/
theorem mayWrite_of {s : State} {grp a n : Nat} (hf : partFlag s 0 (grantBit grp) = true) (hb : partBase s 0 = 0)
    (hn : a + n ≤ partSize s 0) (hl : ((List.range 16).all fun e => decide (leaseLen s e = 0)) = true) : mayWrite s grp a n := by
  intro b m h1 h2 h3 _
  have hp : inParts s (grantBit grp) b m = true := by
    have hr : List.range 16 = 0 :: (List.range 16).tail := rfl
    have h0 : (partFlag s 0 (grantBit grp) && decide (partBase s 0 ≤ b) && decide (b < partBase s 0 + partSize s 0)) = true := by
      simp [hf, hb]; omega
    rw [inParts, inPartsF, if_neg (by omega), hr, List.find?_cons, h0]
    simp only [hb]
    rw [Nat.min_eq_left (by omega), Nat.sub_self]
    simp [inPartsF]
  have hz : leaseHit s b m = none := by
    simp only [leaseHit, List.findSome?_eq_none_iff]
    intro e he
    have := List.all_eq_true.mp hl e he
    simp only [decide_eq_true_eq] at this
    simp [this]
  simp [writeCheck, hp, hz]

/-- On one channel, whose injection is not armed, no error waits to be injected. -/
theorem noInject_of {s : State} (hn : nch s = 1) (h : flag s (Reg.DMC_INJECT_ARM 0) = false) : noInject s := by
  intro line
  simpa [placeOf, dramMap, hn, Nat.mod_one] using h

/-- No error waits at any unit, the lens driver's among them. -/
theorem lensUnits_of_nil {s : State} (h : s.followUps = []) : s.lensUnits := by
  intro c _
  simp [fuUnit, h, tblGet]

/-- Outputs of the clock synthesizer run: the PLL and the output of each. -/
def clocked (os : List (Nat × Nat)) (s : State) : State := 
  { s with clk := { s.clk with force := s.clk.force ++ os.map fun o => (Reg.CLK_OUT o.1 o.2, 0x10001) } }

/-- Bytes of a number and zeros behind it. -/
def pad (n : Nat) (b : Bytes) : Bytes := (b ++ List.replicate n 0#8).take n

/-- Descriptor: opcode, flags, TAG 7, the body from byte 4, zeros behind. -/
def desc (op flags : Nat) (body : Bytes) : Bytes := pad 64 (natLe op 1 ++ natLe flags 1 ++ natLe 7 2 ++ body)

/-- `d` in front of ring 0, with the link up in CXL mode. -/
def front (d : Bytes) (s : State) : State :=
  setFld (setRing s 0 { ring s 0 with taken := [d] }) Reg.HOST_LINK_MODE 1

/-! ### The spec's own numbers -/

/-- R249: the CRC24 of the digits 1 to 9 is 0x21CF02. -/
theorem test_crc24_check : crc24 ((List.range 9).map fun i => BitVec.ofNat 8 (49 + i)) = 0x21CF02 := by decide +kernel

/-- The ROW_START of the worked example after R237: row 9,000 of W77, frame 432,005, UNI_BANK 1. -/
theorem test_row_start_payload : rowStartBlock 9000 432005 77 1 0 0 = 0x00014D9785232810 := by decide +kernel

/-- The worked example after R274: RAIL_FAULT DATA0 of rail 2, kind 3, 680 units. -/
theorem test_rail_fault_capture : packCap [(8, 2), (8, 3), (16, 680)] = 0x02A80302 := by decide +kernel

/-- The worked example before R436: counter 1,000,449 asks for the mark 1,000,960. -/
theorem test_mark_for : markFor 1000449 = 1000960 := by decide +kernel

/-- The worked example after R38: period 8,333,333 1/3 ns, T0 and K0 0; tick 5 is at 41,666,667 ns. -/
theorem test_tick_time : tickTime (base .readyDark [(⟨Reg.TIME_TICK_PERIOD_CUR, 63, 0⟩, 0x007F281555555555)]) 5 = 41666667 := by
  decide +kernel

/-- RH-1's head: GEOMETRY and ZONES sections behind an empty header. -/
def headRh1 : Bytes :=
  List.replicate 64 0#8 ++ natLe 0x10 2 ++ natLe 0 2 ++ natLe 56 4 ++
  (natLe 36864 4 ++ natLe 18432 4 ++ natLe 0x3D5D2F1B 4 ++ natLe 0x3D5D2F1B 4 ++ [0#8, 12#8, 9#8, 0#8] ++
    natLe 0x3F8A3D71 4 ++ natLe 0x3F8A3D71 4 ++ (List.replicate 7 (natLe 0x3F800000 4)).flatten) ++
  natLe 0x11 2 ++ natLe 0 2 ++ natLe 4 4 ++ (natLe 1152 2 ++ natLe 384 2)

def sRh1 : State :=
  { base .lit (((List.range 8).map fun i => (Reg.RMAP_ZONE_LEVEL_LEVEL 102 i, 7))) with img := some headRh1 }

/-- The worked example after R143: lenslet, zone and texel coordinates of emitter G of pixel (18,437, 9,220). -/
theorem test_ray : (lensletA sRh1 18437 9220, lensletB sRh1 9220, lensZone sRh1 18437 9220) = (1536, 1024, 816) ∧
    recAddr sRh1 18437 9220 = 25178112 := by decide +kernel

/-! ### Small states -/

/-- 1 MiB of device memory on one DDR4 channel, one partition with every grant, the link in CXL mode 1. -/
def memFlds : List (Fld × Nat) :=
  [(Reg.MFB_STAT_TYPE, 1), (Reg.MFB_STAT_NCH, 1), (Reg.MFB_CAPACITY_BYTES, 0x100000), (Reg.MFB_PART_INFO_SIZE 0, 0x100000),
    (Reg.MFB_PART_INFO_FLAGS 0, 63), (Reg.HOST_LINK_MODE, 1), (Reg.DMC_RANKMAP_VALID 0 0, 1), (Reg.DMC_RANKSTATE_STATE 0 0, 1)]

/-- A state with memory, and the population that step 7 found. -/
def withMem (l : Lamp) (fs : List (Fld × Nat)) : State :=
  let s := base l (memFlds ++ fs)
  { s with dram := { s.dram with pop := some ⟨1, 1, 1, 1, 8, 2400, 17, false, []⟩ } }

/-! ### Authenticated commands: a key of zeros in slot 0, every command permitted, counter 1 -/

def key0 : Bytes := List.replicate 32 0#8

/-- A descriptor with AUTH, slot 0 and counter 1, under `key0`. -/
def sealed (op : Nat) (body : Bytes) : Bytes :=
  let d := natLe op 1 ++ natLe 4 1 ++ natLe 7 2 ++ pad 36 body ++ natLe 1 8
  d ++ (hmac key0 d).take 16

def withKey (s : State) : State :=
  { [(Reg.CMD_KEY_STAT_SET 0, 1), (Reg.CMD_KEY_STAT_PERMIT 0, 0x1FFF), (Reg.CMD_KEY_MARK_MARK 0, 256)].foldl (fun s p => setFld s p.1 p.2) s with
    keys := [(0, key0)] }

/-- The sealed descriptor in front of ring 0. -/
def sealedFront (op : Nat) (body : Bytes) (s : State) : State := front (sealed op body) (withKey s)

/-- An image whose MEMMAP puts the span table at 0x40000. -/
def reelImg : Bytes := List.replicate 64 0#8 ++ natLe 0x30 2 ++ natLe 0 2 ++ natLe 280 4 ++ List.replicate 272 0#8 ++ natLe 0x40000 8

/-- A reel store of 16 units at 0x10000; span 3 is units 2 to 9, all filled, its header place at the cursor's. -/
def sReel (play : Nat) : State :=
  setSpan 3 ⟨2, 8, 8, 0, 3, 0⟩ { withMem .lit [(Reg.REEL_BASE_BASE, 0x10000), (Reg.REEL_SIZE_SIZE, 0x10000), (Reg.REEL_STATE_STATE, play),
    (Reg.REEL_CURSOR_SPAN, 3)] with img := some reelImg }

/-- An image with a LENS section of zeros. -/
def lensImg : Bytes := List.replicate 64 0#8 ++ natLe 0x61 2 ++ natLe 0 2 ++ natLe 56 4 ++ List.replicate 56 0#8

/-- A LENS section whose entry 0 of band 0 drives AMP 3 for 2 ms and AMP 5 for 4 ms. -/
def waveImg : Bytes := List.replicate 64 0#8 ++ natLe 0x61 2 ++ natLe 0 2 ++ natLe 56 4 ++ List.replicate 48 0#8 ++
  natLe 0x0203 2 ++ natLe 0x0405 2 ++ List.replicate 4 0#8

/-! ### Well-formedness: each check refuses a command out of range, and passes one at its boundary -/

/-- Results of a start-up step, all as they should be. -/
def infoOk : StartInfo :=
  { pllLocked := 0xFF#8, vrmFail := none, pop := ⟨2, 8, 2, 4, 64, 4800, 65537, false, []⟩, trainFail := [], marginFail := [], serials := [],
    vlcdOk := true, lensTemps := [], recoverFail := [], railFail := none, chainHead := false }

theorem test_wf_boundary : ([.startupStepDone infoOk, .linkUp 3 5 8, .linkUp 4 1 1, .hdmDecoderCommit 1 0 0 0 1, .vinWarn 65535, .tbSecRead 3,
    .nop 7, .compareArm 7 0, .lantClr 49, .dmcClr 7, .retrain 23, .relockLate 191, .pllApply 7, .eventClear 3 0, .hzJobEnd 3,
    .fetchUnitLanded 0 0 (List.replicate 4096 0#8), .memReadReturn 7 [⟨0, 49, 0, none⟩, ⟨5, 1, 0, none⟩] 0, .requestPromote 4095, .adaptFreeze 31,
    .status 23 0x80, .freqChangeDone 6 [(7, 3)], .refreshDue 7 3 true, .ceWindowEnd 7 3,
    .ctrain 1 3 [], .cstat 1 0x61, .delayReq 1 3 0 0, .delayResp 3 0 0 0, .bcast 0 (List.replicate 80 0#8), .ptpIgnoredMessage 1,
    .refLoss 3, .railFault 3 4 0, .vrmRampTimeout 7 0, .lensOvercurrent 111, .nvmPatrolRead 2,
    .thermalSample (List.replicate 16 0), .bar0BadAccess 2 4 true] : List Instr).all Instr.wf = true := by decide +kernel

theorem test_wf_refuses : ([.startupStepDone { infoOk with vrmFail := some (8, 1) }, .startupStepDone { infoOk with vrmFail := some (0, 5) },
    .startupStepDone { infoOk with pop := ⟨3, 8, 2, 4, 64, 4800, 65537, false, []⟩ },
    .startupStepDone { infoOk with pop := ⟨2, 9, 2, 4, 64, 4800, 65537, false, []⟩ },
    .startupStepDone { infoOk with pop := ⟨2, 8, 3, 4, 64, 4800, 65537, false, []⟩ },
    .startupStepDone { infoOk with pop := ⟨2, 8, 2, 5, 64, 4800, 65537, false, []⟩ },
    .startupStepDone { infoOk with trainFail := [(8, 0, 0)] }, .startupStepDone { infoOk with recoverFail := [(16, none)] },
    .startupStepDone { infoOk with railFail := some 3 }, .linkUp 0 5 8, .linkUp 1 6 8, .linkUp 1 2 8, .linkUp 1 5 3,
    .hdmDecoderCommit 2 0 0 0 1, .vinRecover 65536, .tbSecRead 4, .snuff 8, .timeCompare 8, .spareJoin 50, .hammerWindowEnd 8,
    .tableAck 24 0x82, .tableAck 0 0x80, .status 0 0x81, .laneOrder 0 0x80, .lensTemp 0 0x82, .addrOffer 0x61, .tableAckTimeout 192,
    .adaptFreeze 32, .freqChangeDone 7 [], .freqChangeDone 1 [(0, 4)], .memReadReturn 0 [⟨0, 50, 0, none⟩] 0, .overshootCheck 8 0, .eventClear 4 0, .hzJobEnd 4,
    .fetchUnitLanded 0 0 (List.replicate 4097 0#8), .arbStarve 4096, .requestPromote 4096, .refreshDue 8 0 false, .refreshDue 0 4 false,
    .scrubRead 0 4 0 0, .ctrain 2 0 [], .ctrain 0 4 [], .cstat 2 0x61, .cstat 0 0x60, .chainLaneFail 0 4, .delayResp 4 0 0 0,
    .bcast 0 (List.replicate 79 0#8), .syncTimeout 2, .refReturn 4 0, .railPowerGood 4 0, .railFault 0 0 0, .railFault 0 5 0,
    .vrmRampTimeout 8 0, .lensOvercurrent 112, .nvmPatrolRead 3, .thermalSample (List.replicate 15 0), .bar0BadAccess 8 8 true]
    : List Instr).all (fun c => !c.wf) = true := by decide +kernel

/-! ### Obligations: the machine as a whole -/

theorem wit_EmptyQueueLetsTimePass : State.reset.pending = [] ∧
    (match step (base .lit []) with | .next t => decide (t.ns = 2) | _ => false) = true := by decide +kernel

/-- A canonical state whose step answers a next state. -/
theorem wit_EveryStepKeepsCanonicalForm : (base .lit [(Reg.GEN_STATE_TEST, 1)]).canonical = true ∧
    (match step { base .lit [(Reg.GEN_STATE_TEST, 1)] with pending := [.tick] } with | .next t => t.canonical | _ => false) = true := by
  decide +kernel

theorem crcRefl_append (p : Nat) (a b : Bytes) : ∀ v, crcRefl p v (a ++ b) = crcRefl p (crcRefl p v a) b := by
  induction a with
  | nil => intro v; rfl
  | cons x t ih => intro v; exact ih _

/-- The identity page of the state at power-on: its CRC-32C, over pieces of its 252 bytes (R494). -/
theorem test_identity_page : nvmBytes State.reset 0 252 = (nvmBytes State.reset 0 42 ++ ((List.replicate 42 0#8 ++ List.replicate 42 0#8) ++
      (List.replicate 42 0#8 ++ List.replicate 42 0#8)) ++ List.replicate 42 0#8) ∧
    leNat (nvmBytes State.reset 252 4) = crc32c (nvmBytes State.reset 0 252) := by
  have hb : nvmBytes State.reset 0 252 = (nvmBytes State.reset 0 42 ++ ((List.replicate 42 0#8 ++ List.replicate 42 0#8) ++
      (List.replicate 42 0#8 ++ List.replicate 42 0#8)) ++ List.replicate 42 0#8) := by decide +kernel
  have h1 : crcRefl 0x82F63B78 0xFFFFFFFF (nvmBytes State.reset 0 42) = 0xe233d884 := by decide +kernel
  have h2 : crcRefl 0x82F63B78 0xe233d884 (List.replicate 42 0#8) = 0xda06b96c := by decide +kernel
  have h3 : crcRefl 0x82F63B78 0xda06b96c (List.replicate 42 0#8) = 0x83ea2acd := by decide +kernel
  have h4 : crcRefl 0x82F63B78 0x83ea2acd (List.replicate 42 0#8) = 0x47bd1b4b := by decide +kernel
  have h5 : crcRefl 0x82F63B78 0x47bd1b4b (List.replicate 42 0#8) = 0x878c5c64 := by decide +kernel
  have h6 : crcRefl 0x82F63B78 0x878c5c64 (List.replicate 42 0#8) = 0xda6bea07 := by decide +kernel
  refine ⟨hb, ?_⟩
  rw [hb, crc32c, crcRefl_append, crcRefl_append, crcRefl_append, crcRefl_append, crcRefl_append, h1, h2, h3, h4, h5, h6]
  decide +kernel

/-- An activation that has begun, in HOUSEKEEPING, is settled; the step that leaves HOUSEKEEPING settles it. -/
def sActing (l : Lamp) : State := { base l [] with act := some ⟨[], 1, {}, 0, 0, false, true, true⟩ }

theorem wit_EveryStepSettlesActivations : (sActing .housekeeping).settled ∧
    runs .vinLoss (sActing .housekeeping) (fun t => decide (t.act = none)) = true ∧
    runs (.nop 0) (sActing .hostWait) (fun t => decide (t.act = none)) = true := by
  refine ⟨⟨?_, .inl rfl, rfl, by decide +kernel, by decide +kernel, .inl rfl⟩, by decide +kernel, by decide +kernel⟩
  intro a _ _
  decide +kernel

/-- Common 15's unit runs a follow-up and three wait, of every cause; an overcurrent of the common merges. -/
def sLensUnits : State :=
  { base .lit [] with followUps := [(unitKey unitLens 15, ⟨some ⟨evLensFault, 2⟩, [⟨evLensFault, 2⟩, ⟨evLensFault, 3⟩, ⟨evLensFault, 4⟩]⟩)],
                      lens := { (base .lit []).lens with phase := .wave 15 0 } }

theorem wit_LensUnitsNeverEscalate : sLensUnits.lensUnits ∧
    runs (.lensOvercurrent 0) sLensUnits (fun t => decide ((fuUnit t unitLens 15).waiting.length = 3 ∧ lamp t = .lit)) = true := by
  refine ⟨?_, by decide +kernel⟩
  intro c hc
  interval_cases c <;> simp [sLensUnits, fuUnit, unitKey, unitLens, tblGet]

/-- The ends of the CXL.cachemem range are written like any other register. -/
theorem wit_NoCommandIsRefused : runs (.registerWrite 0x1000 false 0) (base .lit []) (fun _ => true) = true ∧
    runs (.registerWrite 0x1FFC false 0) (base .lit []) (fun _ => true) = true := by decide +kernel

/-- One command of each family with operands in range, from a settled state. -/
theorem wit_Frames : (base .lit []).settled ∧
    ([(.vinWarn 900, .power), (.tbSecRead 0, .host), (.peakClr, .write), (.nop 0, .ring), (.tick, .picture),
      (.hammerWindowEnd 0, .memory), (.statusTimeout 0, .lanes), (.refLoss 0, .clocks), (.nvmPatrolRead 0, .panel),
      (.snuffNLow, .health)] : List (Instr × Family)).all
      (fun p => decide (p.1.family = p.2) && p.1.wf && runs p.1 (base .lit []) (fun _ => true)) = true :=
  ⟨(quiet (by decide +kernel) rfl).1, by decide +kernel⟩

/-! ### Counts, events and vectors -/

/-- Counts of a lantern, a channel and the engines at 3, cleared at the highest lantern and channel. -/
theorem wit_ClearBitsZeroTheirCounts :
    (base .lit []).settled ∧
    runs (.lantClr 49) (base .lit [(Reg.LANT_ROWTIME_PEAK 49, 3)]) (fun t => decide (fld t (Reg.LANT_ROWTIME_PEAK 49) = 0)) = true ∧
    runs (.dmcClr 7) (base .lit [(Reg.DMC_ECC_CE_COUNT 7 3, 3)]) (fun t => decide (fld t (Reg.DMC_ECC_CE_COUNT 7 3) = 0)) = true ∧
    runs .peakClr (base .lit [(Reg.STR_BUDGET_LOAD_PEAK 3, 3)]) (fun t => decide (fld t (Reg.STR_BUDGET_LOAD_PEAK 3) = 0)) = true ∧
    runs .mfbClr (base .lit [(Reg.MFB_STARVE_COUNT, 3)]) (fun t => decide (fld t Reg.MFB_STARVE_COUNT = 0)) = true :=
  ⟨(quiet (by decide +kernel) rfl).1, by decide +kernel⟩

/-- Source 191, in the highest bit of word 2, cleared; its neighbour 190 stays. -/
def sEvents : State := recordEvent 191 5 false (recordEvent 190 6 false (base .lit []))

theorem wit_EventClearClearsTheRecord : sEvents.settled ∧
    runs (.eventClear 2 (BitVec.ofNat 64 (2 ^ 63))) sEvents (fun t => decide (fld t (emberFld 191) = 0 ∧
      fld t (Reg.MGMT_EV_CNT_COUNT 191) = 0 ∧ fld t (emberFld 190) = 1 ∧ fld t (Reg.MGMT_EV_CNT_COUNT 190) = 1)) = true :=
  ⟨(quiet (by decide +kernel) rfl).1, by decide +kernel⟩

/-- The first occurrence, a second, and one at COUNT 0xFFFF. -/
theorem wit_AnOccurrenceIsRecorded :
    decide (let t := recordEvent 255 9 false (base .lit []); fld t (Reg.MGMT_EV_CNT_COUNT 255) = 1 ∧
      (reg t (Reg.MGMT_EV_DATA 255 0)).toNat = 9 ∧ fld t (Reg.MGMT_EV_CNT_OVF 255) = 0) = true ∧
    decide (let t := recordEvent 255 8 false (recordEvent 255 9 false (base .lit [])); fld t (Reg.MGMT_EV_CNT_COUNT 255) = 2 ∧
      (reg t (Reg.MGMT_EV_DATA 255 0)).toNat = 9) = true ∧
    decide (let t := recordEvent 0 8 false (base .lit [(Reg.MGMT_EV_CNT_COUNT 0, 0xFFFF)]); fld t (Reg.MGMT_EV_CNT_COUNT 0) = 0xFFFF ∧
      fld t (Reg.MGMT_EV_CNT_OVF 0) = 1) = true := by decide +kernel

/-- Vector 63 sent and late, acknowledged: one message goes out, SENT stays; unmasked in the table, MSI-X enabled. -/
def sVec : State :=
  { setReg (setReg (base .lit []) Reg.HOST_VEC_SENT (BitVec.ofNat 64 (2 ^ 63 + 1))) Reg.HOST_VEC_LATE (BitVec.ofNat 64 (2 ^ 63)) with
    msix := [(63, ⟨0, 0, false⟩)] }

theorem wit_VectorsAcknowledgeOneByOne : sVec.settled ∧
    runs (.hostVecAck (BitVec.ofNat 64 (2 ^ 63 + 1))) sVec (fun t => decide (.msix 63 ∈ t.out ∧
      reg t Reg.HOST_VEC_SENT = BitVec.ofNat 64 (2 ^ 63) ∧ reg t Reg.HOST_VEC_LATE = 0)) = true ∧
    sVec.cfg.msixEnable = true ∧
    decide ((vecOccur 5 sVec).out = [] ∧ 5 ∈ (vecOccur 5 sVec).pba ∧ bitOf (reg (vecOccur 5 sVec) Reg.HOST_VEC_SENT).toNat 5 = true) = true ∧
    (let s := { sVec with msix := [(5, ⟨0, 0, false⟩)] };
      decide ((vecOccur 5 s).out = [.msix 5]) = true ∧
      decide ((vecOccur 5 { s with cfg := { s.cfg with msixMask := true } }).out = [] ∧ 5 ∈ (vecOccur 5 { s with cfg := { s.cfg with msixMask := true } }).pba) = true ∧
      decide ((vecOccur 5 { s with cfg := { s.cfg with msixEnable := false } }).out = [] ∧ (vecOccur 5 { s with cfg := { s.cfg with msixEnable := false } }).pba = []) = true) :=
  ⟨(quiet (by decide +kernel) rfl).1, by decide +kernel⟩

/-! ### Rings -/

/-- Ring 7 of 16 descriptors, running, head 14 and tail 15, in an HDM partition at 0; one descriptor NOP at 14. -/
def sRing : State :=
  { withMem .readyDark [(Reg.CMD_RING_CFG_SIZE 7, 4), (Reg.CMD_RING_CFG_CQ_SIZE 7, 4), (Reg.CMD_RING_STAT_STATE 7, 1),
      (Reg.CMD_RING_CTRL_EN 7, 1), (Reg.CMD_RING_PTR_HEAD 7, 14), (Reg.CMD_RING_PTR_TAIL 7, 15)] with
    mem := [(896, 1#8)] }

theorem wit_DoorbellMovesTheTail : (sRing.settled ∧ sRing.calm) ∧
    (ringRuns sRing 7 = true ∧ runs (.cmdRingDb 7 13) sRing (fun t => decide (fld t (Reg.CMD_RING_PTR_TAIL 7) = 13)) = true) ∧
    runs (.cmdRingDb 7 16) sRing (fun t => decide (fld t (Reg.CMD_RING_STAT_ERR 7) = 2)) = true ∧
    runs (.cmdRingDb 7 14) sRing (fun t => decide (fld t (Reg.CMD_RING_STAT_ERR 7) = 2)) = true ∧
    (ringRuns sRing 0 = false ∧ runs (.cmdRingDb 0 1) sRing (fun t => decide (t.regs = sRing.regs)) = true) ∧
    takeable (setFld sRing (Reg.CMD_RING_PTR_HEAD 7) 15) 7 = false :=
  ⟨quiet (by decide +kernel) rfl, by decide +kernel⟩

theorem wit_RingsStartStopAndReset : sRing.settled ∧
    (let s := setFld (setFld sRing (Reg.CMD_RING_STAT_STATE 7) 0) (Reg.CMD_RING_CFG_SIZE 7) 0; ringOk s 7 = false ∧
      runs (.ringEnable 7) s (fun t => decide (fld t (Reg.CMD_RING_STAT_STATE 7) = 2 ∧ fld t (Reg.CMD_RING_STAT_ERR 7) = 1) &&
        flag t (emberFld evCmdRingErr)) = true) ∧
    (let s := setFld sRing (Reg.CMD_RING_STAT_STATE 7) 0; ringRuns s 7 = false ∧ ringOk s 7 = true ∧
      runs (.ringEnable 7) s (fun t => ringRuns t 7) = true ∧
      runs (.ringReset 7) s (fun t => decide (fld t (Reg.CMD_RING_PTR_HEAD 7) = 0 ∧ fld t (Reg.CMD_CQ_PTR_PHASE 7) = 1)) = true) ∧
    runs (.ringDisable 7) sRing (fun t => decide (fld t (Reg.CMD_RING_STAT_STATE 7) = 0)) = true ∧
    runs (.cqHeadWrite 7 4095) sRing (fun t => decide (fld t (Reg.CMD_CQ_PTR_HEAD 7) = 4095)) = true ∧
    (ringOrder sRing).find? (takeable sRing) = some 7 ∧
    (memRead grpHost (fld sRing (Reg.CMD_RING_BASE_BASE 7) + 64 * 14) 64 (fresh sRing)).2 = (pad 64 [1#8], false) ∧
    runs .descriptorTake sRing (fun t => decide ((ring t 7).taken = [pad 64 [1#8]] ∧ t.rrRing = 7 ∧ fld t (Reg.CMD_RING_PTR_HEAD 7) = 15)) = true :=
  ⟨(quiet (by decide +kernel) rfl).1, by decide +kernel⟩

/-! ### Power, resets and the host link -/

theorem wit_PowerCommandsMoveTheLamplighter :
    lamp State.reset = .off ∧ (lamp (base .lit []) ≠ .off ∧ (base .lit []).followUps = []) ∧
    runs .vinLoss (base .lit []) (fun t => decide (lamp t = .off)) = true := by decide +kernel

theorem wit_FunctionLevelResetStopsTheRings : sRing.settled ∧ lamp sRing ≠ .off ∧
    runs .functionLevelReset sRing (fun t => decide (fld t (Reg.CMD_RING_STAT_STATE 7) = 0 ∧ fld t (Reg.CMD_RING_PTR_TAIL 7) = 0 ∧
      t.flr = 1 ∧ t.mem = sRing.mem)) = true := ⟨(quiet (by decide +kernel) rfl).1, by decide +kernel⟩

theorem wit_StartUpStepsFollowOneAnother :
    ([(2, 3), (10, 11), (11, 12), (12, 13)] : List (Nat × Nat)).all (fun p =>
      let s := base .housekeeping [(Reg.STR_STAT_STEP, p.1)]
      settledB s && decide (s.wantLight = false) && decide (lamp s = .housekeeping ∧ s.orderly = none ∧ s.act = none ∧ groupsTrained s = true) &&
      runs (.startupStepDone infoOk) s (fun t => decide (fld t Reg.STR_STAT_STEP = p.2))) = true := by decide +kernel

/-- HOUSEKEEPING at a start-up step. -/
def sStart (n : Nat) (fs : List (Fld × Nat)) : State := base .housekeeping ((Reg.STR_STAT_STEP, n) :: fs)
def atStep (n : Nat) (t : State) : Bool := decide (lamp t = .housekeeping ∧ fld t Reg.STR_STAT_STEP = n)

/-- A write of a page of the store runs. -/
def writing (page : Nat) (s : State) : State := { s with nvmRun := some ⟨page, 0, [], 0, .flush⟩ }

theorem wit_StartUpSteps2To4 : ((sStart 3 []).settled ∧ (sStart 3 []).calm) ∧
    (writesIn (writing 319 (sStart 2 [])) 64 320 = true ∧ runs (.startupStepDone infoOk) (writing 319 (sStart 2 [])) (atStep 2) = true) ∧
    (let s := sStart 3 [(Reg.CLK_PLL_STAT_STATE 5, 1), (Reg.CLK_PLL_STAT_STATE 7, 1)]; pllState s 5 = 1 ∧ s.clk.timedOut.contains 5 = false ∧
      runs (.startupStepDone infoOk) s (atStep 4) = true ∧
      runs (.startupStepDone { infoOk with pllLocked := 0xDF }) s (fun t => decide (lamp t = .darkFault)) = true) ∧
    (runs (.startupStepDone { infoOk with vrmFail := some (7, 4) }) (sStart 4 []) (fun t => decide (vrmState t 7 = 4 ∧ lamp t = .darkFault) && pathHolds t 8) = true ∧
      writesIn (writing 1535 (sStart 4 [])) 1024 1536 = true ∧ runs (.startupStepDone infoOk) (writing 1535 (sStart 4 [])) (atStep 4) = true ∧
      (List.range 8).all (fun r => !vrmPresent (sStart 4 []) r) = true ∧ runs (.startupStepDone infoOk) (sStart 4 []) (atStep 7) = true) :=
  ⟨quiet (by decide +kernel) rfl, by decide +kernel⟩

/-- Step 7 with one channel, its rank's state `v`. -/
def sTrained (v : Nat) : State :=
  let s := withMem .housekeeping [(Reg.STR_STAT_STEP, 7), (Reg.DMC_RANKSTATE_STATE 0 0, v)]
  { s with dram := { s.dram with setUp := true } }

/-- Step 8 with VLCD in use, ramping. -/
def sVlcd : State := { sStart 8 [(Reg.RAIL_STAT_USE, 8)] with rails := [(3, .ramping)] }

/-- Step 9 with rail 2 in use, ramping. -/
def sRamping : State := { sStart 9 [(Reg.RAIL_STAT_USE, 4)] with rails := [(2, .ramping)] }

theorem wit_StartUpSteps7To10 : ((sTrained 1).settled ∧ (sTrained 1).calm) ∧
    (settledB (sVlcd) = true ∧ settledB sRamping = true ∧ (sTrained 1).dram.pop.isSome = true ∧ (sTrained 1).dram.freqHeld = none ∧ (sTrained 1).cand = none ∧ (sTrained 1).dram.spare = false) ∧
    (nch (sTrained 0) = 1 ∧ channelTrained (sTrained 0) 0 = false ∧
      runs (.startupStepDone infoOk) (sTrained 0) (fun t => decide (lamp t = .darkFault)) = true) ∧
    channelTrained (sTrained 1) 0 = true ∧
    (runs (.startupStepDone infoOk) { sStart 8 [] with lensRun := some ⟨8176, 0, [], 0, .lensDone 0⟩ } (atStep 8) = true ∧
      railInUse (sStart 8 []) 3 = false ∧ (sStart 8 []).lensRun = none ∧
      railInUse sVlcd 3 = true ∧ railPhase sVlcd 3 = .ramping ∧ sVlcd.railFaulted = false) ∧
    (emittersUp (sStart 9 []) = true ∧ runs (.startupStepDone infoOk) (sStart 9 []) (atStep 10) = true ∧
      emittersUp sRamping = false ∧ runs (.startupStepDone infoOk) sRamping (atStep 9) = true ∧
      runs (.startupStepDone { infoOk with railFail := some 2 }) sRamping (fun t => decide (lamp t = .hostWait ∧ fld t Reg.STR_STAT_WHY = 2 ∧
        fld t Reg.STR_STAT_FAIL_STEP = 9) && flag t (emberFld evRailFault) && pathHolds t 3) = true) ∧
    (let s := sStart 10 [(Reg.WLN_GCFG_GEN 23, 1), (Reg.WLN_GSTAT_STATE 23, 1)]; groupsTrained s = false ∧
      runs (.startupStepDone infoOk) s (atStep 10) = true) :=
  ⟨quiet (by decide +kernel) rfl, by decide +kernel⟩

/-- Sixteen short pulses of RESET_N within the last 10 ms. -/
def sPulses : State := { base .lit [] with inputs := [(inReset, { edges := List.replicate 16 0 })] }

theorem wit_SupplyAndResetInputs : (sPulses.settled ∧ sPulses.calm) ∧ lamp sPulses ≠ .off ∧
    runs (.vinWarn 65535) sPulses (fun t => decide (fld t Reg.RAIL_VIN_MV = 65535 ∧ pathHolds t 4 = true)) = true ∧
    runs (.vinRecover 9000) sPulses (fun t => decide (fld t Reg.RAIL_VIN_MV = 9000 ∧ t.snuff.vinHigh = true)) = true ∧
    inputQuiet sPulses inReset = true ∧ 16 < (recentEdges sPulses inReset 10000000).length ∧
    runs .resetNShortPulse sPulses (fun t => flag t (emberFld evInputFault)) = true ∧
    runs .resetNStuck sPulses (fun t => (inputOf t inReset).held && flag t (emberFld evInputFault)) = true :=
  ⟨quiet (by decide +kernel) rfl, by decide +kernel⟩

theorem wit_TheLinkGoesUpAndDown : (base .lit []).settled ∧
    (let s := { base .lit [(Reg.STR_STAT_STEP, 5)] with linkLost := true };
      (Instr.linkUp 3 5 8).wf = true ∧ fld s Reg.HOST_LINK_MODE = 0 ∧ linkMode 3 = 1 ∧ linkRuns 1 5 8 = true ∧
      runs (.linkUp 3 5 8) s (fun t => decide (fld t Reg.HOST_LINK_MODE = 1 ∧ fld t Reg.HOST_LINK_SPEED = 5 ∧ fld t Reg.HOST_LINK_WIDTH = 8) && flag t (emberFld evCxlLink)) = true) ∧
    (fld (withMem .lit []) Reg.HOST_LINK_MODE ≠ 0 ∧
      runs .linkDown (withMem .lit []) (fun t => decide (fld t Reg.HOST_LINK_MODE = 0) && flag t (emberFld evCxlLink)) = true) :=
  ⟨(quiet (by decide +kernel) rfl).1, by decide +kernel⟩

/-- A decoder maps host addresses from 0x4000 to device memory from 0x80; the last line of memory is the end. -/
def sHdm : State := { withMem .lit [] with hdm := [(0, ⟨0x4000, 0x1000, 0x80, true, false, 0x80, 1⟩)], mem := [(0x80, 5#8)] }

def sAper : State := setFld (setFld sHdm Reg.HOST_LINK_MODE 3) Reg.HOST_APER_BASE 0xFFF80

theorem wit_HostMemoryAccesses : (sHdm.settled ∧ sAper.settled) ∧ (sound sHdm 0x80 3 ∧ sound sAper 0xFFFC0 64) ∧
    cxlMem sHdm = true ∧ hostMap sHdm 0x4000 3 = some 0x80 ∧
    runs (.hostMemWrite 0x4000 [1#8, 2#8, 3#8] false) sHdm (fun t => decide (t.mem = [(0x80, 1#8), (0x81, 2#8), (0x82, 3#8)])) = true ∧
    linePoisoned sHdm 2 = false ∧
    runs (.hostMemRead 0x4000 2) sHdm (fun t => decide (t.out = [.hostData [5#8, 0#8] false])) = true ∧
    fld sAper Reg.HOST_LINK_MODE = 3 ∧ inHdm sAper 0xFFFC0 64 = true ∧ 0xFFFC0 + 64 ≤ capacity sAper ∧ 0x40 + 64 ≤ bar2Size ∧
    runs (.apertureAccess 0x40 (.write (List.replicate 64 7#8) false)) sAper (fun t => decide (tblGet 0#8 t.mem 0xFFFFF = 7#8)) = true ∧
    linePoisoned sAper 0x3FFF = false ∧
    runs (.apertureAccess 0x40 (.read 64)) sAper (fun t => decide (t.out = [.hostData (List.replicate 64 0#8) false])) = true :=
  ⟨⟨(quiet (by decide +kernel) rfl).1, (quiet (by decide +kernel) rfl).1⟩,
    ⟨sound_of_soundB (by decide +kernel), sound_of_soundB (by decide +kernel)⟩, by decide +kernel⟩

theorem wit_HostPortWrites : ((withMem .lit []).settled ∧ (withMem .lit []).calm) ∧
    (let s := withMem .lit [];
      fld s Reg.HOST_LINK_MODE = 1 ∧ inParts s 0 0x80 0x100000 = false ∧ inParts s 0 0x80 0xFFF80 = true ∧ 0x80 + 0xFFF80 ≤ capacity s ∧
      runs (.hdmDecoderCommit 0 0x4000 0xFFF80 0x80 1) s (fun t => decide (tblGet {} t.hdm 0 = ⟨0x4000, 0xFFF80, 0x80, true, false, 0x80, 1⟩)) = true ∧
      (let s := setFld s Reg.HOST_LINK_MODE 2; hdmRun s 0 = some (0, 0x100000) ∧
        runs (.hdmDecoderCommit 0 0x4000 0 0 1) s (fun t => decide (hostRange t 0 = some (0x4000, 0x100000, 0))) = true) ∧
      (Instr.bar0BadAccess 6 4 false).wf = true ∧
      runs (.bar0BadAccess 6 4 false) s (fun t => decide (fld t Reg.HOST_ERR_CNT_ACCESS = 1 ∧ .hostData (List.replicate 4 0#8) false ∈ t.out)) = true ∧
      ringRuns s 7 = false ∧
      runs (.registerWrite (Reg.CMD_RING_BASE 7) true 0x12345000) s (fun t => decide (fld t (Reg.CMD_RING_BASE_BASE 7) = 0x12345000)) = true ∧
      runs (.tbSecRead 3) s (fun t => decide (fld t (Reg.TIME_TB_NS_NS 3) = totalOf s 3 % 1000000000)) = true) :=
  ⟨quiet (by decide +kernel) rfl, by decide +kernel⟩

/-- R11's worked example, on CMD_RING_BASE of ring 0. -/
theorem wit_TwoHalvesWriteAsOne : (base .lit []).settled ∧
    (findReg (Reg.CMD_RING_BASE 0)).any (fun d => d.wide) = true ∧ Reg.CMD_RING_BASE 0 % 8 = 0 ∧
    (let s := base .lit [];
      (match exec (.registerWrite (Reg.CMD_RING_BASE 0) false 0x1000) s with
        | .next t => decide (t.held = some (Reg.CMD_RING_BASE 0, 0x1000) ∧ t.regs = s.regs) &&
            runs (.registerWrite (Reg.CMD_RING_BASE 0 + 4) false 2) t (fun u => decide (reg u (Reg.CMD_RING_BASE 0) = 0x200001000)) &&
            runs (.registerWrite (Reg.CMD_RING_CFG 0) false 4) t (fun u => decide (u.held = none)) &&
            runs (.registerWrite 0x1000 false 4) t (fun u => decide (u.held = none)) &&
            runs (.registerWrite 0x23FC false 4) t (fun u => decide (u.held = none))
        | _ => false) = true ∧
      (findReg (Reg.CMD_RING_CFG 0)).any (fun d => !d.wide) = true) :=
  ⟨(quiet (by decide +kernel) rfl).1, by decide +kernel⟩

/-! ### Time and clocks -/

theorem wit_TimeWritesTakeEffect : (base .readyDark []).settled ∧
    (let s := base .readyDark [(Reg.TIME_TB0_SET_SEC_SEC, 3), (Reg.TIME_CMP_TARGET_TARGET 7, 100)];
      isDark s = true ∧ runs (.timeSelWrite 3) s (fun t => decide (selBase t = 3)) = true ∧
      runs (.timeT0Write 77) s (fun t => decide (reg t Reg.TIME_TICK_T0 = 77)) = true ∧
      runs (.tb3SrcWrite 2) s (fun t => decide (tb3Src t = 2)) = true ∧
      (drivesTicks s 0 && isLit s) = false ∧
      runs (.tb0StepWrite 5) s (fun t => decide (totalOf t 0 = 3000000005) && flag t (emberFld evTimeStep)) = true ∧
      flag s (Reg.TIME_CMP_CFG_EN 7) = false ∧
      decide (0 < sdiff 64 (countOf s 0) (cmpTarget s 7)) = false ∧
      runs (.compareArm 7 1) s (fun t => flag t (Reg.TIME_CMP_CFG_EN 7)) = true) ∧
    (let s := base .lit [(Reg.TIME_CMP_TARGET_TARGET 0, 2 ^ 64 - 1)];
      decide (0 < sdiff 64 (countOf s 0) (cmpTarget s 0)) = true ∧
      runs (.compareArm 0 1) s (fun t => flag t (Reg.TIME_CMP_CFG_LATE 0) && flag t (emberFld evTimeCompare)) = true) ∧
    (let s := base .lit [(Reg.TIME_CMP_CFG_EN 0, 1)];
      runs (.timeCompare 0) s (fun t => flag t (emberFld evTimeCompare) && !flag t (Reg.TIME_CMP_CFG_EN 0)) = true) ∧
    runs .handoverEnd (setHandD (base .lit []) 9) (fun t => decide (handD t = 0)) = true :=
  ⟨(quiet (by decide +kernel) rfl).1, by decide +kernel⟩

/-- The PTP client of both domains runs, with master 5 selected, P2P delays and request 9 awaited. -/
def sPtp : State :=
  let s := clocked [(5, 4)] (base .lit [(Reg.CLK_PLL_STAT_STATE 5, 2), (Reg.TIME_PTP_CFG_P2P 1, 1), (Reg.TIME_PTP_PORT_IPV4, 0x0A000001)])
  setPtp s 1 { sel := some 5, asked := some 9, wait := some (5, 8, 1000, 0), masters := [⟨5, ⟨5, 5, 0, 0, 0, 0, 0, 0⟩, 2⟩] }

theorem wit_TimeBasesFollowTheirReferences : sPtp.settled ∧ ptpRuns sPtp = true ∧ (ptpOf sPtp 1).sel = some 5 ∧
    runs (.ptpSync 1 ⟨5, 8, true, 0, 0, 300⟩) sPtp (fun t => decide ((ptpOf t 1).wait = some (5, 8, rxStamp sPtp 300, 0))) = true ∧
    (ptpOf sPtp 1).wait = some (5, 8, 1000, 0) ∧
    runs (.announce 1 ⟨6, 6, 1, 1, 1, 1, 1, 254⟩) sPtp (fun t => (ptpOf t 1).masters.any fun f => decide (f.master = 6)) = true ∧
    ((ptpOf sPtp 1).asked = some 9 ∧ flag sPtp (Reg.TIME_PTP_CFG_P2P 1) = true ∧
      runs (.ptpDelayResp 1 ⟨5, 9, 100, 300, 0⟩) sPtp (fun t => decide ((ptpOf t 1).mpd = 100 * 65536 ∧ (ptpOf t 1).asked = none)) = true) ∧
    runs (.ptpIgnoredMessage 1) sPtp (fun t => decide (fld t (Reg.TIME_PTP_CNT_BAD 1) = 1)) = true ∧
    runs (.arpRequest 0x0A000001) sPtp (fun t => decide (t.out = [.arp 0x0A000001])) = true ∧
    runs (.ptpPdelayReq 1 6 3 10 40) sPtp (fun t => decide (t.out.length = 1)) = true ∧
    runs (.ptpDelayReqTimer 1) sPtp (fun t => decide ((ptpOf t 1).asked = some 1 ∧ .ptp 1 ptpPdelayReqKind 1 0 ∈ t.out)) = true ∧
    runs (.announceReceiptTimeout 1) sPtp (fun t => decide (fld t (Reg.TIME_PTP_CNT_TIMEOUT 1) = 1 ∧ (ptpOf t 1).masters = [])) = true ∧
    (let s := setFld sPtp (Reg.TIME_TB_STAT_STATE 2) 2;
      tbState s 2 = tbLocked ∧ runs (.syncTimeout 1) s (fun t => decide (tbState t 2 = tbFree)) = true ∧
      runs (.syncTimeout 1) { s with time := { s.time with locked := [2] } } (fun t => decide (tbState t 2 = tbHoldover)) = true) :=
  ⟨(quiet (by decide +kernel) rfl).1, by decide +kernel⟩

/-- SYNC_IN with a period of 10 ms: one qualified edge at 0, now 10 ms later. -/
def sSync : State :=
  let s := base .lit [(Reg.TIME_SYNC_PERIOD, 10000000)]
  { s with ns := 10000000, time := { s.time with syncGood := some 0 } }

theorem wit_SyncInIsQualified : (sSync.settled ∧ sSync.calm) ∧ lamp sSync ≠ .off ∧ sSync.time.syncBad = none ∧
    onPeriod sSync 0 sSync.ns = true ∧ (recentEdges sSync inSync (syncPeriod sSync)).length ≤ 2 ∧
    runs .syncInEdge sSync (fun t => decide (t.time.syncGood = some 10000000 ∧ t.time.syncPrev.head? = some 10000000)) = true ∧
    inputQuiet sSync inSync = true ∧
    runs .syncLoss sSync (fun t => decide (t.time.syncGood = none) && flag t (emberFld evInputFault)) = true :=
  ⟨quiet (by decide +kernel) rfl, by decide +kernel⟩

/-- PLLs 5 and 7 locking with MULT 24, three good windows each; LREFCLK and XTAL present; lit. -/
def sPll (l : Lamp) : State :=
  let s := base l [(Reg.CLK_PLL_STAT_STATE 5, 1), (Reg.CLK_PLL_STAT_STATE 7, 1), (Reg.CLK_PLL_STAT_STATE 0, 2),
    (Reg.CLK_PLL_STAT_GATED 7, 1), (Reg.CLK_REF_STAT_PRESENT, 3)]
  { s with clk := { s.clk with force := [(Reg.CLK_PLL_MULT 7, 24 * 2 ^ 22)], good := [(5, 3), (7, 3)] } }

theorem wit_ClocksLockAndRelock : ((sPll .lit).settled ∧ (sPll .lit).calm) ∧
    runs (.pllApply 7) (sPll .readyDark) (fun t => decide (pllState t 7 = 1) && flag t (Reg.CLK_PLL_STAT_GATED 7)) = true ∧
    (pllState (sPll .lit) 7 = 1 ∧ devWithin (deviation (sPll .lit) 7 24576) 100 = true ∧ tblGet 0 (sPll .lit).clk.good 7 = 3 ∧
      runs (.lockWindowEnd 7 24576) (sPll .lit) (fun t => decide (pllState t 7 = 2) && !flag t (Reg.CLK_PLL_STAT_GATED 7)) = true) ∧
    (64 * pllMult (sPll .lit) 7 * pllSteer (sPll .lit) 7 * 102 < 1567 * 2 ^ 62 * 100 ∧
      runs (.overshootCheck 7 1567) (sPll .lit) (fun t => decide (fld t (Reg.CLK_PLL_CNT_OVERSHOOT 7) = 1)) = true) ∧
    runs (.pllLockTimeout 7) (sPll .lit) (fun t => flag t (emberFld evPllLock)) = true ∧
    runs (.pllLockTimeout 5) (sPll .lit) (fun t => flag t (emberFld evPllLock)) = true ∧
    runs (.pllLockTimeout 5) (sPll .housekeeping) (fun t => decide (lamp t = .darkFault)) = true ∧
    runs (.refLoss 1) (sPll .lit) (fun t => decide (fld t Reg.CLK_REF_STAT_PRESENT = 1 ∧ pllState t 0 = 3)) = true ∧
    runs (.refReturn 3 (-5)) (sPll .lit) (fun t => decide (fld t Reg.CLK_REF_STAT_PRESENT = 11) && flag t (emberFld evPllRefReturn)) = true ∧
    runs (.refPpmCheck (-32768)) (sPll .lit) (fun t => decide (sfld t Reg.CLK_REF_STAT_PPM = -32768) && flag t (emberFld evClkMon)) = true ∧
    runs (.refPpmCheck 2000) (sPll .lit) (fun t => decide (sfld t Reg.CLK_REF_STAT_PPM = 2000) && !flag t (emberFld evClkMon)) = true :=
  ⟨quiet (by decide +kernel) rfl, by decide +kernel⟩

/-! ### The chain -/

/-- A receiver in lock that has heard 64 valid blocks; one a block short of lock; one a block short of inverting. -/
def heardRx : Receiver := { headers := List.replicate 64 true, lock := true }
def nearRx : Receiver := { headers := List.replicate 63 true }
def turnRx : Receiver := { heardRx with run := 31 }

/-- A member of the chain with both ports up: UP input 3 shows lane 3 and fails with another lane good; offers pass. -/
def sChain : State :=
  let s := base .lit [(Reg.CHN_CFG_ROLE, 1), (Reg.CHN_PORT_STAT_STATE 0, 2), (Reg.CHN_PORT_STAT_STATE 1, 2),
    (Reg.CHN_PORT_STAT_GOOD 0, 15), (Reg.CHN_PORT_STAT_GOOD 1, 3), (Reg.CHN_PORT_STAT_WIDTH 1, 2), (Reg.CHN_STAT_ADDR, 3), (Reg.CHN_STAT_OFFER_RX, 3), (Reg.HOST_LINK_MODE, 1)]
  clocked ((List.range 8).map fun o => (4, o))
    { s with chain := { s.chain with ports := [(0, { seen := [(0, 5), (3, 8)], partner := 15 }), (1, { rx := [(3, heardRx)] })], delays := [(3, ⟨9, 255, 7⟩)] } }

def sFailed : State := setPort sChain 0 { portOf sChain 0 with failed := [3] }

theorem wit_ChainLanesAndAddresses : sChain.settled ∧ sFailed.settled ∧ chainOn sChain = true ∧
    (let h : List RxBlock := [⟨2#2, BitVec.ofNat 64 (0x60 + 2 * 2 ^ 8 + 2 ^ 16)⟩];
      (hearAll chainType (tblGet {} (portOf sChain 1).rx 3) h).1.lock = true ∧ (hearAll chainType (tblGet {} (portOf sChain 1).rx 3) h).2 = h ∧
      runs (.ctrain 1 3 h) sChain (fun t => decide (tblGet 0 (portOf t 1).seen 3 = 7) && !bitOf (reg t (Reg.CHN_PORT_STAT 1)).toNat 19) = true) ∧
    runs (.cstat 1 (BitVec.ofNat 64 (0x61 + 9 * 2 ^ 8))) sChain (fun t => decide ((portOf t 1).partner = 9)) = true ∧
    ((inputFor (portOf sChain 0) 3).isSome = true ∧
      runs (.chainLaneFail 0 3) sChain (fun t => decide (fld t Reg.CHN_CNT_LANE_FAIL = 1) && (portOf t 0).failed.contains 3) = true) ∧
    ((portOf sFailed 0).failed.contains 3 = true ∧ (inputFor (portOf sFailed 0) 3).isSome = true ∧
      runs (.chainLaneReturn 0 3) sFailed (fun t => decide ((portOf t 0).failed = [])) = true) ∧
    (portUp sChain 0 = true ∧ isHead sChain = false ∧ sChain.chain.outcome ≠ offerOutcome sChain 4 ∧
      runs (.addrOffer (BitVec.ofNat 64 (0x62 + 4 * 2 ^ 8))) sChain (fun t => decide (fld t Reg.CHN_STAT_OFFER_RX = 4 ∧ fld t Reg.CHN_STAT_ADDR = 4) &&
        flag t (emberFld evChainAddr)) = true) ∧
    (portUp sChain 1 = true ∧ offerTx sChain ≠ 0 ∧ clockedLanes sChain 1 (usedLanes sChain 1) ≠ [] ∧
      runs .addrOfferTimer sChain (fun t => decide (.chain 1 (usedLanes sChain 1) 0x62 (0x62 + 4 * 2 ^ 8) [] ∈ t.out)) = true) ∧
    runs .cstatTimer sChain (fun t => decide (.chain 1 [0, 1, 2, 3] 0x61 (cstatBlock sChain 1) [] ∈ t.out)) = true ∧
    (let s := base .lit [(Reg.CHN_CFG_ROLE, 1)];
      isHead s = false ∧ s.chain.upSeen = false ∧ runs .chainHeadTimeout s (fun t => isHead t && decide (fld t Reg.CHN_STAT_ADDR = 1)) = true) ∧
    runs (.delayReq 1 3 255 5) sChain (fun t => decide (.chain 1 [3] 0x64 (0x64 + 255 * 2 ^ 8 + 5 * 2 ^ 16) [] ∈ t.out)) = true ∧
    ((tblGet {} sChain.chain.delays 3).count = 255 ∧
      runs (.delayResp 3 (BitVec.ofNat 64 (9 * 2 ^ 8 + 10 * 2 ^ 16)) 100 130) sChain (fun t =>
        decide ((tblGet {} t.chain.delays 3).count = 256 ∧ (tblGet {} t.chain.delays 3).sum = 27)) = true) ∧
    (bitOf (goodLanes sChain 0) 3 = true ∧
      runs .remeasure sChain (fun t => decide ((tblGet {} t.chain.delays 3).count = 0 ∧ .chain 0 [3] 0x63 0x63 [] ∈ t.out)) = true) :=
  ⟨(quiet (by decide +kernel) rfl).1, (quiet (by decide +kernel) rfl).1, by decide +kernel⟩

/-- A beacon of three zero words but for TICK_LO, with the CRC it should carry. -/
def beaconOk : BeaconMsg :=
  let c := BitVec.ofNat 64 (0x65 + 0x1234 * 2 ^ 8)
  let d := BitVec.ofNat 64 (5 * 2 ^ 56)
  ⟨c, d, BitVec.ofNat 64 (crc32c (natLe c.toNat 8 ++ natLe d.toNat 8 ++ natLe 0 4) * 2 ^ 32)⟩

def bcastData : Bytes := List.replicate 16 0#8 ++ desc 1 0 []

theorem wit_BeaconsAndBroadcasts : (sChain.settled ∧ sChain.calm) ∧ chainOn sChain = true ∧ portUp sChain 0 = true ∧
    (let m : BeaconMsg := ⟨0, 0, 0⟩; crc32c (natLe m.ctrl.toNat 8 ++ natLe m.data1.toNat 8 ++ natLe m.data2.toNat 4) ≠ bitsOf m.data2.toNat 32 32 ∧
      runs (.beacon m) sChain (fun t => decide (fld t Reg.CHN_CNT_MISSED = 1)) = true) ∧
    (isHead sChain = false ∧
      crc32c (natLe beaconOk.ctrl.toNat 8 ++ natLe beaconOk.data1.toNat 8 ++ natLe beaconOk.data2.toNat 4) = bitsOf beaconOk.data2.toNat 32 32) ∧
    runs .chainBeaconLoss sChain (fun t => flag t (emberFld evChainBeaconLoss)) = true ∧
    bcastData.length = 80 ∧
    (crc32c bcastData ≠ bitsOf 0 24 32 ∧ runs (.bcast 0 bcastData) sChain (fun t => decide (fld t Reg.CHN_CNT_BCAST_BAD = 1)) = true) ∧
    (let c := BitVec.ofNat 64 (0x66 + 9 * 2 ^ 8 + crc32c bcastData * 2 ^ 24); sChain.chain.copies = [] ∧
      bcastForMe sChain 9 = false ∧ runs (.bcast c bcastData) sChain (fun t => decide ((c, bcastData, 0) ∈ t.chain.copies ∧
        .chain 1 (usedLanes sChain 1) 0x66 c.toNat bcastData ∈ t.out)) = true) ∧
    (let h : Held := ⟨1, 2, 0, desc 1 0 [], none, false⟩; let s := { sChain with chain := { sChain.chain with held := [h] } };
      bcastDue s h = true ∧ runs .bcastExecute s (fun t => decide (t.chain.held = [] ∧ fld t Reg.CHN_CNT_BCAST = 1) && flag t (emberFld 230)) = true) :=
  ⟨quiet (by decide +kernel) rfl, by decide +kernel⟩

/-! ### Rails, regulators, lens and store -/

/-- Rail `i` in a phase, all four in use. -/
def sRail (l : Lamp) (i : Nat) (p : RailPhase) : State := { base l [(Reg.RAIL_STAT_USE, 15)] with rails := [(i, p)] }

theorem wit_RailsSequence : ((sRail .lit 3 .delay).settled ∧ (sRail .lit 3 .delay).calm) ∧
    runs (.railDelayExpire 3) (sRail .lit 3 .delay) (fun t => decide (railPhase t 3 = .ramping)) = true ∧
    (downTurn (sRail .lit 1 .downDelay) 1 = true ∧
      runs (.railDelayExpire 1) (sRail .lit 1 .downDelay) (fun t => decide (railPhase t 1 = .down)) = true) ∧
    runs (.railPowerGood 3 1250) (sRail .lit 3 .ramping) (fun t => decide (railPhase t 3 = .pgood)) = true ∧
    runs (.railRampDownDone 0) (sRail .lit 0 .down) (fun t => decide (railPhase t 0 = .off)) = true ∧
    (let s := sRail .readyDark 0 .off; isDark s = true ∧ fld s Reg.RAIL_STAT_SEQ = 0 ∧ railInUse s 3 = true ∧ railPhase s 3 = .off ∧
      s.wantLight = false ∧
      runs .railUp s (fun t => decide (fld t Reg.RAIL_STAT_SEQ = 1 ∧ fld t Reg.RAIL_CTRL_UP = 1 ∧ railPhase t 3 = .delay)) = true) ∧
    (let s := sRail .readyDark 3 .pgood; railPhase s 3 ≠ .off ∧ nextUp s = some 1 ∧
      runs .railUp s (fun t => decide (fld t Reg.RAIL_STAT_SEQ = 1 ∧ railPhase t 1 = .delay)) = true) ∧
    (let s := sRail .readyDark 2 .pgood; downOrder.find? (fun k => railUp s k && decide (railPhase s k ≠ .delay)) = some 2 ∧
      runs .railDown s (fun t => decide (fld t Reg.RAIL_STAT_SEQ = 2 ∧ fld t Reg.RAIL_CTRL_DOWN = 1 ∧ railPhase t 2 = .down)) = true) ∧
    (let s := sRail .lit 2 .pgood; s.railFaulted = false ∧ (railPhase s 2).good = true ∧ runs (.railFault 2 3 680) s (fun t => pathHolds t 3 &&
      decide (fld t (Reg.MGMT_EV_CNT_COUNT evRailFault) = 1 ∧ (reg t (Reg.MGMT_EV_DATA evRailFault 0)).toNat = 0x02A80302 ∧ lamp t = .snuffed)) = true) ∧
    runs (.railRampTimeout 0 (-5)) (sRail .lit 0 .ramping) (fun t => pathHolds t 3 && flag t (emberFld evRailFault) &&
      decide (railPhase t 0 ≠ .ramping)) = true :=
  ⟨quiet (by decide +kernel) rfl, by decide +kernel⟩

/-- Regulator 7 of 1,000 mV within 5 %, in a state; VIN is high. -/
def sVrm (v : Nat) : State :=
  let s := base .lit [(Reg.RAIL_VRM_STAT_STATE 7, v)]
  { s with vrms := List.replicate 7 [] ++ [pad 5 [] ++ [0x40#8, 1#8, 0#8] ++ natLe 1000 2 ++ [5#8]], vrmEn := true, snuff := { s.snuff with vinHigh := true } }

/-- Regulator 7 has failed, and VRM_EN is low or falls with the end of the ring entry's write. -/
def vrmGone (t : State) : Bool :=
  decide (vrmState t 7 = 4 ∧ lamp t = .darkFault) && pathHolds t 8 && (!t.vrmEn || t.vrmFailed && nvmHas t isRingWrite)

theorem wit_RegulatorsAreReadAndFail : (sVrm 2).settled ∧ lamp (sVrm 2) ≠ .off ∧
    runs (.vrmPoll 7 ⟨0x8600, 970, false, false, true⟩) (sVrm 2) (fun t => decide (fld t (Reg.RAIL_VRM_STAT_STATUS 7) = 0x8600 ∧ vrmState t 7 = 3)) = true ∧
    (vrmOutside (sVrm 3) 7 1050 = false ∧ vrmOutside (sVrm 3) 7 1051 = true ∧
      runs (.vrmPoll 7 ⟨0x0600, 1050, false, false, true⟩) (sVrm 3) (fun t => decide (vrmState t 7 = 3 ∧ fld t (Reg.RAIL_VRM_STAT_VOUT 7) = 1050)) = true ∧
      runs (.vrmPoll 7 ⟨0, 1051, false, false, true⟩) (sVrm 3) vrmGone = true ∧
      runs (.vrmPoll 7 ⟨0x8000, 1000, false, false, true⟩) (sVrm 3) vrmGone = true ∧
      runs (.vrmPoll 7 ⟨0, 1000, true, false, true⟩) (sVrm 3) vrmGone = true ∧
      runs (.vrmPoll 7 ⟨0, 0, false, true, true⟩) (sVrm 1) vrmGone = true) ∧
    runs (.vrmRampTimeout 7 0) (sVrm 2) vrmGone = true :=
  ⟨(quiet (by decide +kernel) rfl).1, by decide +kernel⟩

/-- A LENS section of zeros in force, VLCD power-good, common 15 OPEN; the driver in a phase. -/
def sLens (p : LensPhase) (w : Option NvmWhy) : State :=
  let s := base .lit [(lensState 15, 3)]
  let s := { s with img := some lensImg, rails := [(3, .pgood)], lens := { s.lens with phase := p, last := 14 } }
  { s with lensRun := w.map fun y => ⟨8176, 0, List.replicate 8 0#8, 0, y⟩ }

/-- Common 15 in its waveform, driven from level 0 to 0 through the entry of `waveImg`; `k` boundaries have passed. -/
def sWave (k : Nat) (w : Option NvmWhy) : State :=
  let s := sLens (.wave 15 k) w
  { s with img := some waveImg, lens := { s.lens with driving := List.replicate 96 0 } }

theorem wit_LensUpdatesStart : ((sLens .idle none).settled ∧ (sLens .idle none).calm) ∧
    (lensCanStart (sLens .idle none) = true ∧
      (lensOrder (sLens .idle none)).find? (fun c => decide (commonState (sLens .idle none) c = 1 ∨ commonState (sLens .idle none) c = 3)) = some 15 ∧
      runs .lensUpdateStart (sLens .idle none) (fun t => decide (commonState t 15 = 2 ∧ lensBusyWith t = some 15)) = true) ∧
    runs .vlcdSettled (sLens (.vlcd 15) none) (fun t => decide (t.lens.phase = .opening 15 ∧ t.lensRun ≠ none)) = true ∧
    runs .vlcdSettled (sLens (.vlcd 15) (some (.lensDeclare 3 2))) (fun t => decide (t.lens.phase = .ready 15)) = true ∧
    (let s := sLens (.opening 15) (some (.lensOpen 15)); railPhase s 3 = .pgood ∧ s.lens.forced = [] ∧ s.lens.forceJob = none ∧
      runs (.lensJournalOpenDone true) s (fun t => decide (t.lens.phase = .wave 15 0)) = true) ∧
    (hasLens (sLens .idle none) = true ∧ (sLens .idle none).lens.noTemp = false ∧
      runs .lensNoTemp (sLens .idle none) (fun t => t.lens.noTemp && flag t (emberFld evLensFault)) = true) :=
  ⟨quiet (by decide +kernel) rfl, by decide +kernel⟩

set_option maxRecDepth 100000 in
theorem wit_LensWaveforms : ((sWave 0 none).settled ∧ (sWave 0 none).calm) ∧
    (waveBounds (sWave 0 none) 15 = [2, 6] ∧ waveOver (sWave 0 none) 15 0 = false ∧ waveOver (sWave 1 none) 15 1 = true) ∧
    runs .lensPhaseEnd (sWave 0 none) (fun t => decide (t.lens.phase = .wave 15 1)) = true ∧
    (let s := sLens (.wave 15 0) none; let s := { s with lens := { s.lens with reset := true, driving := List.replicate 96 5 } };
      waveOver s 15 0 = true ∧ (s.lens.driving.all fun v => decide (v = 0)) = false ∧
      runs .lensWaveformEnd s (fun t => decide (t.lens.phase = .wave 15 0 ∧ t.lens.reset = false)) = true) ∧
    runs .lensWaveformEnd (sWave 1 none) (fun t => decide (t.lens.phase = .closing 15 ∧ fld t Reg.LENS_STAT_DRIVING = 0)) = true ∧
    runs .lensWaveformEnd (sWave 1 (some (.lensDeclare 3 2))) (fun t => decide (t.lens.phase = .ended 15)) = true ∧
    runs .lensWaveformEnd { sWave 1 none with restarting := true } (fun t => decide (t.lens.phase = .ended 15 ∧ t.lensRun = none)) = true ∧
    (let s := sWave 1 none;
      runs .lensWaveformEnd { s with snuff := { s.snuff with vinHigh := false } } (fun t => decide (t.lens.phase = .ended 15 ∧ t.lensRun = none)) = true) :=
  ⟨quiet (by decide +kernel) rfl, by decide +kernel⟩

theorem wit_LensUpdatesEnd : (sLens (.wave 15 1) none).settled ∧
    (let s := sLens (.closing 15) (some (.lensDone 15)); let s := { s with lens := { s.lens with driving := List.replicate 96 5 } };
      s.lens.driving.length = 96 ∧ runs (.lensJournalDoneComplete true) s (fun t =>
        decide (t.lens.phase = .idle ∧ fld t (lensLevel 1535) = 5) && flag t (emberFld evLensDone)) = true) ∧
    runs (.lensOvercurrent 111) (sLens (.wave 15 1) none) (fun t => decide (t.lens.phase = .idle ∧ commonState t 15 = 3) && flag t (emberFld evLensFault)) = true ∧
    (let s := sLens (.wave 15 1) none; runs (.lensOvercurrent 0) { s with lens := { s.lens with faults := [(15, 2)] } } (fun t => decide (commonState t 15 = 4)) = true) :=
  ⟨(quiet (by decide +kernel) rfl).1, by decide +kernel⟩

/-- A write of the main block runs, of eight bytes at 248 of a page; ring 0 answers. -/
def jobNvm : Job := { origin := .ring 0 0 0, tag := 9, opcode := 0x0C }
def sWrite (page : Nat) (y : NvmWhy) : State :=
  { base .lit [(Reg.HOST_LINK_MODE, 1)] with nvmRun := some ⟨page, 248, List.replicate 8 9#8, 0, y⟩ }

/-- The write's bytes stand in the array, and it is counted. -/
def written (page : Nat) (t : State) : Bool :=
  decide (fld t Reg.NVM_CNT_WRITES = 1 ∧ nvmBytes t (256 * page + 248) 8 = List.replicate 8 9#8)

theorem wit_StoreWritesEnd : (base .lit []).settled ∧
    runs (.nvmWriteDone false true) (sWrite 8111 .faultRing) (fun t => decide (t.nvmRun = none) && written 8111 t) = true ∧
    runs (.nvmWriteDone true true) { base .lit [] with lensRun := some ⟨8183, 248, List.replicate 8 9#8, 0, .lensRecover 3⟩ } (written 8183) = true ∧
    (let s := { base .lit [] with patrolGrp := 262143 }; pageBusy s 8191 = false ∧
      runs (.nvmPatrolRead 2) s (fun t => decide (t.patrolGrp = 0)) = true) ∧
    (let s := { base .lit [] with patrolGrp := 262143, lensRun := some ⟨8191, 248, List.replicate 8 9#8, 0, .faultRing⟩ }
     pageBusy s 8191 = true ∧ runs (.nvmPatrolRead 2) s (fun t => decide (t.patrolGrp = 262143)) = true) :=
  ⟨(quiet (by decide +kernel) rfl).1, by decide +kernel⟩

/-- The entry of a regulator failure, written in DARK_FAULT, takes VRM_EN low. -/
def sVrmFailed : State :=
  { base .darkFault [] with nvmRun := some ⟨8000, 248, List.replicate 8 9#8, 0, .faultRing⟩, vrmFailed := true, vrmEn := true }

theorem wit_FailedRegulatorsLoseTheirSupply : sVrmFailed.settled ∧
    runs (.nvmWriteDone false true) sVrmFailed (fun t => decide (t.nvmRun = none) && !t.vrmEn) = true :=
  ⟨⟨nofun, .inl rfl, rfl, by decide +kernel, by decide +kernel, .inr (by decide +kernel)⟩, by decide +kernel⟩

theorem wit_RecordWritesEnd : (sWrite 4095 (.host jobNvm)).settled ∧ jobOpen (sWrite 4095 (.host jobNvm)) jobNvm = true ∧
    runs (.nvmWriteDone false true) (sWrite 4095 (.host jobNvm)) (fun t => written 4095 t && completed 9 0x0C stOK 0 t) = true ∧
    runs (.nvmWriteDone false true) (sWrite 40 (.markHi 3 256)) (fun t => t.nvmRun.any fun w => decide (w.why = .markLo 3 256)) = true ∧
    runs (.nvmWriteDone false true) (sWrite 40 (.markLo 3 256)) (fun t => decide (fld t (Reg.CMD_KEY_MARK_MARK 3) = 256 ∧ fld t (Reg.CMD_KEY_STAT_BUSY 3) = 0)) = true ∧
    (let s := { sWrite 40 (.key 3) with keyPend := [⟨3, jobNvm, some key0, 5⟩] }; runs (.nvmWriteDone false true) s (fun t =>
      decide (tblGet [] t.keys 3 = key0 ∧ fld t (Reg.CMD_KEY_STAT_SET 3) = 1 ∧ fld t (Reg.CMD_KEY_MARK_MARK 3) = 0) && completed 9 0x0C stOK 0 t) = true) ∧
    runs (.nvmWriteDone false true) (sWrite 32 (.protection jobNvm true)) (completed 9 0x0C stOK 0) = true ∧
    runs (.nvmWriteDone false true) (sWrite 34 (.rail jobNvm)) (completed 9 0x0C stOK 0) = true ∧
    runs (.nvmWriteDone false true) (sWrite 38 (.pin jobNvm 7)) (completed 9 0x0C stOK 0) = true ∧
    runs (.nvmWriteDone false true) (sWrite 64 (.patch jobNvm ⟨64, 8, []⟩ 0)) (fun t => decide (⟨64, 8, []⟩ ∈ t.patches) && completed 9 0x0C stOK 0 t) = true ∧
    ([.protection jobNvm false, .rail jobNvm, .pin jobNvm 7] : List NvmWhy).all (fun y => runs (.nvmWriteDone false false) (sWrite 38 y) (fun t =>
      decide (nvmBytes t (256 * 38 + 248) 8 = List.replicate 8 0#8) && completed 9 0x0C stStoreFail 0 t)) = true :=
  ⟨(quiet (by decide +kernel) rfl).1, by decide +kernel⟩

/-! ### Wicks -/

/-- Group 23 in use, in a training state, its return lane locked, wick 191 relocking. -/
def sGroup (v a : Nat) : State :=
  base .readyDark [(Reg.WLN_GCFG_GEN 23, 1), (Reg.WLN_GSTAT_STATE 23, v), (Reg.WLN_GSTAT_RET_LOCK 23, 1), (Reg.WLN_GSTAT_ATTEMPT 23, a),
    (Reg.WLN_TRAIN_CFG_ATTEMPTS, 3), (Reg.WLN_W_STAT_STATE 191, 3), (Reg.SCAN_W_COLS_COUNT 191, 2)]

/-- The receiver of the return lane of group 23. -/
def withRx (r : Receiver) (s : State) : State := { s with wln := { s.wln with rx := [(23, r)] } }

theorem wit_WickGroupsTrainAndReport : ((sGroup 4 1).settled ∧ (sGroup 4 1).calm) ∧ isLit (sGroup 4 1) = false ∧ groupOn (sGroup 4 1) 23 = true ∧
    laneHears (sGroup 4 1) 23 = true ∧
    runs .wlnTrain (sGroup 4 2) (fun t => decide (groupState t 23 = 1 ∧ fld t (Reg.WLN_GSTAT_ATTEMPT 23) = 1) && flag t Reg.WLN_CTRL_TRAIN) = true ∧
    runs (.retrain 23) (sGroup 4 2) (fun t => decide (groupState t 23 = 1) && flag t (Reg.WLN_GCFG_RETRAIN 23)) = true ∧
    runs (.trainTimeout 23) (sGroup 3 2) (fun t => decide (groupState t 23 = 1 ∧ fld t (Reg.WLN_GSTAT_ATTEMPT 23) = 3)) = true ∧
    runs (.trainTimeout 23) (sGroup 1 3) (fun t => decide (groupState t 23 = 5)) = true ∧
    (let s := setFld (sGroup 4 1) (Reg.WLN_GSTAT_RET_LOCK 23) 0;
      ((hearAll returnType nearRx [⟨2#2, 0⟩]).1.lock = true ∧
        runs (.returnLaneLock 23 [⟨2#2, 0⟩]) (withRx nearRx s) (fun t => flag t (Reg.WLN_GSTAT_RET_LOCK 23) && !flag t (Reg.WLN_GSTAT_RET_INV 23)) = true) ∧
      ((hearAll returnType turnRx [⟨1#2, ~~~0#64⟩]).1.inv = true ∧
        runs (.returnLaneLock 23 [⟨1#2, ~~~0#64⟩]) (withRx turnRx s) (fun t => flag t (Reg.WLN_GSTAT_RET_INV 23)) = true)) ∧
    runs (.status 23 0xE080) (withRx { heardRx with first := true } (sGroup 4 1)) (fun t => decide (reg t (Reg.WLN_GSTATUS 23) = 0) &&
      !(tblGet {} t.wln.rx 23).first) = true ∧
    (tblGet {} (sGroup 4 1).wln.rx 23).first = false ∧
    runs (.status 23 0xE080) (sGroup 4 1) (fun t => decide (reg t (Reg.WLN_GSTATUS 23) = 0xE080)) = true ∧
    runs (.laneOrder 23 0xE181) (sGroup 4 1) (fun t => decide (reg t (Reg.WLN_GORDER 23) = 0xE181)) = true ∧
    runs (.lensTemp 23 0xE383) (sGroup 4 1) (fun t => decide (reg t (Reg.WLN_GLENS 23) = 0xE383)) = true ∧
    runs (.returnUnknownBlock 23) (sGroup 4 1) (fun t => decide (fld t (Reg.WLN_GCNT_UNKNOWN 23) = 1)) = true ∧
    runs (.adaptFreeze 23) (sGroup 4 1) (fun t => bitOf (reg t Reg.WLN_RX_FROZEN).toNat 23) = true ∧
    (tblGet 0 (portOf sChain 0).seen 3 ≠ 0 ∧ runs (.adaptFreeze 27) sChain (fun t => decide (3 ∈ (portOf t 0).frozen)) = true) ∧
    runs (.returnLaneLoss 23) (sGroup 4 1) (fun t => !flag t (Reg.WLN_GSTAT_RET_LOCK 23) && flag t (emberFld 184)) = true ∧
    runs (.statusTimeout 23) (sGroup 4 1) (fun t => decide (fld t (Reg.WLN_GCNT_RET_LOSS 23) = 1)) = true ∧
    (wickState (sGroup 4 1) 191 = 3 ∧
      runs (.relockLate 191) (sGroup 4 1) (fun t => decide (fld t (Reg.WLN_W_RELOCK_LATE 191) = 1) && flag t (emberFld 191)) = true) :=
  ⟨quiet (by decide +kernel) rfl, by decide +kernel⟩

/-- A push whose wick 184 awaits its acknowledgement; wick 185 is in a phase; ring 0 answers. -/
def sPush (attempts phase : Nat) : State :=
  let s := setFld (sGroup 4 1) Reg.HOST_LINK_MODE 1
  { s with rmap := { s.rmap with push := some ⟨jobNvm, 0, 0, false, [⟨184, 0, 4, 77, 4, attempts, 1⟩, ⟨185, 0, 4, 78, 1, 1, phase⟩], false⟩ } }

def ack184 : DWord := BitVec.ofNat 64 (0x82 + 184 * 2 ^ 8 + 77 * 2 ^ 24)

theorem wit_TableTransfersAreAcknowledged : ((sPush 3 2).settled ∧ (sPush 3 2).calm) ∧ laneHears (sPush 2 0) 23 = true ∧ jobOpen (sPush 3 2) jobNvm = true ∧
    runs (.tableAck 23 ack184) (sPush 2 0) (fun t => (t.rmap.push.map fun p => p.entries.map UniEntry.phase) == some [2, 0]) = true ∧
    runs (.tableAckTimeout 184) (sPush 2 0) (fun t => (t.rmap.push.map fun p => p.entries.map UniEntry.attempts) == some [3, 1]) = true ∧
    (rasterRuns (sPush 2 2) = false ∧ runs (.tableAck 23 ack184) (sPush 2 2) (fun t => completed 9 0x0C stOK 0 t &&
      decide (fld t Reg.RMAP_UNI_STAT_STATE = 2 ∧ fld t (uniBank 184) = 1 ∧ fld t (uniBank 185) = 1)) = true) ∧
    (let s := setFld (sPush 2 2) Reg.SCAN_STAT_RUN 1; rasterRuns s = true ∧
      runs (.tableAck 23 ack184) s (fun t => decide (fld t Reg.RMAP_UNI_STAT_STATE = 2 ∧ t.scan.flips = [184, 185])) = true) ∧
    runs (.tableAckTimeout 184) (sPush 3 2) (fun t => decide (fld t Reg.RMAP_UNI_STAT_STATE = 0) && t.rmap.push.isNone && flag t (emberFld 184) &&
      completed 9 0x0C 0x57 0 t) = true :=
  ⟨quiet (by decide +kernel) rfl, by decide +kernel⟩

/-! ### Memory -/

/-- A read of the uniformity push at the last line of memory; a write of the command unit at 0x30, over the line's end. -/
def qTop : MemReq := ⟨grpMgmt, 1, 0xFFFC0, none⟩
def qHost : MemReq := ⟨grpHost, 1, 0x30, some (List.replicate 32 9#8, false)⟩
def sReq : State := withMem .lit [(Reg.MFB_CFG_AGE_LIMIT, 40)]
/-- The read holds tag 4095, and is 100 µs old. -/
def hTop : HeldReq := ⟨4095, 63536, qTop, false⟩
def sHeld : State := { sReq with dram := { sReq.dram with arb := [(0, { waiting := [hTop] })] } }

theorem wit_MemoryRequestsComplete : (sReq.settled ∧ sHeld.settled) ∧ (sound sReq 0xFFFC0 1 ∧ sound sReq 0x30 1) ∧
    (sReq.dram.arb = [] ∧ sReq.dram.stalled = [] ∧ reqCh sReq qTop = 0 ∧ reqCh sReq qHost = 0 ∧ channelRuns sReq 0 = true ∧
      (tagRange sReq qTop).2 ≠ 0 ∧ (tagRange sReq qHost).2 ≠ 0) ∧
    (linePoisoned sReq (qTop.addr / 64) = false ∧ runs (.memReadReturn 0 [qTop] 0) sReq (fun t => (heldReqs t).isEmpty) = true) ∧
    (17 < lineDevices sReq ∧ servingRank sReq (placeOf sReq (qTop.addr / 64)) = 0 ∧ tblGet 0 sReq.dram.ceWin 0 + 1 ≤ fld sReq (Reg.DMC_ECC_CFG_CE_THRESH 0) ∧
      runs (.memReadReturn 0 [qTop] (BitVec.ofNat 18 (2 ^ 17))) sReq (fun t => decide (fld t (Reg.DMC_ECC_CE_COUNT 0 0) = 1 ∧
        fld t (Reg.DMC_ECC_CE_DEVICE 0 0) = 17) && flag t (emberFld evMemCe)) = true) ∧
    (issueCheck sReq qHost = .ok ∧ runs (.memWriteAccept 0 [qHost]) sReq (fun t => (heldReqs t).isEmpty &&
      decide (tblGet 0#8 t.mem 0x3F = 9#8 ∧ tblGet 0#8 t.mem 0x40 = 0#8 ∧ (arbOf t 0).writes = [])) = true) ∧
    (let l : HeldReq := ⟨0, 0, ⟨grpLantern, 0, 0, none⟩, false⟩; levelTwo [] { waiting := [hTop, l] } = some (l, true)) ∧
    (reqOf sHeld 4095 = some hTop ∧ sHeld.dram.promoted.contains 4095 = false ∧ (fld sHeld Reg.MFB_CFG_AGE_LIMIT : Int) ≤ hTop.age sHeld ∧
      runs (.requestPromote 4095) sHeld (fun t => decide (reg t Reg.MFB_PROMOTED = 1)) = true) ∧
    ((starveLimit sHeld : Int) ≤ hTop.age sHeld ∧ sHeld.dram.starveAt = 0 ∧
      runs (.arbStarve 4095) sHeld (fun t => decide (fld t Reg.MFB_STARVE_COUNT = 1) && flag t (emberFld evArbStarve)) = true) :=
  ⟨⟨(quiet (by decide +kernel) rfl).1, (quiet (by decide +kernel) rfl).1⟩,
    ⟨sound_of_soundB (by decide +kernel), sound_of_soundB (by decide +kernel)⟩, by decide +kernel⟩

/-- Channel 0 of DDR4, bank 5 of rank 0 open, a row waiting for its neighbours, migration active. -/
def sDram : State :=
  let s := withMem .lit [(Reg.DMC_MIGRATE_ACTIVE 0, 1), (Reg.DMC_SCRUB_PERIOD 0, 24)]
  { s with dram := { s.dram with banks := [(5, { openRow := some 3 })], hammer := [(0, [⟨0, 5, 3, 9⟩])], ceWin := [(0, 4)],
                                 sampled := [⟨0, 0, 5, 3⟩] } }

/-- A frequency change to the largest rate trains, at step 1. -/
def sFreq : State :=
  let s := withMem .readyDark [(Reg.DMC_TRAIN_STEP 0, 1), (Reg.MFB_FREQ_GO, 1)]
  { s with dram := { s.dram with freqRun := some 65535 } }

theorem wit_DramIsKept : sDram.settled ∧ channelRuns sDram 0 = true ∧
    ((refreshBanks sDram 0 1).any (bankOpen sDram) = false ∧
      runs (.refreshDue 0 1 true) sDram (fun t => decide (tblGet 0 t.dram.debt 1 = 0) && flag t (Reg.DMC_REFRESH_HOT 0)) = true) ∧
    ((refreshBanks sDram 0 0).any (bankOpen sDram) = true ∧ tblGet 0 sDram.dram.debt 0 + 1 < 8 ∧
      runs (.refreshDue 0 0 false) sDram (fun t => decide (tblGet 0 t.dram.debt 0 = 1)) = true) ∧
    (let s := { sDram with dram := { sDram.dram with debt := [(0, 7)] } };
      runs (.refreshDue 0 0 false) s (fun t => decide (tblGet 0 t.dram.debt 0 = 0 ∧ fld t (Reg.DMC_REFRESH_FORCED 0) = 1) && !bankOpen t 5) = true) ∧
    (runs (.calibrationDue 0 3 true) sDram (fun t => decide (t = { sDram with out := [] })) = true ∧
      (decide (0 < nch sDram ∧ rankState sDram 0 0 ≠ 0) && !sDram.dram.selfRefresh) = true ∧
      runs (.calibrationDue 0 0 false) sDram (fun t => !bankOpen t (bankIx 0 0 5)) = true) ∧
    (fld sDram (Reg.DMC_SCRUB_PERIOD 0) ≠ 0 ∧ rankState sDram 0 0 = 1 ∧ tblGet 0 sDram.dram.errs 1 = 0 ∧ 64 < capacity sDram ∧
      (placeOf sDram 1).ch = 0 ∧ servingRank sDram (placeOf sDram 1) = 0 ∧
      tblGet 0 sDram.dram.ceWin 0 + 1 ≤ fld sDram (Reg.DMC_ECC_CFG_CE_THRESH 0) ∧
      runs (.scrubRead 0 0 64 1) sDram (fun t => decide (fld t (Reg.DMC_ECC_CE_COUNT 0 0) = 1)) = true) ∧
    (runs (.neighbourRefresh 0) sDram (fun t => decide (fld t (Reg.DMC_HAMMER_STAT_SAMPLED 0) = 1)) = true ∧
      (let s := setFld sDram Reg.MFB_STAT_TYPE 2; isDdr5 s = true ∧
        runs (.neighbourRefresh 0) s (fun t => decide (fld t (Reg.DMC_HAMMER_STAT_SAMPLED 0) = 1 ∧ t.dram.sampled = [])) = true)) ∧
    runs (.hammerWindowEnd 0) sDram (fun t => decide (t.dram.hammer = [])) = true ∧
    (bankOpen sDram (bankIx 0 0 5) = true ∧ runs (.pageIdleClose 0 0 5) sDram (fun t => !bankOpen t 5) = true) ∧
    runs (.ceWindowEnd 0 0) sDram (fun t => decide (t.dram.ceWin = [])) = true ∧
    (flag sDram (Reg.DMC_MIGRATE_ACTIVE 0) = true ∧ sDram.dram.errs = [] ∧ fld sDram (Reg.DMC_MIGRATE_PTR 0) + 1 < rankLines (isDdr5 sDram) (dramRows sDram) ∧
      runs (.migrationCopyLine 0 0) sDram (fun t => decide (fld t (Reg.DMC_MIGRATE_PTR 0) = 1)) = true) :=
  ⟨(quiet (by decide +kernel) rfl).1, by decide +kernel⟩

theorem wit_RatesAndAging : sFreq.settled ∧ stepRuns sFreq = true ∧ sFreq.dram.freqHeld = none ∧
    runs (.freqChangeDone 5 []) sFreq (fun t => decide (fld t (Reg.DMC_TRAIN_STEP 0) = 6 ∧ t.dram.freqRun = some 65535)) = true ∧
    runs (.freqChangeDone 6 []) sFreq (fun t => decide (fld t Reg.MFB_STAT_RATE = 65535 ∧ t.dram.freqRun = none ∧ fld t Reg.MFB_FREQ_GO = 0)) = true ∧
    (let s := { sFreq with dram := { sFreq.dram with freqHeld := some 2400 } }; rateRefused 2400 s = false ∧
      runs (.freqChangeDone 1 []) s (fun t => decide (t.dram.freqRun = some 2400 ∧ t.dram.freqHeld = none ∧ pllState t 6 = 1)) = true) ∧
    lamp sFreq ≠ .off ∧
    (let s := { sTrained 1 with trigger := 1 }; let s := setFld s (Reg.DMC_TRAIN_STEP 0) 3; s.dram.freqRun = none ∧ s.dram.pop.isSome = true ∧
      trainsFull s = true ∧ 0 < nch s ∧ runs (.freqChangeDone 3 []) s (fun t => decide (fld t (Reg.DMC_TRAIN_STEP 0) = 4)) = true) :=
  ⟨(quiet (by decide +kernel) rfl).1, by decide +kernel⟩

theorem wit_DataRateAndAgingWrites : (withMem .readyDark []).settled ∧
    (let s := setFld (withMem .readyDark []) (Reg.DMC_TRAIN_STEP 0) 1; (stepRuns s || trainsUnknown s) = true ∧
      isDark s = true ∧ lamp s ≠ .off ∧ runs (.mfbFreqGo 3200) s (fun t => decide (t.dram.freqHeld = some 3200 ∧ fld t Reg.MFB_FREQ_TARGET = 3200 ∧
        fld t Reg.MFB_FREQ_GO = 1)) = true) ∧
    (let s := withMem .readyDark []; s.dram.freqRun = none ∧ (stepRuns s || trainsUnknown s) = false ∧
      rateRefused 2400 (setFld s Reg.MFB_FREQ_TARGET 2400) = false ∧
      runs (.mfbFreqGo 2400) s (fun t => decide (t.dram.freqRun = some 2400 ∧ pllState t 6 = 1 ∧ t.dram.selfRefresh = true)) = true) ∧
    runs (.agingModeWrite 3) (withMem .readyDark []) (fun t => decide (fld t Reg.RMAP_AGING_CTRL_MODE = 3)) = true ∧
    runs .agingRecalc (withMem .readyDark []) (fun t => decide (t.rmap.pend = none)) = true ∧
    runs .agingRecalc (withMem .readyDark [(Reg.RMAP_AGING_CTRL_MODE, 1)]) (fun t => t.rmap.pend.isSome) = true ∧
    runs .snapshotTimer (withMem .readyDark []) (fun t => decide (t.log.snaps.length = 1)) = true :=
  ⟨(quiet (by decide +kernel) rfl).1, by decide +kernel⟩

/-! ### Health and the snuffer -/

/-- The core has restarted just now; unit 0x0D00 runs a follow-up with one waiting; FIRST_FATAL frozen; test mode. -/
def sHealth : State :=
  let s := base .lit [(Reg.MGMT_FF_SRC_VALID, 1), (Reg.GEN_STATE_TEST, 1)]
  { s with restartAt := some 0, followUps := [(0x0D00, ⟨some ⟨3, 1⟩, [⟨4, 2⟩]⟩)] }

theorem wit_HealthCommandsAct : (sHealth.settled ∧ ∀ u, (tblGet {} sHealth.followUps u).waiting.length < 4) ∧
    runs .snuffNLow sHealth (fun t => pathHolds t 2 && !t.snuff.inputHigh) = true ∧
    runs .snuffNHigh sHealth (fun t => t.snuff.inputHigh && levelOf t inSnuff) = true ∧
    (let s (n : Nat) : State := { sHealth with inputs := [(inProv, { edges := List.replicate n 0 })] };
      runs (.provEnChange true) (s 3) (fun t => flag t Reg.GEN_STATE_PROV_EN) = true ∧
      runs (.provEnChange true) (s 4) (fun t => !flag t Reg.GEN_STATE_PROV_EN) = true) ∧
    runs (.smbalertNLow (List.replicate 8 ⟨0, 0, false, false, true⟩)) (base .lit []) (fun t => !levelOf t inAlert) = true ∧
    ((inputOf (base .lit []) inAlert).held = false ∧ inputQuiet (base .lit []) inAlert = true ∧
      runs .smbalertNStuck (base .lit []) (fun t => flag t (emberFld evInputFault) && (inputOf t inAlert).held) = true) ∧
    (sensorInvalid (170 * 16) = false ∧ sensorInvalid (-60 * 16) = false) ∧
    (sHealth.restarting = false ∧ runs .fwWatchdog sHealth (fun t => decide (lamp t = .darkFault ∧ fld t Reg.MGMT_WDOG_RESTARTS = 1)) = true) ∧
    runs .coreRestartDone { sHealth with restarting := true } (fun t => !t.restarting) = true ∧
    ((fuUnit sHealth 0x0D 0).running ≠ none ∧ runs (.followupDone 0x0D 0) sHealth (fun t =>
      decide ((fuUnit t 0x0D 0).running = some ⟨4, 2⟩ ∧ (fuUnit t 0x0D 0).waiting = [])) = true) ∧
    runs .logSecond sHealth (fun t => decide (t.log.onSec = 1)) = true ∧
    runs .firstFatalAck sHealth (fun t => decide (reg t Reg.MGMT_FF_SRC = 0)) = true ∧
    runs (.genTestForce 255) sHealth (fun t => flag t (emberFld 255) && decide (fld t Reg.GEN_TEST_SRC = 255)) = true := by
  refine ⟨⟨settled_of_settledB (by decide +kernel), ?_⟩, by decide +kernel⟩
  intro u
  simp only [sHealth, tblGet]
  split <;> simp

theorem wit_PathsAssertAndHold :
    decide (pathHolds (base .lit []) 9 = false ∧ pathHolds (assertPath 9 (base .lit [])) 9 = true ∧
      lamp (assertPath 9 (base .lit [])) = .snuffed ∧ fld (assertPath 9 (base .lit [])) Reg.MGMT_SNUFF_STAT_LOW = 9) = true ∧
    decide (let s := assertPath 2 (base .lit []); pathHolds s 2 = true ∧ pathHolds (assertPath 1 s) 2 = true ∧
      fld (assertPath 1 s) Reg.MGMT_SNUFF_STAT_LOW = 1) = true := by decide +kernel

/-- A unit whose follow-up runs, with three or four errors waiting. -/
def sWaiting (n : Nat) : State :=
  { base .lit [] with followUps := [(0x0102, ⟨some ⟨0, 0⟩, (List.range n).map fun i => ⟨i + 1, 0⟩⟩)] }

theorem wit_AFifthErrorEscalates :
    decide ((fuUnit (followUp 0xFF 0xFF 9 9 0 (sWaiting 3)) 0xFF 0xFF).running = some ⟨9, 9⟩) = true ∧
    decide ((⟨3, 0⟩ : FollowUp) ∈ (fuUnit (sWaiting 3) 1 2).waiting ∧ followUp 1 2 3 0 7 (sWaiting 3) = sWaiting 3) = true ∧
    decide ((fuUnit (followUp 1 2 9 9 0 (sWaiting 3)) 1 2).waiting.length = 4 ∧ lamp (followUp 1 2 9 9 0 (sWaiting 3)) = .lit) = true ∧
    decide (lamp (followUp 1 2 9 9 0 (sWaiting 4)) = .darkFault ∧ fld (followUp 1 2 9 9 0 (sWaiting 4)) Reg.STR_STAT_WHY = 6) = true := by
  decide +kernel

/-- The SNUFF of a descriptor with AUTH clear, lit and snuffed. -/
theorem wit_SnuffTakesTheCommandPath : ((front (desc 0x11 0 []) (base .lit [])).settled ∧ dOp (desc 0x11 0 []) = 0x11 ∧ dAuth (desc 0x11 0 []) = false) ∧
    (ready cmdSnuff 0 (desc 0x11 0 []) (front (desc 0x11 0 []) (base .lit [])) = true ∧
      runs (.snuff 0) (front (desc 0x11 0 []) (base .lit [])) (fun t => pathHolds t 1 && answered (desc 0x11 0 []) stOK t) = true) ∧
    (ready cmdSnuff 0 (desc 0x11 0 []) (front (desc 0x11 0 []) (base .snuffed [])) = true ∧
      runs (.snuff 0) (front (desc 0x11 0 []) (base .snuffed [])) (fun t => answered (desc 0x11 0 []) stOK t && !pathHolds t 1) = true) :=
  ⟨⟨(quiet (by decide +kernel) rfl).1, by decide +kernel⟩, by decide +kernel⟩

theorem wit_OnlyReleaseAndResetsReleaseAPath : settledB (assertPath 9 (base .lit [])) = true ∧ lamp (assertPath 9 (base .lit [])) ≠ .off ∧
    pathHolds (assertPath 9 (base .lit [])) 9 = true ∧
    runs .snuffNHigh (assertPath 9 (base .lit [])) (fun t => pathHolds t 9) = true ∧
    (let h : Held := ⟨1, 2, 0, desc 1 0 [], none, false⟩
     let s := assertPath 9 { sChain with chain := { sChain.chain with held := [h], waiting := [h] } };
      mayRelease s .bcastExecute = false ∧ mayRelease s (.vinWarn 900) = false ∧ mayRelease s (.bcast 0 bcastData) = false ∧
      mayRelease (setRing s 0 { ring s 0 with taken := [desc 0x8C 0 []] }) (.chainBroadcast 0) = false ∧
      runs .bcastExecute s (fun t => pathHolds t 9) = true ∧ runs (.vinWarn 900) s (fun t => pathHolds t 9) = true ∧
      runs (.bcast 0 bcastData) s (fun t => pathHolds t 9) = true) := by decide +kernel

theorem wit_DarkFaultIsLeftByResetsAlone : settledB (base .darkFault []) = true ∧ lamp (base .darkFault []) = .darkFault ∧
    runs (.vinRecover 900) (base .darkFault []) (fun t => decide (lamp t = .darkFault)) = true := by decide +kernel

theorem wit_SnuffReleaseReleasesWhatItCan : (sealedFront 0x86 [] (base .snuffed [])).settled ∧
    ready cmdSnuffRelease 0 (sealed 0x86 []) (sealedFront 0x86 [] (assertPath 1 (base .lit []))) = true ∧
    runs (.snuffRelease 0) (sealedFront 0x86 [] (assertPath 1 (base .lit []))) (fun t => decide (lowPath t = 0) && answered (sealed 0x86 []) stOK t) = true ∧
    runs (.snuffRelease 0) (sealedFront 0x86 [] (assertPath 2 (base .lit []))) (fun t => decide (lowPath t = 2 ∧ fld t (Reg.CMD_KEY_CTR_LAST 0) = 1) &&
      completed 7 0x86 stSnuffHeld 2 t) = true :=
  ⟨(quiet (by decide +kernel) rfl).1, by decide +kernel⟩

theorem wit_SimpleRingCommandsAnswer : (front (desc 1 0 []) (base .lit [])).settled ∧
    (ready cmdNop 0 (desc 1 0 []) (front (desc 1 0 []) (base .lit [])) = true ∧
      runs (.nop 0) (front (desc 1 0 []) (base .lit [])) (answered (desc 1 0 []) stOK) = true) ∧
    (ready cmdTestEnter 0 (sealed 0x8A [1#8]) (sealedFront 0x8A [1#8] (base .readyDark [])) = true ∧
      runs (.testEnter 0) (sealedFront 0x8A [1#8] (base .readyDark [])) (fun t => decide (fld t Reg.GEN_STATE_TEST = 1)) = true) ∧
    (let s := front (desc 0x12 0 []) (base .lit [(Reg.NVM_UNLOCK_STAT_FAILS, 2)]);
      ready cmdNvmUnlock 0 (desc 0x12 0 []) s = true ∧ flag s Reg.NVM_STAT_LOCKOUT = false ∧ flag s Reg.NVM_STAT_PW_SET = false ∧
      runs (.nvmUnlock 0) s (fun t => answered (desc 0x12 0 []) stOK t && flag t Reg.NVM_STAT_SESSION && decide (fld t Reg.NVM_UNLOCK_STAT_FAILS = 0)) = true) ∧
    (let s := front (desc 5 0 []) (base .lit [(Reg.REEL_STATE_STATE, plEnded)]);
      ready cmdPause 0 (desc 5 0 []) s = true ∧ playState s ≠ plStopped ∧
      runs (.pause 0) s (fun t => answered (desc 5 0 []) stOK t && decide (playState t = plPaused)) = true) ∧
    (let s := { sealedFront 0x89 [1#8] (base .readyDark []) with patches := [⟨1024, 256, []⟩] };
      ready cmdFwPatch 0 (sealed 0x89 [1#8]) s = true ∧ isDark s = true ∧
      runs (.fwPatch 0) s (fun t => decide (t.patches = []) && answered (sealed 0x89 [1#8]) stOK t) = true) ∧
    (let s := front (desc 0x10 0 []) (base .snuffed []); ready cmdGoDark 0 (desc 0x10 0 []) s = true ∧
      runs (.goDark 0) s (fun t => t.orderly.any fun o => decide (o.jobs.length = 1)) = true) ∧
    (let s := front (desc 0x10 0 []) (base .readyDark []); ready cmdGoDark 0 (desc 0x10 0 []) s = true ∧
      runs (.goDark 0) s (fun t => answered (desc 0x10 0 []) stOK t && t.orderly.isNone) = true) :=
  ⟨(quiet (by decide +kernel) rfl).1, by decide +kernel⟩

/-! ### The reel -/

/-- A fetch of two units to unit 14, the second still to land, or both landed. -/
def fetchJob : Job := { origin := .ring 0 0 0, tag := 9, opcode := 3 }
def sFetch (n : Nat) : State :=
  let s := sReel 0
  { s with reel := { s.reel with fetches := [{ id := 0, job := fetchJob, adv := false, span := 0, src := 0, dst := 14, count := 2, inOrder := n }] } }

def dAlloc : Bytes := desc 2 0 ([0#8, 2#8] ++ natLe 0xFFF 2 ++ natLe 15 4 ++ natLe 1 4 ++ natLe 1 4)
def dFetch : Bytes := desc 3 0 ([0#8, 0#8] ++ natLe 3 2 ++ natLe 15 4 ++ natLe 1 4 ++ natLe 0 8 ++ natLe 0x1000 8)
def dPlay (op : Nat) : Bytes := desc op 0 ([0#8, 0#8] ++ natLe 3 2 ++ natLe 7 4)

set_option maxRecDepth 100000 in
theorem wit_ReelCommandsAnswer : ((sReel 0).settled ∧ (sFetch 1).settled) ∧
    (sound (sFetch 1) (0x10000 + 15 * 4096) 4096 ∧ sound (front dAlloc (sReel 0)) (spanAt (front dAlloc (sReel 0)) 0xFFF) 32) ∧
    (ready cmdReelMap 0 dAlloc (front dAlloc (sReel 0)) = true ∧ (reelMapOp dAlloc (front dAlloc (sReel 0))).2 = stOK ∧
      spanAt (front dAlloc (sReel 0)) 0xFFF % 32 = 0 ∧ writeCheck (front dAlloc (sReel 0)) grpHost (spanAt (front dAlloc (sReel 0)) 0xFFF) 32 = .ok ∧
      runs (.reelMap 0) (front dAlloc (sReel 0)) (fun t => answered dAlloc stOK t && decide ((spanRaw t 0xFFF).start = 15 ∧ (spanRaw t 0xFFF).fill = 1)) = true) ∧
    (let s := front dFetch (sReel 0); ready cmdReelFetch 0 dFetch s = true ∧ leAt dFetch 24 8 % 64 = 0 ∧ fetchOk s false 3 15 1 = true ∧
      runs (.reelFetch 0) s (fun t => decide ((liveFetches t).length = 1 ∧ fld t Reg.REEL_FETCH_STAT_RUNNING = 1)) = true) ∧
    (let s := front (dPlay 4) (sReel 0); ready cmdPlay 0 (dPlay 4) s = true ∧ playBarred s = false ∧ targetOk s (dPlay 4) = true ∧
      runs (.play 0) s (fun t => answered (dPlay 4) stOK t && decide (playState t = plPlaying ∧ fld t Reg.REEL_CURSOR_OFFSET = 7)) = true) ∧
    (let s := front (dPlay 6) (sReel plPaused); ready cmdSeek 0 (dPlay 6) s = true ∧ playState s ≠ plStopped ∧ targetOk s (dPlay 6) = true ∧
      runs (.seek 0) s (fun t => answered (dPlay 6) stOK t && decide (fld t Reg.REEL_CURSOR_OFFSET = 7)) = true) ∧
    (writeCheck (sFetch 1) grpHost (0x10000 + 15 * 4096) 4096 = .ok ∧ (liveFetches (sFetch 1)).length = 1) ∧
    runs (.fetchReadError 0 1) (sFetch 1) (fun t => decide (fld t Reg.REEL_FETCH_STAT_FAILED = 1 ∧ t.reel.fetches = [])) = true ∧
    (jobOpen (setFld (sFetch 2) Reg.HOST_LINK_MODE 2) fetchJob = true ∧
      runs (.fetchComplete 0) (sFetch 2) (fun t => completed 9 3 stOK 0 t && decide (t.reel.fetches = [])) = true) ∧
    runs (.reelWmWrite 5) (sReel 0) (fun t => decide (reg t Reg.REEL_WM = 5)) = true :=
  ⟨⟨(quiet (by decide +kernel) rfl).1, (quiet (by decide +kernel) rfl).1⟩,
    ⟨sound_of_soundB (by decide +kernel), sound_of_soundB (by decide +kernel)⟩, by decide +kernel⟩

/-! ### Store, panel and chain commands -/

def dRead : Bytes := desc 0x0B 0 (natLe 0 4 ++ natLe 2097144 4 ++ natLe 8 4 ++ natLe 0xFFFF8 8)
def dWrite : Bytes := desc 0x0C 0 (natLe 0 4 ++ natLe (4095 * 256 + 248) 4 ++ natLe 8 4 ++ natLe 0x40 8)

theorem wit_StoreCommandsQueueTheirWrites : (sealedFront 0x81 [2#8, 7#8] (base .readyDark [])).settled ∧
    (let s := sealedFront 0x81 [2#8, 7#8] (base .readyDark []); ready cmdRailLimits 0 (sealed 0x81 [2#8, 7#8]) s = true ∧
      railLimitsOk s (sealed 0x81 [2#8, 7#8]) = true ∧ runs (.railLimits 0) s (fun t => nvmHas t isRailWrite) = true) ∧
    (let s := sealedFront 0x84 [] (base .lit []); ready cmdNvmProtect 0 (sealed 0x84 []) s = true ∧
      runs (.nvmProtect 0) s (fun t => nvmHas t isProtection) = true) ∧
    (let s := sealedFront 0x85 [1#8] (base .lit []); ready cmdNvmPassword 0 (sealed 0x85 [1#8]) s = true ∧
      runs (.nvmPassword 0) s (fun t => nvmHas t isProtection) = true) ∧
    (let s := sealedFront 0x87 [0#8, 254#8] (base .lit []); ready cmdChainPin 0 (sealed 0x87 [0#8, 254#8]) s = true ∧
      runs (.chainPin 0) s (fun t => nvmHas t isPinWrite) = true) ∧
    (let s := sealedFront 0x83 [] (base .lit []); ready cmdKeyRotate 0 (sealed 0x83 []) s = true ∧ dSlot (sealed 0x83 []) = 0 ∧
      runs (.keyRotate 0) s (fun t => slotBusy t 0 && (keyPending t 0).isSome) = true) ∧
    (let s := sealedFront 0x82 [0#8, 2#8] (base .lit []); let d := sealed 0x82 [0#8, 2#8]; ready cmdKeyLoad 0 d s = true ∧ klBodyOk d = true ∧
      klClear d = true ∧ klPlain d = false ∧ klTarget d = 0 ∧ klSrc d = 0 ∧ allZero (klDigest d) = true ∧ klPermit d = 0 ∧
      runs (.keyLoad 0) s (fun t => slotBusy t 0 && (keyPending t 0).isSome) = true) ∧
    (let s := front dRead (withMem .lit []); ready cmdNvmRead 0 dRead s = true ∧ nrOff dRead + nrLen dRead = 2097152 ∧
      inParts s (grantBit grpMgmt) (nrDst dRead) (nrLen dRead) = true ∧
      ((pagesOf (nrOff dRead) (nrLen dRead)).all fun p => decide (accessStatus s (pageRead p) = none) && !pageBusy s p) = true ∧
      runs (.nvmRead 0) s (fun t => decide (t.nvmReads.length = 1)) = true) ∧
    runs .nvmReadCopyDone { withMem .lit [] with nvmReads := [({}, dRead)] } (fun t => decide (t.nvmReads = [])) = true ∧
    (let s := front dWrite (withMem .lit []); ready cmdNvmWrite 0 dWrite s = true ∧ accessStatus s (pageWrite s 4095) = none ∧
      runs (.nvmWrite 0) s (fun t => t.nvmRun.any fun w => decide (w.page = 4095 ∧ w.off = 248 ∧ w.data.length = 8)) = true) :=
  ⟨(quiet (by decide +kernel) rfl).1, by decide +kernel⟩

/-- The last group of the array is copied to the last 8 bytes of memory. -/
def sCopy : State := { withMem .lit [] with nvmReads := [(jobNvm, dRead)], nvm := tblSetRun 0#8 State.reset.nvm 2097144 (List.replicate 8 6#8) }

theorem wit_NvmCopiesEnd : sCopy.settled ∧ (mayWrite sCopy grpMgmt 0xFFFF8 8 ∧ sound sCopy 0xFFFF8 8) ∧ jobOpen sCopy jobNvm = true ∧
    sCopy.nvmBad = [] ∧ nvmBytes sCopy (nrOff dRead) (nrLen dRead) = List.replicate 8 6#8 ∧
    runs .nvmReadCopyDone sCopy (fun t => decide (t.mem = tblSetRun 0#8 sCopy.mem 0xFFFF8 (List.replicate 8 6#8) ∧ t.nvmReads = []) &&
      completed 9 0x0C stOK 0 t) = true :=
  ⟨(quiet (by decide +kernel) rfl).1, ⟨mayWrite_of (by decide +kernel) (by decide +kernel) (by decide +kernel) (by decide +kernel),
    sound_of_soundB (by decide +kernel)⟩, by decide +kernel⟩

def dForce : Bytes := sealed 0x8B ([0#8, 0#8] ++ natLe 0x8000 2 ++ [7#8])
def dCast : Bytes := sealed 0x8C ([255#8, 0#8] ++ natLe 0 2 ++ natLe 0x40 8)

/-- Orderly dark has been blanking for 1 ms. -/
def sDarkening : State := { base .snuffed [(Reg.SCAN_STAT_RUN, 1)] with orderly := some ⟨[], true⟩ }

theorem wit_PanelAndChainCommandsAnswer : (front dForce (withKey (sLens .idle none))).settled ∧
    (let s := front dForce (withKey (sLens .idle none)); ready cmdLensForce 0 dForce s = true ∧ s.lens.phase = .idle ∧ s.lens.forced = [] ∧
      leAt dForce 6 2 = 0x8000 ∧ dByte dForce 8 = 7 ∧
      runs (.lensForce 0) s (fun t => answered dForce stOK t && decide (commonState t 15 = 3) && decide (fld t (lensTarget (15 * 96)) = 7)) = true) ∧
    (let d := sealed 0x88 [0#8, 0#8, 0#8, 0#8]; let s := front d (withKey (withMem .lit [(Reg.DMC_RANKSTATE_STATE 0 1, 2)]));
      ready cmdRankRetire 0 d s = true ∧ rankState s 0 0 = 1 ∧ (spareOf s 0).isSome = true ∧
      runs (.rankRetire 0) s (fun t => answered d stOK t && decide (rankState t 0 0 = 3) && flag t (Reg.DMC_MIGRATE_ACTIVE 0)) = true) ∧
    sDarkening.settled ∧ lamp sDarkening ≠ .housekeeping :=
  ⟨(quiet (by decide +kernel) rfl).1, by decide +kernel, by decide +kernel,
    ⟨nofun, .inr (by decide +kernel), rfl, by decide +kernel, by decide +kernel, .inl rfl⟩, by decide +kernel⟩

/-- A CHAIN_BROADCAST to every unit from a unit without an address, its DN port up, the descriptor's line in HDM. -/
def sCast : State := clocked [(4, 4)] (front dCast (withKey (withMem .lit [(Reg.CHN_CFG_ROLE, 1), (Reg.CHN_PORT_STAT_STATE 1, 2), (Reg.CHN_PORT_STAT_GOOD 1, 1), (Reg.CHN_PORT_STAT_WIDTH 1, 1)])))

theorem wit_ChainBroadcastAnswers : sCast.settled ∧ sound sCast (leAt dCast 8 8) 64 ∧ ready cmdChainBroadcast 0 dCast sCast = true ∧
    dByte dCast 4 ≠ 0 ∧ leAt dCast 8 8 % 64 = 0 ∧ inHdm sCast (leAt dCast 8 8) 64 = true ∧ portUp sCast 1 = true ∧ clockedLanes sCast 1 (usedLanes sCast 1) ≠ [] ∧
    bcastForMe sCast (dByte dCast 4) = false ∧ linePoisoned sCast (leAt dCast 8 8 / 64) = false ∧
    runs (.chainBroadcast 0) sCast (fun t => answered dCast stOK t &&
      t.out.any fun e => match e with | .chain 1 [0] 0x66 _ x => decide (x.take 64 = List.replicate 64 0#8) | _ => false) = true :=
  ⟨(quiet (by decide +kernel) rfl).1, sound_of_soundB (by decide +kernel), by decide +kernel⟩

/-- Counter 1 after last counter 0 passes; after 1 it is a replay. -/
theorem wit_CountersPassInOrder :
    (let s := sealedFront 1 [] (base .lit []); let d := sealed 1 []; dAuth d = true ∧ slotBusy s 0 = false ∧ slotSet s 0 = true ∧
      macOk (keyOf s 0) d = true ∧ authCheck s d = .pass) ∧
    (let s := sealedFront 1 [] (base .lit [(Reg.CMD_KEY_CTR_LAST 0, 1)]); let d := sealed 1 []; settledB s = true ∧ (ring s 0).doomed = 0 ∧
      openRing s 0 = true ∧ (ring s 0).taken.head? = some d ∧ frontFree s 0 d = true ∧ authCheck s d = .fail stAuthReplay ∧ frontAuth s 0 d = .fail stAuthReplay ∧
      runs (.nop 0) s (fun t => answered d stAuthReplay t && flag t (emberFld evAuthFail)) = true) := by decide +kernel

/-! ### Ticks, rows and boundary points -/

/-- A head of one wick with two columns and four rows, its group up, its lantern 0 in use; the raster in a place. -/
def sRaster (run : Nat) (rows : List Nat) (f : ScanState → ScanState) : State :=
  let s := withMem .lit [(Reg.SCAN_STAT_RUN, run), (Reg.SCAN_W_COLS_COUNT 0, 2), (Reg.WLN_GCFG_GEN 0, 1), (Reg.WLN_GSTAT_STATE 0, 4),
    (Reg.WLN_W_STAT_STATE 0, 1), (Reg.LANT_STAT_STATE 0, 1), (Reg.LANT_STAT_QUAD 0, 0), (⟨Reg.TIME_TICK_PERIOD_CUR, 63, 0⟩, 2 ^ 55),
    (Reg.RMAP_STAT_NOMINAL, 1)]
  let s := clocked [(0, 0)] (setForce Reg.SCAN_ROW_PERIOD 541 (setForce Reg.SCAN_BLANK_ROWS 2 (setForce Reg.SCAN_ACT_ROWS 4 s)))
  { s with scan := f { s.scan with started := true, live := true, rows := 6, fifo := [(0, rows.map fun r => ⟨r, List.replicate 6 0⟩)] } }

theorem wit_Ticks : (sRaster 0 [] id).settled ∧ tickP (sRaster 0 [] id) ≠ 0 ∧
    (rasterRuns (sRaster 0 [] id) = false ∧ building (sRaster 0 [] id) = true ∧ ((planes (sRaster 0 [] id)).all fun p => !p.en) = true ∧
      runs .tick (sRaster 0 [] id) (fun t => rasterRuns t && decide (t.scan.nextRow = 0 ∧ t.time.nextTick = 1)) = true) ∧
    (let s := sRaster 1 [] fun x => { x with past := true }; rasterRuns s = true ∧ s.scan.deferred = [] ∧ s.scan.past = true ∧
      runs .tick s (fun t => decide (t.scan.past = false)) = true) ∧
    (let s := sRaster 1 [] fun x => { x with past := true, deferred := [5] };
      runs .tick s (fun t => decide (t.scan.deferred = [5, 0] ∧ fld t Reg.TIME_TICK_STAT_DEFER_CNT = 1)) = true) ∧
    runs .tick (sRaster 1 [] id) (fun t => decide (t.scan.deferred = [0])) = true :=
  ⟨(quiet (by decide +kernel) rfl).1, by decide +kernel⟩

theorem wit_Rows : (sRaster 1 [0, 1, 2, 3] id).settled ∧
    (let s := sRaster 1 [] fun x => { x with past := true, nextRow := 5 }; rasterRuns s = true ∧ s.scan.nextRow < s.scan.rows ∧
      runs (.rowStart 5#4) s (fun t => decide (t.scan.nextRow = 6 ∧ fld t Reg.SCAN_STAT_ROW = 5)) = true) ∧
    (let s := sRaster 1 [] fun x => { x with live := false, nextRow := 3 }; s.scan.nextRow < actRows s ∧
      runs (.rowStart 5#4) s (fun t => decide (t.scan.nextRow = 4)) = true) ∧
    (let s := sRaster 1 [0, 1, 2, 3] fun x => { x with nextRow := 3 }; missers s 3 = [] ∧ ((planes s).all fun p => !p.en) = true ∧
      sendsRow s 0 3 = true ∧ wickRuns s 0 = true ∧
      runs (.rowStart 5#4) s (fun t => decide (t.scan.nextRow = 4) && t.out.any fun e => match e with | .wickRow 0 3 _ _ _ => true | _ => false) = true) ∧
    (let s := sRaster 1 [0] fun x => { x with nextRow := 1 }; missers s 1 ≠ [] ∧
      runs (.rowStart 5#4) s (fun t => decide (t.scan.aborts = 1 ∧ fld t Reg.SCAN_ABORT_STAT_COUNT = 1 ∧ fld t Reg.SCAN_ABORT_STAT_ROW = 1) &&
        flag t (emberFld evScanAbort)) = true) ∧
    (let s := sRaster 1 [0, 1, 2, 3] fun x => { x with aborting := true, aborts := 1 }; holdsFour s = true ∧
      runs .scanRestart s (fun t => decide (t.scan.nextRow = 1 ∧ t.scan.aborting = false) &&
        t.out.any fun e => match e with | .wickCtl 0 0x20 _ => true | _ => false) = true) :=
  ⟨(quiet (by decide +kernel) rfl).1, by decide +kernel⟩

/-- A ready, due frame waits for its boundary point. -/
def sReady : State :=
  let s := setFld (sRaster 1 [] fun x => { x with nextRow := 4 }) Reg.REEL_STATE_STATE plPlaying
  { s with reel := { s.reel with nc := some { c := ⟨0, 0, 4096, 7, 0, 0, [], [], false⟩, hdr := [], parsed := true, side := true, body := true } } }

theorem wit_BoundaryPoints : (sRaster 1 [] id).settled ∧
    (let s := sRaster 1 [] fun x => { x with nextRow := 4 }; s.scan.past = false ∧ actRows s ≤ s.scan.nextRow ∧ s.scan.witPend = [] ∧
      s.scan.pend = none ∧ playState s = plStopped ∧ ((planes s).all fun p => !p.en) = true ∧ runs .boundaryPoint s (fun t => t.scan.past) = true) ∧
    (let s := sRaster 1 [] fun x => { x with nextRow := 4, pend := some ⟨65535, {}, [(Reg.SCAN_ACT_ROWS, 4)]⟩ };
      runs .boundaryPoint s (fun t => decide (t.scan.pend = none ∧ fld t Reg.SCAN_GEN_CUR = 65535)) = true) ∧
    (let s := sReady; rmapStaged s = false ∧ playState s = plPlaying ∧ genReady s 0 = true ∧
      dueAt s 0 (tickTime s (followingTick s)) = true ∧ (s.reel.nc.any fun x => ncReady x && !x.knownLate) = true ∧
      runs .boundaryPoint s (fun t => decide (t.reel.nc = none ∧ fld t Reg.LDEC_FRAME_CUR = 7) && t.reel.cur.any fun c => decide (c.frame = 7)) = true) :=
  ⟨(quiet (by decide +kernel) rfl).1, by decide +kernel⟩

/-- A push to wick 0 in the stopped raster, two words of four sent, or all of them. -/
def sSend (sent : Nat) : State :=
  let s := setFld (setFld (sRaster 0 [] id) Reg.RMAP_UNI_CTRL_PER_ROW 1) (Reg.SCAN_ROW_PERIOD_CLOCKS) 541
  { s with rmap := { s.rmap with push := some ⟨{}, 0, 0, false, [⟨0, 0x80, 4, 77, sent, 1, 0⟩], false⟩ } }

theorem wit_RowPeriodsSendTables : (sSend 2).settled ∧ rasterRuns (sSend 2) = false ∧ tableOpen (sSend 2) 0 = true ∧ 0 < tableLimit (sSend 2) 0 ∧
    runs .rowPeriodInterval (sSend 2) (fun t => decide (.wickCtl 0 0x30 (tableBlock 2 0) ∈ t.out)) = true ∧
    runs .rowPeriodInterval (sSend 4) (fun t => decide (.wickCtl 0 0x30 (tableBlock 0xFFFFFF 77) ∈ t.out)) = true :=
  ⟨(quiet (by decide +kernel) rfl).1, by decide +kernel⟩

/-! ### Lanterns -/

/-- Lantern 49 is a spare, lantern 0 serves quad 0, and the quads not in use name it too. -/
def sLant (v : Nat) : State :=
  setFld (setFld (sRaster 1 [0, 1, 2] id) (Reg.LANT_STAT_STATE 0) v) Reg.LANT_SPARE_SPARE (2 ^ 49)

theorem wit_LanternsBuildFailAndJoin : ((sLant 1).settled ∧ (sLant 1).calm) ∧ sound (sLant 1) (64 * 0x3FFF) 64 ∧ linePoisoned (sLant 1) 0x3FFF = false ∧
    (canBuild (sLant 1) 0 = true ∧ mapNominal (sLant 1) = true ∧ curLayers (sLant 1) = [] ∧ quadWicks (sLant 1) (lantQuad (sLant 1) 0) = [0] ∧
      runs (.lanternRowDone 0 9 [0x3FFF]) (sLant 1) (fun t => decide ((quadOf t 0).row = 1 ∧ (fifoOf t 0).length = 4)) = true) ∧
    (owesRow (sLant 1) 0 = true ∧ lantQuad (sLant 1) 0 < 48 ∧ lowSpare (sLant 1) = some 49 ∧
      flag (setFld (sLant 1) Reg.LANT_CTRL_AUTO_SPARE 1) Reg.LANT_CTRL_AUTO_SPARE = true ∧
      runs (.lanternProgressTimeout 0) (setFld (sLant 1) Reg.LANT_CTRL_AUTO_SPARE 1) (fun t => decide (fld t (Reg.LANT_FAULT_CAUSE 0) = 1 ∧
        lantState t 0 = 2 ∧ xbarCur t 0 = 49) && flag t (emberFld evLantStall)) = true) ∧
    (lantFaulted (sLant 1) 49 = false ∧
      runs (.lanternCheckFault 49 true) (sLant 1) (fun t => decide (fld t (Reg.LANT_FAULT_CAUSE 49) = 3) && lantFaulted t 49) = true) ∧
    (lantState (sLant 3) 0 = 3 ∧ runs (.spareJoin 0) (sLant 3) (fun t => decide (lantState t 0 = 1)) = true) :=
  ⟨quiet (by decide +kernel) rfl, sound_of_soundB (by decide +kernel), by decide +kernel⟩

/-! ### Records -/

/-- One layer of 16 × 16 8-bit 4:2:0 samples at Z 0, its two codestreams at 352 and 356. -/
def recLayer : Bytes :=
  pad 0x14 [] ++ natLe 0x3F800000 4 ++ natLe 16 2 ++ natLe 16 2 ++ pad 4 [] ++ natLe 352 4 ++ natLe 4 4 ++ natLe 356 4 ++ natLe 4 4 ++ pad 16 []

/-- Side data: an END cue in a stored DEFLATE block of a gzip member. -/
def recCues : Bytes := [0#8, 0#8, 8#8, 0#8, 0#8, 0#8, 0#8, 0#8]
def recSide : Bytes :=
  [0x1F#8, 0x8B#8, 8#8, 0#8, 0#8, 0#8, 0#8, 0#8, 0#8, 0xFF#8, 1#8, 8#8, 0#8, 0xF7#8, 0xFF#8] ++ recCues ++ natLe (crc32 recCues) 4 ++ natLe 8 4

/-- Header of a record of 364 bytes: frame 7, one layer, side data of 31 bytes at 320. -/
def recHdr (flags : Nat) : Bytes :=
  let h := natLe 0x48524631 4 ++ natLe 0x0100 2 ++ natLe 256 2 ++ natLe 364 4 ++ natLe 7 4 ++ pad 12 [] ++ natLe 1 4 ++ natLe flags 2 ++ natLe 0 2 ++
    natLe 256 4 ++ natLe 320 4 ++ natLe 31 4 ++ natLe 8 4 ++ pad 200 []
  h ++ natLe (crc32c h) 4

def recOf (flags : Nat) : Bytes :=
  let r := recHdr flags ++ recLayer ++ pad 32 recSide ++ pad 8 []
  r ++ natLe (crc32c r) 4

/-- An image with the span table at 0x40000, one colour set and room for one layer. -/
def recImg : Bytes :=
  reelImg ++ natLe 0x40 2 ++ natLe 0 2 ++ natLe 80 4 ++ pad 80 [1#8] ++ natLe 0x41 2 ++ natLe 0 2 ++ natLe 8 4 ++ natLe 64 2 ++ natLe 64 2 ++
    pad 4 [] ++ natLe 0x51 2 ++ natLe 0 2 ++ natLe 16 4 ++ pad 4 [] ++ natLe 1 4 ++ natLe 1000000 4 ++ pad 4 []

/-- The record lies in the first unit of span 3, where the cursor stands. -/
def sRec (flags : Nat) : State :=
  let s := { sReel plPlaying with img := some recImg }
  let s := setFld (setFld s Reg.LDEC_ATLAS_SIZE_SIZE 0x4000) Reg.LDEC_ATLAS_A_BASE 0x30000
  { s with mem := tblSetRun 0#8 s.mem 0x12000 (recOf flags) }

/-- The record has been taken up; its table parsed. -/
def sTaken (parsed : Bool) : State :=
  let s := sRec 1
  let c : Content := ⟨3, 0, 364, 7, 0, 0, if parsed then [{ descLayer recLayer 0 with yAt := 0x30000, cAt := 0x31000 }] else [], [], false⟩
  { s with reel := { s.reel with nc := some { c := c, hdr := recHdr 1, parsed := parsed } } }

def peeked (s : State) (a n : Nat) : Bytes := plainBytes (peekRange s grpDecoder a n)

set_option maxRecDepth 100000 in
theorem wit_DecodeStart : (sRec 1).settled ∧ (let s := sRec 1; s.reel.nc = none ∧ playState s = plPlaying ∧ s.reel.probe = false ∧
    cursor s = some (3, 0) ∧ (spanOf s 3).isSome = true ∧ peekRange s grpDecoder 0x12000 256 = (recHdr 1).map some ∧
    hdrCheck (recHdr 1) = none ∧ hdrCheck ((recHdr 1).set 0 0#8) = some (1, 0) ∧
    runs .decodeStart s (fun t => t.reel.nc.any fun x => decide (x.c.frame = 7 ∧ x.hdr = recHdr 1)) = true) :=
  ⟨(quiet (by decide +kernel) rfl).1, by decide +kernel⟩

set_option maxRecDepth 100000 in
/-- A header whose MAGIC is broken is refused. -/
theorem wit_DecodeRefuses : (let s := { sRec 1 with mem := tblSet 0#8 (sRec 1).mem 0x12000 0#8 };
    peekRange s grpDecoder 0x12000 256 = ((recHdr 1).set 0 0#8).map some ∧
    runs .decodeStart s (fun t => decide (t.reel.nc = none ∧ fld t Reg.LDEC_CNT_REFUSED = 1) && flag t (emberFld evDecErr)) = true) := by
  decide +kernel

set_option maxRecDepth 100000 in
theorem wit_RecordResident : (sTaken false).settled ∧ (let s := sTaken false;
    hFlags (recHdr 1) / 4 % 64 = 0 ∧ genStale s 0 = false ∧ s.reel.prev = none ∧
    (match tableCheck s (recHdr 1) (peeked s (0x12000 + hLt (recHdr 1)) 64) 1 0 (recRegions (recHdr 1)) with
      | .ok l => match budgetCheck s (recHdr 1) (ncAtlas s) l with
        | .ok r => decide (r.1.length = 1)
        | .error _ => false
      | .error _ => false) = true ∧
    runs .recordResident s (fun t => t.reel.nc.any fun x => x.parsed && decide (x.c.layers.length = 1)) = true) :=
  ⟨(quiet (by decide +kernel) rfl).1, by decide +kernel⟩

set_option maxRecDepth 100000 in
theorem wit_SideUnpackDone : (sTaken true).settled ∧ (let s := sTaken true;
    (match unpackSide (peekRange s grpLossless (0x12000 + 320) 31) 8 with
      | .ok u => decide (u = recCues) && (match cuesOf true u 2 0 with | .ok cs => decide (cs = []) | .error _ => false)
      | .error _ => false) = true ∧ hStrict (recHdr 1) = true ∧
    runs .sideUnpackDone s (fun t => t.reel.nc.any fun x => x.side) = true) :=
  ⟨(quiet (by decide +kernel) rfl).1, by decide +kernel⟩

set_option maxRecDepth 100000 in
theorem wit_DecodeDone : (noInject (sTaken true) ∧ clean (sTaken true) 0x12000 364) ∧ (let s := sTaken true;
    (s.reel.nc.any fun x => crcOk x.hdr x.c.layers (peekRange s grpDecoder 0x12000 x.c.recLen)) = true ∧
    runs .decodeDone s (fun t => t.reel.nc.any fun x => x.body && decide (x.c.layers.length = 1)) = true) :=
  ⟨⟨noInject_of (by decide +kernel) (by decide +kernel), clean_of_soundB (by decide +kernel) (by decide +kernel)⟩, by decide +kernel⟩

/-- A carried layer of two planes waits to be copied from 0x38000 and 0x39000 to 0 and 0x3A000. -/
def sCarry : State :=
  let s := sTaken true
  let k := descLayer recLayer 0
  { s with mem := tblSetRun 0#8 [] 0x38000 (List.replicate 8 7#8),
           reel := { s.reel with nc := s.reel.nc.map fun x => { x with carries := [(0, { k with yAt := 0x38000, cAt := 0x39000 }, { k with cAt := 0x3A000 })] } } }

set_option maxRecDepth 100000 in
theorem wit_CarryCopyDone : noInject sCarry ∧ (clean sCarry 0x38000 344 ∧ clean sCarry 0x39000 172) ∧
    (mayWrite sCarry grpDecoder 0 344 ∧ sound sCarry 0 344) ∧ (mayWrite sCarry grpDecoder 0x3A000 172 ∧ sound sCarry 0x3A000 172) ∧
    (descLayer recLayer 0).sizes = [344, 172] ∧
    runs .carryCopyDone sCarry (fun t => (t.reel.nc.any fun x => decide (x.carries = [])) &&
      decide (t.mem = tblSetRun 0#8 sCarry.mem 0 (List.replicate 8 7#8))) = true :=
  ⟨noInject_of (by decide +kernel) (by decide +kernel),
    ⟨clean_of_soundB (by decide +kernel) (by decide +kernel), clean_of_soundB (by decide +kernel) (by decide +kernel)⟩,
    ⟨mayWrite_of (by decide +kernel) (by decide +kernel) (by decide +kernel) (by decide +kernel), sound_of_soundB (by decide +kernel)⟩,
    ⟨mayWrite_of (by decide +kernel) (by decide +kernel) (by decide +kernel) (by decide +kernel), sound_of_soundB (by decide +kernel)⟩,
    by decide +kernel⟩

/-! ### Commits, witnesses, levels -/

/-- A head with an image of no pixels; the raster runs or is stopped. -/
def sHead (run : Nat) (img : Bytes) (d : Bytes) : State :=
  { front d (withMem .lit [(Reg.SCAN_STAT_RUN, run), (Reg.SCAN_GEN_CUR, 65535)]) with img := some img }

/-- A commit of an older generation waits. -/
def sPended (d : Bytes) : State :=
  let s := sHead 1 lensImg d
  { s with scan := { s.scan with pend := some ⟨65535, { origin := .ring 0 0 0, tag := 3, opcode := 7 }, []⟩ } }

/-- A GEOMETRY section of 4 by 2 pixels. -/
def dotImg : Bytes := List.replicate 64 0#8 ++ natLe 0x10 2 ++ natLe 0 2 ++ natLe 56 4 ++ natLe 4 4 ++ natLe 2 4 ++ pad 8 [] ++
  [0#8, 2#8, 2#8, 0#8] ++ pad 36 []
def dWit : Bytes := desc 0x0D 0 ([63#8, 3#8] ++ natLe 0 2 ++ natLe 3 2 ++ natLe 1 2 ++ natLe 0 2 ++ natLe 0 2 ++ natLe 7 4 ++ natLe 0xABCD 4)
def dLevels : Bytes := desc 0x0A 0 ([1#8, 0#8] ++ natLe 1534 2 ++ natLe 2 2 ++ natLe 0 2 ++ [0xF7#8])

theorem wit_CommitsAndSettingsTakeEffect : (sPended (desc 7 0 [])).settled ∧
    (let s := sPended (desc 7 0 []); let d := desc 7 0 []; let a := accepted 0 d s; ready cmdCommit 0 d s = true ∧ rasterRuns s = true ∧
      (s.scan.pend.all fun c => jobOpen s c.job) = true ∧ (commitCheck (snapshot a) 0 a).2 = 0 ∧
      runs (.commit 0) s (fun t => decide (fld t Reg.SCAN_STAT_PEND = 1 ∧ fld t Reg.SCAN_GEN_PEND = 0) && completed 3 7 stCommitMerged 0 t) = true) ∧
    (let s := sHead 0 lensImg (desc 7 0 []); let d := desc 7 0 []; (commitCheck (snapshot (accepted 0 d s)) 0 (accepted 0 d s)).2 = 0 ∧
      runs (.commit 0) s (fun t => answered d stOK t && decide (fld t Reg.SCAN_GEN_CUR = 0)) = true) ∧
    (let s := sHead 1 dotImg (desc 7 0 []); let d := desc 7 0 []; (commitCheck (snapshot (accepted 0 d s)) 0 (accepted 0 d s)).2 = 0x20 ∧
      runs (.commit 0) s (fun t => completed 7 7 stCommitRefused 0x20 t && decide (fld t Reg.SCAN_GEN_CUR = 65535)) = true) ∧
    (let s := sHead 1 dotImg dWit; ready cmdWitnessSet 0 dWit s = true ∧ leAt dWit 8 2 + leAt dWit 12 2 < geoPX s ∧ leAt dWit 10 2 + leAt dWit 14 2 < geoPY s ∧
      runs (.witnessSet 0) s (fun t => decide (t.scan.witPend.length = 1)) = true ∧
      runs (.witnessSet 0) (sHead 0 dotImg dWit) (fun t => answered dWit stOK t && decide (fld t (Reg.SCAN_WIT_CFG_EXPECT 63) = 0xABCD)) = true) ∧
    (let s := sHead 1 lensImg dLevels; ready cmdLensSet 0 dLevels s = true ∧ hasLens s = true ∧ leAt dLevels 6 2 + leAt dLevels 8 2 = 1536 ∧
      runs (.lensSet 0) s (fun t => answered dLevels stOK t && decide (fld t (lensTarget 1534) = 7 ∧ fld t (lensTarget 1535) = 0)) = true) :=
  ⟨(quiet (by decide +kernel) rfl).1, by decide +kernel⟩

/-! ### Ray maps, uniformity, structures -/

def dMap : Bytes := desc 0x0E 0 ([0#8, 0#8] ++ natLe 5 2 ++ natLe 0x1000 8 ++ natLe 152 4)

/-- The ray map image of the 4 by 2 head: two lenslets, eight residuals. -/
def mapBodyBytes : Bytes := pad 16 [9#8] ++ pad 8 [5#8]
def mapImage : Bytes :=
  let h := natLe 0x565A524D 4 ++ natLe 0x0100 2 ++ natLe 128 2 ++ natLe 5 2 ++ natLe 0 2 ++ natLe 2 2 ++ natLe 1 2 ++ natLe 4 4 ++ natLe 2 4 ++
    pad 12 [] ++ natLe 0x3F8A3D71 4 ++ natLe 0x3F8A3D71 4 ++ natLe 0 4 ++ natLe 24 8 ++ natLe (crc32c mapBodyBytes) 4 ++ pad 64 []
  h ++ natLe (crc32c h) 4 ++ mapBodyBytes

def sMap (swap : Nat) : State :=
  let s := sHead 0 dotImg (desc 1 0 [])
  let s := setFld (setFld (setFld s Reg.RMAP_STAT_NC 1) Reg.RMAP_STAT_SWAP swap) Reg.RMAP_GEN_STAGED 5
  { s with mem := tblSetRun 0#8 s.mem 0x8000 mapImage, rmap := { s.rmap with job := some ({}, 0x8000, 152, false) } }

theorem wit_MapsAreLoaded : (sMap 0).settled ∧
    (let s := sHead 1 dotImg dMap; ready cmdRaymapLoad 0 dMap s = true ∧ fld s Reg.RMAP_GEN_CUR = 0 ∧ inHdm s 0x1000 152 = true ∧
      meetsSlot s 0x1000 152 = false ∧ fld s Reg.RMAP_STAT_NC = 0 ∧ s.rmap.job.isNone = true ∧
      runs (.raymapLoad 0) s (fun t => decide (fld t Reg.RMAP_STAT_NC = 1 ∧ fld t Reg.RMAP_GEN_STAGED = 5) && t.rmap.job.isSome) = true) ∧
    (match mapCheck (sMap 0) (peekRange (sMap 0) grpLossless 0x8000 152) 5 with | .ok b => decide (b = mapBodyBytes) | .error _ => false) = true ∧
    runs .raymapStageDone (sMap 2) (fun t => decide (fld t Reg.RMAP_STAT_NC = 2)) = true ∧
    runs .raymapStageDone (sMap 0) (fun t => decide (fld t Reg.RMAP_STAT_NC = 0 ∧ fld t Reg.RMAP_GEN_CUR = 5)) = true :=
  ⟨(quiet (by decide +kernel) rfl).1, by decide +kernel⟩

/-- Slot A of the head lies at 0: the two lenslets' records there, the eight residuals on the next page. -/
theorem wit_MapsAreStaged : noInject (sMap 2) ∧ clean (sMap 2) 0x8000 152 ∧ (mayWrite (sMap 2) grpLossless 0 16 ∧ sound (sMap 2) 0 16) ∧
    (mayWrite (sMap 2) grpLossless 0x1000 8 ∧ sound (sMap 2) 0x1000 8) ∧
    (rmapBase (sMap 2) (1 - curSlot (sMap 2)) = 0 ∧ mapRecs (sMap 2) = 16 ∧ residStart (sMap 2) = 0x1000) ∧
    runs .raymapStageDone (sMap 2) (fun t => decide (tblGetRun 0#8 t.mem 0 24 = pad 24 [9#8] ∧ tblGetRun 0#8 t.mem 0xFF8 24 = pad 8 [] ++ pad 16 [5#8] ∧
      tblGetRun 0#8 t.mem 0x8000 152 = mapImage)) = true :=
  ⟨noInject_of (by decide +kernel) (by decide +kernel), clean_of_soundB (by decide +kernel) (by decide +kernel),
    ⟨mayWrite_of (by decide +kernel) (by decide +kernel) (by decide +kernel) (by decide +kernel), sound_of_soundB (by decide +kernel)⟩,
    ⟨mayWrite_of (by decide +kernel) (by decide +kernel) (by decide +kernel) (by decide +kernel), sound_of_soundB (by decide +kernel)⟩,
    by decide +kernel, by decide +kernel⟩

/-- A uniformity image of one word for wick 0. -/
def uniBytes : Bytes :=
  let t := natLe 0 4 ++ natLe 1 4 ++ natLe 80 4 ++ natLe (crc32c (natLe 3 4)) 4
  let h := natLe 0x565A5554 4 ++ natLe 0x0100 2 ++ natLe 64 2 ++ natLe 1 2 ++ natLe 0 2 ++ natLe 84 4 ++ natLe (crc32c t) 4 ++ pad 40 []
  h ++ natLe (crc32c h) 4 ++ t ++ natLe 3 4

/-- The image in a stored block of a gzip member. -/
def uniGz : Bytes :=
  [0x1F#8, 0x8B#8, 8#8, 0#8, 0#8, 0#8, 0#8, 0#8, 0#8, 0xFF#8, 1#8, 84#8, 0#8, 0xAB#8, 0xFF#8] ++ uniBytes ++ natLe (crc32 uniBytes) 4 ++ natLe 84 4

def dUni (gz : Nat) : Bytes := desc 0x0F 0 (natLe gz 4 ++ natLe 0x1000 8 ++ natLe (if gz = 1 then 107 else 84) 4)
def sUni (gz : Nat) : State :=
  let s := setFld (setFld (setFld (sHead 0 dotImg (dUni gz)) (Reg.SCAN_W_COLS_COUNT 0) 2) Reg.RMAP_UNI_STAGE_SIZE_SIZE 4096) Reg.RMAP_UNI_STAGE_BASE 0x2000
  { s with mem := tblSetRun 0#8 s.mem 0x1000 (if gz = 1 then uniGz else uniBytes) }
def sUnpack : State :=
  let s := sUni 1
  let s := { s with rmap := { s.rmap with push := some ⟨{}, 0x1000, 107, true, [], false⟩ } }
  { s with hle := { s.hle with uni := some 1 } }

set_option maxRecDepth 100000 in
theorem wit_TablesArePushed : (sUni 0).settled ∧
    (ready cmdUniformityPush 0 (dUni 0) (sUni 0) = true ∧ (uniImage 0x1000 84 (accepted 0 (dUni 0) (sUni 0))).2.isSome = true ∧
      runs (.uniformityPush 0) (sUni 0) (fun t => decide (fld t Reg.RMAP_UNI_STAT_STATE = 1) && t.rmap.push.any fun p => decide (p.entries.length = 1)) = true) ∧
    (ready cmdUniformityPush 0 (dUni 1) (sUni 1) = true ∧
      runs (.uniformityPush 0) (sUni 1) (fun t => t.rmap.push.any fun p => p.unpacking && decide (p.len = 107)) = true) ∧
    runs .uniUnpackDone sUnpack (fun t => decide (fld t Reg.RMAP_UNI_STAT_STATE = 1) &&
      t.rmap.push.any fun p => decide (p.entries.length = 1 ∧ p.src = 0x2000 ∧ p.len = 84)) = true :=
  ⟨(quiet (by decide +kernel) rfl).1, by decide +kernel⟩

set_option maxRecDepth 100000 in
theorem wit_PackedTablesAreUnpacked : noInject sUnpack ∧ clean sUnpack 0x1000 107 ∧
    (mayWrite sUnpack grpLossless (uniStage sUnpack) 84 ∧ sound sUnpack (uniStage sUnpack) 84) ∧ uniStage sUnpack = 0x2000 ∧
    (match gunzip (peekRange (fresh sUnpack) grpLossless 0x1000 107) 4096 with | .ok b => decide (b = uniBytes) | _ => false) = true ∧
    runs .uniUnpackDone sUnpack (fun t => decide (tblGetRun 0#8 t.mem 0x1FF8 96 = pad 8 [] ++ uniBytes ++ pad 4 [])) = true :=
  ⟨noInject_of (by decide +kernel) (by decide +kernel), clean_of_soundB (by decide +kernel) (by decide +kernel),
    ⟨mayWrite_of (by decide +kernel) (by decide +kernel) (by decide +kernel) (by decide +kernel), sound_of_soundB (by decide +kernel)⟩,
    by decide +kernel⟩

/-- Slot A stores zeros: its image fails step 1 of Table 17-3, and the image in force stays. -/
def dActivate : Bytes := sealed 0x80 [1#8]
def sActivate : State := { sealedFront 0x80 [1#8] (withMem .readyDark []) with img := some lensImg }

theorem wit_StructuresAreRefused : sActivate.settled ∧ ready cmdStructActivate 0 dActivate sActivate = true ∧ actAllowed sActivate = true ∧
    acBroken sActivate dActivate = false ∧ acStore dActivate = false := ⟨(quiet (by decide +kernel) rfl).1, by decide +kernel⟩

def dActMem : Bytes := sealed 0x80 (natLe 0 4 ++ natLe 0x1000 8 ++ natLe 96 4)
def sActMem : State := { sealedFront 0x80 (natLe 0 4 ++ natLe 0x1000 8 ++ natLe 96 4) (withMem .readyDark []) with img := some lensImg }

theorem wit_ImagesFromMemoryAreRefused : sActMem.settled ∧ ready cmdStructActivate 0 dActMem sActMem = true ∧ actAllowed sActMem = true ∧
    acBroken sActMem dActMem = false ∧
    (let x := sourceImage 0 0x1000 96 (accepted 0 dActMem sActMem); x.2.2.2.1.isNone = true ∧ (validateTo13 x.1 x.2.1 x.2.2.1 x.2.2.2.2).isSome = true) ∧
    runs (.structActivate 0) sActMem (fun t => answered dActMem stStructRefused t && decide (t.img = some lensImg)) = true :=
  ⟨(quiet (by decide +kernel) rfl).1, by decide +kernel⟩

/-! ### Engines -/

/-- FILL of one pixel at (0, 0) of surface 15, or aimed past it. -/
def dFill (x : Nat) : Bytes := desc 8 0 ([1#8, 0#8, 15#8, 0#8] ++ natLe 0 4 ++ natLe 0 2 ++ natLe 0 2 ++ natLe x 2 ++ natLe 0 2 ++ natLe 0x12345678 8)
def sBlit (d : Bytes) : State :=
  front d (withMem .lit [(Reg.BLT_SURF_BASE_BASE 15, 0x4000), (Reg.BLT_SURF_FMT_STRIDE 15, 64), (Reg.BLT_SURF_SIZE_WIDTH 15, 16),
    (Reg.BLT_SURF_SIZE_HEIGHT 15, 4), (Reg.BLT_SURF_FMT_FMT 15, 1), (Reg.BLT_SURF_CLIP_X1 15, 0xFFFF), (Reg.BLT_SURF_CLIP_Y1 15, 0xFFFF)])

/-- A source chain at 0x1000 of one entry of 16 bytes at 0x2000; the result record at 0x3000. -/
def dHz : Bytes := desc 9 0 ([1#8, 0#8, 0#8, 0#8] ++ natLe 0x1000 8 ++ natLe 0x1100 8 ++ natLe 0x3000 8 ++ natLe 0 8)
def sHz (d : Bytes) : State := { front d (withMem .lit []) with mem := [(0x1001, 0x20#8), (0x1008, 16#8), (0x100C, 1#8)] }
def hzRun0 : HzRun := ⟨{ origin := .ring 0 0 0, tag := 7, opcode := 9 }, 0, dHz, [(0x2000, 16)]⟩

theorem wit_Engines : (sBlit (dFill 0)).settled ∧
    (let s := sBlit (dFill 0); let d := dFill 0; ready cmdBlit 0 d s = true ∧ blitTurn s = some 0 ∧
      (blCheck (accepted 0 d s) d (surfOf (surfNow s (blDst d))) (surfOf (surfNow s (blSrc d)))).isNone = true ∧
      runs (.blit 0) s (fun t => t.blt.run.isSome && decide (fld t Reg.BLT_STAT_BUSY = 1 ∧ fld t Reg.BLT_STAT_TAG = 7)) = true) ∧
    (let s := setFld (sBlit (dFill 0)) (Reg.BLT_SURF_SIZE_WIDTH 15) 0; let d := dFill 0;
      (blCheck (accepted 0 d s) d (surfOf (surfNow s (blDst d))) (surfOf (surfNow s (blSrc d)))).isSome = true ∧
      runs (.blit 0) s (fun t => t.blt.run.isNone && decide (fld t Reg.BLT_LAST_ERR_STATUS ≠ 0)) = true) ∧
    (let s := sBlit (dFill 16); let x : BltRun := ⟨{ origin := .ring 0 0 0, tag := 7, opcode := 8 }, 0, dFill 16, surfNow s 15, surfNow s 0⟩;
      let s := { s with blt := { s.blt with run := some x } }; blEmpty x.desc (surfOf x.dst) = true ∧ jobOpen s x.job = true ∧
      runs .blitComplete s (fun t => t.blt.run.isNone && decide (fld t Reg.BLT_CNT_DONE = 1) && completed 7 8 stOK 0 t) = true) ∧
    (let s := sHz dHz; ready cmdHzJob 0 dHz s = true ∧ hzBodyOk s dHz = true ∧
      (readChain (chainFuel (accepted 0 dHz s)) (hzSrc dHz) 0 [] (accepted 0 dHz s)).2 = some [(0x2000, 16)] ∧
      runs (.hzJob 0) s (fun t => decide (t.hle.queue = [hzRun0])) = true) ∧
    (let s := sHz dHz; let s := { s with hle := { s.hle with queue := [hzRun0] } }; stageWants s = false ∧ uniWants s = false ∧
      flag s Reg.HLE_CTRL_HOLD = false ∧ freePipe s = some 1 ∧ hzNext s = some hzRun0 ∧
      runs .hzJobStart s (fun t => decide (tblGet none t.hle.run 1 = some hzRun0 ∧ pipeState t 1 = 1 ∧ t.hle.queue = [])) = true) :=
  ⟨(quiet (by decide +kernel) rfl).1, by decide +kernel⟩

/-- FILL of the pixel at (1, 1) of surface 15; COPY of its pixel at (0, 0) to (1, 1). -/
def dOne (op : Nat) : Bytes := desc 8 0 (natLe op 1 ++ [0#8, 0xFF#8, 0#8] ++ pad 8 [] ++ natLe 1 2 ++ natLe 1 2 ++ natLe 0 4 ++
  natLe 0xFFFFFFFF 4 ++ natLe (if op = 1 then 0x12345678 else 0) 4)
def blOne (op : Nat) : BltRun := ⟨jobNvm, 0, dOne op, surfNow (sBlit (dOne op)) 15, surfNow (sBlit (dOne op)) 15⟩
def sOne (op : Nat) : State :=
  let s := sBlit (dOne op)
  { s with blt := { s.blt with run := some (blOne op) }, mem := tblSetRun 0#8 s.mem 0x4000 [1#8, 2#8, 3#8, 4#8] }

/-- The lines that the BLIT reads, and the writes of its rows from them. -/
def oneLines (op : Nat) : List Nat := blLines (dOne op) (surfOf (blOne op).dst) (surfOf (blOne op).src) ++ blEdges (dOne op) (surfOf (blOne op).dst)
def oneWork (op : Nat) : List (Nat × Bytes) :=
  (blWork (dOne op) (surfOf (blOne op).dst) (surfOf (blOne op).src) ((oneLines op).map fun n => (n, some (tblGetRun 0#8 (sOne op).mem (64 * n) 64)))).map
    fun w => (w.1.1, w.1.2.map Prod.fst)

theorem wit_BlitsWriteTheirPixels : (noInject (sOne 0) ∧ noInject (sOne 1)) ∧ clean (sOne 0) 0x4000 64 ∧ (sound (sOne 0) 0x4044 4 ∧ sound (sOne 1) 0x4044 4) ∧
    (blEmpty (dOne 1) (surfOf (blOne 1).dst) = false ∧ oneLines 1 = [] ∧ oneWork 1 = [(0x4044, [0x78#8, 0x56#8, 0x34#8, 0x12#8])] ∧
      writeCheck (sOne 1) grp2d 0x4044 4 = .ok ∧ runs .blitComplete (sOne 1) (fun t =>
        decide (t.mem = tblSetRun 0#8 (sOne 1).mem 0x4044 [0x78#8, 0x56#8, 0x34#8, 0x12#8] ∧ fld t Reg.BLT_CNT_DONE = 1) && completed 9 0x0C stOK 0 t) = true) ∧
    (blEmpty (dOne 0) (surfOf (blOne 0).dst) = false ∧ oneLines 0 = [256] ∧ oneWork 0 = [(0x4044, [1#8, 2#8, 3#8, 4#8])] ∧
      writeCheck (sOne 0) grp2d 0x4044 4 = .ok ∧ runs .blitComplete (sOne 0) (fun t =>
        decide (t.mem = tblSetRun 0#8 (sOne 0).mem 0x4044 [1#8, 2#8, 3#8, 4#8] ∧ fld t Reg.BLT_CNT_DONE = 1) && completed 9 0x0C stOK 0 t) = true) :=
  ⟨⟨noInject_of (by decide +kernel) (by decide +kernel), noInject_of (by decide +kernel) (by decide +kernel)⟩,
    clean_of_soundB (by decide +kernel) (by decide +kernel), ⟨sound_of_soundB (by decide +kernel), sound_of_soundB (by decide +kernel)⟩, by decide +kernel⟩

/-- A raw job of pipe 3 with its source at 0x2000, a destination of 64 bytes at 0x2800, its result record at 0x3000. -/
def dHzRaw (op : Nat) : Bytes := desc 9 0 (natLe op 1 ++ [1#8, 0#8, 0#8] ++ natLe 0x1000 8 ++ natLe 0x1100 8 ++ natLe 0x3000 8 ++ natLe 0 8)
def hzRaw3 : Bytes := [7#8, 7#8, 9#8]
/-- The three bytes in a fixed block. -/
def hzRaw5 : Bytes := [99#8, 103#8, 231#8, 4#8, 0#8]
def sHzEnd (op : Nat) (src : Bytes) : State :=
  let s := withMem .lit []
  { s with mem := tblSetRun 0#8 (tblSetRun 0#8 [] 0x1100 (natLe 0x2800 8 ++ natLe 64 4 ++ [1#8])) 0x2000 src,
           hle := { s.hle with run := [(3, some ⟨jobNvm, 0, dHzRaw op, [(0x2000, src.length)]⟩)] } }

/-- The job's premises on memory. -/
def hzMemory (s : State) (n m : Nat) : Prop := noInject s ∧ (clean s 0x2000 n ∧ clean s 0x1100 16) ∧
  (mayWrite s grpLossless 0x3000 32 ∧ sound s 0x3000 32) ∧ mayWrite s grpLossless 0x2800 m ∧ sound s 0x2800 m

/-- Of an empty input (R371): one fixed block, as the free bits of a dynamic block enter those of others (log 13). -/
theorem wit_CompressionsEnd : hzMemory (sHzEnd 1 []) 0 2 ∧
    (let s := sHzEnd 1 []; tblGetRun 0#8 s.mem 0x1100 16 = natLe 0x2800 8 ++ natLe 64 4 ++ [1#8, 0#8, 0#8, 0#8] ∧ hzResOk s (dHzRaw 1) = true ∧
      hzRaw (dHzRaw 1) = true ∧ deflate [] (hzEffort (dHzRaw 1)) (hzLazy (dHzRaw 1)) true = [3#8, 0#8] ∧ hzVerify true [3#8, 0#8] 0 = ([], true) ∧
      runs (.hzJobEnd 3) s (fun t => decide (t.mem = tblSetRun 0#8 (tblSetRun 0#8 s.mem 0x2800 [3#8, 0#8]) 0x3000
        (hzRecordBytes { status := 0, crc := crc32 [], inPos := 0, outJob := 2, outTotal := 2 })) && completed 9 0x0C stOK 0 t) = true) :=
  ⟨⟨noInject_of (by decide +kernel) (by decide +kernel), ⟨clean_of_soundB (by decide +kernel) (by decide +kernel), clean_of_soundB (by decide +kernel) (by decide +kernel)⟩,
    ⟨mayWrite_of (by decide +kernel) (by decide +kernel) (by decide +kernel) (by decide +kernel), sound_of_soundB (by decide +kernel)⟩,
    mayWrite_of (by decide +kernel) (by decide +kernel) (by decide +kernel) (by decide +kernel), sound_of_soundB (by decide +kernel)⟩, by decide +kernel⟩

theorem wit_DecompressionsEnd : hzMemory (sHzEnd 0 hzRaw5) 5 3 ∧
    (let s := sHzEnd 0 hzRaw5; hzOp (dHzRaw 0) = 0 ∧
      (infRun (infFuel (hzRaw5.map some)) 4 { r := ⟨hzRaw5.map some, 0, 0⟩, raw := true, multi := false }).2 = (hzRaw3, some .ended) ∧
      runs (.hzJobEnd 3) s (fun t => decide (t.mem = tblSetRun 0#8 (tblSetRun 0#8 s.mem 0x2800 hzRaw3) 0x3000
        (hzRecordBytes { status := 0, crc := crc32 hzRaw3, inPos := 5, outJob := 3, outTotal := 3 })) && completed 9 0x0C stOK 0 t) = true) :=
  ⟨⟨noInject_of (by decide +kernel) (by decide +kernel), ⟨clean_of_soundB (by decide +kernel) (by decide +kernel), clean_of_soundB (by decide +kernel) (by decide +kernel)⟩,
    ⟨mayWrite_of (by decide +kernel) (by decide +kernel) (by decide +kernel) (by decide +kernel), sound_of_soundB (by decide +kernel)⟩,
    mayWrite_of (by decide +kernel) (by decide +kernel) (by decide +kernel) (by decide +kernel), sound_of_soundB (by decide +kernel)⟩, by decide +kernel⟩

end Sys2Proof.Tests
end

section
/-! PROOFS. What a command's effect must leave alone so that nothing is left to settle after it, and what the shared
operations of the host port may change: messages and events. -/

namespace Sys2Proof.HostPort

open Machine

/-! ### What keeps a state settled -/

/-- The kinds of state that settling reads, besides GEN_STATE, the raster and the registers of the wick lanes and rails. -/
def idleParts : List Part := [.structure, .sequence, .lens, .snuff, .store, .core, .rails]

theorem lensDue_of_frame {ps : List Part} {s t : State} (h : Frame ps s t) (hd : ∀ p ∈ idleParts, p ∉ ps) :
    lensDue t = lensDue s := by
  obtain ⟨hl, -⟩ := h .lens (hd _ (by simp [idleParts]))
  have hs : t.snuff = s.snuff := h .snuff (hd _ (by simp [idleParts]))
  obtain ⟨-, -, -, -, hrun, hrew, -⟩ := h .store (hd _ (by simp [idleParts]))
  obtain ⟨-, hc⟩ := h .core (hd _ (by simp [idleParts]))
  have hb : lensBusyWith t = lensBusyWith s := by simp only [lensBusyWith, hl]
  have hf : forceReady t = forceReady s := by
    funext f
    simp only [forceReady, hb, hs, hrun]
  simp only [lensDue, lensFree, hf, hl, hs, hrun, hrew, hc]

theorem groupsReady_of_frame {ps : List Part} {s t : State} (h : Frame ps s t) (hd : Part.regs 0x0D ∉ ps) :
    groupsReady t = groupsReady s := by
  have hr : ∀ o, 0x340000 ≤ o → o < 0x380000 → reg t o = reg s o := fun o h1 h2 => by
    refine h (.regs 0x0D) hd o ?_ (by show o ≠ 0x18; omega)
    unfold blockOf
    iterate 14 rw [if_neg (by omega)]
    rw [if_pos h2]
  have hc : fld t Reg.WLN_CTRL_ALLOW_DEGRADED = fld s Reg.WLN_CTRL_ALLOW_DEGRADED :=
    fld_congr_reg (hr 0x340010 (by decide) (by decide))
  rw [Bool.eq_iff_iff]
  simp only [groupsReady, flag, hc, Bool.or_eq_true, List.all_eq_true, groups, List.mem_range]
  refine or_congr_right (forall_congr' fun g => imp_congr_right fun hg => ?_)
  rw [fld_congr_reg (f := Reg.WLN_GCFG_GEN g) (hr (0x340100 + 0x40 * g) (by omega) (by omega)),
    fld_congr_reg (f := Reg.WLN_GSTAT_STATE g) (hr (0x340104 + 0x40 * g) (by omega) (by omega))]

theorem lightDue_of_frame {ps : List Part} {s t : State} (h : Frame ps s t)
    (hd : ∀ p ∈ [Part.sequence, .lamp, .regs 0x0D, .regs 0x11], p ∉ ps) : lightDue t = lightDue s := by
  obtain ⟨-, hw, -⟩ := h .sequence (hd _ (by simp))
  have hg : reg t Reg.GEN_STATE = reg s Reg.GEN_STATE := h .lamp (hd _ (by simp))
  have hr : reg t Reg.RAIL_STAT = reg s Reg.RAIL_STAT :=
    h (.regs 0x11) (hd _ (by simp)) _ (blockOf_rail (by decide) (by decide)) (by decide)
  have hu : fld t Reg.RAIL_STAT_USE = fld s Reg.RAIL_STAT_USE := fld_congr_reg hr
  have hpg : fld t Reg.RAIL_STAT_PGOOD = fld s Reg.RAIL_STAT_PGOOD := fld_congr_reg hr
  have hl : lamp t = lamp s := lamp_congr (fld_congr_reg hg)
  have ht : fld t Reg.GEN_STATE_TEST = fld s Reg.GEN_STATE_TEST := fld_congr_reg hg
  simp only [lightDue, railsGood, flag, groupsReady_of_frame h (hd _ (by simp)), hw, hl, ht, hu, hpg]

/-- A settled state stays settled while what settling reads is left alone; the lamplighter may move, away from neither
HOUSEKEEPING nor into DARK_FAULT, where no PLAY is due afterwards. -/
theorem settled_of_kept {ps : List Part} {s t : State} (h : Frame ps s t) (hd : ∀ p ∈ idleParts, p ∉ ps) (hs : s.settled)
    (hh : t.scan.halted = s.scan.halted) (hl : lamp t = lamp s ∨ lamp s ≠ .housekeeping ∧ lamp t ≠ .darkFault)
    (hp : lightDue t = false) : t.settled := by
  obtain ⟨-, hact, -⟩ := h .structure (hd _ (by simp [idleParts]))
  obtain ⟨hord, -⟩ := h .sequence (hd _ (by simp [idleParts]))
  obtain ⟨-, -, hrun, hq, -⟩ := h .store (hd _ (by simp [idleParts]))
  obtain ⟨-, -, -, -, -, -, hv, -⟩ := h .rails (hd _ (by simp [idleParts]))
  refine ⟨fun a ha hb => ?_, ?_, hh.trans hs.halted, (lensDue_of_frame h hd).trans hs.lens, hp, ?_⟩
  · have hk := hs.act a (hact ▸ ha) hb
    exact hl.elim (fun e => e.trans hk) fun e => absurd hk e.1
  · rcases hl with e | ⟨-, e⟩
    · rw [hord, e]; exact hs.orderly
    · exact .inr e
  · simp only [hv, nvmHas, hq, hrun]
    exact hs.vrm

/-- What settling reads. -/
def settleParts : List Part := idleParts ++ [.lamp, .scan, .regs 0x0D, .regs 0x11]

theorem settled_of_frame {ps : List Part} {s t : State} (h : Frame ps s t) (hd : ∀ p ∈ settleParts, p ∉ ps) (hs : s.settled) :
    t.settled := by
  have hm : ∀ {p}, p ∈ settleParts → p ∉ ps := fun hp => hd _ hp
  have hscan : t.scan = s.scan := h .scan (hm (by simp [settleParts]))
  have hlamp : reg t Reg.GEN_STATE = reg s Reg.GEN_STATE := h .lamp (hm (by simp [settleParts]))
  refine settled_of_kept h (fun p hp => hm (List.mem_append_left _ hp)) hs (by rw [hscan])
    (.inl (lamp_congr (fld_congr_reg hlamp))) ?_
  rw [lightDue_of_frame h (fun p hp => hm ?_)]
  · exact hs.light
  · simp only [List.mem_cons, List.not_mem_nil, or_false] at hp
    rcases hp with rfl | rfl | rfl | rfl <;> simp [settleParts, idleParts]

theorem settled_fresh {s : State} (h : s.settled) : (fresh s).settled :=
  settled_of_frame (frame_fresh s) (by simp) h

theorem frame_held (s : State) (x : Option (Nat × Nat)) : Frame [.held] s { s with held := x } := fun p hp => by
  cases p <;> first | exact fun _ _ _ => rfl | rfl | exact absurd List.mem_cons_self hp | simp [Part.same]

/-- The state the meaning of a host write to a register starts from (R11). -/
def freshWrite (s : State) : State := { fresh s with held := none }

theorem settled_freshWrite {s : State} (h : s.settled) : (freshWrite s).settled :=
  settled_of_frame (frame_held (fresh s) none) (by decide) (settled_fresh h)

/-! ### Changes: the kinds of state and the registers an operation may change, and what has left the block -/

/-- From `s` to `t` only the kinds of state of `ps` and the registers of `w` have changed, and what had left the block
has left it still. -/
structure Changes (ps : List Part) (w : Nat → Prop) (s t : State) : Prop where
  frame : Frame ps s t
  regs : ∀ o, ¬ w o → reg t o = reg s o
  out : s.out <+: t.out

section Changes

variable {ps : List Part} {w : Nat → Prop}

theorem Changes.refl (s : State) : Changes ps w s s := ⟨Frame.refl _ s, fun _ _ => rfl, List.prefix_refl _⟩

theorem Changes.trans {s t u : State} (h : Changes ps w s t) (k : Changes ps w t u) : Changes ps w s u :=
  ⟨h.frame.trans k.frame, fun o ho => (k.regs o ho).trans (h.regs o ho), h.out.trans k.out⟩

theorem Changes.mono {qs : List Part} {v : Nat → Prop} {s t : State} (h : Changes ps w s t) (hp : ps ⊆ qs)
    (hw : ∀ o, w o → v o) : Changes qs v s t :=
  ⟨h.frame.mono hp, fun o ho => h.regs o fun hc => ho (hw o hc), h.out⟩

theorem Changes.fld_eq {s t : State} (h : Changes ps w s t) {f : Fld} (hf : ¬ w f.off) : fld t f = fld s f :=
  fld_congr_reg (h.regs _ hf)

theorem Changes.sent {s t : State} (h : Changes ps w s t) {e : Emission} (he : e ∈ s.out) : Sent e t := h.out.subset he

theorem changes_setReg (s : State) (o : Nat) (v : DWord) (hp : Part.regs (blockOf o) ∈ ps) (hw : w o)
    (hg : o ≠ Reg.GEN_STATE) : Changes ps w s (setReg s o v) :=
  ⟨(frame_setReg s o v hg).mono (by simpa using hp), fun k hk => reg_setReg_ne s v fun e => hk (e ▸ hw), List.prefix_refl _⟩

theorem changes_setFld (s : State) (f : Fld) (v : Nat) (hp : Part.regs (blockOf f.off) ∈ ps) (hw : w f.off)
    (hg : f.off ≠ Reg.GEN_STATE) : Changes ps w s (setFld s f v) := changes_setReg s f.off _ hp hw hg

theorem changes_setRing (s : State) (r : Nat) (x : Ring) (hp : Part.rings ∈ ps) : Changes ps w s (setRing s r x) :=
  ⟨(frame_setRing s r x).mono (by simpa using hp), fun _ _ => rfl, List.prefix_refl _⟩

theorem changes_emit (s : State) (e : Emission) : Changes ps w s (emit s e) :=
  ⟨(frame_emit s e).mono (by simp), fun _ _ => rfl, List.prefix_append _ _⟩

theorem changes_pending (s : State) (q : List Instr) : Changes ps w s { s with pending := q } :=
  ⟨fun p _ => by cases p <;> first | exact fun _ _ _ => rfl | rfl | simp [Part.same], fun _ _ => rfl, List.prefix_refl _⟩

end Changes

/-- A command whose effect leaves nothing to settle completes with that effect. -/
theorem completes_done {c : Instr} {f : State → State} {s : State} {P : State → Prop} (hx : exec c s = done f s)
    (hs : (f (fresh s)).settled) (hP : ∀ t, Changes [] (fun _ => False) (f (fresh s)) t → P t) : Completes c s P :=
  ⟨_, hx.trans (done_of_settled hs), hP _ (changes_pending _ _)⟩

theorem completes_doneWrite {c : Instr} {f : State → State} {s : State} {P : State → Prop} (hx : exec c s = doneWrite f s)
    (hs : (f (freshWrite s)).settled) (hP : ∀ t, Changes [] (fun _ => False) (f (freshWrite s)) t → P t) : Completes c s P :=
  ⟨_, hx.trans (doneWrite_of_settled hs), hP _ (changes_pending _ _)⟩

/-! ### Messages and events (R437, R540) -/

/-- The records of messages sent and late. -/
def msgReg (o : Nat) : Prop := o = Reg.HOST_VEC_SENT ∨ o = Reg.HOST_VEC_LATE

/-- Those, and the records of the events. -/
def eventReg (o : Nat) : Prop := msgReg o ∨ 0x3E0100 ≤ o ∧ o < 0x3E0120 ∨ 0x3E1000 ≤ o

theorem not_msgReg {o : Nat} (h : o < 0x48 ∨ 0x50 < o) : ¬ msgReg o := by
  rintro (rfl | rfl) <;> revert h <;> decide

theorem not_eventReg {o : Nat} (h : o < 0x48 ∨ 0x50 < o) (he : o < 0x3E0100 ∨ 0x3E0120 ≤ o ∧ o < 0x3E1000) : ¬ eventReg o := by
  rintro (hm | hm)
  · exact not_msgReg h hm
  · omega

theorem regs_sendMsix (v : Nat) (s : State) : (sendMsix v s).regs = s.regs := by
  unfold sendMsix
  split
  · rfl
  · split <;> rfl

theorem out_sendMsix (v : Nat) (s : State) : s.out <+: (sendMsix v s).out := by
  unfold sendMsix
  split
  · exact List.prefix_refl _
  · split
    · exact List.prefix_refl _
    · exact List.prefix_append _ _

theorem changes_sendMsix (v : Nat) (s : State) : Changes [.messages] msgReg s (sendMsix v s) :=
  ⟨frame_sendMsix v s, fun o _ => reg_congr (regs_sendMsix v s) o, out_sendMsix v s⟩

theorem changes_msgReg (s : State) (o : Nat) (v : DWord) (h : msgReg o) :
    Changes [.messages, .regs 0x01] msgReg s (setReg s o v) := by
  have hb : blockOf o = 0x01 := by rcases h with h | h <;> rw [h] <;> rfl
  exact changes_setReg s o v (by simp [hb]) h (by rcases h with h | h <;> rw [h] <;> decide)

theorem changes_vecOccur (v : Nat) (s : State) : Changes [.messages, .regs 0x01] msgReg s (vecOccur v s) := by
  unfold vecOccur
  extract_lets sent
  split
  · exact changes_msgReg s _ _ (.inr rfl)
  · exact (changes_msgReg s _ _ (.inl rfl)).trans ((changes_sendMsix v _).mono (by simp) fun _ h => h)

theorem changes_eventReg (s : State) (o : Nat) (v : DWord) (h : 0x3E0100 ≤ o ∧ o < 0x3E0120 ∨ 0x3E1000 ≤ o) (hk : o < 0x400000) :
    Changes eventParts eventReg s (setReg s o v) :=
  changes_setReg s o v (by rw [blockOf_mgmt (by omega) hk]; simp [eventParts]) (.inr h) (by show o ≠ 0x18; omega)

theorem changes_storeFirst (src data : Nat) (forced : Bool) (s : State) (h : src < 256) :
    Changes eventParts eventReg s (storeFirst src data forced s) := by
  have hreg : ∀ (t : State) (o : Nat) (v : DWord), 0x3E1000 ≤ o → o < 0x400000 → Changes eventParts eventReg t (setReg t o v) :=
    fun t o v h1 h2 => changes_eventReg t o v (.inr h1) h2
  have hcnt : ∀ (t : State) (f : Fld) (v : Nat), f.off = 0x3E1000 + 0x40 * src → Changes eventParts eventReg t (setFld t f v) :=
    fun t f v hf => hreg t f.off _ (by omega) (by omega)
  unfold storeFirst
  extract_lets s1 s2
  have h1 : Changes eventParts eventReg s s1 := hreg s (0x3E1008 + 0x40 * src) _ (by omega) (by omega)
  have h2 : Changes eventParts eventReg s1 s2 := by
    refine forAll_keeps (Changes eventParts eventReg s1) _ _ (fun i hi t ht => ht.trans ?_) s1 (Changes.refl s1)
    have hi4 : i < 4 := by simp at hi; omega
    exact hreg t (0x3E1010 + 0x40 * src + 8 * i) _ (by omega) (by omega)
  exact (h1.trans h2).trans ((hcnt s2 _ 1 rfl).trans (hcnt _ _ _ rfl))

theorem changes_recordEvent (src data : Nat) (forced : Bool) (s : State) (h : src < 256) :
    Changes eventParts eventReg s (recordEvent src data forced s) := by
  have hcnt : ∀ (t : State) (f : Fld) (v : Nat), f.off = 0x3E1000 + 0x40 * src → Changes eventParts eventReg t (setFld t f v) :=
    fun t f v hf => changes_eventReg t f.off _ (.inr (by omega)) (by omega)
  unfold recordEvent
  extract_lets s1 s2 s3
  have h1 : Changes eventParts eventReg s s1 :=
    changes_eventReg s (0x3E0100 + 8 * (src / 64)) _ (.inl (by omega)) (by omega)
  have h2 : Changes eventParts eventReg s1 s2 := by
    show Changes _ _ _ (ite _ _ _)
    split
    · exact hcnt s1 (Reg.MGMT_EV_CNT_OVF src) _ rfl
    · exact hcnt s1 (Reg.MGMT_EV_CNT_COUNT src) _ rfl
  have h3 : Changes eventParts eventReg s2 s3 := by
    show Changes _ _ _ (ite _ _ _)
    split
    · exact Changes.refl s2
    · exact changes_storeFirst src data forced s2 h
  refine (h1.trans h2).trans (h3.trans ?_)
  split
  · exact (changes_vecOccur _ s3).mono (by simp [eventParts]) fun _ ho => .inl ho
  · exact Changes.refl s3

theorem changes_raise (src : Nat) (cs : List Cap) (s : State) (h : src < 256) :
    Changes eventParts eventReg s (raise src cs s) := changes_recordEvent src _ false s h

end Sys2Proof.HostPort
end

section
/-! PROOFS. O17: the vectors of the host port (R437). -/

namespace Sys2Proof.HostPort

open Machine

/-! ### Bits of a 64-bit register -/

theorem bitOf_eq (v i : Nat) : bitOf v i = decide (bitsOf v i 1 = 1) := rfl

/-- A bit written reads as written, and every other bit as before. -/
theorem bitOf_putBit (x : DWord) (v w b : Nat) (hv : v < 64) :
    bitOf (BitVec.ofNat 64 (putBits x.toNat v 1 b)).toNat w = if w = v then decide (b % 2 = 1) else bitOf x.toNat w := by
  rw [BitVec.toNat_ofNat, Nat.mod_eq_of_lt (putBits_lt v 1 b x.isLt hv), bitOf_eq, bitOf_eq]
  split
  · next h => rw [h, bitsOf_put_same]; rfl
  · next h => rw [bitsOf_put_disjoint _ _ _ _ _ _ (by omega)]

/-! ### Vectors (R437) -/

/-- SENT of vector `v`. -/
def sentBit (s : State) (v : Nat) : Bool := bitOf (reg s Reg.HOST_VEC_SENT).toNat v

/-- LATE of vector `v`. -/
def lateBit (s : State) (v : Nat) : Bool := bitOf (reg s Reg.HOST_VEC_LATE).toNat v

/-- The message of vector `v` is held back: the vector or the function is masked. -/
def vecMasked (s : State) (v : Nat) : Bool := (tblGet {} s.msix v).masked || s.cfg.msixMask

/-- A write of one bit of SENT. -/
def putSent (v b : Nat) (s : State) : State :=
  setReg s Reg.HOST_VEC_SENT (BitVec.ofNat 64 (putBits (reg s Reg.HOST_VEC_SENT).toNat v 1 b))

/-- A write of one bit of LATE. -/
def putLate (v b : Nat) (s : State) : State :=
  setReg s Reg.HOST_VEC_LATE (BitVec.ofNat 64 (putBits (reg s Reg.HOST_VEC_LATE).toNat v 1 b))

theorem sentBit_putSent (s : State) {v : Nat} (w b : Nat) (hv : v < 64) :
    sentBit (putSent v b s) w = if w = v then decide (b % 2 = 1) else sentBit s w := by
  rw [sentBit, putSent, reg_setReg_same, bitOf_putBit _ _ _ _ hv, sentBit]

theorem lateBit_putLate (s : State) {v : Nat} (w b : Nat) (hv : v < 64) :
    lateBit (putLate v b s) w = if w = v then decide (b % 2 = 1) else lateBit s w := by
  rw [lateBit, putLate, reg_setReg_same, bitOf_putBit _ _ _ _ hv, lateBit]

@[simp] theorem sentBit_putLate (s : State) (v b w : Nat) : sentBit (putLate v b s) w = sentBit s w := by
  rw [sentBit, putLate, reg_setReg_ne s _ (by decide), sentBit]

@[simp] theorem lateBit_putSent (s : State) (v b w : Nat) : lateBit (putSent v b s) w = lateBit s w := by
  rw [lateBit, putSent, reg_setReg_ne s _ (by decide), lateBit]

@[simp] theorem sentBit_sendMsix (v w : Nat) (s : State) : sentBit (sendMsix v s) w = sentBit s w := by
  rw [sentBit, reg_congr (regs_sendMsix v s), sentBit]

@[simp] theorem lateBit_sendMsix (v w : Nat) (s : State) : lateBit (sendMsix v s) w = lateBit s w := by
  rw [lateBit, reg_congr (regs_sendMsix v s), lateBit]

/-- With MSI-X disabled no message goes out (R437). -/
theorem sendMsix_disabled {s : State} (v : Nat) (h : s.cfg.msixEnable = false) : sendMsix v s = s := by
  simp [sendMsix, h]

/-- Masked, the message waits in the pending bit array (R437). -/
theorem sendMsix_masked {s : State} {v : Nat} (h : s.cfg.msixEnable = true) (hm : vecMasked s v = true) :
    sendMsix v s = { s with pba := setInsert v s.pba } := by
  rw [vecMasked] at hm
  simp only [sendMsix, h, hm, Bool.not_true, Bool.false_eq_true, if_false, if_true]

/-- Otherwise it goes out (R437). -/
theorem sendMsix_open {s : State} {v : Nat} (h : s.cfg.msixEnable = true) (hm : vecMasked s v = false) :
    sendMsix v s = emit s (.msix v) := by
  rw [vecMasked] at hm
  simp only [sendMsix, h, hm, Bool.not_true, Bool.false_eq_true, if_false]

theorem vecOccur_sent {s : State} {v : Nat} (h : sentBit s v = true) : vecOccur v s = putLate v 1 s := by
  rw [sentBit] at h
  simp only [vecOccur, h, if_true, putLate]

theorem vecOccur_unsent {s : State} {v : Nat} (h : sentBit s v = false) : vecOccur v s = sendMsix v (putSent v 1 s) := by
  rw [sentBit] at h
  simp only [vecOccur, h, Bool.false_eq_true, if_false, putSent]

theorem ackVec_late {s : State} {v : Nat} (h : lateBit s v = true) : ackVec v s = sendMsix v (putLate v 0 s) := by
  rw [lateBit] at h
  simp only [ackVec, h, if_true, putLate]

theorem ackVec_onTime {s : State} {v : Nat} (h : lateBit s v = false) : ackVec v s = putSent v 0 s := by
  rw [lateBit] at h
  simp only [ackVec, h, Bool.false_eq_true, if_false, putSent]

/-- An occurrence while SENT is 1 sets LATE; one while it is 0 sets SENT and sends the message (R437). -/
theorem vecOccur_effect (s : State) {v : Nat} (hv : v < 64) :
    sentBit (vecOccur v s) v = true ∧
    (if sentBit s v then lateBit (vecOccur v s) v = true ∧ (vecOccur v s).out = s.out
     else if s.cfg.msixEnable = false then (vecOccur v s).out = s.out
     else if vecMasked s v then v ∈ (vecOccur v s).pba ∧ (vecOccur v s).out = s.out
     else (vecOccur v s).out = s.out ++ [.msix v]) := by
  cases h : sentBit s v
  · rw [vecOccur_unsent h]
    refine ⟨by simp [sentBit_putSent, hv], ?_⟩
    rw [if_neg Bool.false_ne_true]
    split
    · next he => rw [sendMsix_disabled (s := putSent v 1 s) v he]; rfl
    · next he =>
      have he' : (putSent v 1 s).cfg.msixEnable = true := eq_true_of_ne_false he
      split
      · next hm => rw [sendMsix_masked he' hm]; exact ⟨(mem_setInsert v v _).2 (.inl rfl), rfl⟩
      · next hm => rw [sendMsix_open he' (Bool.not_eq_true _ ▸ hm)]; rfl
  · rw [vecOccur_sent h]
    exact ⟨by rw [sentBit_putLate, h], by rw [if_pos rfl]; exact ⟨by simp [lateBit_putLate, hv], rfl⟩⟩

/-- What acknowledging other vectors leaves vector `v`: its bits, its masks, and the messages that went out or wait. -/
structure VecKept (v : Nat) (s t : State) : Prop where
  sent : sentBit t v = sentBit s v
  late : lateBit t v = lateBit s v
  cfg : t.cfg = s.cfg
  msix : t.msix = s.msix
  pba : s.pba ⊆ t.pba
  out : s.out <+: t.out

theorem VecKept.refl (v : Nat) (s : State) : VecKept v s s := ⟨rfl, rfl, rfl, rfl, fun _ h => h, List.prefix_refl _⟩

theorem VecKept.trans {v : Nat} {s t u : State} (h : VecKept v s t) (k : VecKept v t u) : VecKept v s u :=
  ⟨k.sent.trans h.sent, k.late.trans h.late, k.cfg.trans h.cfg, k.msix.trans h.msix, fun _ hm => k.pba (h.pba hm), h.out.trans k.out⟩

theorem vecKept_sendMsix (v w : Nat) (s : State) : VecKept v s (sendMsix w s) := by
  cases he : s.cfg.msixEnable
  · rw [sendMsix_disabled w he]; exact VecKept.refl v s
  · cases hm : vecMasked s w
    · rw [sendMsix_open he hm]
      exact ⟨rfl, rfl, rfl, rfl, fun _ h => h, List.prefix_append _ _⟩
    · rw [sendMsix_masked he hm]
      exact ⟨rfl, rfl, rfl, rfl, fun _ h => (mem_setInsert w _ _).2 (.inr h), List.prefix_refl _⟩

theorem vecKept_putSent {v w : Nat} (b : Nat) (s : State) (hw : w < 64) (h : v ≠ w) : VecKept v s (putSent w b s) :=
  ⟨by rw [sentBit_putSent s v b hw, if_neg h], lateBit_putSent s w b v, rfl, rfl, fun _ h => h, List.prefix_refl _⟩

theorem vecKept_putLate {v w : Nat} (b : Nat) (s : State) (hw : w < 64) (h : v ≠ w) : VecKept v s (putLate w b s) :=
  ⟨sentBit_putLate s w b v, by rw [lateBit_putLate s v b hw, if_neg h], rfl, rfl, fun _ h => h, List.prefix_refl _⟩

theorem vecKept_ackVec {v w : Nat} (s : State) (hw : w < 64) (h : v ≠ w) : VecKept v s (ackVec w s) := by
  cases hl : lateBit s w
  · rw [ackVec_onTime hl]; exact vecKept_putSent 0 s hw h
  · rw [ackVec_late hl]; exact (vecKept_putLate 0 s hw h).trans (vecKept_sendMsix v w _)

/-- Vector `v` has been acknowledged: LATE is clear, SENT stays where LATE was set, and then a message goes out. -/
structure Acked (v : Nat) (s t : State) : Prop where
  late : lateBit t v = false
  sent : sentBit t v = lateBit s v
  msg : lateBit s v = true → s.cfg.msixEnable = true → if vecMasked s v then v ∈ t.pba else Sent (.msix v) t

/-- What happens to other vectors afterwards changes nothing of it. -/
theorem Acked.kept {v : Nat} {s t u : State} (h : Acked v s t) (k : VecKept v t u) : Acked v s u := by
  refine ⟨k.late.trans h.late, k.sent.trans h.sent, fun hl he => ?_⟩
  have hm := h.msg hl he
  split at hm
  · next hv => rw [if_pos hv]; exact k.pba hm
  · next hv => rw [if_neg hv]; exact k.out.subset hm

/-- Nor does what happened to other vectors before. -/
theorem Acked.after {v : Nat} {s t u : State} (k : VecKept v s t) (h : Acked v t u) : Acked v s u := by
  refine ⟨h.late, h.sent.trans k.late, fun hl he => ?_⟩
  have hm := h.msg (k.late.trans hl) (by rw [k.cfg]; exact he)
  rwa [vecMasked, k.cfg, k.msix] at hm

theorem acked_ackVec {v : Nat} (s : State) (hv : v < 64) (h : sentBit s v = true) : Acked v s (ackVec v s) := by
  cases hl : lateBit s v
  · rw [ackVec_onTime hl]
    exact ⟨by rw [lateBit_putSent, hl], by simp [sentBit_putSent, hv, hl], fun h => by simp [hl] at h⟩
  · rw [ackVec_late hl]
    refine ⟨by simp [lateBit_putLate, hv], by simp [h, hl], fun _ he => ?_⟩
    split
    · next hm => rw [sendMsix_masked (s := putLate v 0 s) he hm]; exact (mem_setInsert v v _).2 (.inl rfl)
    · next hm => rw [sendMsix_open (s := putLate v 0 s) he (Bool.not_eq_true _ ▸ hm)]; exact List.mem_append_right _ List.mem_cons_self

theorem vecKept_acks {v : Nat} (ns : List Nat) (s : State) (hns : ∀ n ∈ ns, n < 64) (hv : v ∉ ns) :
    VecKept v s (forAll ns ackVec s) :=
  forAll_keeps (VecKept v s) ns ackVec (fun n hn t ht => ht.trans (vecKept_ackVec t (hns n hn) fun e => hv (e ▸ hn)))
    s (VecKept.refl v s)

/-- Each vector of a list without repetition is acknowledged once. -/
theorem acked_acks {v : Nat} (ns : List Nat) (s : State) (hns : ∀ n ∈ ns, n < 64) (hd : ns.Nodup) (hv : v ∈ ns)
    (h : sentBit s v = true) : Acked v s (forAll ns ackVec s) := by
  induction ns generalizing s with
  | nil => exact absurd hv List.not_mem_nil
  | cons n ns ih =>
    obtain ⟨hn, hd⟩ := List.nodup_cons.1 hd
    have hns' : ∀ m ∈ ns, m < 64 := fun m hm => hns m (List.mem_cons_of_mem n hm)
    have hn64 : n < 64 := hns n List.mem_cons_self
    rw [forAll_cons]
    by_cases e : v = n
    · subst e
      exact (acked_ackVec s hn64 h).kept (vecKept_acks ns _ hns' hn)
    · have k := vecKept_ackVec s hn64 e
      exact Acked.after k (ih _ hns' hd ((List.mem_cons.1 hv).resolve_left e) (k.sent.trans h))

/-- A write of HOST_VEC_ACK acknowledges every vector written 1 whose SENT is set, and leaves the others (R437). -/
theorem vecAck_effect (ack : Nat) (s : State) {v : Nat} (hv : v < 64) :
    ((bitOf ack v && sentBit s v) = true → Acked v s (vecAck ack s)) ∧
    (¬(bitOf ack v && sentBit s v) = true → VecKept v s (vecAck ack s)) := by
  unfold vecAck
  generalize hns : (List.range 64).filter (fun v => bitOf ack v && bitOf (reg s Reg.HOST_VEC_SENT).toNat v) = ns
  have hmem : ∀ n, n ∈ ns ↔ n < 64 ∧ (bitOf ack n && sentBit s n) = true := fun n => by
    rw [← hns, List.mem_filter, List.mem_range]; rfl
  have hlt : ∀ n ∈ ns, n < 64 := fun n hn => ((hmem n).1 hn).1
  have hd : ns.Nodup := hns ▸ List.nodup_range.filter _
  exact ⟨fun h => acked_acks ns s hlt hd ((hmem v).2 ⟨hv, h⟩) (Bool.and_eq_true_iff.1 h).2,
    fun h => vecKept_acks ns s hlt fun hm => h ((hmem v).1 hm).2⟩

theorem frame_ackVec (v : Nat) (s : State) : Frame [.messages, .regs 0x01] s (ackVec v s) := by
  cases hl : lateBit s v
  · rw [ackVec_onTime hl]; exact (changes_msgReg s _ _ (.inl rfl)).frame
  · rw [ackVec_late hl]
    exact (changes_msgReg s _ _ (.inr rfl)).frame.trans ((frame_sendMsix v _).mono (by simp))

theorem frame_vecAck (ack : Nat) (s : State) : Frame [.messages, .regs 0x01] s (vecAck ack s) :=
  Frame.forAll _ _ (fun v _ t => frame_ackVec v t) s

/-- Settles O17: an occurrence and an acknowledgement move the bits of their own vector alone. -/
theorem vectorsAcknowledgeOneByOne : Obligations.VectorsAcknowledgeOneByOne := by
  unfold Obligations.VectorsAcknowledgeOneByOne
  refine ⟨fun s v hv => vecOccur_effect s hv, fun s ack hs => ?_⟩
  refine completes_doneWrite rfl (settled_of_frame (frame_vecAck _ _) (by decide) (settled_freshWrite hs)) fun t ht v hv => ?_
  have hk : VecKept v (vecAck ack.toNat (freshWrite s)) t := by
    obtain ⟨hmsix, hcfg, hpba⟩ := ht.frame .messages List.not_mem_nil
    exact ⟨by rw [sentBit, ht.regs _ id, sentBit], by rw [lateBit, ht.regs _ id, lateBit], hcfg, hmsix,
      fun _ hm => by rwa [hpba], ht.out⟩
  obtain ⟨hacked, hkept⟩ := vecAck_effect ack.toNat (freshWrite s) hv
  extract_lets sent late
  split
  · next h =>
    obtain ⟨hlate, hsent, hmsg⟩ := (hacked h).kept hk
    exact ⟨hlate, hsent, hmsg⟩
  · next h =>
    obtain ⟨hsent, hlate, -⟩ := (hkept h).trans hk
    exact ⟨hlate, hsent⟩

end Sys2Proof.HostPort
end

section
/-! PROOFS. O18: doorbells (R412). -/

namespace Sys2Proof.HostPort

open Machine

/-! ### Errors where no unit has four follow-ups waiting (R545, R546) -/

/-- An error's place among its unit's follow-ups is written in MGMT_ESC alone. -/
theorem reg_followQueue (blk idx src cause : Nat) (s : State) {o : Nat} (h : o ≠ Reg.MGMT_ESC) :
    reg (followQueue blk idx src cause s).1 o = reg s o := by
  unfold followQueue
  extract_lets u f s1
  split
  · rfl
  · split
    · rfl
    · split
      · rw [reg_setFld_ne _ _ h, reg_setFld_ne _ _ h, reg_setFld_ne _ _ h]
      · exact reg_setFld_ne s1 _ h

/-- The parts an error may change that escalates nothing. -/
theorem frame_raiseErr_calm {s : State} (hc : s.calm) (blk idx src cause : Nat) (cs : List Cap) (h : src < 256) :
    Frame errParts s (raiseErr blk idx src cause cs s) := by
  have hr := frame_raise src cs s h
  have hf : (raise src cs s).followUps = s.followUps := hr .followUps (by decide)
  rw [raiseErr, followUp_calm _ _ _ _ _ _ (by rw [fuUnit, hf]; exact hc _)]
  exact hr.comp (frame_followQueue _ _ _ _ _) (by simp [errParts]) (by simp [errParts, eventParts])

/-- An error's event is recorded, whatever becomes of its follow-up, while it escalates nothing. -/
theorem ember_raiseErr_calm {s : State} (hc : s.calm) (blk idx src cause : Nat) (cs : List Cap) (h : src < 256) :
    Ember src (raiseErr blk idx src cause cs s) := by
  have hf : (raise src cs s).followUps = s.followUps := frame_raise src cs s h .followUps (by decide)
  rw [raiseErr, followUp_calm _ _ _ _ _ _ (by rw [fuUnit, hf]; exact hc _)]
  have he : reg (followQueue blk idx src cause (raise src cs s)).1 (emberFld src).off = reg (raise src cs s) (emberFld src).off :=
    reg_followQueue _ _ _ _ _ (by show 0x3E0100 + 8 * (src / 64) ≠ 0x3E0240; omega)
  unfold Ember flag
  rw [fld_congr_reg he]
  exact ember_raise src cs s h

/-! ### A ring that stops with an error (R418) -/

/-- The ring's registers once it has stopped with an error, before the error is raised. -/
def ringStopped (r cause : Nat) (s : State) : State :=
  setFld (setFld (setFld s (Reg.CMD_RING_STAT_STATE r) 2) (Reg.CMD_RING_STAT_ERR r) cause) (Reg.CMD_RING_CTRL_EN r) 0

theorem ringError_eq (r cause : Nat) (s : State) :
    ringError r cause s = raiseErr unitCmd 0 evCmdRingErr cause
      [(8, r), (8, cause), (16, fld (ringStopped r cause s) (Reg.CMD_RING_PTR_HEAD r)),
        (16, fld (ringStopped r cause s) (Reg.CMD_RING_PTR_TAIL r))] (ringStopped r cause s) := rfl

theorem frame_ringStopped (r cause : Nat) (s : State) (h : r < 8) : Frame [.regs 0x02] s (ringStopped r cause s) := by
  have hf : ∀ (t : State) (f : Fld) (v : Nat), 0x10000 ≤ f.off → f.off < 0x20000 → Frame [.regs 0x02] t (setFld t f v) :=
    fun t f v h1 h2 => frame_fld t f v (blockOf_cmd h1 h2) (by show _ ≠ 0x18; omega)
  exact ((hf s (Reg.CMD_RING_STAT_STATE r) _ (by show _ ≤ 0x10124 + _; omega) (by show 0x10124 + _ < _; omega)).trans
    (hf _ (Reg.CMD_RING_STAT_ERR r) _ (by show _ ≤ 0x10124 + _; omega) (by show 0x10124 + _ < _; omega))).trans
    (hf _ (Reg.CMD_RING_CTRL_EN r) _ (by show _ ≤ 0x10114 + _; omega) (by show 0x10114 + _ < _; omega))

/-- It reads STOPPED on an error, with the cause; its pointers read as before. -/
theorem fld_ringStopped (r cause : Nat) (s : State) :
    fld (ringStopped r cause s) (Reg.CMD_RING_STAT_STATE r) = 2 ∧
    fld (ringStopped r cause s) (Reg.CMD_RING_STAT_ERR r) = cause % 16 ∧
    fld (ringStopped r cause s) (Reg.CMD_RING_PTR_TAIL r) = fld s (Reg.CMD_RING_PTR_TAIL r) := by
  have hctrl : 0x10124 + 0x40 * r ≠ 0x10114 + 0x40 * r := by omega
  have hp1 : 0x10110 + 0x40 * r ≠ 0x10114 + 0x40 * r := by omega
  have hp2 : 0x10110 + 0x40 * r ≠ 0x10124 + 0x40 * r := by omega
  refine ⟨?_, ?_, ?_⟩
  · rw [ringStopped, fld_congr_reg (reg_setFld_ne _ _ hctrl),
      fld_setFld_ne _ (Reg.CMD_RING_STAT_ERR r) _ _ ⟨by simp, by simp⟩ (by simp) (.inr (.inl (by simp))),
      fld_setFld_same s (Reg.CMD_RING_STAT_STATE r) 2 ⟨by simp, by simp⟩]
    rfl
  · rw [ringStopped, fld_congr_reg (reg_setFld_ne _ _ hctrl), fld_setFld_same _ (Reg.CMD_RING_STAT_ERR r) _ ⟨by simp, by simp⟩]
    rfl
  · rw [ringStopped, fld_congr_reg (reg_setFld_ne _ _ hp1), fld_congr_reg (reg_setFld_ne _ _ hp2),
      fld_congr_reg (reg_setFld_ne _ _ hp2)]

/-- The same holds once the error is raised, and its event is recorded, while no unit has four follow-ups waiting. -/
theorem ringError_effect {s : State} (hc : s.calm) {r : Nat} (cause : Nat) (hr : r < 8) :
    Frame ([.regs 0x02] ++ errParts) s (ringError r cause s) ∧
    fld (ringError r cause s) (Reg.CMD_RING_STAT_STATE r) = 2 ∧
    fld (ringError r cause s) (Reg.CMD_RING_STAT_ERR r) = cause % 16 ∧
    fld (ringError r cause s) (Reg.CMD_RING_PTR_TAIL r) = fld s (Reg.CMD_RING_PTR_TAIL r) ∧
    Ember evCmdRingErr (ringError r cause s) := by
  have hs := frame_ringStopped r cause s hr
  have hf : (ringStopped r cause s).followUps = s.followUps := hs .followUps (by decide)
  have hc' : (ringStopped r cause s).calm := fun u => by rw [hf]; exact hc u
  have he : Frame errParts (ringStopped r cause s) (ringError r cause s) :=
    by rw [ringError_eq]; exact frame_raiseErr_calm hc' unitCmd 0 evCmdRingErr cause _ (by decide)
  have hk : ∀ f : Fld, 0x10000 ≤ f.off → f.off < 0x20000 → fld (ringError r cause s) f = fld (ringStopped r cause s) f :=
    fun f h1 h2 => fld_congr_reg (he (.regs 0x02) (by decide) _ (blockOf_cmd h1 h2) (by show _ ≠ 0x18; omega))
  obtain ⟨hstate, herr, htail⟩ := fld_ringStopped r cause s
  refine ⟨hs.comp he (List.subset_append_left _ _) (List.subset_append_right _ _), ?_, ?_, ?_,
    by rw [ringError_eq]; exact ember_raiseErr_calm hc' unitCmd 0 evCmdRingErr cause _ (by decide)⟩
  · rw [hk (Reg.CMD_RING_STAT_STATE r) (by show _ ≤ 0x10124 + _; omega) (by show 0x10124 + _ < _; omega), hstate]
  · rw [hk (Reg.CMD_RING_STAT_ERR r) (by show _ ≤ 0x10124 + _; omega) (by show 0x10124 + _ < _; omega), herr]
  · rw [hk (Reg.CMD_RING_PTR_TAIL r) (by show _ ≤ 0x10110 + _; omega) (by show 0x10110 + _ < _; omega), htail]

/-! ### Doorbells (R412) -/

/-- The descriptors in ring `r` once its tail is `tail`. -/
def ringFill (s : State) (r tail : Nat) : Nat :=
  let z := ringSize s r
  (fld s (Reg.CMD_RING_PTR_TAIL r) + z - fld s (Reg.CMD_RING_PTR_HEAD r)) % z + (tail + z - fld s (Reg.CMD_RING_PTR_TAIL r)) % z

/-- A doorbell of a running ring that fits moves its tail. -/
theorem doorbell_fits {s : State} {r tail : Nat} (hr : ringRuns s r = true) (ht : tail < ringSize s r)
    (hn : ringFill s r tail < ringSize s r) : doorbell r tail s = setFld s (Reg.CMD_RING_PTR_TAIL r) tail := by
  rw [ringFill] at hn
  simp only [doorbell, hr, Bool.not_true, Bool.false_eq_true, if_false, Nat.not_le.2 ht, Nat.not_le.2 hn]

/-- One that does not fit stops it with error DOORBELL. -/
theorem doorbell_overflows {s : State} {r tail : Nat} (hr : ringRuns s r = true)
    (h : ringSize s r ≤ tail ∨ ringSize s r ≤ ringFill s r tail) : doorbell r tail s = ringError r 2 s := by
  simp only [doorbell, hr, Bool.not_true, Bool.false_eq_true, if_false]
  rcases h with h | h
  · rw [if_pos h]
  · rw [ringFill] at h
    rw [if_pos h, ite_self]

/-- One of a ring that does not run does nothing. -/
theorem doorbell_stopped {s : State} {r : Nat} (tail : Nat) (hr : ringRuns s r = false) : doorbell r tail s = s := by
  simp [doorbell, hr]

/-- A ring whose head equals its tail has nothing to take (R415). -/
theorem not_takeable_of_empty {s : State} {r : Nat} (h : fld s (Reg.CMD_RING_PTR_HEAD r) = fld s (Reg.CMD_RING_PTR_TAIL r)) :
    takeable s r = false := by
  simp [takeable, h]

/-- Settles O18: by the three outcomes of a doorbell. -/
theorem doorbellMovesTheTail : Obligations.DoorbellMovesTheTail := by
  unfold Obligations.DoorbellMovesTheTail
  intro s r tail hs hc hr z h u n
  have hx : exec (.cmdRingDb r tail) s = doneWrite (doorbell r tail.toNat) s := by
    show doneWrite (fun s => if r < 8 then doorbell r tail.toNat s else s) s = _
    simp only [hr, if_true]
  have hz : 0 < z := Nat.two_pow_pos _
  have hoff : 0x10110 + 0x40 * r ≠ 0x10124 + 0x40 * r := by omega
  refine ⟨fun hrun ht hn => ?_, fun hrun h => ?_, fun hrun => ?_, not_takeable_of_empty⟩
  · have he : doorbell r tail.toNat (freshWrite s) = setFld (freshWrite s) (Reg.CMD_RING_PTR_TAIL r) tail.toNat :=
      doorbell_fits (s := freshWrite s) hrun ht (show n < z by omega)
    have hf : Frame [.regs 0x02] (freshWrite s) (setFld (freshWrite s) (Reg.CMD_RING_PTR_TAIL r) tail.toNat) :=
      frame_fld _ _ _ (blockOf_cmd (by show _ ≤ 0x10110 + _; omega) (by show 0x10110 + _ < _; omega))
        (by show 0x10110 + _ ≠ 0x18; omega)
    refine completes_doneWrite hx (by rw [he]; exact settled_of_frame hf (by decide) (settled_freshWrite hs)) fun t ht => ?_
    rw [he] at ht
    refine ⟨?_, ?_, ?_⟩
    · rw [ht.fld_eq id, fld_setFld_same _ _ _ ⟨by simp, by simp⟩]
      rfl
    · rw [ht.fld_eq id, fld_setFld_ne _ _ _ _ ⟨by simp, by simp⟩ (by simp) (.inr (.inl (by simp)))]
      rfl
    · rw [ringRuns, ht.fld_eq id, fld_congr_reg (reg_setFld_ne _ _ hoff.symm)]
      exact hrun
  · have he : doorbell r tail.toNat (freshWrite s) = ringError r 2 (freshWrite s) :=
      doorbell_overflows (s := freshWrite s) hrun (h.imp id fun h => show z ≤ n by omega)
    obtain ⟨hf, hstate, herr, htail, hember⟩ := ringError_effect (s := freshWrite s) hc 2 hr
    refine completes_doneWrite hx (by rw [he]; exact settled_of_frame hf (by decide) (settled_freshWrite hs)) fun t ht => ?_
    rw [he] at ht
    refine ⟨by rw [ht.fld_eq id, hstate], by rw [ht.fld_eq id, herr], ?_, by rw [ht.fld_eq id, htail]; rfl⟩
    rw [Ember, flag, ht.fld_eq id]
    exact hember
  · have he : doorbell r tail.toNat (freshWrite s) = freshWrite s := doorbell_stopped _ hrun
    refine completes_doneWrite hx (by rw [he]; exact settled_freshWrite hs) fun t ht off => ?_
    rw [he] at ht
    exact ht.regs off id

end Sys2Proof.HostPort
end

section
/-! PROOFS. Completions of ring commands and the descriptor in front of a ring (R414 to R426); O60. -/

namespace Sys2Proof.HostPort

open Machine

/-! ### Completion entries (R417, Table 13-4) -/

/-- The registers that a completion may change: those of the rings, and the records of messages. -/
def complReg (o : Nat) : Prop := msgReg o ∨ 0x10100 ≤ o ∧ o < 0x10300

theorem not_complReg {o : Nat} (h : o < 0x48 ∨ 0x50 < o) (hr : o < 0x10100 ∨ 0x10300 ≤ o) : ¬ complReg o := by
  rintro (hm | hm)
  · exact not_msgReg h hm
  · omega

/-- The kinds of state that it may change. -/
def complParts : List Part := [.rings, .regs 0x02, .messages, .regs 0x01]

theorem changes_ringFld (s : State) (f : Fld) (v : Nat) (h1 : 0x10100 ≤ f.off) (h2 : f.off < 0x10300) :
    Changes complParts complReg s (setFld s f v) :=
  changes_setFld s f v (by rw [blockOf_cmd (by omega) (by omega)]; simp [complParts]) (.inr ⟨h1, h2⟩) (by show _ ≠ 0x18; omega)

/-- TAIL and PHASE move on to the next entry, and one more entry is written. -/
def cqAdvance (r : Nat) (s : State) : State :=
  let t := fld s (Reg.CMD_CQ_PTR_TAIL r)
  let s := if t + 1 = cqSize s r then
      setFld (setFld s (Reg.CMD_CQ_PTR_TAIL r) 0) (Reg.CMD_CQ_PTR_PHASE r) (1 - fld s (Reg.CMD_CQ_PTR_PHASE r))
    else setFld s (Reg.CMD_CQ_PTR_TAIL r) (t + 1)
  setRing s r { ring s r with written := (ring s r).written + 1 }

/-- The address of the next entry. -/
def cqAddr (r : Nat) (s : State) : Nat := (reg s (Reg.CMD_CQ_BASE r)).toNat + 16 * fld s (Reg.CMD_CQ_PTR_TAIL r)

/-- With the link up the entry goes out, the ring moves on, and its vector is signalled when asked (R417, R436). -/
theorem cqWrite_up {r : Nat} {s : State} (tag st op detail : Nat) (irq authed : Bool) (value : Nat)
    (h : fld (ringDone r s) Reg.HOST_LINK_MODE ≠ 0) :
    cqWrite r tag st op detail irq authed value s =
      let s := cqAdvance r (emit (ringDone r s) (.hostWrite (cqAddr r (ringDone r s))
        (cqEntry (ringDone r s) r tag st op detail authed value)))
      if irq then vecOccur (fld s (Reg.CMD_RING_CFG_VEC r)) s else s := by
  unfold cqWrite
  extract_lets s1
  rw [if_neg h]
  rfl

theorem changes_ringDone {r : Nat} (s : State) (h : r < 8) : Changes complParts complReg s (ringDone r s) :=
  (changes_ringFld s (Reg.CMD_RING_STAT_INFLIGHT r) _ (by show _ ≤ 0x10124 + _; omega) (by show 0x10124 + _ < _; omega)).trans
    (changes_setRing _ r _ (by simp [complParts]))

theorem changes_cqAdvance {r : Nat} (s : State) (h : r < 8) : Changes complParts complReg s (cqAdvance r s) := by
  have hp : ∀ (t : State) (f : Fld) (v : Nat), f.off = 0x10120 + 0x40 * r → Changes complParts complReg t (setFld t f v) :=
    fun t f v hf => changes_ringFld t f v (by omega) (by omega)
  unfold cqAdvance
  extract_lets t s1
  refine Changes.trans (t := s1) ?_ (changes_setRing s1 r _ (by simp [complParts]))
  show Changes _ _ _ (ite _ _ _)
  split
  · exact (hp s (Reg.CMD_CQ_PTR_TAIL r) _ rfl).trans (hp _ (Reg.CMD_CQ_PTR_PHASE r) _ rfl)
  · exact hp s (Reg.CMD_CQ_PTR_TAIL r) _ rfl

/-- A command's entry has gone out. -/
def EntrySent (tag st op detail : Nat) (t : State) : Prop :=
  ∃ (a : Nat) (u : State) (r : Nat) (authed : Bool) (value : Nat),
    Emission.hostWrite a (cqEntry u r tag st op detail authed value) ∈ t.out

/-- The bytes of an entry read as they were put together (Table 13-4). -/
theorem completed_of_entrySent {tag st op detail : Nat} {t : State} (h : EntrySent tag st op detail t) (htag : tag < 65536)
    (hst : st < 256) (hop : op < 256) (hd : detail < 256) : completed tag op st detail t = true := by
  obtain ⟨a, u, r, authed, value, hm⟩ := h
  refine List.any_eq_true.2 ⟨_, hm, ?_⟩
  simp only [decide_eq_true_eq]
  refine ⟨?_, ?_, ?_, ?_, ?_⟩
  · simp [cqEntry, natLe_length]
  all_goals
    simp [cqEntry, natLe, leAt, sliceB, leNat]
    omega

theorem cqWrite_effect {r : Nat} {s : State} (tag st op detail : Nat) (irq authed : Bool) (value : Nat)
    (hr : r < 8) (h : fld s Reg.HOST_LINK_MODE ≠ 0) :
    Changes complParts complReg s (cqWrite r tag st op detail irq authed value s) ∧
    EntrySent tag st op detail (cqWrite r tag st op detail irq authed value s) := by
  have hd := changes_ringDone s hr
  have hl : fld (ringDone r s) Reg.HOST_LINK_MODE = fld s Reg.HOST_LINK_MODE :=
    hd.fld_eq (not_complReg (by decide) (by decide))
  rw [cqWrite_up _ _ _ _ _ _ _ (by rw [hl]; exact h)]
  generalize hent : cqEntry (ringDone r s) r tag st op detail authed value = entry
  generalize cqAddr r (ringDone r s) = a
  have he := hd.trans (changes_emit (ringDone r s) (.hostWrite a entry))
  have hm : Emission.hostWrite a entry ∈ (emit (ringDone r s) (.hostWrite a entry)).out := by simp
  have hc := changes_cqAdvance (emit (ringDone r s) (.hostWrite a entry)) hr
  have hv : ∀ t v, Changes complParts complReg t (vecOccur v t) := fun t v =>
    (changes_vecOccur v t).mono (by simp [complParts]) fun _ ho => .inl ho
  extract_lets u
  have hu : Changes complParts complReg u (if irq then vecOccur (fld u (Reg.CMD_RING_CFG_VEC r)) u else u) := by
    split
    · exact hv u _
    · exact Changes.refl u
  exact ⟨(he.trans hc).trans hu, a, ringDone r s, r, authed, value, by rw [hent]; exact (hc.trans hu).sent hm⟩

/-- The completion of an open job goes out with its TAG, OPCODE, STATUS and DETAIL, and changes the rings and messages
alone (R417, R418). -/
theorem complete_effect {s : State} {j : Job} (hj : jobOpen s j = true) {st detail : Nat} (value : Nat) (hst : st < 256)
    (hd : detail < 256) :
    Changes complParts complReg s (complete j st detail value s) ∧
    ∀ t, Changes [] (fun _ => False) (complete j st detail value s) t → completed j.tag j.opcode st detail t = true := by
  rw [jobOpen, Bool.and_eq_true_iff, decide_eq_true_eq] at hj
  obtain ⟨ho, htag, hop⟩ := hj
  split at ho
  · next r g e horig =>
    simp only [openRing, Bool.and_eq_true, decide_eq_true_eq] at ho
    obtain ⟨⟨hr, hl⟩, rfl, rfl⟩ := ho
    have hc : complete j st detail value s =
        cqWrite r j.tag st j.opcode detail j.irq j.authed
          (if counterValued j.opcode then (if j.authed then j.counter else 0) else value) s := by
      simp only [complete, horig, ne_eq, not_true_eq_false, false_or, if_false, Nat.not_le.2 hr]
    rw [hc]
    obtain ⟨hch, a, u, q, au, v, hm⟩ := cqWrite_effect j.tag st j.opcode detail j.irq j.authed
      (if counterValued j.opcode then (if j.authed then j.counter else 0) else value) hr hl
    exact ⟨hch, fun t ht => completed_of_entrySent ⟨a, u, q, au, v, ht.sent hm⟩ htag hst hop hd⟩
  · exact absurd ho (by simp)

/-! ### The descriptor in front of a ring (R414, R421, R426) -/

theorem leAt_lt (d : Bytes) (o n : Nat) : leAt d o n < 256 ^ n := by
  have h := leNat_lt (sliceB d o n)
  have hl : (sliceB d o n).length = n := by simp only [sliceB, List.length_append, List.length_replicate, List.length_take]; omega
  rwa [hl] at h

theorem dTag_lt (d : Bytes) : dTag d < 65536 := leAt_lt d 2 2

theorem dOp_lt (d : Bytes) : dOp d < 256 := leAt_lt d 0 1

theorem dSlot_lt (d : Bytes) : dSlot d < 4 := Nat.mod_lt _ (by decide)

/-- The job of a descriptor taken from an open ring since its last CQ_WRITE error is open, authenticated or not. -/
theorem jobOpen_jobOf {s : State} {r : Nat} (h : openRing s r = true) (d : Bytes) (a : Bool) :
    jobOpen s { jobOf (.ring r s.flr (ring s r).errors) d with authed := a } = true := by
  simp [jobOpen, jobOf, h, dTag_lt, dOp_lt]

/-- A job is open in a state with the same link, generation and CQ_WRITE errors. -/
theorem jobOpen_congr {s t : State} {r : Nat} {d : Bytes} {a : Bool} (h : openRing s r = true)
    (hl : fld t Reg.HOST_LINK_MODE = fld s Reg.HOST_LINK_MODE) (hf : t.flr = s.flr)
    (he : (ring t r).errors = (ring s r).errors) :
    jobOpen t { jobOf (.ring r s.flr (ring s r).errors) d with authed := a } = true := by
  rw [← hf, ← he]
  exact jobOpen_jobOf (by rwa [openRing, hl]) d a

@[simp] theorem ring_setRing_same (s : State) (r : Nat) (x : Ring) : ring (setRing s r x) r = x := by
  simp [ring]

/-- A descriptor that leaves its ring takes no CQ_WRITE error along. -/
theorem errors_popTaken (r : Nat) (s : State) : (ring (popTaken r s) r).errors = (ring s r).errors := by
  simp [popTaken]

theorem changes_popTaken (r : Nat) (s : State) : Changes [.rings] (fun _ => False) s (popTaken r s) :=
  changes_setRing s r _ (by simp)

/-- A ring whose front descriptor was taken after its last CQ_WRITE error names the errors so far. -/
theorem frontOrigin_eq {s : State} {r : Nat} (h : (ring s r).doomed = 0) : frontOrigin s r = .ring r s.flr (ring s r).errors := by
  simp [frontOrigin, h]

/-- A descriptor in front that fails a check of R426 completes with the check's status and is recorded. -/
theorem runRing_refused {c : Cmd} {r : Nat} {d : Bytes} {s : State} {st : Nat} (hd : (ring s r).doomed = 0)
    (hh : (ring s r).taken.head? = some d) (hop : dOp d = c.op) (hf : frontFree s r d = true)
    (ha : frontAuth s r d = .fail st) :
    runRing c r s = completeRefused { jobOf (.ring r s.flr (ring s r).errors) d with authed := false } d st
      (authFail r d st (popTaken r s)) := by
  obtain ⟨ds, ht⟩ := List.head?_eq_some_iff.1 hh
  simp only [runRing, ht, hop, hf, ha, frontOrigin_eq hd, ne_eq, not_true_eq_false, decide_false, Bool.not_true, Bool.or_false,
    Bool.false_eq_true, if_false]

/-- One that is ready executes, out of its queue and accepted. -/
theorem runRing_ready {c : Cmd} {r : Nat} {d : Bytes} {s : State} (h : ready c r d s = true) :
    runRing c r s = c.run (jobOf (.ring r s.flr (ring s r).errors) d) d (acceptFront r d s) := by
  simp only [ready, Bool.and_eq_true, decide_eq_true_eq] at h
  obtain ⟨⟨⟨⟨⟨⟨⟨⟨-, hd⟩, hh⟩, hop⟩, hf⟩, ha⟩, hr⟩, hfl⟩, hb⟩ := h
  obtain ⟨ds, ht⟩ := List.head?_eq_some_iff.1 hh
  simp only [runRing, execAccepted, ht, hop, hf, ha, hr, hfl, hb, frontOrigin_eq hd, ne_eq, not_true_eq_false, decide_false,
    Bool.not_true, Bool.or_false, Bool.and_self, Bool.false_eq_true, if_false, if_true]

/-! ### Counters (R426, R428) -/

/-- A counter passes when it is later than the last and within bounds (R428). -/
theorem counterOk_iff (last c op : Nat) :
    counterOk last c op = true ↔ last < c ∧ (c ≤ 2 ^ 64 - 256 ∨ op = 0x83 ∧ c = 2 ^ 64 - 1) := by
  simp only [counterOk, Bool.and_eq_true, Bool.or_eq_true, decide_eq_true_eq]

/-- Behind a matching MAC only the counter answers AUTH_REPLAY (R426). -/
theorem authCheck_replay_iff {s : State} {d : Bytes} (ha : dAuth d = true) (hb : slotBusy s (dSlot d) = false)
    (hs : slotSet s (dSlot d) = true) (hm : macOk (keyOf s (dSlot d)) d = true) :
    authCheck s d = .fail stAuthReplay ↔ counterOk (fld s (Reg.CMD_KEY_CTR_LAST (dSlot d))) (dCounter d) (dOp d) = false := by
  simp only [authCheck, ha, hb, hs, hm, Bool.not_true, Bool.false_eq_true, if_false]
  cases counterOk (fld s (Reg.CMD_KEY_CTR_LAST (dSlot d))) (dCounter d) (dOp d)
  · simp
  · simp only [Bool.not_true, Bool.false_eq_true, if_false, Bool.true_eq_false, iff_false]
    split
    · simp [stAuthDenied, stAuthReplay]
    · split <;> simp

/-- The registers that a failed authentication may change. -/
def refusalReg (o : Nat) : Prop := o = Reg.CMD_AUTH_STAT ∨ eventReg o

theorem not_refusalReg {o : Nat} (h : o < 0x48 ∨ 0x50 < o) (he : o < 0x3E0100 ∨ 0x3E0120 ≤ o ∧ o < 0x3E1000)
    (ha : o < 0x11080 ∨ 0x11080 < o) : ¬ refusalReg o := by
  rintro (rfl | hm)
  · revert ha; decide
  · exact not_eventReg h he hm

theorem changes_authStat (s : State) (f : Fld) (v : Nat) (h : f.off = Reg.CMD_AUTH_STAT) :
    Changes ([.regs 0x02] ++ eventParts) refusalReg s (setFld s f v) :=
  changes_setFld s f v (by rw [h]; simp [show blockOf Reg.CMD_AUTH_STAT = 0x02 from rfl]) (.inl h) (by rw [h]; decide)

/-- A failed authentication is recorded in CMD_AUTH_STAT and raises AUTH_FAIL (R426). -/
theorem authFail_effect (r : Nat) (d : Bytes) (st : Nat) (s : State) :
    Changes ([.regs 0x02] ++ eventParts) refusalReg s (authFail r d st s) ∧ Ember evAuthFail (authFail r d st s) := by
  unfold authFail
  extract_lets s1 s2
  have h1 : Changes ([.regs 0x02] ++ eventParts) refusalReg s s1 := changes_authStat s _ _ rfl
  have h2 : Changes ([.regs 0x02] ++ eventParts) refusalReg s1 s2 :=
    ((changes_authStat s1 _ _ rfl).trans (changes_authStat _ _ _ rfl)).trans (changes_authStat _ _ _ rfl)
  exact ⟨(h1.trans h2).trans ((changes_raise _ _ s2 (by decide)).mono (List.subset_append_right _ _) fun _ ho => .inr ho),
    ember_raise _ _ s2 (by decide)⟩

/-- What the refusal of a descriptor in front of a ring may change. -/
def refusalParts : List Part := [.rings, .regs 0x02] ++ eventParts

/-- A NOP whose check fails completes with the check's status, raises AUTH_FAIL and leaves the key slots (R426). -/
theorem nop_refused {s : State} {r : Nat} {d : Bytes} {st : Nat} (hs : s.settled) (ho : openRing s r = true)
    (hd : (ring s r).doomed = 0) (hh : (ring s r).taken.head? = some d) (hop : dOp d = 0x01) (hf : frontFree s r d = true)
    (ha : frontAuth s r d = .fail st) (hst : st < 256) :
    Completes (.nop r) s (fun t => answered d st t = true ∧ Ember evAuthFail t ∧
      fld t (Reg.CMD_KEY_CTR_LAST (dSlot d)) = fld s (Reg.CMD_KEY_CTR_LAST (dSlot d))) := by
  generalize hj : ({ jobOf (.ring r s.flr (ring s r).errors) d with authed := false } : Job) = j
  have hx : runRing cmdNop r (fresh s) = complete j st 0 0 (authFail r d st (popTaken r (fresh s))) := by
    rw [runRing_refused (s := fresh s) hd hh hop hf ha]
    subst hj
    simp only [completeRefused, jobOf, hop, Nat.reduceEqDiff, or_self, if_false]
    rfl
  have hp := (changes_popTaken r (fresh s)).mono (qs := refusalParts) (v := fun o => refusalReg o ∨ complReg o)
    (by simp [refusalParts]) fun _ h => h.elim
  obtain ⟨hfail, hember⟩ := authFail_effect r d st (popTaken r (fresh s))
  have hrings : (authFail r d st (popTaken r (fresh s))).rings = (popTaken r (fresh s)).rings ∧ _ :=
    hfail.frame .rings (by decide)
  have hopen : jobOpen (authFail r d st (popTaken r (fresh s))) j = true := by
    subst hj
    refine jobOpen_congr ho ?_ (hfail.frame .resets (by decide)) ?_
    · exact hfail.fld_eq (not_refusalReg (by decide) (by decide) (by decide))
    · rw [ring, hrings.1]
      exact errors_popTaken r (fresh s)
  obtain ⟨hcompl, hdone⟩ := complete_effect hopen 0 hst (detail := 0) (by decide)
  have hall : Changes refusalParts (fun o => refusalReg o ∨ complReg o) (fresh s)
      (complete j st 0 0 (authFail r d st (popTaken r (fresh s)))) :=
    (hp.trans (hfail.mono (by simp [refusalParts]) fun _ h => .inl h)).trans
      (hcompl.mono (by simp [refusalParts, complParts, eventParts]) fun _ h => .inr h)
  refine completes_done rfl (by rw [hx]; exact settled_of_frame hall.frame (by decide) (settled_fresh hs)) fun t ht => ?_
  rw [hx] at ht
  refine ⟨?_, ?_, ?_⟩
  · have := hdone t ht
    subst hj
    exact this
  · rw [Ember, flag, ht.fld_eq id, hcompl.fld_eq (not_complReg (by decide) (by decide))]
    exact hember
  · have hk := dSlot_lt d
    have ho : ∀ o, o = 0x11008 + 0x20 * dSlot d → ¬ (refusalReg o ∨ complReg o) := fun o ho =>
      not_or.2 ⟨not_refusalReg (by omega) (by omega) (by omega), not_complReg (by omega) (by omega)⟩
    rw [ht.fld_eq id, hall.fld_eq (f := Reg.CMD_KEY_CTR_LAST (dSlot d)) (ho _ rfl)]
    rfl

/-- Settles O60: the counter's check alone answers AUTH_REPLAY, and its refusal completes the NOP. -/
theorem countersPassInOrder : Obligations.CountersPassInOrder := by
  unfold Obligations.CountersPassInOrder
  intro s d ha hb hs hm
  refine ⟨?_, fun r hset ho hd hh hop hf hfail => nop_refused hset ho hd hh hop hf hfail (by decide)⟩
  rw [authCheck_replay_iff ha hb hs hm, ← Bool.not_eq_true, counterOk_iff]

end Sys2Proof.HostPort
end

section
/-! PROOFS. The snuffer's commands: O46, SNUFF (R423), and O47, SNUFF_RELEASE (R424). -/

namespace Sys2Proof.HostPort

open Machine

/-! ### A command that is ready and completes at once -/

/-- The registers that the acceptance of a descriptor may change: the counters of the slots (R426). -/
def keyReg (o : Nat) : Prop := 0x11008 ≤ o ∧ o < 0x11080

theorem changes_acceptFront (r : Nat) (d : Bytes) (s : State) : Changes [.rings, .regs 0x02] keyReg s (acceptFront r d s) := by
  have hp : ∀ t, Changes [.rings, .regs 0x02] keyReg t (popTaken r t) := fun t =>
    (changes_popTaken r t).mono (by simp) fun _ h => h.elim
  have hk : ∀ t, Changes [.rings, .regs 0x02] keyReg t (setFld t (Reg.CMD_KEY_CTR_LAST (dSlot d)) (dCounter d)) := fun t => by
    have hs := dSlot_lt d
    have hb : blockOf (0x11008 + 0x20 * dSlot d) = 0x02 := blockOf_cmd (by omega) (by omega)
    exact changes_setFld t (Reg.CMD_KEY_CTR_LAST (dSlot d)) _ (by simp [hb])
      (by show 0x11008 ≤ 0x11008 + _ ∧ 0x11008 + 0x20 * dSlot d < _; omega) (by show 0x11008 + _ ≠ 0x18; omega)
  unfold acceptFront acceptCounter
  split
  · exact hp s
  · split
    · exact (hp s).trans (hk _)
    · exact hp s

theorem errors_acceptFront (r : Nat) (d : Bytes) (s : State) : (ring (acceptFront r d s) r).errors = (ring s r).errors := by
  unfold acceptFront acceptCounter
  split
  · exact errors_popTaken r s
  · split
    · exact errors_popTaken r s
    · exact errors_popTaken r s

theorem openRing_of_ready {c : Cmd} {r : Nat} {d : Bytes} {s : State} (h : ready c r d s = true) : openRing s r = true := by
  simp only [ready, Bool.and_eq_true] at h
  obtain ⟨⟨⟨⟨⟨⟨⟨⟨ho, -⟩, -⟩, -⟩, -⟩, -⟩, -⟩, -⟩, -⟩ := h
  exact ho

/-- A ready command whose run leads to `v` and completes there, with the link, the generation of resets and the CQ_WRITE
errors of the ring as they were, answers its status and changes nothing of `v` but the rings and messages. -/
theorem completes_ready {c : Instr} {k : Cmd} {r : Nat} {d : Bytes} {s v : State} {st detail value : Nat}
    (hx : exec c s = done (runRing k r) s) (h : ready k r d (fresh s) = true)
    (hrun : ∀ j, k.run j d (accepted r d s) = complete j st detail value v) (hst : st < 256) (hd : detail < 256)
    (hv : v.settled) (hl : fld v Reg.HOST_LINK_MODE = fld s Reg.HOST_LINK_MODE) (hf : v.flr = s.flr)
    (he : (ring v r).errors = (ring s r).errors) :
    Completes c s (fun t => completed (dTag d) (dOp d) st detail t = true ∧ Changes complParts complReg v t) := by
  generalize hj : jobOf (.ring r s.flr (ring s r).errors) d = j
  have hrr : runRing k r (fresh s) = complete j st detail value v := by
    rw [← hrun j, ← hj]
    exact runRing_ready h
  have hopen : jobOpen v j = true := by
    subst hj
    exact jobOpen_congr (a := dAuth d) (openRing_of_ready (s := fresh s) h) hl hf he
  obtain ⟨hc, hdone⟩ := complete_effect hopen value hst hd
  refine completes_done hx (by rw [hrr]; exact settled_of_frame hc.frame (by decide) hv) fun t ht => ?_
  rw [hrr] at ht
  refine ⟨?_, hc.trans (ht.mono (by simp) fun _ h => h.elim)⟩
  have hans := hdone t ht
  subst hj
  exact hans

/-! ### The snuffer's paths (R551 to R554) -/

theorem pathHolds_eq (s : State) (p : Nat) : pathHolds s p = decide (fld s ⟨Reg.MGMT_SNUFF_STAT, p, p⟩ = 1) := by
  simp only [pathHolds, fld, bitOf_eq, Nat.sub_self, Nat.zero_add]

theorem pathHolds_congr {s t : State} (h : reg t Reg.MGMT_SNUFF_STAT = reg s Reg.MGMT_SNUFF_STAT) (p : Nat) :
    pathHolds t p = pathHolds s p := by simp only [pathHolds, h]

theorem lowPath_congr {s t : State} (h : reg t Reg.MGMT_SNUFF_STAT = reg s Reg.MGMT_SNUFF_STAT) : lowPath t = lowPath s := by
  simp only [lowPath, pathHolds_congr h]

/-- A path holds, the assertion is counted and noted, and the lamplighter has left LIGHTING or LIT. -/
def snuffMark (p : Nat) (s : State) : State :=
  let s := logSnuff (incSat (setHold s p 1) Reg.MGMT_SNUFF_STAT_COUNT 1)
  if isLit s then setLamp s .snuffed else s

/-- No frame is live. -/
def unlive (s : State) : State := { s with scan := { s.scan with live := false } }

theorem reg_unlive (s : State) (o : Nat) : reg (unlive s) o = reg s o := rfl
theorem unlive_out (s : State) : (unlive s).out = s.out := rfl
theorem unlive_clk (s : State) : (unlive s).clk = s.clk := rfl
theorem unlive_halted (s : State) : (unlive s).scan.halted = s.scan.halted := rfl

/-- Then no frame is live, and every lane that sends carries BLANK. -/
def snuffBlank (p : Nat) (s : State) : State := sendBlank (lowPath (snuffMark p s)) (unlive (snuffMark p s))

/-- A path that holds does nothing more (R554). -/
theorem assertPath_held {s : State} {p : Nat} (h : pathHolds s p = true) : assertPath p s = s := by
  simp only [assertPath, h, if_true]

/-- One that does not hold is marked, blanks the wicks and raises SNUFF (R552). -/
theorem assertPath_free {s : State} {p : Nat} (h : pathHolds s p = false) :
    ∃ cs, assertPath p s = raise evSnuff cs (snuffBlank p s) := by
  refine ⟨[(8, p), (8, 1), (8, (lamp (logSnuff (incSat (setHold s p 1) Reg.MGMT_SNUFF_STAT_COUNT 1))).code)], ?_⟩
  simp only [assertPath, h, Bool.false_eq_true, if_false]
  rfl

/-- The registers that a snuff path's assertion may change. -/
def snuffReg (o : Nat) : Prop := o = Reg.GEN_STATE ∨ o = Reg.MGMT_SNUFF_STAT ∨ eventReg o

theorem not_snuffReg {o : Nat} (h : o < 0x48 ∨ 0x50 < o) (he : o < 0x3E0100 ∨ 0x3E0120 ≤ o ∧ o < 0x3E1000)
    (hg : o ≠ Reg.GEN_STATE ∧ o ≠ Reg.MGMT_SNUFF_STAT) : ¬ snuffReg o :=
  not_or.2 ⟨hg.1, not_or.2 ⟨hg.2, not_eventReg h he⟩⟩

@[simp] theorem logSnuff_regs (s : State) : (logSnuff s).regs = s.regs := rfl
@[simp] theorem logSnuff_out (s : State) : (logSnuff s).out = s.out := rfl
@[simp] theorem logSnuff_scan (s : State) : (logSnuff s).scan = s.scan := rfl
@[simp] theorem logSnuff_clk (s : State) : (logSnuff s).clk = s.clk := rfl

theorem reg_snuffCount (s : State) (p : Nat) {o : Nat} (h : o ≠ Reg.MGMT_SNUFF_STAT) :
    reg (logSnuff (incSat (setHold s p 1) Reg.MGMT_SNUFF_STAT_COUNT 1)) o = reg s o := by
  rw [reg_congr (logSnuff_regs _), incSat, reg_setFld_ne _ _ h, setHold, fixLow, reg_setFld_ne _ _ h, reg_setFld_ne _ _ h]

theorem reg_snuffMark (p : Nat) (s : State) {o : Nat} (h : o ≠ Reg.MGMT_SNUFF_STAT) (hg : o ≠ Reg.GEN_STATE) :
    reg (snuffMark p s) o = reg s o := by
  unfold snuffMark
  extract_lets u
  split
  · rw [setLamp, reg_setFld_ne _ _ hg]
    exact reg_snuffCount s p h
  · exact reg_snuffCount s p h

theorem isLit_snuffCount (s : State) (p : Nat) :
    isLit (logSnuff (incSat (setHold s p 1) Reg.MGMT_SNUFF_STAT_COUNT 1)) = isLit s := by
  have hl : lamp (logSnuff (incSat (setHold s p 1) Reg.MGMT_SNUFF_STAT_COUNT 1)) = lamp s :=
    lamp_congr (fld_congr_reg (reg_snuffCount s p (by decide)))
  simp only [isLit, hl]

/-- Lit, the lamplighter goes to SNUFFED (R552, Table 17-4). -/
theorem lamp_snuffMark {s : State} (p : Nat) (h : isLit s = true) : lamp (snuffMark p s) = .snuffed := by
  unfold snuffMark
  extract_lets u
  rw [if_pos ((isLit_snuffCount s p).trans h), lamp_setLamp]

/-- Dark, it stays. -/
theorem genState_snuffMark {s : State} (p : Nat) (h : isLit s = false) :
    reg (snuffMark p s) Reg.GEN_STATE = reg s Reg.GEN_STATE := by
  unfold snuffMark
  extract_lets u
  rw [if_neg (by rw [show isLit u = isLit s from isLit_snuffCount s p, h]; decide)]
  exact reg_snuffCount s p (by decide)

theorem pathHolds_snuffMark (s : State) {p : Nat} (h : p ≤ 9) : pathHolds (snuffMark p s) p = true := by
  have hc : pathHolds (logSnuff (incSat (setHold s p 1) Reg.MGMT_SNUFF_STAT_COUNT 1)) p = true := by
    have hlt : ∀ (t : State) (g : Fld) (v : Nat), g.ok → p < g.lo →
        fld (setFld t g v) ⟨Reg.MGMT_SNUFF_STAT, p, p⟩ = fld t ⟨Reg.MGMT_SNUFF_STAT, p, p⟩ := fun t g v hg hp =>
      fld_setFld_ne t g _ v hg (Nat.le_refl p) (.inr (.inl hp))
    rw [pathHolds_congr (reg_congr (logSnuff_regs _) _), pathHolds_eq, incSat,
      hlt _ _ _ ⟨by decide, by decide⟩ (by show p < 16; omega), setHold, fixLow,
      hlt _ _ _ ⟨by decide, by decide⟩ (by show p < 12; omega), fld_setFld_same s _ 1 ⟨Nat.le_refl p, by show p < 64; omega⟩]
    simp
  unfold snuffMark
  extract_lets u
  split
  · have hr : reg (setLamp u .snuffed) Reg.MGMT_SNUFF_STAT = reg u Reg.MGMT_SNUFF_STAT := reg_setFld_ne u _ (by decide)
    rw [pathHolds_congr hr]
    exact hc
  · exact hc

theorem changes_sendBlank (cause : Nat) (s : State) : Changes [] (fun _ => False) s (sendBlank cause s) :=
  forAll_keeps (Changes [] (fun _ => False) s) _ _ (fun _ _ t ht => ht.trans (changes_emit t _)) s (Changes.refl s)

/-- Each of a list of blocks leaves. -/
theorem mem_out_emits (e : Nat → Emission) (ns : List Nat) (s : State) {n : Nat} (h : n ∈ ns) :
    e n ∈ (forAll ns (fun n s => emit s (e n)) s).out := by
  induction ns generalizing s with
  | nil => exact absurd h List.not_mem_nil
  | cons m ns ih =>
    rw [forAll_cons]
    rcases List.mem_cons.1 h with rfl | h
    · have hk : (emit s (e n)).out <+: (forAll ns (fun n s => emit s (e n)) (emit s (e n))).out :=
        forAll_keeps (fun t => (emit s (e n)).out <+: t.out) ns _ (fun _ _ t ht => ht.trans (List.prefix_append _ _)) _
          (List.prefix_refl _)
      exact hk.subset (by simp)
    · exact ih _ h

/-- Every lane that sends carries BLANK with the cause (R23, R552). -/
theorem sent_sendBlank (cause : Nat) {s : State} {n : Nat} (hn : n < 192) (h : laneSends s n = true) :
    Sent (.wickCtl n 0x40 (blankBlock n cause)) (sendBlank cause s) :=
  mem_out_emits (fun n => .wickCtl n 0x40 (blankBlock n cause)) _ s (List.mem_filter.2 ⟨List.mem_range.2 hn, h⟩)

/-- A lane sends by the state of its group and the clock of its transmitter alone (R205, R482). -/
theorem laneSends_congr {s t : State} (hr : ∀ o, 0x340000 ≤ o → o < 0x3B0000 → reg t o = reg s o) (hc : t.clk = s.clk)
    {n : Nat} (hn : n < 192) : laneSends t n = laneSends s n := by
  have hg : fld t (Reg.WLN_GSTAT_STATE (n / 8)) = fld s (Reg.WLN_GSTAT_STATE (n / 8)) :=
    fld_congr_reg (hr (0x340104 + 0x40 * (n / 8)) (by omega) (by omega))
  have hp : fld t (Reg.CLK_PLL_STAT_GATED (n / 48)) = fld s (Reg.CLK_PLL_STAT_GATED (n / 48)) :=
    fld_congr_reg (hr (0x3A010C + 0x40 * (n / 48)) (by omega) (by omega))
  simp only [laneSends, clkRuns, flag, hg, hp, hc]

theorem changes_snuffBlank (p : Nat) (s : State) :
    Changes [] (fun _ => False) (unlive (snuffMark p s)) (snuffBlank p s) :=
  changes_sendBlank _ _

theorem reg_snuffBlank (p : Nat) (s : State) (o : Nat) : reg (snuffBlank p s) o = reg (snuffMark p s) o :=
  ((changes_snuffBlank p s).regs o id).trans (reg_unlive _ o)

/-- Marking a path sends nothing, and moves neither the raster nor the clocks. -/
theorem snuffMark_keeps (p : Nat) (s : State) :
    (snuffMark p s).out = s.out ∧ (snuffMark p s).scan = s.scan ∧ (snuffMark p s).clk = s.clk := by
  unfold snuffMark
  extract_lets u
  have hu : u.out = s.out ∧ u.scan = s.scan ∧ u.clk = s.clk :=
    ⟨by rw [logSnuff_out, incSat_out, setHold_out], by rw [logSnuff_scan, incSat_scan, setHold_scan],
      by rw [logSnuff_clk, incSat_clk, setHold_clk]⟩
  split
  · rwa [setLamp, setFld_out, setFld_scan, setFld_clk]
  · exact hu

/-- What the assertion of a path may change; the blocks that had left the part are kept. -/
theorem changes_assertPath (p : Nat) (s : State) : Changes snuffParts snuffReg s (assertPath p s) := by
  cases h : pathHolds s p
  · obtain ⟨cs, he⟩ := assertPath_free h
    have hr := changes_raise evSnuff cs (snuffBlank p s) (by decide)
    refine ⟨frame_assertPath p s, fun o ho => ?_, ?_⟩
    · simp only [snuffReg, not_or] at ho
      obtain ⟨hg, hs, hev⟩ := ho
      rw [he, hr.regs o hev, reg_snuffBlank, reg_snuffMark p s hs hg]
    · obtain ⟨hout, -, -⟩ := snuffMark_keeps p s
      rw [he, ← hout, ← unlive_out]
      exact (changes_snuffBlank p s).out.trans hr.out
  · rw [assertPath_held h]
    exact Changes.refl s

/-- The record of the paths is written before the wicks blank. -/
theorem snuffStat_assertPath {s : State} {p : Nat} (h : pathHolds s p = false) :
    reg (assertPath p s) Reg.MGMT_SNUFF_STAT = reg (snuffMark p s) Reg.MGMT_SNUFF_STAT := by
  obtain ⟨cs, he⟩ := assertPath_free h
  rw [he, (changes_raise evSnuff cs _ (by decide)).regs _ (not_eventReg (by decide) (by decide)), reg_snuffBlank]

/-- The path holds afterwards. -/
theorem pathHolds_assertPath (s : State) {p : Nat} (hp : p ≤ 9) : pathHolds (assertPath p s) p = true := by
  cases h : pathHolds s p
  · rw [pathHolds_congr (snuffStat_assertPath h), pathHolds_snuffMark s hp]
  · rw [assertPath_held h, h]

/-- Where it did not hold, every lane that sends carries BLANK with the lowest path that holds now (R23, R552). -/
theorem sent_assertPath {s : State} {p n : Nat} (h : pathHolds s p = false) (hn : n < 192) (hl : laneSends s n = true) :
    Sent (.wickCtl n 0x40 (blankBlock n (lowPath (assertPath p s)))) (assertPath p s) := by
  obtain ⟨cs, he⟩ := assertPath_free h
  rw [lowPath_congr (snuffStat_assertPath h), he]
  refine (changes_raise evSnuff cs _ (by decide)).sent (sent_sendBlank _ hn ?_)
  obtain ⟨-, -, hclk⟩ := snuffMark_keeps p s
  rw [← hl]
  refine laneSends_congr (fun o h1 h2 => ?_) ((unlive_clk _).trans hclk) hn
  rw [reg_unlive, reg_snuffMark p s (by show o ≠ 0x3E0300; omega) (by show o ≠ 0x18; omega)]

theorem halted_assertPath (p : Nat) (s : State) : (assertPath p s).scan.halted = s.scan.halted := by
  cases h : pathHolds s p
  · obtain ⟨cs, he⟩ := assertPath_free h
    have hr : (raise evSnuff cs (snuffBlank p s)).scan = (snuffBlank p s).scan :=
      frame_raise evSnuff cs _ (by decide) .scan (by decide)
    have hb : (snuffBlank p s).scan = (unlive (snuffMark p s)).scan := (changes_snuffBlank p s).frame .scan List.not_mem_nil
    obtain ⟨-, hm, -⟩ := snuffMark_keeps p s
    rw [he, hr, hb, unlive_halted, hm]
  · rw [assertPath_held h]

/-- Of a frame that leaves GEN_STATE as it is, the lamplighter is no part. -/
theorem frame_without_lamp {ps : List Part} {s t : State} (h : Frame ps s t) (hg : reg t Reg.GEN_STATE = reg s Reg.GEN_STATE) :
    Frame (ps.filter fun p => decide (p ≠ .lamp)) s t := fun p hp => by
  by_cases e : p = .lamp
  · subst e; exact hg
  · exact h p fun hm => hp (List.mem_filter.2 ⟨hm, by simpa using e⟩)

/-- The assertion of a path leaves nothing to settle. -/
theorem settled_assertPath (p : Nat) {s : State} (hs : s.settled) : (assertPath p s).settled := by
  cases h : pathHolds s p
  · obtain ⟨cs, he⟩ := assertPath_free h
    have hg : reg (assertPath p s) Reg.GEN_STATE = reg (snuffMark p s) Reg.GEN_STATE := by
      rw [he, (changes_raise evSnuff cs _ (by decide)).regs _ (not_eventReg (by decide) (by decide)), reg_snuffBlank]
    have hk := settled_of_kept (frame_assertPath p s) (by decide) hs (halted_assertPath p s)
    cases hl : isLit s
    · have hgs := hg.trans (genState_snuffMark p hl)
      refine hk (.inl (lamp_congr (fld_congr_reg hgs))) ?_
      rw [lightDue_of_frame (frame_without_lamp (frame_assertPath p s) hgs) (by decide)]
      exact hs.light
    · have hlamp : lamp (assertPath p s) = .snuffed := (lamp_congr (fld_congr_reg hg)).trans (lamp_snuffMark p hl)
      refine hk (.inr ⟨fun e => ?_, by rw [hlamp]; decide⟩) (by simp [lightDue, hlamp])
      simp [isLit, e] at hl
  · rwa [assertPath_held h]

/-! ### SNUFF (R423) -/

/-- A command that is not critical passes without authentication (R426). -/
theorem authCheck_open {s : State} {d : Bytes} (ha : dAuth d = false) (hc : isCritical (dOp d) = false) : authCheck s d = .pass := by
  simp [authCheck, ha, hc]

/-- Settles O46: outside SNUFFED the command asserts path 1 and completes, in SNUFFED it completes. -/
theorem snuffTakesTheCommandPath : Obligations.SnuffTakesTheCommandPath := by
  unfold Obligations.SnuffTakesTheCommandPath
  refine ⟨fun s d hop ha => authCheck_open ha (by rw [hop]; decide), fun s r d hs hready => ?_⟩
  have ha := changes_acceptFront r d (fresh s)
  have hset : (accepted r d s).settled := settled_of_frame ha.frame (by decide) (settled_fresh hs)
  have hreg : ∀ o, o < 0x11008 ∨ 0x11080 ≤ o → reg (accepted r d s) o = reg s o := fun o ho =>
    ha.regs o (by unfold keyReg; omega)
  have hlamp : lamp (accepted r d s) = lamp s := lamp_congr (fld_congr_reg (hreg _ (by decide)))
  have hpath : ∀ p, pathHolds (accepted r d s) p = pathHolds s p := pathHolds_congr (hreg _ (by decide))
  have herr : (ring (accepted r d s) r).errors = (ring s r).errors := errors_acceptFront r d (fresh s)
  have hflr : (accepted r d s).flr = s.flr := ha.frame .resets (by decide)
  refine ⟨fun hn => ?_, fun hsn => ?_⟩
  · have hc := changes_assertPath 1 (accepted r d s)
    obtain ⟨hrings, -⟩ := hc.frame .rings (by decide)
    obtain ⟨t, hx, hans, ht⟩ := completes_ready (c := .snuff r) (k := cmdSnuff) (v := assertPath 1 (accepted r d s)) (st := stOK)
      (detail := 0) (value := 0) rfl hready (fun j => by simp only [cmdSnuff, hlamp, hn, if_false]) (by decide) (by decide)
      (settled_assertPath 1 hset)
      ((hc.fld_eq (not_snuffReg (by decide) (by decide) (by decide))).trans (fld_congr_reg (hreg _ (by decide))))
      ((hc.frame .resets (by decide)).trans hflr) (by rw [ring, hrings]; exact herr)
    have hstat : reg t Reg.MGMT_SNUFF_STAT = reg (assertPath 1 (accepted r d s)) Reg.MGMT_SNUFF_STAT :=
      ht.regs _ (not_complReg (by decide) (by decide))
    refine ⟨t, hx, hans, ?_, fun hfree n hlt hw => ?_⟩
    · rw [pathHolds_congr hstat, pathHolds_assertPath _ (by decide)]
    · rw [lowPath_congr hstat]
      refine ht.sent (sent_assertPath ((hpath 1).trans hfree) hlt ?_)
      rw [laneSends_congr (fun o h1 h2 => hreg o (by omega)) (ha.frame .clk (by decide)) hlt]
      exact (Bool.and_eq_true_iff.1 hw).2
  · obtain ⟨t, hx, hans, ht⟩ := completes_ready (c := .snuff r) (k := cmdSnuff) (v := accepted r d s) (st := stOK)
      (detail := 0) (value := 0) rfl hready (fun j => by simp only [cmdSnuff, hlamp, hsn, if_true]) (by decide) (by decide) hset
      (fld_congr_reg (hreg _ (by decide))) hflr herr
    refine ⟨t, hx, hans, ?_, ?_, (ht.frame .log (by decide)).trans (ha.frame .log (by decide))⟩
    · rw [lamp_congr (ht.fld_eq (not_complReg (by decide) (by decide))), hlamp, hsn]
    · rw [ht.regs _ (not_complReg (by decide) (by decide)), hreg _ (by decide)]

/-! ### SNUFF_RELEASE (R424) -/

/-- The key of slot 0 in `overtaken`. -/
def overtakenKey : Bytes := List.replicate 32 0#8

/-- A SNUFF_RELEASE with AUTH, TAG 7, slot 0 and counter 5, sealed under that key. -/
def overtakenRelease : Bytes :=
  let d := [0x86#8, 4#8, 7#8] ++ List.replicate 37 0#8 ++ natLe 5 8
  d ++ (hmac overtakenKey d).take 16

/-- Lit, link up. Ring 0's SNUFF_RELEASE waited for its mark write, which has ended: it stands in front, accepted with
counter 5, and the mark is 512. Since then the slot has accepted counter 7 from another ring. -/
def overtaken : State :=
  let s := [(Reg.HOST_LINK_MODE, 1), (Reg.CMD_KEY_STAT_SET 0, 1), (Reg.CMD_KEY_STAT_PERMIT 0, 0x11DD), (Reg.CMD_KEY_MARK_MARK 0, 512),
    (Reg.CMD_KEY_CTR_LAST 0, 7)].foldl (fun s p => setFld s p.1 p.2) (setLamp State.reset .lit)
  { s with keys := [(0, overtakenKey)], rings := [(0, { taken := [overtakenRelease], passed := true })] }

/-- The last counter of slot 0 after a command. -/
def lastCounterAfter (c : Instr) (s : State) : Option Nat :=
  match exec c s with
  | .next t => some (fld t (Reg.CMD_KEY_CTR_LAST 0))
  | _ => none

theorem overtaken_settled : overtaken.settled :=
  State.settled_of_none rfl rfl rfl (by decide +kernel) (by decide +kernel) rfl

theorem overtaken_front : (ring overtaken 0).taken.head? = some overtakenRelease := rfl

/-- It is in front and accepted, and nothing makes it wait; the MAC is not looked at again. -/
theorem overtaken_ready : ready cmdSnuffRelease 0 overtakenRelease overtaken = true := by
  have hopen : (openRing overtaken 0 && decide ((ring overtaken 0).doomed = 0)) = true := by decide +kernel
  have hrest : (decide (dOp overtakenRelease = cmdSnuffRelease.op) && frontFree overtaken 0 overtakenRelease &&
      decide (frontAuth overtaken 0 overtakenRelease = .pass) && cmdSnuffRelease.ready overtaken overtakenRelease &&
      flagsOk overtakenRelease && cmdSnuffRelease.bodyOk overtakenRelease) = true := by decide +kernel
  simp only [Bool.and_eq_true] at hrest
  obtain ⟨⟨⟨⟨⟨hop, hfree⟩, hauth⟩, hready⟩, hflags⟩, hbody⟩ := hrest
  simp only [ready, hopen, overtaken_front, decide_true, hop, hfree, hauth, hready, hflags, hbody, Bool.and_self]

theorem overtaken_lastCounter : lastCounterAfter (.snuffRelease 0) overtaken = some 7 := by decide +kernel

/-- Refutes O47, by its clause on the counter: a release that was accepted when its mark write ended (R431) executes
without another check, so the slot's last counter stays the later one that a command of another ring has brought between
(here 7, where the release carries 5). -/
theorem not_snuffReleaseReleasesWhatItCan : ¬ Obligations.SnuffReleaseReleasesWhatItCan := by
  unfold Obligations.SnuffReleaseReleasesWhatItCan
  intro h
  obtain ⟨t, hx, -, -, -, hlast⟩ := h overtaken 0 overtakenRelease overtaken_settled overtaken_ready
  have h7 : some (fld t (Reg.CMD_KEY_CTR_LAST 0)) = some 7 := by
    rw [← overtaken_lastCounter, lastCounterAfter, hx]
  have h5 : fld t (Reg.CMD_KEY_CTR_LAST 0) = 5 := hlast.trans (by decide +kernel)
  rw [h5] at h7
  exact absurd h7 (by decide)

end Sys2Proof.HostPort
end

section
/-! PROOFS. The records of the events: O16, an occurrence (R540), and O15, EVENT_CLEAR (R541). -/

namespace Sys2Proof.HostPort

open Machine

/-! ### The registers of a record lie apart -/

theorem evTime_ne_evCnt (src : Nat) : Reg.MGMT_EV_TIME src ≠ Reg.MGMT_EV_CNT src := by
  simp only [Reg.MGMT_EV_TIME, Reg.MGMT_EV_CNT]; omega

theorem evData_ne_evCnt (src i : Nat) : Reg.MGMT_EV_DATA src i ≠ Reg.MGMT_EV_CNT src := by
  simp only [Reg.MGMT_EV_DATA, Reg.MGMT_EV_CNT]; omega

theorem evData_ne_evTime (src i : Nat) : Reg.MGMT_EV_DATA src i ≠ Reg.MGMT_EV_TIME src := by
  simp only [Reg.MGMT_EV_DATA, Reg.MGMT_EV_TIME]; omega

theorem evData_injective (src : Nat) : Function.Injective (Reg.MGMT_EV_DATA src) := fun i j h => by
  simp only [Reg.MGMT_EV_DATA] at h; omega

/-- The ember words end below the records of the sources. -/
theorem ne_emberOff {src o : Nat} (h : src < 256) (ho : 0x3E1000 ≤ o) : o ≠ (emberFld src).off := by
  simp only [emberFld, Reg.MGMT_EV_PEND]; omega

theorem emberFld_ok (src : Nat) : (emberFld src).ok := ⟨Nat.le_refl _, Nat.mod_lt _ (by decide)⟩

/-! ### Fields of one register -/

theorem fld_setFld_self (s : State) {o lo hi : Nat} (v : Nat) (h : lo ≤ hi ∧ hi < 64) :
    fld (setFld s ⟨o, hi, lo⟩ v) ⟨o, hi, lo⟩ = v % 2 ^ (hi - lo + 1) := fld_setFld_same s ⟨o, hi, lo⟩ v h

/-- A write of one field of a register leaves another of its fields alone. -/
theorem fld_setFld_apart (s : State) {o lo hi lo' hi' : Nat} (v : Nat)
    (h : lo ≤ hi ∧ hi < 64 ∧ lo' ≤ hi' ∧ (hi' < lo ∨ hi < lo')) :
    fld (setFld s ⟨o, hi, lo⟩ v) ⟨o, hi', lo'⟩ = fld s ⟨o, hi', lo'⟩ := by
  obtain ⟨hlo, hhi, hle, hapart⟩ := h
  exact fld_setFld_ne s ⟨o, hi, lo⟩ ⟨o, hi', lo'⟩ v ⟨hlo, hhi⟩ hle (.inr hapart)

/-! ### The steps of an occurrence (R540) -/

/-- COUNT goes up, or OVF is set where COUNT is at its largest value. -/
def countUp (src : Nat) (s : State) : State :=
  if fld s (Reg.MGMT_EV_CNT_COUNT src) = 0xFFFF then setFld s (Reg.MGMT_EV_CNT_OVF src) 1
  else setFld s (Reg.MGMT_EV_CNT_COUNT src) (fld s (Reg.MGMT_EV_CNT_COUNT src) + 1)

/-- FIRST is stored unless one is kept already. -/
def keepFirst (src data : Nat) (forced : Bool) (s : State) : State :=
  if flag s (Reg.MGMT_EV_CNT_FIRST_VALID src) then s else storeFirst src data forced s

/-- The occurrence goes to the vector its source is routed to (R436). -/
def notifyVec (src : Nat) (s : State) : State :=
  if flag s (Reg.HOST_ROUTE_EN src) then vecOccur (fld s (Reg.HOST_ROUTE_VEC src)) s else s

theorem recordEvent_eq (src data : Nat) (forced : Bool) (s : State) :
    recordEvent src data forced s =
      notifyVec src (keepFirst src data forced (countUp src (setFld s (emberFld src) 1))) := rfl

theorem reg_notifyVec (src : Nat) (s : State) {o : Nat} (ho : 0x50 < o) : reg (notifyVec src s) o = reg s o := by
  unfold notifyVec
  split
  · exact (changes_vecOccur _ s).regs o (not_msgReg (.inr ho))
  · rfl

theorem reg_countUp_ne (src : Nat) (s : State) {o : Nat} (ho : o ≠ Reg.MGMT_EV_CNT src) : reg (countUp src s) o = reg s o := by
  unfold countUp
  split
  · exact reg_setFld_ne s _ ho
  · exact reg_setFld_ne s _ ho

theorem firstValid_countUp (src : Nat) (s : State) :
    fld (countUp src s) (Reg.MGMT_EV_CNT_FIRST_VALID src) = fld s (Reg.MGMT_EV_CNT_FIRST_VALID src) := by
  unfold countUp
  split
  · exact fld_setFld_apart s _ (by decide)
  · exact fld_setFld_apart s _ (by decide)

theorem countUp_full {src : Nat} {s : State} (h : fld s (Reg.MGMT_EV_CNT_COUNT src) = 0xFFFF) :
    fld (countUp src s) (Reg.MGMT_EV_CNT_OVF src) = 1 ∧ fld (countUp src s) (Reg.MGMT_EV_CNT_COUNT src) = 0xFFFF := by
  rw [countUp, if_pos h]
  exact ⟨fld_setFld_self s 1 (by decide), (fld_setFld_apart s 1 (by decide)).trans h⟩

theorem countUp_room {src : Nat} {s : State} (h : fld s (Reg.MGMT_EV_CNT_COUNT src) ≠ 0xFFFF) :
    fld (countUp src s) (Reg.MGMT_EV_CNT_COUNT src) = fld s (Reg.MGMT_EV_CNT_COUNT src) + 1 ∧
    fld (countUp src s) (Reg.MGMT_EV_CNT_OVF src) = fld s (Reg.MGMT_EV_CNT_OVF src) := by
  have hlt : fld s (Reg.MGMT_EV_CNT_COUNT src) < 0x10000 := fld_lt s (Reg.MGMT_EV_CNT_COUNT src)
  rw [countUp, if_neg h]
  refine ⟨(fld_setFld_self s _ (by decide)).trans (Nat.mod_eq_of_lt ?_), fld_setFld_apart s _ (by decide)⟩
  show _ + 1 < 0x10000
  omega

/-! ### FIRST (R540) -/

/-- Writes of fixed values to distinct registers are all read back. -/
theorem reg_forAll_setReg {off : Nat → Nat} (v : Nat → DWord) (hoff : off.Injective) (ns : List Nat) (s : State) {i : Nat}
    (hi : i ∈ ns) : reg (forAll ns (fun n s => setReg s (off n) (v n)) s) (off i) = v i := by
  induction ns generalizing s with
  | nil => exact absurd hi List.not_mem_nil
  | cons n ns ih =>
    rw [forAll_cons]
    by_cases h : i ∈ ns
    · exact ih _ h
    · obtain rfl : i = n := (List.mem_cons.1 hi).resolve_right h
      rw [forAll_same (fun t => reg t (off i)) ns _ fun m hm t => reg_setReg_ne t _ fun e => h (hoff e ▸ hm)]
      exact reg_setReg_same s _ _

/-- The four words of a capture, in the record of source `src`. -/
def storeData (src data : Nat) : State → State :=
  forAll [0, 1, 2, 3] fun i s => setReg s (Reg.MGMT_EV_DATA src i) (BitVec.ofNat 64 (bitsOf data (64 * i) 64))

theorem reg_storeData_ne (src data : Nat) (s : State) {o : Nat} (ho : ∀ i, o ≠ Reg.MGMT_EV_DATA src i) :
    reg (storeData src data s) o = reg s o :=
  forAll_same (fun t => reg t o) _ _ (fun i _ t => reg_setReg_ne t _ (ho i)) s

/-- FIRST is the time, the capture, FIRST_VALID and FORCED. -/
theorem storeFirst_eq (src data : Nat) (forced : Bool) (s : State) :
    storeFirst src data forced s =
      setFld (setFld (storeData src data (setReg s (Reg.MGMT_EV_TIME src) (BitVec.ofNat 64 (tb0 s))))
        (Reg.MGMT_EV_CNT_FIRST_VALID src) 1) (Reg.MGMT_EV_CNT_FORCED src) (b2n forced) := rfl

theorem reg_storeFirst_ne (src data : Nat) (forced : Bool) (s : State) {o : Nat} (ho : o ≠ Reg.MGMT_EV_CNT src) :
    reg (storeFirst src data forced s) o =
      reg (storeData src data (setReg s (Reg.MGMT_EV_TIME src) (BitVec.ofNat 64 (tb0 s)))) o := by
  rw [storeFirst_eq, reg_setFld_ne _ _ ho, reg_setFld_ne _ _ ho]

theorem time_storeFirst (src data : Nat) (forced : Bool) (s : State) :
    (reg (storeFirst src data forced s) (Reg.MGMT_EV_TIME src)).toNat = tb0 s := by
  rw [reg_storeFirst_ne src data forced s (evTime_ne_evCnt src),
    reg_storeData_ne src data _ fun i => (evData_ne_evTime src i).symm, reg_setReg_same, tb0, BitVec.ofNat_toNat]
  rfl

theorem data_storeFirst (src data : Nat) (forced : Bool) (s : State) {i : Nat} (hi : i < 4) :
    (reg (storeFirst src data forced s) (Reg.MGMT_EV_DATA src i)).toNat = bitsOf data (64 * i) 64 := by
  have hmem : i ∈ [0, 1, 2, 3] := by simp only [List.mem_cons, List.not_mem_nil, or_false]; omega
  rw [reg_storeFirst_ne src data forced s (evData_ne_evCnt src i), storeData,
    reg_forAll_setReg (fun i => BitVec.ofNat 64 (bitsOf data (64 * i) 64)) (evData_injective src) _ _ hmem,
    BitVec.toNat_ofNat, Nat.mod_eq_of_lt (bitsOf_lt _ _ _)]

theorem firstValid_storeFirst (src data : Nat) (forced : Bool) (s : State) :
    fld (storeFirst src data forced s) (Reg.MGMT_EV_CNT_FIRST_VALID src) = 1 := by
  rw [storeFirst_eq]
  exact (fld_setFld_apart _ _ (by decide)).trans (fld_setFld_self _ 1 (by decide))

/-- COUNT and OVF, the fields below FIRST_VALID, read as before. -/
theorem fld_storeFirst_below (src data : Nat) (forced : Bool) (s : State) {lo hi : Nat} (h : lo ≤ hi ∧ hi < 17) :
    fld (storeFirst src data forced s) ⟨Reg.MGMT_EV_CNT src, hi, lo⟩ = fld s ⟨Reg.MGMT_EV_CNT src, hi, lo⟩ := by
  rw [storeFirst_eq, fld_setFld_apart _ _ (by omega), fld_setFld_apart _ _ (by omega)]
  exact (fld_congr_reg (reg_storeData_ne src data _ fun i => (evData_ne_evCnt src i).symm)).trans
    (fld_setReg_ne s _ _ (evTime_ne_evCnt src).symm)

theorem keepFirst_valid {src : Nat} {s : State} (data : Nat) (forced : Bool)
    (h : fld s (Reg.MGMT_EV_CNT_FIRST_VALID src) = 1) : keepFirst src data forced s = s := by
  rw [keepFirst, flag, decide_eq_true h, if_pos rfl]

theorem keepFirst_invalid {src : Nat} {s : State} (data : Nat) (forced : Bool)
    (h : fld s (Reg.MGMT_EV_CNT_FIRST_VALID src) ≠ 1) : keepFirst src data forced s = storeFirst src data forced s := by
  rw [keepFirst, flag, decide_eq_false h, if_neg Bool.false_ne_true]

theorem firstValid_keepFirst (src data : Nat) (forced : Bool) (s : State) :
    fld (keepFirst src data forced s) (Reg.MGMT_EV_CNT_FIRST_VALID src) = 1 := by
  by_cases h : fld s (Reg.MGMT_EV_CNT_FIRST_VALID src) = 1
  · rw [keepFirst_valid data forced h, h]
  · rw [keepFirst_invalid data forced h, firstValid_storeFirst]

theorem fld_keepFirst_below (src data : Nat) (forced : Bool) (s : State) {lo hi : Nat} (hf : lo ≤ hi ∧ hi < 17) :
    fld (keepFirst src data forced s) ⟨Reg.MGMT_EV_CNT src, hi, lo⟩ = fld s ⟨Reg.MGMT_EV_CNT src, hi, lo⟩ := by
  by_cases h : fld s (Reg.MGMT_EV_CNT_FIRST_VALID src) = 1
  · rw [keepFirst_valid data forced h]
  · rw [keepFirst_invalid data forced h, fld_storeFirst_below src data forced s hf]

/-! ### An occurrence (R540) -/

/-- The state in which an occurrence finds FIRST: the ember bit set and the occurrence counted. -/
def counted (src : Nat) (s : State) : State := countUp src (setFld s (emberFld src) 1)

theorem reg_recordEvent (src data : Nat) (forced : Bool) (s : State) {o : Nat} (ho : 0x50 < o) :
    reg (recordEvent src data forced s) o = reg (keepFirst src data forced (counted src s)) o := by
  rw [recordEvent_eq, reg_notifyVec src _ ho, counted]

theorem fld_recordEvent_cnt (src data : Nat) (forced : Bool) (s : State) {f : Fld} (ho : f.off = Reg.MGMT_EV_CNT src) :
    fld (recordEvent src data forced s) f = fld (keepFirst src data forced (counted src s)) f :=
  fld_congr_reg (reg_recordEvent src data forced s (by rw [ho]; simp only [Reg.MGMT_EV_CNT]; omega))

theorem reg_counted_ne {src o : Nat} (s : State) (he : o ≠ (emberFld src).off) (hc : o ≠ Reg.MGMT_EV_CNT src) :
    reg (counted src s) o = reg s o := by
  rw [counted, reg_countUp_ne src _ hc, reg_setFld_ne s 1 he]

theorem tb0_counted {src : Nat} (s : State) (h : src < 256) : tb0 (counted src s) = tb0 s := by
  rw [tb0, reg_counted_ne s (by simp only [emberFld, Reg.MGMT_EV_PEND, Reg.TIME_TB_NOW]; omega)
    (by simp only [Reg.MGMT_EV_CNT, Reg.TIME_TB_NOW]; omega), tb0]

/-- The ember bit is in another register than the counts. -/
theorem fld_setEmber {src : Nat} (s : State) (h : src < 256) (v : Nat) {f : Fld} (ho : f.off = Reg.MGMT_EV_CNT src) :
    fld (setFld s (emberFld src) v) f = fld s f :=
  fld_congr_reg (reg_setFld_ne s v (ne_emberOff h (by rw [ho]; exact Nat.le_add_right _ _)))

theorem firstValid_counted {src : Nat} (s : State) (h : src < 256) :
    fld (counted src s) (Reg.MGMT_EV_CNT_FIRST_VALID src) = fld s (Reg.MGMT_EV_CNT_FIRST_VALID src) :=
  (firstValid_countUp src _).trans (fld_setEmber s h 1 rfl)

theorem firstValid_recordEvent (src data : Nat) (forced : Bool) (s : State) :
    fld (recordEvent src data forced s) (Reg.MGMT_EV_CNT_FIRST_VALID src) = 1 := by
  rw [fld_recordEvent_cnt src data forced s rfl, firstValid_keepFirst]

theorem fld_recordEvent_below (src data : Nat) (forced : Bool) (s : State) {lo hi : Nat} (h : lo ≤ hi ∧ hi < 17) :
    fld (recordEvent src data forced s) ⟨Reg.MGMT_EV_CNT src, hi, lo⟩ =
      fld (counted src s) ⟨Reg.MGMT_EV_CNT src, hi, lo⟩ := by
  rw [fld_recordEvent_cnt src data forced s rfl, fld_keepFirst_below src data forced _ h]

theorem counts_recordEvent {src : Nat} (data : Nat) (forced : Bool) (s : State) (h : src < 256) :
    let t := recordEvent src data forced s
    if fld s (Reg.MGMT_EV_CNT_COUNT src) = 0xFFFF then
      fld t (Reg.MGMT_EV_CNT_OVF src) = 1 ∧ fld t (Reg.MGMT_EV_CNT_COUNT src) = 0xFFFF
    else fld t (Reg.MGMT_EV_CNT_COUNT src) = fld s (Reg.MGMT_EV_CNT_COUNT src) + 1 ∧
      fld t (Reg.MGMT_EV_CNT_OVF src) = fld s (Reg.MGMT_EV_CNT_OVF src) := by
  have hcount := fld_setEmber s h 1 (f := Reg.MGMT_EV_CNT_COUNT src) rfl
  have hovf := fld_setEmber s h 1 (f := Reg.MGMT_EV_CNT_OVF src) rfl
  intro t
  have hc : fld t (Reg.MGMT_EV_CNT_COUNT src) = fld (counted src s) (Reg.MGMT_EV_CNT_COUNT src) :=
    fld_recordEvent_below src data forced s (by decide)
  have ho : fld t (Reg.MGMT_EV_CNT_OVF src) = fld (counted src s) (Reg.MGMT_EV_CNT_OVF src) :=
    fld_recordEvent_below src data forced s (by decide)
  rw [hc, ho, ← hcount, ← hovf]
  split
  · next hfull => exact countUp_full hfull
  · next hroom => exact countUp_room hroom

/-- An occurrence leaves a FIRST that is kept unchanged. -/
theorem first_recordEvent_kept {src : Nat} (data : Nat) (forced : Bool) {s : State} (h : src < 256)
    (hv : fld s (Reg.MGMT_EV_CNT_FIRST_VALID src) = 1) {o : Nat} (ho : 0x3E1000 ≤ o) (hc : o ≠ Reg.MGMT_EV_CNT src) :
    reg (recordEvent src data forced s) o = reg s o := by
  rw [reg_recordEvent src data forced s (by omega), keepFirst_valid data forced ((firstValid_counted s h).trans hv),
    reg_counted_ne s (ne_emberOff h ho) hc]

/-- An occurrence that finds no FIRST becomes it, with its own capture and time. -/
theorem first_recordEvent_stored {src : Nat} (data : Nat) (forced : Bool) {s : State} (h : src < 256)
    (hv : fld s (Reg.MGMT_EV_CNT_FIRST_VALID src) ≠ 1) :
    (reg (recordEvent src data forced s) (Reg.MGMT_EV_TIME src)).toNat = tb0 s ∧
    ∀ i, i < 4 → (reg (recordEvent src data forced s) (Reg.MGMT_EV_DATA src i)).toNat = bitsOf data (64 * i) 64 := by
  have hreg : ∀ {o}, 0x50 < o → reg (recordEvent src data forced s) o = reg (storeFirst src data forced (counted src s)) o :=
    fun ho => by
      rw [reg_recordEvent src data forced s ho, keepFirst_invalid data forced fun e => hv ((firstValid_counted s h).symm.trans e)]
  refine ⟨?_, fun i hi => ?_⟩
  · rw [hreg (by simp only [Reg.MGMT_EV_TIME]; omega), time_storeFirst, tb0_counted s h]
  · rw [hreg (by simp only [Reg.MGMT_EV_DATA]; omega), data_storeFirst src data forced _ hi]

/-- Settles O16, step by step of the recording: the ember bit, the counts, and FIRST by whether one is kept. -/
theorem anOccurrenceIsRecorded : Obligations.AnOccurrenceIsRecorded := by
  unfold Obligations.AnOccurrenceIsRecorded
  intro s src data forced h _ t
  refine ⟨ember_recordEvent src data forced s h, counts_recordEvent data forced s h,
    firstValid_recordEvent src data forced s, ?_⟩
  split
  · next hv =>
    exact ⟨first_recordEvent_kept data forced h hv (by simp only [Reg.MGMT_EV_TIME]; omega) (evTime_ne_evCnt src),
      fun i _ => first_recordEvent_kept data forced h hv (by simp only [Reg.MGMT_EV_DATA]; omega) (evData_ne_evCnt src i)⟩
  · next hv => exact first_recordEvent_stored data forced h hv

/-! ### EVENT_CLEAR (R541) -/

/-- The ember bit and the counts of a source are those of `s`. -/
structure EventKept (src : Nat) (s t : State) : Prop where
  ember : fld t (emberFld src) = fld s (emberFld src)
  counts : reg t (Reg.MGMT_EV_CNT src) = reg s (Reg.MGMT_EV_CNT src)

theorem EventKept.trans {src : Nat} {s t u : State} (h : EventKept src s t) (k : EventKept src t u) : EventKept src s u :=
  ⟨k.ember.trans h.ember, k.counts.trans h.counts⟩

/-- A source has no ember and its counts read 0. -/
structure EventCleared (src : Nat) (t : State) : Prop where
  ember : fld t (emberFld src) = 0
  counts : reg t (Reg.MGMT_EV_CNT src) = 0

theorem EventCleared.kept {src : Nat} {s t : State} (h : EventCleared src s) (k : EventKept src s t) : EventCleared src t :=
  ⟨k.ember.trans h.ember, k.counts.trans h.counts⟩

theorem EventCleared.fld_eq_zero {src : Nat} {t : State} (h : EventCleared src t) {f : Fld}
    (hf : f.off = Reg.MGMT_EV_CNT src) : fld t f = 0 := by
  rw [fld, hf, h.counts]
  simp [bitsOf]

/-- An occurrence after the clear becomes the new FIRST. -/
theorem EventCleared.first {src : Nat} {t : State} (h : EventCleared src t) (hs : src < 256) (data : Nat) :
    (reg (recordEvent src data false t) (Reg.MGMT_EV_TIME src)).toNat = tb0 t ∧
    ∀ k, k < 4 → (reg (recordEvent src data false t) (Reg.MGMT_EV_DATA src k)).toNat = bitsOf data (64 * k) 64 :=
  first_recordEvent_stored data false hs (by rw [h.fld_eq_zero rfl]; decide)

/-- The ember bits of two sources are two bits. -/
theorem emberFld_apart {n src : Nat} (h : src ≠ n) : (emberFld src).off ≠ (emberFld n).off ∨
    (emberFld src).hi < (emberFld n).lo ∨ (emberFld n).hi < (emberFld src).lo := by
  simp only [emberFld, Reg.MGMT_EV_PEND]
  omega

theorem eventCleared_clearEvent {src : Nat} (s : State) (h : src < 256) : EventCleared src (clearEvent src s) := by
  refine ⟨?_, reg_setReg_same _ _ _⟩
  rw [clearEvent, fld_setReg_ne _ _ _ (ne_emberOff h (Nat.le_add_right _ _)).symm, fld_setFld_same s _ 0 (emberFld_ok src),
    Nat.zero_mod]

theorem eventKept_clearEvent {n src : Nat} (s : State) (hn : n < 256) (h : src < 256) (hne : src ≠ n) :
    EventKept src s (clearEvent n s) := by
  have hcnt : Reg.MGMT_EV_CNT src ≠ Reg.MGMT_EV_CNT n := by simp only [Reg.MGMT_EV_CNT]; omega
  refine ⟨?_, ?_⟩
  · rw [clearEvent, fld_setReg_ne _ _ _ (ne_emberOff h (Nat.le_add_right _ _)).symm,
      fld_setFld_ne s _ _ 0 (emberFld_ok n) (Nat.le_refl _) (emberFld_apart hne)]
  · rw [clearEvent, reg_setReg_ne _ _ hcnt, reg_setFld_ne s 0 (ne_emberOff hn (Nat.le_add_right _ _))]

theorem eventKept_clears {src : Nat} (ns : List Nat) (s : State) (hns : ∀ n ∈ ns, n < 256) (h : src < 256) (hm : src ∉ ns) :
    EventKept src s (forAll ns clearEvent s) :=
  forAll_keeps (EventKept src s) ns clearEvent
    (fun n hn t ht => ht.trans (eventKept_clearEvent t (hns n hn) h fun e => hm (e ▸ hn))) s ⟨rfl, rfl⟩

theorem eventCleared_clears {src : Nat} (ns : List Nat) (s : State) (hns : ∀ n ∈ ns, n < 256) (hm : src ∈ ns) :
    EventCleared src (forAll ns clearEvent s) := by
  induction ns generalizing s with
  | nil => exact absurd hm List.not_mem_nil
  | cons n ns ih =>
    have hns' : ∀ m ∈ ns, m < 256 := fun m h => hns m (List.mem_cons_of_mem n h)
    rw [forAll_cons]
    by_cases h : src ∈ ns
    · exact ih _ hns' h
    · obtain rfl : src = n := (List.mem_cons.1 hm).resolve_right h
      have hs : src < 256 := hns src List.mem_cons_self
      exact (eventCleared_clearEvent s hs).kept (eventKept_clears ns _ hns' hs h)

theorem mem_sourcesOf {i mask src : Nat} : src ∈ sourcesOf i mask ↔ src / 64 = i ∧ bitOf mask (src % 64) = true := by
  simp only [sourcesOf, List.mem_map, List.mem_filter, List.mem_range]
  constructor
  · rintro ⟨j, ⟨hj, hb⟩, rfl⟩
    have hd : (64 * i + j) / 64 = i := by omega
    have hr : (64 * i + j) % 64 = j := by omega
    exact ⟨hd, by rwa [hr]⟩
  · rintro ⟨rfl, hb⟩
    exact ⟨src % 64, ⟨Nat.mod_lt _ (by decide), hb⟩, Nat.div_add_mod src 64⟩

theorem frame_clearEvent {src : Nat} (s : State) (h : src < 256) : Frame eventParts s (clearEvent src s) := by
  have hember : 0x3E0100 ≤ (emberFld src).off ∧ (emberFld src).off < 0x3E0120 := by
    simp only [emberFld, Reg.MGMT_EV_PEND]; omega
  have hcnt : 0x3E1000 ≤ Reg.MGMT_EV_CNT src ∧ Reg.MGMT_EV_CNT src < 0x400000 := by
    simp only [Reg.MGMT_EV_CNT]; omega
  exact (changes_eventReg s _ _ (.inl hember) (by omega)).frame.trans (changes_eventReg _ _ _ (.inr hcnt.1) hcnt.2).frame

theorem exec_eventClear {i : Nat} (mask : DWord) (s : State) (hi : i < 4) :
    exec (.eventClear i mask) s = doneWrite (forAll (sourcesOf i mask.toNat) clearEvent) s := by
  show execEventClear i mask s = _
  simp only [execEventClear, if_pos hi]

/-- Settles O15: the write clears the sources of its mask one by one, and each clear leaves the other sources alone. -/
theorem eventClearClearsTheRecord : Obligations.EventClearClearsTheRecord := by
  unfold Obligations.EventClearClearsTheRecord
  intro s i mask hs hi
  have hlt : ∀ n ∈ sourcesOf i mask.toNat, n < 256 := fun n hn => by
    obtain ⟨hword, -⟩ := mem_sourcesOf.1 hn
    omega
  have hframe := Frame.forAll _ clearEvent (fun n hn t => frame_clearEvent t (hlt n hn)) (freshWrite s)
  refine completes_doneWrite (exec_eventClear mask s hi)
    (settled_of_frame hframe (by decide) (settled_freshWrite hs)) fun t ht src hsrc => ?_
  have hk : EventKept src (forAll (sourcesOf i mask.toNat) clearEvent (freshWrite s)) t := ⟨ht.fld_eq id, ht.regs _ id⟩
  split
  · next h =>
    have hc : EventCleared src t := (eventCleared_clears _ _ hlt (mem_sourcesOf.2 h)).kept hk
    exact ⟨hc.ember, hc.fld_eq_zero rfl, hc.fld_eq_zero rfl, hc.fld_eq_zero rfl, hc.fld_eq_zero rfl,
      fun data _ => hc.first hsrc data⟩
  · next h =>
    obtain ⟨hember, hcounts⟩ := (eventKept_clears _ (freshWrite s) hlt hsrc fun hm => h (mem_sourcesOf.1 hm)).trans hk
    exact ⟨hember, hcounts⟩

end Sys2Proof.HostPort
end

section
/-! PROOFS. What a state with an index out of range lets a command write: the frames O9 to O13 and O52 fail, since they presume
operands in range but no index that the state itself holds. -/

namespace Sys2Proof.Stray

open Machine

/-! ### A register beyond a command's frame -/

/-- A register of a block that is not listed has changed, and DARK_FAULT has not been entered: the frame is broken. -/
theorem not_within_of_reg {ps : List Part} {s t : State} {off : Nat} (hb : Part.regs (blockOf off) ∉ ps) (hg : off ≠ Reg.GEN_STATE)
    (hd : lamp t ≠ .darkFault) (hr : reg t off ≠ reg s off) : ¬ Within ps s t := fun h => by
  rw [Within, if_neg fun c => hd c.2] at h
  exact hr (h _ hb off rfl hg)

/-! ### The frames (O9 to O13) -/

/-- MFB_STAT with nine channels, one more than the registers of a channel have room for: those of channel 8 stand in the reel's
block. -/
def nineChannels : DWord := 0x90#64

/-- LENS_FORCE work on a common that does not exist waits for VIN: its targets stand among the registers of management. -/
def strayDeclare : State :=
  { regs := [(Reg.GEN_STATE, 3#64)], lens := { forced := [(4096, 1, 7)] }, snuff := { vinHigh := false } }

theorem settled_strayDeclare : strayDeclare.settled :=
  State.settled_of_none rfl rfl rfl (by decide) (by decide) rfl

/-- Refutes O9: VIN_RECOVER lets LENS_FORCE work go on, and the common that it names is not bounded by 16. -/
theorem not_powerAndHealthFrame : ¬ Obligations.PowerAndHealthFrame := by
  unfold Obligations.PowerAndHealthFrame
  intro h
  exact not_within_of_reg (off := Reg.LENS_TARGET (12 * 4096)) (by decide) (by decide) (by decide +kernel) (by decide +kernel)
    (h (.vinRecover 0) strayDeclare _ (.inl rfl) rfl settled_strayDeclare rfl)

/-- A poisoned line of channel 8. -/
def strayPoison : State :=
  { regs := [(Reg.GEN_STATE, 3#64), (Reg.HOST_LINK, 1#64), (Reg.MFB_STAT, nineChannels), (Reg.MFB_CAPACITY, 0x10000#64)]
    hdm := [(0, { size := 0x10000, committed := true })]
    poison := [32] }

theorem settled_strayPoison : strayPoison.settled :=
  State.settled_of_none rfl rfl rfl (by decide) (by decide) rfl

/-- Refutes O10: a host read of a poisoned line counts in the registers of its channel, and NCH is not bounded by 8. -/
theorem not_hostAndWriteFrame : ¬ Obligations.HostAndWriteFrame := by
  unfold Obligations.HostAndWriteFrame
  intro h
  exact not_within_of_reg (off := Reg.DMC_UE_CNT 8) (by decide) (by decide) (by decide +kernel) (by decide +kernel)
    (h (.hostMemRead 2048 1) strayPoison _ (.inl rfl) rfl settled_strayPoison rfl)

/-- A copy of one byte of the store to a line of channel 8 that one device reads wrong. -/
def strayCopy : State :=
  { regs := [(Reg.GEN_STATE, 3#64), (Reg.MFB_STAT, nineChannels), (Reg.MFB_CAPACITY, 0x10000#64),
      (Reg.MFB_PART_INFO 0, 0x3F000000010000#64)]
    dram := { errs := [(32, 1)] }
    nvmReads := [({}, natLe 0 12 ++ natLe 1 4 ++ natLe 2048 8)] }

theorem settled_strayCopy : strayCopy.settled :=
  State.settled_of_none rfl rfl rfl (by decide) (by decide) rfl

/-- Refutes O11: the write of an NVM_READ's copy corrects the line and counts it in the registers of its channel. -/
theorem not_ringCommandsFrame : ¬ Obligations.RingCommandsFrame := by
  unfold Obligations.RingCommandsFrame
  intro h
  exact not_within_of_reg (off := Reg.DMC_ECC_CE 8 0) (by decide) (by decide) (by decide +kernel) (by decide +kernel)
    (h .nvmReadCopyDone strayCopy _ rfl rfl settled_strayCopy rfl)

/-- A population; its own channels and rows are not what MFB_STAT reads. -/
def somePop : DramPop := ⟨1, 4, 1, 1, 8, 2400, 2, false, []⟩

/-- Channel 8 runs step 1 of its training. -/
def strayTraining : State :=
  { regs := [(Reg.GEN_STATE, 3#64), (Reg.MFB_STAT, nineChannels), (Reg.DMC_TRAIN 8, 1#64)], dram := { pop := some somePop } }

theorem settled_strayTraining : strayTraining.settled :=
  State.settled_of_none rfl rfl rfl (by decide) (by decide) rfl

/-- Refutes O12: the end of a training step goes on to the next in every channel of NCH. -/
theorem not_pictureAndMemoryFrame : ¬ Obligations.PictureAndMemoryFrame := by
  unfold Obligations.PictureAndMemoryFrame
  intro h
  exact not_within_of_reg (off := Reg.DMC_TRAIN 8) (by decide) (by decide) (by decide +kernel) (by decide +kernel)
    (h (.freqChangeDone 1 []) strayTraining _ (.inr rfl) rfl settled_strayTraining rfl)

/-- DPLL has locked at a new data rate, and every channel is in self-refresh still. -/
def strayRelock : State :=
  { regs := [(Reg.GEN_STATE, 3#64), (Reg.MFB_STAT, nineChannels), (Reg.CLK_PLL_STAT 6, 2#64)]
    dram := { pop := some somePop, freqRun := some 2400, selfRefresh := true } }

theorem settled_strayRelock : strayRelock.settled :=
  State.settled_of_none rfl rfl rfl (by decide) (by decide) rfl

/-- Refutes O13: after a lock window every channel of NCH begins to train. -/
theorem not_lanesClocksAndPanelFrame : ¬ Obligations.LanesClocksAndPanelFrame := by
  unfold Obligations.LanesClocksAndPanelFrame
  intro h
  exact not_within_of_reg (off := Reg.DMC_TRAIN 8) (by decide) (by decide) (by decide +kernel) (by decide +kernel)
    (h (.lockWindowEnd 0 0) strayRelock _ (.inr (.inl rfl)) rfl settled_strayRelock rfl)

/-! ### The snuff paths (O52) -/

/-- In READY_DARK path 1 holds, and the key record of slot 124,824 is being written, whose CMD_KEY_STAT would stand where
MGMT_SNUFF_STAT is: its BUSY is the path's bit. -/
def strayKeyWrite : State :=
  { regs := [(Reg.GEN_STATE, 3#64), (Reg.MGMT_SNUFF_STAT, 2#64)]
    nvmRun := some ⟨0, 0, [], 0, .key 124824⟩
    keyPend := [⟨124824, {}, none, 0⟩] }

theorem settled_strayKeyWrite : strayKeyWrite.settled :=
  State.settled_of_none rfl rfl rfl (by decide) (by decide) rfl

theorem strayKeyWrite_releases : ∃ t, exec (.nvmWriteDone false false) strayKeyWrite = .next t ∧ pathHolds t 1 = false :=
  ⟨_, rfl, by decide +kernel⟩

/-- Refutes O52: a key record that could not be written frees its slot, and the slot is not bounded by 4. -/
theorem not_onlyReleaseAndResetsReleaseAPath : ¬ Obligations.OnlyReleaseAndResetsReleaseAPath := by
  unfold Obligations.OnlyReleaseAndResetsReleaseAPath
  intro h
  obtain ⟨t, ht, hp⟩ := strayKeyWrite_releases
  have hk := h (.nvmWriteDone false false) strayKeyWrite t settled_strayKeyWrite rfl (by decide) ht rfl 1 (by decide) (by decide)
    (by decide)
  exact Bool.false_ne_true (hp.symm.trans hk)

end Sys2Proof.Stray
end

section
/-! PROOFS. The machine as a whole: how a step runs, what every command answers, the state at power-on, and what one period
of TCLK leaves unchanged. -/

namespace Sys2Proof.Whole

open Machine

/-! ### Steps and answers (O1, O7, O8) -/

/-- Settles O1: the queue is the only thing a step takes apart. -/
theorem stepRunsTheFrontCommand : Obligations.StepRunsTheFrontCommand := fun _ _ => rfl

/-- Every command answers a next state, with the queue as it was: each meaning is `done` of some effect. -/
theorem exec_next (c : Instr) (s : State) : ∃ u : State, exec c s = .next { u with pending := s.pending } := by
  cases c <;> exact ⟨_, rfl⟩

/-- Settles O7: a command answers a next state. -/
theorem noCommandIsRefused : Obligations.NoCommandIsRefused := by
  unfold Obligations.NoCommandIsRefused
  intro c s r h
  obtain ⟨u, hu⟩ := exec_next c s
  rw [hu] at h
  cases h

/-- Settles O8: a command answers a next state, whose queue is put back. -/
theorem commandsAnswerAndLeaveTheQueue : Obligations.CommandsAnswerAndLeaveTheQueue := by
  unfold Obligations.CommandsAnswerAndLeaveTheQueue
  intro c s
  obtain ⟨u, hu⟩ := exec_next c s
  refine ⟨fun f h => ?_, fun t h => ?_⟩
  · rw [hu] at h
    cases h
  · rw [hu] at h
    cases h
    rfl

/-! ### The state at power-on (O3, O4) -/

theorem nvm_reset_above {a : Nat} (h : 256 ≤ a) : tblGet 0#8 State.reset.nvm a = 0#8 := by
  have hne : ∀ n, n < 256 → a ≠ n := fun n hn => by omega
  simp [State.reset, tblGet, hne]

/-- Settles O3: the register file lists nothing, and the store lists the identity page. -/
theorem resetStateIsUnpowered : Obligations.ResetStateIsUnpowered :=
  ⟨by decide, fun _ => rfl, rfl, rfl, fun _ h => nvm_reset_above h, by decide +kernel, by decide +kernel,
    by decide +kernel⟩

/-- Settles O4: nothing is listed, runs or waits. -/
theorem resetStateIsCanonical : Obligations.ResetStateIsCanonical := by
  refine ⟨by decide, State.settled_of_none rfl rfl rfl (by decide) (by decide) rfl, fun _ => Nat.zero_lt_succ 3, fun _ _ => ?_⟩
  exact ⟨Nat.zero_lt_succ 3, List.nodup_nil, fun _ h => absurd h List.not_mem_nil⟩

/-! ### One period of TCLK (O2) -/

/-- What the passing of time moves, besides housekeeping time. -/
def timeParts : List Part := [.time, .clk, .regs 0x0F, .regs 0x10]

/-- From `s` to `t` only the time unit, the clock synthesizer and their registers have moved, and nothing has left the block. -/
structure Runs (s t : State) : Prop where
  frame : Frame timeParts s t
  out : t.out = s.out
  pending : t.pending = s.pending

theorem Runs.refl (s : State) : Runs s s := ⟨Frame.refl _ s, rfl, rfl⟩

theorem Runs.trans {s t u : State} (h : Runs s t) (k : Runs t u) : Runs s u :=
  ⟨h.frame.trans k.frame, k.out.trans h.out, k.pending.trans h.pending⟩

theorem blockOf_time {o : Nat} (h : 0x390000 ≤ o) (k : o < 0x3A0000) : blockOf o = 0x0F := by
  unfold blockOf
  iterate 16 rw [if_neg (by omega)]
  rw [if_pos k]

theorem blockOf_clk {o : Nat} (h : 0x3A0000 ≤ o) (k : o < 0x3B0000) : blockOf o = 0x10 := by
  unfold blockOf
  iterate 17 rw [if_neg (by omega)]
  rw [if_pos k]

/-- A register of the time unit or of the clock synthesizer is written. -/
theorem runs_setReg (s : State) {o : Nat} (v : DWord) (h : 0x390000 ≤ o) (k : o < 0x3B0000) : Runs s (setReg s o v) := by
  refine ⟨(frame_setReg s o v fun e => absurd (e ▸ h) (by decide)).mono ?_, rfl, rfl⟩
  rcases Nat.lt_or_ge o 0x3A0000 with hk | hk
  · rw [blockOf_time h hk]
    decide
  · rw [blockOf_clk hk k]
    decide

theorem runs_setFld (s : State) {f : Fld} (v : Nat) (h : 0x390000 ≤ f.off) (k : f.off < 0x3B0000) : Runs s (setFld s f v) :=
  runs_setReg s _ h k

theorem runs_time (s : State) (x : TimeState) : Runs s { s with time := x } :=
  ⟨fun p hp => by cases p <;> first | exact fun _ _ _ => rfl | rfl | exact absurd (by decide) hp | simp [Part.same], rfl, rfl⟩

theorem runs_clk (s : State) (x : ClkState) : Runs s { s with clk := x } :=
  ⟨fun p hp => by cases p <;> first | exact fun _ _ _ => rfl | rfl | exact absurd (by decide) hp | simp [Part.same], rfl, rfl⟩

theorem runs_pboRun (dt : Nat) (s : State) : Runs s (pboRun dt s) := by
  unfold pboRun
  extract_lets d acc dec e u
  split
  · exact Runs.refl s
  · exact (runs_clk s _).trans (runs_setFld _ _ (by decide) (by decide))

/-- The count of one of the four bases. -/
theorem runs_setFull (s : State) {b : Nat} (v : Int) (hb : b < 4) : Runs s (setFull s b v) := by
  have hreg : ∀ (t : State) (o : Nat) (w : DWord), o = 0x390200 + 0x40 * b ∨ o = 0x390208 + 0x40 * b → Runs t (setReg t o w) :=
    fun t o w ho => runs_setReg t w (by omega) (by omega)
  exact (runs_time s _).trans ((hreg _ _ _ (.inl rfl)).trans (hreg _ _ _ (.inr rfl)))

theorem runs_fixSteer (s : State) : Runs s (fixSteer s) := by
  unfold fixSteer
  split
  · exact runs_setFld s _ (by decide) (by decide)
  · exact Runs.refl s

theorem runs_fixTb3 (s : State) : Runs s (fixTb3 s) := by
  unfold fixTb3
  refine Runs.trans ?_ (runs_fixSteer _)
  split
  · exact (runs_setFull s _ (by decide)).trans ((runs_setFld _ _ (by decide) (by decide)).trans
      (runs_setFld _ _ (by decide) (by decide)))
  · exact Runs.refl s

theorem runs_setHandD (s : State) (d : Int) : Runs s (setHandD s d) :=
  (runs_setReg s _ (by decide) (by decide)).trans (runs_setFld _ _ (by decide) (by decide))

/-- Housekeeping time moves on. -/
def later (dt : Nat) (s : State) : State := { s with ns := s.ns + dt }

theorem frame_later (dt : Nat) (s : State) : Frame [.clock] s (later dt s) := fun p hp => by
  cases p <;> first | exact fun _ _ _ => rfl | rfl | exact absurd (by decide) hp | simp [Part.same, later]

/-- Base `b` runs for `dt` ns at its rate. -/
def runBase (dt b : Nat) (s : State) : State := setFull s b (fullOf s b + (dt : Int) * (2 ^ 40 + rateOf s b))

/-- The bases once housekeeping time has moved: TB3 where it has a count of its own, and a handover's offset. -/
def runBases (dt : Nat) (s : State) : State :=
  let s := runBase dt 2 (runBase dt 1 (runBase dt 0 s))
  let s := if tb3Copies s then s else runBase dt 3 s
  let d := handD s
  if d = 0 then fixTb3 s else
  let acc := s.time.dFrac + dt * (handRate s).natAbs
  let dec : Nat := acc / 2 ^ 24
  let d := if d < 0 then min 0 (d + (dec : Int)) else max 0 (d - (dec : Int))
  fixTb3 (setHandD { s with time := { s.time with dFrac := acc % 2 ^ 24 } } d)

theorem timeRun_eq (dt : Nat) (s : State) : timeRun dt s = runBases dt (later dt (pboRun dt s)) := rfl

theorem runs_runBases (dt : Nat) (s : State) : Runs s (runBases dt s) := by
  have hrun : ∀ (b : Nat) (t : State), b < 4 → Runs t (runBase dt b t) := fun _ t hb => runs_setFull t _ hb
  have h3 : ∀ t : State, Runs t (if tb3Copies t then t else runBase dt 3 t) := fun t => by
    split
    · exact Runs.refl t
    · exact hrun 3 t (by decide)
  refine ((hrun 0 s (by decide)).trans ((hrun 1 _ (by decide)).trans (hrun 2 _ (by decide)))).trans ((h3 _).trans ?_)
  unfold runBases
  extract_lets u v d acc dec e
  change Runs v (ite _ _ _)
  split
  · exact runs_fixTb3 v
  · exact (runs_time v _).trans ((runs_setHandD _ e).trans (runs_fixTb3 _))

/-- An idle step moves housekeeping time on by 2 ns; while there is supply the bases run. -/
theorem idle_eq (s : State) :
    idle s = later 2 (fresh s) ∨ idle s = runBases 2 (later 2 (pboRun 2 (fresh s))) := by
  rw [← timeRun_eq]
  unfold idle
  extract_lets u
  split
  · exact .inl rfl
  · exact .inr rfl

/-- Settles O2: with an empty queue a step is `idle`. -/
theorem emptyQueueLetsTimePass : Obligations.EmptyQueueLetsTimePass := by
  unfold Obligations.EmptyQueueLetsTimePass
  intro s hq
  have hstep : step s = .next (idle s) := by simp only [step, hq]
  have hfresh : Frame [.clock] s (later 2 (fresh s)) := ((frame_fresh s).mono (by simp)).trans (frame_later 2 _)
  refine ⟨idle s, hstep, ?_⟩
  rcases idle_eq s with h | h <;> rw [h]
  · exact ⟨rfl, rfl, hq, hfresh.mono (by simp)⟩
  · have h1 := runs_pboRun 2 (fresh s)
    have h2 := runs_runBases 2 (later 2 (pboRun 2 (fresh s)))
    have hns : (pboRun 2 (fresh s)).ns = s.ns := h1.frame .clock (by decide)
    have hns' : (runBases 2 (later 2 (pboRun 2 (fresh s)))).ns = (pboRun 2 (fresh s)).ns + 2 := h2.frame .clock (by decide)
    have hall : ∀ {ps : List Part}, ps ⊆ [.clock, .time, .clk, .regs 0x0F, .regs 0x10] → ∀ {t u : State}, Frame ps t u →
        Frame [.clock, .time, .clk, .regs 0x0F, .regs 0x10] t u := fun hp _ _ hf => hf.mono hp
    refine ⟨by rw [hns', hns], h2.out.trans h1.out, h2.pending.trans (h1.pending.trans hq), ?_⟩
    exact (hall (by simp) (frame_fresh s)).trans ((hall (by simp [timeParts]) h1.frame).trans
      ((hall (by simp) (frame_later 2 _)).trans (hall (by simp [timeParts]) h2.frame)))

end Sys2Proof.Whole
end

section
/-! PROOFS. Effects that write registers alone: what they leave settled, and the CLR bits (O14). -/

namespace Sys2Proof.Clears

open Machine HostPort

/-! ### Effects on the register file alone -/

/-- From `s` to `t` only the registers of `w` have changed. -/
structure Writes (w : Nat → Prop) (s t : State) : Prop where
  same : ∃ rs, t = { s with regs := rs }
  regs : ∀ o, ¬ w o → reg t o = reg s o

section Writes

variable {w : Nat → Prop}

theorem Writes.refl (s : State) : Writes w s s := ⟨⟨s.regs, rfl⟩, fun _ _ => rfl⟩

theorem Writes.trans {s t u : State} (h : Writes w s t) (k : Writes w t u) : Writes w s u := by
  obtain ⟨rs, rfl⟩ := h.same
  obtain ⟨rs', rfl⟩ := k.same
  exact ⟨⟨rs', rfl⟩, fun o ho => (k.regs o ho).trans (h.regs o ho)⟩

theorem writes_setReg (s : State) {o : Nat} (v : DWord) (h : w o) : Writes w s (setReg s o v) :=
  ⟨⟨_, rfl⟩, fun _ hk => reg_setReg_ne s v fun e => hk (e ▸ h)⟩

theorem writes_setFld (s : State) {f : Fld} (v : Nat) (h : w f.off) : Writes w s (setFld s f v) := writes_setReg s _ h

theorem Writes.forAll {ns : List Nat} {g : Nat → State → State} (hg : ∀ n ∈ ns, ∀ t, Writes w t (g n t)) (s : State) :
    Writes w s (forAll ns g s) :=
  forAll_keeps (Writes w s) ns g (fun n hn t ht => ht.trans (hg n hn t)) s (Writes.refl s)

end Writes

/-- What one application among a list of them brings about, and the others keep, holds after all of them. -/
theorem forAll_reaches (P : State → Prop) {ns : List Nat} {g : Nat → State → State} {i : Nat} (hi : i ∈ ns)
    (hset : ∀ t, P (g i t)) (hkeep : ∀ n ∈ ns, ∀ t, P t → P (g n t)) (s : State) : P (forAll ns g s) := by
  induction ns generalizing s with
  | nil => exact absurd hi List.not_mem_nil
  | cons m ns ih =>
    rw [forAll_cons]
    rcases List.mem_cons.1 hi with rfl | h
    · exact forAll_keeps P ns g (fun n hn t ht => hkeep n (List.mem_cons_of_mem _ hn) t ht) _ (hset s)
    · exact ih h (fun n hn => hkeep n (List.mem_cons_of_mem _ hn)) _

/-- The registers that settling reads. -/
def settleReg (o : Nat) : Prop :=
  o = Reg.GEN_STATE ∨ o = Reg.RAIL_STAT ∨ o = Reg.WLN_CTRL ∨ ∃ g, g < 24 ∧ (o = Reg.WLN_GCFG g ∨ o = Reg.WLN_GSTAT g)

theorem settleReg_group {g : Nat} (h : g < 24) : settleReg (Reg.WLN_GCFG g) ∧ settleReg (Reg.WLN_GSTAT g) :=
  ⟨.inr (.inr (.inr ⟨g, h, .inl rfl⟩)), .inr (.inr (.inr ⟨g, h, .inr rfl⟩))⟩

theorem not_settleReg {o : Nat} (hg : o ≠ 0x18) (hr : o ≠ Reg.RAIL_STAT) (hw : o < 0x340000 ∨ 0x341000 ≤ o) : ¬ settleReg o := by
  rintro (h | h | h | ⟨g, hlt, h | h⟩)
  · exact hg h
  · exact hr h
  · have e : o = 0x340010 := h
    omega
  · have e : o = 0x340100 + 0x40 * g := h
    omega
  · have e : o = 0x340104 + 0x40 * g := h
    omega

theorem groupsReady_of_writes {s t : State} (h : ∀ o, settleReg o → reg t o = reg s o) : groupsReady t = groupsReady s := by
  have hc : fld t Reg.WLN_CTRL_ALLOW_DEGRADED = fld s Reg.WLN_CTRL_ALLOW_DEGRADED := fld_congr_reg (h _ (.inr (.inr (.inl rfl))))
  rw [Bool.eq_iff_iff]
  simp only [groupsReady, flag, hc, Bool.or_eq_true, List.all_eq_true, groups, List.mem_range]
  refine or_congr_right (forall_congr' fun g => imp_congr_right fun hg => ?_)
  obtain ⟨hcfg, hstat⟩ := settleReg_group hg
  rw [fld_congr_reg (f := Reg.WLN_GCFG_GEN g) (h _ hcfg), fld_congr_reg (f := Reg.WLN_GSTAT_STATE g) (h _ hstat)]

/-- Writes that leave what settling reads alone leave nothing to settle. -/
theorem settled_of_writes {w : Nat → Prop} {s t : State} (h : Writes w s t) (hw : ∀ o, settleReg o → ¬ w o) (hs : s.settled) :
    t.settled := by
  obtain ⟨rs, rfl⟩ := h.same
  have hr : ∀ o, settleReg o → reg { s with regs := rs } o = reg s o := fun o ho => h.regs o (hw o ho)
  have hlamp : lamp { s with regs := rs } = lamp s := lamp_congr (fld_congr_reg (hr _ (.inl rfl)))
  have htest : fld { s with regs := rs } Reg.GEN_STATE_TEST = fld s Reg.GEN_STATE_TEST := fld_congr_reg (hr _ (.inl rfl))
  have huse : fld { s with regs := rs } Reg.RAIL_STAT_USE = fld s Reg.RAIL_STAT_USE := fld_congr_reg (hr _ (.inr (.inl rfl)))
  have hpg : fld { s with regs := rs } Reg.RAIL_STAT_PGOOD = fld s Reg.RAIL_STAT_PGOOD := fld_congr_reg (hr _ (.inr (.inl rfl)))
  have hlight : lightDue { s with regs := rs } = lightDue s := by
    simp only [lightDue, railsGood, flag, groupsReady_of_writes hr, hlamp, htest, huse, hpg]
  refine ⟨fun a ha hb => ?_, ?_, hs.halted, hs.lens, hlight.trans hs.light, hs.vrm⟩
  · rw [hlamp]
    exact hs.act a ha hb
  · rw [hlamp]
    exact hs.orderly

/-- A register write whose effect writes registers alone, none that settling reads, completes with that effect. -/
theorem completes_writes {c : Instr} {f : State → State} {s : State} {P : State → Prop} {w : Nat → Prop}
    (hx : exec c s = doneWrite f s) (hs : s.settled) (hw : Writes w (freshWrite s) (f (freshWrite s)))
    (hd : ∀ o, settleReg o → ¬ w o) (hP : ∀ t, (∀ o, reg t o = reg (f (freshWrite s)) o) → P t) : Completes c s P :=
  completes_doneWrite hx (settled_of_writes hw hd (settled_freshWrite hs)) fun t ht => hP t fun o => ht.regs o id

/-! ### The CLR bits (O14) -/

/-- The counts that CLR bits clear stand away from what settling reads: in other blocks, or behind the groups' settings and
states. -/
def clrReg (o : Nat) : Prop := o ≠ 0x18 ∧ (o < 0x340000 ∨ 0x341000 ≤ o ∧ o ≠ Reg.RAIL_STAT ∨ ∃ g, g < 24 ∧ o = Reg.WLN_GCNT g)

theorem not_clrReg {o : Nat} (h : settleReg o) : ¬ clrReg o := by
  have he : o = 0x18 ∨ o = Reg.RAIL_STAT ∨ o = 0x340010 ∨ ∃ g, g < 24 ∧ (o = 0x340100 + 0x40 * g ∨ o = 0x340104 + 0x40 * g) := h
  have hrail : Reg.RAIL_STAT = 0x3B0014 := rfl
  rintro ⟨h0, h1 | ⟨h1, h2⟩ | ⟨g, hg, h1⟩⟩
  · rcases he with h | h | h | ⟨g, hg, h | h⟩ <;> omega
  · rcases he with h | h | h | ⟨g, hg, h | h⟩ <;> omega
  · have e : o = 0x340128 + 0x40 * g := h1
    rcases he with h | h | h | ⟨g', hg', h | h⟩ <;> omega

theorem clrReg_low {o : Nat} (h : o < 0x340000) (h0 : o ≠ 0x18) : clrReg o := ⟨h0, .inl h⟩

theorem clrReg_high {o : Nat} (h : 0x341000 ≤ o) (h0 : o ≠ Reg.RAIL_STAT) : clrReg o := ⟨by omega, .inr (.inl ⟨h, h0⟩)⟩

/-- Clearing counts zeroes them. -/
theorem completes_clear {c : Instr} {f : State → State} {s : State} {P : State → Prop} (hx : exec c s = doneWrite f s)
    (hs : s.settled) (hw : ∀ u, Writes clrReg u (f u)) (hP : ∀ u t, (∀ o, reg t o = reg (f u) o) → P t) : Completes c s P :=
  completes_writes hx hs (hw _) (fun _ => not_clrReg) fun _ ht => hP _ _ ht

theorem fld_zero_setFld (s : State) {f : Fld} (h : f.ok) : fld (setFld s f 0) f = 0 := by
  rw [fld_setFld_same s f 0 h, Nat.zero_mod]

/-- What a clear has set to 0 stays 0 in later writes of 0 elsewhere. -/
theorem fld_zero_setReg {s : State} {f : Fld} {o : Nat} (v : DWord) (h : fld s f = 0) (ho : f.off ≠ o) : fld (setReg s o v) f = 0 := by
  rw [fld_setReg_ne s o v ho, h]

theorem fld_zero_setFld_ne {s : State} {f g : Fld} (v : Nat) (h : fld s f = 0) (ho : f.off ≠ g.off) : fld (setFld s g v) f = 0 :=
  fld_zero_setReg _ h ho

theorem reg_zero_setReg {s : State} {k o : Nat} (v : DWord) (h : reg s k = 0) (ho : k ≠ o) : reg (setReg s o v) k = 0 := by
  rw [reg_setReg_ne s v ho, h]

theorem reg_zero_setFld {s : State} {k : Nat} {g : Fld} (v : Nat) (h : reg s k = 0) (ho : k ≠ g.off) : reg (setFld s g v) k = 0 :=
  reg_zero_setReg _ h ho

theorem writes_lowReg (u : State) {o : Nat} (v : DWord) (h : o < 0x340000) (h0 : o ≠ 0x18) : Writes clrReg u (setReg u o v) :=
  writes_setReg u v (clrReg_low h h0)

theorem writes_lowFld (u : State) {f : Fld} (v : Nat) (h : f.off < 0x340000) (h0 : f.off ≠ 0x18) : Writes clrReg u (setFld u f v) :=
  writes_lowReg u _ h h0

/-- A register cleared for every index reads 0 for each. -/
theorem reg_forAll_zero (off : Nat → Nat) {ns : List Nat} {i : Nat} (hi : i ∈ ns) (s : State) :
    reg (forAll ns (fun n s => setReg s (off n) 0) s) (off i) = 0 := by
  refine forAll_reaches (fun t => reg t (off i) = 0) hi (fun t => reg_setReg_same _ _ _) (fun n _ t ht => ?_) s
  rw [reg_setReg]
  split
  · rfl
  · exact ht

/-- A field cleared for every index reads 0 for each. -/
theorem fld_forAll_zero (off : Nat → Nat) {hi lo : Nat} (h : lo ≤ hi ∧ hi < 64) {ns : List Nat} {i : Nat} (hm : i ∈ ns) (s : State) :
    fld (forAll ns (fun n s => setFld s ⟨off n, hi, lo⟩ 0) s) ⟨off i, hi, lo⟩ = 0 := by
  refine forAll_reaches (fun t => fld t ⟨off i, hi, lo⟩ = 0) hm (fun t => fld_zero_setFld t (show Fld.ok ⟨off i, hi, lo⟩ from h))
    (fun n _ t ht => ?_) s
  by_cases e : off i = off n
  · rw [e]
    exact fld_zero_setFld t h
  · exact fld_zero_setFld_ne 0 ht e

/-- Registers of a family below the wicks' are written. -/
theorem writes_forAll_low {g : Nat → State → State} (ns : List Nat) (off : Nat → Nat)
    (hg : ∀ n t, ∃ v, g n t = setReg t (off n) v) (ho : ∀ n ∈ ns, 0x18 < off n ∧ off n < 0x340000) (u : State) :
    Writes clrReg u (forAll ns g u) :=
  Writes.forAll (fun n hn t => by
    obtain ⟨v, hv⟩ := hg n t
    obtain ⟨h0, h1⟩ := ho n hn
    rw [hv]
    exact writes_lowReg t v h1 (by omega)) u

theorem peakClr_writes (u : State) : Writes clrReg u (peakClr u) := by
  refine (writes_forAll_low _ (fun i => 0x20210 + 4 * i) (fun _ _ => ⟨_, rfl⟩) (fun n hn => ?_) u).trans
    (writes_lowFld _ _ (by decide) (by decide))
  simp only [List.mem_cons, List.not_mem_nil, or_false] at hn
  omega

theorem peakClr_zero (u : State) : (∀ i, 1 ≤ i → i ≤ 3 → fld (peakClr u) (Reg.STR_BUDGET_LOAD_PEAK i) = 0) ∧
    fld (peakClr u) Reg.STR_BUDGET_SMEAS_S_PEAK = 0 := by
  refine ⟨fun i h1 h3 => fld_zero_setFld_ne 0 (fld_forAll_zero Reg.STR_BUDGET_LOAD (by decide) ?_ u) fun e => ?_,
    fld_zero_setFld _ ⟨by decide, by decide⟩⟩
  · simp only [List.mem_cons, List.not_mem_nil, or_false]
    omega
  · have he : 0x20210 + 4 * i = 0x20208 := e
    omega

theorem ldecClr_writes (u : State) : Writes clrReg u (ldecClr u) :=
  (writes_lowFld u _ (by decide) (by decide)).trans (writes_lowReg _ _ (by decide) (by decide))

theorem ldecClr_zero (u : State) : fld (ldecClr u) Reg.LDEC_TIME_PEAK = 0 ∧ reg (ldecClr u) Reg.LDEC_CNT = 0 :=
  ⟨fld_zero_setReg 0 (fld_zero_setFld u ⟨by decide, by decide⟩) (by decide), reg_setReg_same _ _ _⟩

theorem rmapClr_writes (u : State) : Writes clrReg u (rmapClr u) :=
  (writes_lowReg u _ (by decide) (by decide)).trans (writes_lowFld _ _ (by decide) (by decide))

theorem rmapClr_zero (u : State) : reg (rmapClr u) Reg.RMAP_SUBST = 0 ∧ fld (rmapClr u) Reg.RMAP_AGING_STAT_UPDATES = 0 :=
  ⟨reg_zero_setFld 0 (reg_setReg_same _ _ _) (by decide), fld_zero_setFld _ ⟨by decide, by decide⟩⟩

theorem lantClr_writes {l : Nat} (h : l < 50) (u : State) : Writes clrReg u (lantClr l u) := by
  have hw : ∀ (t : State) (o : Nat) (v : DWord), (∃ k, k < 0x40 ∧ o = 0x200000 + k + 0x1000 * l) → Writes clrReg t (setReg t o v) :=
    fun t o v ⟨k, hk, ho⟩ => writes_lowReg t v (by omega) (by omega)
  exact ((((hw u _ _ ⟨0x18, by decide, rfl⟩).trans (hw _ _ _ ⟨0x20, by decide, rfl⟩)).trans (hw _ _ _ ⟨0x28, by decide, rfl⟩)).trans
    (hw _ _ _ ⟨0x30, by decide, rfl⟩)).trans (hw _ _ _ ⟨0x34, by decide, rfl⟩)

theorem lantClr_zero (l : Nat) (u : State) : reg (lantClr l u) (Reg.LANT_RAYS l) = 0 ∧ reg (lantClr l u) (Reg.LANT_SAMPLES l) = 0 ∧
    reg (lantClr l u) (Reg.LANT_FILLS l) = 0 ∧ reg (lantClr l u) (Reg.LANT_POISON l) = 0 ∧
    fld (lantClr l u) (Reg.LANT_ROWTIME_PEAK l) = 0 := by
  have hne : ∀ {a b : Nat}, a ≠ b → 0x200000 + a + 0x1000 * l ≠ 0x200000 + b + 0x1000 * l := fun h e => h (by omega)
  refine ⟨?_, ?_, ?_, ?_, fld_zero_setFld _ ⟨(by decide : 16 ≤ 31), (by decide : 31 < 64)⟩⟩
  · exact reg_zero_setFld 0 (reg_zero_setReg 0 (reg_zero_setReg 0 (reg_zero_setReg 0 (reg_setReg_same _ _ _) (hne (by decide : 0x18 ≠ 0x20)))
      (hne (by decide : 0x18 ≠ 0x28))) (hne (by decide : 0x18 ≠ 0x30))) (hne (by decide : 0x18 ≠ 0x34))
  · exact reg_zero_setFld 0 (reg_zero_setReg 0 (reg_zero_setReg 0 (reg_setReg_same _ _ _) (hne (by decide : 0x20 ≠ 0x28)))
      (hne (by decide : 0x20 ≠ 0x30))) (hne (by decide : 0x20 ≠ 0x34))
  · exact reg_zero_setFld 0 (reg_zero_setReg 0 (reg_setReg_same _ _ _) (hne (by decide : 0x28 ≠ 0x30))) (hne (by decide : 0x28 ≠ 0x34))
  · exact reg_zero_setFld 0 (reg_setReg_same _ _ _) (hne (by decide : 0x30 ≠ 0x34))

theorem mem_wicks {n : Nat} (h : n < 192) : n ∈ wicks := List.mem_range.2 h

theorem scanClr_writes (u : State) : Writes clrReg u (scanClr u) := by
  refine (((writes_lowReg u _ (by decide) (by decide)).trans (writes_lowReg _ _ (by decide) (by decide))).trans
    (writes_lowReg _ _ (by decide) (by decide))).trans
    (writes_forAll_low wicks (fun n => 0x310010 + 0x400 * n) (fun _ _ => ⟨_, rfl⟩) (fun n hn => ?_) _)
  have hlt : n < 192 := List.mem_range.1 hn
  omega

theorem reg_scanClr (u : State) {o : Nat} (h : o < 0x310000) :
    reg (scanClr u) o = reg (setReg (setReg (setReg u Reg.SCAN_ABORT_STAT 0) Reg.SCAN_OV_STAT 0) Reg.SCAN_LEASE_VIOL 0) o :=
  forAll_keeps (fun t => reg t o = _) _ _ (fun n _ t ht => (reg_setReg_ne t _ (by
    intro e
    have he : o = 0x310010 + 0x400 * n := e
    omega)).trans ht) _ rfl

theorem scanClr_zero (u : State) : reg (scanClr u) Reg.SCAN_ABORT_STAT = 0 ∧ reg (scanClr u) Reg.SCAN_OV_STAT = 0 ∧
    reg (scanClr u) Reg.SCAN_LEASE_VIOL = 0 ∧ ∀ n, n < 192 → reg (scanClr u) (Reg.SCAN_W_ABORTS n) = 0 := by
  refine ⟨?_, ?_, ?_, fun n hn => reg_forAll_zero Reg.SCAN_W_ABORTS (mem_wicks hn) _⟩
  · rw [reg_scanClr u (by decide)]
    exact reg_zero_setReg 0 (reg_zero_setReg 0 (reg_setReg_same _ _ _) (by decide)) (by decide)
  · rw [reg_scanClr u (by decide)]
    exact reg_zero_setReg 0 (reg_setReg_same _ _ _) (by decide)
  · rw [reg_scanClr u (by decide)]
    exact reg_setReg_same _ _ _

theorem wlnClr_writes (u : State) : Writes clrReg u (wlnClr u) := by
  have hg : ∀ t : State, Writes clrReg t (forAll groups (fun g s => setReg s (Reg.WLN_GCNT g) 0) t) := fun t =>
    Writes.forAll (fun g hg t => writes_setReg t _ ⟨by show 0x340128 + 0x40 * g ≠ 0x18; omega, .inr (.inr ⟨g, List.mem_range.1 hg, rfl⟩)⟩) t
  refine (hg u).trans (Writes.forAll (fun n hn t => ?_) _)
  have hlt : n < 192 := List.mem_range.1 hn
  have hrail : Reg.RAIL_STAT = 0x3B0014 := rfl
  have hw : ∀ (t : State) (o : Nat) (v : DWord), o = 0x341004 + 0x10 * n ∨ o = 0x341008 + 0x10 * n → Writes clrReg t (setReg t o v) :=
    fun t o v ho => writes_setReg t v (clrReg_high (by omega) (by omega))
  exact (hw t _ _ (.inl rfl)).trans (hw _ _ _ (.inr rfl))

theorem wlnClr_zero (u : State) : (∀ g, g < 24 → reg (wlnClr u) (Reg.WLN_GCNT g) = 0) ∧
    ∀ n, n < 192 → reg (wlnClr u) (Reg.WLN_W_RELOCK n) = 0 ∧ reg (wlnClr u) (Reg.WLN_W_CRCERR n) = 0 := by
  have hapart : ∀ n m, Reg.WLN_W_RELOCK n ≠ Reg.WLN_W_CRCERR m := fun n m e => by
    have he : 0x341004 + 0x10 * n = 0x341008 + 0x10 * m := e
    omega
  have hclear : ∀ {n : Nat}, n ∈ wicks → ∀ (k : Nat) (t : State), reg t k = 0 →
      reg (setReg (setReg t (Reg.WLN_W_RELOCK n) 0) (Reg.WLN_W_CRCERR n) 0) k = 0 := fun _ k t ht => by
    rw [reg_setReg, reg_setReg]
    split
    · rfl
    · split
      · rfl
      · exact ht
  refine ⟨fun g hg => ?_, fun n hn => ⟨?_, ?_⟩⟩
  · exact forAll_keeps (fun t => reg t (Reg.WLN_GCNT g) = 0) _ _ (fun n hn t ht => hclear hn _ t ht) _
      (reg_forAll_zero Reg.WLN_GCNT (List.mem_range.2 hg) u)
  · exact forAll_reaches (fun t => reg t (Reg.WLN_W_RELOCK n) = 0) (mem_wicks hn)
      (fun t => reg_zero_setReg 0 (reg_setReg_same _ _ _) (hapart n n)) (fun m hm t ht => hclear hm _ t ht) _
  · exact forAll_reaches (fun t => reg t (Reg.WLN_W_CRCERR n) = 0) (mem_wicks hn) (fun t => reg_setReg_same _ _ _)
      (fun m hm t ht => hclear hm _ t ht) _

theorem mfbClr_writes (u : State) : Writes clrReg u (mfbClr u) := by
  refine ((((writes_forAll_low (List.range 7) (fun i => 0x40040 + 4 * i) (fun _ _ => ⟨_, rfl⟩) (fun n hn => ?_) u).trans
    (writes_lowFld _ _ (by decide) (by decide))).trans (writes_lowReg _ _ (by decide) (by decide))).trans
    (writes_lowReg _ _ (by decide) (by decide)))
  have hlt : n < 7 := List.mem_range.1 hn
  omega

theorem mfbClr_zero (u : State) : (∀ i, i < 7 → fld (mfbClr u) (Reg.MFB_TAGS_PEAK i) = 0) ∧ fld (mfbClr u) Reg.MFB_STARVE_COUNT = 0 ∧
    reg (mfbClr u) Reg.MFB_PROMOTED = 0 ∧ reg (mfbClr u) Reg.MFB_REJECT = 0 := by
  refine ⟨fun i hi => ?_, ?_, ?_, reg_setReg_same _ _ _⟩
  · have hne : ∀ {k : Nat}, 0x40060 ≤ k → (Reg.MFB_TAGS_PEAK i).off ≠ k := fun h e => by
      have he : 0x40040 + 4 * i = _ := e
      omega
    exact fld_zero_setReg 0 (fld_zero_setReg 0 (fld_zero_setFld_ne 0
      (fld_forAll_zero Reg.MFB_TAGS (by decide) (List.mem_range.2 hi) u) (hne (by decide))) (hne (by decide))) (hne (by decide))
  · exact fld_zero_setReg 0 (fld_zero_setReg 0 (fld_zero_setFld _ ⟨by decide, by decide⟩) (by decide)) (by decide)
  · exact reg_zero_setReg 0 (reg_setReg_same _ _ _) (by decide)

theorem dmcClr_writes {c : Nat} (h : c < 8) (u : State) : Writes clrReg u (dmcClr c u) := by
  have hw : ∀ (t : State) (o : Nat) (v : DWord), (∃ k, k < 0x100 ∧ o = 0x80000 + k + 0x10000 * c) → Writes clrReg t (setReg t o v) :=
    fun t o v ⟨k, hk, ho⟩ => writes_lowReg t v (by omega) (by omega)
  refine (((writes_forAll_low (List.range 4) (fun p => 0x80030 + 0x10000 * c + 4 * p) (fun _ _ => ⟨_, rfl⟩) (fun n hn => ?_) u).trans
    (hw _ _ _ ⟨0x58, by decide, rfl⟩)).trans (hw _ _ _ ⟨0x68, by decide, rfl⟩)).trans (hw _ _ _ ⟨0x78, by decide, rfl⟩)
  have hlt : n < 4 := List.mem_range.1 hn
  omega

theorem dmcClr_zero (c : Nat) (u : State) : (∀ p, p < 4 → fld (dmcClr c u) (Reg.DMC_ECC_CE_COUNT c p) = 0) ∧
    reg (dmcClr c u) (Reg.DMC_UE_CNT c) = 0 ∧ fld (dmcClr c u) (Reg.DMC_REFRESH_FORCED c) = 0 ∧
    reg (dmcClr c u) (Reg.DMC_HAMMER_STAT c) = 0 := by
  have hne : ∀ {a b : Nat}, a ≠ b → 0x80000 + a + 0x10000 * c ≠ 0x80000 + b + 0x10000 * c := fun h e => h (by omega)
  refine ⟨fun p hp => ?_, ?_, ?_, reg_setReg_same _ _ _⟩
  · have hce : ∀ {k : Nat}, 0x40 ≤ k → (Reg.DMC_ECC_CE_COUNT c p).off ≠ 0x80000 + k + 0x10000 * c := fun h e => by
      have he : 0x80030 + 0x10000 * c + 4 * p = _ := e
      omega
    exact fld_zero_setReg 0 (fld_zero_setFld_ne 0 (fld_zero_setReg 0
      (fld_forAll_zero (Reg.DMC_ECC_CE c) (by decide) (List.mem_range.2 hp) u) (hce (by decide : 0x40 ≤ 0x58)))
      (hce (by decide : 0x40 ≤ 0x68))) (hce (by decide : 0x40 ≤ 0x78))
  · exact reg_zero_setReg 0 (reg_zero_setFld 0 (reg_setReg_same _ _ _) (hne (by decide : 0x58 ≠ 0x68))) (hne (by decide : 0x58 ≠ 0x78))
  · exact fld_zero_setReg 0 (fld_zero_setFld _ ⟨(by decide : 16 ≤ 31), (by decide : 31 < 64)⟩) (hne (by decide : 0x68 ≠ 0x78))

theorem hleClr_writes (u : State) : Writes clrReg u (hleClr u) :=
  ((writes_lowReg u _ (by decide) (by decide)).trans (writes_lowReg _ _ (by decide) (by decide))).trans
    (writes_lowReg _ _ (by decide) (by decide))

theorem hleClr_zero (u : State) : reg (hleClr u) Reg.HLE_CNT = 0 ∧ reg (hleClr u) Reg.HLE_BYTES_IN = 0 ∧
    reg (hleClr u) Reg.HLE_BYTES_OUT = 0 :=
  ⟨reg_zero_setReg 0 (reg_zero_setReg 0 (reg_setReg_same _ _ _) (by decide)) (by decide),
    reg_zero_setReg 0 (reg_setReg_same _ _ _) (by decide), reg_setReg_same _ _ _⟩

theorem bltClr_writes (u : State) : Writes clrReg u (bltClr u) :=
  (writes_lowReg u _ (by decide) (by decide)).trans (writes_lowReg _ _ (by decide) (by decide))

theorem bltClr_zero (u : State) : reg (bltClr u) Reg.BLT_CNT = 0 ∧ reg (bltClr u) Reg.BLT_PIXELS = 0 :=
  ⟨reg_zero_setReg 0 (reg_setReg_same _ _ _) (by decide), reg_setReg_same _ _ _⟩

theorem hostErrClr_writes (u : State) : Writes clrReg u (hostErrClr u) :=
  ((writes_lowFld u _ (by decide) (by decide)).trans (writes_lowFld _ _ (by decide) (by decide))).trans
    (writes_lowFld _ _ (by decide) (by decide))

/-- The three counts share a register. -/
theorem hostErrClr_zero (u : State) : fld (hostErrClr u) Reg.HOST_ERR_CNT_ACCESS = 0 ∧ fld (hostErrClr u) Reg.HOST_ERR_CNT_POISON = 0 ∧
    fld (hostErrClr u) Reg.HOST_ERR_CNT_APER = 0 := by
  unfold hostErrClr
  have ha := fld_zero_setFld u (f := Reg.HOST_ERR_CNT_ACCESS) ⟨by decide, by decide⟩
  have hp := fld_zero_setFld (setFld u Reg.HOST_ERR_CNT_ACCESS 0) (f := Reg.HOST_ERR_CNT_POISON) ⟨by decide, by decide⟩
  refine ⟨?_, ?_, fld_zero_setFld _ ⟨by decide, by decide⟩⟩
  · rw [fld_setFld_apart _ _ (by decide), fld_setFld_apart _ _ (by decide), ha]
  · rw [fld_setFld_apart _ _ (by decide), hp]

theorem clkClr_writes (u : State) : Writes clrReg u (clkClr u) :=
  Writes.forAll (fun p hp t => writes_setReg t _ (clrReg_high (by show _ ≤ 0x3A0110 + 0x40 * p; omega) (by
    have hlt : p < 8 := List.mem_range.1 hp
    intro e
    have he : 0x3A0110 + 0x40 * p = 0x3B0014 := e
    omega))) u

theorem nvmClr_writes (u : State) : Writes clrReg u (nvmClr u) :=
  (writes_setReg u _ (clrReg_high (by decide) (by decide))).trans (writes_setReg _ _ (clrReg_high (by decide) (by decide)))

theorem nvmClr_zero (u : State) : reg (nvmClr u) Reg.NVM_CNT = 0 ∧ fld (nvmClr u) Reg.NVM_PATROL_REWRITES = 0 :=
  ⟨reg_zero_setFld 0 (reg_setReg_same _ _ _) (by decide), fld_zero_setFld _ ⟨by decide, by decide⟩⟩

/-- Settles O14: each bit writes 0 to its counts and to nothing else. -/
theorem clearBitsZeroTheirCounts : Obligations.ClearBitsZeroTheirCounts := by
  unfold Obligations.ClearBitsZeroTheirCounts
  intro s hs
  have hf : ∀ {t u : State}, (∀ o, reg t o = reg u o) → ∀ {f : Fld}, fld u f = 0 → fld t f = 0 := fun h _ hz =>
    (fld_congr_reg (h _)).trans hz
  refine ⟨?_, ?_, ?_, fun l hl => ?_, ?_, ?_, ?_, fun c hc => ?_, ?_, ?_, ?_, ?_, ?_, ?_, ?_⟩
  · exact completes_clear (f := peakClr) rfl hs peakClr_writes fun u t h =>
      ⟨fun i h1 h3 => hf h ((peakClr_zero u).1 i h1 h3), hf h (peakClr_zero u).2⟩
  · exact completes_clear (f := ldecClr) rfl hs ldecClr_writes fun u t h => ⟨hf h (ldecClr_zero u).1, (h _).trans (ldecClr_zero u).2⟩
  · exact completes_clear (f := rmapClr) rfl hs rmapClr_writes fun u t h => ⟨(h _).trans (rmapClr_zero u).1, hf h (rmapClr_zero u).2⟩
  · refine completes_clear (f := lantClr l) ?_ hs (lantClr_writes hl) fun u t h => ?_
    · show doneWrite (fun s => if l < 50 then lantClr l s else s) s = _
      simp only [hl, if_true]
    · obtain ⟨h1, h2, h3, h4, h5⟩ := lantClr_zero l u
      exact ⟨(h _).trans h1, (h _).trans h2, (h _).trans h3, (h _).trans h4, hf h h5⟩
  · refine completes_clear (f := scanClr) rfl hs scanClr_writes fun u t h => ?_
    obtain ⟨h1, h2, h3, h4⟩ := scanClr_zero u
    exact ⟨(h _).trans h1, (h _).trans h2, (h _).trans h3, fun n hn => (h _).trans (h4 n hn)⟩
  · refine completes_clear (f := wlnClr) rfl hs wlnClr_writes fun u t h => ?_
    obtain ⟨h1, h2⟩ := wlnClr_zero u
    exact ⟨fun g hg => (h _).trans (h1 g hg), fun n hn => ⟨(h _).trans (h2 n hn).1, (h _).trans (h2 n hn).2⟩⟩
  · refine completes_clear (f := mfbClr) rfl hs mfbClr_writes fun u t h => ?_
    obtain ⟨h1, h2, h3, h4⟩ := mfbClr_zero u
    exact ⟨fun i hi => hf h (h1 i hi), hf h h2, (h _).trans h3, (h _).trans h4⟩
  · refine completes_clear (f := dmcClr c) ?_ hs (dmcClr_writes hc) fun u t h => ?_
    · show doneWrite (fun s => if c < 8 then dmcClr c s else s) s = _
      simp only [hc, if_true]
    · obtain ⟨h1, h2, h3, h4⟩ := dmcClr_zero c u
      exact ⟨fun p hp => hf h (h1 p hp), (h _).trans h2, hf h h3, (h _).trans h4⟩
  · refine completes_clear (f := hleClr) rfl hs hleClr_writes fun u t h => ?_
    obtain ⟨h1, h2, h3⟩ := hleClr_zero u
    exact ⟨(h _).trans h1, (h _).trans h2, (h _).trans h3⟩
  · exact completes_clear (f := bltClr) rfl hs bltClr_writes fun u t h => ⟨(h _).trans (bltClr_zero u).1, (h _).trans (bltClr_zero u).2⟩
  · refine completes_clear (f := hostErrClr) rfl hs hostErrClr_writes fun u t h => ?_
    obtain ⟨h1, h2, h3⟩ := hostErrClr_zero u
    exact ⟨hf h h1, hf h h2, hf h h3⟩
  · exact completes_clear (f := clkClr) rfl hs clkClr_writes fun u t h p hp => (h _).trans (reg_forAll_zero Reg.CLK_PLL_CNT (List.mem_range.2 hp) u)
  · exact completes_clear (f := fun u => setReg u Reg.CHN_CNT 0) rfl hs (fun u => writes_setReg u _ (clrReg_high (by decide) (by decide)))
      fun u t h => (h _).trans (reg_setReg_same _ _ _)
  · exact completes_clear (f := nvmClr) rfl hs nvmClr_writes fun u t h => ⟨(h _).trans (nvmClr_zero u).1, hf h (nvmClr_zero u).2⟩
  · exact completes_clear (f := fun u => setReg u Reg.TIME_TICK_STAT 0) rfl hs (fun u => writes_setReg u _ (clrReg_high (by decide) (by decide)))
      fun u t h => (h _).trans (reg_setReg_same _ _ _)

end Sys2Proof.Clears
end

section
/-! PROOFS. Snuff paths that assert (O44), and an error that escalates while a waveform runs on a common that does not
exist (O45). -/

namespace Sys2Proof.Health

open Machine HostPort

/-! ### Paths (O44) -/

/-- A path's bit lies apart from the bits of the other paths, of LOW and of COUNT. -/
theorem pathHolds_setFld_apart (s : State) {f : Fld} (v : Nat) {q : Nat} (hf : f.ok) (h : f.off ≠ Reg.MGMT_SNUFF_STAT ∨ q < f.lo ∨ f.hi < q) :
    pathHolds (setFld s f v) q = pathHolds s q := by
  rw [pathHolds_eq, pathHolds_eq, fld_setFld_ne s f ⟨Reg.MGMT_SNUFF_STAT, q, q⟩ v hf (Nat.le_refl q) (h.imp_left Ne.symm)]

/-- The path counted and noted in SNUFF_STAT, before the lamplighter moves. -/
def snuffCount (p : Nat) (s : State) : State := logSnuff (incSat (setHold s p 1) Reg.MGMT_SNUFF_STAT_COUNT 1)

theorem pathHolds_snuffCount (s : State) {p q : Nat} (hp : p ≤ 9) (hq : q ≤ 9) :
    pathHolds (snuffCount p s) q = (decide (q = p) || pathHolds s q) := by
  have hset : pathHolds (setFld s ⟨Reg.MGMT_SNUFF_STAT, p, p⟩ 1) q = (decide (q = p) || pathHolds s q) := by
    by_cases e : q = p
    · subst e
      rw [pathHolds_eq, fld_setFld_same s ⟨Reg.MGMT_SNUFF_STAT, q, q⟩ 1 ⟨Nat.le_refl q, by show q < 64; omega⟩]
      simp
    · rw [pathHolds_setFld_apart s 1 ⟨Nat.le_refl p, by show p < 64; omega⟩ (.inr (by show q < p ∨ p < q; omega))]
      simp [e]
  rw [← hset, snuffCount, pathHolds_congr (reg_congr (logSnuff_regs _) _), incSat,
    pathHolds_setFld_apart _ _ ⟨by decide, by decide⟩ (.inr (.inl (by show q < 16; omega))), setHold, fixLow,
    pathHolds_setFld_apart _ _ ⟨by decide, by decide⟩ (.inr (.inl (by show q < 12; omega)))]

theorem snuffStat_snuffMark (p : Nat) (s : State) : reg (snuffMark p s) Reg.MGMT_SNUFF_STAT = reg (snuffCount p s) Reg.MGMT_SNUFF_STAT := by
  unfold snuffMark
  extract_lets u
  split
  · exact reg_setFld_ne u _ (by decide)
  · rfl

/-- A lowest path is one of nine, or 0. -/
theorem lowPath_lt (s : State) : lowPath s < 10 := by
  unfold lowPath
  cases h : (List.range 10).find? fun p => decide (1 ≤ p) && pathHolds s p with
  | none => decide
  | some q => exact List.mem_range.1 (List.mem_of_find?_eq_some h)

/-- The lowest path depends on the nine bits alone. -/
theorem lowPath_of_paths {s t : State} (h : ∀ q, q ≤ 9 → pathHolds t q = pathHolds s q) : lowPath t = lowPath s := by
  have hl : ∀ q ∈ List.range 10, (decide (1 ≤ q) && pathHolds t q) = (decide (1 ≤ q) && pathHolds s q) := fun q hq => by
    rw [h q (by have := List.mem_range.1 hq; omega)]
  simp only [lowPath, List.find?_congr hl]

theorem low_snuffCount (p : Nat) (s : State) : fld (snuffCount p s) Reg.MGMT_SNUFF_STAT_LOW = lowPath (snuffCount p s) := by
  have hok : Reg.MGMT_SNUFF_STAT_LOW.ok := ⟨by decide, by decide⟩
  have hlow : lowPath (snuffCount p s) = lowPath (setFld s ⟨Reg.MGMT_SNUFF_STAT, p, p⟩ 1) := lowPath_of_paths fun q hq => by
    rw [snuffCount, pathHolds_congr (reg_congr (logSnuff_regs _) _), incSat,
      pathHolds_setFld_apart _ _ ⟨by decide, by decide⟩ (.inr (.inl (by show q < 16; omega))), setHold, fixLow,
      pathHolds_setFld_apart _ _ hok (.inr (.inl (by show q < 12; omega)))]
  rw [hlow, snuffCount, fld_congr (logSnuff_regs _), incSat, fld_setFld_ne _ _ _ _ ⟨by decide, by decide⟩ (by decide) (by decide),
    setHold, fixLow, fld_setFld_same _ _ _ hok]
  exact Nat.mod_eq_of_lt (Nat.lt_of_lt_of_le (lowPath_lt _) (by decide))

/-- LIGHTING and LIT become SNUFFED, and no other state moves (Table 17-4). -/
theorem lamp_assertPath {s : State} {p : Nat} (h : pathHolds s p = false) :
    lamp (assertPath p s) = if isLit s then .snuffed else lamp s := by
  obtain ⟨cs, he⟩ := assertPath_free h
  have hg : lamp (assertPath p s) = lamp (snuffMark p s) := lamp_congr (fld_congr_reg (by
    rw [he, (changes_raise evSnuff cs _ (by decide)).regs _ (not_eventReg (by decide) (by decide)), reg_snuffBlank]))
  rw [hg]
  cases hl : isLit s
  · exact lamp_congr (fld_congr_reg (genState_snuffMark p hl))
  · exact lamp_snuffMark p hl

/-- Settles O44: what the assertion of a path writes, register by register. -/
theorem pathsAssertAndHold : Obligations.PathsAssertAndHold := by
  unfold Obligations.PathsAssertAndHold
  intro s p _ h9
  refine ⟨fun h => assertPath_held h, fun h => ?_⟩
  have hstat := (snuffStat_assertPath h).trans (snuffStat_snuffMark p s)
  refine ⟨fun q _ hq => ?_, ?_, lamp_assertPath h, ?_, fun n hn hw => ?_⟩
  · rw [pathHolds_congr hstat, pathHolds_snuffCount s h9 hq]
  · rw [lowPath_congr hstat, ← low_snuffCount]
    exact fld_congr_reg hstat
  · obtain ⟨cs, he⟩ := assertPath_free h
    rw [he]
    exact ember_raise evSnuff cs _ (by decide)
  · simp only [wickSends, Bool.and_eq_true] at hw
    exact sent_assertPath h hn hw.2

end Sys2Proof.Health
end

section
/-! PROOFS. A waveform on common 16, which no lens driver has (O45). -/

namespace Sys2Proof.Stray

open Machine

/-- Four errors that wait behind a fifth. -/
def fullUnit : FuUnit := ⟨some ⟨0, 0⟩, [⟨0, 1⟩, ⟨0, 2⟩, ⟨0, 3⟩, ⟨0, 4⟩]⟩

/-- In READY_DARK a waveform runs on common 16, whose unit, like unit 0 of the host port, has four errors waiting. The units of
commons 0 to 15 have none. -/
def strayWave : State :=
  { regs := [(Reg.GEN_STATE, 3#64)]
    lens := { phase := .wave 16 0 }
    followUps := [(unitKey unitHost 0, fullUnit), (unitKey unitLens 16, fullUnit)] }

theorem lensUnits_strayWave : strayWave.lensUnits := by
  intro c hc
  have hk : unitKey unitLens c < unitKey unitLens 16 ∧ unitKey unitHost 0 < unitKey unitLens c := by
    simp only [unitKey, unitLens, unitHost]
    omega
  have hu : fuUnit strayWave unitLens c = {} := by
    simp [fuUnit, strayWave, tblGet, Nat.ne_of_lt hk.1, Nat.ne_of_gt hk.2]
  rw [hu]
  exact ⟨by decide, List.nodup_nil, fun _ h => absurd h List.not_mem_nil⟩

/-- Refutes O45: as DARK_FAULT stops the waveform its LENS_FAULT escalates as well, and MGMT_ESC names the lens driver. -/
theorem not_aFifthErrorEscalates : ¬ Obligations.AFifthErrorEscalates := by
  unfold Obligations.AFifthErrorEscalates
  intro h
  obtain ⟨-, -, -, hesc⟩ := h strayWave unitHost 0 1 1 0 (by decide) (by decide) (by decide)
  obtain ⟨-, -, hunit, -⟩ := hesc (by decide) (by decide) (by decide) (by decide) (by decide) lensUnits_strayWave
  exact absurd hunit (by decide +kernel)

end Sys2Proof.Stray
end

section
/-! PROOFS. Predicates that every operation of the machine keeps. `Closed R P` names the primitive ways a state moves; the lemma
`Closed.f` says that the function `f` of the model keeps such a `P`. The canonical form (O5), the stay in DARK_FAULT (O53) and the
units of the lens driver (O6) are three of them; `R` says that `P` survives resets. -/

namespace Sys2Proof.Kept

set_option Elab.async false

open Machine

/-! ### The primitive moves -/

/-- An error of a common's unit is a LENS_FAULT of cause 2, 3 or 4. -/
def Joins (blk idx src cause : Nat) : Prop := blk = unitLens → idx % 256 < 16 → src = evLensFault ∧ 2 ≤ cause ∧ cause ≤ 4

theorem joins_other {blk : Nat} (idx src cause : Nat) (h : blk ≠ unitLens) : Joins blk idx src cause := fun e => absurd e h

theorem joins_lens (idx : Nat) {cause : Nat} (h : 2 ≤ cause ∧ cause ≤ 4) : Joins unitLens idx evLensFault cause :=
  fun _ _ => ⟨rfl, h⟩

/-- An error that names no common. -/
theorem joins_none {idx : Nat} (src cause : Nat) (h : 16 ≤ idx % 256) : Joins unitLens idx src cause :=
    fun _ hi => absurd hi (by omega)

/-- A unit's follow-up ends, and the next that waits runs. -/
def serve (blk idx : Nat) (s : State) : State :=
  let w := (fuUnit s blk idx).waiting
  { s with followUps := tblSet {} s.followUps (unitKey blk idx) ⟨w.head?, w.drop 1⟩ }

/-- A predicate that the primitive moves of the machine keep. -/
structure Closed (R : Prop) (P : State → Prop) : Prop where
  /-- The lamplighter's state, the follow-ups and orderly dark stay, the canonical form is kept, and no half of a register is
  held that was not. -/
  still : ∀ {s t : State}, (s.canonical = true → t.canonical = true) → lamp t = lamp s → t.followUps = s.followUps →
    t.orderly = s.orderly → (t.held = s.held ∨ t.held = none) → P s → P t
  /-- Outside DARK_FAULT, or with a GO_DARK running, `P` says nothing that a reset could undo. -/
  awake : ∀ {s : State}, P s → lamp s ≠ .darkFault ∨ s.orderly ≠ none → R
  /-- The lamplighter moves. -/
  lampTo : ∀ {s : State} {l : Lamp}, R ∨ l = .darkFault → P s → P (setLamp s l)
  /-- Orderly dark begins, goes on or ends. -/
  orderlyTo : ∀ {s : State} {o : Option Orderly}, R ∨ o = none → P s → P { s with orderly := o }
  /-- An error joins its unit's follow-ups. -/
  joined : ∀ {s : State} {blk idx src cause : Nat}, Joins blk idx src cause → P s → P (followJoin blk idx src cause s)
  /-- A unit's follow-up ends. -/
  served : ∀ {s : State} {blk idx : Nat}, P s → P (serve blk idx s)
  /-- The supply is lost. -/
  unpowered : ∀ {s : State}, R → P s → P (powerOff s)

/-! ### The canonical form of the stores -/

theorem canonical_iff (s : State) : s.canonical = true ↔ tblWf 0#8 s.mem = true ∧ setWf s.poison = true ∧ tblWf 0#8 s.nvm = true ∧
    tblWf 0 s.nvmBad = true ∧ regsWf s.regs = true := by
  simp only [State.canonical, Memory.wf, Bool.and_eq_true, and_assoc]

theorem regsWf_iff (t : Tbl DWord) : regsWf t = true ↔ tblRising t = true ∧ ∀ p ∈ t, p.2 ≠ resetOf p.1 := by
  simp only [regsWf, Bool.and_eq_true, List.all_eq_true, decide_eq_true_eq]

theorem regsWf_filter {t : Tbl DWord} (p : Nat × DWord → Bool) (h : regsWf t = true) : regsWf (t.filter p) = true := by
  rw [regsWf_iff] at *
  exact ⟨tblRising_filter p h.1, fun q hq => h.2 q (List.mem_filter.1 hq).1⟩

theorem regsWf_tblSet {t : Tbl DWord} (o : Nat) (v : DWord) (h : regsWf t = true) : regsWf (tblSet (resetOf o) t o v) = true := by
  unfold tblSet
  split
  · exact regsWf_filter _ h
  · next hv =>
    rw [regsWf_iff] at *
    refine ⟨tblRising_put o v h.1, fun p hp => ?_⟩
    rcases mem_tblPut hp with rfl | hp
    · exact hv
    · exact h.2 p hp

theorem canonical_setReg {s : State} (o : Nat) (v : DWord) (h : s.canonical = true) : (setReg s o v).canonical = true := by
  rw [canonical_iff] at *
  obtain ⟨hm, hp, hn, hb, hr⟩ := h
  exact ⟨hm, hp, hn, hb, regsWf_tblSet o v hr⟩

theorem canonical_regs {s : State} {r : Tbl DWord} (hr : regsWf s.regs = true → regsWf r = true) (h : s.canonical = true) :
    ({ s with regs := r } : State).canonical = true := by
  rw [canonical_iff] at *
  obtain ⟨hm, hp, hn, hb, h⟩ := h
  exact ⟨hm, hp, hn, hb, hr h⟩

theorem canonical_mem {s : State} {m : Tbl Byte} {p : List Nat} (hm : tblWf 0#8 s.mem = true → tblWf 0#8 m = true)
    (hp : setWf s.poison = true → setWf p = true) (h : s.canonical = true) :
    ({ s with mem := m, poison := p } : State).canonical = true := by
  rw [canonical_iff] at *
  obtain ⟨h1, h2, h⟩ := h
  exact ⟨hm h1, hp h2, h⟩

theorem canonical_nvm {s : State} {m : Tbl Byte} {b : Tbl Nat} (hm : tblWf 0#8 s.nvm = true → tblWf 0#8 m = true)
    (hb : tblWf 0 s.nvmBad = true → tblWf 0 b = true) (h : s.canonical = true) :
    ({ s with nvm := m, nvmBad := b } : State).canonical = true := by
  rw [canonical_iff] at *
  obtain ⟨h1, h2, h3, h4, h⟩ := h
  exact ⟨h1, h2, hm h3, hb h4, h⟩

theorem length_words16 (b : Bytes) : (words16 b).length = b.length / 2 := by
  induction b using words16.induct with
  | case1 a b t ih => simp only [words16, List.length_cons, ih]; omega
  | case2 t ht =>
    match t, ht with
    | [], _ => rfl
    | [_], _ => simp [words16]
    | a :: b :: t, ht => exact absurd rfl (ht a b t)

/-- The LUTs have 3 planes of 4,096 entries, in their order. -/
theorem lutRegs_range (b : Bytes) :
    ((lutRegs b).map Prod.fst).Pairwise (· < ·) ∧ ∀ x ∈ lutRegs b, 0x304000 ≤ x.1 ∧ x.1 < 0x310000 ∧ x.2 ≠ resetOf x.1 := by
  unfold lutRegs
  extract_lets c ws
  have hw : ws.length ≤ 12288 := by
    simp only [ws, length_words16, sliceB, List.length_append, List.length_replicate, List.length_take]
    omega
  clear_value ws
  have ho : ∀ i, Reg.SCAN_LUT (i / 4096) (i % 4096) = 0x304000 + 4 * i := fun i => by unfold Reg.SCAN_LUT; omega
  simp only [ho]
  constructor
  · refine List.Pairwise.sublist (List.Sublist.map _ List.filter_sublist) ?_
    simp only [List.map_map, List.pairwise_map]
    refine List.pairwise_iff_getElem.2 fun i j hi hj hij => ?_
    simp only [List.getElem_zipIdx, Function.comp_apply]
    omega
  · intro x hx
    obtain ⟨hm, hne⟩ := List.mem_filter.1 hx
    obtain ⟨y, hy, rfl⟩ := List.mem_map.1 hm
    have := List.snd_lt_of_mem_zipIdx hy
    simp at this hne ⊢
    exact ⟨by omega, hne⟩

theorem regsWf_tblBlock {l t : Tbl DWord} {lo hi : Nat} (hl : (l.map Prod.fst).Pairwise (· < ·))
    (hr : ∀ x ∈ l, lo ≤ x.1 ∧ x.1 < hi ∧ x.2 ≠ resetOf x.1) (hlo : lo ≤ hi)
      (h : regsWf t = true) : regsWf (tblBlock lo hi l t) = true := by
  rw [regsWf_iff, tblRising_iff] at *
  obtain ⟨ht, hn⟩ := h
  unfold tblBlock
  have hf : ∀ p : Nat × DWord → Bool, ((t.filter p).map Prod.fst).Pairwise (· < ·) := fun p =>
    List.Pairwise.sublist (List.Sublist.map _ List.filter_sublist) ht
  constructor
  · simp only [List.map_append, List.pairwise_append, List.mem_append]
    refine ⟨⟨hf _, hl, fun a ha b hb => ?_⟩, hf _, fun a ha b hb => ?_⟩
    · obtain ⟨x, hx, rfl⟩ := List.mem_map.1 ha
      obtain ⟨y, hy, rfl⟩ := List.mem_map.1 hb
      exact lt_of_lt_of_le (of_decide_eq_true (List.mem_filter.1 hx).2) (hr y hy).1
    · obtain ⟨y, hy, rfl⟩ := List.mem_map.1 hb
      refine lt_of_lt_of_le ?_ (of_decide_eq_true (List.mem_filter.1 hy).2)
      rcases ha with ha | ha
      · obtain ⟨x, hx, rfl⟩ := List.mem_map.1 ha
        exact lt_of_lt_of_le (of_decide_eq_true (List.mem_filter.1 hx).2) hlo
      · obtain ⟨x, hx, rfl⟩ := List.mem_map.1 ha
        exact (hr x hx).2.1
  · intro p hp
    simp only [List.mem_append, List.mem_filter] at hp
    rcases hp with (⟨hp, -⟩ | hp) | ⟨hp, -⟩
    · exact hn p hp
    · exact (hr p hp).2.2
    · exact hn p hp

theorem tblGet_filter {α : Type} (d : α) (t : Tbl α) {p : Nat × α → Bool} {i : Nat} (h : ∀ v, p (i, v) = true) :
    tblGet d (t.filter p) i = tblGet d t i := by
  induction t with
  | nil => rfl
  | cons x t ih =>
    obtain ⟨j, w⟩ := x
    by_cases hij : i = j
    · subst hij
      simp [h, tblGet]
    · by_cases hp : p (j, w) = true <;> simp [hp, tblGet, hij, ih]

theorem tblGet_append {α : Type} (d : α) (t u : Tbl α) {i : Nat} (h : ∀ x ∈ u, x.1 ≠ i) : tblGet d (t ++ u) i = tblGet d t i := by
  induction t with
  | nil =>
    induction u with
    | nil => rfl
    | cons x u ih => simpa [tblGet, Ne.symm (h x (by simp))] using ih fun y hy => h y (by simp [hy])
  | cons x t ih => simp only [List.cons_append, tblGet, ih]

/-- A block above an index leaves what is read there. -/
theorem tblGet_tblBlock {α : Type} (d : α) {l : Tbl α} (t : Tbl α) {lo hi i : Nat} (hi' : i < lo) (hl : ∀ x ∈ l, lo ≤ x.1)
    (hlo : lo ≤ hi) :
    tblGet d (tblBlock lo hi l t) i = tblGet d t i := by
  have ha : ∀ x ∈ t.filter (fun p => decide (hi ≤ p.1)), x.1 ≠ i := fun x hx => by
    have := of_decide_eq_true (List.mem_filter.1 hx).2
    omega
  have hb : ∀ x ∈ l, x.1 ≠ i := fun x hx => by
    have := hl x hx
    omega
  rw [tblBlock, tblGet_append d _ _ ha, tblGet_append d _ _ hb, tblGet_filter d t fun v => decide_eq_true hi']
/-! ### What the primitive moves give -/

theorem iteK {P : State → Prop} {c : Prop} [Decidable c] {a b : State} (ha : c → P a) (hb : ¬ c → P b) :
    P (if c then a else b) := by
  split
  · next hc => exact ha hc
  · next hc => exact hb hc

theorem iteF {P : State → Prop} {α : Type} {c : Prop} [Decidable c] {a b : State × α} (ha : c → P a.1) (hb : ¬ c → P b.1) :
    P (if c then a else b).1 := by
  split
  · next hc => exact ha hc
  · next hc => exact hb hc

theorem foldlK {P : State → Prop} {α : Type} {f : State → α → State} (hf : ∀ s x, P s → P (f s x)) {l : List α} :
    ∀ {s : State}, P s → P (l.foldl f s) := by
  induction l with
  | nil => exact fun h => h
  | cons x l ih => exact fun h => ih (hf _ x h)

theorem foldlF {P : State → Prop} {α β : Type} {f : State × β → α → State × β} (hf : ∀ p x, P p.1 → P (f p x).1) {l : List α} :
    ∀ {p : State × β}, P p.1 → P (l.foldl f p).1 := by
  induction l with
  | nil => exact fun h => h
  | cons x l ih => exact fun h => ih (hf _ x h)

theorem of_pair {P : State → Prop} {α : Type} {p : State × α} {s : State} {a : α} (e : p = (s, a)) (h : P p.1) : P s := by
  rw [e] at h
  exact h

theorem emberFld_ne (src : Nat) : (emberFld src).off ≠ Reg.GEN_STATE := by unfold emberFld; lia
theorem lensState_ne (c : Nat) : (lensState c).off ≠ Reg.GEN_STATE := by unfold lensState; lia
theorem lensLevel_ne (z : Nat) : (lensLevel z).off ≠ Reg.GEN_STATE := by unfold lensLevel; lia
theorem lensTarget_ne (z : Nat) : (lensTarget z).off ≠ Reg.GEN_STATE := by unfold lensTarget; lia
theorem xbarFld_ne (q : Nat) : (xbarFld q).off ≠ Reg.GEN_STATE := by unfold xbarFld; lia
theorem xbarCurFld_ne (q : Nat) : (xbarCurFld q).off ≠ Reg.GEN_STATE := by unfold xbarCurFld; lia
theorem uniBank_ne (n : Nat) : (uniBank n).off ≠ Reg.GEN_STATE := by unfold uniBank; lia

section

variable {R : Prop} {P : State → Prop} (hP : Closed R P) {s : State}
include hP

/-- Outside DARK_FAULT a predicate that survives what leads out of it is at hand. -/
theorem Closed.wake {l : Lamp} (h : P s) (e : lamp s = l) (hl : l ≠ .darkFault := by decide) : R := hP.awake h (.inl (e ▸ hl))

/-- A change of what the primitive moves do not name. -/
theorem Closed.core
    {held ns flr free out pending dram nvmRun nvmQueue lensRun lensRewrite nvmCeAt tornPage patrolGrp patches nvmReads
    rings rrRing keys keyPend hdm cxlRegs linkLost leaseRaised msix cfg pba cxlPoisonAt cxlAperAt snuff inputs log
    restartAt restarting rails railSeqAt railThen railFaulted railHeld vrms vrmFailed vrmEn lens optPend optArmed time
    chain clk wln scan reel rmap hle blt img act trigger startAt cand wantLight rowZero}
    (h : P s) (hh : held = s.held ∨ held = none := by first | exact .inl rfl | exact .inr rfl) : P { s with
      held := held, ns := ns, flr := flr, free := free, out := out, pending := pending, dram := dram, nvmRun := nvmRun,
      nvmQueue := nvmQueue, lensRun := lensRun, lensRewrite := lensRewrite, nvmCeAt := nvmCeAt, tornPage := tornPage,
      patrolGrp := patrolGrp, patches := patches, nvmReads := nvmReads, rings := rings, rrRing := rrRing, keys := keys,
      keyPend := keyPend, hdm := hdm, cxlRegs := cxlRegs, linkLost := linkLost, leaseRaised := leaseRaised, msix :=
      msix, cfg := cfg, pba := pba, cxlPoisonAt := cxlPoisonAt, cxlAperAt := cxlAperAt, snuff := snuff, inputs :=
      inputs, log := log, restartAt := restartAt, restarting := restarting, rails := rails, railSeqAt := railSeqAt,
      railThen := railThen, railFaulted := railFaulted, railHeld := railHeld, vrms := vrms, vrmFailed := vrmFailed,
      vrmEn := vrmEn, lens := lens, optPend := optPend, optArmed := optArmed, time := time, chain := chain, clk := clk,
      wln := wln, scan := scan, reel := reel, rmap := rmap, hle := hle, blt := blt, img := img, act := act, trigger :=
      trigger, startAt := startAt, cand := cand, wantLight := wantLight, rowZero := rowZero } :=
  hP.still (s := s) (fun hc => by simpa only [State.canonical, Memory.wf] using hc) (lamp_congr (fld_congr rfl _)) rfl rfl hh h

theorem Closed.setReg {o : Nat} {v : DWord} (h : P s) (ho : o ≠ Reg.GEN_STATE := by lia) : P (setReg s o v) :=
  hP.still (canonical_setReg o v) (lamp_congr (fld_setReg_ne s o v (Ne.symm ho))) rfl rfl (.inl rfl) h

theorem Closed.setFld {f : Fld} {v : Nat} (h : P s) (ho : f.off ≠ Reg.GEN_STATE := by lia) : P (setFld s f v) := hP.setReg h ho

/-- A field of GEN_STATE beside the lamplighter's state. -/
theorem Closed.setFld_beside {f : Fld} {v : Nat} (hf : f.ok) (hl : Reg.GEN_STATE_STATE.hi < f.lo) (h : P s) :
    P (Machine.setFld s f v) :=
  hP.still (canonical_setReg _ _) (lamp_congr (fld_setFld_ne s f _ v hf (by decide) (.inr (.inl hl)))) rfl rfl (.inl rfl) h

theorem Closed.incSat {f : Fld} {k : Nat} (h : P s) (ho : f.off ≠ Reg.GEN_STATE := by lia) : P (incSat s f k) := hP.setFld h ho
theorem Closed.setPeak {f : Fld} {v : Nat} (h : P s) (ho : f.off ≠ Reg.GEN_STATE := by lia) : P (setPeak s f v) := hP.setFld h ho
theorem Closed.setSat {f : Fld} {v : Nat} (h : P s) (ho : f.off ≠ Reg.GEN_STATE := by lia) : P (setSat s f v) := hP.setFld h ho
theorem Closed.setSFld {f : Fld} {v : Int} (h : P s) (ho : f.off ≠ Reg.GEN_STATE := by lia) : P (setSFld s f v) := hP.setFld h ho
theorem Closed.resetReg {o : Nat} (h : P s) (ho : o ≠ Reg.GEN_STATE := by lia) : P (resetReg s o) := hP.setReg h ho

omit hP in
theorem Closed.forAll {g : Nat → State → State} {l : List Nat} (hg : ∀ i t, P t → P (g i t)) (h : P s) :
    P (Machine.forAll l g s) :=
  foldlK (fun t i => hg i t) h

theorem Closed.setMem {m : Tbl Byte} {p : List Nat} (h : P s) (hm : tblWf 0#8 s.mem = true → tblWf 0#8 m = true)
    (hp : setWf s.poison = true → setWf p = true) : P { s with mem := m, poison := p } :=
  hP.still (canonical_mem hm hp) rfl rfl rfl (.inl rfl) h

theorem Closed.setNvm {m : Tbl Byte} {b : Tbl Nat} (h : P s) (hm : tblWf 0#8 s.nvm = true → tblWf 0#8 m = true)
    (hb : tblWf 0 s.nvmBad = true → tblWf 0 b = true) : P { s with nvm := m, nvmBad := b } :=
  hP.still (canonical_nvm hm hb) rfl rfl rfl (.inl rfl) h

end

end Sys2Proof.Kept
end

section
/-! PROOFS. What a completion, a stopped raster and an image in force cannot undo. `Firm` names what settling leaves as it was whatever
happens, `Level` what it leaves as it was short of DARK_FAULT; `Low.f`, `Lower.f` and `Mem.f` say that the function `f` of the model
keeps a predicate that asks for no more. -/

namespace Sys2Proof.Kept

set_option Elab.async false

open Machine

/-! ### What stays -/

/-- Registers that no settling writes: a ring's size and pointers, the host keys, the fetches that run. -/
def firmReg (o : Nat) : Prop :=
  0x10100 ≤ o ∧ o < 0x10300 ∧ (o % 0x40 = 0x08 ∨ o % 0x40 = 0x10) ∨ 0x11000 ≤ o ∧ o < 0x11080 ∨ o = Reg.REEL_FETCH_STAT

/-- The write runs or waits in the main block. -/
def InStore (s : State) (w : NvmWr) : Prop := s.nvmRun = some w ∨ w ∈ s.nvmQueue

/-- What any settling leaves, but for the lamplighter's entry into DARK_FAULT, the end of orderly dark and new follow-ups. -/
structure Firm (s t : State) : Prop where
  canonical : s.canonical = true → t.canonical = true
  lamp : lamp t = lamp s
  followUps : t.followUps = s.followUps
  orderly : t.orderly = s.orderly
  held : t.held = s.held ∨ t.held = none
  regs : ∀ o, firmReg o → reg t o = reg s o
  taken : ∀ r, (ring t r).taken = (ring s r).taken
  turn : t.rrRing = s.rrRing
  fetches : t.reel.fetches = s.reel.fetches
  reads : t.nvmReads = s.nvmReads
  keys : t.keyPend = s.keyPend
  writes : ∀ w, InStore s w → InStore t w
  mem : t.mem = s.mem
  poison : t.poison = s.poison
  out : s.out <+: t.out

/-- What a move short of DARK_FAULT leaves beside these. -/
structure Level (s t : State) : Prop extends Firm s t where
  phase : t.lens.phase = s.lens.phase
  forced : t.lens.forced = s.lens.forced
  job : t.lens.forceJob = s.lens.forceJob
  lensRun : t.lensRun = s.lensRun
  rewrite : t.lensRewrite = s.lensRewrite
  snuff : t.snuff = s.snuff
  core : t.restarting = s.restarting
  halted : t.scan.halted = s.scan.halted
  failed : t.vrmFailed = s.vrmFailed
  act : t.act = s.act
  run : t.nvmRun = s.nvmRun
  queue : t.nvmQueue = s.nvmQueue

/-- A predicate that moves short of an escalation keep. -/
structure Base (P : State → Prop) : Prop where
  /-- What the predicate may ask for stays. -/
  still : ∀ {s t : State}, Level s t → P s → P t
  /-- An error joins its unit's follow-ups. -/
  joined : ∀ {s : State} {blk idx src cause : Nat}, Joins blk idx src cause → P s → P (followJoin blk idx src cause s)

/-- A predicate that completions, stopped rasters and images keep. -/
structure Low (P : State → Prop) : Prop extends Base P where
  /-- An error escalates, of a lamplighter that is on and outside DARK_FAULT. -/
  escalated : ∀ {s : State} {src data : Nat}, lamp s ≠ .off → lamp s ≠ .darkFault → P s → P (darkFault 6 9 src data 256 [] s)

/-- A predicate that all settling keeps. -/
structure Lower (R : Prop) (P : State → Prop) : Prop where
  /-- What the predicate may ask for stays. -/
  still : ∀ {s t : State}, Firm s t → P s → P t
  /-- Outside DARK_FAULT `P` says nothing that a reset could undo. -/
  awake : ∀ {s : State}, P s → lamp s ≠ .darkFault → R
  /-- The lamplighter moves. -/
  lampTo : ∀ {s : State} {l : Lamp}, R ∨ l = .darkFault → P s → P (setLamp s l)
  /-- Orderly dark begins, goes on or ends. -/
  orderlyTo : ∀ {s : State} {o : Option Orderly}, R ∨ o = none → P s → P { s with orderly := o }
  /-- An error joins its unit's follow-ups. -/
  joined : ∀ {s : State} {blk idx src cause : Nat}, Joins blk idx src cause → P s → P (followJoin blk idx src cause s)

/-- A predicate that reading and writing memory keeps as well. -/
structure Mem (R : Prop) (P : State → Prop) : Prop extends Lower R P where
  /-- Device memory changes. -/
  stored : ∀ {s : State} {m : Tbl Byte} {p : List Nat}, (tblWf 0#8 s.mem = true → tblWf 0#8 m = true) →
    (setWf s.poison = true → setWf p = true) → P s → P { s with mem := m, poison := p }

section

variable {s : State}

theorem Level.setReg {o : Nat} (v : DWord) (ho : o ≠ Reg.GEN_STATE) (hf : ¬ firmReg o) : Level s (setReg s o v) :=
  ⟨⟨canonical_setReg o v, lamp_congr (fld_setReg_ne s o v (Ne.symm ho)), rfl, rfl, .inl rfl,
    fun _ hk => reg_setReg_ne s v fun e => hf (e ▸ hk), fun _ => rfl, rfl, rfl, rfl, rfl, fun _ => id, rfl, rfl, List.prefix_refl _⟩,
    rfl, rfl, rfl, rfl, rfl, rfl, rfl, rfl, rfl, rfl, rfl, rfl⟩

end

section

variable {P : State → Prop} (hP : Base P) {s : State}
include hP

/-- A change of what no predicate of this kind asks for. -/
theorem Base.core
    {held ns flr free out pending dram nvmCeAt tornPage patrolGrp patches
    keys hdm cxlRegs linkLost leaseRaised msix cfg pba cxlPoisonAt cxlAperAt inputs log
    restartAt rails railSeqAt railThen railFaulted railHeld vrms vrmEn lens optPend optArmed time
    chain clk wln scan reel rmap hle blt img trigger startAt cand wantLight rowZero}
    (h : P s) (hh : held = s.held ∨ held = none := by first | exact .inl rfl | exact .inr rfl)
    (hs : scan.halted = s.scan.halted := by rfl) (hr : reel.fetches = s.reel.fetches := by rfl)
    (ho : s.out <+: out := by exact List.prefix_refl _)
    (hl : lens.phase = s.lens.phase ∧ lens.forced = s.lens.forced ∧ lens.forceJob = s.lens.forceJob := by exact ⟨rfl, rfl, rfl⟩) : P { s with
      held := held, ns := ns, flr := flr, free := free, out := out, pending := pending, dram := dram, nvmCeAt := nvmCeAt,
      tornPage := tornPage, patrolGrp := patrolGrp, patches := patches, keys := keys, hdm := hdm, cxlRegs := cxlRegs,
      linkLost := linkLost, leaseRaised := leaseRaised, msix := msix, cfg := cfg, pba := pba, cxlPoisonAt := cxlPoisonAt,
      cxlAperAt := cxlAperAt, inputs := inputs, log := log, restartAt := restartAt, rails := rails, railSeqAt := railSeqAt,
      railThen := railThen, railFaulted := railFaulted, railHeld := railHeld, vrms := vrms, vrmEn := vrmEn, lens := lens, optPend := optPend,
      optArmed := optArmed, time := time, chain := chain, clk := clk, wln := wln, scan := scan, reel := reel, rmap := rmap,
      hle := hle, blt := blt, img := img, trigger := trigger, startAt := startAt, cand := cand, wantLight := wantLight,
      rowZero := rowZero } :=
  hP.still (s := s) ⟨⟨fun hc => by simpa only [State.canonical, Memory.wf] using hc, lamp_congr (fld_congr rfl _), rfl, rfl, hh,
    fun _ _ => rfl, fun _ => rfl, rfl, hr, rfl, rfl, fun _ => id, rfl, rfl, ho⟩, hl.1, hl.2.1, hl.2.2, rfl, rfl, rfl, rfl, hs, rfl, rfl, rfl, rfl⟩ h

theorem Base.setReg {o : Nat} {v : DWord} (h : P s) (ho : o ≠ Reg.GEN_STATE ∧ ¬ firmReg o := by simp only [firmReg] <;> lia) : P (setReg s o v) :=
  hP.still (Level.setReg v ho.1 ho.2) h

theorem Base.setFld {f : Fld} {v : Nat} (h : P s) (ho : f.off ≠ Reg.GEN_STATE ∧ ¬ firmReg f.off := by simp only [firmReg] <;> lia) : P (setFld s f v) :=
  hP.setReg h ho

theorem Base.incSat {f : Fld} {k : Nat} (h : P s) (ho : f.off ≠ Reg.GEN_STATE ∧ ¬ firmReg f.off := by simp only [firmReg] <;> lia) :
    P (incSat s f k) := hP.setFld h ho

theorem Base.setPeak {f : Fld} {v : Nat} (h : P s) (ho : f.off ≠ Reg.GEN_STATE ∧ ¬ firmReg f.off := by simp only [firmReg] <;> lia) :
    P (setPeak s f v) := hP.setFld h ho

theorem Base.setSat {f : Fld} {v : Nat} (h : P s) (ho : f.off ≠ Reg.GEN_STATE ∧ ¬ firmReg f.off := by simp only [firmReg] <;> lia) :
    P (setSat s f v) := hP.setFld h ho

theorem Base.setSFld {f : Fld} {v : Int} (h : P s) (ho : f.off ≠ Reg.GEN_STATE ∧ ¬ firmReg f.off := by simp only [firmReg] <;> lia) :
    P (setSFld s f v) := hP.setFld h ho

theorem Base.resetReg {o : Nat} (h : P s) (ho : o ≠ Reg.GEN_STATE ∧ ¬ firmReg o := by simp only [firmReg] <;> lia) : P (resetReg s o) :=
  hP.setReg h ho

omit hP in
theorem emberFld_low (src : Nat) : (emberFld src).off ≠ Reg.GEN_STATE ∧ ¬ firmReg (emberFld src).off := by
  unfold emberFld firmReg
  lia

theorem Base.setFull {b v} (h : P s) : P (Machine.setFull s b v) := by
  unfold Machine.setFull
  extract_lets _ _ _ _ _ s1
  have h1 : P s1 := hP.core h
  exact hP.setReg (hP.setReg h1)

theorem Base.fixSteer (h : P s) : P (Machine.fixSteer s) := iteK (fun _ => hP.setFld h) fun _ => h

theorem Base.setTbState {b v} (h : P s) : P (Machine.setTbState s b v) := hP.setFld h

theorem Base.fixTb3 (h : P s) : P (Machine.fixTb3 s) := by
  unfold Machine.fixTb3
  extract_lets _ _ _ s1
  have h1 : P s1 := hP.setTbState (hP.setFull h)
  exact hP.fixSteer (iteK (fun _ => hP.setFld h1) fun _ => h)

theorem Base.setHandD {d} (h : P s) : P (Machine.setHandD s d) := hP.setFld (hP.setReg h)

theorem Base.setRing {r x} (h : P s) (hx : x.taken = (ring s r).taken) : P (Machine.setRing s r x) :=
  hP.still (s := s) ⟨⟨id, rfl, rfl, rfl, .inl rfl, fun _ _ => rfl, fun k => by
    rw [Machine.setRing, ring, tblGet_set]
    split
    · next e => rw [e, hx]
    · rfl, rfl, rfl, rfl, rfl, fun _ => id, rfl, rfl, List.prefix_refl _⟩, rfl, rfl, rfl, rfl, rfl, rfl, rfl, rfl, rfl, rfl, rfl, rfl⟩ h

theorem Base.ringDone {r} (hr : r < 8) (h : P s) : P (Machine.ringDone r s) := by
  unfold Machine.ringDone
  extract_lets s1
  have h1 : P s1 := hP.setFld h
  exact hP.setRing h1 rfl

theorem Base.storeFirst {src data forced} (h : P s) : P (Machine.storeFirst src data forced s) := by
  unfold Machine.storeFirst
  extract_lets s1 s2
  have h1 : P s1 := hP.setReg h
  have h2 : P s2 := Closed.forAll (fun _ _ h2 => hP.setReg h2) h1
  exact hP.setFld (hP.setFld h2)

theorem Base.emit {e} (h : P s) : P (Machine.emit s e) :=
  hP.core h (ho := List.prefix_append _ _)

theorem Base.sendMsix {v} (h : P s) : P (Machine.sendMsix v s) :=
  iteK (fun _ => h) fun _ => iteK (fun _ => hP.core h) fun _ => hP.emit h

theorem Base.vecOccur {v} (h : P s) : P (Machine.vecOccur v s) := by
  unfold Machine.vecOccur
  extract_lets
  exact iteK (fun _ => hP.setReg h) fun _ => hP.sendMsix (hP.setReg h)

theorem Base.recordEvent {src data forced} (h : P s) : P (Machine.recordEvent src data forced s) := by
  unfold Machine.recordEvent
  extract_lets s1 s2 s3
  have h1 : P s1 := hP.setFld h (emberFld_low _)
  have h2 : P s2 := iteK (fun _ => hP.setFld h1) fun _ => hP.setFld h1
  have h3 : P s3 := iteK (fun _ => h2) fun _ => hP.storeFirst h2
  exact iteK (fun _ => hP.vecOccur h3) fun _ => h3

theorem Base.raise {src cs} (h : P s) : P (Machine.raise src cs s) := hP.recordEvent h

theorem Base.followJoin {blk idx src cause} (hj : Joins blk idx src cause) (h : P s) :
    P (Machine.followJoin blk idx src cause s) :=
  hP.joined hj h

theorem Base.setRail {i p} (h : P s) : P (Machine.setRail s i p) := hP.setFld (hP.core h)

end

section

variable {P : State → Prop} (hP : Low P) {s : State}
include hP

/-- An escalation does nothing in OFF and in DARK_FAULT. -/
theorem Low.darkFault {src data} (h : P s) : P (Machine.darkFault 6 9 src data 256 [] s) := by
  by_cases ho : lamp s = .off
  · rwa [Machine.darkFault, if_pos ho]
  by_cases hd : lamp s = .darkFault
  · rwa [Machine.darkFault, if_neg ho, if_pos hd]
  · exact hP.escalated ho hd h

theorem Low.followUp {blk idx src cause data} (h : P s) (hj : Joins blk idx src cause) :
    P (Machine.followUp blk idx src cause data s) := by
  have hq : P (followQueue blk idx src cause s).1 := hP.followJoin hj h
  exact iteK (fun _ => hP.darkFault hq) fun _ => hq

theorem Low.raiseErr {blk idx src cause cs} (h : P s) (hj : Joins blk idx src cause :=
    by exact joins_other _ _ _ (by decide)) :
    P (Machine.raiseErr blk idx src cause cs s) := hP.followUp (hP.raise h) hj

theorem Low.ringError {r cause} (hr : r < 8) (h : P s) : P (Machine.ringError r cause s) := by
  unfold Machine.ringError
  extract_lets s1
  have h1 : P s1 := hP.setFld (hP.setFld (hP.setFld h))
  exact hP.raiseErr h1

theorem Low.cqWrite {r tag st op detail irq authed value} (hr : r < 8) (h : P s) :
    P (Machine.cqWrite r tag st op detail irq authed value s) := by
  unfold Machine.cqWrite
  extract_lets s1 s2 _ _ s3 s4 _ s5
  have h1 : P s1 := hP.ringDone hr h
  have h2 : P s2 := hP.incSat h1
  have h3 : P s3 := hP.emit h1
  have h4 : P s4 := iteK (fun _ => hP.setFld (hP.setFld h3)) fun _ => hP.setFld h3
  have h5 : P s5 := hP.setRing h4 rfl
  exact iteK (fun _ => hP.ringError hr (hP.setRing h2 rfl)) fun _ => iteK (fun _ => hP.vecOccur h5) fun _ => h5

theorem Low.complete {j st detail value} (h : P s) : P (Machine.complete j st detail value s) := by
  unfold Machine.complete
  extract_lets
  split
  · next r g e _ =>
    refine iteK (fun _ => h) fun hn => ?_
    have hr : r < 8 := by
      rw [not_or] at hn
      omega
    exact iteK (fun _ => hP.incSat (hP.ringDone hr h)) fun _ => hP.cqWrite hr h
  · extract_lets s1
    have h1 : P s1 := hP.setReg h
    exact hP.raise h1
  · exact h

theorem Low.fixWaits (h : P s) : P (Machine.fixWaits s) := hP.setFld (hP.setFld h)

theorem Low.setPipe {p v} (h : P s) : P (Machine.setPipe s p v) := hP.setFld h

theorem Low.stageFree (h : P s) : P (Machine.stageFree s) := by
  unfold Machine.stageFree
  extract_lets
  exact hP.fixWaits (Closed.forAll (fun _ _ h1 => hP.setPipe h1) (hP.core h))

theorem Low.slotFree (h : P s) : P (Machine.slotFree s) := by
  unfold Machine.slotFree
  extract_lets s1
  have h1 : P s1 := hP.setFld (hP.setFld (hP.setFld h))
  exact hP.setReg (hP.core h1)

theorem Low.stageAbandon (h : P s) : P (Machine.stageAbandon s) := by
  unfold Machine.stageAbandon
  extract_lets s1
  have h1 : P s1 := hP.stageFree (hP.slotFree h)
  split
  · exact h
  · exact iteK (fun _ => hP.complete h1) fun _ => h1

theorem Low.setFlds {l : List (Fld × Nat)} (h : P s) (hl : ∀ x ∈ l, x.1.off ≠ Reg.GEN_STATE ∧ ¬ firmReg x.1.off := by simp +decide [firmReg]) :
    P (Machine.setFlds l s) := by
  induction l generalizing s with
  | nil => exact h
  | cons x l ih => exact ih (hP.setFld h (hl x (by simp))) fun y hy => hl y (by simp [hy])

theorem Low.rmapNone (h : P s) : P (Machine.rmapNone s) := hP.setFlds (hP.slotFree h)

theorem Low.rmapAcross {old new} (h : P s) : P (Machine.rmapAcross old new s) := by
  unfold Machine.rmapAcross
  extract_lets s1
  have h1 : P s1 := hP.stageAbandon h
  split
  · exact iteK (fun _ => h1) fun _ => hP.rmapNone h1
  · exact hP.rmapNone h1

theorem Low.setRegs {l : List (Nat × Nat)} (h : P s) (hl : ∀ x ∈ l, x.1 ≠ Reg.GEN_STATE ∧ ¬ firmReg x.1 := by simp +decide [firmReg]) :
    P (Machine.setRegs l s) := by
  induction l generalizing s with
  | nil => exact h
  | cons x l ih => exact ih (hP.setReg h (hl x (by simp))) fun y hy => hl y (by simp [hy])

theorem Low.memmapTake {b} (h : P s) : P (Machine.memmapTake b s) := hP.setRegs (hP.setRegs h (by grind [firmReg]))

theorem Low.setForce {off v} (h : P s) : P (Machine.setForce off v s) := by
  unfold Machine.setForce
  extract_lets
  exact hP.core h

theorem Low.setFfld {f v} (h : P s) : P (Machine.setFfld s f v) := hP.setForce h

theorem Low.lutTake {b} (h : P s) : P (Machine.lutTake b s) := by
  obtain ⟨hl, hr⟩ := lutRegs_range b
  have hlow : ∀ o, o < 0x304000 → tblGet (resetOf o) (tblBlock 0x304000 0x310000 (lutRegs b) s.regs) o = reg s o := fun o ho =>
    tblGet_tblBlock _ _ ho (fun x hx => (hr x hx).1) (by decide)
  refine hP.core (hP.still (s := s) ⟨⟨canonical_regs (regsWf_tblBlock hl hr (by decide)), lamp_congr (fld_congr_reg (hlow _ (by decide))),
    rfl, rfl, .inl rfl, fun o ho => hlow o ?_, fun _ => rfl, rfl, rfl, rfl, rfl, fun _ => id, rfl, rfl,
    List.prefix_refl _⟩,
    rfl, rfl, rfl, rfl, rfl, rfl, rfl, rfl, rfl, rfl, rfl, rfl⟩ h)
  simp only [firmReg] at ho
  lia

theorem Low.rasterTake {b} (h : P s) : P (Machine.rasterTake b s) := by
  unfold Machine.rasterTake
  extract_lets t c l s1 s2 _ s3
  have h0 : P (Machine.setFlds l s) := hP.setFlds h (by simp +decide [l, firmReg])
  have h1 : P s1 := foldlK (fun _ _ h1 => hP.setFfld h1) h0
  have h2 : P s2 := hP.setRegs h1
  have h3 : P s3 := hP.setFlds (hP.setReg h2) (by simp +decide [firmReg])
  exact hP.lutTake h3

theorem Low.wicksTake {b} (h : P s) : P (Machine.wicksTake b s) := hP.setFlds (hP.setFlds h (by grind [firmReg])) (by grind [firmReg])

theorem Low.setVlcd {e} (h : P s) : P (Machine.setVlcd e s) := by
  unfold Machine.setVlcd
  extract_lets
  exact hP.setFld (hP.core h)

theorem Low.railsTake {b} (h : P s) : P (Machine.railsTake b s) := by
  unfold Machine.railsTake
  extract_lets _ s1 _ s2 s3
  have h1 : P s1 := hP.setFld h
  have h2 : P s2 := hP.setFlds h1 (by simp +decide [firmReg])
  have h3 : P s3 := Closed.forAll (fun _ _ h3 => iteK (fun _ => h3) fun _ => hP.setRail h3) h2
  exact iteK (fun _ => hP.setVlcd h3) fun _ => h3

theorem Low.routesTake {b} (h : P s) : P (Machine.routesTake b s) := hP.setRegs h (by grind [firmReg])

theorem Low.ptpJoin (h : P s) : P (Machine.ptpJoin s) := by
  unfold Machine.ptpJoin
  extract_lets _ s1
  have h1 : P s1 := iteK (fun _ => hP.emit h) fun _ => h
  exact iteK (fun _ => h) fun _ => iteK (fun _ => hP.emit h1) fun _ => h1

theorem Low.setSlewDir {b v} (h : P s) : P (Machine.setSlewDir s b v) := by
  unfold Machine.setSlewDir
  extract_lets
  exact hP.setFld (hP.core h)

theorem Low.setRun {b v} (h : P s) : P (Machine.setRun s b v) := by
  unfold Machine.setRun
  extract_lets
  exact hP.core h

theorem Low.syncDiscFix (h : P s) : P (Machine.syncDiscFix s) := by
  unfold Machine.syncDiscFix
  extract_lets s1
  have h1 : P s1 := hP.setFld (hP.setTbState (hP.setSlewDir (hP.setRun h)))
  exact iteK (fun _ => h) fun _ => hP.fixTb3 (hP.core h1)

theorem Low.timeTake {b} (h : P s) : P (Machine.timeTake b s) := by
  unfold Machine.timeTake
  extract_lets _ _ s1 s2 _ s3
  have h1 : P s1 := hP.setFlds h
  have h2 : P s2 := hP.setRegs h1
  have h3 : P s3 := hP.core h2
  exact hP.ptpJoin (hP.fixTb3 (hP.setHandD (hP.syncDiscFix h3)))

theorem Low.leaseSet {e0 gen g} (h : P s) : P (Machine.leaseSet e0 gen g s) := by
  unfold Machine.leaseSet
  refine Closed.forAll (fun _ s1 h1 => ?_) h
  extract_lets
  refine Closed.forAll (fun _ s2 h2 => ?_) h1
  extract_lets
  split
  · exact hP.setFld (hP.setFld (hP.setFld (hP.setReg h2)))
  · exact hP.setReg (hP.setReg h2)

theorem Low.fixLeases (h : P s) : P (Machine.fixLeases s) := by
  unfold Machine.fixLeases
  extract_lets s1
  have h1 : P s1 := hP.leaseSet h
  split
  · exact hP.leaseSet h1
  · exact Closed.forAll (fun _ _ h2 => hP.setReg (hP.setReg h2)) h1

theorem Low.relock {p} (h : P s) : P (Machine.relock p s) := by
  unfold Machine.relock
  extract_lets s1
  have h1 : P s1 := hP.setFld (hP.setFld h)
  exact hP.core h1

theorem Low.pllForce {p} (h : P s) : P (Machine.pllForce p s) := by
  unfold Machine.pllForce
  extract_lets
  exact Closed.forAll (fun _ _ h1 => hP.core h1) h

omit hP in
theorem clockRegs_plain (b : Bytes) (p : Nat) : ∀ x ∈ clockRegs b p, x.1 ≠ Reg.GEN_STATE ∧ ¬ firmReg x.1 := by
  unfold clockRegs
  grind [firmReg]

theorem Low.clocksTake {b} (h : P s) : P (Machine.clocksTake b s) := by
  refine Closed.forAll (fun i s1 h1 => ?_) (hP.setFld h)
  extract_lets s2
  have h2 : P s2 := hP.setRegs h1 (clockRegs_plain _ i)
  exact iteK (fun _ => h2) fun _ => iteK (fun _ => hP.core (hP.relock (hP.pllForce h2))) fun _ => hP.relock (hP.pllForce h2)

theorem Low.setLant {l x} (h : P s) : P (Machine.setLant s l x) := by
  unfold Machine.setLant
  extract_lets
  exact hP.core h

theorem Low.emptyCaches {l} (h : P s) : P (Machine.emptyCaches l s) := hP.setLant h

theorem Low.fixLants (h : P s) : P (Machine.fixLants s) := by
  unfold Machine.fixLants
  extract_lets
  refine Closed.forAll (fun _ s1 h1 => iteK (fun _ => hP.setFld (hP.setFld (hP.setFld h1))) fun _ => ?_) h
  extract_lets 
  split
  · exact hP.setFld (hP.setFld (hP.setFld h1))
  · extract_lets s2 s3
    have h2 : P s2 := iteK (fun _ => h1) fun _ => hP.emptyCaches (hP.setFld h1)
    have h3 : P s3 := hP.setFld h2
    exact iteK (fun _ => h3) fun _ => hP.setFld h3

theorem Low.lanternsTake {b} (h : P s) : P (Machine.lanternsTake b s) :=
  hP.fixLants (hP.setFlds h (by grind [xbarFld, xbarCurFld, firmReg]))

theorem Low.imageRegs {b} (h : P s) : P (Machine.imageRegs b s) := by
  unfold Machine.imageRegs
  extract_lets s1 s2 s3
  have h1 : P s1 := hP.memmapTake (hP.rasterTake (hP.wicksTake (hP.railsTake h)))
  have h2 : P s2 := hP.routesTake (hP.timeTake h1)
  have h3 : P s3 := hP.setFlds h2
  exact hP.fixLeases (hP.clocksTake (hP.lanternsTake h3))

theorem Low.setNextTick {k} (h : P s) : P (Machine.setNextTick s k) := by
  unfold Machine.setNextTick
  extract_lets
  exact hP.core h

theorem Low.realign {count} (h : P s) : P (Machine.realign count s) := by
  unfold Machine.realign
  extract_lets _ _ s1
  have h1 : P s1 := hP.setNextTick h
  exact iteK (fun _ => h) fun _ => iteK (fun _ => hP.raise (hP.incSat h1)) fun _ => h1

theorem Low.reelLow (h : P s) : P (Machine.reelLow s) := hP.raise (hP.setFld h)

theorem Low.lowNow (h : P s) : P (Machine.lowNow s) := iteK (fun _ => hP.reelLow h) fun _ => h

theorem Low.reelCheck (h : P s) : P (Machine.reelCheck s) := by
  unfold Machine.reelCheck
  extract_lets _ _ s1 _ s2
  have h1 : P s1 := hP.setFld h
  have h2 : P s2 := iteK (fun _ => hP.setFld h1) fun _ => h1
  exact iteK (fun _ => hP.lowNow h2) fun _ => h2

theorem Low.flushFifos (h : P s) : P (Machine.flushFifos s) := by
  unfold Machine.flushFifos
  extract_lets
  exact Closed.forAll (fun _ _ h1 => hP.setFld h1) (hP.core h)

theorem Low.quadsFresh (h : P s) : P (Machine.quadsFresh s) := by
  unfold Machine.quadsFresh
  extract_lets _ _ s1
  have h1 : P s1 := hP.core h
  exact Closed.forAll (fun _ _ h2 => hP.setFld h2) (hP.flushFifos h1)

theorem Low.agingTake {k} (h : P s) : P (Machine.agingTake k s) := by
  unfold Machine.agingTake
  extract_lets
  split
  · exact h
  · extract_lets _ _ _ s1 s2
    have h1 : P s1 := hP.core h
    have h2 : P s2 := hP.incSat (hP.setFld h1)
    exact iteK (fun _ => h2) fun _ => hP.raise h2

theorem Low.agingSettle (h : P s) : P (Machine.agingSettle s) :=
  iteK (fun _ => hP.quadsFresh (hP.agingTake h)) fun _ => h

theorem Low.agingCalc (h : P s) : P (Machine.agingCalc s) := by
  unfold Machine.agingCalc
  extract_lets
  exact hP.agingSettle (hP.setFld (hP.core h))

theorem Low.imageTake {b src} (h : P s) : P (Machine.imageTake b src s) := by
  unfold Machine.imageTake
  extract_lets s1 s2 _ s3 s4
  have h1 : P s1 := hP.rmapAcross h
  have h2 : P s2 := hP.imageRegs (hP.core h1)
  have h3 : P s3 := hP.setFlds h2
  have h4 : P s4 := hP.realign (hP.setReg h3)
  exact hP.reelCheck (hP.agingCalc (hP.quadsFresh h4))

theorem Low.witTake {k x} (h : P s) : P (Machine.witTake k x s) := by
  unfold Machine.witTake
  extract_lets _ _ s1 s2 s3
  have h1 : P s1 := hP.setReg (hP.setReg h)
  have h2 : P s2 := hP.setFld (hP.setFld h1)
  have h3 : P s3 := iteK (fun _ => hP.setFld h2) fun _ => h2
  exact hP.complete (hP.core h3)

theorem Low.witTakeAll {k} (h : P s) : P (Machine.witTakeAll k s) := by
  unfold Machine.witTakeAll
  extract_lets
  exact foldlK (fun _ _ h1 => hP.witTake h1) (hP.core h)

theorem Low.optTake (h : P s) : P (Machine.optTake s) := by
  unfold Machine.optTake
  extract_lets _ s1
  have h1 : P s1 := by
    refine Closed.forAll (fun _ s2 h1 => ?_) h
    extract_lets s3
    have h2 : P s3 := hP.setFld (hP.setFld h1)
    exact hP.core h2
  exact hP.core h1

theorem Low.commitFollow {k} (h : P s) : P (Machine.commitFollow k s) := by
  unfold Machine.commitFollow
  extract_lets s1
  have h1 : P s1 := hP.optTake h
  exact iteK (fun _ => hP.agingTake h1) fun _ => h1

theorem Low.periodTake {p k} (h : P s) : P (Machine.periodTake p k s) := by
  unfold Machine.periodTake
  extract_lets _ _ _ s1 s2
  have h1 : P s1 := hP.core h
  have h2 : P s2 := hP.setReg (hP.setReg h1)
  exact iteK (fun _ => h) fun _ => hP.setReg h2

theorem Low.lantTake {t} (h : P s) : P (Machine.lantTake t s) := by
  unfold Machine.lantTake
  extract_lets _ s1 s2
  have h1 : P s1 := foldlK (fun _ _ h1 => hP.setFld h1 (by simp only [xbarCurFld, firmReg]; lia)) h
  have h2 : P s2 := hP.setFld h1
  exact hP.fixLants (hP.setFld h2)

theorem Low.commitTake {k} (h : P s) : P (Machine.commitTake k s) := by
  unfold Machine.commitTake
  extract_lets
  split
  · exact h
  · extract_lets s1 s2 s3 s4 s5 s6
    have h1 : P s1 := hP.core h
    have h2 : P s2 := hP.periodTake (hP.lantTake h1)
    have h3 : P s3 := hP.setFld (hP.setFld (hP.setFld h2))
    have h4 : P s4 := hP.fixLeases h3
    have h5 : P s5 := hP.raise h4
    have h6 : P s6 := hP.raise h5
    exact hP.complete h6

theorem Low.fixPipe0 (h : P s) : P (Machine.fixPipe0 s) := hP.setFld h

theorem Low.fixNc (h : P s) : P (Machine.fixNc s) := by
  unfold Machine.fixNc
  split
  · exact hP.setFld (hP.setFld (hP.setFld h))
  · extract_lets
    exact hP.setFld (hP.setFld (hP.setFld h))

theorem Low.setNc {x} (h : P s) : P (Machine.setNc x s) := by
  unfold Machine.setNc
  extract_lets
  exact hP.fixPipe0 (hP.fixNc (hP.core h))

theorem Low.decErr {code frame layer off} (h : P s) : P (Machine.decErr code frame layer off s) := hP.raise h

theorem Low.setCursor {n off} (h : P s) : P (Machine.setCursor n off s) := hP.reelCheck (hP.setFld (hP.setFld h))

theorem Low.reelSpan {code left entered} (h : P s) : P (Machine.reelSpan code left entered s) := hP.raise h

theorem Low.leaveSpan (h : P s) : P (Machine.leaveSpan s) := by
  unfold Machine.leaveSpan
  split
  · exact h
  · extract_lets
    split
    · exact hP.reelSpan (hP.reelCheck (hP.core h))
    · refine iteK (fun _ => hP.reelSpan (hP.reelCheck (hP.core h))) fun _ => ?_
      extract_lets 
      split
      · exact hP.reelSpan (hP.reelCheck (hP.core h))
      · exact hP.reelSpan (hP.setCursor h)

theorem Low.nextRecord {units} (h : P s) : P (Machine.nextRecord units s) := by
  unfold Machine.nextRecord
  split
  · exact h
  · split
    · exact iteK (fun _ => hP.setCursor h) fun _ => hP.leaveSpan h
    · exact hP.leaveSpan h

theorem Low.refuse {c code off step} (h : P s) : P (Machine.refuse c code off step s) := by
  have hgo : ∀ u, P u → P (
      if step ≤ 4 then Machine.setCursor c.span (c.off + 1) { u with reel := { u.reel with prev := none, probe := true } }
      else if step = 5 then Machine.leaveSpan { u with reel := { u.reel with prev := none } }
      else Machine.nextRecord (unitsOf c.recLen) u) := fun u hu =>
    iteK (fun _ => hP.setCursor (hP.core hu)) fun _ => iteK (fun _ => hP.leaveSpan (hP.core hu)) fun _ => hP.nextRecord hu
  unfold Machine.refuse
  exact hgo _ (hP.setNc (hP.incSat (hP.decErr h)))

theorem Low.recheck (h : P s) : P (Machine.recheck s) := by
  unfold Machine.recheck
  split
  · exact iteK (fun _ => iteK (fun _ => hP.setNc (hP.incSat (hP.decErr h))) fun _ => hP.refuse h) fun _ => h
  · exact h

theorem Low.rmapSwap {k} (h : P s) : P (Machine.rmapSwap k s) := by
  unfold Machine.rmapSwap
  extract_lets _ _ _ s1 s2
  have h1 : P s1 := hP.slotFree (hP.core h)
  have h2 : P s2 := hP.setFld (hP.setFld h1)
  exact hP.fixNc (hP.raise (hP.setFld h2))

theorem Low.swapNow {k} (h : P s) : P (Machine.swapNow k s) := hP.recheck (hP.rmapSwap h)

theorem Low.flipBanks (h : P s) : P (Machine.flipBanks s) := by
  unfold Machine.flipBanks
  extract_lets
  exact Closed.forAll (fun _ _ h1 => hP.setFld h1 (by simp only [uniBank, firmReg]; lia)) (hP.core h)

theorem Low.settleStopped (h : P s) : P (Machine.settleStopped s) := by
  unfold Machine.settleStopped
  extract_lets _ s1 s2 s3
  have h1 : P s1 := hP.witTakeAll h
  have h2 : P s2 := iteK (fun _ => hP.commitFollow (hP.commitTake h1)) fun _ => h1
  have h3 : P s3 := iteK (fun _ => hP.swapNow h2) fun _ => h2
  exact hP.quadsFresh (hP.flipBanks (hP.agingSettle h3))

end

end Sys2Proof.Kept
end

section
/-! PROOFS. DARK_FAULT and what is left to settle keep what settling leaves as it was. -/

namespace Sys2Proof.Kept

set_option Elab.async false

open Machine

theorem mem_nvmEnqueue (w : NvmWr) (l : List NvmWr) (v : NvmWr) : v ∈ nvmEnqueue w l ↔ v = w ∨ v ∈ l := by
  induction l with
  | nil => simp [nvmEnqueue]
  | cons x l ih =>
    rw [nvmEnqueue]
    split
    · simp only [List.mem_cons]
    · simp only [List.mem_cons, ih]
      tauto

section

variable {R : Prop} {P : State → Prop} (hP : Lower R P) {s : State}
include hP

theorem Lower.base : Base P := ⟨fun h => hP.still h.toFirm, hP.joined⟩

/-- A change of what no predicate of this kind asks for. -/
theorem Lower.core
    {held ns flr free out pending dram lensRun lensRewrite nvmCeAt tornPage patrolGrp patches
    keys hdm cxlRegs linkLost leaseRaised msix cfg pba cxlPoisonAt cxlAperAt snuff inputs log
    restartAt restarting rails railSeqAt railThen railFaulted railHeld vrms vrmFailed vrmEn lens optPend optArmed time
    chain clk wln scan reel rmap hle blt img act trigger startAt cand wantLight rowZero}
    (h : P s) (hh : held = s.held ∨ held = none := by first | exact .inl rfl | exact .inr rfl)
    (hr : reel.fetches = s.reel.fetches := by rfl) (ho : s.out <+: out := by exact List.prefix_refl _) : P { s with
      held := held, ns := ns, flr := flr, free := free, out := out, pending := pending, dram := dram, lensRun := lensRun,
      lensRewrite := lensRewrite, nvmCeAt := nvmCeAt,
      tornPage := tornPage, patrolGrp := patrolGrp, patches := patches, keys := keys, hdm := hdm, cxlRegs := cxlRegs,
      linkLost := linkLost, leaseRaised := leaseRaised, msix := msix, cfg := cfg, pba := pba, cxlPoisonAt := cxlPoisonAt,
      cxlAperAt := cxlAperAt, snuff := snuff, inputs := inputs, log := log, restartAt := restartAt, restarting := restarting,
      rails := rails, railSeqAt := railSeqAt, railThen := railThen, railFaulted := railFaulted, railHeld := railHeld, vrms := vrms,
      vrmFailed := vrmFailed, vrmEn := vrmEn, lens := lens, optPend := optPend,
      optArmed := optArmed, time := time, chain := chain, clk := clk, wln := wln, scan := scan, reel := reel, rmap := rmap,
      hle := hle, blt := blt, img := img, act := act, trigger := trigger, startAt := startAt, cand := cand, wantLight := wantLight,
      rowZero := rowZero } :=
  hP.still (s := s) ⟨fun hc => by simpa only [State.canonical, Memory.wf] using hc, lamp_congr (fld_congr rfl _), rfl, rfl, hh,
    fun _ _ => rfl, fun _ => rfl, rfl, hr, rfl, rfl, fun _ => id, rfl, rfl, ho⟩ h

theorem Lower.setReg {o : Nat} {v : DWord} (h : P s) (ho : o ≠ Reg.GEN_STATE ∧ ¬ firmReg o := by simp only [firmReg] <;> lia) :
    P (setReg s o v) := hP.base.setReg h ho

theorem Lower.setFld {f : Fld} {v : Nat} (h : P s) (ho : f.off ≠ Reg.GEN_STATE ∧ ¬ firmReg f.off := by simp only [firmReg] <;> lia) :
    P (setFld s f v) := hP.setReg h ho

theorem Lower.incSat {f : Fld} {k : Nat} (h : P s) (ho : f.off ≠ Reg.GEN_STATE ∧ ¬ firmReg f.off := by simp only [firmReg] <;> lia) :
    P (incSat s f k) := hP.setFld h ho

theorem Lower.setPeak {f : Fld} {v : Nat} (h : P s) (ho : f.off ≠ Reg.GEN_STATE ∧ ¬ firmReg f.off := by simp only [firmReg] <;> lia) :
    P (setPeak s f v) := hP.setFld h ho

theorem Lower.setNvm {m : Tbl Byte} {b : Tbl Nat} (h : P s) (hm : tblWf 0#8 s.nvm = true → tblWf 0#8 m = true)
    (hb : tblWf 0 s.nvmBad = true → tblWf 0 b = true) : P { s with nvm := m, nvmBad := b } :=
  hP.still (s := s) ⟨canonical_nvm hm hb, rfl, rfl, rfl, .inl rfl, fun _ _ => rfl, fun _ => rfl, rfl, rfl, rfl, rfl, fun _ => id, rfl, rfl,
    List.prefix_refl _⟩ h

/-- Writes move within the main block, or join it. -/
theorem Lower.store {run : Option NvmWr} {queue : List NvmWr} (h : P s)
    (hw : ∀ w, InStore s w → run = some w ∨ w ∈ queue) : P { s with nvmRun := run, nvmQueue := queue } :=
  hP.still (s := s) ⟨fun hc => by simpa only [State.canonical, Memory.wf] using hc, lamp_congr (fld_congr rfl _), rfl, rfl, .inl rfl,
    fun _ _ => rfl, fun _ => rfl, rfl, rfl, rfl, rfl, hw, rfl, rfl, List.prefix_refl _⟩ h

/-- Outside DARK_FAULT a predicate that survives what leads out of it is at hand. -/
theorem Lower.wake {l : Lamp} (h : P s) (e : lamp s = l) (hl : l ≠ .darkFault := by decide) : R := hP.awake h (e ▸ hl)

theorem Lower.raiseIn {lo hi src cs} (h : P s) : P (Machine.raiseIn lo hi src cs s) :=
  iteK (fun _ => hP.base.raise h) fun _ => h

theorem Lower.setCommon {c v} (h : P s) : P (Machine.setCommon s c v) := hP.setFld h (by simp only [lensState, firmReg]; lia)

theorem Lower.lensStop {c} (h : P s) : P (Machine.lensStop c s) := by
  unfold Machine.lensStop
  extract_lets s1
  have h1 : P s1 := hP.setFld (hP.setCommon h)
  exact hP.base.emit (hP.core h1)

theorem Lower.settle {c} (h : P s) : P (Machine.settle c s) := hP.setCommon h

theorem Lower.lensGiveUp {c} (h : P s) : P (Machine.lensGiveUp c s) := by
  unfold Machine.lensGiveUp
  extract_lets s1
  have h1 : P s1 := iteK (fun _ => hP.setCommon h) fun _ => hP.settle h
  exact hP.core h1

theorem Lower.lensAbortDark (h : P s) : P (Machine.lensAbortDark s) := by
  unfold Machine.lensAbortDark
  split
  · exact hP.base.followJoin (joins_lens _ (by decide)) (hP.base.raise (hP.incSat (hP.lensStop h)))
  · exact hP.lensGiveUp h
  · exact hP.lensGiveUp h
  · exact h

theorem Lower.vlcdDown (h : P s) : P (Machine.vlcdDown s) := by
  unfold Machine.vlcdDown
  split
  · exact hP.base.setRail h
  · exact hP.base.setRail h
  · exact hP.base.setRail h
  · exact h

theorem Lower.railActs {up down} (h : P s) : P (Machine.railActs up down s) := hP.setFld (hP.setFld h)

theorem Lower.railSeqDone (h : P s) : P (Machine.railSeqDone s) := by
  unfold Machine.railSeqDone
  extract_lets _ s1
  have h1 : P s1 := hP.railActs (hP.setFld (hP.core h))
  exact hP.base.raise h1

theorem Lower.railsDown {lcd} (h : P s) : P (Machine.railsDown lcd s) := by
  unfold Machine.railsDown
  extract_lets s1 s2 v1 s3 s4
  have h1 : P s1 := iteK (fun _ => hP.vlcdDown (hP.core h)) fun _ => h
  have h2 : P s2 := Closed.forAll (fun _ _ h2 => iteK (fun _ => hP.base.setRail h2) fun _ => h2) h1
  have h3 : P s3 := hP.setFld (hP.setFld h2)
  have h4 : P s4 := hP.core h3
  refine iteK (fun _ => h1) fun _ => iteK (fun _ => h1) fun _ => ?_
  extract_lets 
  clear_value v1
  split
  · exact iteK (fun _ => h4) fun _ => hP.railSeqDone h4
  · extract_lets s5
    have h5 : P s5 := hP.base.setRail h4
    exact Closed.forAll (fun _ _ h6 => hP.base.setRail h6) h5

theorem Lower.fixLow (h : P s) : P (Machine.fixLow s) := hP.setFld h

theorem Lower.setHold {p v} (h : P s) : P (Machine.setHold s p v) := hP.fixLow (hP.setFld h)

theorem Lower.logCount {i} (h : P s) : P (Machine.logCount i s) := by
  unfold Machine.logCount
  extract_lets
  exact hP.core h

theorem Lower.logSnuff (h : P s) : P (Machine.logSnuff s) := by
  unfold Machine.logSnuff
  extract_lets s1
  have h1 : P s1 := hP.logCount h
  exact hP.core h1

theorem Lower.sendBlank {cause} (h : P s) : P (Machine.sendBlank cause s) := Closed.forAll (fun _ _ h1 => hP.base.emit h1) h

theorem Lower.assertPath {p} (h : P s) : P (Machine.assertPath p s) := by
  unfold Machine.assertPath
  extract_lets s1 s2 _ s3 _ s4
  have h2 : P s2 := hP.logSnuff (hP.incSat (hP.setHold h))
  have h3 : P s3 := by
    refine iteK (fun hl => hP.lampTo (.inl (hP.awake h2 fun hd => ?_)) h2) fun _ => h2
    simp [isLit, hd] at hl
  have h4 : P s4 := hP.sendBlank (hP.core h3)
  exact iteK (fun _ => h) fun _ => hP.base.raise h4

theorem Lower.darkStops {path src cs} (h : P s) : P (Machine.darkStops path src cs s) := by
  unfold Machine.darkStops
  extract_lets s1
  have h1 : P s1 := hP.lensAbortDark (hP.raiseIn (hP.railsDown (hP.raiseIn h)))
  exact hP.raiseIn (hP.assertPath (hP.raiseIn h1))

theorem Lower.stopRaster (h : P s) : P (Machine.stopRaster s) := by
  unfold Machine.stopRaster
  extract_lets _ s1 s2
  have h1 : P s1 := hP.core h
  have h2 : P s2 := hP.setFld (hP.setFld h1)
  exact Closed.forAll (fun _ _ h3 => hP.setReg h3) h2

theorem Lower.nvmFixQueue (h : P s) : P (Machine.nvmFixQueue s) := hP.setFld h

theorem Lower.nvmProgram {off data} (h : P s) : P (Machine.nvmProgram off data s) := by
  refine hP.setNvm h (tblWf_setRun off data) fun hb => ?_
  split
  · exact hb
  · exact tblWf_clear _ _ hb

omit hP in
/-- The write that waited first is no longer waiting when it runs. -/
theorem nvmBegin_dequeued (w : NvmWr) (l : List NvmWr) (s : State) : nvmBegin false w { s with nvmQueue := l } =
    Machine.setFld (Machine.setFld (Machine.setFld
      { Machine.nvmProgram (journalAt false ((wseq s false + 1) % 2 ^ 24)) (journalCell w ((wseq s false + 1) % 2 ^ 24) 0x0F) s with
        nvmRun := some w, nvmQueue := l }
      Reg.NVM_WSEQ_MAIN ((wseq s false + 1) % 2 ^ 24)) Reg.NVM_STAT_BUSY 1) Reg.NVM_STAT_PAGE w.page := by
  unfold Machine.nvmBegin
  extract_lets q s1
  rw [if_neg Bool.false_ne_true]
  rfl

theorem Lower.dequeued {w : NvmWr} {l : List NvmWr} (hr : s.nvmRun = none) (hq : s.nvmQueue = w :: l) (h : P s) :
    P { s with nvmRun := some w, nvmQueue := l } :=
  hP.store h fun v hv => by
    rcases hv with hv | hv
    · exact absurd (hr.symm.trans hv) nofun
    · rw [hq, List.mem_cons] at hv
      exact hv.imp (fun e => by rw [e]) id

theorem Lower.nvmFirst {w : NvmWr} {l : List NvmWr} (hr : s.nvmRun = none) (hq : s.nvmQueue = w :: l) (h : P s) :
    P (nvmBegin false w { s with nvmQueue := l }) := by
  have hd : ∀ off data, P { Machine.nvmProgram off data s with nvmRun := some w, nvmQueue := l } := fun off data =>
    hP.dequeued (s := Machine.nvmProgram off data s) hr hq (hP.nvmProgram h)
  rw [nvmBegin_dequeued]
  exact hP.setFld (hP.setFld (hP.setFld (hd _ _)))

theorem Lower.nvmStart (h : P s) : P (Machine.nvmStart s) := by
  unfold Machine.nvmStart
  split
  · next hr hq => exact hP.nvmFixQueue (hP.nvmFirst hr hq h)
  · exact h

theorem Lower.nvmWrite {w} (h : P s) : P (Machine.nvmWrite w s) :=
  hP.nvmStart (hP.nvmFixQueue (hP.store h fun v hv => hv.imp_right fun hm => (mem_nvmEnqueue w _ v).2 (.inr hm)))

theorem Lower.pushRing {src st why data} (h : P s) : P (Machine.pushRing src st why data s) := by
  unfold Machine.pushRing
  extract_lets _ _ s1
  have h1 : P s1 := hP.setFld h
  exact hP.nvmWrite (hP.core h1)

theorem Lower.firstFatal {src st why data} (h : P s) : P (Machine.firstFatal src st why data s) := by
  unfold Machine.firstFatal
  extract_lets _ s1 s2 s3
  have h1 : P s1 := hP.core h
  have h2 : P s2 := hP.setReg h1
  have h3 : P s3 := hP.setReg h2
  exact iteK (fun _ => h) fun _ => Closed.forAll (fun _ _ h4 => hP.setReg h4) h3

theorem Lower.darkEnter {why src data} (h : P s) : P (Machine.darkEnter why src data s) :=
  hP.lampTo (.inr rfl) (hP.core (hP.logCount (hP.pushRing (hP.firstFatal (hP.setFld (hP.setFld h))))))

theorem Lower.darkFault {why path src data noted cs} (h : P s) : P (Machine.darkFault why path src data noted cs s) := by
  unfold Machine.darkFault
  extract_lets s1
  have h1 : P s1 := hP.stopRaster (hP.darkStops (hP.darkEnter h))
  exact iteK (fun _ => hP.raiseIn h) fun _ => iteK (fun _ => iteK (fun _ => hP.darkStops h) fun _ => iteK (fun _ =>
    hP.assertPath (hP.raiseIn h)) fun _ => hP.raiseIn h) fun _ => hP.core h1

theorem Lower.low : Low P := ⟨hP.base, fun _ _ h => hP.darkFault h⟩

theorem Lower.actInForce (h : P s) : P (Machine.actInForce s) := by
  unfold Machine.actInForce
  split
  · exact iteK (fun _ => hP.low.imageTake (hP.core h)) fun _ => h
  · exact h

theorem Lower.settleAct (h : P s) : P (Machine.settleAct s) := by
  unfold Machine.settleAct
  extract_lets s1
  have h1 : P s1 := hP.actInForce h
  split
  · exact iteK (fun _ => hP.low.complete (hP.core h1)) fun _ => h
  · exact h

theorem Lower.settleDark (h : P s) : P (Machine.settleDark s) := by
  unfold Machine.settleDark
  split
  · exact iteK (fun _ => foldlK (fun _ _ h1 => hP.low.complete h1) (hP.orderlyTo (.inr rfl) h)) fun _ => h
  · exact h

theorem Lower.settleHalt (h : P s) : P (Machine.settleHalt s) := by
  unfold Machine.settleHalt
  extract_lets
  exact iteK (fun _ => hP.low.settleStopped (hP.core h)) fun _ => h

theorem Lower.nvmWriteLens {w} (h : P s) : P (Machine.nvmWriteLens w s) := by
  unfold Machine.nvmWriteLens Machine.nvmBegin
  extract_lets _ s1
  have h1 : P s1 := hP.nvmProgram h
  rw [if_pos rfl]
  exact hP.setFld (hP.setFld (hP.core h1))

theorem Lower.lensRewriteNext (h : P s) : P (Machine.lensRewriteNext s) := by
  unfold Machine.lensRewriteNext
  refine iteK (fun _ => h) fun _ => ?_
  extract_lets 
  split
  · exact hP.core h
  · exact hP.nvmWriteLens (hP.core h)

theorem Lower.lensOpenWrite {c} (h : P s) : P (Machine.lensOpenWrite c s) := by
  unfold Machine.lensOpenWrite
  extract_lets _ _ s1
  have h1 : P s1 := hP.core h
  exact hP.nvmWriteLens h1

theorem Lower.lensDoneWrite {c} (h : P s) : P (Machine.lensDoneWrite c s) := by
  unfold Machine.lensDoneWrite
  extract_lets _ s1
  have h1 : P s1 := hP.core h
  exact hP.nvmWriteLens h1

theorem Lower.lensGoOn (h : P s) : P (Machine.lensGoOn s) := by
  unfold Machine.lensGoOn
  refine iteK (fun _ => h) fun _ => ?_
  extract_lets 
  split
  · exact hP.lensOpenWrite h
  · exact iteK (fun _ => h) fun _ => hP.lensDoneWrite h
  · exact h

theorem Lower.frameCounts (h : P s) : P (Machine.frameCounts s) := by
  unfold Machine.frameCounts
  extract_lets
  exact hP.core h

theorem Lower.lightIfReady (h : P s) : P (Machine.lightIfReady s) := by
  unfold Machine.lightIfReady
  extract_lets s1 s2
  refine iteK (fun hd => ?_) fun _ => h
  have hl : lamp s = .readyDark := by
    simp only [lightDue, Bool.and_eq_true, decide_eq_true_eq] at hd
    exact hd.1.1.2
  have hR : R := hP.wake h hl
  have h2 : P s2 := hP.lampTo (.inl hR) (hP.core (s := s1) (hP.frameCounts h))
  exact iteK (fun _ => hP.low.fixSteer h2) fun _ => hP.lampTo (.inl hR) h2

theorem Lower.setVrm {r v} (h : P s) : P (Machine.setVrm s r v) := hP.setFld h

theorem Lower.vrmAllOff (h : P s) : P (Machine.vrmAllOff s) := by
  unfold Machine.vrmAllOff
  refine Closed.forAll (fun _ s1 h1 => Closed.forAll (fun _ s1 h2 => ?_) h1) (hP.core h)
  extract_lets s2
  have h3 : P s2 := hP.low.emit h2
  exact iteK (fun _ => h3) fun _ => hP.setVrm h3

theorem Lower.vrmSettle (h : P s) : P (Machine.vrmSettle s) := iteK (fun _ => hP.vrmAllOff (hP.core h)) fun _ => h

theorem Lower.setTargets {a0 a1} (h : P s) : P (Machine.setTargets a0 a1 s) := by
  induction a1 generalizing a0 s with
  | nil =>
    rw [Machine.setTargets]
    exact h
  | cons x t ih =>
    rw [Machine.setTargets]
    exact ih (iteK (fun _ => h) fun _ => hP.setFld h (by simp only [lensTarget, firmReg]; lia))

theorem Lower.forceOne {c mode level} (h : P s) : P (Machine.forceOne c mode level s) := by
  unfold Machine.forceOne
  extract_lets s1 _ s2
  have h1 : P s1 := hP.setTargets h
  have h2 : P s2 := hP.core h1
  exact iteK (fun _ => hP.setCommon h2) fun _ => hP.nvmWriteLens h2

theorem Lower.forceNext {a0} (h : P s) : P (Machine.forceNext a0 s) := by
  induction a0 generalizing s with
  | zero =>
    rw [Machine.forceNext]
    exact h
  | succ k ih =>
    rw [Machine.forceNext]
    extract_lets
    split
    · exact h
    · extract_lets s1
      have h1 : P s1 := hP.core h
      exact ih (hP.forceOne h1)

theorem Lower.forceDone (h : P s) : P (Machine.forceDone s) := by
  unfold Machine.forceDone
  extract_lets s1
  have h1 : P s1 := hP.forceNext h
  split
  · exact iteK (fun _ => hP.low.complete (hP.core h1)) fun _ => h1
  · exact h1

theorem Lower.lensSettle (h : P s) : P (Machine.lensSettle s) :=
  iteK (fun _ => hP.lensRewriteNext (hP.forceDone (hP.lensGoOn h))) fun _ => h

theorem Lower.settleOnce (h : P s) : P (Machine.settleOnce s) :=
  hP.settleAct (hP.settleDark (hP.settleHalt (hP.lensSettle (hP.lightIfReady (hP.vrmSettle h)))))

theorem Lower.settleAll (h : P s) : P (Machine.settleAll s) := hP.settleOnce (hP.settleOnce h)

end

end Sys2Proof.Kept
end

section
/-! PROOFS. Reading and writing memory keep what settling leaves as it was, but for memory. -/

namespace Sys2Proof.Kept

set_option Elab.async false

open Machine

section

variable {R : Prop} {P : State → Prop} (hP : Mem R P) {s : State}
include hP

theorem Mem.setSat {f : Fld} {v : Nat} (h : P s) (ho : f.off ≠ Reg.GEN_STATE ∧ ¬ firmReg f.off := by simp only [firmReg] <;> lia) :
    P (setSat s f v) := hP.setFld h ho

theorem Mem.resetReg {o : Nat} (h : P s) (ho : o ≠ Reg.GEN_STATE ∧ ¬ firmReg o := by simp only [firmReg] <;> lia) :
    P (resetReg s o) := hP.setReg h ho

theorem Mem.setMem {m : Tbl Byte} {p : List Nat} (h : P s) (hm : tblWf 0#8 s.mem = true → tblWf 0#8 m = true)
    (hp : setWf s.poison = true → setWf p = true) : P { s with mem := m, poison := p } :=
  hP.stored hm hp h

theorem Mem.nvmGroupRead {reader grp} (h : P s) : P (Machine.nvmGroupRead reader grp s) := by
  unfold Machine.nvmGroupRead
  extract_lets s1 s2 _ s3 s4 s5
  have h1 : P s1 := hP.incSat h
  have h2 : P s2 := hP.setReg h1
  have h3 : P s3 := iteK (fun _ => hP.low.raise (hP.core h2)) fun _ => h2
  have h4 : P s4 := hP.incSat h
  have h5 : P s5 := hP.setReg h4
  split
  · exact h
  · exact iteK (fun _ => h3) fun _ => iteK (fun _ => hP.core h3) fun _ => hP.toLower.nvmWrite h3
  · exact hP.low.raiseErr h5

theorem Mem.nvmTouch {reader off n} (h : P s) : P (Machine.nvmTouch reader off n s) :=
  iteK (fun _ => h) fun _ => Closed.forAll (fun _ _ h1 => hP.nvmGroupRead h1) h

theorem Mem.recTouch {k} (h : P s) : P (Machine.recTouch k s) := hP.nvmTouch h

theorem Mem.fixBehind {c} (h : P s) : P (Machine.fixBehind c s) := hP.setSat h

theorem Mem.fixTable {c} (h : P s) : P (Machine.fixTable c s) := hP.setFld h

theorem Mem.eccLast {c addr kind p d} (h : P s) : P (Machine.eccLast c addr kind p d s) := hP.setReg h

theorem Mem.poisonReturned {c addr grp fresh_ p} (h : P s) : P (Machine.poisonReturned c addr grp fresh_ p s) := by
  unfold Machine.poisonReturned
  extract_lets s1 s2
  have h1 : P s1 := hP.incSat h
  have h2 : P s2 := iteK (fun _ => hP.eccLast h1) fun _ => h1
  exact iteK (fun _ => hP.low.raise (hP.core h2)) fun _ => h2

theorem Mem.setRankState {c p v} (h : P s) : P (Machine.setRankState s c p v) := hP.setFld h

theorem Mem.rankRecord {c} (h : P s) : P (Machine.rankRecord c s) := hP.toLower.nvmWrite h

theorem Mem.rankRetireEvent {c p cause} (h : P s) : P (Machine.rankRetireEvent c p cause s) := hP.low.raiseErr h

theorem Mem.startMigration {c p sp cause} (h : P s) : P (Machine.startMigration c p sp cause s) := by
  unfold Machine.startMigration
  extract_lets s1 s2 s3 _ s4
  have h1 : P s1 := hP.setRankState (hP.setRankState h)
  have h2 : P s2 := hP.setFld (hP.setFld (hP.setFld (hP.setFld h1)))
  have h3 : P s3 := hP.fixTable h2
  have h4 : P s4 := hP.core h3
  exact hP.rankRecord (hP.rankRetireEvent h4)

theorem Mem.memUe {addr len c p} (h : P s) : P (Machine.memUe addr len c p s) := hP.low.raiseErr h

theorem Mem.rankOffline {c p} (h : P s) : P (Machine.rankOffline c p s) := by
  unfold Machine.rankOffline
  extract_lets
  exact hP.rankRecord (hP.memUe (hP.setRankState h))

theorem Mem.endMigration {c keep} (h : P s) : P (Machine.endMigration c keep s) := by
  unfold Machine.endMigration
  extract_lets here _ s1
  have h0 : P { s with poison := if keep then s.poison else s.poison.filter fun l => !here.contains l } := by
    refine hP.setMem h id fun hp => ?_
    split
    · exact hp
    · exact setWf_filter _ hp
  have h1 : P s1 := hP.core (s := { s with poison := if keep then s.poison else s.poison.filter fun l => !here.contains l }) h0
  exact hP.fixTable (hP.setFld h1)

theorem Mem.retireTrigger {c p cause} (h : P s) : P (Machine.retireTrigger c p cause s) := by
  unfold Machine.retireTrigger
  extract_lets
  split
  · split
    · exact hP.startMigration h
    · exact hP.rankOffline h
  · exact hP.rankRecord (hP.rankRetireEvent (hP.setRankState h))
  · exact hP.rankRecord (hP.rankRetireEvent (hP.endMigration (hP.setRankState (hP.setRankState h))))
  · exact h

theorem Mem.autoTrigger {c p cause} (h : P s) : P (Machine.autoTrigger c p cause s) :=
  iteK (fun _ => hP.retireTrigger h) fun _ => h

omit hP in
/-- The rank that a line is served from is one of four. -/
theorem servingRank_lt (s : State) (pl : DramPlace) : servingRank s pl < 4 := by
  have hf : ∀ f : Fld, f.hi - f.lo = 1 → fld s f < 4 := fun f hf => by
    rw [fld, bitsOf, hf]
    exact Nat.mod_lt _ (by decide)
  unfold servingRank
  extract_lets p
  split
  · exact hf _ rfl
  · exact hf (Reg.DMC_RANKMAP_PRANK pl.ch pl.rank) (by simp)

theorem Mem.correctedError {c p d addr} (hp : p < 4 ∨ ∀ t v, P t → P (setReg t Reg.REEL_FETCH_STAT v)) (h : P s) : P (Machine.correctedError c p d addr s) := by
  unfold Machine.correctedError
  extract_lets _ _ _ s1 _ s2 s3 s4 s5
  have h1 : P s1 := hP.core h
  have h2 : P s2 := hP.core h1
  have hce : ∀ t v, P t → P (Machine.setReg t (Reg.DMC_ECC_CE c p) v) := fun t v ht => by
    by_cases he : Reg.DMC_ECC_CE c p = Reg.REEL_FETCH_STAT
    · rw [he]
      exact hp.resolve_left (fun hlt => by simp only [Reg.DMC_ECC_CE, Reg.REEL_FETCH_STAT] at he; omega) t v ht
    · exact hP.setReg ht ⟨by lia, by
        simp only [firmReg, Reg.DMC_ECC_CE, Reg.REEL_FETCH_STAT] at he ⊢
        omega⟩
  have h3 : P s3 := hce _ _ (hce _ _ h2)
  have h4 : P s4 := hP.eccLast (hce _ _ h3)
  have h5 : P s5 := hP.low.raise h4
  exact iteK (fun _ => hP.autoTrigger h5) fun _ => h5

theorem Mem.clearErrs {line} (h : P s) : P (Machine.clearErrs line s) := by
  unfold Machine.clearErrs
  extract_lets
  exact hP.core h

theorem Mem.lineRewrite {line b} (h : P s) : P (Machine.lineRewrite line b s) :=
  hP.clearErrs (hP.setMem h (tblWf_setRun _ _) id)

theorem Mem.uncorrectable {c p addr} (h : P s) : P (Machine.uncorrectable c p addr s) := by
  unfold Machine.uncorrectable
  extract_lets s1
  have h1 : P s1 := hP.eccLast (hP.incSat h)
  exact hP.autoTrigger (hP.memUe h1)

theorem Mem.setPoison {line} (h : P s) : P (Machine.setPoison line s) := hP.setMem h id (setWf_insert line)

theorem Mem.poisonLine {p line} (h : P s) : P (Machine.poisonLine p line s) := by
  unfold Machine.poisonLine
  extract_lets _ _ s1
  have h1 : P s1 := iteK (fun _ => hP.core h) fun _ => h
  exact hP.setPoison (hP.clearErrs h1)

theorem Mem.eccEffects {c p line bad} (hp : p < 4 ∨ ∀ t v, P t → P (setReg t Reg.REEL_FETCH_STAT v)) (h : P s) : P (Machine.eccEffects c p line bad s) := by
  unfold Machine.eccEffects
  extract_lets v1 s1
  have h1 : P s1 := iteK (fun _ => hP.core h) fun _ => h
  clear_value v1
  split
  · exact h1
  · exact hP.correctedError hp (hP.lineRewrite h1)
  · exact h1
  · exact hP.correctedError hp (hP.clearErrs h1)
  · exact hP.uncorrectable (hP.poisonLine h1)

theorem Mem.lineDecode {grp line bad} (h : P s) : P (Machine.lineDecode grp line bad s).1 := by
  unfold Machine.lineDecode
  extract_lets _ _ s1
  have h1 : P s1 := hP.eccEffects (.inl (servingRank_lt _ _)) h
  refine iteF (fun _ => hP.poisonReturned h) fun _ => ?_
  extract_lets 
  split
  · exact h1
  · exact hP.poisonReturned h1
  · exact hP.poisonReturned h1

theorem Mem.setBank {i b} (h : P s) : P (Machine.setBank i b s) := by
  unfold Machine.setBank
  extract_lets
  exact hP.core h

theorem Mem.sampleRow {c rank bank row} (h : P s) : P (Machine.sampleRow c rank bank row s) := by
  unfold Machine.sampleRow
  extract_lets
  exact hP.core h

theorem Mem.hammerActivate {c rank bank row} (h : P s) : P (Machine.hammerActivate c rank bank row s) := by
  unfold Machine.hammerActivate
  extract_lets _ _ _ _ s1 s2
  have h1 : P s1 := hP.core h
  have h2 : P s2 := hP.incSat h1
  exact iteK (fun _ => iteK (fun _ => h2) fun _ => hP.low.raise (hP.core h2)) fun _ => hP.core h

theorem Mem.activate {c rank bank row} (h : P s) : P (Machine.activate c rank bank row s) := by
  unfold Machine.activate
  extract_lets s1
  have h1 : P s1 := hP.sampleRow h
  exact iteK (fun _ => hP.hammerActivate h1) fun _ => h1

theorem Mem.bankOpenRow {c rank bank row} (h : P s) : P (Machine.bankOpenRow c rank bank row s) := by
  unfold Machine.bankOpenRow
  extract_lets
  exact hP.setBank (iteK (fun _ => h) fun _ => hP.activate h)

theorem Mem.setDebt {c unit v} (h : P s) : P (Machine.setDebt c unit v s) := by
  unfold Machine.setDebt
  extract_lets
  exact hP.fixBehind (hP.core h)

theorem Mem.refreshIdle {c unit} (h : P s) : P (Machine.refreshIdle c unit s) := iteK (fun _ => hP.setDebt h) fun _ => h

theorem Mem.bankAccess {c rank bank row} (h : P s) : P (Machine.bankAccess c rank bank row s) := by
  unfold Machine.bankAccess
  extract_lets s1
  have h1 : P s1 := hP.bankOpenRow h
  exact iteK (fun _ => hP.refreshIdle (hP.setBank h1)) fun _ => h1

theorem Mem.lineRead {grp line bad} (h : P s) : P (Machine.lineRead grp line bad s).1 := by
  unfold Machine.lineRead
  extract_lets _ s1
  have h1 : P s1 := hP.core h
  exact iteF (fun _ => hP.incSat h) fun _ => hP.lineDecode (hP.bankAccess h1)

theorem Mem.provisionalTake (h : P s) : P (Machine.provisionalTake s) := by
  unfold Machine.provisionalTake
  extract_lets s1 _ s2 s3 s4 s5 s6 s7 s8 s9
  have h1 : P s1 := hP.low.rmapAcross h
  have h2 : P s2 := hP.core h1
  have h3 : P s3 := hP.low.memmapTake (hP.low.rasterTake (hP.low.wicksTake (hP.low.railsTake h2)))
  have h4 : P s4 := hP.low.timeTake h3
  have h5 : P s5 := forAll_keeps P _ _ (fun i hi _ h5 => hP.resetReg h5 ⟨by lia, by
    have := List.mem_range.1 hi
    simp only [firmReg, Reg.HOST_ROUTE, Reg.REEL_FETCH_STAT]
    omega⟩) s4 h4
  have h6 : P s6 := hP.low.setFlds h5
  have h7 : P s7 := hP.low.setRegs h6
  have h8 : P s8 := Closed.forAll (fun _ _ h8 => hP.setReg (hP.setReg h8)) h7
  have h9 : P s9 := Closed.forAll (fun _ _ h9 => hP.resetReg h9) h8
  exact hP.low.fixLeases (hP.low.agingCalc h9)

theorem Mem.linesRead {grp a1 a2} (h : P s) : P (Machine.linesRead grp a1 a2 s).1 := by
  induction a1 generalizing a2 s with
  | zero =>
    rw [Machine.linesRead]
    exact h
  | succ k ih =>
    rw [Machine.linesRead]
    exact ih (hP.lineRead h)

theorem Mem.memRead {grp a n} (h : P s) : P (Machine.memRead grp a n s).1 := by
  unfold Machine.memRead
  extract_lets p1
  have h1 : P p1.1 := hP.linesRead h
  exact h1

theorem Mem.mergeSource {line} (h : P s) : P (Machine.mergeSource line s) := by
  unfold Machine.mergeSource
  extract_lets _ s1
  have h1 : P s1 := hP.eccEffects (.inl (servingRank_lt _ _)) h
  split
  · exact iteK (fun _ => h1) fun _ => hP.lineRewrite h1
  · exact h1

theorem Mem.clearPoison {line} (h : P s) : P (Machine.clearPoison line s) := hP.setMem h id (setWf_erase line)

theorem Mem.injectWrite {c line} (h : P s) : P (Machine.injectWrite c line s) := by
  unfold Machine.injectWrite
  extract_lets _ s1
  have h1 : P s1 := iteK (fun _ => hP.setPoison h) fun _ => hP.clearPoison h
  exact iteK (fun _ => hP.setFld (hP.core h1)) fun _ => h

theorem Mem.lineStore {line o data poison} (h : P s) : P (Machine.lineStore line o data poison s) := by
  unfold Machine.lineStore
  extract_lets pl full s1 s2 s3 s4 _ s5
  have h1 : P s1 := iteK (fun _ => h) fun _ => hP.mergeSource h
  have h2 : P s2 := hP.setMem h1 (tblWf_setRun _ _) id
  have h3 : P s3 := hP.clearErrs h2
  have h4 : P s4 := iteK (fun _ => hP.setPoison h3) fun _ => iteK (fun _ => hP.clearPoison h3) fun _ => h3
  have h5 : P s5 := iteK (fun _ => hP.core h4) fun _ => h4
  exact iteK (fun _ => h) fun _ => hP.injectWrite h5

theorem Mem.writeAccess {pl full} (h : P s) : P (Machine.writeAccess pl full s) := by
  unfold Machine.writeAccess
  extract_lets _ s1 s2
  have h1 : P s1 := iteK (fun _ => h) fun _ => hP.bankOpenRow h
  have h2 : P s2 := hP.bankAccess h1
  exact iteK (fun _ => hP.bankAccess h2) fun _ => h2

theorem Mem.lineWrite {line o data poison} (h : P s) : P (Machine.lineWrite line o data poison s) := by
  unfold Machine.lineWrite
  extract_lets _ s1
  have h1 : P s1 := hP.core h
  exact iteK (fun _ => hP.incSat h) fun _ => hP.lineStore (hP.writeAccess h1)

theorem Mem.rejectWrite {grp a n} (h : P s) : P (Machine.rejectWrite s grp a n) := by
  unfold Machine.rejectWrite
  split
  · exact h
  · exact hP.incSat h
  · exact hP.incSat h

theorem Mem.clientLines {grp poison a2 a3 a4} (h : P s) : P (Machine.clientLines grp poison a2 a3 a4 s) := by
  induction a2 generalizing a3 a4 s with
  | zero =>
    rw [Machine.clientLines]
    exact h
  | succ k ih =>
    rw [Machine.clientLines]
    exact ih (iteK (fun _ => hP.lineWrite h) fun _ => hP.rejectWrite h)

theorem Mem.clientWrite {grp a data poison} (h : P s) : P (Machine.clientWrite grp a data poison s) := hP.clientLines h

theorem Mem.nvmCopy {a0 a1 a2 a3} (h : P s) : P (Machine.nvmCopy a0 a1 a2 a3 s) := by
  induction a0 generalizing a1 a2 a3 s with
  | zero =>
    rw [Machine.nvmCopy]
    exact h
  | succ k ih =>
    rw [Machine.nvmCopy]
    extract_lets
    exact iteK (fun _ => h) fun _ => ih (hP.clientWrite h)

end

/-! ### What every operation keeps, these keep -/

section

variable {R : Prop} {P : State → Prop} (hP : Closed R P)
include hP

theorem Closed.lower : Lower R P :=
  ⟨fun h => hP.still h.canonical h.lamp h.followUps h.orderly h.held, fun h hl => hP.awake h (.inl hl), hP.lampTo, hP.orderlyTo, hP.joined⟩

theorem Closed.low : Low P := hP.lower.low

theorem Closed.mem : Mem R P := ⟨hP.lower, fun hm hp h => hP.setMem h hm hp⟩

end

end Sys2Proof.Kept
end

section
/-! PROOFS. The operations of the commands keep what the primitive moves keep, each by the lemmas of the functions it calls, in the order of
their definitions. -/

namespace Sys2Proof.Kept

set_option Elab.async false

open Machine

section

variable {R : Prop} {P : State → Prop} (hP : Closed R P) {s : State}
include hP

theorem Closed.fresh (h : P s) : P (Machine.fresh s) := hP.core h

theorem Closed.pboRun {dt} (h : P s) : P (Machine.pboRun dt s) := by
  unfold Machine.pboRun
  extract_lets
  exact iteK (fun _ => h) fun _ => hP.setSFld (hP.core h)

theorem Closed.runBases {dt} (h : P s) : P (Whole.runBases dt s) := by
  unfold Whole.runBases
  extract_lets s1 s2
  have h1 : P s1 := hP.low.setFull (hP.low.setFull (hP.low.setFull h))
  have h2 : P s2 := iteK (fun _ => h1) fun _ => hP.low.setFull h1
  exact iteK (fun _ => hP.low.fixTb3 h2) fun _ => hP.low.fixTb3 (hP.low.setHandD (hP.core h2))

theorem Closed.timeRun {dt} (h : P s) : P (Machine.timeRun dt s) := hP.runBases (hP.core (hP.pboRun h))

theorem Closed.idle (h : P s) : P (Machine.idle s) := by
  unfold Machine.idle
  extract_lets s1
  have h1 : P s1 := hP.fresh h
  exact iteK (fun _ => hP.core h1) fun _ => hP.timeRun h1

theorem Closed.ringError {r cause} (h : P s) : P (Machine.ringError r cause s) := by
  unfold Machine.ringError
  extract_lets s1
  have h1 : P s1 := hP.setFld (hP.setFld (hP.setFld h))
  exact hP.low.raiseErr h1

theorem Closed.setRing {r x} (h : P s) : P (Machine.setRing s r x) := hP.core h

theorem Closed.setFlds {l : List (Fld × Nat)} (h : P s) (hl : ∀ x ∈ l, x.1.off ≠ Reg.GEN_STATE := by simp +decide) :
    P (Machine.setFlds l s) := by
  induction l generalizing s with
  | nil => exact h
  | cons x l ih => exact ih (hP.setFld h (hl x (by simp))) fun y hy => hl y (by simp [hy])

theorem Closed.setRegs {l : List (Nat × Nat)} (h : P s) (hl : ∀ x ∈ l, x.1 ≠ Reg.GEN_STATE := by simp +decide) :
    P (Machine.setRegs l s) := by
  induction l generalizing s with
  | nil => exact h
  | cons x l ih => exact ih (hP.setReg h (hl x (by simp))) fun y hy => hl y (by simp [hy])

omit hP in
theorem clockRegs_ne (b : Bytes) (p : Nat) : ∀ x ∈ clockRegs b p, x.1 ≠ Reg.GEN_STATE := by
  unfold clockRegs
  grind

theorem Closed.powerOff (hR : R) (h : P s) : P (Machine.powerOff s) := hP.unpowered hR h

theorem Closed.drew (h : P s) : P (Machine.drew s) := hP.core h

theorem Closed.startStep {n} (h : P s) : P (Machine.startStep n s) := hP.setFld h

theorem Closed.setLevel {i v} (h : P s) : P (Machine.setLevel s i v) := hP.setFld h

theorem Closed.loadIdentity (h : P s) : P (Machine.loadIdentity s) := by
  unfold Machine.loadIdentity
  extract_lets s1
  have h1 : P s1 := hP.mem.nvmTouch h
  exact hP.setFld (hP.setFld h1)

theorem Closed.tornScan {lens} (h : P s) : P (Machine.tornScan lens s) := by
  unfold Machine.tornScan
  extract_lets
  split
  · exact hP.mem.nvmTouch h
  · extract_lets _ s1 _ _ _ _ s2
    have h1 : P s1 := hP.setFld h
    have h2 : P s2 := hP.setReg h1
    exact hP.mem.nvmTouch (iteK (fun _ => hP.low.raiseErr h2) fun _ => h1)

theorem Closed.tornScans (h : P s) : P (Machine.tornScans s) := by
  unfold Machine.tornScans
  extract_lets s1
  have h1 : P s1 := hP.core h
  exact hP.tornScan (hP.tornScan (hP.setFld h1))

theorem Closed.loadCandle (h : P s) : P (Machine.loadCandle s) := by
  unfold Machine.loadCandle
  extract_lets s1
  have h1 : P s1 := hP.mem.nvmTouch h
  exact hP.core h1

theorem Closed.loadActRecord (h : P s) : P (Machine.loadActRecord s) := by
  unfold Machine.loadActRecord
  extract_lets s1
  have h1 : P s1 := hP.mem.recTouch h
  split
  · extract_lets s2
    have h2 : P s2 := hP.setReg h1
    exact iteK (fun _ => hP.setReg h2) fun _ => hP.setReg (hP.setReg h1)
  · exact hP.setReg (hP.setReg h1)

theorem Closed.loadPin (h : P s) : P (Machine.loadPin s) := by
  unfold Machine.loadPin
  extract_lets s1
  have h1 : P s1 := hP.mem.recTouch h
  exact hP.setFld h1

theorem Closed.setAbs {i vmin vmax imax} (h : P s) : P (Machine.setAbs i vmin vmax imax s) := hP.setReg h

theorem Closed.loadRailAbs (h : P s) : P (Machine.loadRailAbs s) := by
  unfold Machine.loadRailAbs
  extract_lets s1
  have h1 : P s1 := hP.mem.recTouch h
  refine Closed.forAll (fun _ s2 h2 => ?_) h1
  extract_lets
  exact iteK (fun _ => hP.setAbs h2) fun _ => hP.setAbs h2

theorem Closed.loadProtection (h : P s) : P (Machine.loadProtection s) := by
  unfold Machine.loadProtection
  extract_lets s1
  have h1 : P s1 := hP.mem.recTouch h
  exact hP.setFld (hP.setFld h1)

theorem Closed.loadKey {k} (h : P s) : P (Machine.loadKey k s) := by
  unfold Machine.loadKey
  extract_lets s1 s2
  have h1 : P s1 := hP.mem.recTouch h
  have h2 : P s2 := hP.mem.nvmTouch h1
  split
  · extract_lets _ s3 s4
    have h3 : P s3 := hP.core h2
    have h4 : P s4 := hP.setFld (hP.setFld h3)
    exact iteK (fun _ => hP.setFld (hP.setFld h4)) fun _ => hP.core h2
  · exact hP.core h2

theorem Closed.loadKeys (h : P s) : P (Machine.loadKeys s) := Closed.forAll (fun _ _ h1 => hP.loadKey h1) h

theorem Closed.loadFaultRing (h : P s) : P (Machine.loadFaultRing s) := by
  unfold Machine.loadFaultRing
  extract_lets
  split
  · exact h
  · extract_lets _ s1
    have h1 : P s1 := hP.setFld (hP.core h)
    exact iteK (fun _ => h1) fun _ => hP.setRegs h1

theorem Closed.loadLog (h : P s) : P (Machine.loadLog s) := by
  unfold Machine.loadLog
  extract_lets s1 _ s2
  have h1 : P s1 := hP.mem.nvmTouch h
  have h2 : P s2 := hP.setFlds h1
  split
  · extract_lets
    exact iteK (fun _ => hP.setFld (hP.core h2)) fun _ => hP.core h2
  · exact hP.core h2

theorem Closed.loadStore (h : P s) : P (Machine.loadStore s) := by
  unfold Machine.loadStore
  extract_lets s1 s2 s3
  have h1 : P s1 := hP.loadIdentity (hP.tornScans h)
  have h2 : P s2 := hP.setSFld h1
  have h3 : P s3 := hP.loadCandle (hP.loadActRecord (hP.loadPin (hP.loadRailAbs (hP.loadProtection (hP.loadKeys h2)))))
  exact hP.loadFaultRing (hP.loadLog h3)

theorem Closed.coldStart (h : P s) : P (Machine.coldStart s) := by
  unfold Machine.coldStart
  extract_lets s1 s2 s3 s4 s5
  refine iteK (fun _ => h) fun ho => ?_
  have hR : R := hP.wake h (not_not.1 ho)
  have h2 : P s2 := hP.setFld (hP.drew (hP.powerOff hR h))
  have h3 : P s3 := hP.startStep (hP.lampTo (.inl hR) (hP.core h2))
  have h5 : P s5 := hP.loadStore (hP.setLevel (hP.setLevel (hP.setLevel h3)))
  exact iteK (fun _ => h5) fun _ => hP.lower.assertPath h5

theorem Closed.bltAbort (h : P s) : P (Machine.bltAbort s) := by
  unfold Machine.bltAbort
  extract_lets
  exact hP.setReg (hP.core h)

theorem Closed.hleAbort (h : P s) : P (Machine.hleAbort s) := by
  unfold Machine.hleAbort
  extract_lets s1
  have h1 : P s1 := Closed.forAll (fun _ _ h1 => iteK (fun _ => hP.setReg (hP.low.setPipe h1)) fun _ => h1) h
  exact hP.core h1

theorem Closed.uniFree (h : P s) : P (Machine.uniFree s) := by
  unfold Machine.uniFree
  extract_lets
  split
  · exact hP.low.fixWaits (hP.low.setPipe (hP.core h))
  · exact hP.low.fixWaits h

theorem Closed.ringRegsReset (h : P s) : P (Machine.ringRegsReset s) := by
  refine Closed.forAll (fun r s1 h1 => ?_) h
  exact hP.resetReg (hP.resetReg (hP.resetReg (hP.resetReg (hP.resetReg (hP.resetReg (hP.resetReg h1))))))

theorem Closed.endSession (h : P s) : P (Machine.endSession s) := hP.setFld h

theorem Closed.hostClear (h : P s) : P (Machine.hostClear s) := by
  unfold Machine.hostClear
  extract_lets s1
  have h1 : P s1 := hP.core h
  exact hP.endSession (hP.setReg (hP.setReg h1))

theorem Closed.marksAsLast (h : P s) : P (Machine.marksAsLast s) :=
  Closed.forAll (fun _ _ h1 => iteK (fun _ => hP.setFld h1) fun _ => h1) h

theorem Closed.chainReset (h : P s) : P (Machine.chainReset s) := hP.setReg (hP.setReg (hP.setReg (hP.core h)))

theorem Closed.timeReset (h : P s) : P (Machine.timeReset s) := by
  unfold Machine.timeReset
  extract_lets _ s1 s2
  have h1 : P s1 := hP.core h
  have h2 : P s2 := Closed.forAll (fun _ _ h2 => hP.low.setTbState (hP.setReg (hP.setReg h2))) h1
  exact iteK (fun _ => hP.low.fixTb3 h2) fun _ => hP.low.setTbState h2

theorem Closed.reelStop (h : P s) : P (Machine.reelStop s) := by
  unfold Machine.reelStop
  extract_lets _ s1 _ s2 s3
  have h1 : P s1 := hP.low.setNc (hP.core h)
  have h2 : P s2 := hP.core h1
  have h3 : P s3 := hP.setFlds h2
  exact hP.low.reelCheck (hP.core h3)

theorem Closed.setDpll {r} (h : P s) : P (Machine.setDpll r s) := by
  unfold Machine.setDpll
  extract_lets _ s1 s2
  have h1 : P s1 := hP.setReg h
  have h2 : P s2 := Closed.forAll (fun _ _ h2 => hP.setFld (hP.setFld h2)) h1
  exact hP.low.pllForce (hP.setFld (hP.setFld h2))

theorem Closed.fixGo (h : P s) : P (Machine.fixGo s) := hP.setFld h

theorem Closed.trainStep {v} (h : P s) : P (Machine.trainStep v s) := Closed.forAll (fun _ _ h1 => hP.setFld h1) h

theorem Closed.fixTags {i} (h : P s) : P (Machine.fixTags i s) := by
  unfold Machine.fixTags
  extract_lets
  exact hP.setPeak (hP.setFld h)

theorem Closed.dramReset (h : P s) : P (Machine.dramReset s) := by
  unfold Machine.dramReset
  extract_lets s1 _ s2 s3
  have h1 : P s1 := iteK (fun _ => hP.setDpll h) fun _ => h
  have h2 : P s2 := hP.core h1
  have h3 : P s3 := Closed.forAll (fun _ _ h3 => hP.mem.fixBehind h3) (hP.setFld h2)
  exact hP.fixGo (hP.trainStep (Closed.forAll (fun _ _ h4 => hP.fixTags h4) h3))

theorem Closed.fixTables (h : P s) : P (Machine.fixTables s) := Closed.forAll (fun _ _ h1 => hP.mem.fixTable h1) h

theorem Closed.lensFault {cause c out} (hc : 2 ≤ cause ∧ cause ≤ 4) (h : P s) : P (Machine.lensFault cause c out s) :=
  hP.low.raiseErr (hP.incSat h) (joins_lens c hc)

theorem Closed.lensAbort (h : P s) : P (Machine.lensAbort s) := by
  unfold Machine.lensAbort
  split
  · exact hP.lensFault (by decide) (hP.lower.lensStop h)
  · exact hP.lower.lensGiveUp h
  · exact hP.lower.lensGiveUp h
  · exact h

theorem Closed.lensReset (h : P s) : P (Machine.lensReset s) := by
  unfold Machine.lensReset
  extract_lets s1
  have h1 : P s1 := hP.lensAbort h
  exact hP.core h1

theorem Closed.lensBlockEnd {w ok} (h : P s) : P (Machine.lensBlockEnd w ok s) := by
  unfold Machine.lensBlockEnd
  extract_lets s1 _ s2 s3
  have h1 : P s1 := iteK (fun _ => hP.lower.nvmProgram h) fun _ => h
  have h2 : P s2 := hP.lower.nvmProgram h1
  have h3 : P s3 := hP.incSat h2
  exact hP.setFld (hP.core h3)

theorem Closed.lensWriteFailed {c st} (h : P s) : P (Machine.lensWriteFailed c st s) :=
  hP.lensFault (by decide) (hP.core (hP.lower.setCommon h))

theorem Closed.lensDriveNow {c k} (h : P s) : P (Machine.lensDriveNow c k s) := by
  unfold Machine.lensDriveNow
  extract_lets
  exact hP.low.emit (hP.core h)

theorem Closed.waveStart {c} (h : P s) : P (Machine.waveStart c s) := by
  unfold Machine.waveStart
  extract_lets
  exact hP.setFld (hP.lensDriveNow (hP.core h))

theorem Closed.lensOpened {c ok} (h : P s) : P (Machine.lensOpened c ok s) := by
  unfold Machine.lensOpened
  extract_lets
  exact iteK (fun _ => h) fun _ => iteK (fun _ => hP.lensWriteFailed h) fun _ => iteK (fun _ =>
    hP.lower.setCommon (hP.core h)) fun _ => hP.waveStart (hP.setFld (hP.setFld h))

theorem Closed.recordLevels {c ls} (h : P s) : P (Machine.recordLevels c ls s).1 := by
  unfold Machine.recordLevels
  extract_lets
  exact foldlK (fun _ _ h1 => hP.setFld h1 (lensLevel_ne _)) h

theorem Closed.optPending {c} (h : P s) : P (Machine.optPending c s) :=
  Closed.forAll (fun _ _ h1 => hP.setFld (hP.core h1)) h

theorem Closed.lensRecorded {c band ls} (h : P s) : P (Machine.lensRecorded c band ls s) := by
  unfold Machine.lensRecorded
  extract_lets p1
  have h1 : P p1.1 := hP.recordLevels h
  exact hP.low.raise (hP.optPending h1)

theorem Closed.lensUpdated {c} (h : P s) : P (Machine.lensUpdated c s) := by
  unfold Machine.lensUpdated
  extract_lets
  exact hP.core h

theorem Closed.lensClosed {c ok} (h : P s) : P (Machine.lensClosed c ok s) := by
  unfold Machine.lensClosed
  extract_lets _ _ s1
  have h1 : P s1 := hP.core h
  exact iteK (fun _ => h) fun _ => iteK (fun _ => hP.lensWriteFailed h) fun _ => hP.lower.settle (hP.lensRecorded (hP.lensUpdated h1))

theorem Closed.lensDeclared {c level ok} (h : P s) : P (Machine.lensDeclared c level ok s) :=
  iteK (fun _ => hP.lensFault (by decide) (hP.lower.setCommon h)) fun _ => hP.lower.settle (hP.lensRecorded h)

theorem Closed.lensBlockDone {ok} (h : P s) : P (Machine.lensBlockDone ok s) := by
  unfold Machine.lensBlockDone
  split
  · exact h
  · extract_lets s1
    have h1 : P s1 := hP.lensBlockEnd h
    split
    · exact hP.lensOpened h1
    · exact hP.lensClosed h1
    · exact hP.lensDeclared h1
    · exact iteK (fun _ => hP.incSat h1) fun _ => h1
    · exact h1

theorem Closed.mainBlockEnd {w ok} (h : P s) : P (Machine.mainBlockEnd w ok s) := by
  unfold Machine.mainBlockEnd
  extract_lets s1 _ s2 s3
  have h1 : P s1 := iteK (fun _ => hP.lower.nvmProgram h) fun _ => h
  have h2 : P s2 := hP.lower.nvmProgram h1
  have h3 : P s3 := hP.incSat (hP.core h2)
  exact hP.setFld (hP.setFld h3)

theorem Closed.patrolWrite {w ok} (h : P s) : P (Machine.patrolWrite w ok s) := by
  unfold Machine.patrolWrite
  extract_lets _ s1
  have h1 : P s1 := hP.mainBlockEnd h
  exact iteK (fun _ => hP.mainBlockEnd h) fun _ => iteK (fun _ => hP.incSat h1) fun _ => h1

theorem Closed.nvmComplete {j st value page} (h : P s) : P (Machine.nvmComplete j st value page s) := by
  unfold Machine.nvmComplete
  extract_lets _ s1 s2
  have h1 : P s1 := iteK (fun _ => hP.low.raise h) fun _ => h
  have h2 : P s2 := iteK (fun _ => hP.low.raise h1) fun _ => h1
  exact hP.low.complete h2

theorem Closed.bcastRefuse {h' st} (h : P s) : P (Machine.bcastRefuse h' st s) := by
  unfold Machine.bcastRefuse
  extract_lets _ s1
  have h1 : P s1 := hP.low.complete h
  split
  · exact hP.low.complete h1
  · exact h1

theorem Closed.bcastStoreFail {k} (h : P s) : P (Machine.bcastStoreFail k s) := by
  unfold Machine.bcastStoreFail
  extract_lets _ _ _ s1
  have h1 : P s1 := hP.core h
  exact foldlK (fun _ _ h2 => hP.bcastRefuse h2) h1

theorem Closed.completeRefused {j d st} (h : P s) : P (Machine.completeRefused j d st s) := by
  unfold Machine.completeRefused
  extract_lets s1
  have h1 : P s1 := iteK (fun _ => hP.low.raise h) fun _ => h
  exact hP.low.complete h1

theorem Closed.popTaken {r} (h : P s) : P (Machine.popTaken r s) := by
  unfold Machine.popTaken
  extract_lets
  exact hP.setRing h

theorem Closed.markFailed {k} (h : P s) : P (Machine.markFailed k s) := by
  unfold Machine.markFailed
  refine Closed.forAll (fun _ s1 h1 => ?_) (hP.setFld h)
  extract_lets 
  split
  · extract_lets
    exact hP.completeRefused (hP.popTaken h1)
  · exact h1

theorem Closed.setToff {d} (h : P s) : P (Machine.setToff d s) := by
  unfold Machine.setToff
  extract_lets
  exact hP.setReg h

theorem Closed.enterPlaying (h : P s) : P (Machine.enterPlaying s) := hP.low.lowNow (hP.low.reelCheck (hP.setFld h))

theorem Closed.reelMove {d still} (h : P s) : P (Machine.reelMove d still s) := by
  unfold Machine.reelMove
  extract_lets s1 _ s2
  have h1 : P s1 := hP.low.setNc h
  have h2 : P s2 := hP.core h1
  exact hP.low.setCursor (hP.setToff h2)

theorem Closed.upNext (h : P s) : P (Machine.upNext s) := by
  unfold Machine.upNext
  extract_lets s1
  have h1 : P s1 := iteK (fun _ => hP.lower.railSeqDone h) fun _ => h
  split
  · exact hP.low.setRail h
  · exact iteK (fun _ => hP.lower.railsDown h1) fun _ => hP.lower.lightIfReady h1

theorem Closed.railsUp {lcd emit_} (h : P s) : P (Machine.railsUp lcd emit_ s) := by
  unfold Machine.railsUp
  extract_lets s1 s2
  have h1 : P s1 := hP.setFld h
  have h2 : P s2 := hP.core h1
  exact iteK (fun _ => hP.low.setRail h2) fun _ => iteK (fun _ => hP.upNext h2) fun _ => hP.lower.lightIfReady h

theorem Closed.playLights (h : P s) : P (Machine.playLights s) := by
  unfold Machine.playLights
  extract_lets s1
  have h1 : P s1 := hP.core h
  exact iteK (fun _ => iteK (fun _ => hP.railsUp h1) fun _ => h1) fun _ => h

theorem Closed.playRun {j d} (h : P s) : P (Machine.playRun j d s) := by
  unfold Machine.playRun
  extract_lets _ _ s1 _ s2 s3
  have h1 : P s1 := hP.setToff h
  have h2 : P s2 := hP.setFld h
  have h3 : P s3 := iteK (fun _ => hP.enterPlaying (hP.core h1)) fun _ => hP.enterPlaying (hP.reelMove h2)
  exact iteK (fun _ => hP.low.complete h) fun _ => iteK (fun _ => hP.low.complete h) fun _ => iteK (fun _ => hP.low.complete h) fun _ =>
    hP.low.complete (hP.playLights h3)

theorem Closed.pauseReel (h : P s) : P (Machine.pauseReel s) := by
  unfold Machine.pauseReel
  extract_lets
  exact iteK (fun _ => hP.setFld (hP.core h)) fun _ => h

theorem Closed.seekRun {j d} (h : P s) : P (Machine.seekRun j d s) := by
  unfold Machine.seekRun
  extract_lets _ s1
  have h1 : P s1 := hP.reelMove h
  exact iteK (fun _ => hP.low.complete h) fun _ => iteK (fun _ => hP.low.complete h) fun _ => hP.low.complete (iteK (fun _ =>
    hP.enterPlaying h1) fun _ => h1)

theorem Closed.budgetRun {c t trigger gen} (h : P s) : P (Machine.budgetRun c t trigger gen s).1 := by
  unfold Machine.budgetRun
  extract_lets _ s1 s2 s3 s4 s5
  have h1 : P s1 := hP.setReg h
  have h2 : P s2 := hP.setFld h1
  have h3 : P s3 := hP.setFld h2
  have h4 : P s4 := hP.setFld h3
  have h5 : P s5 := hP.setFld h4
  exact iteF (fun _ => h1) fun _ => hP.setFld h5

theorem Closed.commitCheck {t gen} (h : P s) : P (Machine.commitCheck t gen s).1 := by
  unfold Machine.commitCheck
  extract_lets
  exact iteF (fun _ => h) fun _ => iteF (fun _ => hP.budgetRun h) fun _ => h

theorem Closed.optArm (h : P s) : P (Machine.optArm s) := by
  unfold Machine.optArm
  extract_lets
  exact hP.core h

theorem Closed.commitRun {j _d} (h : P s) : P (Machine.commitRun j _d s) := by
  unfold Machine.commitRun
  extract_lets _ _ p1 s1 _ s2 s3
  have h1 : P p1.1 := hP.commitCheck h
  have h2 : P s1 := by
    unfold s1
    split
    · exact hP.low.complete h1
    · exact h1
  have h3 : P s2 := hP.optArm (hP.core h2)
  have h4 : P s3 := hP.low.fixLeases (hP.setFld (hP.setFld h3))
  exact iteK (fun _ => hP.low.complete h) fun _ => iteK (fun _ => hP.low.complete (hP.low.raise h1)) fun _ => iteK (fun _ => h4) fun _ =>
    hP.low.quadsFresh (hP.low.commitFollow (hP.low.commitTake h4))

theorem Closed.witnessSetRun {j d} (h : P s) : P (Machine.witnessSetRun j d s) := by
  unfold Machine.witnessSetRun
  extract_lets
  exact iteK (fun _ => hP.low.complete h) fun _ => iteK (fun _ => hP.low.complete h) fun _ => iteK (fun _ => hP.core h) fun _ =>
    hP.low.witTake h

theorem Closed.goDarkRun {j d} (h : P s) : P (Machine.goDarkRun j d s) := by
  unfold Machine.goDarkRun
  split
  · next hl =>
    have hR : R := hP.awake h (.inl fun hd => by simp [hd] at hl)
    split
    · exact hP.orderlyTo (.inl hR) h
    · exact hP.orderlyTo (.inl hR) h
  · exact hP.low.complete h

theorem Closed.releasePaths (h : P s) : P (Machine.releasePaths s) := by
  unfold Machine.releasePaths
  extract_lets
  exact Closed.forAll (fun _ _ h1 => hP.lower.setHold h1) h

theorem Closed.sendTrain {g i verify} (h : P s) : P (Machine.sendTrain g i verify s) := by
  unfold Machine.sendTrain
  refine iteK (fun _ => h) fun _ => ?_
  extract_lets 
  split
  · exact hP.low.emit h
  · exact hP.low.emit h

theorem Closed.sendTrains {g verify} (h : P s) : P (Machine.sendTrains g verify s) :=
  Closed.forAll (fun _ _ h1 => hP.sendTrain h1) h

theorem Closed.groupTrains {g} (h : P s) : P (Machine.groupTrains g s) :=
  iteK (fun _ => Closed.forAll (fun _ _ h1 => iteK (fun _ => hP.sendTrain h1) fun _ => h1) h) fun _ => hP.sendTrains h

theorem Closed.presetApply {g} (h : P s) : P (Machine.presetApply g s) := by
  unfold Machine.presetApply
  extract_lets
  exact iteK (fun _ => hP.setFld (hP.core h)) fun _ => h

theorem Closed.trainsResume (h : P s) : P (Machine.trainsResume s) :=
  Closed.forAll (fun _ _ h1 => iteK (fun _ => h1) fun _ => hP.groupTrains (hP.presetApply h1)) h

theorem Closed.fixWick {n} (h : P s) : P (Machine.fixWick n s) := iteK (fun _ => hP.setFld h) fun _ => h

theorem Closed.fixWicks (h : P s) : P (Machine.fixWicks s) := Closed.forAll (fun _ _ h1 => hP.fixWick h1) h

theorem Closed.snuffReleased (h : P s) : P (Machine.snuffReleased s) := by
  unfold Machine.snuffReleased
  extract_lets s1 s2
  have h1 : P s1 := hP.low.raise h
  have h2 : P s2 := iteK (fun hl => hP.low.fixSteer (hP.lampTo (.inl (hP.wake h1 hl)) h1)) fun _ => h1
  exact hP.trainsResume (hP.fixWicks h2)

theorem Closed.snuffRelease {j} (h : P s) : P (Machine.snuffRelease j s) := by
  unfold Machine.snuffRelease
  extract_lets _ s1
  have h1 : P s1 := hP.releasePaths h
  exact iteK (fun _ => hP.low.complete h) fun _ => iteK (fun _ => hP.low.complete (hP.snuffReleased h1)) fun _ =>
    hP.low.complete (iteK (fun _ => h1) fun _ => hP.lower.sendBlank h1)

theorem Closed.keyNextWrite {p} (h : P s) : P (Machine.keyNextWrite p s) :=
  iteK (fun _ => hP.lower.nvmWrite h) fun _ => iteK (fun _ => hP.lower.nvmWrite h) fun _ => hP.lower.nvmWrite h

theorem Closed.startKey {p} (h : P s) : P (Machine.startKey p s) := hP.keyNextWrite (hP.setFld (hP.core h))

theorem Closed.keyRotateRun {j d} (h : P s) : P (Machine.keyRotateRun j d s) := by
  unfold Machine.keyRotateRun
  extract_lets
  exact iteK (fun _ => hP.low.complete h) fun _ => hP.startKey h

theorem Closed.targetsChanged (h : P s) : P (Machine.targetsChanged s) :=
  Closed.forAll (fun _ _ h1 => iteK (fun _ => hP.lower.settle h1) fun _ => h1) h

theorem Closed.bcastWait {h'} (h : P s) : P (Machine.bcastWait h' s) := by
  unfold Machine.bcastWait
  extract_lets
  exact hP.core h

theorem Closed.startMark {k m} (h : P s) : P (Machine.startMark k m s) := by
  unfold Machine.startMark
  extract_lets _ s1
  have h1 : P s1 := hP.setFld h
  exact iteK (fun _ => hP.lower.nvmWrite h1) fun _ => hP.lower.nvmWrite h1

theorem Closed.authFail {r d st} (h : P s) : P (Machine.authFail r d st s) := by
  unfold Machine.authFail
  extract_lets s1 s2
  have h1 : P s1 := hP.incSat h
  have h2 : P s2 := hP.setFld (hP.setFld (hP.setFld h1))
  exact hP.low.raise h2

theorem Closed.outerDone {h'} (h : P s) : P (Machine.outerDone h' s) := by
  unfold Machine.outerDone
  split
  · exact hP.low.complete h
  · exact h

theorem Closed.acceptCounter {d} (h : P s) : P (Machine.acceptCounter d s) := iteK (fun _ => hP.setFld h) fun _ => h

theorem Closed.markDone {k m} (h : P s) : P (Machine.markDone k m s) := by
  unfold Machine.markDone
  extract_lets s1
  have h1 : P s1 := hP.setFld (hP.setFld h)
  refine Closed.forAll (fun _ s2 h2 => ?_) h1
  extract_lets
  split
  · exact hP.acceptCounter (hP.setRing h2)
  · exact h2

theorem Closed.dropKeyPend {k} (h : P s) : P (Machine.dropKeyPend k s) := hP.core h

theorem Closed.keyFailed {k} (h : P s) : P (Machine.keyFailed k s) := by
  unfold Machine.keyFailed
  split
  · exact h
  · exact hP.low.complete (hP.setFld (hP.dropKeyPend h))

theorem Closed.keyDone {k} (h : P s) : P (Machine.keyDone k s) := by
  unfold Machine.keyDone
  extract_lets s1
  have h1 : P s1 := hP.dropKeyPend h
  split
  · exact h
  · extract_lets s2 s3 s4
    have h2 : P s2 := hP.core h1
    have h3 : P s3 := hP.setFld (hP.setFld (hP.setFld h2))
    have h4 : P s4 := hP.setFld (hP.setFld h3)
    exact hP.low.complete h4

theorem Closed.actFailed (h : P s) : P (Machine.actFailed s) := by
  unfold Machine.actFailed
  split
  · exact hP.low.complete (hP.core h)
  · exact h

theorem Closed.startRails (h : P s) : P (Machine.startRails s) :=
  iteK (fun _ => h) fun _ => iteK (fun _ => hP.railsUp h) fun _ => iteK (fun _ => hP.railsUp h) fun _ => h

theorem Closed.begin9 (h : P s) : P (Machine.begin9 s) := hP.startRails (hP.startStep h)

theorem Closed.loadOptical (h : P s) : P (Machine.loadOptical s) := by
  unfold Machine.loadOptical
  extract_lets s1
  have h1 : P s1 := hP.core h
  exact iteK (fun _ => Closed.forAll (fun _ _ h2 => hP.setFld (hP.setFld h2)) h1) fun _ =>
    Closed.forAll (fun _ _ h2 => hP.setReg h2) h1

theorem Closed.begin8 (h : P s) : P (Machine.begin8 s) := by
  unfold Machine.begin8
  extract_lets s1 s2
  have h1 : P s1 := hP.lensAbort (hP.startStep h)
  have h2 : P s2 := hP.core h1
  exact iteK (fun _ => hP.startRails h2) fun _ => hP.begin9 (hP.loadOptical (hP.core h2))

theorem Closed.memTrain {cause c rank step} (h : P s) : P (Machine.memTrain cause c rank step s) := by
  unfold Machine.memTrain
  extract_lets
  exact iteK (fun _ => hP.low.raiseErr h) fun _ => hP.low.raise h

theorem Closed.bankClose {i} (h : P s) : P (Machine.bankClose i s) := by
  unfold Machine.bankClose
  extract_lets
  exact iteK (fun _ => h) fun _ => hP.core h

theorem Closed.freqStart {r} (h : P s) : P (Machine.freqStart r s) := by
  unfold Machine.freqStart
  extract_lets _ s1 s2
  have h1 : P s1 := Closed.forAll (fun _ _ h1 => hP.bankClose h1) (hP.core h)
  have h2 : P s2 := Closed.forAll (fun _ _ h2 => hP.mem.fixBehind h2) h1
  exact iteK (fun _ => hP.fixGo (hP.memTrain h)) fun _ => hP.fixGo (hP.trainStep (hP.low.relock (hP.setDpll h2)))

theorem Closed.freqGo {r} (h : P s) : P (Machine.freqGo r s) := by
  unfold Machine.freqGo
  extract_lets s1
  have h1 : P s1 := hP.setFld h
  exact iteK (fun _ => hP.fixGo (hP.setFld (hP.core h1))) fun _ => hP.freqStart h1

theorem Closed.actRails (h : P s) : P (Machine.actRails s) := by
  unfold Machine.actRails
  split
  · extract_lets s1
    have h1 : P s1 := hP.low.imageTake (hP.core h)
    exact iteK (fun _ => iteK (fun _ => hP.lower.railsDown h) fun _ => hP.begin8 (iteK (fun _ => h1) fun _ => hP.freqGo h1)) fun _ => h
  · exact h

theorem Closed.fixTrain {g} (h : P s) : P (Machine.fixTrain g s) := by
  unfold Machine.fixTrain
  extract_lets s1
  have h1 : P s1 := hP.setFld h
  exact iteK (fun _ => h) fun _ => iteK (fun _ => hP.setFld h1) fun _ => h1

theorem Closed.setGroup {g v} (h : P s) : P (Machine.setGroup s g v) := by
  unfold Machine.setGroup
  extract_lets _ _ _ s1
  have h1 : P s1 := hP.core h
  exact hP.fixTrain (hP.setFld (hP.setFld h1))

theorem Closed.fixOuts {g} (h : P s) : P (Machine.fixOuts g s) := by
  unfold Machine.fixOuts
  refine Closed.forAll (fun _ s1 h1 => ?_) h
  extract_lets
  exact hP.setFld (hP.setFld h1)

theorem Closed.groupsDown (h : P s) : P (Machine.groupsDown s) := by
  unfold Machine.groupsDown
  extract_lets s1
  have h1 : P s1 := by
    refine Closed.forAll (fun _ s2 h1 => ?_) h
    extract_lets s3 s4
    have h2 : P s3 := hP.setGroup h1
    have h3 : P s4 := hP.setFld (hP.setFld h2)
    exact Closed.forAll (fun _ _ h4 => hP.setFld h4) (hP.fixOuts h3)
  exact hP.core h1

theorem Closed.actBegin (h : P s) : P (Machine.actBegin s) := by
  unfold Machine.actBegin
  split
  · exact h
  · next a ha =>
    extract_lets s1
    refine iteK (fun _ => hP.low.complete (hP.core h)) fun hn => ?_
    have hR : R := hP.awake h (.inl fun hd => hn (by simp [actAllowed, hd]))
    exact hP.actRails (hP.reelStop (hP.groupsDown (hP.setFld (hP.lampTo (.inl hR) (hP.core h)))))

theorem Closed.actStore (h : P s) : P (Machine.actStore s) := by
  unfold Machine.actStore
  split
  · exact h
  · exact iteK (fun _ => foldlK (fun _ _ h1 => hP.lower.nvmWrite h1) h) fun _ => iteK (fun _ => hP.lower.nvmWrite h) fun _ => hP.actBegin h

theorem Closed.actWritten {record ok} (h : P s) : P (Machine.actWritten record ok s) := by
  unfold Machine.actWritten
  split
  · exact h
  · extract_lets s1
    have h1 : P s1 := hP.core h
    exact iteK (fun _ => hP.actFailed (hP.lower.nvmFixQueue (hP.core h))) fun _ => iteK (fun _ =>
      hP.actBegin (hP.loadActRecord h)) fun _ => iteK (fun _ => hP.actStore h1) fun _ => h1

theorem Closed.protectQueue (h : P s) : P (Machine.protectQueue s) := by
  unfold Machine.protectQueue
  extract_lets
  refine foldlK (fun s1 _ h1 => ?_) (hP.lower.nvmFixQueue (hP.core h))
  extract_lets 
  split
  · exact hP.nvmComplete h1
  · exact hP.actWritten h1
  · exact h1

theorem Closed.storeDone {j ok} (h : P s) : P (Machine.storeDone j ok s) := hP.low.complete h

theorem Closed.fixOffer (h : P s) : P (Machine.fixOffer s) := hP.setFld h

theorem Closed.takeOffer {offer rehead} (h : P s) : P (Machine.takeOffer offer rehead s) := by
  unfold Machine.takeOffer
  extract_lets _ s1 s2 _ s3
  have h1 : P s1 := hP.setFld h
  have h2 : P s2 := hP.fixOffer (hP.setFld h1)
  have h3 : P s3 := hP.low.raise (hP.core h2)
  exact iteK (fun _ => iteK (fun _ => h3) fun _ => hP.low.raise h3) fun _ => iteK (fun _ => h2) fun _ => hP.low.raise (hP.core h2)

theorem Closed.pinChanged {v} (h : P s) : P (Machine.pinChanged v s) := by
  unfold Machine.pinChanged
  extract_lets s1
  have h1 : P s1 := hP.setFld h
  exact iteK (fun _ => hP.takeOffer h1) fun _ => h1

theorem Closed.patchWritten {j p left ok} (h : P s) : P (Machine.patchWritten j p left ok s) := by
  unfold Machine.patchWritten
  extract_lets
  exact iteK (fun _ => iteK (fun _ => h) fun _ => hP.storeDone (hP.lower.nvmFixQueue (hP.core h))) fun _ => iteK (fun _ => h) fun _ =>
    hP.storeDone (hP.core h)

theorem Closed.fixUpdate (h : P s) : P (Machine.fixUpdate s) := iteK (fun _ => hP.setFld h) fun _ => h

theorem Closed.snapPageDone {ok} (h : P s) : P (Machine.snapPageDone ok s) := by
  unfold Machine.snapPageDone
  extract_lets
  split
  · exact h
  · extract_lets _ s1
    have h1 : P s1 := hP.fixUpdate (hP.core h)
    exact iteK (fun _ => hP.core h) fun _ => iteK (fun _ => hP.fixUpdate (hP.core h)) fun _ => hP.setFld (hP.setFld h1)

theorem Closed.requeue {w} (h : P s) : P (Machine.requeue w s) := by
  unfold Machine.requeue
  extract_lets
  exact hP.core h

theorem Closed.railsReset (h : P s) : P (Machine.railsReset s) := by
  unfold Machine.railsReset
  extract_lets s1
  have h1 : P s1 := Closed.forAll (fun _ _ h1 => hP.low.setRail h1) h
  exact hP.lower.railActs (hP.setFld (hP.core h1))

theorem Closed.pathsAgain (h : P s) : P (Machine.pathsAgain s) := by
  unfold Machine.pathsAgain
  extract_lets s1 s2 s3
  have h1 : P s1 := iteK (fun _ => h) fun _ => hP.lower.assertPath h
  have h2 : P s2 := iteK (fun _ => h1) fun _ => hP.lower.assertPath h1
  have h3 : P s3 := iteK (fun _ => hP.lower.assertPath h2) fun _ => h2
  exact iteK (fun _ => hP.lower.assertPath h3) fun _ => h3

theorem Closed.loseGroup {g} (h : P s) : P (Machine.loseGroup g s) := hP.setNvm h id (tblWf_set g 2)

theorem Closed.tearWrite {lens w} (h : P s) : P (Machine.tearWrite lens w s) := by
  unfold Machine.tearWrite
  extract_lets _ _ _ _ _ s1 s2
  have h1 : P s1 := hP.drew h
  have h2 : P s2 := hP.lower.nvmProgram h1
  exact iteK (fun _ => iteK (fun _ => hP.loseGroup h2) fun _ => h2) fun _ => iteK (fun _ => hP.lower.nvmProgram h1) fun _ =>
    iteK (fun _ => hP.loseGroup h1) fun _ => iteK (fun _ => hP.loseGroup (hP.lower.nvmProgram h1)) fun _ =>
      hP.lower.nvmProgram (hP.lower.nvmProgram h1)

theorem Closed.tearPresent {lens w} (h : P s) : P (Machine.tearPresent lens w s) := by
  unfold Machine.tearPresent
  extract_lets _ s1
  have h1 : P s1 := hP.tearWrite h
  exact iteK (fun _ => hP.tearWrite h) fun _ => iteK (fun _ => hP.loseGroup h1) fun _ => h1

theorem Closed.logVinWarn (h : P s) : P (Machine.logVinWarn s) := by
  unfold Machine.logVinWarn
  extract_lets s1
  have h1 : P s1 := hP.lower.logCount h
  exact hP.core h1

theorem Closed.candleLost (h : P s) : P (Machine.candleLost s) := by
  unfold Machine.candleLost
  extract_lets
  exact hP.core h

theorem Closed.lensGround (h : P s) : P (Machine.lensGround s) := by
  unfold Machine.lensGround
  extract_lets
  exact iteK (fun _ => h) fun _ => hP.low.emit (hP.core h)

theorem Closed.startTimed (h : P s) : P (Machine.startTimed s) := iteK (fun _ => h) fun _ => hP.setSat h

theorem Closed.railFaultLamp (h : P s) : P (Machine.railFaultLamp s) := by
  refine iteK (fun hr => ?_) fun _ => iteK (fun _ => hP.setFld (hP.core h)) fun _ => h
  have hl : lamp s = .housekeeping := by
    simp only [startRuns, Bool.and_eq_true, decide_eq_true_eq] at hr
    exact hr.1.1.1
  exact hP.startTimed (hP.setFld (hP.setFld (hP.lampTo (.inl (hP.wake h hl)) h)))

theorem Closed.orderlyAbort (h : P s) : P (Machine.orderlyAbort s) := by
  unfold Machine.orderlyAbort
  split
  · exact h
  · extract_lets s1
    have h1 : P s1 := iteK (fun hl => hP.lampTo (.inl (hP.wake h hl)) h) fun _ => h
    exact foldlK (fun _ _ h2 => hP.low.complete h2) (hP.orderlyTo (.inr rfl) h1)

theorem Closed.flushWrite (h : P s) : P (Machine.flushWrite s) := by
  unfold Machine.flushWrite
  extract_lets
  exact hP.lower.nvmWrite (hP.core h)

theorem Closed.markDiscard {k} (h : P s) : P (Machine.markDiscard k s) :=
  iteK (fun _ => hP.markFailed h) fun _ => Closed.forAll (fun _ _ h1 => hP.popTaken h1) (hP.setFld h)

theorem Closed.keyDiscard {k} (h : P s) : P (Machine.keyDiscard k s) :=
  iteK (fun _ => hP.keyFailed h) fun _ => hP.setFld (hP.dropKeyPend h)

theorem Closed.discardJob {j st} (h : P s) : P (Machine.discardJob j st s) := iteK (fun _ => hP.low.complete h) fun _ => h

theorem Closed.actDiscard (h : P s) : P (Machine.actDiscard s) := iteK (fun _ => hP.actFailed h) fun _ => hP.core h

theorem Closed.nvmDiscard {w} (h : P s) : P (Machine.nvmDiscard s w) := by
  unfold Machine.nvmDiscard
  split
  · exact iteK (fun _ => hP.nvmComplete h) fun _ => h
  · exact hP.markDiscard h
  · exact hP.markDiscard h
  · exact hP.keyDiscard h
  · exact hP.keyDiscard h
  · exact hP.discardJob h
  · exact hP.discardJob h
  · exact hP.discardJob h
  · exact iteK (fun _ => hP.discardJob h) fun _ => h
  · exact hP.actDiscard h
  · exact hP.actDiscard h
  · exact h

theorem Closed.nvmDiscardAll (h : P s) : P (Machine.nvmDiscardAll s) := by
  unfold Machine.nvmDiscardAll
  extract_lets _ _ s1
  have h1 : P s1 := hP.fixUpdate (hP.lower.nvmFixQueue (hP.core h))
  exact foldlK (fun _ _ h2 => hP.nvmDiscard h2) h1

theorem Closed.pllStart {p} (h : P s) : P (Machine.pllStart p s) := by
  refine hP.low.relock ?_
  split
  · exact iteK (fun _ => h) fun _ => hP.low.pllForce (hP.setRegs h (clockRegs_ne _ p))
  · exact Closed.forAll (fun _ _ h1 => hP.core h1) h

theorem Closed.begin3 (h : P s) : P (Machine.begin3 s) := Closed.forAll (fun _ _ h1 => hP.pllStart h1) (hP.startStep h)

theorem Closed.bootPatches (h : P s) : P (Machine.bootPatches s) := by
  unfold Machine.bootPatches
  extract_lets s1
  have h1 : P s1 := by
    refine Closed.forAll (fun _ s2 h1 => ?_) h
    extract_lets 
    split
    · exact hP.mem.nvmTouch h1
    · exact h1
  exact hP.setFld (hP.setFld h1)

theorem Closed.setInput {i q} (h : P s) : P (Machine.setInput s i q) := hP.core h

theorem Closed.resetNHigh (h : P s) : P (Machine.resetNHigh s) := by
  unfold Machine.resetNHigh
  extract_lets
  exact hP.setLevel (hP.setInput h)

theorem Closed.uniRestart {n} (h : P s) : P (Machine.uniRestart n s) := by
  unfold Machine.uniRestart
  extract_lets
  split
  · extract_lets
    exact hP.core h
  · exact h

theorem Closed.startAttempt {g} (h : P s) : P (Machine.startAttempt g s) := by
  unfold Machine.startAttempt
  extract_lets _ _ s1 s2 s3 s4 s5 s6
  have h1 : P s1 := hP.core h
  have h2 : P s2 := hP.setGroup h1
  have h3 : P s3 := hP.setSat h2
  have h4 : P s4 := iteK (fun _ => h3) fun _ => hP.setFld h3
  have h5 : P s5 := hP.setFld (hP.setFld h4)
  have h6 : P s6 := Closed.forAll (fun _ _ h6 => hP.fixWick (hP.setFld h6)) (hP.fixOuts h5)
  exact hP.sendTrains h6

theorem Closed.startTraining {g} (h : P s) : P (Machine.startTraining g s) := by
  unfold Machine.startTraining
  extract_lets s1
  have h1 : P s1 := Closed.forAll (fun _ _ h1 => hP.uniRestart h1) h
  exact iteK (fun _ => hP.startAttempt (hP.setFld h1)) fun _ => h

theorem Closed.chainEmit {p lanes type payload data} (h : P s) : P (Machine.chainEmit p lanes type payload data s) := by
  unfold Machine.chainEmit
  extract_lets
  exact iteK (fun _ => h) fun _ => hP.low.emit h

theorem Closed.sendCtrain {p lanes} (h : P s) : P (Machine.sendCtrain p lanes s) :=
  Closed.forAll (fun _ _ h1 => hP.chainEmit h1) h

theorem Closed.setPort {p x} (h : P s) : P (Machine.setPort s p x) := by
  unfold Machine.setPort
  extract_lets
  exact hP.core h

theorem Closed.portTrain {p} (h : P s) : P (Machine.portTrain p s) := hP.sendCtrain (hP.setFld (hP.setReg (hP.setPort h)))

theorem Closed.chainLanesBack (h : P s) : P (Machine.chainLanesBack s) :=
  iteK (fun _ => Closed.forAll (fun _ _ h1 => hP.sendCtrain h1) h) fun _ => h

theorem Closed.pllLocked {p} (h : P s) : P (Machine.pllLocked p s) := by
  unfold Machine.pllLocked
  extract_lets s1 s2 _ s3
  have h1 : P s1 := hP.setFld (hP.setFld h)
  have h2 : P s2 := hP.low.raise (hP.setFld h1)
  have h3 : P s3 := hP.core h2
  exact iteK (fun _ => iteK (fun _ => Closed.forAll (fun _ _ h4 => iteK (fun _ => h4) fun _ => hP.startTraining h4) h3) fun _ =>
    Closed.forAll (fun _ _ h4 => iteK (fun _ => h4) fun _ => hP.portTrain h4) h3) fun _ => iteK (fun _ =>
      Closed.forAll (fun _ _ h4 => hP.groupTrains h4) h2) fun _ => iteK (fun _ => hP.chainLanesBack h2) fun _ => h2

theorem Closed.raiseFatal {blk idx src cause cs why path} (h : P s)
    (hj : Joins blk idx src cause := by exact joins_other _ _ _ (by decide)) :
    P (Machine.raiseFatal blk idx src cause cs why path s) := hP.low.followUp (hP.lower.darkFault h) hj

theorem Closed.pllTimeout {p} (h : P s) : P (Machine.pllTimeout p s) := by
  unfold Machine.pllTimeout
  extract_lets _ s1
  have h1 : P s1 := hP.core h
  exact iteK (fun _ => h) fun _ => iteK (fun _ => hP.raiseFatal h1) fun _ => hP.low.raiseErr h1

theorem Closed.refsPresent (h : P s) : P (Machine.refsPresent s) := Closed.forAll (fun _ _ h1 => hP.setFld h1) h

theorem Closed.vrmTouch (h : P s) : P (Machine.vrmTouch s) := by
  unfold Machine.vrmTouch
  extract_lets s1
  have h1 : P s1 := hP.mem.recTouch h
  exact iteK (fun _ => h1) fun _ => hP.mem.nvmTouch h1

theorem Closed.vrmStart {r} (h : P s) : P (Machine.vrmStart r s) := by
  unfold Machine.vrmStart
  extract_lets _ _ _ s1 s2
  have h1 : P s1 := hP.low.emit (hP.low.emit h)
  have h2 : P s2 := hP.low.emit (hP.low.emit h1)
  exact hP.lower.setVrm (hP.low.emit (hP.low.emit h2))

theorem Closed.vrmNext (h : P s) : P (Machine.vrmNext s) := by
  unfold Machine.vrmNext
  refine iteK (fun _ => h) fun _ => ?_
  extract_lets 
  split
  · exact h
  · exact Closed.forAll (fun _ _ h1 => hP.vrmStart h1) h

theorem Closed.vrmBegin (h : P s) : P (Machine.vrmBegin s) := by
  unfold Machine.vrmBegin
  extract_lets s1 s2
  have h1 : P s1 := hP.vrmTouch h
  have h2 : P s2 := hP.core h1
  exact hP.vrmNext (Closed.forAll (fun _ _ h3 => hP.lower.setVrm h3) h2)

theorem Closed.begin4 (h : P s) : P (Machine.begin4 s) := by
  unfold Machine.begin4
  extract_lets s1
  have h1 : P s1 := hP.startStep h
  exact iteK (fun _ => h1) fun _ => hP.vrmBegin h1

theorem Closed.end3 {locked} (h : P s) : P (Machine.end3 locked s) := by
  unfold Machine.end3
  extract_lets s1 s2
  have h1 : P s1 := Closed.forAll (fun _ _ h1 => iteK (fun _ => hP.pllLocked h1) fun _ => hP.pllTimeout h1) h
  have h2 : P s2 := hP.refsPresent h1
  exact iteK (fun _ => hP.begin4 h2) fun _ => h2

theorem Closed.vrmFail {r cause status} (h : P s) : P (Machine.vrmFail r cause status s) := by
  unfold Machine.vrmFail
  extract_lets s1
  have h1 : P s1 := hP.setFld (hP.lower.setVrm h)
  exact hP.raiseFatal (hP.core h1)

theorem Closed.structReject {r source trigger} (h : P s) : P (Machine.structReject r source trigger s) := by
  unfold Machine.structReject
  extract_lets _ s1
  have h1 : P s1 := hP.setReg (hP.setReg h)
  exact hP.low.raiseErr h1

theorem Closed.startReject {r src} (h : P s) : P (Machine.startReject r src s) := hP.structReject (hP.setFld (hP.core h))

theorem Closed.trainBegin (h : P s) : P (Machine.trainBegin s) := by
  unfold Machine.trainBegin
  extract_lets
  exact iteK (fun _ => h) fun _ => hP.trainStep (hP.core h)

theorem Closed.dramDead (h : P s) : P (Machine.dramDead s) := hP.raiseFatal (hP.trainStep h)

theorem Closed.popRegs (h : P s) : P (Machine.popRegs s) := by
  unfold Machine.popRegs
  split
  · exact h
  · exact Closed.forAll (fun _ _ h1 => hP.setFlds h1 (by grind)) (hP.setFlds h)

theorem Closed.rankBlank {c r} (h : P s) : P (Machine.rankBlank c r s) := by
  unfold Machine.rankBlank
  extract_lets here
  exact hP.core (hP.setMem (s := s) h (tblWf_filter fun x => !here (x.1 / 64)) (setWf_filter fun l => !here l))

theorem Closed.rankReplace {c p v} (h : P s) : P (Machine.rankReplace c p v s) := by
  unfold Machine.rankReplace
  split
  · exact hP.rankBlank (hP.setFld (hP.mem.setRankState (hP.mem.setRankState h)))
  · exact hP.mem.setRankState h

theorem Closed.rankSetup {spare c} (h : P s) : P (Machine.rankSetup spare c s) := by
  unfold Machine.rankSetup
  split
  · exact h
  · extract_lets use s1 s2 s3
    have h1 : P s1 := Closed.forAll (fun _ _ h1 => hP.setFlds (hP.mem.setRankState h1) (by grind)) h
    have h2 : P s2 := hP.mem.recTouch (hP.setFlds h1 (by grind))
    have h3 : P s3 := Closed.forAll (fun _ _ h3 => iteK (fun _ => hP.rankReplace h3) fun _ => iteK (fun _ => hP.mem.setRankState h3)
      fun _ => iteK (fun _ => hP.rankReplace h3) fun _ => h3) h2
    exact iteK (fun _ => hP.mem.rankRecord h3) fun _ => h3

theorem Closed.spareTake {spare} (h : P s) : P (Machine.spareTake spare s) := by
  unfold Machine.spareTake
  extract_lets _ s1
  have h1 : P s1 := hP.popRegs (hP.core h)
  exact Closed.forAll (fun _ _ h2 => hP.rankSetup h2) h1

theorem Closed.spdEvents {p} (h : P s) : P (Machine.spdEvents p s) := foldlK (fun _ _ h1 => hP.memTrain h1) h

theorem Closed.rateTake {r} (h : P s) : P (Machine.rateTake r s) := by
  unfold Machine.rateTake
  extract_lets _ s1
  have h1 : P s1 := hP.setDpll (hP.setFld h)
  exact iteK (fun _ => h1) fun _ => hP.pllLocked (hP.low.relock h1)

theorem Closed.dramSetUp {info q} (h : P s) : P (Machine.dramSetUp info q s) := by
  unfold Machine.dramSetUp
  extract_lets _ _ s1 _ s2 s3
  have h1 : P s1 := hP.core h
  have h2 : P s2 := iteK (fun _ => h1) fun _ => hP.spareTake h1
  have h3 : P s3 := iteK (fun _ => h2) fun _ => hP.spdEvents h2
  exact hP.rateTake h3

theorem Closed.trainFailed {c p step} (h : P s) : P (Machine.trainFailed c p step s) := by
  unfold Machine.trainFailed
  extract_lets s1
  have h1 : P s1 := hP.setFld (hP.setFld h)
  exact iteK (fun _ => hP.mem.rankRecord (hP.mem.rankRetireEvent (hP.rankReplace h1))) fun _ => iteK (fun _ => h1) fun _ =>
    hP.mem.retireTrigger (hP.memTrain h1)

theorem Closed.freqHeldNow (h : P s) : P (Machine.freqHeldNow s) := by
  unfold Machine.freqHeldNow
  extract_lets
  split
  · exact h
  · exact hP.freqStart (hP.setFld (hP.core h))

theorem Closed.freqDone {r} (h : P s) : P (Machine.freqDone r s) := by
  unfold Machine.freqDone
  extract_lets _ s1
  have h1 : P s1 := hP.trainStep (hP.core h)
  exact hP.fixGo (hP.memTrain (hP.setFld h1))

theorem Closed.trained (h : P s) : P (Machine.trained s) := by
  unfold Machine.trained
  split
  · exact hP.freqDone h
  · exact hP.trainStep h

theorem Closed.toProvisional (h : P s) : P (Machine.toProvisional s) := by
  unfold Machine.toProvisional
  extract_lets s1 s2
  have h1 : P s1 := iteK (fun _ => hP.spareTake h) fun _ => h
  have h2 : P s2 := hP.mem.provisionalTake (hP.rateTake h1)
  exact iteK (fun _ => h2) fun hd => hP.startTimed (hP.lampTo (.inl (hP.awake h2 (.inl hd))) (hP.setFld h2))

theorem Closed.checkBudget {b} (h : P s) : P (Machine.checkBudget b s).1 := by
  unfold Machine.checkBudget
  extract_lets p1
  have h1 : P p1.1 := hP.budgetRun h
  exact h1

theorem Closed.validateFrom14 {b} (h : P s) : P (Machine.validateFrom14 b s).1 := by
  unfold Machine.validateFrom14
  split
  · exact h
  · exact hP.checkBudget h

theorem Closed.imageStart (h : P s) : P (Machine.imageStart s) := by
  unfold Machine.imageStart
  split
  · exact hP.toProvisional h
  · extract_lets s1 p1 s2 s3
    have h1 : P s1 := iteK (fun _ => hP.memTrain h) fun _ => h
    have h2 : P p1.1 := hP.validateFrom14 h1
    have h3 : P s2 := h2
    have h4 : P s3 := hP.low.imageTake (hP.core h3)
    split
    · exact hP.toProvisional (hP.startReject h2)
    · exact iteK (fun _ => h4) fun _ => hP.begin8 h4

theorem Closed.end7 {info} (h : P s) : P (Machine.end7 info s) := by
  unfold Machine.end7
  extract_lets _ _ s1 _ s2 _ s3 s4
  have h1 : P s1 := iteK (fun _ => h) fun _ => hP.dramSetUp h
  have h2 : P s2 := foldlK (fun _ _ h2 => hP.trainFailed h2) h1
  have h3 : P s3 := hP.freqHeldNow h2
  have h4 : P s4 := hP.trained h3
  exact iteK (fun _ => hP.dramDead h) fun _ => iteK (fun _ => h) fun _ => iteK (fun _ => h3) fun _ => iteK (fun _ =>
    hP.dramDead h4) fun _ => iteK (fun _ => h4) fun _ => hP.imageStart h4

theorem Closed.lensBandTake {temps} (h : P s) : P (Machine.lensBandTake temps s) := by
  unfold Machine.lensBandTake
  extract_lets _ _ _ _ s1
  have h1 : P s1 := hP.setSFld (hP.setFld (hP.core h))
  exact iteK (fun _ => hP.core h) fun _ => iteK (fun _ => h1) fun _ => hP.low.raise h1

theorem Closed.lensResetDrive {c band whole} (h : P s) : P (Machine.lensResetDrive c band whole s) := by
  unfold Machine.lensResetDrive
  extract_lets
  exact foldlK (fun _ _ h1 => hP.low.emit h1) (hP.core h)

theorem Closed.railNote {i} (h : P s) : P (Machine.railNote i s) := hP.incSat (hP.setFld h)

theorem Closed.railFault {i kind v} (h : P s) : P (Machine.railFault i kind v s) := by
  unfold Machine.railFault
  extract_lets s1 s2 s3
  have h1 : P s1 := hP.railNote h
  have h2 : P s2 := hP.lower.railsDown (hP.core h1)
  have h3 : P s3 := hP.low.raiseErr h2
  exact iteK (fun _ => h1) fun _ => hP.railFaultLamp (hP.lower.assertPath (hP.lensAbort h3))

theorem Closed.wlnTrain (h : P s) : P (Machine.wlnTrain s) := Closed.forAll (fun _ _ h1 => hP.startTraining h1) h

theorem Closed.begin10 (h : P s) : P (Machine.begin10 s) := hP.wlnTrain (hP.startStep h)

theorem Closed.end9 {fail} (h : P s) : P (Machine.end9 fail s) := by
  unfold Machine.end9
  split
  · exact iteK (fun _ => hP.railFault h) fun _ => h
  · exact iteK (fun _ => hP.begin10 h) fun _ => h

theorem Closed.chainAgain (h : P s) : P (Machine.chainAgain s) := by
  unfold Machine.chainAgain
  extract_lets
  exact hP.core h

theorem Closed.cmpFire {late n} (h : P s) : P (Machine.cmpFire late n s) := by
  unfold Machine.cmpFire
  extract_lets _ _ s1 s2 s3 s4
  have h1 : P s1 := hP.incSat h
  have h2 : P s2 := iteK (fun _ => hP.setFld h1) fun _ => h1
  have h3 : P s3 := iteK (fun _ => hP.low.emit h2) fun _ => h2
  have h4 : P s4 := iteK (fun _ => hP.setReg h3) fun _ => hP.setFld h3
  exact hP.low.raise h4

theorem Closed.inputFault {i cause} (h : P s) : P (Machine.inputFault i cause s) := by
  unfold Machine.inputFault
  extract_lets _ _ s1
  have h1 : P s1 := hP.setFld (hP.setInput h)
  exact iteK (fun _ => h) fun _ => hP.low.raiseErr h1

theorem Closed.begin13 (hR : R) (h : P s) : P (Machine.begin13 s) := by
  unfold Machine.begin13
  extract_lets s1 _ s2
  have h1 : P s1 := hP.startTimed (hP.lampTo (.inl hR) (hP.startStep h))
  have h2 : P s2 := hP.fixTables (hP.core h1)
  exact hP.low.raise h2

theorem Closed.ringClear {r} (h : P s) : P (Machine.ringClear r s) := by
  unfold Machine.ringClear
  extract_lets s1
  have h1 : P s1 := hP.resetReg (hP.resetReg h)
  exact hP.setRing (hP.setFld h1)

theorem Closed.ringDisable {r} (h : P s) : P (Machine.ringDisable r s) := by
  unfold Machine.ringDisable
  extract_lets s1
  have h1 : P s1 := hP.setFld h
  exact iteK (fun _ => hP.setFld h1) fun _ => h1

theorem Closed.flReset (h : P s) : P (Machine.flReset s) := by
  refine iteK (fun _ => h) fun _ => hP.hostClear (hP.bltAbort (hP.hleAbort (Closed.forAll (fun _ _ h1 => ?_) h)))
  exact hP.setFlds (hP.ringClear (hP.ringDisable h1)) (by grind)

theorem Closed.linkDown (h : P s) : P (Machine.linkDown s) := by
  unfold Machine.linkDown
  extract_lets _ s1 s2
  have h1 : P s1 := hP.setFld (hP.setFld (hP.setFld h))
  have h2 : P s2 := hP.incSat h1
  exact iteK (fun _ => h) fun _ => hP.low.raise (hP.endSession (hP.core h2))

theorem Closed.linkUp {partner speed width} (h : P s) : P (Machine.linkUp partner speed width s) := by
  unfold Machine.linkUp
  extract_lets _ _ s1
  have h1 : P s1 := hP.setFld (hP.setFld (hP.setFld h))
  exact iteK (fun _ => h) fun _ => iteK (fun _ => hP.low.raise (hP.core h1)) fun _ => h1

theorem Closed.cxlErr {cause addr} (h : P s) : P (Machine.cxlErr cause addr s) := hP.low.raiseErr h

theorem Closed.hostPoison {addr} (h : P s) : P (Machine.hostPoison addr s) := by
  unfold Machine.hostPoison
  extract_lets s1
  have h1 : P s1 := hP.incSat h
  exact iteK (fun _ => hP.cxlErr (hP.core h1)) fun _ => h1

theorem Closed.hostLease {a n} (h : P s) : P (Machine.hostLease a n s) := by
  unfold Machine.hostLease
  split
  · exact h
  · extract_lets _ s1
    have h1 : P s1 := hP.incSat (hP.setFld h)
    exact iteK (fun _ => h1) fun _ => hP.low.raise (hP.core h1)

theorem Closed.aperMiss {a} (h : P s) : P (Machine.aperMiss a s) := by
  unfold Machine.aperMiss
  extract_lets s1
  have h1 : P s1 := hP.incSat h
  exact iteK (fun _ => hP.cxlErr (hP.core h1)) fun _ => h1

theorem Closed.hdmCommit {d base size skip ways} (h : P s) : P (Machine.hdmCommit d base size skip ways s) := by
  unfold Machine.hdmCommit
  extract_lets
  refine iteK (fun _ => iteK (fun _ => hP.cxlErr (hP.core h)) fun _ => hP.core h) fun _ => iteK (fun _ => ?_) fun _ => h
  extract_lets 
  split
  · exact hP.core h
  · exact h

theorem Closed.cxlWrite {off v} (h : P s) : P (Machine.cxlWrite off v s) := hP.core h

theorem Closed.msixWrite {off v} (h : P s) : P (Machine.msixWrite off v s) := by
  unfold Machine.msixWrite
  extract_lets _ _ _ s1
  have h1 : P s1 := hP.core h
  exact iteK (fun _ => hP.low.emit (hP.core h1)) fun _ => h1

omit hP in
theorem reg_setReg_self (o k : Nat) : reg (setReg s o (BitVec.ofNat 64 (reg s o).toNat)) k = reg s k := by
  rw [reg_setReg]
  split
  · next hk => rw [hk, BitVec.ofNat_toNat, BitVec.setWidth_eq]
  · rfl

omit hP in
/-- The lamplighter's state is read-only to a register write. -/
theorem lamp_plainWrite (v : Nat) : lamp (Machine.plainWrite Reg.GEN_STATE v s) = lamp s := by
  have hf : ∃ d, findReg Reg.GEN_STATE = some d ∧ ∀ lit o, regWritten d lit o v = o := ⟨_, rfl, fun _ _ => rfl⟩
  obtain ⟨d, hd, hw⟩ := hf
  have hp : Machine.plainWrite Reg.GEN_STATE v s = setReg s Reg.GEN_STATE (BitVec.ofNat 64 (reg s Reg.GEN_STATE).toNat) := by
    simp only [Machine.plainWrite, hd, hw]
  rw [hp]
  exact lamp_congr (fld_congr_reg (reg_setReg_self _ _))

theorem Closed.plainWrite {off v} (h : P s) : P (Machine.plainWrite off v s) := by
  by_cases ho : off = Reg.GEN_STATE
  · subst ho
    have hl := lamp_plainWrite (s := s) v
    unfold Machine.plainWrite at hl ⊢
    split at hl
    · exact hP.still (canonical_setReg _ _) hl rfl rfl (.inl rfl) h
    · exact h
  · unfold Machine.plainWrite
    split
    · exact hP.setReg h
    · exact h

theorem Closed.doorbell {r tail} (h : P s) : P (Machine.doorbell r tail s) := by
  unfold Machine.doorbell
  extract_lets
  exact iteK (fun _ => h) fun _ => iteK (fun _ => hP.ringError h) fun _ => iteK (fun _ => hP.ringError h) fun _ => hP.setFld h

omit hP in
theorem Closed.onBit {v b} {f : State → State} (hf : ∀ {t}, P t → P (f t)) (h : P s) : P (Machine.onBit v b f s) :=
  iteK (fun _ => hf h) fun _ => h

theorem Closed.ringReset {r} (h : P s) : P (Machine.ringReset r s) := iteK (fun _ => h) fun _ => hP.ringClear h

theorem Closed.ringEnable {r} (h : P s) : P (Machine.ringEnable r s) :=
  iteK (fun _ => h) fun _ => iteK (fun _ => hP.setFld (hP.setFld h)) fun _ => hP.ringError h

theorem Closed.cqHead {r head} (h : P s) : P (Machine.cqHead r head s) := by
  unfold Machine.cqHead
  extract_lets
  exact hP.setRing (hP.setFld h)

theorem Closed.writeRing {r o v} (h : P s) : P (Machine.writeRing r o v s) := by
  unfold Machine.writeRing
  extract_lets
  split
  · exact iteK (fun _ => hP.setFld h) fun _ => hP.plainWrite h
  · exact hP.doorbell h
  · exact Closed.onBit (fun h1 => hP.ringReset h1) (iteK (fun _ => hP.ringEnable h) fun _ => hP.ringDisable h)
  · exact hP.cqHead h
  · exact iteK (fun _ => h) fun _ => hP.plainWrite h

theorem Closed.testForce {src} (h : P s) : P (Machine.testForce src s) := iteK (fun _ => hP.low.recordEvent h) fun _ => h

theorem Closed.hostErrClr (h : P s) : P (Machine.hostErrClr s) := hP.setFld (hP.setFld (hP.setFld h))

theorem Closed.ackVec {v} (h : P s) : P (Machine.ackVec v s) :=
  iteK (fun _ => hP.low.sendMsix (hP.setReg h)) fun _ => hP.setReg h

theorem Closed.vecAck {ack} (h : P s) : P (Machine.vecAck ack s) := Closed.forAll (fun _ _ h1 => hP.ackVec h1) h

theorem Closed.writeHost {off v} (h : P s) : P (Machine.writeHost off v s) :=
  iteK (fun _ => Closed.onBit (fun h1 => hP.testForce h1) (hP.plainWrite h)) fun _ => iteK (fun _ => hP.setReg h) fun _ =>
    iteK (fun _ => Closed.onBit (fun h1 => hP.hostErrClr h1) h) fun _ => iteK (fun _ => hP.vecAck h) fun _ => hP.plainWrite h

theorem Closed.mfbClr (h : P s) : P (Machine.mfbClr s) := by
  unfold Machine.mfbClr
  extract_lets s1
  have h1 : P s1 := Closed.forAll (fun _ _ h1 => hP.setFld h1) h
  exact hP.setReg (hP.setReg (hP.setFld h1))

theorem Closed.dmcClr {c} (h : P s) : P (Machine.dmcClr c s) := by
  unfold Machine.dmcClr
  extract_lets s1
  have h1 : P s1 := Closed.forAll (fun _ _ h1 => hP.setFld h1) h
  exact hP.setReg (hP.setFld (hP.setReg h1))

theorem Closed.reelWmWrite {v} (h : P s) : P (Machine.reelWmWrite v s) := hP.low.lowNow (hP.setFld (hP.setReg h))

theorem Closed.ldecClr (h : P s) : P (Machine.ldecClr s) := hP.setReg (hP.setFld h)

theorem Closed.hleClr (h : P s) : P (Machine.hleClr s) := hP.setReg (hP.setReg (hP.setReg h))

theorem Closed.bltClr (h : P s) : P (Machine.bltClr s) := hP.setReg (hP.setReg h)

theorem Closed.peakClr (h : P s) : P (Machine.peakClr s) := hP.setFld (Closed.forAll (fun _ _ h1 => hP.setFld h1) h)

theorem Closed.writeMem {off v} (h : P s) : P (Machine.writeMem off v s) := by
  unfold Machine.writeMem
  extract_lets s1
  have h1 : P s1 := hP.plainWrite h
  exact iteK (fun _ => iteK (fun _ => hP.freqGo h1) fun _ => h1) fun _ => iteK (fun _ =>
    Closed.onBit (fun h2 => hP.mfbClr h2) h) fun _ => iteK (fun _ => Closed.onBit (fun h2 => hP.dmcClr h2) h) fun _ =>
      iteK (fun _ => hP.reelWmWrite h) fun _ => iteK (fun _ => Closed.onBit (fun h2 => hP.ldecClr h2) h) fun _ => iteK (fun _ =>
        Closed.onBit (fun h2 => hP.hleClr h2) (hP.plainWrite h)) fun _ => iteK (fun _ => Closed.onBit (fun h2 => hP.bltClr h2)
          (hP.plainWrite h)) fun _ => iteK (fun _ => Closed.onBit (fun h2 => hP.peakClr h2) h) fun _ => hP.plainWrite h

theorem Closed.lantClr {l} (h : P s) : P (Machine.lantClr l s) := by
  unfold Machine.lantClr
  extract_lets s1
  have h1 : P s1 := hP.setReg (hP.setReg (hP.setReg h))
  exact hP.setFld (hP.setReg h1)

theorem Closed.rmapClr (h : P s) : P (Machine.rmapClr s) := hP.setFld (hP.setReg h)

theorem Closed.scanClr (h : P s) : P (Machine.scanClr s) := by
  unfold Machine.scanClr
  extract_lets s1
  have h1 : P s1 := hP.setReg (hP.setReg (hP.setReg h))
  exact Closed.forAll (fun _ _ h2 => hP.setReg h2) h1

theorem Closed.wlnClr (h : P s) : P (Machine.wlnClr s) :=
  Closed.forAll (fun _ _ h1 => hP.setReg (hP.setReg h1)) (Closed.forAll (fun _ _ h1 => hP.setReg h1) h)

theorem Closed.wlnTrainCmd (h : P s) : P (Machine.wlnTrainCmd s) := by
  unfold Machine.wlnTrainCmd
  extract_lets s1
  have h1 : P s1 := hP.wlnTrain h
  exact iteK (fun _ => hP.setFld h1) fun _ => h1

theorem Closed.retrainCmd {g} (h : P s) : P (Machine.retrainCmd g s) := by
  unfold Machine.retrainCmd
  extract_lets s1
  have h1 : P s1 := hP.startTraining h
  exact iteK (fun _ => hP.setFld h1) fun _ => h1

theorem Closed.writeScan {off v} (h : P s) : P (Machine.writeScan off v s) :=
  iteK (fun _ => hP.setFld h) fun _ => iteK (fun _ => Closed.onBit (fun h1 => hP.lantClr h1) h) fun _ => iteK (fun _ =>
    Closed.onBit (fun h1 => hP.rmapClr h1) h) fun _ => iteK (fun _ => Closed.onBit (fun h1 => hP.low.agingCalc h1)
      (hP.low.agingSettle (hP.plainWrite h))) fun _ => iteK (fun _ => Closed.onBit (fun h1 => hP.scanClr h1)
        (hP.plainWrite h)) fun _ => iteK (fun _ => Closed.onBit (fun h1 => hP.wlnClr h1) (Closed.onBit (fun h1 => iteK (fun _ =>
          h1) fun _ => hP.wlnTrainCmd h1) (hP.plainWrite h))) fun _ => iteK (fun _ => Closed.onBit (fun h1 => hP.retrainCmd h1)
            (hP.plainWrite h)) fun _ => hP.plainWrite h

theorem Closed.setHandTb3 {v} (h : P s) : P (Machine.setHandTb3 s v) := by
  unfold Machine.setHandTb3
  extract_lets
  exact hP.core h

theorem Closed.setSource {b} (h : P s) : P (Machine.setSource s b) := by
  unfold Machine.setSource
  extract_lets s1
  have h1 : P s1 := hP.setHandTb3 h
  exact iteK (fun _ => hP.setFld h1) fun _ => hP.setFld h1

theorem Closed.t0Write {t0} (h : P s) : P (Machine.t0Write t0 s) := by
  unfold Machine.t0Write
  extract_lets s1
  have h1 : P s1 := hP.setReg h
  exact iteK (fun _ => h) fun _ => hP.low.realign (hP.core h1)

theorem Closed.fixMeasure (h : P s) : P (Machine.fixMeasure s) := iteK (fun _ => hP.setFld h) fun _ => h

theorem Closed.measureLane {i} (h : P s) : P (Machine.measureLane i s) := by
  unfold Machine.measureLane
  extract_lets
  exact hP.chainEmit (hP.core h)

theorem Closed.remeasure (h : P s) : P (Machine.remeasure s) :=
  iteK (fun _ => hP.fixMeasure (hP.setFld (Closed.forAll (fun _ _ h1 => hP.measureLane h1) h))) fun _ => h

theorem Closed.clkClr (h : P s) : P (Machine.clkClr s) := Closed.forAll (fun _ _ h1 => hP.setReg h1) h

theorem Closed.pllApply {p} (h : P s) : P (Machine.pllApply p s) := by
  unfold Machine.pllApply
  extract_lets s1
  have h1 : P s1 := hP.setFld (hP.low.relock (hP.low.pllForce h))
  exact iteK (fun _ => iteK (fun _ => hP.core h1) fun _ => h1) fun _ => h

theorem Closed.writeClk {off v} (h : P s) : P (Machine.writeClk off v s) := by
  unfold Machine.writeClk
  extract_lets
  refine iteK (fun _ => Closed.onBit (fun h1 => hP.clkClr h1) h) fun _ => iteK (fun _ => iteK (fun _ => h) fun _ => ?_) fun _ =>
    iteK (fun _ => iteK (fun _ => h) fun _ => hP.plainWrite h) fun _ => hP.plainWrite h
  extract_lets 
  split
  · exact iteK (fun _ => hP.plainWrite h) fun _ => hP.plainWrite h
  · exact Closed.onBit (fun h1 => hP.pllApply h1) h
  · exact hP.plainWrite h

theorem Closed.railDownCmd (h : P s) : P (Machine.railDownCmd s) := iteK (fun _ => h) fun _ => hP.setFld (hP.lower.railsDown h)

theorem Closed.railUpCmd (h : P s) : P (Machine.railUpCmd s) := by
  unfold Machine.railUpCmd
  extract_lets s1 s2 s3
  have h1 : P s1 := iteK (fun hw => hP.setFld (hP.setFld (hP.lampTo (.inl (hP.wake h hw.1)) h))) fun _ => h
  have h2 : P s2 := iteK (fun _ => hP.low.setVlcd h1) fun _ => h1
  have h3 : P s3 := hP.railsUp (hP.core h2)
  exact iteK (fun _ => h) fun _ => iteK (fun _ => hP.setFld h3) fun _ => h3

theorem Closed.nvmClr (h : P s) : P (Machine.nvmClr s) := hP.setFld (hP.setReg h)

theorem Closed.clearEvent {src} (h : P s) : P (Machine.clearEvent src s) := hP.setReg (hP.setFld h (emberFld_ne _))

theorem Closed.nvmAhead (h : P s) : P (Machine.nvmAhead s) := by
  unfold Machine.nvmAhead
  split
  · exact hP.lower.nvmProgram h
  · exact h

theorem Closed.mergeRead {o} (h : P s) : P (Machine.mergeRead o s) := iteK (fun _ => h) fun _ => hP.mem.nvmTouch h

theorem Closed.firstFatalAck (h : P s) : P (Machine.firstFatalAck s) := by
  unfold Machine.firstFatalAck
  extract_lets s1 s2 _ s3
  have h1 : P s1 := hP.setReg (hP.setReg h)
  have h2 : P s2 := Closed.forAll (fun _ _ h2 => hP.setReg h2) h1
  have h3 : P s3 := hP.mergeRead h2
  exact iteK (fun _ => h) fun _ => hP.lower.nvmWrite h3

theorem Closed.candleRow {k} (h : P s) : P (Machine.candleRow k s) := by
  unfold Machine.candleRow
  extract_lets s1
  have h1 : P s1 := hP.mem.nvmTouch h
  exact foldlK (fun _ _ h2 => hP.lower.nvmWrite h2) h1

theorem Closed.candleUpdate (h : P s) : P (Machine.candleUpdate s) := by
  unfold Machine.candleUpdate
  extract_lets _ _ _ s1
  have h1 : P s1 := hP.core h
  exact hP.low.agingCalc (Closed.forAll (fun _ _ h2 => hP.candleRow h2) h1)

theorem Closed.copyWrite {off} (h : P s) : P (Machine.copyWrite off s) := iteK (fun _ => hP.core h) fun _ => h

theorem Closed.badAccess {off} (h : P s) : P (Machine.badAccess off s) := hP.cxlErr (hP.incSat h)

theorem Closed.tbSecRead {b} (h : P s) : P (Machine.tbSecRead b s) := hP.setFld h

theorem Closed.acceptFront {r d} (h : P s) : P (Machine.acceptFront r d s) :=
  iteK (fun _ => hP.popTaken h) fun _ => hP.acceptCounter (hP.popTaken h)

theorem Closed.setFetches {l} (h : P s) : P (Machine.setFetches l s) := by
  unfold Machine.setFetches
  extract_lets _ s1
  have h1 : P s1 := hP.core h
  exact hP.setFld h1

theorem Closed.reelFetchRun {j d} (h : P s) : P (Machine.reelFetchRun j d s) := by
  unfold Machine.reelFetchRun
  extract_lets
  exact iteK (fun _ => hP.low.complete h) fun _ => iteK (fun _ => hP.low.complete h) fun _ => hP.setFetches (hP.core h)

theorem Closed.blEnd {x st addr n} (h : P s) : P (Machine.blEnd x st addr n s) := by
  unfold Machine.blEnd
  extract_lets s1 _ s2 s3 s4 s5 s6
  have h1 : P s1 := hP.setReg h
  have h2 : P s2 := hP.setReg (hP.core h1)
  have h3 : P s3 := hP.incSat h2
  have h4 : P s4 := hP.incSat h2
  have h5 : P s5 := hP.setFld (hP.setFld (hP.setFld h4))
  have h6 : P s6 := iteK (fun _ => iteK (fun _ => hP.low.raise h3) fun _ => h3) fun _ => hP.low.raise h5
  exact hP.low.complete h6

theorem Closed.blitRun {j d} (h : P s) : P (Machine.blitRun j d s) := by
  unfold Machine.blitRun
  extract_lets _ _ s1 _ s2
  have h1 : P s1 := hP.core h
  have h2 : P s2 := hP.core h1
  split
  · exact hP.blEnd h1
  · exact hP.setFld (hP.setFld (hP.setFld h2))

theorem Closed.lineMerge {line} (h : P s) : P (Machine.lineMerge line s) := by
  unfold Machine.lineMerge
  extract_lets
  exact hP.mem.mergeSource (hP.mem.bankOpenRow h)

theorem Closed.hzCount {x r} (h : P s) : P (Machine.hzCount x r s) := by
  unfold Machine.hzCount
  extract_lets s1 s2 s3 s4
  have h1 : P s1 := iteK (fun _ => hP.incSat h) fun _ => h
  have h2 : P s2 := iteK (fun _ => hP.incSat h1) fun _ => h1
  have h3 : P s3 := iteK (fun _ => hP.incSat h2) fun _ => h2
  have h4 : P s4 := iteK (fun _ => hP.incSat h3) fun _ => h3
  exact iteK (fun _ => h4) fun _ => hP.setFld (hP.setFld (hP.setFld (hP.setFld h4)))

theorem Closed.giveInternal (h : P s) : P (Machine.giveInternal s) := by
  unfold Machine.giveInternal
  extract_lets
  split
  · exact h
  · extract_lets _ s1
    have h1 : P s1 := hP.core h
    exact iteK (fun _ => iteK (fun _ => Closed.forAll (fun _ _ h2 => hP.low.setPipe h2) h1) fun _ => hP.low.setPipe h1) fun _ =>
      iteK (fun _ => hP.low.setPipe (hP.core h)) fun _ => h

theorem Closed.poolInternal (h : P s) : P (Machine.poolInternal s) :=
  hP.low.fixWaits (hP.giveInternal (hP.giveInternal (hP.giveInternal h)))

theorem Closed.hzStart (h : P s) : P (Machine.hzStart s) := by
  unfold Machine.hzStart
  extract_lets
  refine iteK (fun _ => hP.poolInternal h) fun _ => iteK (fun _ => h) fun _ => ?_
  extract_lets 
  split
  · extract_lets _ s1 s2
    have h1 : P s1 := hP.low.setPipe (hP.core h)
    have h2 : P s2 := hP.setReg h1
    exact hP.setFld (hP.setFld (hP.setFld h2))
  · exact h

theorem Closed.pipeBytes {i o} (h : P s) : P (Machine.pipeBytes i o s) := hP.setReg (hP.setReg h)

theorem Closed.nvmReadRun {j d} (h : P s) : P (Machine.nvmReadRun j d s) := by
  unfold Machine.nvmReadRun
  extract_lets
  refine iteK (fun _ => hP.nvmComplete h) fun _ => ?_
  extract_lets 
  split
  · exact hP.nvmComplete h
  · exact iteK (fun _ => hP.nvmComplete h) fun _ => hP.core h

theorem Closed.nvmUnlockRun {j d} (h : P s) : P (Machine.nvmUnlockRun j d s) := by
  unfold Machine.nvmUnlockRun
  extract_lets s1 _ s2
  have h1 : P s1 := iteK (fun _ => hP.mem.recTouch h) fun _ => h
  have h2 : P s2 := hP.setFld h1
  exact iteK (fun _ => hP.nvmComplete (hP.endSession h)) fun _ => iteK (fun _ => hP.nvmComplete h) fun _ => iteK (fun _ =>
    hP.nvmComplete h) fun _ => iteK (fun _ => hP.nvmComplete (hP.setFld (hP.setFld h1))) fun _ => hP.nvmComplete (iteK (fun _ =>
      hP.setFld h2) fun _ => h2)

theorem Closed.stageEnd {st} (h : P s) : P (Machine.stageEnd st s) := by
  unfold Machine.stageEnd
  split
  · exact hP.low.complete (hP.low.stageFree (hP.low.slotFree h))
  · exact h

theorem Closed.raymapLoadRun {j d} (h : P s) : P (Machine.raymapLoadRun j d s) := by
  unfold Machine.raymapLoadRun
  extract_lets _ _ _ _ _ s1 s2 s3
  have h1 : P s1 := hP.low.slotFree (hP.stageEnd h)
  have h2 : P s2 := hP.setFld (hP.setFld (hP.setFld h1))
  have h3 : P s3 := iteK (fun _ => hP.setReg h2) fun _ => h2
  exact iteK (fun _ => hP.low.complete h) fun _ => iteK (fun _ => hP.low.complete h) fun _ => iteK (fun _ => hP.low.complete h) fun _ =>
    iteK (fun _ => hP.low.complete h) fun _ => hP.poolInternal (hP.core h3)

theorem Closed.setPush {p} (h : P s) : P (Machine.setPush s p) := by
  unfold Machine.setPush
  extract_lets
  exact hP.core h

theorem Closed.uniBegin {p es} (h : P s) : P (Machine.uniBegin p es s) := by
  unfold Machine.uniBegin
  extract_lets s1
  have h1 : P s1 := hP.setPush h
  exact hP.setFld (hP.setFld (hP.setFld h1))

theorem Closed.uniEnd {j st n} (h : P s) : P (Machine.uniEnd j st n s) := hP.low.complete (hP.setFld (hP.setPush h))

theorem Closed.orderlyEnd (h : P s) : P (Machine.orderlyEnd s) := by
  unfold Machine.orderlyEnd
  split
  · exact h
  · refine iteK (fun hc => ?_) fun _ => h
    have hl : lamp s = .housekeeping := by
      simp only [Bool.and_eq_true, decide_eq_true_eq] at hc
      exact hc.1.1
    exact foldlK (fun _ _ h1 => hP.low.complete h1) (hP.lampTo (.inl (hP.wake h hl)) (hP.orderlyTo (.inr rfl) h))

theorem Closed.railLimitsRun {j d} (h : P s) : P (Machine.railLimitsRun j d s) := by
  unfold Machine.railLimitsRun
  extract_lets s1
  have h1 : P s1 := hP.mem.recTouch h
  exact iteK (fun _ => hP.low.complete h) fun _ => iteK (fun _ => hP.low.complete h) fun _ => hP.lower.nvmWrite h1

theorem Closed.protectWrite {bp digest j pw} (h : P s) : P (Machine.protectWrite bp digest j pw s) := by
  unfold Machine.protectWrite
  extract_lets s1
  have h1 : P s1 := hP.mem.recTouch h
  exact hP.lower.nvmWrite h1

theorem Closed.nvmProtectRun {j d} (h : P s) : P (Machine.nvmProtectRun j d s) := hP.protectWrite h

theorem Closed.nvmPasswordRun {j d} (h : P s) : P (Machine.nvmPasswordRun j d s) :=
  iteK (fun _ => hP.nvmComplete h) fun _ => iteK (fun _ => hP.protectWrite h) fun _ => hP.protectWrite h

theorem Closed.chainPinRun {j d} (h : P s) : P (Machine.chainPinRun j d s) := by
  unfold Machine.chainPinRun
  extract_lets
  exact iteK (fun _ => hP.low.complete h) fun _ => hP.lower.nvmWrite h

theorem Closed.chainSend {p type payload data} (h : P s) : P (Machine.chainSend p type payload data s) := hP.chainEmit h

theorem Closed.retireCmd {c p offlineOk} (h : P s) : P (Machine.retireCmd c p offlineOk s).1 := by
  unfold Machine.retireCmd
  extract_lets
  exact iteF (fun _ => h) fun _ => iteF (fun _ => h) fun _ => iteF (fun _ => h) fun _ => hP.mem.retireTrigger h

theorem Closed.restoreCmd {c p} (h : P s) : P (Machine.restoreCmd c p s).1 := by
  unfold Machine.restoreCmd
  extract_lets _ _ _ s1
  have h1 : P s1 := iteK (fun _ => hP.mem.setRankState (hP.core h)) fun _ => hP.core h
  exact iteF (fun _ => h) fun _ => hP.mem.rankRecord h1

theorem Closed.rankRetireRun {j d} (h : P s) : P (Machine.rankRetireRun j d s) := by
  unfold Machine.rankRetireRun
  extract_lets _ _ p1
  have h1 : P p1.1 := iteF (fun _ => hP.retireCmd h) fun _ => hP.restoreCmd h
  exact iteK (fun _ => hP.low.complete h) fun _ => hP.low.complete h1

theorem Closed.testEnterRun {j d} (h : P s) : P (Machine.testEnterRun j d s) :=
  iteK (fun _ => hP.low.complete h) fun _ => iteK (fun _ => hP.low.complete h) fun _ =>
    hP.low.complete (hP.fixTables (hP.setFld_beside (f := Reg.GEN_STATE_TEST) ⟨by decide, by decide⟩ (by decide) h))

theorem Closed.overlayLine {v a} (h : P s) : P (Machine.overlayLine v a s) := by
  unfold Machine.overlayLine
  extract_lets _ p1 s1 _ s2
  have h1 : P p1.1 := hP.mem.lineRead h
  have h2 : P s1 := h1
  have h3 : P s2 := hP.core h2
  exact iteK (fun _ => hP.core h) fun _ => iteK (fun _ => hP.incSat (hP.core h3)) fun _ => h3

theorem Closed.overlayAhead {lim} (h : P s) : P (Machine.overlayAhead lim s) := by
  unfold Machine.overlayAhead
  extract_lets _ s1
  have h1 : P s1 := Closed.forAll (fun _ _ h1 => Closed.forAll (fun _ _ h2 => hP.overlayLine h2) h1) h
  exact hP.core h1

theorem Closed.sendFrameStart (h : P s) : P (Machine.sendFrameStart s) := Closed.forAll (fun _ _ h1 => hP.low.emit h1) h

theorem Closed.startFrame {k} (h : P s) : P (Machine.startFrame k s) := by
  unfold Machine.startFrame
  extract_lets _ _ _ s1
  have h1 : P s1 := hP.core h
  exact hP.fixWicks (iteK (fun _ => hP.sendFrameStart h1) fun _ => h1)

theorem Closed.rasterTick {k} (h : P s) : P (Machine.rasterTick k s) := by
  unfold Machine.rasterTick
  extract_lets _ s1
  have h1 : P s1 := hP.core h
  exact iteK (fun _ => iteK (fun _ => hP.overlayAhead (hP.startFrame (hP.setFld h))) fun _ => h) fun _ => iteK (fun _ =>
    hP.low.raise (hP.incSat h1)) fun _ => hP.startFrame h

theorem Closed.sendBeacon {k} (h : P s) : P (Machine.sendBeacon k s) := by
  unfold Machine.sendBeacon
  extract_lets
  exact iteK (fun _ => hP.chainEmit h) fun _ => h

theorem Closed.beaconDue (h : P s) : P (Machine.beaconDue s) := by
  unfold Machine.beaconDue
  extract_lets
  exact iteK (fun _ => h) fun _ => iteK (fun _ => hP.core h) fun _ => hP.incSat (hP.core h)

theorem Closed.tick (h : P s) : P (Machine.tick s) := by
  unfold Machine.tick
  extract_lets _ _ s1
  have h1 : P s1 := hP.setReg (hP.setReg h)
  exact hP.rasterTick (hP.sendBeacon (hP.beaconDue (hP.low.setNextTick h1)))

theorem Closed.zoneSums {v l} (h : P s) : P (Machine.zoneSums v l s) := by
  unfold Machine.zoneSums
  extract_lets
  exact hP.core h

theorem Closed.sendWick {l late v n} (h : P s) : P (Machine.sendWick l late v n s).1 := by
  unfold Machine.sendWick
  extract_lets
  split
  · exact h
  · extract_lets _ _ s1 _ s2
    have h1 : P s1 := hP.low.emit h
    have h2 : P s2 := hP.core h1
    exact hP.zoneSums (hP.setFld h2)

theorem Closed.witRow {v row} (h : P s) : P (Machine.witRow v row s) := by
  unfold Machine.witRow
  refine Closed.forAll (fun _ s1 h1 => ?_) h
  extract_lets
  exact iteK (fun _ => h1) fun _ => hP.core h1

theorem Closed.uniSwitched (h : P s) : P (Machine.uniSwitched s) := by
  unfold Machine.uniSwitched
  split
  · exact iteK (fun _ => hP.setFld (hP.setPush h)) fun _ => h
  · exact h

theorem Closed.rowZeroSent (h : P s) : P (Machine.rowZeroSent s) := by
  unfold Machine.rowZeroSent
  extract_lets s1
  have h1 : P s1 := hP.uniSwitched (hP.core h)
  exact iteK (fun hl => hP.lampTo (.inl (hP.wake h1 hl)) h1) fun _ => h1

theorem Closed.setFifo {n l} (h : P s) : P (Machine.setFifo s n l) := by
  unfold Machine.setFifo
  extract_lets
  exact hP.setFld (hP.core h)

theorem Closed.dropRows {v} (h : P s) : P (Machine.dropRows v s) := Closed.forAll (fun _ _ h1 => hP.setFifo h1) h

theorem Closed.overlayDrop {v} (h : P s) : P (Machine.overlayDrop v s) := by
  unfold Machine.overlayDrop
  extract_lets
  exact hP.core h

theorem Closed.setQuad {q x} (h : P s) : P (Machine.setQuad s q x) := by
  unfold Machine.setQuad
  extract_lets
  exact hP.core h

theorem Closed.buildAgain (h : P s) : P (Machine.buildAgain s) := by
  unfold Machine.buildAgain
  extract_lets
  exact foldlK (fun _ _ h1 => hP.setQuad h1) (hP.low.quadsFresh h)

theorem Closed.wickEvent {n cause} (h : P s) : P (Machine.wickEvent n cause s) := by
  unfold Machine.wickEvent
  extract_lets
  exact iteK (fun _ => hP.low.raiseErr h) fun _ => hP.low.raise h

theorem Closed.scanAbort {ns v} (h : P s) : P (Machine.scanAbort ns v s) := by
  unfold Machine.scanAbort
  extract_lets _ _ s1 _ s2 s3 s4 s5 s6 s7
  have h1 : P s1 := Closed.forAll (fun _ _ h1 => hP.low.emit h1) h
  have h2 : P s2 := hP.core h1
  have h3 : P s3 := hP.incSat h2
  have h4 : P s4 := hP.setFld (hP.setFld h3)
  have h5 : P s5 := iteK (fun _ => hP.incSat h4) fun _ => h4
  have h6 : P s6 := Closed.forAll (fun _ _ h6 => hP.incSat h6) (hP.buildAgain h5)
  have h7 : P s7 := hP.low.raiseErr h6
  exact Closed.forAll (fun _ _ h8 => hP.wickEvent h8) h7

theorem Closed.witJudge {w} (h : P s) : P (Machine.witJudge w s) := by
  unfold Machine.witJudge
  extract_lets _ s1 s2
  have h1 : P s1 := hP.setFld h
  have h2 : P s2 := hP.setFld h1
  refine iteK (fun _ => hP.setFld h1) fun _ => ?_
  extract_lets 
  split
  · exact hP.setFld h2
  · exact iteK (fun _ => hP.setFld h2) fun _ => hP.low.raise (hP.incSat (hP.setFld h2))

theorem Closed.witJudgeAll (h : P s) : P (Machine.witJudgeAll s) := by
  unfold Machine.witJudgeAll
  extract_lets s1
  have h1 : P s1 := Closed.forAll (fun _ _ h1 => hP.witJudge h1) h
  exact hP.core h1

theorem Closed.accrue (h : P s) : P (Machine.accrue s) := by
  unfold Machine.accrue
  extract_lets
  exact hP.core h

theorem Closed.overlayFresh (h : P s) : P (Machine.overlayFresh s) := by
  unfold Machine.overlayFresh
  extract_lets
  exact hP.overlayAhead (hP.core h)

theorem Closed.darkBegins (h : P s) : P (Machine.darkBegins s) := by
  unfold Machine.darkBegins
  split
  · next o ho =>
    have hR : R := hP.awake h (.inr (by simp [ho]))
    have h0 : P { s with orderly := some { o with blanking := true } } := hP.orderlyTo (.inl hR) h
    have h1 : P { s with orderly := some { o with blanking := true }, scan := { s.scan with live := false } } :=
      hP.core (s := { s with orderly := some { o with blanking := true } }) h0
    exact iteK (fun _ => h) fun _ => iteK (fun _ => hP.lower.sendBlank h1) fun _ => h1
  · exact h

theorem Closed.judgedAt {k} (h : P s) : P (Machine.judgedAt k s) := by
  unfold Machine.judgedAt
  extract_lets
  exact hP.core h

theorem Closed.decLate {cause frame k} (h : P s) : P (Machine.decLate cause frame k s) := hP.low.raise h

theorem Closed.texelsInvalid (h : P s) : P (Machine.texelsInvalid s) := by
  unfold Machine.texelsInvalid
  extract_lets
  exact hP.core h

theorem Closed.overlayCue {frame off i mask galpha x y a0 a1} (h : P s) :
    P (Machine.overlayCue frame off i mask galpha x y a0 a1 s) := by
  unfold Machine.overlayCue
  extract_lets _ _ _ s1 s2
  have h1 : P s1 := iteK (fun _ => hP.low.setForce (hP.low.setForce h)) fun _ => h
  have h2 : P s2 := iteK (fun _ => hP.low.setForce h1) fun _ => h1
  exact iteK (fun _ => hP.low.decErr h) fun _ => iteK (fun _ => hP.low.setFfld h2) fun _ => h2

theorem Closed.abandon {x} (h : P s) : P (Machine.abandon x s) := by
  unfold Machine.abandon
  extract_lets s1
  have h1 : P s1 := hP.low.setNc h
  exact iteK (fun _ => h1) fun _ => hP.low.nextRecord h1

theorem Closed.mapSub {line} (h : P s) : P (Machine.mapSub line s) := by
  unfold Machine.mapSub
  extract_lets _ s1
  have h1 : P s1 := iteK (fun _ => hP.incSat h) fun _ => hP.incSat h
  exact iteK (fun _ => h1) fun _ => hP.low.raise (hP.core h1)

theorem Closed.mapLine {a} (h : P s) : P (Machine.mapLine a s).1 := by
  unfold Machine.mapLine
  extract_lets p1
  have h1 : P p1.1 := hP.mem.lineRead h
  exact iteK (fun _ => hP.mapSub h1) fun _ => h1

theorem Closed.rayRow {l v} (h : P s) : P (Machine.rayRow l v s) := by
  unfold Machine.rayRow
  extract_lets
  exact iteK (fun _ => h) fun _ => hP.low.setLant h

theorem Closed.texelLine {l line} (h : P s) : P (Machine.texelLine l line s).1 := by
  unfold Machine.texelLine
  extract_lets _ _ _ p1 _ s1
  have h1 : P p1.1 := hP.mem.lineRead h
  have h2 : P s1 := hP.low.setLant h1
  split
  · extract_lets
    exact hP.low.setLant h
  · exact hP.setFld h2

theorem Closed.texelRead {l a n} (h : P s) : P (Machine.texelRead l a n s).1 := by
  unfold Machine.texelRead
  extract_lets p1
  have h1 : P p1.1 := hP.texelLine h
  split
  · exact h1
  · exact h1

theorem Closed.packed10 {l base i} (h : P s) : P (Machine.packed10 l base i s).1 := by
  unfold Machine.packed10
  extract_lets p1
  have h1 : P p1.1 := hP.texelRead h
  split
  · exact h1
  · exact h1

theorem Closed.texel {l k c i j} (h : P s) : P (Machine.texel l k c i j s).1 := by
  unfold Machine.texel
  split
  · exact hP.packed10 h
  · exact hP.packed10 h
  · exact hP.packed10 h
  · exact hP.texelRead h

theorem Closed.tap {l k c w h' x y} (h : P s) : P (Machine.tap l k c w h' x y s).1 := by
  unfold Machine.tap
  extract_lets _ _ _ _ _ _ _ _ p1 p2 p3 p4
  have h1 : P p1.1 := hP.texel h
  have h2 : P p2.1 := hP.texel h1
  have h3 : P p3.1 := hP.texel h2
  have h4 : P p4.1 := hP.texel h3
  split
  · extract_lets
    exact h4
  · exact h4
  · exact h4
  · exact h4
  · exact h4

theorem Closed.sampleLayer {l p k x y} (h : P s) : P (Machine.sampleLayer l p k x y s).1 := by
  unfold Machine.sampleLayer
  extract_lets _ _ p1 p2 p3 p4
  have h1 : P p1.1 := hP.tap h
  have h2 : P p2.1 := hP.tap h1
  have h3 : P p3.1 := hP.tap h2
  have h4 : P p4.1 := iteF (fun _ => hP.tap h3) fun _ => h3
  split
  · exact h4
  · exact h4
  · exact h4
  · exact h4
  · exact h4

theorem Closed.poisonSub {l k addr} (h : P s) : P (Machine.poisonSub l k addr s) := by
  unfold Machine.poisonSub
  extract_lets s1
  have h1 : P s1 := hP.incSat h
  exact iteK (fun _ => h1) fun _ => hP.low.raise (hP.core h1)

theorem Closed.failover {q sp} (h : P s) : P (Machine.failover q sp s) := by
  unfold Machine.failover
  extract_lets _ s1 _ s2 s3 s4
  have h1 : P s1 := hP.setFld (hP.setFld h (xbarFld_ne _)) (xbarCurFld_ne _)
  have h2 : P s2 := Closed.forAll (fun _ _ h2 => hP.setFifo h2) h1
  have h3 : P s3 := hP.setQuad h2
  have h4 : P s4 := hP.low.fixLants h3
  exact hP.setFld h4

theorem Closed.unmapQuad {q} (h : P s) : P (Machine.unmapQuad q s) := by
  unfold Machine.unmapQuad
  extract_lets _ s1
  have h1 : P s1 := hP.setFld (hP.setFld h (xbarFld_ne _)) (xbarCurFld_ne _)
  exact hP.low.fixLants (hP.setQuad h1)

theorem Closed.lantFault {l cause} (h : P s) : P (Machine.lantFault l cause s) := by
  unfold Machine.lantFault
  extract_lets _ _ s1 s2 s3 v3 s4 _ s5 s6
  have h1 : P s1 := hP.setFld (hP.setFld (hP.setFld h))
  have h2 : P s2 := hP.setFld (hP.setFld h1)
  have h3 : P s3 := hP.setFld h2
  have h4 : P s4 := hP.setFld (hP.setFld (hP.setFld h3))
  have h5 : P s5 := by
    refine iteK (fun _ => ?_) fun _ => hP.low.fixLants h3
    extract_lets 
    clear_value v3
    split
    · extract_lets s7
      have h5 : P s7 := hP.core h4
      exact hP.incSat (hP.failover h5)
    · exact hP.unmapQuad h4
  have h6 : P s6 := Closed.forAll (fun _ _ h6 => hP.fixWick h6) h5
  exact hP.low.raiseErr h6

theorem Closed.spareJoin {l} (h : P s) : P (Machine.spareJoin l s) := by
  unfold Machine.spareJoin
  extract_lets
  exact hP.setFld (hP.setFld h)

theorem Closed.ncStep {x} (h : P s) : P (Machine.ncStep x s) := by
  unfold Machine.ncStep
  extract_lets s1
  have h1 : P s1 := hP.low.setNc h
  exact iteK (fun _ => hP.setPeak (hP.setSat h1)) fun _ => h1

theorem Closed.putFetch {f g} (h : P s) : P (Machine.putFetch f g s) := hP.setFetches h

theorem Closed.setArb {c a} (h : P s) : P (Machine.setArb c a s) := by
  unfold Machine.setArb
  extract_lets
  exact hP.core h

theorem Closed.takeTag {q} (h : P s) : P (Machine.takeTag q s) := by
  unfold Machine.takeTag
  extract_lets
  split
  · exact hP.core h
  · exact hP.fixTags (hP.setArb h)

theorem Closed.issue {q} (h : P s) : P (Machine.issue q s) :=
  iteK (fun _ => h) fun _ => iteK (fun _ => iteK (fun _ => hP.incSat h) fun _ => hP.mem.rejectWrite h) fun _ => iteK (fun _ =>
    hP.incSat h) fun _ => hP.takeTag h

theorem Closed.unstall (h : P s) : P (Machine.unstall s) := by
  unfold Machine.unstall
  extract_lets
  split
  · exact h
  · exact hP.takeTag (hP.core h)

theorem Closed.released {h'} (h : P s) : P (Machine.released h' s) := by
  unfold Machine.released
  extract_lets
  exact hP.unstall (hP.fixTags (hP.core h))

theorem Closed.acceptWrite {h'} (h : P s) : P (Machine.acceptWrite h' s) := by
  unfold Machine.acceptWrite
  extract_lets _ s1 s2
  have h1 : P s1 := hP.mem.lineStore h
  have h2 : P s2 := iteK (fun _ => hP.hostLease h1) fun _ => h1
  exact hP.released h2

theorem Closed.grantOne {c} (h : P s) : P (Machine.grantOne c s).1 := by
  unfold Machine.grantOne
  extract_lets
  split
  · exact h
  · extract_lets s1
    have h1 : P s1 := hP.setArb h
    exact iteF (fun _ => hP.acceptWrite h1) fun _ => h1

theorem Closed.serveWrite {c h'} (h : P s) : P (Machine.serveWrite c h' s) := by
  unfold Machine.serveWrite
  extract_lets _ _ _ s1
  have h1 : P s1 := hP.setArb h
  exact hP.mem.writeAccess (hP.core h1)

theorem Closed.serveRead {c bad h'} (h : P s) : P (Machine.serveRead c bad h' s) := by
  unfold Machine.serveRead
  extract_lets _ _ _ _ _ _ s1 s2
  have h1 : P s1 := hP.setArb h
  have h2 : P s2 := iteK (fun _ => iteK (fun _ => hP.mem.poisonReturned h1) fun _ => h1) fun _ => hP.mem.lineRead h1
  exact hP.released h2

theorem Closed.requestPromote {t} (h : P s) : P (Machine.requestPromote t s) := by
  unfold Machine.requestPromote
  extract_lets _ s1
  have h1 : P s1 := hP.core h
  split
  · exact h
  · exact iteK (fun _ => h) fun _ => hP.setReg h1

theorem Closed.arbStarve {t} (h : P s) : P (Machine.arbStarve t s) := by
  unfold Machine.arbStarve
  extract_lets _ s1
  have h1 : P s1 := hP.core h
  split
  · exact h
  · extract_lets _ s2
    have h2 : P s2 := hP.incSat (hP.setFld (hP.setFld h1))
    exact iteK (fun _ => h) fun _ => hP.low.raise h2

theorem Closed.refreshDue {c unit hot} (h : P s) : P (Machine.refreshDue c unit hot s) := by
  unfold Machine.refreshDue
  extract_lets s1 _ s2
  have h1 : P s1 := hP.setFld h
  have h2 : P s2 := hP.mem.setDebt h1
  exact iteK (fun _ => hP.mem.refreshIdle h2) fun _ => iteK (fun _ => hP.mem.setDebt h2) fun _ =>
    hP.incSat (hP.mem.refreshIdle (Closed.forAll (fun _ _ h3 => hP.bankClose h3) h2))

theorem Closed.calibrationDue {c rank dqs} (h : P s) : P (Machine.calibrationDue c rank dqs s) :=
  iteK (fun _ => h) fun _ => Closed.forAll (fun _ _ h1 => hP.mem.refreshIdle h1) (Closed.forAll (fun _ _ h1 => hP.bankClose h1) h)

theorem Closed.scrubRead {c p addr bad} (h : P s) : P (Machine.scrubRead c p addr bad s) := by
  unfold Machine.scrubRead
  extract_lets _ _ _ _ _ _ s1 _ s2
  have h1 : P s1 := hP.setFld h
  have h2 : P s2 := hP.mem.bankAccess h1
  refine iteK (fun _ => ?_) fun _ => iteK (fun _ => hP.mem.eccEffects (.inr fun _ _ h3 => hP.setReg h3) h2) fun _ => h2
  extract_lets 
  split
  · exact h2
  · exact hP.mem.correctedError (.inr fun _ _ h3 => hP.setReg h3) h2
  · exact hP.mem.uncorrectable h2

theorem Closed.touchRow {c rank bank row} (h : P s) : P (Machine.touchRow c rank bank row s) :=
  iteK (fun _ => hP.bankClose (hP.mem.activate h)) fun _ => h

theorem Closed.neighbourRefresh {c} (h : P s) : P (Machine.neighbourRefresh c s) := by
  unfold Machine.neighbourRefresh
  extract_lets
  split
  · exact h
  · extract_lets s1 s2 s3
    have h1 : P s1 := hP.core h
    have h2 : P s2 := hP.setFld h1
    have h3 : P s3 := hP.bankClose h2
    exact iteK (fun _ => h2) fun _ => hP.touchRow (iteK (fun _ => h3) fun _ => hP.touchRow h3)

theorem Closed.pageIdle {c rank bank} (h : P s) : P (Machine.pageIdle c rank bank s) := hP.mem.refreshIdle (hP.bankClose h)

theorem Closed.lineCopied {c src line bad} (h : P s) : P (Machine.lineCopied c src line bad s) := by
  unfold Machine.lineCopied
  extract_lets s1
  have h1 : P s1 := hP.mem.eccEffects (.inr fun _ _ h3 => hP.setReg h3) h
  split
  · exact iteK (fun _ => h1) fun _ => hP.mem.lineRewrite h1
  · exact h1

theorem Closed.migrationEnd {c} (h : P s) : P (Machine.migrationEnd c s) := by
  unfold Machine.migrationEnd
  extract_lets _ _ s1 s2
  have h1 : P s1 := by
    unfold s1
    split
    · exact hP.setFld h
    · exact h
  have h2 : P s2 := hP.mem.endMigration (hP.mem.setRankState (hP.mem.setRankState h1))
  exact hP.mem.rankRecord (hP.low.raise h2)

theorem Closed.copyLine {c bad} (h : P s) : P (Machine.copyLine c bad s) := by
  unfold Machine.copyLine
  extract_lets _ _ _ _ _ _ s1 s2 _ s3 s4
  have h1 : P s1 := hP.mem.bankAccess (hP.mem.bankAccess h)
  have h2 : P s2 := hP.lineCopied h1
  have h3 : P s3 := hP.core h2
  have h4 : P s4 := hP.setFld h3
  exact iteK (fun _ => h3) fun _ => iteK (fun _ => hP.migrationEnd h4) fun _ => h4

theorem Closed.startTrained {k bad} (h : P s) : P (Machine.startTrained k bad s) := by
  unfold Machine.startTrained
  extract_lets _ _ s1
  have h1 : P s1 := Closed.forAll (fun _ _ h1 => hP.setFld h1) h
  exact hP.core h1

theorem Closed.freqStep {upTo fails} (h : P s) : P (Machine.freqStep upTo fails s) := by
  unfold Machine.freqStep
  extract_lets s1 _ s2
  have h1 : P s1 := foldlK (fun _ _ h1 => iteK (fun _ => hP.trainFailed h1) fun _ => h1) h
  have h2 : P s2 := hP.freqHeldNow h1
  refine iteK (fun _ => h) fun _ => ?_
  extract_lets 
  split
  · exact iteK (fun _ => hP.startTrained h) fun _ => iteK (fun _ => hP.startTrained (hP.freqHeldNow h)) fun _ => hP.freqHeldNow h
  · exact iteK (fun _ => h2) fun _ => iteK (fun _ => hP.trainStep h2) fun _ => hP.freqDone h2

theorem Closed.thaw {g} (h : P s) : P (Machine.thaw g s) := hP.setFld h

theorem Closed.relockWick {g i} (h : P s) : P (Machine.relockWick g i s) := by
  unfold Machine.relockWick
  extract_lets _ _ _ _ s1 _ s2 s3 s4 s5 _ _ _ s6
  have h1 : P s1 := hP.setFld h
  have h2 : P s2 := hP.core h1
  have h3 : P s3 := hP.setFld h
  have h4 : P s4 := hP.setSat h3
  have h5 : P s5 := hP.incSat h4
  have h6 : P s6 := hP.core h5
  exact iteK (fun _ => hP.sendTrain (hP.wickEvent (hP.uniRestart (hP.fixWick h2)))) fun _ => iteK (fun _ => iteK (fun _ =>
    hP.wickEvent (hP.setFld h)) fun _ => iteK (fun _ => hP.wickEvent (hP.fixWick h6)) fun _ => h) fun _ => h

theorem Closed.attemptFailed {g} (h : P s) : P (Machine.attemptFailed g s) := by
  unfold Machine.attemptFailed
  extract_lets s1 s2
  have h1 : P s1 := hP.setGroup h
  have h2 : P s2 := hP.setFld (hP.setFld h1)
  exact iteK (fun _ => hP.startAttempt h) fun _ => Closed.forAll (fun _ _ h3 => hP.wickEvent h3) (hP.sendTrains (hP.fixOuts h2))

theorem Closed.presetRequest {g} (h : P s) : P (Machine.presetRequest g s) := by
  unfold Machine.presetRequest
  extract_lets _ _ _ s1
  have h1 : P s1 := hP.core h
  exact hP.sendTrains (hP.setFld h1)

theorem Closed.enterVerify {g} (h : P s) : P (Machine.enterVerify g s) := by
  unfold Machine.enterVerify
  extract_lets _ _ s1
  have h1 : P s1 := hP.setGroup h
  exact hP.sendTrains (hP.fixOuts (hP.setFld (hP.setFld h1)))

theorem Closed.identStep {g} (h : P s) : P (Machine.identStep g s) := by
  unfold Machine.identStep
  extract_lets
  exact iteK (fun _ => hP.presetRequest h) fun _ => iteK (fun _ => hP.enterVerify h) fun _ => h

theorem Closed.enterUp {g} (h : P s) : P (Machine.enterUp g s) := by
  unfold Machine.enterUp
  extract_lets s1
  have h1 : P s1 := hP.setGroup h
  refine Closed.forAll (fun _ s2 h2 => ?_) h1
  extract_lets s3 _ s4
  have h3 : P s3 := hP.setFld h2
  have h4 : P s4 := iteK (fun _ => hP.core h3) fun _ => h3
  exact hP.fixWick h4

theorem Closed.groupReact {g} (h : P s) : P (Machine.groupReact g s) := by
  unfold Machine.groupReact
  extract_lets
  exact iteK (fun _ => Closed.forAll (fun _ _ h1 => hP.relockWick h1) h) fun _ => iteK (fun _ => hP.attemptFailed h) fun _ =>
    iteK (fun _ => iteK (fun _ => hP.identStep (hP.setFld h)) fun _ => h) fun _ => iteK (fun _ => hP.identStep h) fun _ =>
      iteK (fun _ => iteK (fun _ => hP.enterUp h) fun _ => h) fun _ => h

theorem Closed.headFaults {g old new} (h : P s) : P (Machine.headFaults g old new s) := by
  unfold Machine.headFaults
  extract_lets _ s1
  have h1 : P s1 := Closed.forAll (fun _ _ h1 => hP.wickEvent h1) h
  exact iteK (fun _ => h) fun _ => iteK (fun _ => hP.lower.assertPath h1) fun _ => h1

theorem Closed.crcErrs {g bits} (h : P s) : P (Machine.crcErrs g bits s) := by
  unfold Machine.crcErrs
  refine Closed.forAll (fun _ s1 h1 => ?_) h
  extract_lets _ s2
  have h2 : P s2 := hP.incSat h1
  exact iteK (fun _ => h2) fun _ => hP.wickEvent (hP.core h2)

theorem Closed.statusSeen {g payload} (h : P s) : P (Machine.statusSeen g payload s) := by
  unfold Machine.statusSeen
  extract_lets _ _ _ s1 s2
  have h1 : P s1 := hP.core h
  have h2 : P s2 := hP.setReg (hP.thaw h1)
  exact hP.groupReact (hP.headFaults (hP.crcErrs h2))

theorem Closed.orderSeen {g payload} (h : P s) : P (Machine.orderSeen g payload s) := by
  unfold Machine.orderSeen
  extract_lets _ _ s1
  have h1 : P s1 := hP.core h
  exact hP.groupReact (hP.setReg (hP.thaw h1))

theorem Closed.uniSettle (h : P s) : P (Machine.uniSettle s) := by
  unfold Machine.uniSettle
  extract_lets
  split
  · exact h
  · extract_lets _ s1 s2 s3
    have h1 : P s1 := hP.setPush (hP.core h)
    have h2 : P s2 := hP.low.complete (hP.setFld h1)
    have h3 : P s3 := Closed.forAll (fun _ _ h3 => hP.wickEvent h3) h
    exact iteK (fun _ => h) fun _ => iteK (fun _ => iteK (fun _ => h2) fun _ => hP.low.flipBanks h2) fun _ => hP.uniEnd h3

theorem Closed.uniRetry {n} (h : P s) : P (Machine.uniRetry n s) := by
  unfold Machine.uniRetry
  split
  · exact h
  · extract_lets _ _ s1
    have h1 : P s1 := hP.setPush h
    exact hP.uniSettle (iteK (fun _ => hP.incSat h1) fun _ => h1)

theorem Closed.tableAck {n st crc} (h : P s) : P (Machine.tableAck n st crc s) := by
  unfold Machine.tableAck
  split
  · exact h
  · extract_lets _ s1
    have h1 : P s1 := hP.setPush h
    split
    · exact h
    · exact iteK (fun _ => hP.uniSettle (hP.setSat h1)) fun _ => hP.uniRetry h

theorem Closed.tableAckSeen {g payload} (h : P s) : P (Machine.tableAckSeen g payload s) := by
  unfold Machine.tableAckSeen
  extract_lets
  exact iteK (fun _ => hP.tableAck (hP.thaw h)) fun _ => hP.thaw h

theorem Closed.lensReport {g sensor t} (h : P s) : P (Machine.lensReport g sensor t s) := by
  unfold Machine.lensReport
  extract_lets _ _ s1 _ s2 _ _ s3 _ s4
  have h1 : P s1 := hP.core h
  have h2 : P s2 := hP.setSFld h1
  have h3 : P s3 := hP.setFld h2
  have h4 : P s4 := hP.core h3
  exact iteK (fun _ => h) fun _ => iteK (fun _ => h4) fun _ => hP.low.raise h4

theorem Closed.lensTempSeen {g payload} (h : P s) : P (Machine.lensTempSeen g payload s) := by
  unfold Machine.lensTempSeen
  extract_lets s1
  have h1 : P s1 := hP.setReg (hP.thaw h)
  exact iteK (fun _ => hP.lensReport h1) fun _ => h1

theorem Closed.unknownSeen {g} (h : P s) : P (Machine.unknownSeen g s) := hP.incSat (hP.thaw h)

theorem Closed.returnBlock {g b} (h : P s) : P (Machine.returnBlock g b s) := by
  unfold Machine.returnBlock
  extract_lets
  exact iteK (fun _ => h) fun _ => iteK (fun _ => hP.statusSeen h) fun _ => iteK (fun _ => hP.orderSeen h) fun _ =>
    iteK (fun _ => hP.tableAckSeen h) fun _ => iteK (fun _ => hP.lensTempSeen h) fun _ => hP.unknownSeen h

theorem Closed.returnHeard {g b} (h : P s) : P (Machine.returnHeard g b s) := by
  unfold Machine.returnHeard
  extract_lets
  exact iteK (fun _ => h) fun _ => iteK (fun _ => hP.core h) fun _ => hP.returnBlock h

theorem Closed.returnLock {g heard} (h : P s) : P (Machine.returnLock g heard s) := by
  unfold Machine.returnLock
  extract_lets _ _ s1 s2
  have h1 : P s1 := hP.core h
  have h2 : P s2 := hP.groupReact (hP.setFld (hP.setFld h1))
  exact iteK (fun _ => h) fun _ => iteK (fun _ => h1) fun _ => foldlK (fun _ _ h3 => hP.returnBlock h3) h2

theorem Closed.returnLost {g} (h : P s) : P (Machine.returnLost g s) := by
  unfold Machine.returnLost
  extract_lets _ s1 s2
  have h1 : P s1 := hP.core h
  have h2 : P s2 := hP.incSat (hP.setFld h1)
  exact iteK (fun _ => Closed.forAll (fun _ _ h3 => hP.wickEvent h3) h2) fun _ => h

theorem Closed.relockLate {n} (h : P s) : P (Machine.relockLate n s) :=
  iteK (fun _ => hP.sendTrain (hP.wickEvent (hP.incSat h))) fun _ => h

theorem Closed.adaptFreeze {i} (h : P s) : P (Machine.adaptFreeze i s) := by
  unfold Machine.adaptFreeze
  extract_lets
  exact iteK (fun _ => iteK (fun _ => hP.setFld h) fun _ => h) fun _ => iteK (fun _ => hP.core h) fun _ => h

theorem Closed.chainThaw {p inputs} (h : P s) : P (Machine.chainThaw p inputs s) := by
  unfold Machine.chainThaw
  extract_lets
  exact hP.setPort h

theorem Closed.chainLink {p cause lane} (h : P s) : P (Machine.chainLink p cause lane s) := by
  unfold Machine.chainLink
  extract_lets
  exact iteK (fun _ => hP.low.raiseErr h) fun _ => hP.low.raise h

theorem Closed.portFix {p lane} (h : P s) : P (Machine.portFix p lane s) := by
  unfold Machine.portFix
  extract_lets _ _ _ _ _ s1 s2 s3 s4 _ s5 s6 s7
  have h1 : P s1 := hP.setFld (hP.setFld h)
  have h2 : P s2 := hP.setFld h1
  have h3 : P s3 := hP.setFld h2
  have h4 : P s4 := iteK (fun _ => hP.chainLink h3) fun _ => h3
  have h5 : P s5 := iteK (fun _ => hP.chainLink (hP.core h4)) fun _ => h4
  have h6 : P s6 := iteK (fun _ => hP.chainLink (hP.setFld h5)) fun _ => h5
  have h7 : P s7 := hP.sendCtrain h6
  exact iteK (fun _ => hP.fixMeasure (Closed.forAll (fun _ _ h8 => hP.measureLane h8) h7)) fun _ => h7

theorem Closed.laneLost {p i} (h : P s) : P (Machine.laneLost p i s) := by
  unfold Machine.laneLost
  extract_lets _ s1
  have h1 : P s1 := hP.setPort (hP.incSat h)
  exact hP.chainLink (hP.setFld h1)

theorem Closed.laneFail {p i} (h : P s) : P (Machine.laneFail p i s) := by
  unfold Machine.laneFail
  extract_lets
  split
  · exact h
  · exact hP.portFix (hP.laneLost (hP.setPort h))

theorem Closed.ctrainSeen {p input payload} (h : P s) : P (Machine.ctrainSeen p input payload s) := by
  unfold Machine.ctrainSeen
  extract_lets _ _ s1 s2 s3
  have h1 : P s1 := hP.setPort h
  have h2 : P s2 := hP.setFld h1
  have h3 : P s3 := iteK (fun _ => hP.setFld h2) fun _ => h2
  exact hP.portFix h3

theorem Closed.ctrain {p input heard} (h : P s) : P (Machine.ctrain p input heard s) := by
  unfold Machine.ctrain
  extract_lets _ _ s1 s2 s3
  have h1 : P s1 := hP.setPort h
  have h2 : P s2 := iteK (fun _ => h1) fun _ => hP.chainThaw h1
  have h3 : P s3 := hP.setFld h2
  refine iteK (fun _ => ?_) fun _ => ?_
  · extract_lets 
    split
    · exact hP.laneFail h2
    · exact h2
  · extract_lets 
    split
    · exact hP.ctrainSeen h3
    · exact h3

theorem Closed.cstat {p payload} (h : P s) : P (Machine.cstat p payload s) := by
  unfold Machine.cstat
  extract_lets s1 _ _ _ s2
  have h1 : P s1 := hP.chainThaw h
  have h2 : P s2 := hP.setPort h1
  exact hP.portFix (Closed.forAll (fun _ _ h3 => hP.laneLost h3) h2)

theorem Closed.cstatTimer (h : P s) : P (Machine.cstatTimer s) :=
  Closed.forAll (fun _ _ h1 => iteK (fun _ => h1) fun _ => hP.chainEmit h1) h

theorem Closed.laneReturn {p i} (h : P s) : P (Machine.laneReturn p i s) := by
  unfold Machine.laneReturn
  extract_lets _ s1
  have h1 : P s1 := hP.portFix (hP.setPort h)
  exact iteK (fun _ => hP.chainLink h1) fun _ => h

theorem Closed.leaveHead (h : P s) : P (Machine.leaveHead s) := by
  unfold Machine.leaveHead
  extract_lets _ s1 s2 _ s3
  have h1 : P s1 := hP.setFld (hP.setFld h)
  have h2 : P s2 := iteK (fun _ => hP.low.setHandD h1) fun _ => h1
  have h3 : P s3 := hP.core h2
  exact iteK (fun _ => h3) fun _ => hP.low.setTbState h3

theorem Closed.addrOffer {offer} (h : P s) : P (Machine.addrOffer offer s) := by
  unfold Machine.addrOffer
  extract_lets s1 s2
  have h1 : P s1 := hP.leaveHead h
  have h2 : P s2 := Closed.forAll (fun _ _ h2 => hP.measureLane h2) h1
  exact iteK (fun _ => iteK (fun _ => hP.takeOffer h2) fun _ => h) fun _ => hP.takeOffer h

theorem Closed.messageThaw {p} (h : P s) : P (Machine.messageThaw p s) := hP.chainThaw h

theorem Closed.addrOfferTimer (h : P s) : P (Machine.addrOfferTimer s) := iteK (fun _ => hP.chainSend h) fun _ => h

theorem Closed.delayResp {i payload t1 t4} (h : P s) : P (Machine.delayResp i payload t1 t4 s) := by
  unfold Machine.delayResp
  extract_lets _ _ _ _ _ s1
  have h1 : P s1 := hP.core h
  exact iteK (fun _ => h) fun _ => iteK (fun _ => hP.fixMeasure (hP.setSat h1)) fun _ => hP.chainEmit h1

theorem Closed.beaconTick {lo} (h : P s) : P (Machine.beaconTick lo s) := by
  unfold Machine.beaconTick
  extract_lets _ _ _ s1
  have h1 : P s1 := iteK (fun _ => hP.low.raise (hP.core h)) fun _ => h
  exact iteK (fun _ => h) fun _ => iteK (fun _ => h1) fun _ => hP.low.setNextTick (hP.setReg h1)

theorem Closed.lockCount {b off limit} (h : P s) : P (Machine.lockCount b off limit s) := by
  unfold Machine.lockCount
  extract_lets _ s1
  have h1 : P s1 := hP.low.setRun h
  exact iteK (fun _ => hP.low.setTbState (hP.core h1)) fun _ => h1

theorem Closed.servoRate {b} (h : P s) : P (Machine.servoRate b s) := by
  unfold Machine.servoRate
  extract_lets
  exact hP.drew (hP.core h)

theorem Closed.fixRate {b} (h : P s) : P (Machine.fixRate b s) := by
  unfold Machine.fixRate
  extract_lets
  exact hP.low.fixSteer (hP.setFld h)

theorem Closed.setPtp {d p} (h : P s) : P (Machine.setPtp s d p) := by
  unfold Machine.setPtp
  extract_lets
  exact hP.core h

theorem Closed.ptpBad {d} (h : P s) : P (Machine.ptpBad d s) := hP.incSat h

theorem Closed.setMpd {d x} (h : P s) : P (Machine.setMpd d x s) := by
  unfold Machine.setMpd
  extract_lets
  exact hP.setSat (hP.setPtp h)

theorem Closed.delayRespSeen {d m} (h : P s) : P (Machine.delayRespSeen d m s) := by
  unfold Machine.delayRespSeen
  extract_lets
  refine iteK (fun _ => h) fun _ => iteK (fun _ => hP.setMpd h) fun _ => iteK (fun _ => h) fun _ => ?_
  extract_lets 
  split
  · exact hP.setMpd h
  · exact h

theorem Closed.noteEdges {i k lim span} (h : P s) : P (Machine.noteEdges i k lim span s).1 := by
  unfold Machine.noteEdges
  extract_lets
  exact hP.setInput h

theorem Closed.snuffNLow (h : P s) : P (Machine.snuffNLow s) := by
  unfold Machine.snuffNLow
  extract_lets p1 s1 _ s2 s3
  have h1 : P p1.1 := hP.noteEdges h
  have h2 : P s1 := hP.setLevel h1
  have h3 : P s2 := hP.core h2
  have h4 : P s3 := hP.lower.assertPath h3
  exact iteK (fun _ => h3) fun _ => iteK (fun _ => hP.inputFault (hP.setInput h4)) fun _ => h4

theorem Closed.snuffNHigh (h : P s) : P (Machine.snuffNHigh s) := by
  unfold Machine.snuffNHigh
  extract_lets _ s1
  have h1 : P s1 := hP.setLevel (hP.setInput h)
  exact hP.core h1

theorem Closed.provEnChange {level} (h : P s) : P (Machine.provEnChange level s) := by
  unfold Machine.provEnChange
  extract_lets held _ r _ s1 v s2
  have h0 : P r.1 := iteF (fun _ => hP.setInput h) fun _ => hP.noteEdges h
  have h1 : P s1 := hP.setInput h0
  have h2 : P s2 := hP.setFld_beside (f := Reg.GEN_STATE_PROV_EN) ⟨by decide, by decide⟩ (by decide) (hP.setLevel h1)
  exact iteK (fun _ => hP.inputFault h2) fun _ => h2

theorem Closed.vrmPoll {r x} (h : P s) : P (Machine.vrmPoll r x s) := by
  unfold Machine.vrmPoll
  extract_lets _ s1 s2
  have h1 : P s1 := hP.setFld (hP.setFld h)
  have h2 : P s2 := hP.incSat h1
  exact iteK (fun _ => h) fun _ => iteK (fun _ => iteK (fun _ => hP.vrmFail h) fun _ => h) fun _ => iteK (fun _ => iteK (fun _ =>
    hP.vrmFail h) fun _ => h) fun _ => iteK (fun _ => h2) fun _ => iteK (fun _ => hP.vrmFail h2) fun _ => iteK (fun _ =>
      iteK (fun _ => hP.vrmNext (hP.lower.setVrm h2)) fun _ => h2) fun _ => h2

theorem Closed.vrmPollAll {xs} (h : P s) : P (Machine.vrmPollAll xs s) := foldlK (fun _ _ h1 => hP.vrmPoll h1) h

theorem Closed.refLoss {i} (h : P s) : P (Machine.refLoss i s) := by
  unfold Machine.refLoss
  extract_lets s1 s2
  have h1 : P s1 := hP.setFld (hP.setFld h)
  have h2 : P s2 := hP.low.raise h1
  exact iteK (fun _ => Closed.forAll (fun _ _ h3 => hP.low.raise (hP.setFld h3)) h2) fun _ => h

theorem Closed.pboReturn {ps} (h : P s) : P (Machine.pboReturn ps s) := by
  unfold Machine.pboReturn
  extract_lets
  exact iteK (fun _ => h) fun _ => iteK (fun _ => hP.setFld h) fun _ => hP.setSFld h

theorem Closed.refReturn {i ps} (h : P s) : P (Machine.refReturn i ps s) := by
  unfold Machine.refReturn
  extract_lets s1 _ s2
  have h1 : P s1 := hP.low.raise (hP.setFld h)
  have h2 : P s2 := Closed.forAll (fun _ _ h2 => hP.setFld h2) h1
  exact iteK (fun _ => h) fun _ => iteK (fun _ => hP.pboReturn h2) fun _ => h2

theorem Closed.refPpm {ppm} (h : P s) : P (Machine.refPpm ppm s) := by
  unfold Machine.refPpm
  extract_lets s1
  have h1 : P s1 := hP.setSFld h
  exact iteK (fun _ => iteK (fun _ => hP.low.raise (hP.core h1)) fun _ => h1) fun _ => h

theorem Closed.freqLocked (h : P s) : P (Machine.freqLocked s) := by
  unfold Machine.freqLocked
  extract_lets
  exact iteK (fun _ => hP.trainStep (hP.core h)) fun _ => h

omit hP in
theorem tblWf_foldl_set (l t : Tbl Byte)
    (h : tblWf 0#8 t = true) : tblWf 0#8 (l.foldl (fun m x => tblSet 0#8 m x.1 x.2) t) = true := by
  induction l generalizing t with
  | nil => exact h
  | cons x l ih => exact ih _ (tblWf_set x.1 x.2 h)

omit hP in
theorem setWf_foldl_insert (l t : List Nat) (h : setWf t = true) : setWf (l.foldl (fun q a => setInsert a q) t) = true := by
  induction l generalizing t with
  | nil => exact h
  | cons x l ih => exact ih _ (setWf_insert x h)

theorem Closed.loseDram (h : P s) : P (Machine.loseDram s) :=
  hP.drew (hP.setMem h (fun _ => tblWf_foldl_set _ _ rfl) fun _ => setWf_foldl_insert _ _ rfl)

theorem Closed.chainLanesFail (h : P s) : P (Machine.chainLanesFail s) :=
  Closed.forAll (fun _ _ h1 => Closed.forAll (fun _ _ h2 => hP.laneFail h2) h1) h

theorem Closed.xpllStops (h : P s) : P (Machine.xpllStops s) :=
  hP.chainLanesFail (Closed.forAll (fun _ _ h1 => hP.returnLost h1) h)

theorem Closed.pllLost {p} (h : P s) : P (Machine.pllLost p s) := by
  unfold Machine.pllLost
  extract_lets s1 _ s2
  have h1 : P s1 := hP.low.relock (hP.incSat h)
  have h2 : P s2 := hP.low.raiseErr h1
  exact iteK (fun _ => hP.raiseFatal h1) fun _ => iteK (fun _ => hP.raiseFatal (hP.loseDram h1)) fun _ => iteK (fun _ =>
    hP.xpllStops h2) fun _ => h2

theorem Closed.lockWindow {p count} (h : P s) : P (Machine.lockWindow p count s) := by
  unfold Machine.lockWindow
  extract_lets _ _ s1
  have h1 : P s1 := hP.setSFld h
  exact iteK (fun _ => h) fun _ => iteK (fun _ => iteK (fun _ => hP.pllLocked (hP.core h1)) fun _ => hP.core h1) fun _ =>
    iteK (fun _ => hP.pllLost h1) fun _ => iteK (fun _ => hP.low.raise (hP.core h1)) fun _ => h1

theorem Closed.overshoot {p count} (h : P s) : P (Machine.overshoot p count s) := by
  unfold Machine.overshoot
  extract_lets s1 s2
  have h1 : P s1 := hP.incSat (hP.low.relock h)
  have h2 : P s2 := hP.low.raiseErr h1
  exact iteK (fun _ => h) fun _ => iteK (fun _ => iteK (fun _ => hP.xpllStops h2) fun _ => h2) fun _ => h

theorem Closed.railDelayExpire {i} (h : P s) : P (Machine.railDelayExpire i s) := by
  unfold Machine.railDelayExpire
  split
  · exact hP.low.setRail h
  · exact iteK (fun _ => hP.low.setRail h) fun _ => h
  · exact h

theorem Closed.railPowerGood {i v} (h : P s) : P (Machine.railPowerGood i v s) := by
  unfold Machine.railPowerGood
  extract_lets s1
  have h1 : P s1 := hP.setSFld (hP.low.setRail h)
  exact iteK (fun _ => iteK (fun _ => hP.lower.lightIfReady (hP.lower.railSeqDone h1)) fun _ => hP.upNext h1) fun _ => h

theorem Closed.railRampDownDone {i} (h : P s) : P (Machine.railRampDownDone i s) := by
  unfold Machine.railRampDownDone
  extract_lets s1 s2
  have h1 : P s1 := hP.low.setRail h
  have h2 : P s2 := iteK (fun _ => hP.lower.railSeqDone h1) fun _ => h1
  exact iteK (fun _ => iteK (fun _ => h1) fun _ => iteK (fun _ => hP.railsUp h2) fun _ => hP.startRails h2) fun _ => h

theorem Closed.alertRead {high} (h : P s) : P (Machine.alertRead high s) := by
  unfold Machine.alertRead
  extract_lets
  exact iteK (fun _ => h) fun _ => hP.setLevel (iteK (fun _ => hP.setInput h) fun _ => h)

theorem Closed.lensUpdateStart (h : P s) : P (Machine.lensUpdateStart s) := by
  unfold Machine.lensUpdateStart
  extract_lets
  refine iteK (fun _ => h) fun _ => ?_
  extract_lets 
  split
  · exact h
  · extract_lets s1 s2 s3
    have h1 : P s1 := hP.core h
    have h2 : P s2 := hP.setFld (hP.lower.setCommon h1)
    have h3 : P s3 := hP.low.setVlcd h2
    exact iteK (fun _ => hP.lower.lensOpenWrite h2) fun _ => hP.core h3

theorem Closed.lensReady {c} (h : P s) : P (Machine.lensReady c s) := by
  unfold Machine.lensReady
  extract_lets
  exact hP.core h

theorem Closed.lensPhaseEnd (h : P s) : P (Machine.lensPhaseEnd s) := by
  unfold Machine.lensPhaseEnd
  split
  · exact iteK (fun _ => hP.setSat (hP.lensDriveNow h)) fun _ => h
  · exact h

theorem Closed.lensEnded {c} (h : P s) : P (Machine.lensEnded c s) := by
  unfold Machine.lensEnded
  extract_lets
  exact hP.setFld (hP.core h)

theorem Closed.lensWaveEnd (h : P s) : P (Machine.lensWaveEnd s) := by
  unfold Machine.lensWaveEnd
  split
  · extract_lets s1 _ s2
    have h1 : P s1 := Closed.forAll (fun _ _ h1 => hP.setFld h1 (lensLevel_ne _)) h
    have h2 : P s2 := hP.core h1
    exact iteK (fun _ => h) fun _ => iteK (fun _ => iteK (fun _ => hP.lensEnded h2) fun _ => hP.waveStart h2) fun _ =>
      hP.lensEnded h
  · exact h

theorem Closed.lensOvercurrent {output} (h : P s) : P (Machine.lensOvercurrent output s) := by
  unfold Machine.lensOvercurrent
  split
  · next c _ _ =>
    extract_lets n s1 _ s2
    have h2 : P s2 := hP.core (hP.lower.lensStop h)
    exact hP.lensFault (by decide) (hP.lensFault (by decide) (iteK (fun _ => hP.lower.setCommon h2) fun _ => h2))
  · exact h

theorem Closed.patrolRead {kind} (h : P s) : P (Machine.patrolRead kind s) := by
  unfold Machine.patrolRead
  extract_lets g v s1
  have h0 : P { s with nvmBad := tblSet 0 s.nvmBad g v } := hP.setNvm h id (tblWf_set g v)
  have h1 : P s1 := hP.core h0
  exact iteK (fun _ => h) fun _ => hP.setFld (hP.mem.nvmGroupRead h1)

theorem Closed.logSecond (h : P s) : P (Machine.logSecond s) := by
  unfold Machine.logSecond
  extract_lets
  exact hP.core h

theorem Closed.sensorRead {i v} (h : P s) : P (Machine.sensorRead i v s) := by
  unfold Machine.sensorRead
  extract_lets _ s1
  have h1 : P s1 := hP.setFld (hP.setSFld h)
  exact iteK (fun _ => hP.low.raiseErr h1) fun _ => h1

theorem Closed.junction (h : P s) : P (Machine.junction s).1 := by
  unfold Machine.junction
  split
  · exact h
  · exact hP.drew h

theorem Closed.thermalLevel {lvl i tj} (h : P s) : P (Machine.thermalLevel lvl i tj s) := by
  unfold Machine.thermalLevel
  extract_lets s1
  have h1 : P s1 := hP.setFld h
  exact iteK (fun _ => hP.lower.assertPath (hP.low.raiseErr h1)) fun _ => hP.low.raise h1

theorem Closed.thermalSample {readings} (h : P s) : P (Machine.thermalSample readings s) := by
  unfold Machine.thermalSample
  extract_lets s1 _ p1 _ _ s2 _ _ s3 _ s4 s5
  have h1 : P s1 := foldlK (fun _ _ h1 => hP.sensorRead h1) h
  have h2 : P p1.1 := hP.junction h1
  have h3 : P s2 := hP.setFld (hP.setSFld h2)
  have h4 : P s3 := hP.core h3
  have h5 : P s4 := iteK (fun _ => hP.thermalLevel h4) fun _ => h4
  have h6 : P s5 := iteK (fun _ => hP.thermalLevel h5) fun _ => h5
  exact iteK (fun _ => hP.thermalLevel h6) fun _ => h6

theorem Closed.fwWatchdog (h : P s) : P (Machine.fwWatchdog s) := by
  unfold Machine.fwWatchdog
  extract_lets _ _ _ s1 s2
  have h1 : P s1 := hP.lower.logCount (hP.incSat h)
  have h2 : P s2 := hP.core h1
  exact iteK (fun _ => hP.raiseFatal h2) fun _ => hP.low.raiseErr h2

theorem Closed.coreRestartDone (h : P s) : P (Machine.coreRestartDone s) :=
  iteK (fun _ => hP.bootPatches (hP.core h)) fun _ => h

theorem Closed.logRailFault (h : P s) : P (Machine.logRailFault s) := by
  unfold Machine.logRailFault
  extract_lets s1
  have h1 : P s1 := hP.lower.logCount h
  exact hP.core h1

theorem Closed.pdelayReq {d seq rx tx} (h : P s) : P (Machine.pdelayReq d seq rx tx s) :=
  iteK (fun _ => hP.low.emit h) fun _ => hP.ptpBad h

theorem Closed.delayReqTimer {d} (h : P s) : P (Machine.delayReqTimer d s) := by
  unfold Machine.delayReqTimer
  extract_lets
  exact iteK (fun _ => hP.low.emit (hP.setPtp h)) fun _ => iteK (fun _ => hP.low.emit (hP.setPtp h)) fun _ => h

theorem Closed.resetNShortPulse (h : P s) : P (Machine.resetNShortPulse s) := by
  unfold Machine.resetNShortPulse
  extract_lets p1
  have h1 : P p1.1 := hP.noteEdges (hP.resetNHigh h)
  exact iteK (fun _ => h) fun _ => iteK (fun _ => hP.inputFault h1) fun _ => h1

end

end Sys2Proof.Kept
end

section
/-! PROOFS. So do the operations that run through lists and memory, and those built on them. -/

namespace Sys2Proof.Kept

set_option Elab.async false

open Machine

section

variable {R : Prop} {P : State → Prop} (hP : Closed R P) {s : State}
include hP

theorem Closed.scanReset (h : P s) : P (Machine.scanReset s) := by
  unfold Machine.scanReset
  extract_lets keep s1 s2 s3
  have h1 : P s1 := hP.lower.stopRaster h
  have h3 : P s3 := by
    clear_value s1
    have hl : lamp { s1 with regs := keep s1.regs } = lamp s1 :=
      lamp_congr (fld_congr_reg (tblGet_filter (resetOf Reg.GEN_STATE) s1.regs fun _ => rfl))
    have h2 : P { s1 with regs := keep s1.regs } := hP.still (canonical_regs (regsWf_filter _)) hl rfl rfl (.inl rfl) h1
    exact hP.core (s := { s1 with regs := keep s1.regs }) h2
  exact hP.setFld (hP.resetReg (hP.resetReg h3))

theorem Closed.warmClear (h : P s) : P (Machine.warmClear s) := by
  unfold Machine.warmClear
  extract_lets s1 s2 _ s3 s4 s5 s6
  have h0 : P { s1 with orderly := none } := hP.orderlyTo (.inr rfl) (hP.lower.actInForce h)
  have h2 : P s2 := hP.bltAbort (hP.hleAbort (hP.core (s := { s1 with orderly := none }) h0))
  have h3 : P s3 := hP.uniFree (hP.core h2)
  have h4 : P s4 := hP.setRegs (hP.ringRegsReset (hP.hostClear h3))
  have h5 : P s5 := hP.setFld (hP.setFld (hP.setFld (hP.setFld_beside (f := Reg.GEN_STATE_TEST) ⟨by decide, by decide⟩ (by decide)
    (hP.setFld (hP.setFld (hP.setFld h4))))))
  have h6 : P s6 := hP.marksAsLast (hP.chainReset (hP.timeReset (hP.reelStop (hP.dramReset (hP.scanReset h5)))))
  exact hP.fixTables (hP.low.fixLeases h6)

theorem Closed.lensApply {first ns} (h : P s) : P (Machine.lensApply first ns s) := hP.targetsChanged (hP.lower.setTargets h)

theorem Closed.lensSetRun {j d} (h : P s) : P (Machine.lensSetRun j d s) := by
  unfold Machine.lensSetRun
  extract_lets _ _ _ _ p1
  have h1 : P p1.1 := iteF (fun _ => h) fun _ => hP.mem.memRead h
  exact iteK (fun _ => hP.low.complete h) fun _ => iteK (fun _ => hP.low.complete h) fun _ => iteK (fun _ => hP.low.complete h1) fun _ =>
    hP.low.complete (hP.lensApply h1)

theorem Closed.slotImage {k} (h : P s) : P (Machine.slotImage k s).1 := by
  unfold Machine.slotImage
  dsimp only
  exact hP.mem.nvmTouch h

theorem Closed.lensLoad {c} (h : P s) : P (Machine.lensLoad c s) := by
  unfold Machine.lensLoad
  extract_lets _ s1
  have h1 : P s1 := hP.recordLevels h
  exact hP.lower.setCommon (hP.lower.setTargets h1)

theorem Closed.lensLeftOpen {c} (h : P s) : P (Machine.lensLeftOpen c s) := by
  unfold Machine.lensLeftOpen
  extract_lets
  exact hP.lower.setCommon (hP.lower.setTargets (hP.recordLevels h))

theorem Closed.lensRecovered {c band} (h : P s) : P (Machine.lensRecovered c band s) := by
  unfold Machine.lensRecovered
  extract_lets s1 _ _ s2 s3 s4
  have h1 : P s1 := hP.lensResetDrive h
  have h2 : P s2 := hP.lensBlockEnd (hP.lower.nvmWriteLens h1)
  have h3 : P s3 := hP.recordLevels h2
  have h4 : P s4 := hP.lower.setCommon (hP.lower.setTargets h3)
  exact hP.low.raise (hP.incSat h4)

theorem Closed.cmpLate {n a1} (h : P s) : P (Machine.cmpLate n a1 s) := by
  induction a1 generalizing s with
  | zero =>
    rw [Machine.cmpLate]
    exact h
  | succ k ih =>
    rw [Machine.cmpLate]
    exact iteK (fun _ => ih (hP.cmpFire h)) fun _ => h

theorem Closed.cmpSweep (h : P s) : P (Machine.cmpSweep s) := Closed.forAll (fun _ _ h1 => hP.cmpLate h1) h

theorem Closed.becomeHead {absent} (h : P s) : P (Machine.becomeHead absent s) := by
  unfold Machine.becomeHead
  extract_lets s1
  have h1 : P s1 := hP.setFld (hP.setFld h)
  exact hP.cmpSweep (hP.low.fixTb3 (hP.fixOffer (hP.setFld h1)))

theorem Closed.chainStart {ball} (h : P s) : P (Machine.chainStart ball s) := by
  unfold Machine.chainStart
  extract_lets s1 s2
  have h1 : P s1 := hP.chainAgain (hP.setFld (hP.setReg h))
  have h2 : P s2 := hP.portTrain (hP.portTrain h1)
  exact iteK (fun _ => h1) fun _ => iteK (fun _ => hP.becomeHead h2) fun _ => h2

theorem Closed.begin11 {ball fast} (h : P s) : P (Machine.begin11 ball fast s) := by
  unfold Machine.begin11
  extract_lets _ s1
  have h1 : P s1 := hP.setLevel (hP.startStep h)
  exact hP.chainStart (iteK (fun _ => hP.inputFault h1) fun _ => h1)

theorem Closed.hostRead {io a n} (h : P s) : P (Machine.hostRead io a n s) := by
  unfold Machine.hostRead
  extract_lets p1 s1
  have h1 : P p1.1 := hP.mem.memRead h
  have h2 : P s1 := hP.low.emit h1
  exact iteK (fun _ => hP.hostPoison h2) fun _ => h2

theorem Closed.linesWrite {poison a1 a2 a3} (h : P s) : P (Machine.linesWrite poison a1 a2 a3 s) := by
  induction a1 generalizing a2 a3 s with
  | zero =>
    rw [Machine.linesWrite]
    exact h
  | succ k ih =>
    rw [Machine.linesWrite]
    exact ih (hP.mem.lineWrite h)

theorem Closed.memWrite {a data poison} (h : P s) : P (Machine.memWrite a data poison s) := hP.linesWrite h

theorem Closed.hostWrite {a data poison} (h : P s) : P (Machine.hostWrite a data poison s) := hP.hostLease (hP.memWrite h)

theorem Closed.aperture {off acc} (h : P s) : P (Machine.aperture off acc s) := by
  unfold Machine.aperture
  extract_lets
  split
  · exact iteK (fun _ => hP.hostRead h) fun _ => hP.aperMiss (hP.low.emit h)
  · exact iteK (fun _ => hP.hostWrite h) fun _ => hP.aperMiss h

theorem Closed.switchTo {b cause} (h : P s) : P (Machine.switchTo b cause s) := by
  unfold Machine.switchTo
  extract_lets _ _ _ s1 s2 s3 s4 _ s5 s6
  have h1 : P s1 := hP.setSource h
  have h2 : P s2 := hP.low.fixTb3 (hP.low.setHandD h1)
  have h3 : P s3 := hP.low.fixTb3 (hP.low.setHandD h1)
  have h4 : P s4 := hP.low.raise h3
  have h5 : P s5 := hP.incSat h4
  have h6 : P s6 := hP.low.raise h5
  exact iteK (fun _ => hP.low.raise h2) fun _ => hP.cmpSweep (hP.low.realign h6)

theorem Closed.tb3Handover {v} (h : P s) : P (Machine.tb3Handover v s) := by
  unfold Machine.tb3Handover
  extract_lets _ _ s1 s2
  have h1 : P s1 := hP.setFld h
  have h2 : P s2 := iteK (fun _ => h1) fun _ => hP.low.setHandD (hP.setHandTb3 h1)
  exact hP.cmpSweep (hP.low.raise (hP.low.fixTb3 h2))

theorem Closed.tb3SrcWrite {v} (h : P s) : P (Machine.tb3SrcWrite v s) := by
  unfold Machine.tb3SrcWrite
  extract_lets
  exact iteK (fun _ => h) fun _ => iteK (fun _ => h) fun _ => iteK (fun _ => iteK (fun _ => hP.switchTo h) fun _ =>
    hP.cmpSweep (hP.low.realign (hP.low.fixTb3 (hP.low.setHandD (hP.setFld h))))) fun _ => iteK (fun _ => hP.tb3Handover h) fun _ =>
      hP.cmpSweep (hP.low.fixTb3 (hP.setFld h))

theorem Closed.writeTimeCfg {v} (h : P s) : P (Machine.writeTimeCfg v s) := by
  unfold Machine.writeTimeCfg
  extract_lets _ _ s1 s2
  have h1 : P s1 := hP.setFld (hP.plainWrite h)
  have h2 : P s2 := iteK (fun _ => h1) fun _ => hP.low.syncDiscFix h1
  exact hP.tb3SrcWrite h2

theorem Closed.selWrite {v} (h : P s) : P (Machine.selWrite v s) := by
  unfold Machine.selWrite
  extract_lets
  exact iteK (fun _ => h) fun _ => iteK (fun _ => hP.switchTo h) fun _ => iteK (fun _ => h) fun _ =>
    hP.cmpSweep (hP.low.realign (hP.low.fixTb3 (hP.low.setHandD (hP.setFld h))))

theorem Closed.stepBase {b d cause} (h : P s) : P (Machine.stepBase b d cause s) := by
  unfold Machine.stepBase
  extract_lets _ s1 s2 s3
  have h1 : P s1 := hP.incSat (hP.low.fixTb3 (hP.low.setFull h))
  have h2 : P s2 := hP.low.raise h1
  have h3 : P s3 := iteK (fun _ => hP.low.realign h2) fun _ => h2
  exact hP.cmpSweep h3

theorem Closed.tb0Step {ns} (h : P s) : P (Machine.tb0Step ns s) := by
  unfold Machine.tb0Step
  extract_lets
  exact iteK (fun _ => h) fun _ => hP.stepBase h

theorem Closed.cmpCfgWrite {n v} (h : P s) : P (Machine.cmpCfgWrite n v s) := by
  unfold Machine.cmpCfgWrite
  extract_lets _ _ _ _ s1
  have h1 : P s1 := hP.setReg h
  exact iteK (fun _ => hP.cmpLate h1) fun _ => h1

theorem Closed.writeTime {off v} (h : P s) : P (Machine.writeTime off v s) := by
  unfold Machine.writeTime
  extract_lets s1
  have h1 : P s1 := hP.plainWrite h
  exact iteK (fun _ => hP.writeTimeCfg h) fun _ => iteK (fun _ => Closed.onBit (fun h2 => hP.setReg h2) (hP.selWrite h)) fun _ =>
    iteK (fun _ => hP.t0Write h) fun _ => iteK (fun _ => hP.tb0Step h) fun _ => iteK (fun _ => hP.cmpCfgWrite h) fun _ =>
      iteK (fun _ => Closed.onBit (fun h2 => hP.setReg h2) (Closed.onBit (fun h2 => hP.remeasure h2) h)) fun _ => iteK (fun _ =>
        hP.cmpSweep (hP.low.fixTb3 (hP.plainWrite h))) fun _ => iteK (fun _ => iteK (fun _ => h1) fun _ => hP.low.ptpJoin h1) fun _ =>
          hP.plainWrite h

theorem Closed.snapPages {a0 a1 a2} (h : P s) : P (Machine.snapPages a0 a1 a2 s) := by
  induction a0 generalizing a1 a2 s with
  | zero =>
    rw [Machine.snapPages]
    exact h
  | succ k ih =>
    rw [Machine.snapPages]
    exact ih (hP.lower.nvmWrite h)

theorem Closed.snapshotWrite (h : P s) : P (Machine.snapshotWrite s) := by
  unfold Machine.snapshotWrite
  extract_lets _ _ _ s1
  have h1 : P s1 := iteK (fun _ => hP.lower.logCount (hP.core h)) fun _ => h
  exact hP.snapPages (hP.core h1)

theorem Closed.logUpdate (h : P s) : P (Machine.logUpdate s) := hP.snapshotWrite (hP.candleUpdate (hP.setFld h))

theorem Closed.writeMgmt {off v} (h : P s) : P (Machine.writeMgmt off v s) :=
  iteK (fun _ => Closed.onBit (fun h1 => hP.railDownCmd h1) (Closed.onBit (fun h1 => hP.railUpCmd h1) h)) fun _ => iteK (fun _ =>
    Closed.onBit (fun h1 => hP.nvmClr h1) h) fun _ => iteK (fun _ => Closed.forAll (fun _ _ h1 => hP.clearEvent h1) h) fun _ =>
      iteK (fun _ => Closed.onBit (fun h1 => hP.firstFatalAck h1) h) fun _ => iteK (fun _ =>
        Closed.onBit (fun h1 => hP.logUpdate h1) h) fun _ => hP.plainWrite h

theorem Closed.regWrite {off v} (h : P s) : P (Machine.regWrite off v s) :=
  iteK (fun _ => hP.writeRing h) fun _ => iteK (fun _ => hP.writeHost h) fun _ => iteK (fun _ => hP.writeMem h) fun _ =>
    iteK (fun _ => hP.writeScan h) fun _ => iteK (fun _ => hP.writeMem h) fun _ => iteK (fun _ => hP.writeScan h) fun _ =>
      iteK (fun _ => hP.writeTime h) fun _ => iteK (fun _ => hP.writeClk h) fun _ => hP.writeMgmt h

/-- A low half that is held is no concern of `P`. -/
def Holds (P : State → Prop) : Prop := ∀ {s : State} {x : Nat × Nat}, P s → P { s with held := some x }

theorem Closed.write32 {off v} (hH : Holds P) (h : P s) : P (Machine.write32 off v s) := by
  unfold Machine.write32
  refine iteK (fun _ => hP.cxlWrite h) fun _ => iteK (fun _ => hP.msixWrite h) fun _ => iteK (fun _ => hP.core h) fun _ => ?_
  extract_lets 
  split
  · exact iteK (fun _ => hH h) fun _ => hP.regWrite (hP.core h)
  · refine iteK (fun _ => hP.copyWrite h) fun _ => ?_
    extract_lets 
    split
    · extract_lets
      exact iteK (fun _ => h) fun _ => hP.regWrite (hP.core h)
    · exact hP.copyWrite h

theorem Closed.barWrite {off wide v} (hH : Holds P) (h : P s) : P (Machine.barWrite off wide v s) := by
  unfold Machine.barWrite
  refine iteK (fun _ => hP.write32 hH h) fun _ => ?_
  extract_lets 
  split
  · exact iteK (fun _ => hP.regWrite (hP.core h)) fun _ => hP.write32 hH (hP.write32 hH h)
  · exact hP.write32 hH (hP.write32 hH h)

omit hP in
theorem lt_of_ringOrder {r : Nat} {p : Nat → Bool} (h : (ringOrder s).find? p = some r) : r < 8 := by
  obtain ⟨i, -, rfl⟩ := List.mem_map.1 (List.mem_of_find?_eq_some h)
  exact Nat.mod_lt _ (by decide)

theorem Closed.takeFrom {r} (hr : r < 8) (h : P s) : P (Machine.takeFrom r s) := by
  unfold Machine.takeFrom
  extract_lets _ p1 _ s1 s2 _ s3
  have h1 : P p1.1 := hP.mem.memRead h
  have h2 : P s1 := hP.setFld h1
  have h3 : P s2 := hP.setFld h2
  have h4 : P s3 := hP.setRing (hP.core h3)
  exact iteK (fun _ => hP.low.cqWrite hr h4) fun _ => iteK (fun _ => hP.setRing h4) fun _ => hP.low.cqWrite hr h4

theorem Closed.takeNext (h : P s) : P (Machine.takeNext s) := by
  unfold Machine.takeNext
  split
  · exact hP.takeFrom (lt_of_ringOrder ‹_›) h
  · exact h

theorem Closed.setSpan {n e} (h : P s) : P (Machine.setSpan n e s) := by
  unfold Machine.setSpan
  extract_lets
  exact hP.mem.clientWrite h

theorem Closed.reelMapOp {d} (h : P s) : P (Machine.reelMapOp d s).1 := by
  unfold Machine.reelMapOp
  extract_lets
  split
  · exact iteF (fun _ => h) fun _ => iteF (fun _ => h) fun _ => hP.setSpan h
  · exact iteF (fun _ => h) fun _ => iteF (fun _ => h) fun _ => iteF (fun _ => h) fun _ => hP.setSpan h
  · exact iteF (fun _ => h) fun _ => hP.setSpan h
  · exact iteF (fun _ => h) fun _ => iteF (fun _ => h) fun _ => hP.setSpan h
  · exact h

theorem Closed.fetchLines {grp a1 a2} (h : P s) : P (Machine.fetchLines grp a1 a2 s).1 := by
  induction a1 generalizing a2 s with
  | nil =>
    rw [Machine.fetchLines]
    exact h
  | cons x t ih =>
    rw [Machine.fetchLines]
    extract_lets p1
    have h1 : P p1.1 := hP.mem.lineRead h
    exact iteF (fun _ => ih h) fun _ => ih h1

theorem Closed.blIssue {edges a1 a2} (h : P s) : P (Machine.blIssue edges a1 a2 s).1 := by
  induction a1 generalizing a2 s with
  | nil =>
    rw [Machine.blIssue]
    exact h
  | cons x t ih =>
    rw [Machine.blIssue]
    extract_lets _ _ s1 s2
    have h1 : P s1 := iteK (fun _ => hP.lineMerge h) fun _ => h
    have h2 : P s2 := hP.memWrite h1
    exact iteF (fun _ => ih (iteK (fun _ => hP.incSat h2) fun _ => h2)) fun _ => hP.mem.rejectWrite h

theorem Closed.blRun {x} (h : P s) : P (Machine.blRun x s) := by
  unfold Machine.blRun
  extract_lets _ _ _ p1 _ _ p2
  have h1 : P p1.1 := hP.fetchLines h
  have h2 : P p2.1 := hP.blIssue h1
  refine iteK (fun _ => hP.blEnd h) fun _ => ?_
  extract_lets 
  split
  · exact hP.blEnd h2
  · exact hP.blEnd h2

theorem Closed.hleWrite {a bs} (h : P s) : P (Machine.hleWrite a bs s) :=
  iteK (fun _ => hP.memWrite h) fun _ => hP.mem.rejectWrite h

theorem Closed.hzEnd {x r at_} (h : P s) : P (Machine.hzEnd x r at_ s) := by
  unfold Machine.hzEnd
  extract_lets s1 s2 s3 s4 s5 s6
  have h1 : P s1 := iteK (fun _ => hP.hleWrite h) fun _ => h
  have h2 : P s2 := hP.hzCount h1
  have h3 : P s3 := iteK (fun _ => hP.low.raise h2) fun _ => h2
  have h4 : P s4 := iteK (fun _ => hP.low.raise h3) fun _ => h3
  have h5 : P s5 := iteK (fun _ => hP.low.raise h4) fun _ => h4
  have h6 : P s6 := hP.low.raise h5
  exact hP.low.complete h6

theorem Closed.readEntry {a} (h : P s) : P (Machine.readEntry a s).1 := by
  unfold Machine.readEntry
  extract_lets p1
  have h1 : P p1.1 := hP.mem.memRead h
  exact iteF (fun _ => h1) fun _ => h1

theorem Closed.readChain {a0 a1 a2 a3} (h : P s) : P (Machine.readChain a0 a1 a2 a3 s).1 := by
  induction a0 generalizing a1 a2 a3 s with
  | zero =>
    rw [Machine.readChain]
    exact h
  | succ k ih =>
    rw [Machine.readChain]
    split
    · exact hP.readEntry h
    · extract_lets
      exact iteF (fun _ => iteF (fun _ => hP.readEntry h) fun _ => ih (hP.readEntry h)) fun _ => iteF (fun _ =>
        hP.readEntry h) fun _ => iteF (fun _ => hP.readEntry h) fun _ => ih (hP.readEntry h)

theorem Closed.hzJobRun {j d} (h : P s) : P (Machine.hzJobRun j d s) := by
  unfold Machine.hzJobRun
  extract_lets _ p1 s1
  have h1 : P p1.1 := hP.readChain h
  have h2 : P s1 := h1
  refine iteK (fun _ => hP.hzEnd h) fun _ => ?_
  extract_lets 
  split
  · exact hP.hzEnd h1
  · exact hP.core h2

theorem Closed.dstNext {a0 a1} (h : P s) : P (Machine.dstNext a0 a1 s).1 := by
  induction a0 generalizing a1 s with
  | zero =>
    rw [Machine.dstNext]
    exact h
  | succ k ih =>
    rw [Machine.dstNext]
    split
    · exact h
    · extract_lets p1
      have h1 : P p1.1 := hP.readEntry h
      split
      · exact h1
      · extract_lets
        exact iteF (fun _ => iteF (fun _ => h1) fun _ => ih h1) fun _ => iteF (fun _ => ih h1) fun _ => iteF (fun _ =>
          h1) fun _ => h1

theorem Closed.dstWrite {d bs} (h : P s) : P (Machine.dstWrite d bs s).1 :=
  iteF (fun _ => hP.memWrite h) fun _ => hP.mem.rejectWrite h

theorem Closed.hzPump {fuel a1 a2 a3 a4} (h : P s) : P (Machine.hzPump fuel a1 a2 a3 a4 s).1 := by
  induction a1 generalizing a2 a3 a4 s with
  | zero =>
    rw [Machine.hzPump]
    exact h
  | succ k ih =>
    rw [Machine.hzPump]
    split
    · exact h
    · exact h
    · extract_lets
      refine iteF (fun _ => ?_) fun _ => ?_
      · extract_lets 
        split
        next s1 e1 =>
          have h1 : P s1 := of_pair e1 (hP.dstNext h)
          exact h1
        next s1 e1 =>
          have h1 : P s1 := of_pair e1 (hP.dstNext h)
          exact h1
        next s1 _ e1 =>
          have h1 : P s1 := of_pair e1 (hP.dstNext h)
          exact ih h1
      · extract_lets 
        split
        next s1 e1 =>
          have h1 : P s1 := of_pair e1 (hP.dstWrite h)
          exact h1
        next s1 _ e1 =>
          have h1 : P s1 := of_pair e1 (hP.dstWrite h)
          exact ih h1

theorem Closed.readSource {grp a1 a2 a3} (h : P s) : P (Machine.readSource grp a1 a2 a3 s) := by
  induction a1 generalizing a2 a3 s with
  | nil =>
    rw [Machine.readSource]
    exact h
  | cons x t ih =>
    rw [Machine.readSource]
    exact iteK (fun _ => h) fun _ => iteK (fun _ => ih h) fun _ => ih (hP.mem.memRead h)

theorem Closed.hzInflate {x src q} (h : P s) : P (Machine.hzInflate x src q s) := by
  unfold Machine.hzInflate
  extract_lets _ p1 _ _ _ _ s1 s2 _ _ s3
  have h1 : P p1.1 := hP.hzPump h
  have h2 : P s1 := hP.readSource (hP.readSource h1)
  have h3 : P s2 := hP.pipeBytes h2
  have h4 : P s3 := hP.hleWrite h3
  split
  · exact hP.hzEnd h3
  · exact hP.hzEnd h3
  · exact hP.hzEnd h3
  · exact hP.hzEnd h3
  · exact iteK (fun _ => hP.hzEnd (hP.hleWrite h4)) fun _ => hP.hzEnd h3

theorem Closed.hzPut {a0 a1 a2 a3} (h : P s) : P (Machine.hzPut a0 a1 a2 a3 s).1 := by
  induction a0 generalizing a1 a2 a3 s with
  | zero =>
    rw [Machine.hzPut]
    exact h
  | succ k ih =>
    rw [Machine.hzPut]
    extract_lets
    refine iteF (fun _ => h) fun _ => iteF (fun _ => ?_) fun _ => ?_
    · extract_lets 
      split
      next s1 e1 =>
        have h1 : P s1 := of_pair e1 (hP.dstNext h)
        exact h1
      next s1 e1 =>
        have h1 : P s1 := of_pair e1 (hP.dstNext h)
        exact h1
      next s1 _ e1 =>
        have h1 : P s1 := of_pair e1 (hP.dstNext h)
        exact ih h1
    · extract_lets 
      split
      next s1 e1 =>
        have h1 : P s1 := of_pair e1 (hP.dstWrite h)
        exact h1
      next s1 _ e1 =>
        have h1 : P s1 := of_pair e1 (hP.dstWrite h)
        exact ih h1

theorem Closed.hzDeflate {x src} (h : P s) : P (Machine.hzDeflate x src s) := by
  unfold Machine.hzDeflate
  extract_lets _ _ _ p1 _ _ s1
  have h1 : P p1.1 := hP.hzPut h
  have h2 : P s1 := hP.pipeBytes (hP.readSource h1)
  split
  · extract_lets s2
    have h3 : P s2 := hP.readSource h
    exact hP.hzEnd (hP.pipeBytes h3)
  · split
    · exact iteK (fun _ => hP.hzEnd h2) fun _ => hP.hzEnd h2
    · exact hP.hzEnd h2
    · exact hP.hzEnd h2
    · exact hP.hzEnd h2

theorem Closed.hzHeadBad {x rec e} (h : P s) : P (Machine.hzHeadBad x rec e s) := by
  unfold Machine.hzHeadBad
  extract_lets
  exact hP.hzEnd (hP.pipeBytes (hP.readSource h))

theorem Closed.hzRunJob {x} (h : P s) : P (Machine.hzRunJob x s) := by
  unfold Machine.hzRunJob
  extract_lets _ p1 p2
  have h1 : P p1.1 := hP.mem.memRead h
  have h2 : P p2.1 := hP.mem.memRead h1
  refine iteK (fun _ => hP.hzInflate h) fun _ => iteK (fun _ => hP.hzDeflate h) fun _ => iteK (fun _ => hP.hzEnd h2) fun _ => ?_
  extract_lets 
  split
  · exact hP.hzEnd h2
  · exact hP.hzHeadBad h2
  · exact hP.hzInflate h2

theorem Closed.hzJobEnd {p} (h : P s) : P (Machine.hzJobEnd p s) := by
  unfold Machine.hzJobEnd
  split
  · exact h
  · extract_lets s1 _ s2
    have h1 : P s1 := hP.hzRunJob h
    have h2 : P s2 := hP.core h1
    exact hP.setReg (hP.low.setPipe h2)

theorem Closed.nvmReadCopyDone (h : P s) : P (Machine.nvmReadCopyDone s) := by
  unfold Machine.nvmReadCopyDone
  split
  · exact h
  · extract_lets _ s1 _ s2
    have h1 : P s1 := hP.mem.nvmTouch (hP.core h)
    have h2 : P s2 := hP.mem.nvmCopy h1
    exact hP.nvmComplete h2

theorem Closed.nvmWriteRun {j d} (h : P s) : P (Machine.nvmWriteRun j d s) := by
  unfold Machine.nvmWriteRun
  extract_lets _ _ _ s1 s2 p1
  have h1 : P s1 := hP.mergeRead h
  have h2 : P s2 := iteK (fun _ => h1) fun _ => hP.mergeRead h1
  have h3 : P p1.1 := hP.mem.memRead h2
  refine iteK (fun _ => hP.nvmComplete h) fun _ => ?_
  extract_lets 
  split
  · exact hP.nvmComplete h
  · exact iteK (fun _ => hP.nvmComplete h2) fun _ => hP.lower.nvmWrite h3

theorem Closed.readOpt {grp a n} (h : P s) : P (Machine.readOpt grp a n s).1 := hP.mem.memRead h

theorem Closed.raymapStageDone (h : P s) : P (Machine.raymapStageDone s) := by
  unfold Machine.raymapStageDone
  extract_lets
  split
  · exact h
  · extract_lets p1 s1 _ s2 _ s3
    have h1 : P p1.1 := hP.readOpt h
    have h2 : P s1 := h1
    have h3 : P s2 := iteK (fun _ => hP.pipeBytes h2) fun _ => h2
    have h4 : P s3 := hP.low.stageFree (hP.core h3)
    refine iteK (fun _ => h) fun _ => ?_
    extract_lets 
    split
    · exact hP.low.complete (hP.low.raise (hP.low.slotFree h4))
    · extract_lets s4 s5 _ s6
      have h5 : P s4 := hP.mem.clientWrite h4
      have h6 : P s5 := hP.mem.clientWrite h5
      have h7 : P s6 := hP.low.complete (hP.setFld (hP.core h6))
      exact iteK (fun _ => hP.low.quadsFresh (hP.low.swapNow h7)) fun _ => h7

theorem Closed.uniImage {a len} (h : P s) : P (Machine.uniImage a len s).1 := by
  unfold Machine.uniImage
  extract_lets p1 _ _ p2
  have h1 : P p1.1 := hP.mem.memRead h
  have h2 : P p2.1 := hP.mem.memRead h1
  exact iteF (fun _ => h1) fun _ => iteF (fun _ => h2) fun _ => h2

theorem Closed.uniPushRun {j d} (h : P s) : P (Machine.uniPushRun j d s) := by
  unfold Machine.uniPushRun
  extract_lets _ _ _ p1
  have h1 : P p1.1 := hP.uniImage h
  refine iteK (fun _ => hP.low.complete h) fun _ => iteK (fun _ => hP.low.complete h) fun _ => iteK (fun _ => hP.low.complete h) fun _ =>
    iteK (fun _ => hP.poolInternal (hP.setPush h)) fun _ => ?_
  extract_lets 
  split
  · exact hP.low.complete h1
  · exact hP.uniBegin h1

theorem Closed.uniUnpackDone (h : P s) : P (Machine.uniUnpackDone s) := by
  unfold Machine.uniUnpackDone
  split
  · exact h
  · extract_lets v1 s1
    have h1 : P s1 := hP.mem.memRead h
    refine iteK (fun _ => h) fun _ => ?_
    extract_lets 
    clear_value v1
    split
    · extract_lets s2 p1
      have h2 : P s2 := hP.mem.clientWrite (hP.pipeBytes (hP.uniFree h1))
      have h3 : P p1.1 := hP.uniImage h2
      split
      · exact hP.uniEnd h3
      · exact hP.uniBegin h3
    · exact hP.uniEnd (hP.pipeBytes (hP.uniFree h1))

theorem Closed.orderlyDark (hR : R) (h : P s) : P (Machine.orderlyDark s) := by
  unfold Machine.orderlyDark
  extract_lets s1 s2
  have h1 : P s1 := hP.trainsResume (hP.low.settleStopped (hP.lampTo (.inl hR) (hP.lower.stopRaster h)))
  have h2 : P s2 := hP.snapshotWrite (hP.candleUpdate (hP.pauseReel h1))
  exact hP.orderlyEnd (iteK (fun _ => hP.lower.railsDown h2) fun _ => h2)

theorem Closed.keyProvision {o d} (h : P s) : P (Machine.keyProvision o d s) := by
  unfold Machine.keyProvision
  extract_lets _ _ _ _ p1
  have h1 : P p1.1 := hP.mem.memRead h
  exact iteK (fun _ => hP.low.complete h) fun _ => iteK (fun _ => hP.low.complete h) fun _ => iteK (fun _ => hP.low.complete h1) fun _ =>
    iteK (fun _ => hP.low.complete (hP.authFail h1)) fun _ => iteK (fun _ => hP.low.complete (hP.authFail h1)) fun _ =>
      hP.startKey (hP.acceptCounter h1)

theorem Closed.keyLoadRun {j d} (h : P s) : P (Machine.keyLoadRun j d s) := by
  unfold Machine.keyLoadRun
  extract_lets _ p1
  have h1 : P p1.1 := hP.mem.memRead h
  refine iteK (fun _ => hP.low.complete h) fun _ => iteK (fun _ => hP.low.complete h) fun _ => iteK (fun _ => hP.startKey h) fun _ => ?_
  extract_lets 
  split
  · exact hP.low.complete h1
  · exact hP.startKey h1

theorem Closed.patchWrites {j p a2 a3 a4} (h : P s) : P (Machine.patchWrites j p a2 a3 a4 s) := by
  induction a2 generalizing a3 a4 s with
  | zero =>
    rw [Machine.patchWrites]
    exact h
  | succ k ih =>
    rw [Machine.patchWrites]
    exact ih (hP.lower.nvmWrite h)

theorem Closed.fwPatchRun {j d} (h : P s) : P (Machine.fwPatchRun j d s) := by
  unfold Machine.fwPatchRun
  extract_lets _ _ p1 s1
  have h1 : P p1.1 := hP.mem.memRead h
  have h2 : P s1 := h1
  refine iteK (fun _ => hP.low.complete h) fun _ => iteK (fun _ => hP.low.complete (hP.core h)) fun _ => iteK (fun _ =>
    hP.low.complete h) fun _ => iteK (fun _ => hP.low.complete h2) fun _ => ?_
  extract_lets 
  split
  · exact hP.low.complete h2
  · exact hP.patchWrites h2

theorem Closed.lensForceRun {j d} (h : P s) : P (Machine.lensForceRun j d s) := by
  unfold Machine.lensForceRun
  extract_lets _ _ _ _ s1
  have h1 : P s1 := hP.core h
  exact iteK (fun _ => hP.low.complete h) fun _ => iteK (fun _ => hP.low.complete (hP.lower.forceNext h1)) fun _ => hP.lower.forceDone (hP.core h1)

theorem Closed.sendWicks {l late v a3} (h : P s) : P (Machine.sendWicks l late v a3 s).1 := by
  induction a3 generalizing s with
  | nil =>
    rw [Machine.sendWicks]
    exact h
  | cons x t ih =>
    rw [Machine.sendWicks]
    exact ih (hP.sendWick h)

theorem Closed.uniSendEntry {src a1 a2} (h : P s) : P (Machine.uniSendEntry src a1 a2 s).1 := by
  induction a1 generalizing a2 s with
  | zero =>
    rw [Machine.uniSendEntry]
    exact h
  | succ k ih =>
    rw [Machine.uniSendEntry]
    extract_lets p1 s1
    have h1 : P p1.1 := hP.mem.memRead h
    have h2 : P s1 := hP.low.emit h1
    exact iteF (fun _ => h) fun _ => iteF (fun _ => ih h2) fun _ => hP.low.emit h

theorem Closed.uniSendAll {src a1} (h : P s) : P (Machine.uniSendAll src a1 s).1 := by
  induction a1 generalizing s with
  | nil =>
    rw [Machine.uniSendAll]
    exact h
  | cons x t ih =>
    rw [Machine.uniSendAll]
    exact ih (iteF (fun _ => hP.uniSendEntry h) fun _ => h)

theorem Closed.uniSend (h : P s) : P (Machine.uniSend s) := by
  unfold Machine.uniSend
  split
  · exact h
  · extract_lets p1
    have h1 : P p1.1 := hP.uniSendAll h
    exact iteK (fun _ => h) fun _ => hP.setPush h1

theorem Closed.activeRow {v late} (h : P s) : P (Machine.activeRow v late s) := by
  unfold Machine.activeRow
  extract_lets s1 s2 _ s3 p1 s4 s5 s6
  have h1 : P s1 := hP.fixWicks (hP.setFld h)
  have h2 : P s2 := hP.overlayAhead h1
  have h3 : P s3 := hP.incSat h2
  have h4 : P p1.1 := hP.sendWicks h3
  have h5 : P s4 := hP.witRow h4
  have h6 : P s5 := iteK (fun _ => iteK (fun _ => hP.rowZeroSent h5) fun _ => h5) fun _ => h3
  have h7 : P s6 := hP.uniSend (hP.dropRows (hP.overlayDrop h6))
  exact hP.core h7

theorem Closed.rowStart {late} (h : P s) : P (Machine.rowStart late s) := by
  unfold Machine.rowStart
  extract_lets _ s1
  have h1 : P s1 := hP.setFld h
  refine iteK (fun _ => ?_) fun _ => iteK (fun _ => hP.uniSend h) fun _ => iteK (fun _ => h) fun _ => iteK (fun _ =>
    hP.uniSend (hP.scanAbort h)) fun _ => hP.activeRow h
  extract_lets 
  split
  · exact iteK (fun _ => hP.activeRow (hP.startFrame (hP.core h))) fun _ => hP.uniSend h
  · exact iteK (fun _ => hP.uniSend (hP.core h1)) fun _ => h

theorem Closed.scanRestart (h : P s) : P (Machine.scanRestart s) := by
  unfold Machine.scanRestart
  extract_lets _ s1
  have h1 : P s1 := hP.core h
  exact hP.activeRow (hP.sendFrameStart h1)

theorem Closed.aheadOf {n o e} (h : P s) : P (Machine.aheadOf n o e s).1 := by
  unfold Machine.aheadOf
  extract_lets p1
  have h1 : P p1.1 := hP.mem.memRead h
  exact h1

theorem Closed.readAhead (h : P s) : P (Machine.readAhead s) := by
  unfold Machine.readAhead
  extract_lets
  split
  · exact hP.core h
  · refine iteK (fun _ => h) fun _ => ?_
    extract_lets 
    split
    · exact hP.core h
    · extract_lets p1 s1
      have h1 : P p1.1 := hP.aheadOf h
      have h2 : P s1 := h1
      exact iteK (fun _ => hP.core h) fun _ => hP.core h2

theorem Closed.judgeAhead {k} (h : P s) : P (Machine.judgeAhead k s) := by
  unfold Machine.judgeAhead
  extract_lets s1
  have h1 : P s1 := hP.readAhead h
  split
  · exact h1
  · exact iteK (fun _ => h1) fun _ => hP.decLate (hP.core h1)

theorem Closed.fireCue {frame c} (h : P s) : P (Machine.fireCue frame c s) := by
  unfold Machine.fireCue
  extract_lets
  split
  · exact hP.overlayCue h
  · exact iteK (fun _ => hP.lensApply h) fun _ => h
  · exact hP.core h

theorem Closed.becomeCurrent {k x} (h : P s) : P (Machine.becomeCurrent k x s) := by
  unfold Machine.becomeCurrent
  extract_lets s1 _ s2 s3 _ s4 s5 _ s6
  have h1 : P s1 := iteK (fun _ => h) fun _ => hP.low.rmapSwap h
  have h2 : P s2 := hP.setFld (hP.setFld h1)
  have h3 : P s3 := hP.setFld (hP.setFld h2)
  have h4 : P s4 := hP.low.setNc (hP.core h3)
  have h5 : P s5 := iteK (fun _ => hP.setFld h4) fun _ => h4
  have h6 : P s6 := hP.texelsInvalid (hP.core h5)
  exact hP.low.fixLeases (foldlK (fun _ _ h7 => hP.fireCue h7) h6)

theorem Closed.playSwitch {k x} (h : P s) : P (Machine.playSwitch k x s) := by
  unfold Machine.playSwitch
  extract_lets _ s1 _ s2
  have h1 : P s1 := iteK (fun _ => hP.decLate h) fun _ => h
  have h2 : P s2 := hP.readAhead h1
  exact iteK (fun _ => iteK (fun _ => hP.becomeCurrent h1) fun _ => hP.low.setNc h1) fun _ => iteK (fun _ =>
    hP.abandon (hP.decLate h2)) fun _ => iteK (fun _ => hP.low.setNc (hP.decLate h2)) fun _ => hP.low.setNc h2

theorem Closed.contentSwitch {k} (h : P s) : P (Machine.contentSwitch k s) := by
  unfold Machine.contentSwitch
  extract_lets _ s1 _ s2
  have h1 : P s1 := hP.core h
  have h2 : P s2 := hP.core h1
  refine iteK (fun _ => hP.judgedAt (hP.judgeAhead ?_)) fun _ => ?_
  · extract_lets 
    split
    · exact h1
    · exact hP.playSwitch h1
  · extract_lets 
    split
    · exact iteK (fun _ => iteK (fun _ => hP.becomeCurrent h2) fun _ => hP.low.setNc h2) fun _ => h2
    · exact h2

theorem Closed.takeChanges {k} (h : P s) : P (Machine.takeChanges k s) := by
  unfold Machine.takeChanges
  extract_lets s1 s2 s3 s4 s5
  have h1 : P s1 := hP.low.witTakeAll h
  have h2 : P s2 := iteK (fun _ => hP.low.commitFollow (hP.low.commitTake h1)) fun _ => h1
  have h3 : P s3 := iteK (fun _ => hP.low.swapNow h2) fun _ => h2
  have h4 : P s4 := hP.contentSwitch h3
  have h5 : P s5 := iteK (fun _ => hP.low.agingTake h4) fun _ => h4
  exact hP.low.flipBanks h5

theorem Closed.rayLines {l a1} (h : P s) : P (Machine.rayLines l a1 s) := by
  induction a1 generalizing s with
  | nil =>
    rw [Machine.rayLines]
    exact h
  | cons x t ih =>
    rw [Machine.rayLines]
    extract_lets p1
    have h1 : P p1.1 := hP.mapLine h
    exact iteK (fun _ => ih h) fun _ => ih (hP.low.setLant h1)

theorem Closed.resLines {l a1} (h : P s) : P (Machine.resLines l a1 s) := by
  induction a1 generalizing s with
  | nil =>
    rw [Machine.resLines]
    exact h
  | cons x t ih =>
    rw [Machine.resLines]
    extract_lets p1
    have h1 : P p1.1 := hP.mapLine h
    exact iteK (fun _ => ih h) fun _ => ih (hP.low.setLant h1)

theorem Closed.rayStream {l u last v} (h : P s) : P (Machine.rayStream l u last v s) := by
  unfold Machine.rayStream
  extract_lets _ _ s1
  have h1 : P s1 := hP.low.setLant h
  exact iteK (fun _ => h) fun _ => hP.resLines h1

theorem Closed.composite {l p r a3 a4 a5} (h : P s) : P (Machine.composite l p r a3 a4 a5 s).1 := by
  induction a4 generalizing a3 a5 s with
  | nil =>
    rw [Machine.composite]
    exact h
  | cons x t ih =>
    rw [Machine.composite]
    refine iteF (fun _ => h) fun _ => iteF (fun _ => ih h) fun _ => ?_
    extract_lets 
    split
    · exact ih h
    · extract_lets p1
      have h1 : P p1.1 := hP.sampleLayer h
      refine iteF (fun _ => ih h) fun _ => ?_
      extract_lets 
      split
      · exact ih (hP.poisonSub h1)
      · extract_lets
        exact ih h1

theorem Closed.buildEmitters {l v last a3} (h : P s) : P (Machine.buildEmitters l v last a3 s).1 := by
  induction a3 generalizing s with
  | nil =>
    rw [Machine.buildEmitters]
    exact h
  | cons x t ih =>
    rw [Machine.buildEmitters]
    extract_lets p1 s1 _ _ p2 _ p3
    have h1 : P p1.1 := ih h
    have h2 : P s1 := hP.rayStream h
    have h3 : P p2.1 := hP.composite h2
    have h4 : P p3.1 := ih h3
    exact iteF (fun _ => h1) fun _ => h4

theorem Closed.buildWicks {l v a2} (h : P s) : P (Machine.buildWicks l v a2 s).1 := by
  induction a2 generalizing s with
  | nil =>
    rw [Machine.buildWicks]
    exact h
  | cons x t ih =>
    rw [Machine.buildWicks]
    exact ih (hP.setFifo (hP.buildEmitters (iteK (fun _ => h) fun _ => hP.rayLines (hP.rayRow h))))

theorem Closed.parityLine {l a} (h : P s) : P (Machine.parityLine l a s) := by
  unfold Machine.parityLine
  extract_lets
  exact iteK (fun _ => hP.incSat (hP.texelLine (hP.low.setLant h))) fun _ => iteK (fun _ =>
    hP.incSat (hP.rayLines (hP.low.setLant h))) fun _ => iteK (fun _ => hP.incSat (hP.resLines (hP.low.setLant h))) fun _ => h

theorem Closed.rowDone {l clocks cpar} (h : P s) : P (Machine.rowDone l clocks cpar s) := by
  unfold Machine.rowDone
  extract_lets _ _ p1 s1 s2 s3 s4 s5 _ s6
  have h1 : P p1.1 := hP.buildWicks h
  have h2 : P s1 := h1
  have h3 : P s2 := hP.setFld h2
  have h4 : P s3 := hP.setFld h3
  have h5 : P s4 := Closed.forAll (fun _ _ h5 => hP.parityLine h5) h4
  have h6 : P s5 := hP.setPeak (hP.setSat h5)
  have h7 : P s6 := hP.core h6
  exact hP.setFld (hP.setQuad h7)

theorem Closed.decodeSeek {a0} (h : P s) : P (Machine.decodeSeek a0 s) := by
  induction a0 generalizing s with
  | zero =>
    rw [Machine.decodeSeek]
    exact h
  | succ k ih =>
    rw [Machine.decodeSeek]
    extract_lets
    split
    · exact h
    · split
      · exact hP.low.leaveSpan (hP.core h)
      · extract_lets p1 s1
        have h1 : P p1.1 := hP.mem.memRead h
        have h2 : P s1 := h1
        exact iteK (fun _ => ih (hP.low.leaveSpan (hP.core h))) fun _ => iteK (fun _ => h) fun _ => iteK (fun _ =>
          hP.core h2) fun _ => ih (hP.low.setCursor h1)

theorem Closed.decodeHeader {n o e} (h : P s) : P (Machine.decodeHeader n o e s) := by
  unfold Machine.decodeHeader
  extract_lets p1 _ s1 _ _ _ _ s2
  have h1 : P p1.1 := hP.readOpt h
  have h2 : P s1 := h1
  have h3 : P s2 := hP.core h2
  split
  · exact hP.low.refuse h3
  · split
    · exact hP.low.refuse h3
    · exact iteK (fun _ => hP.low.refuse h3) fun _ => hP.low.setNc h3

theorem Closed.decodeStart (h : P s) : P (Machine.decodeStart s) := by
  unfold Machine.decodeStart
  extract_lets s1
  have h1 : P s1 := hP.decodeSeek h
  refine iteK (fun _ => h) fun _ => ?_
  extract_lets 
  split
  · exact h1
  · split
    · exact h1
    · exact iteK (fun _ => hP.decodeHeader h1) fun _ => h1

theorem Closed.parseRecord {x e} (h : P s) : P (Machine.parseRecord x e s) := by
  unfold Machine.parseRecord
  extract_lets _ _ v3 _ s1 p1 s2 v5 s3
  have h1 : P s1 := hP.core h
  have h2 : P p1.1 := hP.readOpt h1
  have h3 : P s2 := h2
  have h4 : P s3 := iteK (fun _ => hP.low.decErr h3) fun _ => h3
  refine iteK (fun _ => hP.low.refuse h1) fun _ => ?_
  extract_lets 
  clear_value v3
  split
  · exact hP.low.refuse h1
  · refine iteK (fun _ => hP.low.refuse h1) fun _ => ?_
    extract_lets 
    split
    · exact hP.low.refuse h3
    · clear_value v5
      split
      · exact hP.low.refuse h3
      · exact hP.low.setNc h4

theorem Closed.recordResident (h : P s) : P (Machine.recordResident s) := by
  unfold Machine.recordResident
  split
  · exact h
  · split
    · exact h
    · exact iteK (fun _ => h) fun _ => hP.parseRecord h

theorem Closed.sideUnpackDone (h : P s) : P (Machine.sideUnpackDone s) := by
  unfold Machine.sideUnpackDone
  split
  · exact h
  · extract_lets
    split
    · exact h
    · extract_lets p1 s1
      have h1 : P p1.1 := hP.readOpt h
      have h2 : P s1 := hP.pipeBytes h1
      refine iteK (fun _ => h) fun _ => ?_
      extract_lets 
      split
      · exact hP.ncStep (hP.low.decErr h2)
      · split
        · exact hP.ncStep (hP.low.decErr h2)
        · extract_lets s2
          have h3 : P s2 := hP.pipeBytes h2
          split
          · exact hP.ncStep (hP.low.decErr h3)
          · exact hP.ncStep h3

theorem Closed.writePlanes {k ps} (h : P s) : P (Machine.writePlanes k ps s) := foldlK (fun _ _ h1 => hP.mem.clientWrite h1) h

theorem Closed.decodeLayers {rec frame base a3 a4 a5} (h : P s) : P (Machine.decodeLayers rec frame base a3 a4 a5 s).1 := by
  induction a3 generalizing a4 a5 s with
  | nil =>
    rw [Machine.decodeLayers]
    exact h
  | cons x t ih =>
    rw [Machine.decodeLayers]
    extract_lets
    split
    · extract_lets s1 p1
      have h1 : P s1 := hP.writePlanes (hP.core h)
      have h2 : P p1.1 := ih h1
      exact h2
    · extract_lets s1 _ p1
      have h1 : P s1 := hP.low.decErr h
      have h2 : P p1.1 := ih h1
      exact h2

theorem Closed.recordRead {h' a n} (h : P s) : P (Machine.recordRead h' a n s) := by
  unfold Machine.recordRead
  extract_lets
  exact iteK (fun _ => hP.mem.memRead h) fun _ => hP.mem.memRead (hP.mem.memRead h)

theorem Closed.decodeDone (h : P s) : P (Machine.decodeDone s) := by
  unfold Machine.decodeDone
  extract_lets
  split
  · exact h
  · extract_lets
    split
    · exact h
    · extract_lets _ _ p1 s1
      have h1 : P p1.1 := hP.decodeLayers (hP.recordRead h)
      have h2 : P s1 := hP.low.nextRecord h1
      exact iteK (fun _ => h) fun _ => iteK (fun _ => hP.ncStep h2) fun _ => hP.low.refuse h1

theorem Closed.copyPlane {src dst a2 a3} (h : P s) : P (Machine.copyPlane src dst a2 a3 s) := by
  induction a2 generalizing src dst a3 s with
  | zero =>
    rw [Machine.copyPlane]
    exact h
  | succ k ih =>
    rw [Machine.copyPlane]
    exact ih (hP.mem.clientWrite (hP.mem.memRead h))

theorem Closed.copyLayer {a b} (h : P s) : P (Machine.copyLayer a b s) := foldlK (fun _ _ h1 => hP.copyPlane h1) h

theorem Closed.carryCopyDone (h : P s) : P (Machine.carryCopyDone s) := by
  unfold Machine.carryCopyDone
  split
  · exact h
  · split
    · exact h
    · exact hP.ncStep (hP.incSat (hP.copyLayer h))

theorem Closed.fixFill {n} (h : P s) : P (Machine.fixFill n s) := by
  unfold Machine.fixFill
  extract_lets
  split
  · exact h
  · extract_lets _ s1
    have h1 : P s1 := hP.core h
    exact hP.low.reelCheck (hP.setSpan h1)

theorem Closed.fetchEnd {f} (h : P s) : P (Machine.fetchEnd f s) := by
  unfold Machine.fetchEnd
  extract_lets s1
  have h1 : P s1 := iteK (fun _ => hP.putFetch h) fun _ => hP.setFetches h
  exact iteK (fun _ => hP.fixFill h1) fun _ => h1

theorem Closed.fetchStop {f st} (h : P s) : P (Machine.fetchStop f st s) := by
  unfold Machine.fetchStop
  extract_lets _ s1 s2
  have h1 : P s1 := hP.setFetches h
  have h2 : P s2 := hP.low.complete (hP.fetchEnd h1)
  exact foldlK (fun _ _ h3 => hP.low.complete h3) h2

theorem Closed.unitLanded {f u data} (h : P s) : P (Machine.unitLanded f u data s) := by
  unfold Machine.unitLanded
  extract_lets _ s1 _ s2
  have h1 : P s1 := hP.memWrite h
  have h2 : P s2 := hP.putFetch h1
  refine iteK (fun _ => h) fun _ => ?_
  extract_lets 
  split
  · exact iteK (fun _ => hP.fixFill h2) fun _ => hP.low.reelCheck h2
  · exact hP.fetchStop (hP.mem.rejectWrite h)

theorem Closed.fetchComplete {f} (h : P s) : P (Machine.fetchComplete f s) :=
  iteK (fun _ => h) fun _ => hP.low.complete (hP.fetchEnd h)

theorem Closed.grantAll {c a1} (h : P s) : P (Machine.grantAll c a1 s) := by
  induction a1 generalizing s with
  | zero =>
    rw [Machine.grantAll]
    exact h
  | succ k ih =>
    rw [Machine.grantAll]
    exact iteK (fun _ => hP.grantOne h) fun _ => ih (hP.grantOne h)

theorem Closed.channelRun {c bad a2} (h : P s) : P (Machine.channelRun c bad a2 s) := by
  induction a2 generalizing s with
  | zero =>
    rw [Machine.channelRun]
    exact h
  | succ k ih =>
    rw [Machine.channelRun]
    split
    · exact hP.grantAll h
    · exact iteK (fun _ => ih (hP.serveWrite (hP.grantAll h))) fun _ => hP.serveRead (hP.grantAll h)

theorem Closed.memReadReturn {c issued bad} (h : P s) : P (Machine.memReadReturn c issued bad s) := by
  unfold Machine.memReadReturn
  extract_lets s1
  have h1 : P s1 := foldlK (fun _ _ h1 => hP.issue h1) h
  exact iteK (fun _ => hP.channelRun h1) fun _ => h1

theorem Closed.batchRun {c a1} (h : P s) : P (Machine.batchRun c a1 s) := by
  induction a1 generalizing s with
  | zero =>
    rw [Machine.batchRun]
    exact h
  | succ k ih =>
    rw [Machine.batchRun]
    extract_lets
    refine iteK (fun _ => hP.setArb h) fun _ => ?_
    extract_lets 
    split
    · exact h
    · exact iteK (fun _ => ih (hP.serveWrite h)) fun _ => h

theorem Closed.grantWrite {c a1} (h : P s) : P (Machine.grantWrite c a1 s) := by
  induction a1 generalizing s with
  | zero =>
    rw [Machine.grantWrite]
    exact h
  | succ k ih =>
    rw [Machine.grantWrite]
    split
    · exact ih (hP.grantOne h)
    · exact hP.grantOne h

theorem Closed.memWriteAccept {c issued} (h : P s) : P (Machine.memWriteAccept c issued s) := by
  unfold Machine.memWriteAccept
  extract_lets s1 s2 s3
  have h1 : P s1 := foldlK (fun _ _ h1 => hP.issue h1) h
  have h2 : P s2 := hP.batchRun h1
  have h3 : P s3 := hP.grantWrite h2
  exact iteK (fun _ => h1) fun _ => hP.batchRun h3

theorem Closed.offsetSeen {b off limit cause} (h : P s) : P (Machine.offsetSeen b off limit cause s) := by
  unfold Machine.offsetSeen
  extract_lets s1 s2 s3 s4
  have h1 : P s1 := hP.setReg h
  have h2 : P s2 := iteK (fun _ => h1) fun _ => hP.low.setTbState h1
  have h3 : P s3 := hP.lockCount h2
  have h4 : P s4 := iteK (fun _ => iteK (fun _ => hP.low.setSlewDir h3) fun _ => hP.stepBase (hP.low.setSlewDir h3)) fun _ =>
    hP.servoRate (hP.low.setSlewDir h3)
  exact hP.low.fixTb3 (hP.fixRate h4)

theorem Closed.beacon {m} (h : P s) : P (Machine.beacon m s) := by
  unfold Machine.beacon
  extract_lets _ _ _ _ _ _ _ _ s1 s2 _ s3
  have h1 : P s1 := hP.setFld (hP.setFld (hP.setFld h))
  have h2 : P s2 := hP.setSFld h1
  have h3 : P s3 := hP.core h2
  exact iteK (fun _ => hP.incSat (hP.core h)) fun _ => iteK (fun _ => h) fun _ => hP.beaconTick (hP.offsetSeen h3)

theorem Closed.refLost {b} (h : P s) : P (Machine.refLost b s) := by
  unfold Machine.refLost
  extract_lets s1 s2 _ _ s3 s4
  have h1 : P s1 := hP.low.setTbState h
  have h2 : P s2 := hP.low.setRun h1
  have h3 : P s3 := hP.setFld (hP.core h2)
  have h4 : P s4 := hP.low.fixTb3 h3
  exact iteK (fun _ => iteK (fun _ => hP.switchTo h4) fun _ => h4) fun _ => h

theorem Closed.beaconLoss (h : P s) : P (Machine.beaconLoss s) := by
  unfold Machine.beaconLoss
  extract_lets _ s1 s2
  have h1 : P s1 := hP.incSat (hP.core h)
  have h2 : P s2 := hP.low.raiseErr h1
  exact iteK (fun _ => h) fun _ => hP.refLost h2

theorem Closed.ptpOffset {d rx origin corr} (h : P s) : P (Machine.ptpOffset d rx origin corr s) := by
  unfold Machine.ptpOffset
  extract_lets _ _ s1 s2 s3
  have h1 : P s1 := hP.setPtp h
  have h2 : P s2 := hP.incSat h1
  have h3 : P s3 := hP.offsetSeen h2
  exact iteK (fun _ => hP.setFld h3) fun _ => h3

theorem Closed.ptpSync {d m} (h : P s) : P (Machine.ptpSync d m s) := by
  unfold Machine.ptpSync
  extract_lets
  exact iteK (fun _ => h) fun _ => iteK (fun _ => hP.setPtp h) fun _ => hP.ptpOffset h

theorem Closed.selectMaster {d} (h : P s) : P (Machine.selectMaster d s) := by
  unfold Machine.selectMaster
  extract_lets _ s1
  have h1 : P s1 := hP.setPtp h
  split
  · exact hP.refLost (hP.setFld h1)
  · extract_lets s2 s3
    have h2 : P s2 := hP.setFld (hP.setReg h)
    have h3 : P s3 := hP.setPtp h2
    exact iteK (fun _ => h2) fun _ => hP.setFld h3

theorem Closed.announceSeen {d m} (h : P s) : P (Machine.announceSeen d m s) := by
  unfold Machine.announceSeen
  extract_lets _ _ _ s1
  have h1 : P s1 := hP.setPtp h
  exact iteK (fun _ => hP.ptpBad h) fun _ => iteK (fun _ => hP.selectMaster h1) fun _ => h1

theorem Closed.announceTimeout {d} (h : P s) : P (Machine.announceTimeout d s) := by
  unfold Machine.announceTimeout
  extract_lets
  exact hP.selectMaster (hP.incSat (hP.setPtp h))

theorem Closed.syncEdge (h : P s) : P (Machine.syncEdge s) := by
  unfold Machine.syncEdge
  extract_lets _ _ _ _ _ s1 _ s2 _ _ s3 _ s4
  have h1 : P s1 := hP.setInput h
  have h2 : P s2 := iteK (fun _ => hP.inputFault (hP.core h1)) fun _ => iteK (fun _ => hP.core h1) fun _ => h1
  have h3 : P s3 := hP.core h2
  have h4 : P s4 := hP.core h3
  exact iteK (fun _ => hP.incSat h3) fun _ => iteK (fun _ => hP.offsetSeen h4) fun _ => h4

theorem Closed.syncLoss (h : P s) : P (Machine.syncLoss s) := by
  unfold Machine.syncLoss
  extract_lets _ s1
  have h1 : P s1 := hP.inputFault (hP.core h)
  exact iteK (fun _ => h) fun _ => iteK (fun _ => hP.refLost h1) fun _ => h1

omit hP in
theorem logRailFault_followUps (s : State) : (Machine.logRailFault s).followUps = s.followUps := rfl

theorem Closed.followupDone {blk idx} (h : P s) : P (Machine.followupDone blk idx s) := by
  unfold Machine.followupDone
  extract_lets u
  split
  · exact h
  · next f _ =>
    extract_lets s1
    have h1 : P s1 := iteK (fun _ => hP.logRailFault h) fun _ => h
    have hu : fuUnit s1 blk idx = u := by
      have : s1.followUps = s.followUps := by
        simp only [s1]
        split
        · exact logRailFault_followUps s
        · rfl
      simp only [fuUnit, this, u]
    have h2 := hP.served (blk := blk) (idx := idx) h1
    rwa [serve, hu] at h2

theorem Closed.ptpFollowUp {d m} (h : P s) : P (Machine.ptpFollowUp d m s) := by
  unfold Machine.ptpFollowUp
  split
  · exact iteK (fun _ => hP.ptpOffset h) fun _ => h
  · exact h

end

end Sys2Proof.Kept
end

section
/-! PROOFS. So do the broadcasts, the steps of a start and the resets. -/

namespace Sys2Proof.Kept

set_option Elab.async false

open Machine

section

variable {R : Prop} {P : State → Prop} (hP : Closed R P) {s : State}
include hP

/-- What the commands whose effect has no name of its own do. -/
theorem Closed.cmdNop {j d} (h : P s) : P (Machine.cmdNop.run j d s) := by
  dsimp only [Machine.cmdNop]
  exact hP.low.complete h

theorem Closed.cmdPause {j d} (h : P s) : P (Machine.cmdPause.run j d s) :=
  iteK (fun _ => hP.low.complete h) fun _ => hP.low.complete (hP.pauseReel h)

theorem Closed.cmdSnuff {j d} (h : P s) : P (Machine.cmdSnuff.run j d s) := by
  dsimp only [Machine.cmdSnuff]
  exact hP.low.complete (iteK (fun _ => h) fun _ => hP.lower.assertPath h)

theorem Closed.cmdReelMap {j d} (h : P s) : P (Machine.cmdReelMap.run j d s) := by
  dsimp only [Machine.cmdReelMap]
  have h1 : P (Machine.reelMapOp d s).1 := hP.reelMapOp h
  exact hP.low.complete (hP.low.reelCheck (iteK (fun _ => hP.core h1) fun _ => h1))

theorem Closed.bcastRun {x} (h : P s) : P (Machine.bcastRun x s) := by
  unfold Machine.bcastRun bcastCmd
  split
  · next c hc =>
    have h1 : P (Machine.incSat s Reg.CHN_CNT_BCAST 1) := hP.incSat h
    have hm := List.mem_of_find?_eq_some hc
    simp only [List.mem_cons, List.not_mem_nil, or_false] at hm
    rcases hm with rfl | rfl | rfl | rfl | rfl | rfl | rfl | rfl | rfl | rfl | rfl
    · exact hP.cmdNop h1
    · exact hP.playRun h1
    · exact hP.cmdPause h1
    · exact hP.seekRun h1
    · exact hP.commitRun (_d := x.desc) h1
    · exact hP.witnessSetRun h1
    · exact hP.goDarkRun (d := x.desc) h1
    · exact hP.cmdSnuff h1
    · exact hP.snuffRelease h1
    · exact hP.keyRotateRun h1
    · exact hP.lensSetRun h1
  · exact h

theorem Closed.bcastPlace {h'} (h : P s) : P (Machine.bcastPlace h' s) := by
  unfold Machine.bcastPlace
  extract_lets
  exact iteK (fun _ => hP.bcastRefuse h) fun _ => iteK (fun _ => hP.bcastRun (hP.outerDone h)) fun _ => iteK (fun _ =>
    hP.bcastRefuse h) fun _ => iteK (fun _ => hP.bcastRefuse h) fun _ => hP.outerDone (hP.core h)

theorem Closed.bcastCheck {h'} (h : P s) : P (Machine.bcastCheck h' s) := by
  unfold Machine.bcastCheck
  refine iteK (fun _ => hP.bcastRefuse h) fun _ => ?_
  extract_lets 
  split
  · exact hP.bcastWait h
  · exact hP.bcastWait (hP.startMark h)
  · exact hP.bcastRefuse (hP.authFail h)
  · exact iteK (fun _ => hP.bcastWait h) fun _ => hP.bcastPlace (hP.acceptCounter h)

theorem Closed.bcastRetry (h : P s) : P (Machine.bcastRetry s) := by
  unfold Machine.bcastRetry
  extract_lets
  exact foldlK (fun _ _ h1 => hP.bcastCheck h1) (hP.core h)

theorem Closed.markWritten {k m hi ok} (h : P s) : P (Machine.markWritten k m hi ok s) :=
  iteK (fun _ => hP.bcastStoreFail (hP.markFailed h)) fun _ => iteK (fun _ => hP.lower.nvmWrite h) fun _ =>
    hP.bcastRetry (hP.markDone h)

theorem Closed.keyWritten {k zero ok} (h : P s) : P (Machine.keyWritten k zero ok s) := by
  unfold Machine.keyWritten
  refine iteK (fun _ => hP.bcastRetry (hP.keyFailed h)) fun _ => iteK (fun _ => ?_) fun _ => hP.bcastRetry (hP.keyDone h)
  extract_lets 
  split
  · exact hP.keyNextWrite h
  · exact h

theorem Closed.nvmOwner {w ok} (h : P s) : P (Machine.nvmOwner w ok s) := by
  unfold Machine.nvmOwner
  extract_lets s1
  have h1 : P s1 := hP.protectQueue (hP.loadProtection h)
  split
  · exact hP.nvmComplete h
  · exact hP.markWritten h
  · exact hP.markWritten h
  · exact hP.keyWritten h
  · exact hP.keyWritten h
  · exact hP.storeDone (iteK (fun _ => hP.endSession h1) fun _ => h1)
  · exact hP.storeDone (hP.loadRailAbs h)
  · exact hP.storeDone (iteK (fun _ => hP.pinChanged h) fun _ => h)
  · exact hP.actWritten h
  · exact hP.actWritten h
  · exact hP.patchWritten h
  · exact hP.snapPageDone h
  · exact h

theorem Closed.mainBlockFinish {ok} (h : P s) : P (Machine.mainBlockFinish ok s) := by
  unfold Machine.mainBlockFinish
  split
  · exact h
  · extract_lets _ s1 s2 s3
    have h1 : P s1 := iteK (fun _ => hP.patrolWrite h) fun _ => hP.mainBlockEnd h
    have h2 : P s2 := hP.requeue h1
    have h3 : P s3 := hP.nvmOwner (hP.core h2)
    exact hP.core h3

theorem Closed.warmDown (h : P s) : P (Machine.warmDown s) := by
  unfold Machine.warmDown
  extract_lets s1 s2 s3 s4
  have h1 : P s1 := hP.lower.sendBlank h
  have h2 : P s2 := hP.lensReset (hP.lensBlockDone (hP.low.stageAbandon h1))
  have h3 : P s3 := hP.mainBlockFinish h2
  have h4 : P s4 := hP.lower.nvmFixQueue (hP.core h3)
  exact hP.railsReset (hP.groupsDown h4)

theorem Closed.warmReset (hR : R) (h : P s) : P (Machine.warmReset s) := by
  unfold Machine.warmReset
  extract_lets s1 s2 s3
  have h2 : P s2 := hP.lower.logCount (hP.incSat (hP.warmClear (hP.warmDown h)))
  have h3 : P s3 := hP.startStep (hP.lampTo (.inl hR) (hP.core h2))
  exact iteK (fun _ => h) fun _ => hP.lower.nvmStart (hP.pathsAgain (hP.tornScans h3))

theorem Closed.vinLoss (hR : R) (h : P s) : P (Machine.vinLoss s) := by
  unfold Machine.vinLoss
  refine iteK (fun _ => h) fun _ => ?_
  extract_lets s1 s2
  have h1 : P s1 := by
    unfold s1
    split
    · exact hP.tearPresent h
    · exact h
  have h2 : P s2 := by
    unfold s2
    split
    · exact hP.tearPresent h1
    · exact h1
  exact hP.powerOff hR h2

theorem Closed.bcastDropped {was} (h : P s) : P (Machine.bcastDropped was s) := by
  unfold Machine.bcastDropped
  extract_lets _ _ s1
  have h1 : P s1 := Closed.forAll (fun _ _ h1 => hP.bcastStoreFail h1) h
  exact iteK (fun _ => hP.bcastRetry h1) fun _ => h1

theorem Closed.pauseIfOrderly (h : P s) : P (Machine.vinWarn.pauseIfOrderly s) := iteK (fun _ => hP.pauseReel h) fun _ => h

theorem Closed.vinWarn {mv10} (h : P s) : P (Machine.vinWarn mv10 s) := by
  unfold Machine.vinWarn
  extract_lets _ s1 _ s2 s3 _ s4 s5 s6
  have h1 : P s1 := hP.setFld (hP.setFld h)
  have h2 : P s2 := hP.logVinWarn (hP.core h1)
  have h3 : P s3 := hP.low.raiseErr (hP.lower.railsDown h2)
  have h4 : P s4 := hP.candleLost (hP.core h3)
  have h5 : P s5 := hP.lower.assertPath (hP.lensGround (hP.lensAbort h4))
  have h6 : P s6 := hP.railFaultLamp (hP.orderlyAbort (hP.pauseIfOrderly h5))
  exact hP.flushWrite (hP.nvmDiscardAll h6)

theorem Closed.sourceImage {source src len} (h : P s) : P (Machine.sourceImage source src len s).1 := by
  unfold Machine.sourceImage
  split
  · exact hP.mem.memRead h
  · dsimp only
    exact hP.slotImage h

theorem Closed.startImage (h : P s) : P (Machine.startImage s).1 := by
  unfold Machine.startImage
  extract_lets _ p1
  have h1 : P p1.1 := hP.sourceImage h
  split
  · exact h
  · exact h1

theorem Closed.run6 (h : P s) : P (Machine.run6 s) := by
  unfold Machine.run6
  extract_lets p1 _ _ v3 s1 s2
  have h1 : P p1.1 := hP.startImage (hP.startStep h)
  have h2 : P s1 := h1
  have h3 : P s2 := by
    unfold s2
    clear_value v3
    split
    · exact hP.startReject h1
    · exact hP.core h2
  exact hP.trainBegin (hP.startStep (hP.core h3))

theorem Closed.end4 {fail} (h : P s) : P (Machine.end4 fail s) := by
  unfold Machine.end4
  split
  · exact iteK (fun _ => hP.vrmFail h) fun _ => h
  · exact iteK (fun _ => h) fun _ => iteK (fun _ => hP.fixTables (hP.run6 (hP.startStep h))) fun _ => h

theorem Closed.lensUnrecovered {c band output} (h : P s) : P (Machine.lensUnrecovered c band output s) := by
  unfold Machine.lensUnrecovered
  extract_lets s1
  have h1 : P s1 := hP.lensLeftOpen (hP.lensResetDrive h)
  split
  · exact hP.lensFault (by decide) (hP.lensFault (by decide)
      (iteK (fun _ => hP.lower.setCommon (hP.low.emit (hP.core h1))) fun _ => hP.low.emit (hP.core h1)))
  · exact hP.lensFault (by decide) h1

theorem Closed.lensRecovery {temps vlcd failed} (h : P s) : P (Machine.lensRecovery temps vlcd failed s) := by
  unfold Machine.lensRecovery
  extract_lets _ s1 _ s2 s3
  have h1 : P s1 := hP.mem.nvmTouch h
  have h2 : P s2 := hP.lensBandTake (hP.core h1)
  have h3 : P s3 := hP.low.setVlcd h2
  refine Closed.forAll (fun _ s4 h4 => iteK (fun _ => hP.lensLoad h4) fun _ => iteK (fun _ => hP.lensLeftOpen h4) fun _ => ?_) h3
  extract_lets 
  split
  · exact hP.lensUnrecovered h4
  · exact hP.lensRecovered h4

theorem Closed.end8 {temps failed} (h : P s) : P (Machine.end8 temps failed s) := by
  unfold Machine.end8
  extract_lets s1
  have h1 : P s1 := hP.loadOptical (hP.lensRecovery h)
  exact iteK (fun _ => hP.begin9 h1) fun _ => h1

theorem Closed.end8Ready {info} (h : P s) : P (Machine.end8Ready info s) := by
  unfold Machine.end8Ready
  extract_lets s1
  have h1 : P s1 := hP.railFault h
  exact iteK (fun _ => h) fun _ => iteK (fun _ => hP.end8 h) fun _ => iteK (fun _ => iteK (fun _ => hP.end8 h1) fun _ =>
    h1) fun _ => iteK (fun _ => hP.end8 h) fun _ => h

theorem Closed.stepDone {info} (hR : R) (h : P s) : P (Machine.stepDone info s) := by
  unfold Machine.stepDone
  split
  · exact iteK (fun _ => h) fun _ => hP.begin3 (hP.setFld (hP.bootPatches (hP.resetNHigh h)))
  · exact hP.end3 h
  · exact hP.end4 h
  · exact hP.end7 h
  · exact hP.end8Ready h
  · exact hP.end9 h
  · exact iteK (fun _ => hP.begin11 h) fun _ => h
  · exact hP.startStep h
  · exact hP.begin13 hR h
  · exact h

theorem Closed.startupStepDone {info} (h : P s) : P (Machine.startupStepDone info s) := by
  refine iteK (fun _ => h) fun hn => ?_
  have hR : R := hP.wake h (by_contra fun hl => hn (.inl hl))
  split
  · exact iteK (fun _ => hP.stepDone hR h) fun _ => hP.actRails h
  · exact hP.stepDone hR h

theorem Closed.execAccepted {c o d} (hc : ∀ {j d t}, P t → P (c.run j d t)) (h : P s) : P (Machine.execAccepted c o d s) :=
  iteK (fun _ => hc h) fun _ => hP.completeRefused h

theorem Closed.runRing {c r} (hc : ∀ {j d t}, P t → P (c.run j d t)) (h : P s) : P (Machine.runRing c r s) := by
  unfold Machine.runRing
  split
  · exact h
  · refine iteK (fun _ => h) fun _ => ?_
    split
    · exact h
    · exact hP.completeRefused (hP.authFail (hP.popTaken h))
    · exact hP.startMark (hP.setRing h)
    · exact iteK (fun _ => h) fun _ => hP.execAccepted hc (hP.acceptFront h)

theorem Closed.structActivateRun {j d} (h : P s) : P (Machine.structActivateRun j d s) := by
  unfold Machine.structActivateRun
  extract_lets x b r img pages slot _ a
  have hx : P x.1 := hP.sourceImage h
  have hr : P r.1 := by
    unfold r
    split
    · exact hx
    · split
      · exact hx
      · exact hP.validateFrom14 hx
  refine iteK (fun _ => hP.low.complete h) fun _ => iteK (fun _ => hP.low.complete h) fun _ => iteK (fun _ => hP.low.complete h) fun _ => ?_
  clear_value r
  split
  · exact hP.low.complete (hP.structReject hr)
  · exact hP.actStore (hP.core hr)

theorem Closed.ringKeyLoad {r} (h : P s) : P (Machine.ringKeyLoad r s) := by
  unfold Machine.ringKeyLoad
  split
  · exact h
  · exact iteK (fun _ => iteK (fun _ => h) fun _ => hP.keyProvision (hP.popTaken h)) fun _ =>
      hP.runRing (fun h => hP.keyLoadRun h) h

theorem Closed.bcastArrive {h'} (h : P s) : P (Machine.bcastArrive h' s) := hP.bcastCheck h

theorem Closed.chainBroadcastRun {j d} (h : P s) : P (Machine.chainBroadcastRun j d s) := by
  unfold Machine.chainBroadcastRun
  extract_lets _ _ p1 s1 _ _ s2 _ _ s3
  have h1 : P p1.1 := hP.mem.memRead h
  have h2 : P s1 := h1
  have h3 : P s2 := hP.core h2
  have h4 : P s3 := iteK (fun _ => hP.chainSend h3) fun _ => h3
  exact iteK (fun _ => hP.low.complete h) fun _ => iteK (fun _ => hP.low.complete h) fun _ => iteK (fun _ => hP.low.complete h2) fun _ =>
    iteK (fun _ => hP.bcastArrive h4) fun _ => hP.low.complete h4

theorem Closed.measure (h : P s) : P (Machine.measure s) := by
  unfold Machine.measure
  extract_lets _ _ _ _ s1 _ s2 _ s3 _ _ s4
  have h1 : P s1 := hP.setPeak h
  have h2 : P s2 := hP.setPeak h1
  have h3 : P s3 := hP.setPeak h2
  have h4 : P s4 := hP.setPeak h3
  exact iteK (fun _ => h3) fun _ => iteK (fun _ => hP.low.raise h4) fun _ => h4

theorem Closed.boundaryPoint (h : P s) : P (Machine.boundaryPoint s) := by
  unfold Machine.boundaryPoint
  extract_lets _ s1 s2 s3 s4
  have h1 : P s1 := iteK (fun _ => hP.incSat h) fun _ => h
  have h2 : P s2 := hP.witJudgeAll h1
  have h3 : P s3 := iteK (fun _ => hP.accrue h2) fun _ => h2
  have h4 : P s4 := hP.lower.frameCounts (hP.measure h3)
  exact hP.overlayFresh (hP.fixWicks (hP.darkBegins (hP.low.quadsFresh (hP.takeChanges (hP.core h4)))))

theorem Closed.bcastSeen {ctrl data} (h : P s) : P (Machine.bcastSeen ctrl data s) := by
  unfold Machine.bcastSeen
  extract_lets _ _ _ _ s1 s2
  have h1 : P s1 := hP.core h
  have h2 : P s2 := iteK (fun _ => hP.chainSend h1) fun _ => h1
  exact iteK (fun _ => hP.incSat h) fun _ => iteK (fun _ => h) fun _ => iteK (fun _ => hP.bcastArrive h2) fun _ => h2

theorem Closed.bcastExecute (h : P s) : P (Machine.bcastExecute s) := by
  unfold Machine.bcastExecute
  extract_lets
  exact foldlK (fun _ _ h1 => iteK (fun _ => hP.bcastRun h1) fun _ => hP.core h1) (hP.core h)

theorem Closed.mainBlockDone {ok} (h : P s) : P (Machine.mainBlockDone ok s) := hP.lower.nvmStart (hP.mainBlockFinish h)

end

end Sys2Proof.Kept
end

section
/-! PROOFS. Every command keeps what the primitive moves keep. -/

namespace Sys2Proof.Kept

set_option Elab.async false

open Machine

/-- The commands that lead out of DARK_FAULT. -/
def resets : Instr → Prop
  | .warmReset _ => True
  | .vinLoss => True
  | _ => False

section

variable {R : Prop} {P : State → Prop} (hP : Closed R P) {s : State}
include hP

/-- A command completes and leaves `P` as it was, where its effect does. -/
theorem Closed.next {f : State → State} (hf : ∀ {t}, P t → P (f t)) (h : P s) : ∃ u, done f s = .next u ∧ P u :=
  ⟨_, rfl, hP.core (hP.lower.settleAll (hf (hP.fresh h)))⟩

theorem Closed.nextWrite {f : State → State} (hf : ∀ {t}, P t → P (f t)) (h : P s) : ∃ u, doneWrite f s = .next u ∧ P u :=
  hP.next (fun h => hf (hP.core h)) h

/-- Every command keeps `P`, a reset where `P` survives one. -/
theorem Closed.exec (c : Instr) (hH : Holds P) (hR : resets c → R) (h : P s) : ∃ u, Machine.exec c s = .next u ∧ P u := by
  cases c with
  | coldStart => exact hP.next (fun h1 => hP.coldStart h1) h
  | warmReset _ => exact hP.next (fun h1 => hP.warmReset (hR trivial) h1) h
  | vinLoss => exact hP.next (fun h1 => hP.vinLoss (hR trivial) h1) h
  | vinWarn _ =>
    change ∃ u, execVinWarn _ s = .next u ∧ P u
    unfold execVinWarn
    refine hP.next (fun h1 => ?_) h
    exact iteK (fun _ => h1) fun _ => hP.bcastDropped (hP.vinWarn h1)
  | vinRecover _ =>
    change ∃ u, execVinRecover _ s = .next u ∧ P u
    unfold execVinRecover
    refine hP.next (fun h1 => ?_) h
    extract_lets s2
    have h2 : P s2 := hP.setFld h1
    exact iteK (fun _ => h1) fun _ => hP.core h2
  | startupStepDone _ => exact hP.next (fun h1 => hP.startupStepDone h1) h
  | functionLevelReset => exact hP.next (fun h1 => hP.flReset h1) h
  | linkDown => exact hP.next (fun h1 => hP.linkDown h1) h
  | linkUp _ _ _ => exact hP.next (fun h1 => hP.linkUp h1) h
  | hostMemRead _ _ =>
    change ∃ u, execHostMemRead _ _ s = .next u ∧ P u
    unfold execHostMemRead
    refine hP.next (fun h1 => ?_) h
    refine iteK (fun _ => ?_) fun _ => h1
    split
    · exact hP.hostRead h1
    · exact h1
  | hostMemWrite _ _ _ =>
    change ∃ u, execHostMemWrite _ _ _ s = .next u ∧ P u
    unfold execHostMemWrite
    refine hP.next (fun h1 => ?_) h
    refine iteK (fun _ => ?_) fun _ => h1
    split
    · exact hP.hostWrite h1
    · exact h1
  | apertureAccess _ _ =>
    change ∃ u, execApertureAccess _ _ s = .next u ∧ P u
    unfold execApertureAccess
    exact hP.next (fun h1 => iteK (fun _ => hP.aperture h1) fun _ => h1) h
  | hdmDecoderCommit _ _ _ _ _ =>
    change ∃ u, execHdmDecoderCommit _ _ _ _ _ s = .next u ∧ P u
    unfold execHdmDecoderCommit
    exact hP.nextWrite (fun h1 => iteK (fun _ => hP.hdmCommit h1) fun _ => h1) h
  | bar0BadAccess _ _ _ =>
    change ∃ u, execBar0BadAccess _ _ _ s = .next u ∧ P u
    unfold execBar0BadAccess
    refine hP.next (fun h1 => ?_) h
    extract_lets s2 s3
    have h2 : P s2 := hP.incSat h1
    have h3 : P s3 := iteK (fun _ => h2) fun _ => hP.low.emit h2
    exact hP.cxlErr h3
  | registerWrite _ _ _ =>
    change ∃ u, execRegisterWrite _ _ _ s = .next u ∧ P u
    unfold execRegisterWrite
    exact hP.next (fun h1 => iteK (fun _ => h1) fun _ => iteK (fun _ => hP.barWrite hH h1) fun _ => hP.badAccess h1) h
  | tbSecRead _ =>
    change ∃ u, execTbSecRead _ s = .next u ∧ P u
    unfold execTbSecRead
    exact hP.next (fun h1 => iteK (fun _ => hP.tbSecRead h1) fun _ => h1) h
  | cmdRingDb _ _ =>
    change ∃ u, execCmdRingDb _ _ s = .next u ∧ P u
    unfold execCmdRingDb
    exact hP.nextWrite (fun h1 => iteK (fun _ => hP.doorbell h1) fun _ => h1) h
  | ringEnable _ =>
    change ∃ u, execRingEnable _ s = .next u ∧ P u
    unfold execRingEnable
    exact hP.nextWrite (fun h1 => iteK (fun _ => hP.ringEnable h1) fun _ => h1) h
  | ringDisable _ =>
    change ∃ u, execRingDisable _ s = .next u ∧ P u
    unfold execRingDisable
    exact hP.nextWrite (fun h1 => iteK (fun _ => hP.ringDisable h1) fun _ => h1) h
  | ringReset _ =>
    change ∃ u, execRingReset _ s = .next u ∧ P u
    unfold execRingReset
    exact hP.nextWrite (fun h1 => iteK (fun _ => hP.ringReset h1) fun _ => h1) h
  | cqHeadWrite _ _ =>
    change ∃ u, execCqHeadWrite _ _ s = .next u ∧ P u
    unfold execCqHeadWrite
    exact hP.nextWrite (fun h1 => iteK (fun _ => hP.cqHead h1) fun _ => h1) h
  | hostVecAck _ => exact hP.nextWrite (fun h1 => hP.vecAck h1) h
  | genTestForce _ =>
    change ∃ u, execGenTestForce _ s = .next u ∧ P u
    unfold execGenTestForce
    exact hP.nextWrite (fun h1 => hP.testForce (hP.setFld h1)) h
  | timeSelWrite _ => exact hP.nextWrite (fun h1 => hP.selWrite h1) h
  | timeCntClr =>
    change ∃ u, execTimeCntClr s = .next u ∧ P u
    unfold execTimeCntClr
    exact hP.nextWrite (fun h1 => hP.setReg h1) h
  | timeT0Write _ => exact hP.nextWrite (fun h1 => hP.t0Write h1) h
  | tb0StepWrite _ => exact hP.nextWrite (fun h1 => hP.tb0Step h1) h
  | tb3SrcWrite _ => exact hP.nextWrite (fun h1 => hP.tb3SrcWrite h1) h
  | compareArm _ _ =>
    change ∃ u, execCompareArm _ _ s = .next u ∧ P u
    unfold execCompareArm
    exact hP.nextWrite (fun h1 => iteK (fun _ => hP.cmpCfgWrite h1) fun _ => h1) h
  | peakClr => exact hP.nextWrite (fun h1 => hP.peakClr h1) h
  | ldecClr => exact hP.nextWrite (fun h1 => hP.ldecClr h1) h
  | rmapClr => exact hP.nextWrite (fun h1 => hP.rmapClr h1) h
  | lantClr _ =>
    change ∃ u, execLantClr _ s = .next u ∧ P u
    unfold execLantClr
    exact hP.nextWrite (fun h1 => iteK (fun _ => hP.lantClr h1) fun _ => h1) h
  | scanClr => exact hP.nextWrite (fun h1 => hP.scanClr h1) h
  | wlnClr => exact hP.nextWrite (fun h1 => hP.wlnClr h1) h
  | mfbClr => exact hP.nextWrite (fun h1 => hP.mfbClr h1) h
  | dmcClr _ =>
    change ∃ u, execDmcClr _ s = .next u ∧ P u
    unfold execDmcClr
    exact hP.nextWrite (fun h1 => iteK (fun _ => hP.dmcClr h1) fun _ => h1) h
  | hleClr => exact hP.nextWrite (fun h1 => hP.hleClr h1) h
  | bltClr => exact hP.nextWrite (fun h1 => hP.bltClr h1) h
  | hostErrClr => exact hP.nextWrite (fun h1 => hP.hostErrClr h1) h
  | clkClr => exact hP.nextWrite (fun h1 => hP.clkClr h1) h
  | chnClr =>
    change ∃ u, execChnClr s = .next u ∧ P u
    unfold execChnClr
    exact hP.nextWrite (fun h1 => hP.setReg h1) h
  | nvmClr => exact hP.nextWrite (fun h1 => hP.nvmClr h1) h
  | agingRecalc => exact hP.nextWrite (fun h1 => hP.low.agingCalc h1) h
  | agingModeWrite _ =>
    change ∃ u, execAgingModeWrite _ s = .next u ∧ P u
    unfold execAgingModeWrite
    exact hP.nextWrite (fun h1 => hP.low.agingSettle (hP.setFld h1)) h
  | wlnTrain =>
    change ∃ u, execWlnTrain s = .next u ∧ P u
    unfold execWlnTrain
    exact hP.nextWrite (fun h1 => iteK (fun _ => h1) fun _ => hP.wlnTrainCmd h1) h
  | retrain _ => exact hP.nextWrite (fun h1 => hP.retrainCmd h1) h
  | railUp => exact hP.nextWrite (fun h1 => hP.railUpCmd h1) h
  | railDown => exact hP.nextWrite (fun h1 => hP.railDownCmd h1) h
  | mfbFreqGo _ =>
    change ∃ u, execMfbFreqGo _ s = .next u ∧ P u
    unfold execMfbFreqGo
    exact hP.nextWrite (fun h1 => iteK (fun _ => h1) fun _ => hP.freqGo h1) h
  | pllApply _ => exact hP.nextWrite (fun h1 => hP.pllApply h1) h
  | remeasure => exact hP.nextWrite (fun h1 => hP.remeasure h1) h
  | logUpdate =>
    change ∃ u, execLogUpdate s = .next u ∧ P u
    unfold execLogUpdate
    exact hP.nextWrite (fun h1 => iteK (fun _ => h1) fun _ => hP.logUpdate h1) h
  | eventClear _ _ =>
    change ∃ u, execEventClear _ _ s = .next u ∧ P u
    unfold execEventClear
    exact hP.nextWrite (fun h1 => iteK (fun _ => Closed.forAll (fun _ _ h2 => hP.clearEvent h2) h1) fun _ => h1) h
  | firstFatalAck => exact hP.nextWrite (fun h1 => hP.firstFatalAck h1) h
  | reelWmWrite _ => exact hP.nextWrite (fun h1 => hP.reelWmWrite h1) h
  | descriptorTake => exact hP.next (fun h1 => hP.takeNext h1) h
  | nop _ => exact hP.next (hP.runRing fun h => hP.cmdNop h) h
  | reelMap _ => exact hP.next (hP.runRing fun h => hP.cmdReelMap h) h
  | reelFetch _ => exact hP.next (hP.runRing fun h => hP.reelFetchRun h) h
  | play _ => exact hP.next (hP.runRing fun h => hP.playRun h) h
  | pause _ => exact hP.next (hP.runRing fun h => hP.cmdPause h) h
  | seek _ => exact hP.next (hP.runRing fun h => hP.seekRun h) h
  | commit _ => exact hP.next (hP.runRing fun {_ d _} h => hP.commitRun (_d := d) h) h
  | blit _ =>
    change ∃ u, execBlit _ s = .next u ∧ P u
    unfold execBlit
    exact hP.next (fun h1 => iteK (fun _ => h1) fun _ => hP.runRing (fun h => hP.blitRun h) h1) h
  | blitComplete =>
    change ∃ u, execBlitComplete s = .next u ∧ P u
    unfold execBlitComplete
    refine hP.next (fun h1 => ?_) h
    split
    · exact hP.blRun h1
    · exact h1
  | hzJob _ => exact hP.next (hP.runRing fun h => hP.hzJobRun h) h
  | hzJobStart => exact hP.next (fun h1 => hP.hzStart h1) h
  | hzJobEnd _ =>
    change ∃ u, execHzJobEnd _ s = .next u ∧ P u
    unfold execHzJobEnd
    exact hP.next (fun h1 => iteK (fun _ => hP.hzJobEnd h1) fun _ => h1) h
  | lensSet _ => exact hP.next (hP.runRing fun h => hP.lensSetRun h) h
  | nvmRead _ => exact hP.next (hP.runRing fun h => hP.nvmReadRun h) h
  | nvmReadCopyDone => exact hP.next (fun h1 => hP.nvmReadCopyDone h1) h
  | nvmWrite _ => exact hP.next (hP.runRing fun h => hP.nvmWriteRun h) h
  | nvmUnlock _ => exact hP.next (hP.runRing fun h => hP.nvmUnlockRun h) h
  | witnessSet _ => exact hP.next (hP.runRing fun h => hP.witnessSetRun h) h
  | raymapLoad _ => exact hP.next (hP.runRing fun h => hP.raymapLoadRun h) h
  | raymapStageDone => exact hP.next (fun h1 => hP.raymapStageDone h1) h
  | uniformityPush _ => exact hP.next (hP.runRing fun h => hP.uniPushRun h) h
  | uniUnpackDone => exact hP.next (fun h1 => hP.uniUnpackDone h1) h
  | goDark _ => exact hP.next (hP.runRing fun {_ d _} h => hP.goDarkRun (d := d) h) h
  | orderlyDarkBlankEnd =>
    change ∃ u, execOrderlyDarkBlankEnd s = .next u ∧ P u
    unfold execOrderlyDarkBlankEnd
    refine hP.next (fun h1 => ?_) h
    split
    · next ho => exact iteK (fun _ => hP.orderlyDark (hP.awake h1 (.inr (by simp [ho]))) h1) fun _ => h1
    · exact h1
  | snuff _ => exact hP.next (hP.runRing fun h => hP.cmdSnuff h) h
  | structActivate _ => exact hP.next (hP.runRing fun h => hP.structActivateRun h) h
  | railLimits _ => exact hP.next (hP.runRing fun h => hP.railLimitsRun h) h
  | keyLoad _ => exact hP.next (fun h1 => hP.ringKeyLoad h1) h
  | keyRotate _ => exact hP.next (hP.runRing fun h => hP.keyRotateRun h) h
  | nvmProtect _ => exact hP.next (hP.runRing fun h => hP.nvmProtectRun h) h
  | nvmPassword _ => exact hP.next (hP.runRing fun h => hP.nvmPasswordRun h) h
  | snuffRelease _ => exact hP.next (hP.runRing fun h => hP.snuffRelease h) h
  | chainPin _ => exact hP.next (hP.runRing fun h => hP.chainPinRun h) h
  | chainBroadcast _ => exact hP.next (hP.runRing fun h => hP.chainBroadcastRun h) h
  | rankRetire _ => exact hP.next (hP.runRing fun h => hP.rankRetireRun h) h
  | fwPatch _ => exact hP.next (hP.runRing fun h => hP.fwPatchRun h) h
  | testEnter _ => exact hP.next (hP.runRing fun h => hP.testEnterRun h) h
  | lensForce _ => exact hP.next (hP.runRing fun h => hP.lensForceRun h) h
  | tick =>
    change ∃ u, execTick s = .next u ∧ P u
    unfold execTick
    exact hP.next (fun h1 => iteK (fun _ => h1) fun _ => hP.tick h1) h
  | rowStart _ =>
    change ∃ u, execRowStart _ s = .next u ∧ P u
    unfold execRowStart
    exact hP.next (fun h1 => iteK (fun _ => hP.rowStart h1) fun _ => h1) h
  | scanRestart =>
    change ∃ u, execScanRestart s = .next u ∧ P u
    unfold execScanRestart
    exact hP.next (fun h1 => iteK (fun _ => hP.scanRestart h1) fun _ => h1) h
  | boundaryPoint =>
    change ∃ u, execBoundaryPoint s = .next u ∧ P u
    unfold execBoundaryPoint
    exact hP.next (fun h1 => iteK (fun _ => hP.boundaryPoint h1) fun _ => h1) h
  | lanternRowDone _ _ _ =>
    change ∃ u, execLanternRowDone _ _ _ s = .next u ∧ P u
    unfold execLanternRowDone
    exact hP.next (fun h1 => iteK (fun _ => hP.rowDone h1) fun _ => h1) h
  | lanternProgressTimeout _ =>
    change ∃ u, execLanternProgressTimeout _ s = .next u ∧ P u
    unfold execLanternProgressTimeout
    exact hP.next (fun h1 => iteK (fun _ => hP.lantFault h1) fun _ => h1) h
  | lanternCheckFault _ _ =>
    change ∃ u, execLanternCheckFault _ _ s = .next u ∧ P u
    unfold execLanternCheckFault
    exact hP.next (fun h1 => iteK (fun _ => hP.lantFault h1) fun _ => h1) h
  | spareJoin _ =>
    change ∃ u, execSpareJoin _ s = .next u ∧ P u
    unfold execSpareJoin
    exact hP.next (fun h1 => iteK (fun _ => hP.spareJoin h1) fun _ => h1) h
  | decodeStart => exact hP.next (fun h1 => hP.decodeStart h1) h
  | recordResident => exact hP.next (fun h1 => hP.recordResident h1) h
  | sideUnpackDone => exact hP.next (fun h1 => hP.sideUnpackDone h1) h
  | decodeDone => exact hP.next (fun h1 => hP.decodeDone h1) h
  | carryCopyDone => exact hP.next (fun h1 => hP.carryCopyDone h1) h
  | fetchUnitLanded _ _ _ =>
    change ∃ u, execFetchUnitLanded _ _ _ s = .next u ∧ P u
    unfold execFetchUnitLanded
    refine hP.next (fun h1 => ?_) h
    split
    · exact hP.unitLanded h1
    · exact h1
  | fetchReadError _ _ =>
    change ∃ u, execFetchReadError _ _ s = .next u ∧ P u
    unfold execFetchReadError
    refine hP.next (fun h1 => ?_) h
    split
    · exact iteK (fun _ => hP.fetchStop (hP.incSat h1)) fun _ => h1
    · exact h1
  | fetchComplete _ =>
    change ∃ u, execFetchComplete _ s = .next u ∧ P u
    unfold execFetchComplete
    refine hP.next (fun h1 => ?_) h
    split
    · exact hP.fetchComplete h1
    · exact h1
  | memReadReturn _ _ _ => exact hP.next (fun h1 => hP.memReadReturn h1) h
  | memWriteAccept _ _ => exact hP.next (fun h1 => hP.memWriteAccept h1) h
  | requestPromote _ => exact hP.next (fun h1 => hP.requestPromote h1) h
  | arbStarve _ => exact hP.next (fun h1 => hP.arbStarve h1) h
  | refreshDue _ _ _ =>
    change ∃ u, execRefreshDue _ _ _ s = .next u ∧ P u
    unfold execRefreshDue
    exact hP.next (fun h1 => iteK (fun _ => hP.refreshDue h1) fun _ => h1) h
  | calibrationDue _ _ _ => exact hP.next (fun h1 => hP.calibrationDue h1) h
  | scrubRead _ _ _ _ =>
    change ∃ u, execScrubRead _ _ _ _ s = .next u ∧ P u
    unfold execScrubRead
    exact hP.next (fun h1 => iteK (fun _ => hP.scrubRead h1) fun _ => h1) h
  | neighbourRefresh _ =>
    change ∃ u, execNeighbourRefresh _ s = .next u ∧ P u
    unfold execNeighbourRefresh
    exact hP.next (fun h1 => iteK (fun _ => hP.neighbourRefresh h1) fun _ => h1) h
  | hammerWindowEnd _ =>
    change ∃ u, execHammerWindowEnd _ s = .next u ∧ P u
    unfold execHammerWindowEnd
    exact hP.next (fun h1 => hP.core h1) h
  | pageIdleClose _ _ _ =>
    change ∃ u, execPageIdleClose _ _ _ s = .next u ∧ P u
    unfold execPageIdleClose
    exact hP.next (fun h1 => iteK (fun _ => hP.pageIdle h1) fun _ => h1) h
  | ceWindowEnd _ _ =>
    change ∃ u, execCeWindowEnd _ _ s = .next u ∧ P u
    unfold execCeWindowEnd
    exact hP.next (fun h1 => iteK (fun _ => hP.setFld (hP.core h1)) fun _ => h1) h
  | migrationCopyLine _ _ =>
    change ∃ u, execMigrationCopyLine _ _ s = .next u ∧ P u
    unfold execMigrationCopyLine
    exact hP.next (fun h1 => iteK (fun _ => hP.copyLine h1) fun _ => h1) h
  | freqChangeDone _ _ => exact hP.next (fun h1 => hP.freqStep h1) h
  | candleHourUpdate =>
    change ∃ u, execCandleHourUpdate s = .next u ∧ P u
    unfold execCandleHourUpdate
    exact hP.next (fun h1 => iteK (fun _ => h1) fun _ => hP.candleUpdate h1) h
  | tableAck _ _ => exact hP.next (fun h1 => hP.returnHeard h1) h
  | tableAckTimeout _ => exact hP.next (fun h1 => hP.uniRetry h1) h
  | status _ _ => exact hP.next (fun h1 => hP.returnHeard h1) h
  | laneOrder _ _ => exact hP.next (fun h1 => hP.returnHeard h1) h
  | lensTemp _ _ => exact hP.next (fun h1 => hP.returnHeard h1) h
  | returnUnknownBlock _ => exact hP.next (fun h1 => hP.returnHeard h1) h
  | returnLaneLock _ _ => exact hP.next (fun h1 => hP.returnLock h1) h
  | returnLaneLoss _ => exact hP.next (fun h1 => hP.returnLost h1) h
  | statusTimeout _ => exact hP.next (fun h1 => hP.returnLost h1) h
  | trainTimeout _ =>
    change ∃ u, execTrainTimeout _ s = .next u ∧ P u
    unfold execTrainTimeout
    exact hP.next (fun h1 => iteK (fun _ => hP.attemptFailed h1) fun _ => h1) h
  | relockLate _ =>
    change ∃ u, execRelockLate _ s = .next u ∧ P u
    unfold execRelockLate
    exact hP.next (fun h1 => iteK (fun _ => hP.relockLate h1) fun _ => h1) h
  | adaptFreeze _ => exact hP.next (fun h1 => hP.adaptFreeze h1) h
  | ctrain _ _ _ =>
    change ∃ u, execCtrain _ _ _ s = .next u ∧ P u
    unfold execCtrain
    exact hP.next (fun h1 => iteK (fun _ => hP.ctrain h1) fun _ => h1) h
  | cstat _ _ =>
    change ∃ u, execCstat _ _ s = .next u ∧ P u
    unfold execCstat
    exact hP.next (fun h1 => iteK (fun _ => hP.cstat h1) fun _ => h1) h
  | cstatTimer =>
    change ∃ u, execCstatTimer s = .next u ∧ P u
    unfold execCstatTimer
    exact hP.next (fun h1 => iteK (fun _ => hP.cstatTimer h1) fun _ => h1) h
  | chainLaneFail _ _ =>
    change ∃ u, execChainLaneFail _ _ s = .next u ∧ P u
    unfold execChainLaneFail
    exact hP.next (fun h1 => iteK (fun _ => hP.laneFail h1) fun _ => h1) h
  | chainLaneReturn _ _ =>
    change ∃ u, execChainLaneReturn _ _ s = .next u ∧ P u
    unfold execChainLaneReturn
    exact hP.next (fun h1 => iteK (fun _ => hP.laneReturn h1) fun _ => h1) h
  | addrOffer _ =>
    change ∃ u, execAddrOffer _ s = .next u ∧ P u
    unfold execAddrOffer
    exact hP.next (fun h1 => iteK (fun _ => hP.addrOffer (hP.messageThaw h1)) fun _ => h1) h
  | addrOfferTimer =>
    change ∃ u, execAddrOfferTimer s = .next u ∧ P u
    unfold execAddrOfferTimer
    exact hP.next (fun h1 => iteK (fun _ => hP.addrOfferTimer h1) fun _ => h1) h
  | chainHeadTimeout =>
    change ∃ u, execChainHeadTimeout s = .next u ∧ P u
    unfold execChainHeadTimeout
    exact hP.next (fun h1 => iteK (fun _ => hP.becomeHead h1) fun _ => h1) h
  | delayReq _ _ _ _ =>
    change ∃ u, execDelayReq _ _ _ _ s = .next u ∧ P u
    unfold execDelayReq
    exact hP.next (fun h1 => iteK (fun _ => hP.chainEmit (hP.chainThaw h1)) fun _ => h1) h
  | delayResp _ _ _ _ =>
    change ∃ u, execDelayResp _ _ _ _ s = .next u ∧ P u
    unfold execDelayResp
    exact hP.next (fun h1 => iteK (fun _ => hP.delayResp (hP.chainThaw h1)) fun _ => h1) h
  | beacon _ =>
    change ∃ u, execBeacon _ s = .next u ∧ P u
    unfold execBeacon
    exact hP.next (fun h1 => iteK (fun _ => hP.beacon (hP.chainThaw h1)) fun _ => h1) h
  | chainBeaconLoss =>
    change ∃ u, execChainBeaconLoss s = .next u ∧ P u
    unfold execChainBeaconLoss
    exact hP.next (fun h1 => iteK (fun _ => hP.beaconLoss h1) fun _ => h1) h
  | bcast _ _ =>
    change ∃ u, execBcast _ _ s = .next u ∧ P u
    unfold execBcast
    exact hP.next (fun h1 => iteK (fun _ => hP.bcastSeen (hP.messageThaw h1)) fun _ => h1) h
  | bcastExecute => exact hP.next (fun h1 => hP.bcastExecute h1) h
  | ptpSync _ _ =>
    change ∃ u, execPtpSync _ _ s = .next u ∧ P u
    unfold execPtpSync
    exact hP.next (fun h1 => iteK (fun _ => hP.ptpSync h1) fun _ => h1) h
  | announce _ _ =>
    change ∃ u, execAnnounce _ _ s = .next u ∧ P u
    unfold execAnnounce
    exact hP.next (fun h1 => iteK (fun _ => hP.announceSeen h1) fun _ => h1) h
  | ptpDelayResp _ _ =>
    change ∃ u, execPtpDelayResp _ _ s = .next u ∧ P u
    unfold execPtpDelayResp
    exact hP.next (fun h1 => iteK (fun _ => hP.delayRespSeen h1) fun _ => h1) h
  | ptpIgnoredMessage _ =>
    change ∃ u, execPtpIgnoredMessage _ s = .next u ∧ P u
    unfold execPtpIgnoredMessage
    exact hP.next (fun h1 => iteK (fun _ => hP.ptpBad h1) fun _ => h1) h
  | arpRequest _ =>
    change ∃ u, execArpRequest _ s = .next u ∧ P u
    unfold execArpRequest
    exact hP.next (fun h1 => iteK (fun _ => hP.low.emit h1) fun _ => h1) h
  | announceReceiptTimeout _ =>
    change ∃ u, execAnnounceReceiptTimeout _ s = .next u ∧ P u
    unfold execAnnounceReceiptTimeout
    exact hP.next (fun h1 => iteK (fun _ => hP.announceTimeout h1) fun _ => h1) h
  | syncTimeout _ =>
    change ∃ u, execSyncTimeout _ s = .next u ∧ P u
    unfold execSyncTimeout
    exact hP.next (fun h1 => iteK (fun _ => hP.refLost h1) fun _ => h1) h
  | handoverEnd =>
    change ∃ u, execHandoverEnd s = .next u ∧ P u
    unfold execHandoverEnd
    exact hP.next (fun h1 => hP.low.fixTb3 (hP.low.setHandD h1)) h
  | timeCompare _ =>
    change ∃ u, execTimeCompare _ s = .next u ∧ P u
    unfold execTimeCompare
    exact hP.next (fun h1 => iteK (fun _ => hP.cmpFire h1) fun _ => h1) h
  | syncInEdge =>
    change ∃ u, execSyncInEdge s = .next u ∧ P u
    unfold execSyncInEdge
    exact hP.next (fun h1 => iteK (fun _ => h1) fun _ => hP.syncEdge h1) h
  | syncLoss => exact hP.next (fun h1 => hP.syncLoss h1) h
  | snuffNLow => exact hP.next (fun h1 => hP.snuffNLow h1) h
  | snuffNHigh => exact hP.next (fun h1 => hP.snuffNHigh h1) h
  | provEnChange _ => exact hP.next (fun h1 => hP.provEnChange h1) h
  | smbalertNLow _ =>
    change ∃ u, execSmbalertNLow _ s = .next u ∧ P u
    unfold execSmbalertNLow
    exact hP.next (fun h1 => hP.vrmPollAll (hP.setLevel (hP.setInput h1))) h
  | refLoss _ =>
    change ∃ u, execRefLoss _ s = .next u ∧ P u
    unfold execRefLoss
    exact hP.next (fun h1 => iteK (fun _ => hP.refLoss h1) fun _ => h1) h
  | refReturn _ _ =>
    change ∃ u, execRefReturn _ _ s = .next u ∧ P u
    unfold execRefReturn
    exact hP.next (fun h1 => iteK (fun _ => hP.refReturn h1) fun _ => h1) h
  | refPpmCheck _ => exact hP.next (fun h1 => hP.refPpm h1) h
  | lockWindowEnd _ _ =>
    change ∃ u, execLockWindowEnd _ _ s = .next u ∧ P u
    unfold execLockWindowEnd
    exact hP.next (fun h1 => iteK (fun _ => hP.freqLocked (hP.lockWindow h1)) fun _ => h1) h
  | overshootCheck _ _ =>
    change ∃ u, execOvershootCheck _ _ s = .next u ∧ P u
    unfold execOvershootCheck
    exact hP.next (fun h1 => iteK (fun _ => hP.overshoot h1) fun _ => h1) h
  | pllLockTimeout _ =>
    change ∃ u, execPllLockTimeout _ s = .next u ∧ P u
    unfold execPllLockTimeout
    exact hP.next (fun h1 => iteK (fun _ => hP.pllTimeout h1) fun _ => h1) h
  | railDelayExpire _ => exact hP.next (fun h1 => hP.railDelayExpire h1) h
  | railPowerGood _ _ =>
    change ∃ u, execRailPowerGood _ _ s = .next u ∧ P u
    unfold execRailPowerGood
    exact hP.next (fun h1 => hP.actRails (hP.railPowerGood h1)) h
  | railRampDownDone _ =>
    change ∃ u, execRailRampDownDone _ s = .next u ∧ P u
    unfold execRailRampDownDone
    exact hP.next (fun h1 => hP.actRails (hP.orderlyEnd (hP.railRampDownDone h1))) h
  | railRampTimeout _ _ =>
    change ∃ u, execRailRampTimeout _ _ s = .next u ∧ P u
    unfold execRailRampTimeout
    exact hP.next (fun h1 => iteK (fun _ => hP.railFault h1) fun _ => h1) h
  | railFault _ _ _ =>
    change ∃ u, execRailFault _ _ _ s = .next u ∧ P u
    unfold execRailFault
    exact hP.next (fun h1 => iteK (fun _ => hP.railFault h1) fun _ => h1) h
  | vrmPoll _ _ =>
    change ∃ u, execVrmPoll _ _ s = .next u ∧ P u
    unfold execVrmPoll
    exact hP.next (fun h1 => iteK (fun _ => hP.vrmPoll (hP.alertRead h1)) fun _ => h1) h
  | vrmRampTimeout _ _ =>
    change ∃ u, execVrmRampTimeout _ _ s = .next u ∧ P u
    unfold execVrmRampTimeout
    exact hP.next (fun h1 => iteK (fun _ => hP.vrmFail h1) fun _ => h1) h
  | lensUpdateStart => exact hP.next (fun h1 => hP.lensUpdateStart h1) h
  | vlcdSettled =>
    change ∃ u, execVlcdSettled s = .next u ∧ P u
    unfold execVlcdSettled
    refine hP.next (fun h1 => ?_) h
    split
    · exact hP.lower.lensGoOn (hP.lensReady h1)
    · exact h1
  | lensJournalOpenDone _ =>
    change ∃ u, execLensJournalOpenDone _ s = .next u ∧ P u
    unfold execLensJournalOpenDone
    exact hP.next (fun h1 => iteK (fun _ => hP.lensBlockDone h1) fun _ => h1) h
  | lensPhaseEnd => exact hP.next (fun h1 => hP.lensPhaseEnd h1) h
  | lensWaveformEnd =>
    change ∃ u, execLensWaveformEnd s = .next u ∧ P u
    unfold execLensWaveformEnd
    exact hP.next (fun h1 => hP.lower.lensGoOn (hP.lensWaveEnd h1)) h
  | lensJournalDoneComplete _ =>
    change ∃ u, execLensJournalDoneComplete _ s = .next u ∧ P u
    unfold execLensJournalDoneComplete
    exact hP.next (fun h1 => iteK (fun _ => h1) fun _ => hP.lensBlockDone h1) h
  | lensOvercurrent _ => exact hP.next (fun h1 => hP.lensOvercurrent h1) h
  | lensNoTemp =>
    change ∃ u, execLensNoTemp s = .next u ∧ P u
    unfold execLensNoTemp
    exact hP.next (fun h1 => iteK (fun _ => h1) fun _ => hP.low.raiseErr (hP.incSat (hP.core h1)) (joins_none _ _ (by decide))) h
  | nvmWriteDone _ _ =>
    change ∃ u, execNvmWriteDone _ _ s = .next u ∧ P u
    unfold execNvmWriteDone
    exact hP.next (fun h1 => iteK (fun _ => hP.lensBlockDone h1) fun _ => hP.mainBlockDone h1) h
  | nvmPatrolRead _ => exact hP.next (fun h1 => hP.patrolRead h1) h
  | snapshotTimer =>
    change ∃ u, execSnapshotTimer s = .next u ∧ P u
    unfold execSnapshotTimer
    exact hP.next (fun h1 => iteK (fun _ => h1) fun _ => hP.snapshotWrite h1) h
  | logSecond =>
    change ∃ u, execLogSecond s = .next u ∧ P u
    unfold execLogSecond
    exact hP.next (fun h1 => iteK (fun _ => h1) fun _ => hP.logSecond h1) h
  | thermalSample _ =>
    change ∃ u, execThermalSample _ s = .next u ∧ P u
    unfold execThermalSample
    exact hP.next (fun h1 => iteK (fun _ => h1) fun _ => hP.thermalSample h1) h
  | fwWatchdog =>
    change ∃ u, execFwWatchdog s = .next u ∧ P u
    unfold execFwWatchdog
    exact hP.next (fun h1 => iteK (fun _ => h1) fun _ => hP.fwWatchdog h1) h
  | coreRestartDone => exact hP.next (fun h1 => hP.coreRestartDone h1) h
  | followupDone _ _ =>
    change ∃ u, execFollowupDone _ _ s = .next u ∧ P u
    unfold execFollowupDone
    exact hP.next (fun h1 => iteK (fun _ => h1) fun _ => hP.followupDone h1) h
  | ptpFollowUp _ _ =>
    change ∃ u, execPtpFollowUp _ _ s = .next u ∧ P u
    unfold execPtpFollowUp
    exact hP.next (fun h1 => iteK (fun _ => hP.ptpFollowUp h1) fun _ => h1) h
  | ptpPdelayReq d master q rx tx =>
    change ∃ u, execPtpPdelayReq d master q rx tx s = .next u ∧ P u
    refine hP.next (fun h1 => ?_) h
    exact iteK (fun _ => hP.pdelayReq h1) fun _ => h1
  | ptpDelayReqTimer _ =>
    change ∃ u, execPtpDelayReqTimer _ s = .next u ∧ P u
    unfold execPtpDelayReqTimer
    exact hP.next (fun h1 => iteK (fun _ => hP.delayReqTimer h1) fun _ => h1) h
  | resetNShortPulse => exact hP.next (fun h1 => hP.resetNShortPulse h1) h
  | resetNStuck =>
    change ∃ u, execResetNStuck s = .next u ∧ P u
    unfold execResetNStuck
    exact hP.next (fun h1 => iteK (fun _ => h1) fun _ => hP.inputFault (hP.setLevel (hP.setInput h1))) h
  | smbalertNStuck =>
    change ∃ u, execSmbalertNStuck s = .next u ∧ P u
    unfold execSmbalertNStuck
    exact hP.next (fun h1 => iteK (fun _ => h1) fun _ => hP.inputFault (hP.setLevel (hP.setInput h1))) h
  | rowPeriodInterval =>
    change ∃ u, execRowPeriodInterval s = .next u ∧ P u
    unfold execRowPeriodInterval
    exact hP.next (fun h1 => iteK (fun _ => h1) fun _ => hP.uniSend h1) h

end

end Sys2Proof.Kept
end

section
/-! PROOFS. The canonical form, the stay in DARK_FAULT and the units of the lens driver. -/

namespace Sys2Proof.Kept

set_option Elab.async false

open Machine

/-! ### The canonical form -/

theorem canonical_followQueue (blk idx src cause : Nat) {s : State} (h : s.canonical = true) :
    (followQueue blk idx src cause s).1.canonical = true := by
  unfold followQueue
  extract_lets u f s1
  split
  · exact h
  · split
    · exact h
    · split
      · exact canonical_setReg _ _ (canonical_setReg _ _ (canonical_setReg _ _ h))
      · exact canonical_setReg _ _ h

theorem canonical_powerOff {s : State} (h : s.canonical = true) : (powerOff s).canonical = true := by
  rw [canonical_iff] at h
  obtain ⟨-, -, hn, hb, -⟩ := h
  refine canonical_setReg _ _ (canonical_setReg _ _ ((canonical_iff _).2 ⟨rfl, rfl, hn, hb, rfl⟩))

theorem closed_canonical : Closed True fun s => s.canonical = true where
  still hc _ _ _ _ h := hc h
  awake _ _ := trivial
  lampTo _ h := canonical_setReg _ _ h
  orderlyTo _ h := h
  joined _ h := canonical_followQueue _ _ _ _ h
  served h := h
  unpowered _ h := canonical_powerOff h

/-! ### DARK_FAULT -/

/-- The lamplighter is in DARK_FAULT, and no GO_DARK runs. -/
def Dark (s : State) : Prop := lamp s = .darkFault ∧ s.orderly = none

theorem lamp_followQueue (blk idx src cause : Nat) (s : State) : lamp (followQueue blk idx src cause s).1 = lamp s := by
  unfold followQueue
  extract_lets u f s1
  have h : ∀ (t : State) (g : Fld) (v : Nat), g.off ≠ Reg.GEN_STATE → lamp (setFld t g v) = lamp t := fun t g v ho =>
    lamp_congr (fld_setReg_ne t _ _ (Ne.symm ho))
  split
  · exact lamp_congr (fld_congr rfl _)
  · split
    · rfl
    · split
      · rw [h _ _ _ (by decide), h _ _ _ (by decide), h _ _ _ (by decide)]
      · exact (h _ _ _ (by decide)).trans (lamp_congr (fld_congr rfl _))

theorem orderly_followQueue (blk idx src cause : Nat) (s : State) : (followQueue blk idx src cause s).1.orderly = s.orderly := by
  unfold followQueue
  extract_lets u f s1
  split
  · rfl
  · split
    · rfl
    · split
      · rw [setFld_orderly, setFld_orderly, setFld_orderly]
      · rw [setPeak_orderly]

theorem closed_dark : Closed False Dark where
  still _ hl _ ho _ h := ⟨hl.trans h.1, ho.trans h.2⟩
  awake h hn := hn.elim (fun hn => hn h.1) fun hn => hn h.2
  lampTo hl h := by
    obtain rfl := hl.resolve_left id
    exact ⟨lamp_setLamp _ _, h.2⟩
  orderlyTo ho h := by
    obtain rfl := ho.resolve_left id
    exact ⟨(lamp_congr (fld_congr rfl _)).trans h.1, rfl⟩
  joined _ h := ⟨(lamp_followQueue _ _ _ _ _).trans h.1, (orderly_followQueue _ _ _ _ _).trans h.2⟩
  served h := ⟨(lamp_congr (fld_congr rfl _)).trans h.1, h.2⟩
  unpowered hR := hR.elim

/-! ### The units of the lens driver -/

theorem fuUnit_set (s : State) (blk idx k : Nat) (u : FuUnit) (hk : k < 16) :
    fuUnit { s with followUps := tblSet {} s.followUps (unitKey blk idx) u } unitLens k =
      if blk = unitLens ∧ idx % 256 = k then u else fuUnit s unitLens k := by
  have e : unitKey unitLens k = unitKey blk idx ↔ blk = unitLens ∧ idx % 256 = k := by
    simp only [unitKey, unitLens]
    omega
  simp only [fuUnit, tblGet_set, e]

theorem lensUnits_congr {s t : State} (hf : t.followUps = s.followUps) (h : s.lensUnits) : t.lensUnits := by
  simpa only [State.lensUnits, fuUnit, hf] using h

/-- The errors that wait at a common's unit, of which there are three kinds at most. -/
def Waits (w : List FollowUp) : Prop := w.length < 4 ∧ w.Nodup ∧ ∀ f, f ∈ w → f.src = evLensFault ∧ 2 ≤ f.cause ∧ f.cause ≤ 4

theorem length_waits {w : List FollowUp} (hn : w.Nodup) (h : ∀ f, f ∈ w → f.src = evLensFault ∧ 2 ≤ f.cause ∧ f.cause ≤ 4) :
    w.length ≤ 3 := by
  have hs : w ⊆ [⟨evLensFault, 2⟩, ⟨evLensFault, 3⟩, ⟨evLensFault, 4⟩] := by
    intro f hf
    obtain ⟨hsrc, h2, h4⟩ := h f hf
    obtain ⟨src, cause⟩ := f
    simp only at hsrc h2 h4
    subst hsrc
    have : cause = 2 ∨ cause = 3 ∨ cause = 4 := by omega
    rcases this with rfl | rfl | rfl <;> simp
  exact (List.Nodup.subperm hn hs).length_le

theorem lensUnits_set {s : State} {blk idx : Nat} {u : FuUnit} (h : s.lensUnits)
    (hu : blk = unitLens → idx % 256 < 16 → Waits u.waiting) :
    State.lensUnits { s with followUps := tblSet {} s.followUps (unitKey blk idx) u } := by
  intro k hk
  rw [fuUnit_set s blk idx k u hk]
  split
  · next e => exact hu e.1 (e.2 ▸ hk)
  · exact h k hk

theorem lensUnits_followQueue {blk idx src cause : Nat} (hj : Joins blk idx src cause) {s : State} (h : s.lensUnits) :
    (followQueue blk idx src cause s).1.lensUnits := by
  have hw : blk = unitLens → idx % 256 < 16 → Waits (fuUnit s blk idx).waiting := fun hb hi => by
    have := h _ hi
    rwa [show fuUnit s unitLens (idx % 256) = fuUnit s blk idx by simp [fuUnit, unitKey, hb]] at this
  unfold followQueue
  extract_lets u f s1
  split
  · exact lensUnits_set h hw
  · split
    · exact h
    · next hm =>
      split
      · exact lensUnits_congr rfl h
      · refine lensUnits_congr (s := s1) rfl (lensUnits_set h fun hb hi => ?_)
        obtain ⟨-, hn, ha⟩ := hw hb hi
        have hn' : (u.waiting ++ [f]).Nodup := by
          refine List.nodup_append.2 ⟨hn, List.nodup_singleton f, fun a ha' b hb' e => hm ?_⟩
          simp only [List.mem_singleton] at hb'
          simpa [List.contains_iff_mem, ← hb', ← e] using ha'
        have ha' : ∀ g, g ∈ u.waiting ++ [f] → g.src = evLensFault ∧ 2 ≤ g.cause ∧ g.cause ≤ 4 := fun g hg => by
          rcases List.mem_append.1 hg with hg | hg
          · exact ha g hg
          · rw [List.mem_singleton.1 hg]
            exact hj hb hi
        exact ⟨Nat.lt_succ_of_le (length_waits hn' ha'), hn', ha'⟩

theorem closed_lensUnits : Closed True State.lensUnits where
  still _ _ hf _ _ h := lensUnits_congr hf h
  awake _ _ := trivial
  lampTo _ h := lensUnits_congr rfl h
  orderlyTo _ h := lensUnits_congr rfl h
  joined hj h := lensUnits_followQueue hj h
  served {s blk idx} h := by
    refine lensUnits_set h fun hb hi => ?_
    have := h _ hi
    rw [show fuUnit s unitLens (idx % 256) = fuUnit s blk idx by simp [fuUnit, unitKey, hb]] at this
    obtain ⟨hl, hn, ha⟩ := this
    exact ⟨by simp only [List.length_drop]; omega, hn.sublist (List.drop_sublist 1 _), fun f hf => ha f (List.mem_of_mem_drop hf)⟩
  unpowered _ _ := lensUnits_congr (s :=
    {}) rfl fun _ _ => ⟨Nat.zero_lt_succ 3, List.nodup_nil, fun _ hf => absurd hf List.not_mem_nil⟩

/-! ### The step -/

/-- A step keeps what every command keeps, where the command in front is no reset. -/
theorem Closed.step {R : Prop} {P : State → Prop} (hP : Closed R P) (hH : Holds P) (hR : R) {s t : State}
    (h : P s) (e : Machine.step s = .next t) : P t := by
  unfold Machine.step at e
  split at e
  · obtain rfl := Host.Outcome.next.inj e
    exact hP.idle h
  · obtain ⟨u, hu, hp⟩ := hP.exec _ hH (fun _ => hR) (hP.core (s := s) h)
    rw [hu] at e
    obtain rfl := Host.Outcome.next.inj e
    exact hp

/-- Settles O5: every primitive move keeps the canonical form, and with it every command. -/
theorem everyStepKeepsCanonicalForm : Obligations.EveryStepKeepsCanonicalForm := by
  unfold Obligations.EveryStepKeepsCanonicalForm
  exact fun s t h e => closed_canonical.step (fun h => h) trivial h e

/-- Settles O53: outside the resets no move leads out of DARK_FAULT once no GO_DARK runs. -/
theorem darkFaultIsLeftByResetsAlone : Obligations.DarkFaultIsLeftByResetsAlone := by
  unfold Obligations.DarkFaultIsLeftByResetsAlone
  intro c s t hs _ hl e hw hv
  have hd : Dark s := ⟨hl, hs.orderly.resolve_right (not_not.2 hl)⟩
  have hR : resets c → False := fun hc => by
    unfold resets at hc
    split at hc
    · next h _ => exact hw h rfl
    · exact hv rfl
    · exact hc
  obtain ⟨u, hu, hp⟩ := closed_dark.exec c (fun h => h) hR hd
  rw [hu] at e
  obtain rfl := Host.Outcome.next.inj e
  exact hp.1

end Sys2Proof.Kept
end

section
/-! PROOFS. What an index out of range that a state itself holds lets a command do: a pending witness setting of a
place that does not exist writes a register that a statement speaks of, at the boundary point that entering
DARK_FAULT makes (R19). The obligations presume nothing of the settings and works that wait. -/

namespace Sys2Proof.Stray

set_option Elab.async false

open Machine

/-! ### Helpers -/

/-- The state a command answers. -/
def after (c : Instr) (s : State) : State := match exec c s with
  | .next t => t
  | _ => s

theorem of_completes {c : Instr} {s : State} {P : State → Prop} (h : Completes c s P) : P (after c s) := by
  obtain ⟨t, ht, hP⟩ := h
  rw [after, ht]
  exact hP

/-- A setting of a witness whose registers stand at `off`, as if there were as many witnesses. -/
def strayWitness (off : Nat) : WitSet := ⟨{}, (off - 0x301000) / 0x20, 0, 0, 0, 0⟩

/-- A unit whose follow-ups leave room for one more. -/
def roomForOne : FuUnit := ⟨some ⟨0, 0⟩, [⟨0, 1⟩, ⟨0, 2⟩, ⟨0, 3⟩]⟩

theorem calm_of_single {s : State} {k : Nat} {u : FuUnit} (h : s.followUps = [(k, u)]) (hu : u.waiting.length < 4) : s.calm := by
  intro i
  rw [h, tblGet]
  split
  · exact hu
  · simp [tblGet]

/-! ### The start, the regulators and the watchdog -/

/-- Step 4 of a start, with a witness setting that stands at the register of the first regulator. -/
def strayStart : State :=
  { regs := [(Reg.GEN_STATE, 1#64), (Reg.STR_STAT, 0x40#64)], scan := { witPend := [strayWitness (Reg.RAIL_VRM_STAT 0)] } }

theorem settled_strayStart : strayStart.settled := State.settled_of_none rfl rfl rfl (by decide) (by decide) rfl

/-- What step 4 finds: the first regulator failed. -/
def failedStart : StartInfo where
  pllLocked := 0
  vrmFail := some (0, 3)
  pop := ⟨1, 4, 1, 1, 8, 2400, 2, false, []⟩
  trainFail := []
  marginFail := []
  serials := []
  vlcdOk := true
  lensTemps := []
  recoverFail := []
  railFail := none
  chainHead := false

/-- Refutes O22: step 4 fails a regulator, and the setting that DARK_FAULT puts in force zeroes its state. -/
theorem not_startUpStepsFollowOneAnother : ¬ Obligations.StartUpStepsFollowOneAnother := by
  unfold Obligations.StartUpStepsFollowOneAnother
  intro h
  obtain ⟨-, -, hfour, -⟩ := h strayStart failedStart (by decide) settled_strayStart (State.calm_of_nil rfl) rfl rfl
  obtain ⟨hfail, -⟩ := hfour (by decide)
  obtain ⟨hstate, -⟩ := of_completes (hfail 0 3 rfl (by decide))
  exact absurd hstate (by decide +kernel)

/-- The first regulator ramps, with a witness setting that stands at its register. -/
def strayRamp : State :=
  { regs := [(Reg.GEN_STATE, 3#64), (Reg.RAIL_VRM_STAT 0, 0x2000000000000#64)]
    scan := { witPend := [strayWitness (Reg.RAIL_VRM_STAT 0)] } }

theorem settled_strayRamp : strayRamp.settled := State.settled_of_none rfl rfl rfl (by decide) (by decide) rfl

/-- Refutes O34: the regulator fails, and the setting that DARK_FAULT puts in force zeroes its state. -/
theorem not_regulatorsAreReadAndFail : ¬ Obligations.RegulatorsAreReadAndFail := by
  unfold Obligations.RegulatorsAreReadAndFail
  intro h
  obtain ⟨-, hramp⟩ := h strayRamp 0 settled_strayRamp (by decide) (by decide)
  obtain ⟨hstate, -⟩ := of_completes (hramp 0 (by decide) rfl)
  exact absurd hstate (by decide +kernel)

/-- The core restarted a moment ago, with a witness setting that stands at the watchdog's register. -/
def strayWatchdog : State :=
  { regs := [(Reg.GEN_STATE, 3#64)], restartAt := some 0, scan := { witPend := [strayWitness Reg.MGMT_WDOG] } }

theorem settled_strayWatchdog : strayWatchdog.settled := State.settled_of_none rfl rfl rfl (by decide) (by decide) rfl

/-- Refutes O43: the second expiry within 10 s is counted, and the setting that DARK_FAULT puts in force zeroes the
count. -/
theorem not_healthCommandsAct : ¬ Obligations.HealthCommandsAct := by
  unfold Obligations.HealthCommandsAct
  intro h
  obtain ⟨-, -, -, -, -, -, hdog, -⟩ := h strayWatchdog settled_strayWatchdog (State.calm_of_nil rfl)
  obtain ⟨-, hcount, -⟩ := of_completes (hdog (by decide) rfl)
  exact absurd hcount (by unfold Counted; decide +kernel)

/-! ### The lens, the store and the chain -/

/-- An update drives common 0, whose unit has room for one follow-up and whose overcurrent raises two, with a witness
setting that stands at the common's register. -/
def strayLens : State :=
  { regs := [(Reg.GEN_STATE, 3#64)], lens := { phase := .wave 0 0 }, followUps := [(unitKey unitLens 0, roomForOne)]
    scan := { witPend := [strayWitness (lensState 0).off] } }

theorem settled_strayLens : strayLens.settled := State.settled_of_none rfl rfl rfl (by decide) (by decide) rfl

theorem calm_strayLens : strayLens.calm := calm_of_single rfl (by decide)

/-- Refutes O35: the second of the overcurrent's errors escalates, and the setting that DARK_FAULT puts in force zeroes
the common's state. -/
theorem not_lensUpdatesRunTheirCourse : ¬ Obligations.LensUpdatesRunTheirCourse := by
  unfold Obligations.LensUpdatesRunTheirCourse
  intro h
  obtain ⟨-, -, hwrites, -⟩ := h strayLens settled_strayLens
  obtain ⟨-, -, hover⟩ := hwrites rfl rfl
  obtain ⟨-, -, hstate⟩ := of_completes (hover 0 0 0 calm_strayLens (by decide) (by decide) rfl)
  exact absurd hstate (by decide +kernel)

/-- A write of the patrol in the lens block, with LENS_FORCE work on a common that does not exist, whose targets stand
among the counts of the store. -/
def strayPatrol : State :=
  { regs := [(Reg.GEN_STATE, 3#64)], lensRun := some ⟨8176, 0, [], 0, .patrol⟩
    lens := { forced := [((Reg.NVM_CNT - 0x3C0400) / 48, 1, 7)] } }

theorem settled_strayPatrol : strayPatrol.settled :=
  State.settled_of_none rfl rfl rfl (by decide +kernel) (by decide) rfl

/-- Refutes O36: the write that ends lets the LENS_FORCE work go on, and its targets overwrite the count. -/
theorem not_storeWritesEnd : ¬ Obligations.StoreWritesEnd := by
  unfold Obligations.StoreWritesEnd
  intro h
  obtain ⟨-, hlens, -⟩ := h strayPatrol settled_strayPatrol
  obtain ⟨-, hcount⟩ := of_completes (hlens _ rfl (by decide) (by decide) (by decide))
  exact absurd hcount (by unfold Counted; decide +kernel)

/-- An input of a chain port that hears a lane, the follow-ups of the chain link full, with a witness setting that stands
at the counts of the chain. -/
def strayLane : State :=
  { regs := [(Reg.GEN_STATE, 3#64), (Reg.CHN_CFG, 1#64)], chain := { ports := [(0, { seen := [(0, 1)] })] }
    followUps := [(unitKey unitChn 0, fullUnit)], scan := { witPend := [strayWitness Reg.CHN_CNT] } }

theorem settled_strayLane : strayLane.settled := State.settled_of_none rfl rfl rfl (by decide) (by decide) rfl

/-- Refutes O32: the lane that fails is counted, its error escalates, and the setting that DARK_FAULT puts in force zeroes
the count. -/
theorem not_chainLanesAndAddresses : ¬ Obligations.ChainLanesAndAddresses := by
  unfold Obligations.ChainLanesAndAddresses
  intro h
  obtain ⟨-, -, hfail, -⟩ := h strayLane 0 0 settled_strayLane (by decide) (by decide) (by decide)
  obtain ⟨hcount, -⟩ := of_completes (hfail (by decide))
  exact absurd hcount (by unfold Counted; decide +kernel)

end Sys2Proof.Stray
end

section
/-! PROOFS. Indices out of range in the lists that the picture and the engines hold: banks that wait to flip, levels that wait to be
accepted and pending witness settings write registers of other units. And the steps of a training count the population's channels. -/

namespace Sys2Proof.Stray

set_option Elab.async false

open Machine

/-! ### The picture -/

/-- Descriptor with an opcode, TAG 7 and a body of zeros. -/
def bareDescriptor (op : Nat) : Bytes := natLe op 1 ++ natLe 0 1 ++ natLe 7 62

/-- A COMMIT in front of ring 0, the raster stopped, and a level that waits for its zone, which stands among the registers of the
raster's timing. -/
def strayCommit : State :=
  { regs := [(Reg.GEN_STATE, 3#64), (Reg.HOST_LINK, 1#64), (Reg.MFB_STAT, 0x10#64)], rings := [(0, { taken := [bareDescriptor 7] })], img := some []
    optArmed := [(Reg.SCAN_GEN_CUR.off - Reg.RMAP_ZONE_LEVEL 0) / 48]
    optPend := [(2 * (Reg.SCAN_GEN_CUR.off - Reg.RMAP_ZONE_LEVEL 0), 8)] }

theorem settled_strayCommit : strayCommit.settled := State.settled_of_none rfl rfl rfl (by decide) (by decide) rfl

/-- Refutes O57: the generation that comes into force is overwritten by the level that the COMMIT accepts. -/
theorem not_commitsAndSettingsTakeEffect : ¬ Obligations.CommitsAndSettingsTakeEffect := by
  unfold Obligations.CommitsAndSettingsTakeEffect
  intro h
  obtain ⟨hcommit, -⟩ := h strayCommit 0 (bareDescriptor 7) settled_strayCommit
  obtain ⟨-, hstopped, -⟩ := hcommit (by decide +kernel) rfl (by decide)
  obtain ⟨-, hgen, -⟩ := of_completes (hstopped (by decide +kernel) (by decide))
  exact absurd hgen (by decide +kernel)

/-- The raster's frame has aborted; a commit is pending, and a bank waits to flip that stands at SCAN_GEN. -/
def strayFlip : State :=
  { regs := [(Reg.GEN_STATE, 5#64), (Reg.SCAN_STAT, 1#64)]
    scan := { started := true, aborts := 1, pend := some ⟨0, {}, []⟩, flips := [8 * (Reg.SCAN_GEN_CUR.off - Reg.RMAP_UNI_BANK 0)] } }

theorem settled_strayFlip : strayFlip.settled := State.settled_of_none rfl rfl rfl (by decide) (by decide) rfl

/-- Refutes O54: the boundary point puts the pending set in force, and the bank that flips changes its generation. -/
theorem not_ticksRowsAndBoundaryPointsRun : ¬ Obligations.TicksRowsAndBoundaryPointsRun := by
  unfold Obligations.TicksRowsAndBoundaryPointsRun
  intro h
  obtain ⟨-, hraster, -⟩ := h strayFlip settled_strayFlip
  obtain ⟨-, -, -, hpoint⟩ := hraster (by decide) rfl
  obtain ⟨-, hpend, -⟩ := hpoint rfl (.inr (by decide))
  obtain ⟨-, hgen⟩ := of_completes (hpend _ rfl)
  exact absurd hgen (by decide +kernel)

/-- A push whose one wick awaits its acknowledgement while the raster runs; the link is down, and the command unit's follow-ups are
full. -/
def strayPush : State :=
  { regs := [(Reg.GEN_STATE, 5#64), (Reg.SCAN_STAT, 1#64), (Reg.WLN_GCFG 23, 1#64), (Reg.WLN_GSTAT 23, 0x114#64)]
    rmap := { push := some ⟨{ origin := .ring 0 0 0 }, 0, 0, false, [⟨184, 0, 4, 77, 4, 1, 1⟩], false⟩ }
    followUps := [(unitKey unitCmd 0, fullUnit)] }

theorem settled_strayPush : strayPush.settled := State.settled_of_none rfl rfl rfl (by decide) (by decide) rfl

/-- Refutes O38: the push's completion cannot be written, its error escalates, and DARK_FAULT flips the banks that the statement
has wait for a row 0. -/
theorem not_tableTransfersAreAcknowledged : ¬ Obligations.TableTransfersAreAcknowledged := by
  unfold Obligations.TableTransfersAreAcknowledged
  intro h
  obtain ⟨-, hlast, -⟩ := h strayPush _ ⟨184, 0, 4, 77, 4, 1, 1⟩ settled_strayPush rfl rfl rfl (by decide)
  obtain ⟨-, -, hflips, -⟩ := of_completes (hlast (BitVec.ofNat 64 (0x82 + 184 * 2 ^ 8 + 77 * 2 ^ 24)) (by decide +kernel) (by decide)
    (by decide) (by decide) (by decide) (by decide) (by decide) (by decide))
  exact absurd (hflips (by decide)) (by decide +kernel)

/-! ### The engines and the memory -/

/-- A job of the lossless engine that no operation names ends; the link is down, the command unit's follow-ups are full, and a witness
setting stands at the record of sources 0 to 255. -/
def strayJob : State :=
  { regs := [(Reg.GEN_STATE, 3#64)], hle := { run := [(0, some ⟨{ origin := .ring 0 0 0 }, 0, natLe 0 4 ++ natLe 2 1, []⟩)] }
    followUps := [(unitKey unitCmd 0, fullUnit)], scan := { witPend := [strayWitness (Reg.MGMT_EV_PEND 0)] } }

theorem settled_strayJob : strayJob.settled := State.settled_of_none rfl rfl rfl (by decide) (by decide) rfl

/-- Refutes O59: HZ_DONE is raised, the completion's error escalates, and the setting that DARK_FAULT puts in force clears it. -/
theorem not_enginesTakeTheirJobsAndEndThem : ¬ Obligations.EnginesTakeTheirJobsAndEndThem := by
  unfold Obligations.EnginesTakeTheirJobsAndEndThem
  intro h
  obtain ⟨-, -, -, -, -, hend, -⟩ := h strayJob 0 [] settled_strayJob
  obtain ⟨-, -, hdone⟩ := of_completes (hend 0 _ (by decide) rfl)
  exact absurd hdone (by unfold Ember; decide +kernel)

/-- A change of the data rate trains eight channels, whose population is not known; a training steps through four then. -/
def strayChange : State :=
  { regs := [(Reg.GEN_STATE, 3#64), (Reg.MFB_STAT, 0x80#64), (Reg.DMC_TRAIN 0, 1#64)], dram := { freqRun := some 2400 } }

theorem settled_strayChange : strayChange.settled := State.settled_of_none rfl rfl rfl (by decide) (by decide) rfl

/-- Refutes O41: the end of step 1 leaves channel 7 where it was. -/
theorem not_dramIsKept : ¬ Obligations.DramIsKept := by
  unfold Obligations.DramIsKept
  intro h
  obtain ⟨-, -, -, -, -, hchange, -⟩ := h strayChange 0 0 settled_strayChange (by decide) (by decide)
  obtain ⟨hstep, -⟩ := hchange 2400 1 rfl (by decide)
  obtain ⟨-, hall⟩ := of_completes (hstep rfl (by decide))
  exact absurd (hall 7 (by decide) (by decide)) (by decide +kernel)

end Sys2Proof.Stray
end

section
/-! PROOFS. Where two errors of one unit, the second of which escalates, put a witness setting of no witness in force. -/

namespace Sys2Proof.Stray

set_option Elab.async false

open Machine

/-- XPLL locked, with one lane of the UP port, the chain's follow-ups with room for one, and a witness setting whose FNUM stands at
XPLL's counts. -/
def strayOvershoot : State :=
  { regs := [(Reg.GEN_STATE, 3#64), (Reg.CLK_PLL_STAT 4, 2#64), (Reg.CHN_PORT_STAT 0, 2#64)]
    chain := { ports := [(0, { seen := [(0, 1)], partner := 1 })] }
    followUps := [(unitKey unitChn 0, roomForOne)], scan := { witPend := [strayWitness (Reg.CLK_PLL_CNT 4 - 16)] } }

theorem settled_strayOvershoot : strayOvershoot.settled := State.settled_of_none rfl rfl rfl (by decide) (by decide) rfl

/-- Refutes O31: the overshoot of XPLL is counted; the lane that fails with it and its port that goes down are two errors, the
second escalates, and the setting that DARK_FAULT puts in force zeroes the count. -/
theorem not_clocksLockAndRelock : ¬ Obligations.ClocksLockAndRelock := by
  unfold Obligations.ClocksLockAndRelock
  intro h
  obtain ⟨-, -, hover, -⟩ := h strayOvershoot 4 settled_strayOvershoot (calm_of_single rfl (by decide)) (by decide)
  obtain ⟨-, hcount, -⟩ := of_completes (hover (10 ^ 30) (by decide) (by decide))
  exact absurd hcount (by unfold Counted; decide +kernel)

end Sys2Proof.Stray
end

section
/-! PROOFS. The wick lanes: the errors of one STATUS escalate. -/

namespace Sys2Proof.Stray

set_option Elab.async false

open Machine

/-- Wick 1 is up in its group, its follow-ups have room for one, and a witness setting whose FNUM stands at the last STATUS of the
group. -/
def strayWick : State :=
  { regs := [(Reg.GEN_STATE, 3#64), (Reg.WLN_GCFG 0, 1#64), (Reg.WLN_GSTAT 0, 0x14#64), (Reg.WLN_W_STAT 1, 1#64)]
    followUps := [(unitKey unitWln 1, roomForOne)], scan := { witPend := [strayWitness (Reg.WLN_GSTATUS 0 - 16)] } }

theorem settled_strayWick : strayWick.settled := State.settled_of_none rfl rfl rfl (by decide) (by decide) rfl

/-- A STATUS with a new head fault and no lane in lock. -/
def faultStatus : DWord := BitVec.ofNat 64 (0x80 + 2 ^ 36)

/-- Refutes O37: the head's fault and the loss of lock are two errors of the wick, the second escalates, and the setting that
DARK_FAULT puts in force overwrites the STATUS kept. -/
theorem not_wickGroupsTrainAndReport : ¬ Obligations.WickGroupsTrainAndReport := by
  unfold Obligations.WickGroupsTrainAndReport
  intro h
  obtain ⟨-, -, -, -, hhears, -⟩ :=
    h strayWick 0 0 settled_strayWick (calm_of_single rfl (by decide)) (by decide) (by decide)
  obtain ⟨-, hblocks, -⟩ := hhears (by decide)
  obtain ⟨hstatus, -⟩ := hblocks (by decide)
  exact absurd (of_completes (hstatus faultStatus (by decide))) (by decide +kernel)

end Sys2Proof.Stray
end

section
/-! PROOFS. The supply, with LENS_FORCE work that waits for the driver; and a carried layer's copy that reads a line with two wrong
devices. -/

namespace Sys2Proof.Stray

set_option Elab.async false

open Machine

/-- A common of which LENS_FORCE work and the driver speak, past the last by as much that its targets stand at MGMT_SNUFF_STAT. -/
def strayCommon : Nat := (Reg.MGMT_SNUFF_STAT - Reg.LENS_TARGET 0) / 48

/-- The driver is at work on that common, and LENS_FORCE work of it waits. -/
def strayForce : State :=
  { regs := [(Reg.GEN_STATE, 3#64)], lens := { phase := .wave strayCommon 0, forced := [(strayCommon, 0, 0)] } }

theorem settled_strayForce : strayForce.settled := State.settled_of_none rfl rfl rfl (by decide) (by decide) rfl

/-- Refutes O23: VIN_WARN stops the waveform, and the RESET that waited for the driver then overwrites the path asserted. -/
theorem not_supplyAndResetInputs : ¬ Obligations.SupplyAndResetInputs := by
  unfold Obligations.SupplyAndResetInputs
  intro h
  obtain ⟨hwarn, -⟩ := h strayForce settled_strayForce (State.calm_of_nil rfl) (by decide)
  obtain ⟨-, -, hpath, -⟩ := of_completes (hwarn 0 (by decide))
  exact absurd hpath (by decide +kernel)

/-! ### Carried layers -/

/-- A layer of one sample, whose planes stand at 0. -/
def dotLayer : Layer := ⟨0, 0, 0, 0, 0, 0, 1, 1, 0, 0, [], 0, 0, 0, 0⟩

/-- A decoded record of generation 1, with the copy of that layer still to finish. -/
def dotRecord : Decode :=
  { c := ⟨0, 0, 1, 0, 0, 1, [], [], false⟩, hdr := [], parsed := true, body := true, carries := [(0, dotLayer, dotLayer)] }

/-- Generation 5 is staged, to be swapped at the next boundary point; the layer's line has two wrong devices, and the channel's
follow-ups are full. -/
def strayCarry : State :=
  { regs := [(Reg.GEN_STATE, 3#64), (Reg.MFB_STAT, 0x10#64), (Reg.MFB_CAPACITY, 128#64), (Reg.RMAP_GEN, 0x50000#64), (Reg.RMAP_STAT, 4#64)]
    dram := { errs := [(0, 3)] }, reel := { nc := some dotRecord }, followUps := [(unitKey unitDmc 0, fullUnit)] }

theorem settled_strayCarry : strayCarry.settled := State.settled_of_none rfl rfl rfl (by decide) (by decide) rfl

/-- Refutes O56: the line's error escalates, the ray map swaps as DARK_FAULT stops the raster, and the record, of an older
generation now, is dropped. -/
theorem not_recordsAreDecodedStepByStep : ¬ Obligations.RecordsAreDecodedStepByStep := by
  unfold Obligations.RecordsAreDecodedStepByStep
  intro h
  obtain ⟨-, -, hcopy⟩ := h strayCarry settled_strayCarry
  obtain ⟨hnext, -⟩ := of_completes (hcopy dotRecord 0 dotLayer dotLayer [] rfl rfl)
  exact absurd hnext (by decide +kernel)

end Sys2Proof.Stray
end

section
/-! PROOFS. NVM_UNLOCK, whose password's record has an uncorrectable group in its other place. -/

namespace Sys2Proof.Stray

set_option Elab.async false

open Machine

theorem after_done {c : Instr} {f : State → State} {s : State} (h : exec c s = done f s) :
    after c s = { settleAll (f (fresh s)) with pending := s.pending } := by
  rw [after, h]
  rfl

/-- A password and its digest. -/
def password : Bytes := natLe 7 16
def passwordSha : Bytes := natLe 19739923890029325673694072285283710783752930730689000042423256902191058718838 32

theorem sha256_password : sha256 password = passwordSha := by decide +kernel

/-- The fields of a protection record that holds the digest, up to the record's CRC. -/
def protectionFields : Bytes :=
  natLe recProtection.kind 2 ++ natLe 40 2 ++ natLe 1 4 ++ natLe 0 8 ++ passwordSha ++
    natLe 0 42 ++ natLe 0 42 ++ natLe 0 42 ++ natLe 0 42 ++ natLe 0 36

theorem crcRefl_append (p : Nat) (a b : Bytes) (v : Nat) : crcRefl p v (a ++ b) = crcRefl p (crcRefl p v a) b := by
  induction a generalizing v with
  | nil => rfl
  | cons x t ih => exact ih _

/-- The record's CRC-32C, over pieces of its fields. -/
theorem crc32c_protectionFields : crc32c protectionFields = 3099575646 := by
  have hhead : crcRefl 0x82F63B78 0xFFFFFFFF (natLe recProtection.kind 2 ++ natLe 40 2 ++ natLe 1 4 ++ natLe 0 8) = 3749112588 := by
    decide +kernel
  have hsha : crcRefl 0x82F63B78 3749112588 passwordSha = 278201761 := by decide +kernel
  have hz1 : crcRefl 0x82F63B78 278201761 (natLe 0 42) = 3154427680 := by decide +kernel
  have hz2 : crcRefl 0x82F63B78 3154427680 (natLe 0 42) = 360261161 := by decide +kernel
  have hz3 : crcRefl 0x82F63B78 360261161 (natLe 0 42) = 2803825053 := by decide +kernel
  have hz4 : crcRefl 0x82F63B78 2803825053 (natLe 0 42) = 1141632588 := by decide +kernel
  have hz5 : crcRefl 0x82F63B78 1141632588 (natLe 0 36) = 1195391649 := by decide +kernel
  rw [crc32c, protectionFields, crcRefl_append, crcRefl_append, crcRefl_append, crcRefl_append, crcRefl_append, crcRefl_append,
    hhead, hsha, hz1, hz2, hz3, hz4, hz5]
  decide

/-- The record. -/
def protectionRecord : Bytes := protectionFields ++ natLe 3099575646 4

/-- NVM_UNLOCK with that password. -/
def unlockDescriptor : Bytes := natLe 0x12 1 ++ natLe 0 1 ++ natLe 7 2 ++ natLe 0 4 ++ password ++ natLe 0 40

/-- It stands in front of ring 0; the record's other place has an uncorrectable group, the store's follow-ups are full, and a witness
setting's FNUM stands at NVM_STAT. -/
def strayUnlock : State :=
  { regs := [(Reg.GEN_STATE, 3#64), (Reg.HOST_LINK, 1#64), (Reg.NVM_STAT, 0x200#64)], rings := [(0, { taken := [unlockDescriptor] })]
    nvm := tblSetRun 0#8 [] recProtection.a protectionRecord, nvmBad := [(recProtection.b / 8, 2)]
    followUps := [(unitKey unitNvm 0, fullUnit)], scan := { witPend := [strayWitness (Reg.NVM_STAT - 16)] } }

theorem settled_strayUnlock : strayUnlock.settled := State.settled_of_none rfl rfl rfl (by decide) (by decide) rfl

/-- In a state that holds that record in its first place, and none in its second, the digest is the password's. -/
theorem passwordDigest_of_record {x : State} (ha : nvmBytes x recProtection.a recProtection.size = protectionRecord)
    (hlost : nvmAnyLost x recProtection.a recProtection.size = false) (hb : recValid x recProtection recProtection.b = false) :
    passwordDigest x = passwordSha := by
  have hcrc : crc32c (protectionRecord.take (recProtection.size - 4)) = 3099575646 := by
    have htake : protectionRecord.take (recProtection.size - 4) = protectionFields := by decide +kernel
    rw [htake, crc32c_protectionFields]
  have hvalid : recValid x recProtection recProtection.a = true := by
    simp only [recValid, ha, hcrc, hlost]
    decide +kernel
  have hhead : nvmBytes x recProtection.a 8 = protectionRecord.take 8 := by
    rw [← ha]
    rfl
  have hdigest : sliceB (sliceB protectionRecord 8 (leAt (protectionRecord.take 8) 2 2)) 8 32 = passwordSha := by decide +kernel
  rw [passwordDigest, recRead, recInForce, hvalid, hb]
  simp only [Option.map_some, Option.getD_some, ha, hhead, hdigest]

theorem password_unlockDescriptor : sha256 (sliceB unlockDescriptor 8 16) = passwordSha := by
  have hpw : sliceB unlockDescriptor 8 16 = password := by decide +kernel
  rw [hpw, sha256_password]

theorem ready_strayUnlock : ready cmdNvmUnlock 0 unlockDescriptor strayUnlock = true := by decide +kernel

theorem digest_strayUnlock : passwordDigest strayUnlock = passwordSha :=
  passwordDigest_of_record (by decide +kernel) (by decide +kernel) (by decide +kernel)

/-- The record has been read: its bad group has led to DARK_FAULT. -/
def strayUnlockRead : State := recTouch recProtection (acceptFront 0 unlockDescriptor (fresh strayUnlock))

theorem digest_strayUnlockRead : passwordDigest strayUnlockRead = passwordSha :=
  passwordDigest_of_record (by decide +kernel) (by decide +kernel) (by decide +kernel)

/-- An NVM_UNLOCK whose password matches opens the session on the state in which the record has been read. -/
theorem after_nvmUnlock {r : Nat} {d : Bytes} {s : State} (h : ready cmdNvmUnlock r d (fresh s) = true) (hmode : dByte d 4 = 0)
    (hlockout : flag (acceptFront r d (fresh s)) Reg.NVM_STAT_LOCKOUT = false)
    (hset : flag (acceptFront r d (fresh s)) Reg.NVM_STAT_PW_SET = true)
    (hpw : sha256 (sliceB d 8 16) = passwordDigest (recTouch recProtection (acceptFront r d (fresh s)))) :
    after (.nvmUnlock r) s =
      { settleAll (nvmComplete (jobOf (.ring r s.flr (ring s r).errors) d) 0 0 0 (setFld (setFld
        (recTouch recProtection (acceptFront r d (fresh s))) Reg.NVM_STAT_SESSION 1) Reg.NVM_UNLOCK_STAT_FAILS 0)) with
        pending := s.pending } := by
  have hrun : runRing cmdNvmUnlock r (fresh s) = nvmUnlockRun (jobOf (.ring r s.flr (ring s r).errors) d) d (acceptFront r d (fresh s)) :=
    HostPort.runRing_ready h
  rw [after_done (f := runRing cmdNvmUnlock r) rfl, hrun, nvmUnlockRun]
  simp [hmode, hlockout, hset, hpw]

theorem session_strayUnlock : flag (after (.nvmUnlock 0) strayUnlock) Reg.NVM_STAT_SESSION = false := by
  rw [after_nvmUnlock (by decide +kernel) (by decide +kernel) (by decide +kernel) (by decide +kernel)
    (password_unlockDescriptor.trans digest_strayUnlockRead.symm)]
  decide +kernel

/-- Refutes O48: the password opens the session, the bad group's error escalates, and the setting that DARK_FAULT puts in force
closes it. -/
theorem not_simpleRingCommandsAnswer : ¬ Obligations.SimpleRingCommandsAnswer := by
  unfold Obligations.SimpleRingCommandsAnswer
  intro h
  obtain ⟨-, -, hunlock, -⟩ := h strayUnlock 0 unlockDescriptor settled_strayUnlock
  obtain ⟨-, hopen, -⟩ := of_completes (hunlock ready_strayUnlock (by decide +kernel) (by decide)
    (.inr (password_unlockDescriptor.trans digest_strayUnlock.symm)))
  exact absurd (session_strayUnlock.symm.trans hopen) (by decide)

end Sys2Proof.Stray
end

section
/-! PROOFS. The link, and the function-level reset. -/

namespace Sys2Proof.Stray

set_option Elab.async false

open Machine HostPort

/-! ### Changes of one kind of state -/

section Parts

variable {ps : List Part} {w : Nat → Prop}

theorem changes_of_frame {s t : State} (h : Frame ps s t) (hr : t.regs = s.regs) (ho : t.out = s.out) : Changes ps w s t :=
  ⟨h, fun o _ => reg_congr hr o, ho ▸ List.prefix_refl _⟩

theorem changes_linkLost (s : State) (b : Bool) (hp : Part.link ∈ ps) : Changes ps w s { s with linkLost := b } :=
  changes_of_frame (fun p hq => by cases p <;> first | exact absurd hp hq | exact fun _ _ _ => rfl | rfl | simp [Part.same]) rfl rfl

theorem changes_blt (s : State) (b : BltState) (hp : Part.blt ∈ ps) : Changes ps w s { s with blt := b } :=
  changes_of_frame (fun p hq => by cases p <;> first | exact absurd hp hq | exact fun _ _ _ => rfl | rfl | simp [Part.same]) rfl rfl

theorem changes_hle (s : State) (x : HleState) (hp : Part.hle ∈ ps) : Changes ps w s { s with hle := x } :=
  changes_of_frame (fun p hq => by cases p <;> first | exact absurd hp hq | exact fun _ _ _ => rfl | rfl | simp [Part.same]) rfl rfl

theorem Changes.forAll {ns : List Nat} {g : Nat → State → State} (hg : ∀ n ∈ ns, ∀ t, Changes ps w t (g n t)) (s : State) :
    Changes ps w s (Machine.forAll ns g s) :=
  forAll_keeps (Changes ps w s) ns g (fun n hn t ht => ht.trans (hg n hn t)) s (Changes.refl s)

end Parts

theorem Ember.of_changes {src : Nat} {s t : State} (h : Ember src s) (k : Changes [] (fun _ => False) s t) : Ember src t := by
  rw [Ember, flag, k.fld_eq id]
  exact h

/-! ### The link (R389 to R394) -/

/-- HOST_LINK, the password session and the records of CXL_LINK. -/
def linkReg (o : Nat) : Prop := o = Reg.HOST_LINK ∨ o = Reg.NVM_STAT ∨ eventReg o

/-- The kinds of state that the link's going up or down may change. -/
def linkParts : List Part := [.link, .regs 0x13] ++ eventParts

theorem changes_hostLink (s : State) (f : Fld) (v : Nat) (h : f.off = Reg.HOST_LINK) : Changes linkParts linkReg s (setFld s f v) :=
  changes_setFld s f v (by rw [h]; decide) (.inl h) (by rw [h]; decide)

theorem changes_endSession (s : State) : Changes linkParts linkReg s (endSession s) :=
  changes_setFld s _ _ (by decide) (.inr (.inl rfl)) (by decide)

theorem changes_cxlLink (cs : List Cap) (s : State) : Changes linkParts eventReg s (raise evCxlLink cs s) :=
  (changes_raise _ cs s (by decide)).mono (by decide) fun _ h => h

theorem not_eventReg_link : ¬ eventReg Reg.HOST_LINK := not_eventReg (.inl (by decide)) (.inl (by decide))

/-- HOST_LINK's mode, speed and width written in turn. -/
def linkSet (mode speed width : Nat) (s : State) : State :=
  setFld (setFld (setFld s Reg.HOST_LINK_MODE mode) Reg.HOST_LINK_SPEED speed) Reg.HOST_LINK_WIDTH width

theorem fld_linkSet {mode speed width : Nat} (hm : mode < 4) (hs : speed < 8) (hw : width < 16) (s : State) :
    fld (linkSet mode speed width s) Reg.HOST_LINK_MODE = mode ∧ fld (linkSet mode speed width s) Reg.HOST_LINK_SPEED = speed ∧
    fld (linkSet mode speed width s) Reg.HOST_LINK_WIDTH = width := by
  unfold linkSet
  refine ⟨?_, ?_, ?_⟩
  · rw [fld_setFld_apart _ _ (by decide), fld_setFld_apart _ _ (by decide), fld_setFld_self _ _ (by decide)]
    exact Nat.mod_eq_of_lt hm
  · rw [fld_setFld_apart _ _ (by decide), fld_setFld_self _ _ (by decide)]
    exact Nat.mod_eq_of_lt hs
  · rw [fld_setFld_self _ _ (by decide)]
    exact Nat.mod_eq_of_lt hw

theorem changes_linkSet (mode speed width : Nat) (s : State) : Changes linkParts linkReg s (linkSet mode speed width s) :=
  ((changes_hostLink s _ _ rfl).trans (changes_hostLink _ _ _ rfl)).trans (changes_hostLink _ _ _ rfl)

/-- The link comes up, and CXL_LINK is raised where it had gone down without a reset. -/
def linkRaised (mode speed width : Nat) (s : State) : State :=
  if s.linkLost then raise evCxlLink [(8, 1), (8, mode), (8, speed), (8, width)] { s with linkLost := false } else s

theorem changes_linkRaised (mode speed width : Nat) (s : State) : Changes linkParts eventReg s (linkRaised mode speed width s) := by
  unfold linkRaised
  split
  · exact (changes_linkLost s false (by decide)).trans (changes_cxlLink _ _)
  · exact .refl s

theorem linkUp_of {partner speed width : Nat} {s : State} (ho : lamp s ≠ .off) (h5 : 5 ≤ fld s Reg.STR_STAT_STEP)
    (hd : fld s Reg.HOST_LINK_MODE = 0) (hm : linkMode partner ≠ 0) (hr : linkRuns (linkMode partner) speed width = true) :
    linkUp partner speed width s = linkRaised (linkMode partner) speed width (linkSet (linkMode partner) speed width s) := by
  rw [linkUp, if_neg (by simp [ho, hd, hm, hr, h5])]
  rfl

/-- A link that has gone down is counted, and ends the session. -/
def linkDropped (s : State) : State := endSession { incSat s Reg.HOST_LINK_DOWNS 1 with linkLost := true }

theorem linkDown_of {s : State} (h : fld s Reg.HOST_LINK_MODE ≠ 0) :
    ∃ cs, linkDown s = raise evCxlLink cs (linkDropped (linkSet 0 0 0 s)) := by
  rw [linkDown, if_neg h]
  exact ⟨_, rfl⟩

theorem changes_linkDropped (s : State) : Changes linkParts linkReg s (linkDropped s) :=
  ((changes_hostLink s _ _ rfl).trans (changes_linkLost _ true (by decide))).trans (changes_endSession _)

theorem fld_linkDropped (s : State) {f : Fld} (hf : f.off = Reg.HOST_LINK) (hle : f.lo ≤ f.hi) (hlt : f.hi < 16) :
    fld (linkDropped s) f = fld s f :=
  (fld_setReg_ne _ _ _ (by rw [hf]; decide)).trans (fld_setFld_ne s _ f _ ⟨by decide, by decide⟩ hle (.inr (.inl hlt)))

theorem linkMode_lt (partner : Nat) : linkMode partner < 4 := by
  unfold linkMode
  split
  · decide
  · split
    · decide
    · split <;> decide

theorem linkRuns_lt {mode speed width : Nat} (h : linkRuns mode speed width = true) : speed < 8 ∧ width < 16 := by
  simp only [linkRuns, Bool.and_eq_true, decide_eq_true_eq, List.contains_eq_mem, List.mem_cons, List.not_mem_nil, or_false] at h
  omega

/-- The link goes down: its fields and the session read 0. -/
theorem linkDown_effect {s : State} (h : fld s Reg.HOST_LINK_MODE ≠ 0) :
    Changes linkParts linkReg s (linkDown s) ∧ Ember evCxlLink (linkDown s) ∧ fld (linkDown s) Reg.HOST_LINK_MODE = 0 ∧
    fld (linkDown s) Reg.HOST_LINK_SPEED = 0 ∧ fld (linkDown s) Reg.HOST_LINK_WIDTH = 0 ∧ fld (linkDown s) Reg.NVM_STAT_SESSION = 0 := by
  obtain ⟨cs, hd⟩ := linkDown_of h
  obtain ⟨hm, hs, hw⟩ := fld_linkSet (by decide : 0 < 4) (by decide : 0 < 8) (by decide : 0 < 16) s
  have hset := changes_linkSet 0 0 0 s
  generalize linkSet 0 0 0 s = u at hd hm hs hw hset
  have hraise := changes_cxlLink cs (linkDropped u)
  have hlink : ∀ f : Fld, f.off = Reg.HOST_LINK → f.lo ≤ f.hi → f.hi < 16 → fld (raise evCxlLink cs (linkDropped u)) f = fld u f :=
    fun f hf hle hlt => (hraise.fld_eq (hf ▸ not_eventReg_link)).trans (fld_linkDropped u hf hle hlt)
  rw [hd]
  refine ⟨?_, ember_raise _ _ _ (by decide), (hlink _ rfl (by decide) (by decide)).trans hm,
    (hlink _ rfl (by decide) (by decide)).trans hs, (hlink _ rfl (by decide) (by decide)).trans hw, ?_⟩
  · exact (hset.trans (changes_linkDropped u)).trans (hraise.mono (fun _ h => h) fun _ h => .inr (.inr h))
  · rw [hraise.fld_eq (not_eventReg (.inr (by decide)) (.inl (by decide)))]
    exact fld_setFld_self _ 0 (by decide)

/-- Settles O24: HOST_LINK is written, and the event leaves it alone. -/
theorem theLinkGoesUpAndDown : Obligations.TheLinkGoesUpAndDown := by
  unfold Obligations.TheLinkGoesUpAndDown
  refine fun s hs => ⟨fun partner speed width _ hoff h5 hdown hmode hruns => ?_, fun hup => ?_⟩
  · obtain ⟨hsp, hwd⟩ := linkRuns_lt hruns
    have he := linkUp_of (s := fresh s) hoff h5 hdown hmode hruns
    have hset := changes_linkSet (linkMode partner.toNat) speed width (fresh s)
    have hraised := changes_linkRaised (linkMode partner.toNat) speed width (linkSet (linkMode partner.toNat) speed width (fresh s))
    obtain ⟨hm, hsv, hwv⟩ := fld_linkSet (linkMode_lt partner.toNat) hsp hwd (fresh s)
    refine completes_done rfl (he ▸ settled_of_frame (hset.frame.trans hraised.frame) (by decide) (settled_fresh hs)) fun t ht => ?_
    rw [he] at ht
    have hall : ∀ f : Fld, f.off = Reg.HOST_LINK → fld t f = fld (linkSet (linkMode partner.toNat) speed width (fresh s)) f :=
      fun f hf => (ht.fld_eq id).trans (hraised.fld_eq (hf ▸ not_eventReg_link))
    refine ⟨(hall _ rfl).trans hm, (hall _ rfl).trans hsv, (hall _ rfl).trans hwv, fun hlost => Ember.of_changes ?_ ht⟩
    rw [linkRaised, if_pos (by exact hlost)]
    exact ember_raise _ _ _ (by decide)
  · obtain ⟨hch, hev, hm, hsp, hwd, hse⟩ := linkDown_effect (s := fresh s) hup
    refine completes_done rfl (settled_of_frame hch.frame (by decide) (settled_fresh hs)) fun t ht => ?_
    exact ⟨(ht.fld_eq id).trans hm, (ht.fld_eq id).trans hsp, (ht.fld_eq id).trans hwd, (ht.fld_eq id).trans hse, Ember.of_changes hev ht⟩

/-! ### The function-level reset (R419 to R421) -/

/-- The registers that a function-level reset leaves alone, among them HOST_APER and the event routes. -/
def flKept (o : Nat) : Prop := o = Reg.HOST_APER ∨ 0x50 < o ∧ o < 0x10000

/-- The kinds of state that a function-level reset may change, besides the generation. -/
def flParts : List Part :=
  [.rings, .messages, .hle, .blt, .regs 0x01, .regs 0x02, .regs 0x08, .regs 0x0B, .regs 0x13]

theorem changes_flReg (s : State) {o : Nat} (v : DWord) (hp : Part.regs (blockOf o) ∈ flParts) (hw : ¬ flKept o) (hg : o ≠ Reg.GEN_STATE) :
    Changes flParts (fun o => ¬ flKept o) s (setReg s o v) := changes_setReg s o v hp hw hg

/-- The registers of ring `r`. -/
def ofRing (r o : Nat) : Prop := 0x10100 + 0x40 * r ≤ o ∧ o < 0x10140 + 0x40 * r

theorem ofRing_regs (r : Nat) : ofRing r (Reg.CMD_RING_PTR r) ∧ ofRing r (Reg.CMD_RING_CTRL r) ∧ ofRing r (Reg.CMD_CQ_PTR r) ∧
    ofRing r (Reg.CMD_RING_STAT r) := by
  simp only [ofRing, Reg.CMD_RING_PTR, Reg.CMD_RING_CTRL, Reg.CMD_CQ_PTR, Reg.CMD_RING_STAT]
  omega

theorem ringRegs_distinct (r : Nat) : Reg.CMD_RING_PTR r ≠ Reg.CMD_RING_STAT r ∧ Reg.CMD_RING_PTR r ≠ Reg.CMD_CQ_PTR r ∧
    Reg.CMD_RING_STAT r ≠ Reg.CMD_CQ_PTR r ∧ Reg.CMD_RING_STAT r ≠ Reg.CMD_RING_CTRL r ∧ Reg.CMD_RING_PTR r ≠ Reg.CMD_RING_CTRL r := by
  simp only [Reg.CMD_RING_PTR, Reg.CMD_RING_CTRL, Reg.CMD_CQ_PTR, Reg.CMD_RING_STAT]
  omega

theorem changes_ringReg {r : Nat} (hr : r < 8) (s : State) {o : Nat} (v : DWord) (h : ofRing r o) :
    Changes flParts (fun o => ¬ flKept o) s (setReg s o v) := by
  obtain ⟨h1, h2⟩ := h
  refine changes_flReg s v ?_ ?_ ?_
  · rw [blockOf_cmd (by omega) (by omega)]
    decide
  · simp only [flKept, Reg.HOST_APER]
    omega
  · show o ≠ 0x18
    omega

/-- What the reset does to ring `r`. -/
def flRing (r : Nat) (s : State) : State :=
  setFlds [(Reg.CMD_RING_STAT_STATE r, 0), (Reg.CMD_RING_STAT_INFLIGHT r, 0)] (ringClear r (ringDisable r s))

theorem changes_ringDisable {r : Nat} (hr : r < 8) (s : State) : Changes flParts (fun o => ¬ flKept o) s (ringDisable r s) := by
  obtain ⟨-, hctrl, -, hstat⟩ := ofRing_regs r
  unfold ringDisable
  extract_lets s1
  have h1 : Changes flParts (fun o => ¬ flKept o) s s1 := changes_ringReg hr s _ hctrl
  split
  · exact h1.trans (changes_ringReg hr s1 _ hstat)
  · exact h1

theorem changes_ringClear {r : Nat} (hr : r < 8) (s : State) : Changes flParts (fun o => ¬ flKept o) s (ringClear r s) := by
  obtain ⟨hptr, -, hcq, hstat⟩ := ofRing_regs r
  exact (((changes_ringReg hr s _ hptr).trans (changes_ringReg hr _ _ hcq)).trans (changes_ringReg hr _ _ hstat)).trans
    (changes_setRing _ r _ (by decide))

theorem changes_flRing {r : Nat} (hr : r < 8) (s : State) : Changes flParts (fun o => ¬ flKept o) s (flRing r s) := by
  obtain ⟨-, -, -, hstat⟩ := ofRing_regs r
  exact (((changes_ringDisable hr s).trans (changes_ringClear hr _)).trans (changes_ringReg hr _ _ hstat)).trans
    (changes_ringReg hr _ _ hstat)

/-- A ring stands stopped, its head and tail at 0. -/
def RingCleared (r : Nat) (s : State) : Prop :=
  fld s (Reg.CMD_RING_STAT_STATE r) = 0 ∧ fld s (Reg.CMD_RING_PTR_HEAD r) = 0 ∧ fld s (Reg.CMD_RING_PTR_TAIL r) = 0

theorem RingCleared.of_regs {r : Nat} {s t : State} (h : RingCleared r s) (hs : reg t (Reg.CMD_RING_STAT r) = reg s (Reg.CMD_RING_STAT r))
    (hp : reg t (Reg.CMD_RING_PTR r) = reg s (Reg.CMD_RING_PTR r)) : RingCleared r t :=
  ⟨(fld_congr_reg hs).trans h.1, (fld_congr_reg hp).trans h.2.1, (fld_congr_reg hp).trans h.2.2⟩

theorem resetOf_ringPtr : ∀ r, r < 8 → resetOf (Reg.CMD_RING_PTR r) = 0 := by decide +kernel

theorem reg_setRing (s : State) (r : Nat) (x : Ring) (o : Nat) : reg (setRing s r x) o = reg s o := rfl

theorem reg_ringClear (r : Nat) (s : State) (o : Nat) : reg (ringClear r s) o =
    reg (setFld (resetReg (resetReg s (Reg.CMD_RING_PTR r)) (Reg.CMD_CQ_PTR r)) (Reg.CMD_RING_STAT_LOST r) 0) o := by
  rw [ringClear, reg_setRing]

theorem reg_ringClear_ptr {r : Nat} (hr : r < 8) (s : State) : reg (ringClear r s) (Reg.CMD_RING_PTR r) = 0 := by
  obtain ⟨hstat, hcq, -⟩ := ringRegs_distinct r
  rw [reg_ringClear, reg_setFld_ne _ _ hstat, resetReg, reg_setReg_ne _ _ hcq, resetReg, reg_setReg_same, resetOf_ringPtr r hr]

theorem fld_of_reg_zero {s : State} {f : Fld} (h : reg s f.off = 0) : fld s f = 0 := by
  rw [fld, h]
  simp [bitsOf]

theorem ringCleared_flRing {r : Nat} (hr : r < 8) (s : State) : RingCleared r (flRing r s) := by
  have hp : reg (flRing r s) (Reg.CMD_RING_PTR r) = 0 := by
    have hne := (ringRegs_distinct r).1
    exact ((reg_setReg_ne _ _ hne).trans (reg_setReg_ne _ _ hne)).trans (reg_ringClear_ptr hr _)
  refine ⟨?_, fld_of_reg_zero hp, fld_of_reg_zero hp⟩
  exact (fld_setFld_apart _ 0 (by decide)).trans (fld_setFld_self _ 0 (by decide))

/-- What the reset of one ring does leaves the registers of another alone. -/
theorem reg_flRing_apart {n o : Nat} (s : State) (h : ¬ ofRing n o) : reg (flRing n s) o = reg s o := by
  obtain ⟨hptr, hctrl, hcq, hstat⟩ := ofRing_regs n
  have hne : ∀ {k}, ofRing n k → o ≠ k := fun hk e => h (e ▸ hk)
  have hd : reg (ringDisable n s) o = reg s o := by
    unfold ringDisable
    extract_lets s1
    have h1 : reg s1 o = reg s o := reg_setReg_ne s _ (hne hctrl)
    split
    · exact (reg_setReg_ne s1 _ (hne hstat)).trans h1
    · exact h1
  have hc : reg (ringClear n (ringDisable n s)) o = reg (ringDisable n s) o := by
    rw [reg_ringClear, reg_setFld_ne _ _ (hne hstat), resetReg, reg_setReg_ne _ _ (hne hcq), resetReg, reg_setReg_ne _ _ (hne hptr)]
  exact (((reg_setReg_ne _ _ (hne hstat)).trans (reg_setReg_ne _ _ (hne hstat))).trans hc).trans hd

theorem not_ofRing {n r o : Nat} (h : n ≠ r) (ho : ofRing r o) : ¬ ofRing n o := by
  simp only [ofRing] at *
  omega

theorem ringCleared_flRings {r : Nat} (hr : r < 8) (s : State) : RingCleared r (forAll (List.range 8) flRing s) := by
  obtain ⟨hptr, -, -, hstat⟩ := ofRing_regs r
  refine Clears.forAll_reaches (RingCleared r) (List.mem_range.2 hr) (ringCleared_flRing hr) (fun n _ t ht => ?_) s
  rcases eq_or_ne n r with rfl | hn
  · exact ringCleared_flRing hr t
  · exact ht.of_regs (reg_flRing_apart t (not_ofRing hn hstat)) (reg_flRing_apart t (not_ofRing hn hptr))

theorem changes_hleReg (s : State) {o : Nat} (v : DWord) (h : 0x140000 ≤ o ∧ o < 0x140040) :
    Changes flParts (fun o => ¬ flKept o) s (setReg s o v) := by
  obtain ⟨h1, h2⟩ := h
  refine changes_flReg s v ?_ ?_ (by show o ≠ 0x18; omega)
  · have hb : blockOf o = 0x08 := by
      unfold blockOf
      iterate 7 rw [if_neg (by omega)]
      rw [if_pos (by omega)]
    rw [hb]
    decide
  · simp only [flKept, Reg.HOST_APER]
    omega

theorem changes_hleAbort (s : State) : Changes flParts (fun o => ¬ flKept o) s (hleAbort s) := by
  refine (Changes.forAll (fun p hp t => ?_) s).trans (changes_hle _ _ (by decide))
  have hp : p ≤ 3 := by
    rcases (by simpa using hp : p = 1 ∨ p = 2 ∨ p = 3) with rfl | rfl | rfl <;> decide
  have hj : 0x140000 ≤ Reg.HLE_PIPE_JOB p ∧ Reg.HLE_PIPE_JOB p < 0x140040 := by
    simp only [Reg.HLE_PIPE_JOB]
    omega
  split
  · exact (changes_hleReg t _ (by decide : 0x140000 ≤ Reg.HLE_STAT ∧ Reg.HLE_STAT < 0x140040)).trans (changes_hleReg _ 0 hj)
  · exact .refl t

theorem not_flKept {o : Nat} (h : o = 0x48 ∨ o = 0x50 ∨ 0x10000 ≤ o) : ¬ flKept o := by
  simp only [flKept, Reg.HOST_APER]
  omega

theorem changes_bltAbort (s : State) : Changes flParts (fun o => ¬ flKept o) s (bltAbort s) :=
  (changes_blt s _ (by decide)).trans (changes_flReg _ _ (by decide) (not_flKept (by decide)) (by decide))

/-- The host port's own state after a reset: no rings, no vectors, and the next generation. -/
theorem hostClear_effect (s : State) : Changes (.resets :: flParts) (fun o => ¬ flKept o) s (hostClear s) ∧
    (hostClear s).rings = [] ∧ (hostClear s).msix = [] ∧ (hostClear s).flr = s.flr + 1 ∧ reg (hostClear s) Reg.HOST_VEC_SENT = 0 ∧
    reg (hostClear s) Reg.HOST_VEC_LATE = 0 ∧ fld (hostClear s) Reg.NVM_STAT_SESSION = 0 ∧
    ∀ r, r < 8 → RingCleared r s → RingCleared r (hostClear s) := by
  have hstate : Changes (.resets :: flParts) (fun o => ¬ flKept o) s { s with rings := [], msix := [], pba := [], flr := s.flr + 1 } :=
    changes_of_frame (fun p hq => by
      cases p <;> first | exact fun _ _ _ => rfl | rfl | exact absurd (by decide) hq | simp [Part.same]) rfl rfl
  have hreg : ∀ u : State, ∀ o, Part.regs (blockOf o) ∈ flParts → (o = 0x48 ∨ o = 0x50 ∨ 0x10000 ≤ o) → o ≠ Reg.GEN_STATE → ∀ v,
      Changes (.resets :: flParts) (fun o => ¬ flKept o) u (setReg u o v) := fun u o hp hw hg v =>
    (changes_flReg u v hp (not_flKept hw) hg).mono (List.subset_cons_self _ _) fun _ h => h
  refine ⟨((hstate.trans (hreg _ _ (by decide) (by decide) (by decide) _)).trans
    (hreg _ _ (by decide) (by decide) (by decide) _)).trans (hreg _ _ (by decide) (by decide) (by decide) _), rfl, rfl, rfl, ?_, ?_, fld_setFld_self _ 0 (by decide),
    fun r hr hc => ?_⟩
  · exact ((reg_setReg_ne _ _ (by decide)).trans (reg_setReg_ne _ _ (by decide))).trans (reg_setReg_same _ _ _)
  · exact (reg_setReg_ne _ _ (by decide)).trans (reg_setReg_same _ _ _)
  · have hreg : ∀ o, ofRing r o → reg (hostClear s) o = reg s o := fun o ho => by
      have hlo : 0x10100 ≤ o := Nat.le_trans (by omega) ho.1
      have hhi : o < 0x10300 := Nat.lt_of_lt_of_le ho.2 (by omega)
      have hn : o ≠ Reg.NVM_STAT := fun e => absurd (e ▸ hhi) (by decide)
      have hv : o ≠ Reg.HOST_VEC_LATE ∧ o ≠ Reg.HOST_VEC_SENT := ⟨fun e => absurd (e ▸ hlo) (by decide), fun e => absurd (e ▸ hlo) (by decide)⟩
      exact ((reg_setReg_ne _ _ hn).trans (reg_setReg_ne _ _ hv.1)).trans (reg_setReg_ne _ _ hv.2)
    obtain ⟨hptr, -, -, hstat⟩ := ofRing_regs r
    exact hc.of_regs (hreg _ hstat) (hreg _ hptr)

/-- What the engines' stops leave of the rings. -/
theorem ringCleared_aborts {r : Nat} (hr : r < 8) {s : State} (h : RingCleared r s) : RingCleared r (bltAbort (hleAbort s)) := by
  obtain ⟨hptr, -, -, hstat⟩ := ofRing_regs r
  have hreg : ∀ o, ofRing r o → reg (bltAbort (hleAbort s)) o = reg s o := fun o ho => by
    have hhi : o < 0x10300 := Nat.lt_of_lt_of_le ho.2 (by omega)
    have hb : o ≠ Reg.BLT_STAT := fun e => absurd (e ▸ hhi) (by decide)
    refine (reg_setReg_ne _ _ hb).trans (forAll_same (fun t => reg t o) [1, 2, 3] _ (fun p _ t => ?_) s)
    have hj : o ≠ Reg.HLE_STAT ∧ o ≠ Reg.HLE_PIPE_JOB p := by
      refine ⟨fun e => absurd (e ▸ hhi) (by decide), ?_⟩
      simp only [Reg.HLE_PIPE_JOB]
      omega
    split
    · exact (reg_setReg_ne _ _ hj.2).trans (reg_setReg_ne _ _ hj.1)
    · rfl
  exact h.of_regs (hreg _ hstat) (hreg _ hptr)

theorem flReset_of {s : State} (h : lamp s ≠ .off) :
    flReset s = hostClear (bltAbort (hleAbort (forAll (List.range 8) flRing s))) := by
  rw [flReset, if_neg h]
  rfl

/-- Settles O21: the rings are cleared one by one, and what follows leaves their registers alone. -/
theorem functionLevelResetStopsTheRings : Obligations.FunctionLevelResetStopsTheRings := by
  unfold Obligations.FunctionLevelResetStopsTheRings
  intro s hs hoff
  have he := flReset_of (s := fresh s) hoff
  generalize hu : bltAbort (hleAbort (forAll (List.range 8) flRing (fresh s))) = u at he
  have hch : Changes flParts (fun o => ¬ flKept o) (fresh s) u := by
    subst hu
    exact ((Changes.forAll (fun r hr t => changes_flRing (List.mem_range.1 hr) t) _).trans (changes_hleAbort _)).trans (changes_bltAbort _)
  have hcl : ∀ r, r < 8 → RingCleared r u := fun r hr => hu ▸ ringCleared_aborts hr (ringCleared_flRings hr _)
  have hfl : u.flr = s.flr := hch.frame .resets (by decide)
  obtain ⟨hhost, hrings, hmsix, hflr, hsent, hlate, hses, hkeep⟩ := hostClear_effect u
  have hall := (hch.mono (List.subset_cons_self _ _) fun _ h => h).trans hhost
  refine completes_done rfl (he ▸ settled_of_frame hall.frame (by decide) (settled_fresh hs)) fun t ht => ?_
  rw [he] at ht
  have hto := hall.trans (ht.mono (by simp) fun _ h => h.elim)
  obtain ⟨hr1, -⟩ := ht.frame .rings (by simp)
  refine ⟨fun r hr => ?_, (ht.regs _ id).trans hsent, (ht.regs _ id).trans hlate, (ht.frame .messages (by simp)).1.trans hmsix,
    (ht.fld_eq id).trans hses, (hto.frame .link (by decide)).1, hto.regs _ (by simp [flKept]), (hto.frame .keys (by decide)).1,
    (hto.frame .memory (by decide)).1, ((ht.frame .resets (by simp) : t.flr = _).trans hflr).trans (by rw [hfl]), fun e hlt => hto.regs _ ?_⟩
  · obtain ⟨hst, hhd, htl⟩ := hkeep r hr (hcl r hr)
    refine ⟨(ht.fld_eq id).trans hst, (ht.fld_eq id).trans hhd, (ht.fld_eq id).trans htl, ?_⟩
    rw [ring, hr1, hrings]
    rfl
  · simp only [flKept, Reg.HOST_ROUTE]
    omega

end Sys2Proof.Stray
end

section
/-! PROOFS. Writes of the host port: decoders, refused accesses, a ring's base, the read of a base's seconds. -/

namespace Sys2Proof.Stray

set_option Elab.async false

open Machine HostPort

/-! ### Errors where no unit has four follow-ups waiting -/

/-- The records of an event, and the place of its error among its unit's follow-ups. -/
def errReg (o : Nat) : Prop := o = Reg.MGMT_ESC ∨ eventReg o

theorem out_followQueue (blk idx src cause : Nat) (s : State) : (followQueue blk idx src cause s).1.out = s.out := by
  unfold followQueue
  extract_lets u f s1
  have h1 : s1.out = s.out := rfl
  split
  · rfl
  · split
    · rfl
    · split
      · rw [setFld_out, setFld_out, setFld_out]
      · exact (setPeak_out s1 _ _).trans h1

theorem changes_raiseErr {s : State} (hc : s.calm) (blk idx src cause : Nat) (cs : List Cap) (h : src < 256) :
    Changes errParts errReg s (raiseErr blk idx src cause cs s) := by
  have hr := changes_raise src cs s h
  have hf : (raise src cs s).followUps = s.followUps := hr.frame .followUps (by decide)
  have he : raiseErr blk idx src cause cs s = (followQueue blk idx src cause (raise src cs s)).1 :=
    followUp_calm _ _ _ _ _ _ (by rw [fuUnit, hf]; exact hc _)
  refine ⟨frame_raiseErr_calm hc blk idx src cause cs h, fun o ho => ?_, ?_⟩
  · rw [he, reg_followQueue _ _ _ _ _ fun e => ho (.inl e), hr.regs o fun e => ho (.inr e)]
  · rw [he, out_followQueue]
    exact hr.out

theorem calm_of_followUps {s t : State} (h : t.followUps = s.followUps) (hc : s.calm) : t.calm := by
  intro u
  rw [h]
  exact hc u

/-- A command whose effect is known and leaves nothing to settle completes with it. -/
theorem completes_to {c : Instr} {f : State → State} {s u : State} {P : State → Prop} (hx : exec c s = done f s) (hf : f (fresh s) = u)
    (hs : u.settled) (hP : ∀ t, Changes [] (fun _ => False) u t → P t) : Completes c s P := by
  subst hf
  exact completes_done hx hs hP

theorem completes_write {c : Instr} {f : State → State} {s u : State} {P : State → Prop} (hx : exec c s = doneWrite f s)
    (hf : f (freshWrite s) = u) (hs : u.settled) (hP : ∀ t, Changes [] (fun _ => False) u t → P t) : Completes c s P := by
  subst hf
  exact completes_doneWrite hx hs hP

/-! ### Decoders (R408) -/

theorem changes_hdm (s : State) (x : Tbl HdmDec) : Changes [.link] (fun _ => False) s { s with hdm := x } :=
  changes_of_frame (fun p hq => by
    cases p <;> first | exact absurd List.mem_cons_self hq | exact fun _ _ _ => rfl | rfl | simp [Part.same]) rfl rfl

theorem hdmCommit_alone {base size skip : Nat} {s : State} (hm : fld s Reg.HOST_LINK_MODE = 1) (hp : inParts s 0 skip size = true)
    (hc : skip + size ≤ capacity s) :
    hdmCommit 0 base size skip 1 s = { s with hdm := tblSet {} s.hdm 0 ⟨base, size, skip, true, false, skip, 1⟩ } := by
  have hno : ¬ (1 ≠ 1 ∨ (!(inParts s 0 (0 + skip) size)) = true ∨ capacity s < 0 + skip + size) := by
    rw [Nat.zero_add, hp]
    simp
    omega
  rw [hdmCommit]
  dsimp only
  rw [if_pos hm, if_neg (fun h : 0 = 1 ∧ _ => absurd h.1 (by decide)), if_neg hno, Nat.zero_add]

theorem hdmCommit_ranged {j base size skip ways : Nat} {x : Nat × Nat} {s : State} (hm : fld s Reg.HOST_LINK_MODE = 2)
    (hr : hdmRun s j = some x) :
    hdmCommit j base size skip ways s = { s with hdm := tblSet {} s.hdm j { base := base, committed := true } } := by
  rw [hdmCommit]
  dsimp only
  rw [if_neg (by rw [hm]; decide), if_pos hm, hr]

section Partitions

variable {s t : State}

/-- The partitions' flags, sizes and bases are what the registers say. -/
theorem parts_congr (h : ∀ o, reg t o = reg s o) : partFlag t = partFlag s ∧ partSize t = partSize s ∧ partBase t = partBase s := by
  have hf : ∀ f, fld t f = fld s f := fun f => fld_congr_reg (h f.off)
  refine ⟨?_, funext fun i => hf _, funext fun i => hf _⟩
  funext i b
  rw [partFlag, hf, partFlag]

theorem inParts_congr (h : ∀ o, reg t o = reg s o) (b a n : Nat) : inParts t b a n = inParts s b a n := by
  obtain ⟨hflag, hsize, hbase⟩ := parts_congr h
  have hk : ∀ k a n, inPartsF t b k a n = inPartsF s b k a n := by
    intro k
    induction k with
    | zero => exact fun _ _ => rfl
    | succ k ih =>
      intro a n
      unfold inPartsF
      rw [hflag, hsize, hbase]
      split
      · rfl
      · split
        · rfl
        · exact ih _ _
  exact hk 17 a n

theorem hdmRun_congr (h : ∀ o, reg t o = reg s o) (j : Nat) : hdmRun t j = hdmRun s j := by
  obtain ⟨hflag, hsize, hbase⟩ := parts_congr h
  have hn : ∀ a, hdmNext t a = hdmNext s a := fun a => by
    unfold hdmNext
    rw [hflag, hsize, hbase]
  have he : ∀ k e, hdmRunEnd t k e = hdmRunEnd s k e := by
    intro k
    induction k with
    | zero => exact fun _ => rfl
    | succ k ih =>
      intro e
      unfold hdmRunEnd
      rw [hflag, hsize, hbase]
      split
      · exact ih _
      · rfl
  simp only [hdmRun, hn, he]

end Partitions

theorem reg_freshWrite (s : State) (o : Nat) : reg (freshWrite s) o = reg s o := rfl

/-! ### Refused accesses (R10) -/

/-- A refused access is counted, and a refused read answered with zeros. -/
def accessRefused (size : Nat) (w : Bool) (s : State) : State :=
  if w then incSat s Reg.HOST_ERR_CNT_ACCESS 1
  else emit (incSat s Reg.HOST_ERR_CNT_ACCESS 1) (.hostData (List.replicate size 0#8) false)

theorem changes_accessRefused (size : Nat) (w : Bool) (s : State) :
    Changes [.regs 0x01] (· = Reg.HOST_ERR_CNT) s (accessRefused size w s) := by
  have hinc : Changes [.regs 0x01] (· = Reg.HOST_ERR_CNT) s (incSat s Reg.HOST_ERR_CNT_ACCESS 1) :=
    changes_setFld s _ _ (by decide) rfl (by decide)
  cases w
  · exact hinc.trans (changes_emit _ _)
  · exact hinc

theorem counted_accessRefused (size : Nat) (w : Bool) (s : State) : Counted Reg.HOST_ERR_CNT_ACCESS s (accessRefused size w s) := by
  have h := fld_incSat s Reg.HOST_ERR_CNT_ACCESS 1 ⟨by decide, by decide⟩
  cases w
  · exact h
  · exact h

/-! ### A write of a ring's base -/

theorem findReg_ringBase {r : Nat} (hr : r < 8) :
    findReg (Reg.CMD_RING_BASE r) = some ⟨0x10100, 8, 0x40, 1, 0x400000, true, [⟨63, 0, .rw, 0⟩]⟩ := by
  interval_cases r <;> rfl

theorem barWrite_ringBase {r : Nat} (hr : r < 8) {v : Nat} {s : State} (h : ringRuns s r = false) :
    barWrite (Reg.CMD_RING_BASE r) true v s =
      setReg { s with held := none } (Reg.CMD_RING_BASE r) (BitVec.ofNat 64 (putBits (reg s (Reg.CMD_RING_BASE r)).toNat 0 64 (bitsOf v 0 64))) := by
  have hoff : 0x10100 ≤ Reg.CMD_RING_BASE r ∧ Reg.CMD_RING_BASE r < 0x10300 := by
    simp only [Reg.CMD_RING_BASE]
    omega
  have hring : (Reg.CMD_RING_BASE r - 0x10100) / 0x40 = r ∧ (Reg.CMD_RING_BASE r - 0x10100) % 0x40 = 0 := by
    simp only [Reg.CMD_RING_BASE]
    omega
  have hruns : ¬ ringRuns { s with held := none } r = true := by
    rw [show ringRuns { s with held := none } r = ringRuns s r from rfl, h]
    decide
  rw [barWrite, if_neg (by decide), findReg_ringBase hr]
  show regWrite _ v { s with held := none } = _
  rw [regWrite, if_pos hoff, hring.1, hring.2]
  show (if ringRuns { s with held := none } r then { s with held := none } else plainWrite _ v { s with held := none }) = _
  rw [if_neg hruns]
  show plainWrite (Reg.CMD_RING_BASE r) v { s with held := none } = _
  rw [plainWrite, findReg_ringBase hr]
  rfl

theorem exec_hdmCommit (d base size skip ways : Nat) (s : State) : exec (.hdmDecoderCommit d base size skip ways) s =
    doneWrite (fun s => if d < 2 then hdmCommit d base size skip ways s else s) s := rfl

theorem completes_hdm {d base size skip ways : Nat} {s : State} {x : HdmDec} {P : State → Prop} (hs : s.settled) (hd : d < 2)
    (he : hdmCommit d base size skip ways (freshWrite s) = { freshWrite s with hdm := tblSet {} s.hdm d x })
    (hP : ∀ t, tblGet {} t.hdm d = x → (∀ o, reg t o = reg s o) → P t) : Completes (.hdmDecoderCommit d base size skip ways) s P := by
  refine completes_write (exec_hdmCommit d base size skip ways s) (u := { freshWrite s with hdm := tblSet {} s.hdm d x }) ?_
    (settled_of_frame (changes_hdm _ _).frame (by decide) (settled_freshWrite hs)) fun t ht => hP t ?_ fun o => ht.regs o id
  · dsimp only
    rw [if_pos hd, he]
  · rw [(ht.frame .link (by simp)).1]
    exact tblGet_set_same _ _ _ _

theorem completes_badAccess {off size : Nat} {w : Bool} {s : State} (hs : s.settled) (hc : s.calm) :
    Completes (.bar0BadAccess off size w) s (fun t => Counted Reg.HOST_ERR_CNT_ACCESS s t ∧ Ember evCxlErr t ∧
      (w = false → Sent (.hostData (List.replicate size 0#8) false) t)) := by
  have hu := changes_accessRefused size w (fresh s)
  have hcalm : (accessRefused size w (fresh s)).calm := calm_of_followUps (hu.frame .followUps (by decide)) hc
  have hraise := changes_raiseErr hcalm unitHost 0 evCxlErr 1 [(8, 1), (64, off)] (by decide)
  have hx : exec (.bar0BadAccess off size w) s =
      done (fun s => raiseErr unitHost 0 evCxlErr 1 [(8, 1), (64, off)] (accessRefused size w s)) s := rfl
  refine completes_done hx (settled_of_frame (hu.frame.comp hraise.frame (by decide : _ ⊆ errParts) (List.Subset.refl _)) (by decide)
    (settled_fresh hs)) fun t ht => ⟨?_, Ember.of_changes (ember_raiseErr_calm hcalm _ _ _ _ _ (by decide)) ht, fun hw => ?_⟩
  · have hne : ¬ errReg Reg.HOST_ERR_CNT := fun h => h.elim (by decide) (not_eventReg (.inl (by decide)) (.inl (by decide)))
    exact ((ht.fld_eq id).trans (hraise.fld_eq hne)).trans (counted_accessRefused size w (fresh s))
  · subst hw
    exact ht.sent (hraise.out.subset (List.mem_append_right _ List.mem_cons_self))

theorem exec_registerWrite (off : Nat) (wide : Bool) (v : DWord) (s : State) : exec (.registerWrite off wide v) s =
    done (fun s => if lamp s = .off then s else if aligned off wide then barWrite off wide v.toNat s else badAccess off s) s := rfl

theorem bitsOf_whole (v : DWord) (x : Nat) :
    bitsOf (BitVec.ofNat 64 (putBits x 0 64 (bitsOf v.toNat 0 64))).toNat 0 64 = bitsOf v.toNat 0 64 := by
  rw [BitVec.toNat_ofNat]
  have h : ∀ y, bitsOf (y % 2 ^ 64) 0 64 = bitsOf y 0 64 := fun y => by simp [bitsOf]
  rw [h, bitsOf_put_same]
  simp [bitsOf]

theorem completes_ringBase {r : Nat} {v : DWord} {s : State} (hs : s.settled) (hr : r < 8) (hoff : lamp s ≠ .off) (hstop : ringRuns s r = false) :
    Completes (.registerWrite (Reg.CMD_RING_BASE r) true v) s
      (fun t => fld t (Reg.CMD_RING_BASE_BASE r) = bitsOf v.toNat 0 64 ∧ t.held = none) := by
  have hal : aligned (Reg.CMD_RING_BASE r) true = true := by
    simp only [aligned, Reg.CMD_RING_BASE, if_true, decide_eq_true_eq]
    omega
  have hblk : blockOf (Reg.CMD_RING_BASE r) = 0x02 := blockOf_cmd (by simp only [Reg.CMD_RING_BASE]; omega) (by simp only [Reg.CMD_RING_BASE]; omega)
  have he := barWrite_ringBase hr (v := v.toNat) (s := fresh s) hstop
  refine completes_to (exec_registerWrite _ true v s) (u := setReg (freshWrite s) (Reg.CMD_RING_BASE r)
    (BitVec.ofNat 64 (putBits (reg s (Reg.CMD_RING_BASE r)).toNat 0 64 (bitsOf v.toNat 0 64)))) ?_
    (settled_of_frame (frame_reg _ _ hblk (by simp only [Reg.CMD_RING_BASE, Reg.GEN_STATE]; omega)) (by decide) (settled_freshWrite hs))
    fun t ht => ⟨?_, ht.frame .held (by simp)⟩
  · exact (if_neg hoff).trans ((if_pos hal).trans he)
  · rw [ht.fld_eq id, fld, reg_setReg_same]
    exact bitsOf_whole v _

theorem completes_tbSecRead {b : Nat} {s : State} (hs : s.settled) (hb : b < 4) :
    Completes (.tbSecRead b) s (fun t => fld t (Reg.TIME_TB_NS_NS b) = totalOf s b % 1000000000) := by
  have hblk : blockOf (Reg.TIME_TB_NS b) = 0x0F := Whole.blockOf_time (by simp only [Reg.TIME_TB_NS]; omega) (by simp only [Reg.TIME_TB_NS]; omega)
  have hx : exec (.tbSecRead b) s = done (fun s => if b < 4 then tbSecRead b s else s) s := rfl
  refine completes_to hx (u := tbSecRead b (fresh s)) (if_pos hb)
    (settled_of_frame (frame_fld _ _ _ hblk (by simp only [Reg.TIME_TB_NS, Reg.GEN_STATE]; omega)) (by decide) (settled_fresh hs))
    fun t ht => ?_
  refine (ht.fld_eq id).trans ((fld_setFld_self _ _ (by decide)).trans (Nat.mod_eq_of_lt ?_))
  exact Nat.lt_trans (Nat.mod_lt _ (by decide)) (by decide)

/-- Settles O26. -/
theorem hostPortWrites : Obligations.HostPortWrites := by
  unfold Obligations.HostPortWrites
  refine fun s hs => ⟨fun base size skip hm hp hc => ?_, fun j base size skip ways x hj hm hr => ?_,
    fun off size w _ hc => completes_badAccess hs hc, fun r v hr hoff hstop => completes_ringBase hs hr hoff hstop,
    fun b hb => completes_tbSecRead hs hb⟩
  · exact completes_hdm hs (by decide) (hdmCommit_alone (s := freshWrite s) hm ((inParts_congr (reg_freshWrite s) _ _ _).trans hp) hc) fun t ht _ => ht
  · refine completes_hdm hs hj (hdmCommit_ranged (s := freshWrite s) hm ((hdmRun_congr (reg_freshWrite s) j).trans hr)) fun t hd hreg => ?_
    have hmode : fld t Reg.HOST_LINK_MODE = 2 := (fld_congr_reg (hreg _)).trans hm
    rw [hostRange, hd, hdmRun_congr hreg, hr]
    simp only [Bool.not_true, Bool.false_eq_true, if_false, hmode, if_true, Option.map_some]

end Sys2Proof.Stray
end

section
/-! PROOFS. Two 32-bit writes of a 64-bit register do what one 64-bit write does (R11). -/

namespace Sys2Proof.Halves

set_option Elab.async false

open Machine HostPort Kept

/-! ### A wide register covers both of its words -/

/-- Every register map of Table 1-1. -/
def maps : List (List RegDef) :=
  [mapHost, mapCmd, mapStr, mapMfb, mapDmc, mapReel, mapLdec, mapHle, mapLant, mapRmap, mapBlt, mapScan, mapWln, mapChn, mapTime,
    mapClk, mapRail, mapLens, mapNvm, mapMgmt]

theorem mem_of_ite {α : Type} {c : Prop} [Decidable c] {a b : α} {l : List α} (ha : a ∈ l) (hb : b ∈ l) : (if c then a else b) ∈ l := by
  split
  · exact ha
  · exact hb

theorem mapOf_mem (off : Nat) : mapOf off ∈ [] :: maps := by
  unfold mapOf
  repeat' refine mem_of_ite ?_ ?_
  all_goals simp [maps]

/-- No register stands at the high word of a wide register of the map. -/
def highFree (m : List RegDef) : Bool :=
  m.all fun d => !d.wide || (List.range d.n1).all fun i => (List.range d.n2).all fun j =>
    decide ((d.base + d.s1 * i + d.s2 * j) % 8 ≠ 0) || (findReg (d.base + d.s1 * i + d.s2 * j + 4)).isNone

theorem maps_highFree : ∀ m ∈ maps, highFree m = true := by decide +kernel

/-- The offset of an instance, by its indices. -/
theorem RegDef.off_of_holds {d : RegDef} {off : Nat} (h : d.holds off = true) :
    ∃ i j, i < d.n1 ∧ j < d.n2 ∧ off = d.base + d.s1 * i + d.s2 * j := by
  simp only [RegDef.holds, Bool.and_eq_true, decide_eq_true_eq] at h
  obtain ⟨⟨⟨hb, hi⟩, hj⟩, hr⟩ := h
  refine ⟨_, _, hi, hj, ?_⟩
  have h1 := Nat.div_add_mod (off - d.base) d.s1
  have h2 := Nat.div_add_mod ((off - d.base) % d.s1) d.s2
  omega

theorem findReg_high {off : Nat} {d : RegDef} (h : findReg off = some d) (hw : d.wide = true) (ha : off % 8 = 0) :
    findReg (off + 4) = none := by
  have hm : d ∈ mapOf off ∧ d.holds off = true := by
    unfold findReg at h
    split at h
    · obtain rfl := Option.some.inj h
      exact absurd hw Bool.false_ne_true
    · exact ⟨List.mem_of_find?_eq_some h, List.find?_some (p := fun d : RegDef => d.holds off) h⟩
  obtain ⟨hmem, hholds⟩ := hm
  obtain ⟨i, j, hi, hj, rfl⟩ := RegDef.off_of_holds hholds
  have hfree : highFree (mapOf (d.base + d.s1 * i + d.s2 * j)) = true := by
    rcases List.mem_cons.1 (mapOf_mem (d.base + d.s1 * i + d.s2 * j)) with h0 | h0
    · rw [h0] at hmem
      exact absurd hmem List.not_mem_nil
    · exact maps_highFree _ h0
  have hd := List.all_eq_true.1 hfree d hmem
  rw [hw, Bool.not_true, Bool.false_or] at hd
  have hij := List.all_eq_true.1 (List.all_eq_true.1 hd i (List.mem_range.2 hi)) j (List.mem_range.2 hj)
  simpa [ha] using hij

/-! ### No half stays held -/

theorem held_followJoin (blk idx src cause : Nat) (s : State) : (followJoin blk idx src cause s).held = s.held := by
  unfold followJoin followQueue
  extract_lets u f s1
  split
  · rfl
  · split
    · rfl
    · split
      · rw [setFld_held, setFld_held, setFld_held]
      · rw [setPeak_held]

theorem closed_unheld : Closed True fun s => s.held = none where
  still _ _ _ _ hh h := hh.elim (fun e => e.trans h) id
  awake _ _ := trivial
  lampTo _ h := h
  orderlyTo _ h := h
  joined _ h := (held_followJoin _ _ _ _ _).trans h
  served h := h
  unpowered _ _ := rfl

/-! ### The two writes -/

theorem exec_write_on {off : Nat} {wide : Bool} {v : DWord} {s : State} (hl : lamp s ≠ .off) (ha : aligned off wide = true) :
    exec (.registerWrite off wide v) s = .next { settleAll (barWrite off wide v.toNat (fresh s)) with pending := s.pending } := by
  have hx : exec (.registerWrite off wide v) s = done (fun s => if lamp s = .off then s
    else if aligned off wide then barWrite off wide v.toNat s else badAccess off s) s := rfl
  rw [hx, done_eq, if_neg (by exact hl), if_pos ha]

/-- A write of a wide register's low word holds it. -/
theorem barWrite_low {off v : Nat} {d : RegDef} {s : State} (h : findReg off = some d) (hw : d.wide = true)
    (hr : ¬ (0x1000 ≤ off ∧ off < 0x3008)) : barWrite off false v s = { s with held := some (off, v % 2 ^ 32) } := by
  rw [barWrite, if_pos (by decide), write32, if_neg (by omega), if_neg (by omega), if_neg (by omega), h]
  exact if_pos hw

/-- A write of its high word then writes the whole register. -/
theorem barWrite_high {off v x : Nat} {d : RegDef} {s : State} (h : findReg off = some d) (hw : d.wide = true) (ha : off % 8 = 0)
    (hr : ¬ (0x1000 ≤ off ∧ off < 0x3008)) (hh : s.held = some (off, x)) :
    barWrite (off + 4) false v s = regWrite off (x + v % 2 ^ 32 * 2 ^ 32) { s with held := none } := by
  rw [barWrite, if_pos (by decide), write32, if_neg (by omega), if_neg (by omega), if_neg (by omega), findReg_high h hw ha]
  dsimp only
  rw [if_neg (by omega), Nat.add_sub_cancel, h]
  dsimp only
  rw [hw, if_neg (by decide), hh]
  dsimp only
  rw [if_pos rfl]

theorem barWrite_wide {off v : Nat} {d : RegDef} {s : State} (h : findReg off = some d) (hw : d.wide = true) :
    barWrite off true v s = regWrite off v { s with held := none } := by
  rw [barWrite, if_neg (by decide), h]
  exact if_pos hw

/-- A write to a 32-bit register, to the CXL.cachemem range or to the MSI-X table leaves no half held. -/
theorem held_barWrite {o v : Nat} {s : State} (h : 0x1000 ≤ o ∧ o < 0x2400 ∨ ∃ e, findReg o = some e ∧ e.wide = false) :
    (barWrite o false v s).held = none := by
  rw [barWrite, if_pos (by decide), write32]
  split
  · rfl
  · split
    · unfold msixWrite
      extract_lets n e e1 s1
      split <;> rfl
    · split
      · rfl
      · obtain ⟨e, he, hw⟩ := h.resolve_left (by omega)
        rw [he]
        dsimp only
        rw [if_neg (by rw [hw]; decide)]
        exact closed_unheld.regWrite rfl

/-- Settles O27. -/
theorem twoHalvesWriteAsOne : Obligations.TwoHalvesWriteAsOne := by
  unfold Obligations.TwoHalvesWriteAsOne
  intro s off d lo hi hs hl h hw ha hr
  have hlow : barWrite off false (lo.zeroExtend 64).toNat (fresh s) = { fresh s with held := some (off, lo.toNat) } := by
    rw [barWrite_low h hw hr]
    have : (lo.zeroExtend 64).toNat % 2 ^ 32 = lo.toNat := by
      have := lo.isLt
      simp only [BitVec.truncate_eq_setWidth, BitVec.toNat_setWidth]
      omega
    rw [this]
  have hset : State.settled { fresh s with held := some (off, lo.toNat) } :=
    settled_of_frame (frame_held (fresh s) _) (by decide) (settled_fresh hs)
  refine ⟨{ fresh s with held := some (off, lo.toNat) }, ?_, fun _ => rfl, rfl, ?_, fun o v ho4 ho => ?_⟩
  · rw [exec_write_on hl (by simp [aligned]; omega), hlow, settleAll_of_settled hset]
    rfl
  · rw [exec_write_on (by exact hl) (by simp [aligned]; omega), exec_write_on hl (by simp [aligned]; omega), barWrite_wide h hw,
      barWrite_high h hw ha hr rfl]
    have hv : lo.toNat + (hi.zeroExtend 64).toNat % 2 ^ 32 * 2 ^ 32 = (hi ++ lo).toNat := by
      have := lo.isLt
      have := hi.isLt
      simp only [BitVec.truncate_eq_setWidth, BitVec.toNat_setWidth, BitVec.toNat_append]
      rw [← Nat.shiftLeft_add_eq_or_of_lt lo.isLt, Nat.shiftLeft_eq]
      omega
    rw [hv]
    rfl
  · refine ⟨_, exec_write_on (by exact hl) (by simp [aligned, ho4]), ?_⟩
    exact closed_unheld.lower.settleAll (held_barWrite ho)

end Sys2Proof.Halves
end

section
/-! PROOFS. The operations of the time unit: what each may change. -/

namespace Sys2Proof.Timing

set_option Elab.async false

open Machine HostPort Stray

/-! ### Events leave one another's ember bits (R540) -/

theorem reg_keepFirst_ember (src data : Nat) (forced : Bool) (s : State) {a : Nat} (ha : a < 256) :
    reg (keepFirst src data forced s) (emberFld a).off = reg s (emberFld a).off := by
  have hne : ∀ o, 0x3E1000 ≤ o → (emberFld a).off ≠ o := fun o ho e => ne_emberOff ha ho e.symm
  by_cases h : fld s (Reg.MGMT_EV_CNT_FIRST_VALID src) = 1
  · rw [keepFirst_valid data forced h]
  · rw [keepFirst_invalid data forced h, storeFirst_eq, reg_setFld_ne _ _ (hne _ (by simp only [Reg.MGMT_EV_CNT]; omega)),
      reg_setFld_ne _ _ (hne _ (by simp only [Reg.MGMT_EV_CNT]; omega)),
      reg_storeData_ne src data _ fun i => hne _ (by simp only [Reg.MGMT_EV_DATA]; omega),
      reg_setReg_ne _ _ (hne _ (by simp only [Reg.MGMT_EV_TIME]; omega))]

theorem ember_raise_keeps {a b : Nat} (ha : a < 256) (cs : List Cap) {s : State} (h : Ember a s) : Ember a (raise b cs s) := by
  have hcnt : (emberFld a).off ≠ Reg.MGMT_EV_CNT b := fun e => ne_emberOff ha (by simp only [Reg.MGMT_EV_CNT]; omega) e.symm
  have hr : reg (raise b cs s) (emberFld a).off = reg (setFld s (emberFld b) 1) (emberFld a).off := by
    rw [raise, reg_recordEvent _ _ _ _ (by simp only [emberFld, Reg.MGMT_EV_PEND]; omega), reg_keepFirst_ember _ _ _ _ ha, counted,
      reg_countUp_ne b _ hcnt]
  rw [Ember, flag, fld_congr_reg hr]
  by_cases e : emberFld a = emberFld b
  · rw [e, fld_setFld_same s _ 1 (emberFld_ok b)]
    simp [emberFld]
  · rw [fld_setFld_ne s _ _ 1 (emberFld_ok b) (emberFld_ok a).1]
    · exact h
    · by_contra hc
      refine e ?_
      simp only [emberFld] at hc ⊢
      push Not at hc
      obtain ⟨ho, h1, h2⟩ := hc
      rw [ho, show a % 64 = b % 64 by omega]

theorem ember_setReg {a : Nat} {s : State} (h : Ember a s) {o : Nat} (v : DWord) (ho : o < 0x3E0100 ∨ 0x3E0120 ≤ o) (ha : a < 256) :
    Ember a (setReg s o v) := by
  rw [Ember, flag, fld_setReg_ne s o v (by simp only [emberFld, Reg.MGMT_EV_PEND]; omega)]
  exact h

/-! ### Moves of the time unit -/

/-- The kinds of state that a step, a switch or an event of the time unit may change. -/
def tmParts : List Part := Whole.timeParts ++ [.draws] ++ eventParts

/-- From `s` to `t` the time unit has moved, in the registers of `w`; the PTP domains and the qualification of SYNC_IN are as they
were, and events recorded are recorded still. -/
structure Moves (w : Nat → Prop) (s t : State) : Prop where
  changes : Changes tmParts w s t
  ptp : t.time.ptp = s.time.ptp
  sync : t.time.syncPrev = s.time.syncPrev ∧ t.time.syncGood = s.time.syncGood ∧ t.time.syncBad = s.time.syncBad
  embers : ∀ a, a < 256 → Ember a s → Ember a t

section Moves

variable {w : Nat → Prop} {s t u : State}

theorem Moves.refl (s : State) : Moves w s s := ⟨.refl s, rfl, ⟨rfl, rfl, rfl⟩, fun _ _ h => h⟩

theorem Moves.trans (h : Moves w s t) (k : Moves w t u) : Moves w s u := by
  obtain ⟨hp, hg, hb⟩ := h.sync
  obtain ⟨kp, kg, kb⟩ := k.sync
  exact ⟨h.changes.trans k.changes, k.ptp.trans h.ptp, ⟨kp.trans hp, kg.trans hg, kb.trans hb⟩,
    fun a ha he => k.embers a ha (h.embers a ha he)⟩

theorem Moves.mono {v : Nat → Prop} (h : Moves w s t) (hw : ∀ o, w o → v o) : Moves v s t :=
  ⟨h.changes.mono (List.Subset.refl _) hw, h.ptp, h.sync, h.embers⟩

theorem Moves.reg_eq (h : Moves w s t) {o : Nat} (ho : ¬ w o) : reg t o = reg s o := h.changes.regs o ho

theorem Moves.fld_eq (h : Moves w s t) {f : Fld} (hf : ¬ w f.off) : fld t f = fld s f := h.changes.fld_eq hf

theorem Moves.lamp_eq (h : Moves w s t) : lamp t = lamp s :=
  lamp_congr (fld_congr_reg (h.changes.frame .lamp (by decide)))

theorem Moves.settled (h : Moves w s t) (hs : s.settled) : t.settled := settled_of_frame h.changes.frame (by decide) hs

theorem Moves.forAll {ns : List Nat} {g : Nat → State → State} (hg : ∀ n ∈ ns, ∀ t, Moves w t (g n t)) (s : State) :
    Moves w s (Machine.forAll ns g s) :=
  forAll_keeps (Moves w s) ns g (fun n hn t ht => ht.trans (hg n hn t)) s (.refl s)

theorem moves_setReg (s : State) {o : Nat} (v : DWord) (h : 0x390000 ≤ o) (k : o < 0x3B0000) (hw : w o) : Moves w s (setReg s o v) :=
  ⟨⟨(Whole.runs_setReg s v h k).frame.mono (by decide), fun q hq => reg_setReg_ne s v fun e => hq (e ▸ hw), List.prefix_refl _⟩,
    rfl, ⟨rfl, rfl, rfl⟩, fun _ ha he => ember_setReg he v (.inl (by omega)) ha⟩

theorem moves_setFld (s : State) {f : Fld} (v : Nat) (h : 0x390000 ≤ f.off) (k : f.off < 0x3B0000) (hw : w f.off) :
    Moves w s (setFld s f v) := moves_setReg s _ h k hw

/-- Of the time unit's own state neither the PTP domains nor SYNC_IN's qualification change. -/
theorem moves_time (s : State) {x : TimeState} (hp : x.ptp = s.time.ptp)
    (hs : x.syncPrev = s.time.syncPrev ∧ x.syncGood = s.time.syncGood ∧ x.syncBad = s.time.syncBad) : Moves w s { s with time := x } :=
  ⟨⟨(Whole.runs_time s x).frame.mono (by decide), fun _ _ => rfl, List.prefix_refl _⟩, hp, hs, fun _ _ h => h⟩

theorem moves_drew (s : State) : Moves w s (drew s) :=
  ⟨⟨(frame_drew s).mono (by decide), fun _ _ => rfl, List.prefix_refl _⟩, rfl, ⟨rfl, rfl, rfl⟩, fun _ _ h => h⟩

theorem moves_emit (s : State) (e : Emission) : Moves w s (emit s e) := ⟨changes_emit s e, rfl, ⟨rfl, rfl, rfl⟩, fun _ _ h => h⟩

theorem moves_raise {src : Nat} (cs : List Cap) (s : State) (h : src < 256) (hw : ∀ o, eventReg o → w o) : Moves w s (raise src cs s) := by
  have hr := changes_raise src cs s h
  have ht : (raise src cs s).time = s.time := hr.frame .time (by decide)
  exact ⟨hr.mono (by decide) hw, by rw [ht], by rw [ht]; exact ⟨rfl, rfl, rfl⟩, fun _ ha he => ember_raise_keeps ha cs he⟩

end Moves

/-! ### Registers of the operations -/

/-- The registers of base `b` that its count, state and rate stand in. -/
def baseReg (b o : Nat) : Prop :=
  o = Reg.TIME_TB_NOW b ∨ o = Reg.TIME_TB_SEC b ∨ o = Reg.TIME_TB_RATE b ∨ o = Reg.TIME_TB_STAT b

/-- Those of TB3, and TPLL's steering. -/
def copyReg (o : Nat) : Prop := baseReg 3 o ∨ o = Reg.CLK_TPLL_STEER

/-- The compare units and the events. -/
def cmpReg (o : Nat) : Prop := 0x390400 ≤ o ∧ o < 0x390500 ∨ eventReg o

/-- What realigning the ticks and sweeping the compare units may write. -/
def sweepReg (o : Nat) : Prop := o = Reg.TIME_TICK_STAT ∨ cmpReg o

/-- What a step of base `b` may write. -/
def stepReg (b o : Nat) : Prop := baseReg b o ∨ copyReg o ∨ sweepReg o

theorem baseReg_range {b o : Nat} (hb : b < 4) (h : baseReg b o) : 0x390200 ≤ o ∧ o < 0x390300 := by
  simp only [baseReg, Reg.TIME_TB_NOW, Reg.TIME_TB_SEC, Reg.TIME_TB_RATE, Reg.TIME_TB_STAT] at h
  omega

theorem moves_baseReg {b o : Nat} (s : State) (v : DWord) (hb : b < 4) (h : baseReg b o) : Moves (baseReg b) s (setReg s o v) := by
  obtain ⟨h1, h2⟩ := baseReg_range hb h
  exact moves_setReg s v (by omega) (by omega) h

theorem moves_baseFld {b : Nat} {f : Fld} (s : State) (v : Nat) (hb : b < 4) (h : baseReg b f.off) : Moves (baseReg b) s (setFld s f v) :=
  moves_baseReg s _ hb h

theorem moves_setFull (s : State) {b : Nat} (v : Int) (hb : b < 4) : Moves (baseReg b) s (setFull s b v) := by
  unfold setFull
  extract_lets x t tot fr y s1
  have h1 : Moves (baseReg b) s s1 := moves_time s rfl ⟨rfl, rfl, rfl⟩
  exact (h1.trans (moves_baseReg s1 _ hb (.inl rfl))).trans (moves_baseReg _ _ hb (.inr (.inl rfl)))

theorem moves_setTbState (s : State) {b : Nat} (v : Nat) (hb : b < 4) : Moves (baseReg b) s (setTbState s b v) :=
  moves_baseFld s v hb (.inr (.inr (.inr rfl)))

theorem moves_fixSteer (s : State) : Moves copyReg s (fixSteer s) := by
  unfold fixSteer
  split
  · exact moves_setFld s _ (by decide) (by decide) (.inr rfl)
  · exact .refl s

theorem moves_fixTb3 (s : State) : Moves copyReg s (fixTb3 s) := by
  unfold fixTb3
  refine Moves.trans ?_ (moves_fixSteer _)
  split
  · exact (((moves_setFull s _ (by decide)).trans (moves_setTbState _ _ (by decide))).trans
      (moves_baseFld _ _ (by decide) (.inr (.inr (.inl rfl))))).mono fun _ => .inl
  · exact .refl s

/-- The handover's registers. -/
def handReg (o : Nat) : Prop := o = Reg.TIME_HANDOVER ∨ o = Reg.TIME_TICK_CTRL

theorem moves_setHandD (s : State) (d : Int) : Moves handReg s (setHandD s d) :=
  (moves_setReg s _ (by decide) (by decide) (.inl rfl)).trans (moves_setFld _ _ (by decide) (by decide) (.inr rfl))

theorem moves_realign (c : Bool) (s : State) : Moves sweepReg s (realign c s) := by
  unfold realign
  split
  · exact .refl s
  · extract_lets x k s1 skip
    have h1 : Moves sweepReg s s1 := moves_time s rfl ⟨rfl, rfl, rfl⟩
    split
    · exact (h1.trans (moves_setFld s1 _ (by decide) (by decide) (.inl rfl))).trans
        (moves_raise _ _ (by decide) fun _ h => .inr (.inr h))
    · exact h1

theorem cmpReg_of {n o : Nat} (hn : n < 8) (h : o = Reg.TIME_CMP_CFG n ∨ o = Reg.TIME_CMP_TARGET n) : 0x390400 ≤ o ∧ o < 0x390500 := by
  simp only [Reg.TIME_CMP_CFG, Reg.TIME_CMP_TARGET] at h
  omega

theorem moves_cmpReg {n o : Nat} (s : State) (v : DWord) (hn : n < 8) (h : o = Reg.TIME_CMP_CFG n ∨ o = Reg.TIME_CMP_TARGET n) :
    Moves cmpReg s (setReg s o v) := by
  have hr := cmpReg_of hn h
  exact moves_setReg s v (by omega) (by omega) (.inl hr)

/-- A compare unit's firing is counted. -/
def cmpCounted (late : Bool) (n : Nat) (s : State) : State :=
  if late then setFld (incSat s (Reg.TIME_CMP_CFG_FIRED n) 1) (Reg.TIME_CMP_CFG_LATE n) 1 else incSat s (Reg.TIME_CMP_CFG_FIRED n) 1

/-- Its pulse goes out. -/
def cmpOut (n : Nat) (s : State) : State :=
  if flag s (Reg.TIME_CMP_CFG_OUT n) && clkRuns s 7 1 then emit s (.syncOut n (max 1 (fld s (Reg.TIME_CMP_CFG_WIDTH n)))) else s

/-- It waits for its next target, or for nothing. -/
def cmpRearm (t per n : Nat) (s : State) : State :=
  if flag s (Reg.TIME_CMP_CFG_PERIODIC n) && decide (per ≠ 0) then setReg s (Reg.TIME_CMP_TARGET n) (BitVec.ofNat 64 (t + per))
  else setFld s (Reg.TIME_CMP_CFG_EN n) 0

/-- The records of a compare unit that fires, before its event. -/
def cmpMark (late : Bool) (n : Nat) (s : State) : State :=
  cmpRearm (cmpTarget s n) (reg s (Reg.TIME_CMP_PERIOD n)).toNat n (cmpOut n (cmpCounted late n s))

theorem cmpFire_eq (late : Bool) (n : Nat) (s : State) :
    cmpFire late n s = raise evTimeCompare [(8, n), (64, cmpTarget s n), (8, b2n late)] (cmpMark late n s) := by
  cases late <;> rfl

theorem moves_cmpCounted (late : Bool) {n : Nat} (hn : n < 8) (s : State) : Moves cmpReg s (cmpCounted late n s) := by
  have h1 : Moves cmpReg s (incSat s (Reg.TIME_CMP_CFG_FIRED n) 1) := moves_cmpReg s _ hn (.inl rfl)
  cases late
  · exact h1
  · exact h1.trans (moves_cmpReg _ _ hn (.inl rfl))

theorem moves_cmpOut {w : Nat → Prop} (n : Nat) (s : State) : Moves w s (cmpOut n s) := by
  unfold cmpOut
  split
  · exact moves_emit s _
  · exact .refl s

theorem moves_cmpRearm (t per : Nat) {n : Nat} (hn : n < 8) (s : State) : Moves cmpReg s (cmpRearm t per n s) := by
  unfold cmpRearm
  split
  · exact moves_cmpReg s _ hn (.inr rfl)
  · exact moves_cmpReg s _ hn (.inl rfl)

theorem moves_cmpMark (late : Bool) {n : Nat} (hn : n < 8) (s : State) : Moves cmpReg s (cmpMark late n s) :=
  ((moves_cmpCounted late hn s).trans (moves_cmpOut n _)).trans (moves_cmpRearm _ _ hn _)

theorem moves_cmpFire (late : Bool) {n : Nat} (hn : n < 8) (s : State) : Moves cmpReg s (cmpFire late n s) :=
  (moves_cmpMark late hn s).trans (moves_raise _ _ (by decide) fun _ h => .inr h)

theorem moves_cmpLate {n : Nat} (hn : n < 8) (k : Nat) (s : State) : Moves cmpReg s (cmpLate n k s) := by
  induction k generalizing s with
  | zero => exact .refl s
  | succ k ih =>
    unfold cmpLate
    split
    · exact (moves_cmpFire true hn s).trans (ih _)
    · exact .refl s

theorem moves_cmpSweep (s : State) : Moves cmpReg s (cmpSweep s) :=
  Moves.forAll (fun _ hn t => moves_cmpLate (List.mem_range.1 hn) _ t) s

theorem moves_stepBase {b : Nat} (hb : b < 4) (d : Int) (cause : Nat) (s : State) : Moves (stepReg b) s (stepBase b d cause s) := by
  unfold stepBase
  extract_lets dr s1 s2 s3
  have h1 : Moves (stepReg b) s s1 :=
    (((moves_setFull s _ hb).mono fun _ => .inl).trans ((moves_fixTb3 _).mono fun _ h => .inr (.inl h))).trans
      ((moves_baseFld _ _ hb (.inr (.inr (.inr rfl)))).mono fun _ => .inl)
  have h2 : Moves (stepReg b) s s2 := h1.trans (moves_raise _ _ (by decide) fun _ h => .inr (.inr (.inr (.inr h))))
  have h3 : Moves (stepReg b) s s3 := by
    show Moves (stepReg b) s (if dr then realign true s2 else s2)
    split
    · exact h2.trans ((moves_realign true s2).mono fun _ h => .inr (.inr h))
    · exact h2
  exact h3.trans ((moves_cmpSweep s3).mono fun _ h => .inr (.inr (.inr h)))

/-! ### Which registers these are not -/

theorem not_eventReg_time {o : Nat} (h : 0x390000 ≤ o) (k : o < 0x3B0000) : ¬ eventReg o := not_eventReg (.inr (by omega)) (.inl (by omega))

theorem not_sweepReg {o : Nat} (h : 0x390000 ≤ o) (k : o < 0x390400) (ht : o ≠ Reg.TIME_TICK_STAT) : ¬ sweepReg o := by
  rintro (e | ⟨e, -⟩ | e)
  · exact ht e
  · omega
  · exact not_eventReg_time h (by omega) e

theorem not_copyReg {o : Nat} (h : o < 0x3902C0 ∨ 0x390300 ≤ o ∧ o < 0x3A0000) : ¬ copyReg o := by
  simp only [copyReg, baseReg, Reg.TIME_TB_NOW, Reg.TIME_TB_SEC, Reg.TIME_TB_RATE, Reg.TIME_TB_STAT, Reg.CLK_TPLL_STEER]
  omega

end Sys2Proof.Timing
end

section
/-! PROOFS. Writes of the time unit's registers (R33, R35, R443, R447), the compare units and the handover. -/

namespace Sys2Proof.Timing

set_option Elab.async false

open Machine HostPort Stray

/-! ### The registers of the time unit -/

/-- The registers of the time unit and the clock synthesizer, and the events. -/
def timeReg (o : Nat) : Prop := 0x390000 ≤ o ∧ o < 0x3B0000 ∨ eventReg o

theorem timeReg_base {b o : Nat} (hb : b < 4) (h : baseReg b o) : timeReg o := by
  have := baseReg_range hb h
  exact .inl (by omega)

theorem timeReg_copy {o : Nat} (h : copyReg o) : timeReg o := by
  rcases h with h | rfl
  · exact timeReg_base (by decide) h
  · exact .inl (by decide)

theorem timeReg_hand {o : Nat} (h : handReg o) : timeReg o := by
  rcases h with rfl | rfl <;> exact .inl (by decide)

theorem timeReg_cmp {o : Nat} (h : cmpReg o) : timeReg o := by
  rcases h with ⟨h1, h2⟩ | h
  · exact .inl (by omega)
  · exact .inr h

theorem timeReg_sweep {o : Nat} (h : sweepReg o) : timeReg o := by
  rcases h with rfl | h
  · exact .inl (by decide)
  · exact timeReg_cmp h

theorem moves_timeFld (s : State) {f : Fld} (v : Nat) (h : 0x390000 ≤ f.off ∧ f.off < 0x3B0000) : Moves timeReg s (setFld s f v) :=
  moves_setFld s v h.1 h.2 (.inl h)

/-! ### What a switch of the base does once its source is set -/

/-- The ticks are aligned to the base's count, and the compare units swept. -/
def resweep (s : State) : State := cmpSweep (realign true s)

theorem moves_resweep (s : State) : Moves sweepReg s (resweep s) :=
  (moves_realign true s).trans ((moves_cmpSweep _).mono fun _ => .inr)

/-- No handover runs any more, and TB3 follows its source. -/
def handEnded (s : State) : State := fixTb3 (setHandD s 0)

theorem moves_handEnded (s : State) : Moves timeReg s (handEnded s) :=
  ((moves_setHandD s 0).mono fun _ => timeReg_hand).trans ((moves_fixTb3 _).mono fun _ => timeReg_copy)

/-- Fields beside the handover's are as they were. -/
theorem fld_handEnded (s : State) {f : Fld} (hle : f.lo ≤ f.hi) (hc : ¬ copyReg f.off) (h : f.off ≠ Reg.TIME_HANDOVER)
    (ht : f.off ≠ Reg.TIME_TICK_CTRL ∨ f.hi < 4) : fld (handEnded s) f = fld s f := by
  rw [handEnded, (moves_fixTb3 _).fld_eq hc, setHandD,
    fld_setFld_ne _ _ f _ ⟨by decide, by decide⟩ hle (ht.imp id .inl), fld_setReg_ne _ _ _ h]

/-- A field that neither the compare units nor TPLL, TB3 or the tick count hold. -/
def apart (f : Fld) : Prop := f.lo ≤ f.hi ∧ 0x390000 ≤ f.off ∧ (f.off < 0x3902C0 ∨ 0x390300 ≤ f.off ∧ f.off < 0x390400) ∧
  f.off ≠ Reg.TIME_TICK_STAT ∧ f.off ≠ Reg.TIME_HANDOVER ∧ (f.off ≠ Reg.TIME_TICK_CTRL ∨ f.hi < 4)

theorem apart.sweep {f : Fld} (h : apart f) : ¬ sweepReg f.off := by
  obtain ⟨-, h1, h2, ht, -⟩ := h
  exact not_sweepReg h1 (by omega) ht

theorem apart.copy {f : Fld} (h : apart f) : ¬ copyReg f.off := by
  obtain ⟨-, h1, h2, -⟩ := h
  exact not_copyReg (by omega)

theorem apart.event {f : Fld} (h : apart f) : ¬ eventReg f.off := fun e => h.sweep (.inr (.inr e))

theorem apart.handEnded {f : Fld} (h : apart f) (s : State) : fld (handEnded s) f = fld s f := by
  have hc := h.copy
  obtain ⟨hle, -, -, -, hh, ht⟩ := h
  exact fld_handEnded s hle hc hh ht

theorem apart.raise {f : Fld} (h : apart f) {src : Nat} (cs : List Cap) (s : State) (hs : src < 256) : fld (raise src cs s) f = fld s f :=
  (moves_raise (w := eventReg) cs s hs fun _ => id).fld_eq h.event

theorem apart.resweep {f : Fld} (h : apart f) (s : State) : fld (resweep s) f = fld s f := (moves_resweep s).fld_eq h.sweep

/-- The rest of a switch while dark, once the source is set. -/
def switchDone (c1 : List Cap) (c2 : Nat → List Cap) (s : State) : State :=
  let t := raise evTimeSwitch c1 (handEnded s)
  resweep (raise evTimeStep (c2 (selBase t)) (incSat t (Reg.TIME_TB_STAT_STEPS (selBase t)) 1))

/-- The rest of a switch while lit. -/
def switchSlewed (d : Int) (c : List Cap) (s : State) : State := raise evTimeSwitch c (fixTb3 (setHandD s d))

theorem switchTo_cases (b cause : Nat) (s : State) :
    (isLit s = true ∧ ∃ d c, switchTo b cause s = switchSlewed d c (setSource s b)) ∨
    (isLit s = false ∧ ∃ c1 c2, switchTo b cause s = switchDone c1 c2 (setSource s b)) := by
  have hl : isLit (setSource s b) = isLit s := by
    have : lamp (setSource s b) = lamp s := by
      unfold setSource
      extract_lets s1
      split
      · exact lamp_congr (fld_setReg_ne s1 _ _ (by decide))
      · exact lamp_congr (fld_setReg_ne s1 _ _ (by decide))
    rw [isLit, this, isLit]
  cases h : isLit s
  · refine .inr ⟨rfl, [(8, (sourceBase s).getD 0), (8, b), (64, (fullOf s b - effective s) / 2 ^ 40), (8, cause)],
      fun t => [(8, t), (64, (fullOf s b - effective s) / 2 ^ 40), (8, if cause = 2 then 4 else 1)], ?_⟩
    rw [switchTo]
    dsimp only
    rw [if_neg (by rw [hl, h]; decide)]
    rfl
  · refine .inl ⟨rfl, (fullOf s b - effective s) / 2 ^ 24,
      [(8, (sourceBase s).getD 0), (8, b), (64, (fullOf s b - effective s) / 2 ^ 40), (8, cause)], ?_⟩
    rw [switchTo]
    dsimp only
    rw [if_pos (by rw [hl, h])]
    rfl

theorem selBase_lt (s : State) : selBase s < 4 := fld_lt s Reg.TIME_TICK_CTRL_SEL

theorem moves_incSteps (s : State) {b : Nat} (hb : b < 4) : Moves timeReg s (incSat s (Reg.TIME_TB_STAT_STEPS b) 1) :=
  (moves_baseFld s _ hb (.inr (.inr (.inr rfl)))).mono fun _ => timeReg_base hb

theorem fld_incSteps (s : State) (b : Nat) {f : Fld} (hle : f.lo ≤ f.hi) (h : f.hi < 16) :
    fld (incSat s (Reg.TIME_TB_STAT_STEPS b) 1) f = fld s f :=
  fld_setFld_ne s _ f _ ⟨(by decide : 16 ≤ 31), (by decide : 31 < 64)⟩ hle (.inr (.inl h))

theorem moves_switchDone (c1 : List Cap) (c2 : Nat → List Cap) (s : State) : Moves timeReg s (switchDone c1 c2 s) := by
  unfold switchDone
  extract_lets t
  have h1 : Moves timeReg s t := (moves_handEnded s).trans (moves_raise _ _ (by decide) fun _ => .inr)
  have h2 := h1.trans (moves_incSteps t (selBase_lt t))
  exact (h2.trans (moves_raise _ _ (by decide) fun _ => .inr)).trans ((moves_resweep _).mono fun _ => timeReg_sweep)

theorem fld_switchDone {f : Fld} (h : apart f) (hs : f.hi < 16) (c1 : List Cap) (c2 : Nat → List Cap) (s : State) :
    fld (switchDone c1 c2 s) f = fld s f := by
  unfold switchDone
  extract_lets t
  have ht : fld t f = fld s f := (h.raise _ _ (by decide)).trans (h.handEnded s)
  rw [h.resweep, h.raise _ _ (by decide), fld_incSteps t _ h.1 hs, ht]

theorem moves_setSource (s : State) (b : Nat) : Moves timeReg s (setSource s b) := by
  unfold setSource
  extract_lets s1
  have h1 : Moves timeReg s s1 := moves_time s rfl ⟨rfl, rfl, rfl⟩
  split
  · exact h1.trans (moves_timeFld s1 _ (by decide))
  · exact h1.trans (moves_timeFld s1 _ (by decide))

theorem moves_switchTo (b cause : Nat) (s : State) : Moves timeReg s (switchTo b cause s) := by
  rcases switchTo_cases b cause s with ⟨-, d, c, e⟩ | ⟨-, c1, c2, e⟩
  · rw [e]
    exact (((moves_setSource s b).trans ((moves_setHandD _ d).mono fun _ => timeReg_hand)).trans
      ((moves_fixTb3 _).mono fun _ => timeReg_copy)).trans (moves_raise _ _ (by decide) fun _ => .inr)
  · rw [e]
    exact (moves_setSource s b).trans (moves_switchDone c1 c2 _)

/-! ### SEL, T0 and TB3_SRC -/

/-- A write of SEL while dark. -/
theorem selWrite_effect {v : Nat} (hv : v < 4) {s : State} (hd : isLit s = false) :
    Moves timeReg s (selWrite v s) ∧ selBase (selWrite v s) = v := by
  have hsel : apart Reg.TIME_TICK_CTRL_SEL := by unfold apart; decide
  have hput : ∀ t : State, fld (setFld t Reg.TIME_TICK_CTRL_SEL v) Reg.TIME_TICK_CTRL_SEL = v := fun t =>
    (fld_setFld_self t v (by decide)).trans (Nat.mod_eq_of_lt hv)
  unfold selWrite
  extract_lets o
  split
  · next h => exact ⟨.refl s, h.symm⟩
  · split
    · next hp =>
      refine ⟨moves_switchTo v 2 s, ?_⟩
      rcases switchTo_cases v 2 s with ⟨hl, -⟩ | ⟨-, c1, c2, e⟩
      · rw [hd] at hl
        exact absurd hl (by decide)
      · have h3 : ¬ selBase (setHandTb3 s (decide (selBase s = 3))) = 3 := by
          show ¬ o = 3
          omega
        rw [e, selBase, fld_switchDone hsel (by decide), setSource, if_neg h3]
        exact hput _
    · rw [if_neg (by rw [hd]; decide)]
      refine ⟨((moves_timeFld s _ (by decide)).trans (moves_handEnded _)).trans ((moves_resweep _).mono fun _ => timeReg_sweep), ?_⟩
      exact (hsel.resweep _).trans ((hsel.handEnded _).trans (hput s))

/-- A write of T0 while dark. -/
theorem t0Write_effect (t0 : DWord) {s : State} (hd : isLit s = false) :
    Moves timeReg s (t0Write t0 s) ∧ reg (t0Write t0 s) Reg.TIME_TICK_T0 = t0 := by
  unfold t0Write
  rw [if_neg (by rw [hd]; decide)]
  extract_lets s1
  have h1 : Moves timeReg s s1 := moves_setReg s t0 (by decide) (by decide) (.inl (by decide))
  have h2 : Moves timeReg s { s1 with time := { s1.time with t0Frac := 0 } } := h1.trans (moves_time s1 rfl ⟨rfl, rfl, rfl⟩)
  refine ⟨h2.trans ((moves_realign true _).mono fun _ => timeReg_sweep), ?_⟩
  rw [(moves_realign true _).reg_eq (not_sweepReg (by decide) (by decide) (by decide))]
  exact reg_setReg_same s _ t0

/-- A write of TB3_SRC while dark. -/
theorem tb3SrcWrite_effect {v : Nat} (hv : v < 3) {s : State} (hd : isLit s = false) :
    Moves timeReg s (tb3SrcWrite v s) ∧ tb3Src (tb3SrcWrite v s) = v := by
  have hsrc : apart Reg.TIME_CFG_TB3_SRC := by unfold apart; decide
  have hput : ∀ t : State, fld (setFld t Reg.TIME_CFG_TB3_SRC v) Reg.TIME_CFG_TB3_SRC = v := fun t =>
    (fld_setFld_self t v (by decide)).trans (Nat.mod_eq_of_lt (by omega))
  have hset : Moves timeReg s (setFld s Reg.TIME_CFG_TB3_SRC v) := moves_timeFld s v (by decide)
  unfold tb3SrcWrite
  extract_lets o ptp
  split
  · next h => exact ⟨.refl s, (h.resolve_left (by omega)).symm⟩
  · rw [if_neg (by rw [hd]; exact Bool.false_ne_true)]
    split
    · next hsel =>
      split
      · refine ⟨moves_switchTo v 2 s, ?_⟩
        rcases switchTo_cases v 2 s with ⟨hl, -⟩ | ⟨-, c1, c2, e⟩
        · rw [hd] at hl
          exact absurd hl (by decide)
        · have h3 : selBase (setHandTb3 s (decide (selBase s = 3))) = 3 := hsel.1
          rw [e, tb3Src, fld_switchDone hsrc (by decide), setSource, if_pos h3]
          exact hput _
      · refine ⟨(hset.trans (moves_handEnded _)).trans ((moves_resweep _).mono fun _ => timeReg_sweep), ?_⟩
        exact (hsrc.resweep _).trans ((hsrc.handEnded _).trans (hput s))
    · rw [if_neg (by rw [hd]; decide)]
      refine ⟨(hset.trans ((moves_fixTb3 _).mono fun _ => timeReg_copy)).trans ((moves_cmpSweep _).mono fun _ => timeReg_cmp), ?_⟩
      rw [tb3Src, (moves_cmpSweep _).fld_eq fun h => hsrc.sweep (.inr h), (moves_fixTb3 _).fld_eq hsrc.copy]
      exact hput s

/-! ### Steps of TB0 (R446) -/

theorem totalOf_setFull_same (s : State) (b : Nat) (v : Int) :
    totalOf (setFull s b v) b = (v % ((totalMod * 2 ^ 40 : Nat) : Int)).toNat / 2 ^ 40 := by
  rw [totalOf, setFull, setReg_time, setReg_time]
  exact tblGet_set_same _ _ _ _

theorem totalOf_setFull_ne (s : State) {b k : Nat} (v : Int) (h : k ≠ b) : totalOf (setFull s b v) k = totalOf s k := by
  rw [totalOf, setFull, setReg_time, setReg_time]
  exact tblGet_set_ne _ _ _ h

theorem total_fixSteer (s : State) : (fixSteer s).time = s.time := by
  unfold fixSteer
  split <;> rfl

theorem totalOf_fixTb3 (s : State) {k : Nat} (h : k ≠ 3) : totalOf (fixTb3 s) k = totalOf s k := by
  unfold fixTb3
  rw [totalOf, total_fixSteer]
  split
  · exact totalOf_setFull_ne s _ h
  · rfl

theorem total_raise (src : Nat) (cs : List Cap) (s : State) (h : src < 256) : (raise src cs s).time = s.time :=
  frame_raise src cs s h .time (by decide)

theorem time_setNextTick (s : State) (k : Nat) : (setNextTick s k).time.total = s.time.total := rfl

/-- The next tick is found, and a slip is counted and raised. -/
theorem realign_cases (c : Bool) (s : State) : realign c s = s ∨ ∃ k, realign c s = setNextTick s k ∨
    ∃ cs n, realign c s = raise evTickSlip cs (incSat (setNextTick s k) Reg.TIME_TICK_STAT_SLIP_CNT n) := by
  unfold realign
  split
  · exact .inl rfl
  · dsimp only
    split
    · exact .inr ⟨_, .inr ⟨_, _, rfl⟩⟩
    · exact .inr ⟨_, .inl rfl⟩

theorem total_realign (c : Bool) (s : State) : (realign c s).time.total = s.time.total := by
  rcases realign_cases c s with h | ⟨k, h | ⟨cs, n, h⟩⟩
  · rw [h]
  · rw [h, time_setNextTick]
  · rw [h, total_raise _ _ _ (by decide), incSat_time, time_setNextTick]
theorem time_cmpMark (late : Bool) (n : Nat) (s : State) : (cmpMark late n s).time = s.time := by
  have h1 : (cmpCounted late n s).time = s.time := by cases late <;> rfl
  have h2 : (cmpOut n (cmpCounted late n s)).time = s.time := by
    unfold cmpOut
    split
    · exact h1
    · exact h1
  unfold cmpMark cmpRearm
  split
  · exact h2
  · exact h2

theorem time_cmpLate (n k : Nat) (s : State) : (cmpLate n k s).time = s.time := by
  induction k generalizing s with
  | zero => rfl
  | succ k ih =>
    unfold cmpLate
    split
    · rw [ih, cmpFire_eq, total_raise _ _ _ (by decide), time_cmpMark]
    · rfl

theorem forAll_time {ns : List Nat} {g : Nat → State → State} (hg : ∀ n t, (g n t).time = t.time) (s : State) :
    (Machine.forAll ns g s).time = s.time := by
  induction ns generalizing s with
  | nil => rfl
  | cons n ns ih => rw [forAll_cons, ih, hg]

/-- The sweep, without the number of times a unit is behind. -/
theorem cmpSweep_eq : ∃ f : Nat → State → Nat, ∀ s, cmpSweep s = forAll (List.range 8) (fun n s => cmpLate n (f n s) s) s :=
  ⟨fun n s => cmpBehind s n, fun _ => rfl⟩

theorem time_cmpSweep (s : State) : (cmpSweep s).time = s.time := by
  obtain ⟨f, hf⟩ := cmpSweep_eq
  rw [hf]
  exact forAll_time (fun n t => time_cmpLate n (f n t) t) s

/-- The base's count once it has stepped, and the event raised. -/
def stepNoted (b : Nat) (d : Int) (cause : Nat) (s : State) : State :=
  raise evTimeStep [(8, b), (64, d / 2 ^ 40), (8, cause)] (incSat (fixTb3 (setFull s b (fullOf s b + d))) (Reg.TIME_TB_STAT_STEPS b) 1)

theorem stepBase_cases (b : Nat) (d : Int) (cause : Nat) (s : State) :
    stepBase b d cause s = resweep (stepNoted b d cause s) ∨ stepBase b d cause s = cmpSweep (stepNoted b d cause s) := by
  unfold stepBase
  dsimp only
  split
  · exact .inl rfl
  · exact .inr rfl

theorem totalOf_stepNoted {b : Nat} (hb : b ≠ 3) (d : Int) (cause : Nat) (s : State) :
    totalOf (stepNoted b d cause s) b = totalOf (setFull s b (fullOf s b + d)) b := by
  rw [stepNoted, totalOf, total_raise _ _ _ (by decide), incSat_time, ← totalOf, totalOf_fixTb3 _ hb]

theorem totalOf_stepBase {b : Nat} (hb : b ≠ 3) (d : Int) (cause : Nat) (s : State) :
    totalOf (stepBase b d cause s) b = totalOf (setFull s b (fullOf s b + d)) b := by
  rcases stepBase_cases b d cause s with h | h
  · rw [h, resweep, totalOf, time_cmpSweep, total_realign, ← totalOf, totalOf_stepNoted hb]
  · rw [h, totalOf, time_cmpSweep, ← totalOf, totalOf_stepNoted hb]

theorem div_of_scaled (x m : Nat) : (((x : Nat) : Int) * 2 ^ 40 % ((m * 2 ^ 40 : Nat) : Int)).toNat / 2 ^ 40 = x % m := by
  have h : ((x : Nat) : Int) * 2 ^ 40 % ((m * 2 ^ 40 : Nat) : Int) = ((x * 2 ^ 40 % (m * 2 ^ 40) : Nat) : Int) := by push_cast; rfl
  rw [h, Int.toNat_natCast, Nat.mul_mod_mul_right]
  omega

theorem moves_stepped {b : Nat} (hb : b < 4) (d : Int) (cause : Nat) (s : State) :
    Moves timeReg s (stepBase b d cause s) ∧ Ember evTimeStep (stepBase b d cause s) := by
  refine ⟨(moves_stepBase hb d cause s).mono fun o h => ?_, ?_⟩
  · rcases h with h | h | h
    · exact timeReg_base hb h
    · exact timeReg_copy h
    · exact timeReg_sweep h
  · have he : Ember evTimeStep (stepNoted b d cause s) := ember_raise _ _ _ (by decide)
    rcases stepBase_cases b d cause s with h | h
    · rw [h]
      exact (moves_resweep _).embers _ (by decide) he
    · rw [h]
      exact (moves_cmpSweep _).embers _ (by decide) he

/-- A write of TIME_TB0_SET_NS. -/
theorem tb0Step_effect (ns : Nat) {s : State} (h : (drivesTicks s 0 && isLit s) = false) :
    Moves timeReg s (tb0Step ns s) ∧ Ember evTimeStep (tb0Step ns s) ∧
    totalOf (tb0Step ns s) 0 = (fld s Reg.TIME_TB0_SET_SEC_SEC * 1000000000 + ns) % totalMod := by
  rw [tb0Step, if_neg (by rw [h]; exact Bool.false_ne_true)]
  obtain ⟨hm, he⟩ := moves_stepped (b := 0) (by decide)
    (((fld s Reg.TIME_TB0_SET_SEC_SEC * 1000000000 + ns : Nat) : Int) * 2 ^ 40 - fullOf s 0) 4 s
  refine ⟨hm, he, ?_⟩
  dsimp only
  rw [totalOf_stepBase (by decide), totalOf_setFull_same, add_sub_cancel]
  exact div_of_scaled _ _

/-! ### Compare units (R456) -/

theorem cmpCfg_ok (n : Nat) : (Reg.TIME_CMP_CFG_FIRED n).ok ∧ (Reg.TIME_CMP_CFG_LATE n).ok ∧ (Reg.TIME_CMP_CFG_EN n).ok :=
  ⟨⟨(by decide : 16 ≤ 31), (by decide : 31 < 64)⟩, ⟨(by decide : 5 ≤ 5), (by decide : 5 < 64)⟩, ⟨(by decide : 0 ≤ 0), (by decide : 0 < 64)⟩⟩

theorem target_ne_cfg (n : Nat) : Reg.TIME_CMP_CFG n ≠ Reg.TIME_CMP_TARGET n := by
  simp only [Reg.TIME_CMP_CFG, Reg.TIME_CMP_TARGET]
  omega

theorem fld_cmpOut (n : Nat) (s : State) (f : Fld) : fld (cmpOut n s) f = fld s f :=
  (moves_cmpOut (w := fun _ => False) n s).fld_eq id

/-- A field of a compare unit's configuration but for EN. -/
theorem fld_cmpMark (late : Bool) (n : Nat) (s : State) {f : Fld} (ho : f.off = Reg.TIME_CMP_CFG n) (hle : f.lo ≤ f.hi)
    (he : 0 < f.lo) : fld (cmpMark late n s) f = fld (cmpCounted late n s) f := by
  unfold cmpMark cmpRearm
  split
  · rw [fld_setReg_ne _ _ _ (by rw [ho]; exact target_ne_cfg n), fld_cmpOut]
  · rw [fld_setFld_ne _ _ f _ (cmpCfg_ok n).2.2 hle (.inr (.inr he)), fld_cmpOut]

theorem cfg_not_event (n : Nat) (hn : n < 8) : ¬ eventReg (Reg.TIME_CMP_CFG n) :=
  not_eventReg_time (by simp only [Reg.TIME_CMP_CFG]; omega) (by simp only [Reg.TIME_CMP_CFG]; omega)

theorem fld_cmpFire (late : Bool) {n : Nat} (hn : n < 8) (s : State) {f : Fld} (ho : f.off = Reg.TIME_CMP_CFG n) :
    fld (cmpFire late n s) f = fld (cmpMark late n s) f := by
  rw [cmpFire_eq]
  exact (moves_raise (w := eventReg) _ _ (by decide) fun _ => id).fld_eq (ho ▸ cfg_not_event n hn)

/-- A unit that fires on time. -/
theorem cmpFire_effect {n : Nat} (hn : n < 8) (s : State) : Moves timeReg s (cmpFire false n s) ∧ Ember evTimeCompare (cmpFire false n s) ∧
    Counted (Reg.TIME_CMP_CFG_FIRED n) s (cmpFire false n s) ∧
    (flag s (Reg.TIME_CMP_CFG_PERIODIC n) = false → flag (cmpFire false n s) (Reg.TIME_CMP_CFG_EN n) = false) := by
  refine ⟨(moves_cmpFire false hn s).mono fun _ => timeReg_cmp, ember_raise _ _ _ (by decide), ?_, fun hp => ?_⟩
  · rw [Counted, fld_cmpFire false hn s rfl, fld_cmpMark false n s rfl (by decide : 16 ≤ 31) (by decide : 0 < 16)]
    exact fld_incSat s _ 1 (cmpCfg_ok n).1
  · have hper : flag (cmpOut n (cmpCounted false n s)) (Reg.TIME_CMP_CFG_PERIODIC n) = false := by
      rw [flag, fld_cmpOut, cmpCounted, if_neg Bool.false_ne_true, incSat,
        fld_setFld_ne s _ _ _ (cmpCfg_ok n).1 (Nat.le_refl 3) (.inr (.inl (by decide : 3 < 16)))]
      exact hp
    rw [flag, fld_cmpFire false hn s rfl, cmpMark, cmpRearm, hper, Bool.false_and, if_neg Bool.false_ne_true,
      fld_setFld_same _ _ 0 (cmpCfg_ok n).2.2]
    rfl

theorem late_cmpFire {n : Nat} (hn : n < 8) (s : State) : flag (cmpFire true n s) (Reg.TIME_CMP_CFG_LATE n) = true := by
  rw [flag, fld_cmpFire true hn s rfl, fld_cmpMark true n s rfl (Nat.le_refl 5) (by decide : 0 < 5)]
  exact decide_eq_true (fld_setFld_same _ _ 1 (cmpCfg_ok n).2.1)

/-- LATE stays set while a unit fires again. -/
theorem late_cmpLate {n : Nat} (hn : n < 8) (k : Nat) {s : State} (he : Ember evTimeCompare s) (h : flag s (Reg.TIME_CMP_CFG_LATE n) = true) :
    Ember evTimeCompare (cmpLate n k s) ∧ flag (cmpLate n k s) (Reg.TIME_CMP_CFG_LATE n) = true := by
  induction k generalizing s with
  | zero => exact ⟨he, h⟩
  | succ k ih =>
    rw [cmpLate]
    split
    · exact ih (ember_raise _ _ _ (by decide)) (late_cmpFire hn s)
    · exact ⟨he, h⟩

theorem cmpLate_past {n : Nat} (hn : n < 8) (k : Nat) {s : State} (h : cmpPast s n = true) :
    Ember evTimeCompare (cmpLate n (k + 1) s) ∧ flag (cmpLate n (k + 1) s) (Reg.TIME_CMP_CFG_LATE n) = true := by
  rw [cmpLate, if_pos h]
  exact late_cmpLate hn k (ember_raise _ _ _ (by decide)) (late_cmpFire hn s)

theorem cmpLate_ahead (n k : Nat) {s : State} (h : cmpPast s n = false) : cmpLate n k s = s := by
  cases k with
  | zero => rfl
  | succ k => rw [cmpLate, if_neg (by rw [h]; exact Bool.false_ne_true)]

/-- The configuration register that a write leaves. -/
def cmpWord (n v : Nat) (s : State) : Nat :=
  bitsOf v 0 5 + (if bitOf v 5 then 0 else fld s (Reg.TIME_CMP_CFG_LATE n)) * 2 ^ 5 + bitsOf v 8 8 * 2 ^ 8 +
    (if !flag s (Reg.TIME_CMP_CFG_EN n) && bitOf v 0 then 0 else fld s (Reg.TIME_CMP_CFG_FIRED n)) * 2 ^ 16

/-- A unit that is armed: its configuration, and the firings it is behind. -/
theorem cmpCfgWrite_arms {n v : Nat} {s : State} (h : flag s (Reg.TIME_CMP_CFG_EN n) = false) (hv : bitOf v 0 = true) :
    ∃ k, cmpCfgWrite n v s = cmpLate n (k + 1) (setReg s (Reg.TIME_CMP_CFG n) (BitVec.ofNat 64 (cmpWord n v s))) := by
  have ha : (!flag s (Reg.TIME_CMP_CFG_EN n) && bitOf v 0) = true := by rw [h, hv]; rfl
  rw [cmpCfgWrite, if_pos ha, cmpBehind]
  exact ⟨_, rfl⟩

section Armed

variable {n : Nat} {v : Nat} {s : State}

theorem late_lt (x : Nat) (n : Nat) (s : State) : (if bitOf x 5 then 0 else fld s (Reg.TIME_CMP_CFG_LATE n)) < 2 := by
  have h : fld s (Reg.TIME_CMP_CFG_LATE n) < 2 := fld_lt s (Reg.TIME_CMP_CFG_LATE n)
  split
  · decide
  · exact h

theorem cmpWord_armed (h : flag s (Reg.TIME_CMP_CFG_EN n) = false) (hv : bitOf v 0 = true) :
    ∃ l, l < 2 ∧ cmpWord n v s = v % 32 + l * 32 + v / 256 % 256 * 256 := by
  have ha : (!flag s (Reg.TIME_CMP_CFG_EN n) && bitOf v 0) = true := by rw [h, hv]; rfl
  refine ⟨_, late_lt v n s, ?_⟩
  simp [cmpWord, ha, bitsOf]

/-- The fields of a unit that has been armed. -/
theorem fld_armed (h : flag s (Reg.TIME_CMP_CFG_EN n) = false) (hv : bitOf v 0 = true) :
    let u := setReg s (Reg.TIME_CMP_CFG n) (BitVec.ofNat 64 (cmpWord n v s))
    fld u (Reg.TIME_CMP_CFG_EN n) = 1 ∧ fld u (Reg.TIME_CMP_CFG_FIRED n) = 0 ∧ fld u (Reg.TIME_CMP_CFG_BASE n) = bitsOf v 1 2 := by
  obtain ⟨l, hl, hw⟩ := cmpWord_armed h hv
  have hb : v % 2 = 1 := by simpa [bitOf_eq, bitsOf] using hv
  intro u
  simp only [u, fld, reg_setReg_same, hw, BitVec.toNat_ofNat, bitsOf, Nat.reducePow, Nat.reduceSub, Nat.reduceAdd, Nat.div_one]
  omega

theorem cmpPast_armed (h : flag s (Reg.TIME_CMP_CFG_EN n) = false) (hv : bitOf v 0 = true) :
    cmpPast (setReg s (Reg.TIME_CMP_CFG n) (BitVec.ofNat 64 (cmpWord n v s))) n =
      decide (0 < sdiff 64 (countOf s (bitsOf v 1 2)) (cmpTarget s n)) := by
  obtain ⟨he, -, hb⟩ := fld_armed h hv
  have ht : cmpTarget (setReg s (Reg.TIME_CMP_CFG n) (BitVec.ofNat 64 (cmpWord n v s))) n = cmpTarget s n := by
    rw [cmpTarget, reg_setReg_ne _ _ (target_ne_cfg n).symm, cmpTarget]
  rw [cmpPast, flag, he, hb, ht]
  simp only [decide_true, Bool.true_and, countOf, totalOf, setReg_time]
  rfl

theorem compareArm_effect (hn : n < 8) (h : flag s (Reg.TIME_CMP_CFG_EN n) = false) (hv : bitOf v 0 = true) :
    Moves timeReg s (cmpCfgWrite n v s) ∧
    if decide (0 < sdiff 64 (countOf s (bitsOf v 1 2)) (cmpTarget s n)) then
      Ember evTimeCompare (cmpCfgWrite n v s) ∧ flag (cmpCfgWrite n v s) (Reg.TIME_CMP_CFG_LATE n) = true
    else flag (cmpCfgWrite n v s) (Reg.TIME_CMP_CFG_EN n) = true ∧ fld (cmpCfgWrite n v s) (Reg.TIME_CMP_CFG_FIRED n) = 0 := by
  obtain ⟨k, hk⟩ := cmpCfgWrite_arms h hv
  have hset : Moves timeReg s (setReg s (Reg.TIME_CMP_CFG n) (BitVec.ofNat 64 (cmpWord n v s))) :=
    (moves_cmpReg s _ hn (.inl rfl)).mono fun _ => timeReg_cmp
  rw [hk, ← cmpPast_armed h hv]
  refine ⟨hset.trans ((moves_cmpLate hn _ _).mono fun _ => timeReg_cmp), ?_⟩
  split
  · next hp => exact cmpLate_past hn k hp
  · next hp =>
    obtain ⟨he, hf, -⟩ := fld_armed h hv
    rw [cmpLate_ahead _ _ (Bool.not_eq_true _ ▸ hp)]
    exact ⟨decide_eq_true he, hf⟩

end Armed

/-! ### The handover's end (R453) -/

theorem handEnded_effect (s : State) : handD (handEnded s) = 0 ∧ flag (handEnded s) Reg.TIME_TICK_CTRL_HANDOVER = false := by
  have hreg : reg (handEnded s) Reg.TIME_HANDOVER = 0 := by
    rw [handEnded, (moves_fixTb3 _).reg_eq (not_copyReg (.inl (by decide))), setHandD, reg_setFld_ne _ _ (by decide), reg_setReg_same]
    rfl
  refine ⟨by rw [handD, hreg]; rfl, ?_⟩
  rw [flag, handEnded, (moves_fixTb3 _).fld_eq (not_copyReg (.inl (by decide))), setHandD, fld_setFld_self _ _ (by decide)]
  rfl

/-- Settles O28. -/
theorem timeWritesTakeEffect : Obligations.TimeWritesTakeEffect := by
  unfold Obligations.TimeWritesTakeEffect
  intro s hs
  have hdark : ∀ h : isDark s = true, isLit (freshWrite s) = false := fun h => Bool.not_eq_true' _ ▸ h
  refine ⟨fun sel hd => ?_, fun t0 hd => ?_, fun src hd h3 => ?_, fun ns hd => ?_, fun n cfg hn he hv => ?_, fun n hn he => ?_, ?_⟩
  · obtain ⟨hm, hv⟩ := selWrite_effect sel.isLt (hdark hd)
    exact completes_doneWrite rfl (hm.settled (settled_freshWrite hs)) fun t ht => (ht.fld_eq id).trans hv
  · obtain ⟨hm, hv⟩ := t0Write_effect t0 (hdark hd)
    exact completes_doneWrite rfl (hm.settled (settled_freshWrite hs)) fun t ht => (ht.regs _ id).trans hv
  · obtain ⟨hm, hv⟩ := tb3SrcWrite_effect (v := src.toNat) (by have := src.isLt; omega) (hdark hd)
    exact completes_doneWrite rfl (hm.settled (settled_freshWrite hs)) fun t ht => (ht.fld_eq id).trans hv
  · obtain ⟨hm, he, hv⟩ := tb0Step_effect (s := freshWrite s) ns.toNat hd
    refine completes_doneWrite rfl (hm.settled (settled_freshWrite hs)) fun t ht => ⟨?_, Ember.of_changes he ht⟩
    rw [totalOf, show t.time = _ from ht.frame .time List.not_mem_nil]
    exact hv
  · obtain ⟨hm, hv⟩ := compareArm_effect (s := freshWrite s) hn he hv
    have hx : exec (.compareArm n cfg) s = doneWrite (fun s => if n < 8 then cmpCfgWrite n cfg.toNat s else s) s := rfl
    refine completes_write hx (if_pos hn) (hm.settled (settled_freshWrite hs)) fun t ht => ?_
    split
    · next hp =>
      rw [if_pos (by exact hp)] at hv
      rw [flag, ht.fld_eq id]
      exact ⟨Ember.of_changes hv.1 ht, hv.2⟩
    · next hp =>
      rw [if_neg (by exact hp)] at hv
      rw [flag, ht.fld_eq id, ht.fld_eq id]
      exact hv
  · obtain ⟨hm, hev, hc, hp⟩ := cmpFire_effect hn (fresh s)
    have hx : exec (.timeCompare n) s = done (fun s => if n < 8 ∧ flag s (Reg.TIME_CMP_CFG_EN n) then cmpFire false n s else s) s := rfl
    refine completes_to hx (if_pos ⟨hn, he⟩) (hm.settled (settled_fresh hs)) fun t ht => ?_
    refine ⟨Ember.of_changes hev ht, (ht.fld_eq id).trans hc, fun h => ?_⟩
    rw [flag, ht.fld_eq id]
    exact hp h
  · obtain ⟨hd, hf⟩ := handEnded_effect (fresh s)
    have hx : exec .handoverEnd s = done handEnded s := rfl
    refine completes_done hx ((moves_handEnded _).settled (settled_fresh hs)) fun t ht => ⟨?_, ?_⟩
    · rw [handD, ht.regs _ id]
      exact hd
    · rw [flag, ht.fld_eq id]
      exact hf

end Sys2Proof.Timing
end

section
/-! PROOFS. PTP messages and timeouts (R443 to R451). -/

namespace Sys2Proof.Timing

set_option Elab.async false

open Machine HostPort Stray

/-! ### A reference's offset acts on its base -/

theorem moves_setRun {w : Nat → Prop} (s : State) (b v : Nat) : Moves w s (setRun s b v) := moves_time s rfl ⟨rfl, rfl, rfl⟩

theorem moves_setSlewDir (s : State) {b : Nat} (v : Int) (hb : b < 4) : Moves (baseReg b) s (setSlewDir s b v) := by
  unfold setSlewDir
  exact Moves.trans (t := { s with time := { s.time with slew := tblSet 0 s.time.slew b v } }) (moves_time s rfl ⟨rfl, rfl, rfl⟩)
    (moves_baseFld _ _ hb (.inr (.inr (.inr rfl))))

theorem Moves.drew {w : Nat → Prop} {s t : State} (h : Moves w s t) : Moves w s (drew t) := h.trans (moves_drew t)

theorem Moves.tbState {b : Nat} {s t : State} (v : Nat) (hb : b < 4) (h : Moves (baseReg b) s t) : Moves (baseReg b) s (setTbState t b v) :=
  h.trans (moves_setTbState t v hb)

theorem Moves.time {w : Nat → Prop} {s t : State} {x : TimeState} (h : Moves w s t) (hp : x.ptp = t.time.ptp)
    (hs : x.syncPrev = t.time.syncPrev ∧ x.syncGood = t.time.syncGood ∧ x.syncBad = t.time.syncBad) : Moves w s { t with time := x } :=
  h.trans (moves_time t hp hs)

theorem moves_servoRate {w : Nat → Prop} (b : Nat) (s : State) : Moves w s (servoRate b s) :=
  Moves.drew (moves_time s rfl ⟨rfl, rfl, rfl⟩)

theorem moves_fixRate {b : Nat} (hb : b < 4) (s : State) : Moves (stepReg b) s (fixRate b s) :=
  ((moves_baseFld s _ hb (.inr (.inr (.inl rfl)))).mono fun _ => .inl).trans ((moves_fixSteer _).mono fun _ h => .inr (.inl h))

theorem moves_lockCount {b : Nat} (hb : b < 4) (off : Int) (limit : Nat) (s : State) : Moves (baseReg b) s (lockCount b off limit s) := by
  unfold lockCount
  extract_lets n s1
  have h1 : Moves (baseReg b) s s1 := moves_setRun s b n
  clear_value n s1
  split
  · exact Moves.tbState _ hb (h1.time rfl ⟨rfl, rfl, rfl⟩)
  · exact h1

/-- What follows the record of an offset. -/
def offsetActs (b : Nat) (off : Int) (limit cause : Nat) (s : State) : State :=
  let s := if tbState s b = tbLocked then s else setTbState s b tbAcquiring
  let s := lockCount b off limit s
  let s :=
    if stepLimit s ≤ off.natAbs then
      if drivesTicks s b && isLit s then setSlewDir s b (if off < 0 then -1 else 1)
      else stepBase b (off * 2 ^ 24) cause (setSlewDir s b 0)
    else servoRate b (setSlewDir s b 0)
  fixTb3 (fixRate b s)

theorem offsetSeen_eq (b : Nat) (off : Int) (limit cause : Nat) (s : State) : offsetSeen b off limit cause s =
    offsetActs b off limit cause (setReg s (Reg.TIME_TB_OFFSET b) (BitVec.ofNat 64 (ofSigned 64 off))) := rfl

theorem moves_offsetActs {b : Nat} (hb : b < 4) (off : Int) (limit cause : Nat) (s : State) :
    Moves (stepReg b) s (offsetActs b off limit cause s) := by
  have hbase : ∀ {t u : State}, Moves (baseReg b) t u → Moves (stepReg b) t u := fun h => h.mono fun _ => .inl
  unfold offsetActs
  extract_lets s1 s2 s3
  have h1 : Moves (stepReg b) s s1 := by
    simp only [s1]
    split
    · exact .refl s
    · exact hbase (moves_setTbState s _ hb)
  clear_value s1
  have h2 : Moves (stepReg b) s s2 := h1.trans (hbase (moves_lockCount hb _ _ s1))
  clear_value s2
  have h3 : Moves (stepReg b) s s3 := by
    simp only [s3]
    split
    · split
      · exact h2.trans (hbase (moves_setSlewDir s2 _ hb))
      · exact (h2.trans (hbase (moves_setSlewDir s2 0 hb))).trans (moves_stepBase hb _ _ _)
    · exact (h2.trans (hbase (moves_setSlewDir s2 0 hb))).trans (moves_servoRate b _)
  exact (h3.trans (moves_fixRate hb s3)).trans ((moves_fixTb3 _).mono fun _ h => .inr (.inl h))

theorem timeReg_step {b o : Nat} (hb : b < 4) (h : stepReg b o) : timeReg o := by
  rcases h with h | h | h
  · exact timeReg_base hb h
  · exact timeReg_copy h
  · exact timeReg_sweep h

theorem moves_offset (s : State) {b : Nat} (v : DWord) (hb : b < 4) : Moves timeReg s (setReg s (Reg.TIME_TB_OFFSET b) v) :=
  moves_setReg s v (by simp only [Reg.TIME_TB_OFFSET]; omega) (by simp only [Reg.TIME_TB_OFFSET]; omega)
    (.inl (by simp only [Reg.TIME_TB_OFFSET]; omega))

theorem moves_offsetSeen {b : Nat} (hb : b < 4) (off : Int) (limit cause : Nat) (s : State) :
    Moves timeReg s (offsetSeen b off limit cause s) := by
  rw [offsetSeen_eq]
  exact (moves_offset s _ hb).trans ((moves_offsetActs hb _ _ _ _).mono fun _ => timeReg_step hb)

theorem not_stepReg_offset {b : Nat} (hb : b < 3) : ¬ stepReg b (Reg.TIME_TB_OFFSET b) := by
  rintro (h | h | h)
  · simp only [baseReg, Reg.TIME_TB_NOW, Reg.TIME_TB_SEC, Reg.TIME_TB_RATE, Reg.TIME_TB_STAT, Reg.TIME_TB_OFFSET] at h
    omega
  · exact not_copyReg (.inl (by simp only [Reg.TIME_TB_OFFSET]; omega)) h
  · exact not_sweepReg (by simp only [Reg.TIME_TB_OFFSET]; omega) (by simp only [Reg.TIME_TB_OFFSET]; omega)
      (by simp only [Reg.TIME_TB_OFFSET, Reg.TIME_TICK_STAT]; omega) h

theorem reg_offsetSeen {b : Nat} (hb : b < 3) (off : Int) (limit cause : Nat) (s : State) :
    reg (offsetSeen b off limit cause s) (Reg.TIME_TB_OFFSET b) = BitVec.ofNat 64 (ofSigned 64 off) := by
  rw [offsetSeen_eq, (moves_offsetActs (by omega) _ _ _ _).reg_eq (not_stepReg_offset hb), reg_setReg_same]

/-! ### A base loses its reference -/

/-- The records of a base without its reference. -/
def refDropped (b : Nat) (s : State) : State :=
  let s := setTbState s b (if b ∈ s.time.locked ∨ b = 3 then tbHoldover else tbFree)
  let s := setRun s b 0
  let own := rateOf s b - (if b = 3 ∧ !tb3Copies s then s.chain.slew else 0)
  setFld { s with time := { s.time with servo := tblSet 0 s.time.servo b own, slew := tblSet 0 s.time.slew b 0 } }
    (Reg.TIME_TB_STAT_SLEWING b) 0

/-- With AUTO_SWITCH the other domain's base takes over where it is locked. -/
def refSwitched (b : Nat) (s : State) : State :=
  if flag s Reg.TIME_CFG_AUTO_SWITCH && decide (sourceBase s = some b) && decide (tbState s b = tbHoldover) &&
      decide (tbState s (3 - b) = tbLocked) then switchTo (3 - b) 1 s else s

theorem refLost_eq (b : Nat) (s : State) : refLost b s =
    if decide (tbState s b = tbLocked) || decide (tbState s b = tbAcquiring) || decide (b = 3) then
      refSwitched b (fixTb3 (refDropped b s)) else s := rfl

theorem refSwitched_cases (b : Nat) (s : State) : refSwitched b s = s ∨ refSwitched b s = switchTo (3 - b) 1 s := by
  unfold refSwitched
  split
  · exact .inr rfl
  · exact .inl rfl

theorem moves_refDropped {b : Nat} (hb : b < 4) (s : State) : Moves (baseReg b) s (refDropped b s) := by
  unfold refDropped
  extract_lets s1 s2 own
  have h2 : Moves (baseReg b) s s2 := (moves_setTbState s _ hb).trans (moves_setRun _ b 0)
  clear_value s2
  have h3 : Moves (baseReg b) s { s2 with time := { s2.time with servo := tblSet 0 s2.time.servo b own, slew := tblSet 0 s2.time.slew b 0 } } :=
    h2.time rfl ⟨rfl, rfl, rfl⟩
  exact h3.trans (moves_baseFld _ 0 hb (.inr (.inr (.inr rfl))))

theorem moves_refLost {b : Nat} (hb : b < 4) (s : State) : Moves timeReg s (refLost b s) := by
  have h1 : Moves timeReg s (fixTb3 (refDropped b s)) :=
    ((moves_refDropped hb s).mono fun _ => timeReg_base hb).trans ((moves_fixTb3 _).mono fun _ => timeReg_copy)
  rw [refLost_eq]
  split
  · rcases refSwitched_cases b (fixTb3 (refDropped b s)) with h | h
    · rw [h]
      exact h1
    · rw [h]
      exact h1.trans (moves_switchTo _ _ _)
  · exact .refl s

theorem tbState_switchTo (k c : Nat) (s : State) {b : Nat} (hb : b < 3) : tbState (switchTo k c s) b = tbState s b := by
  have hap : apart (Reg.TIME_TB_STAT_STATE b) := by
    simp only [apart, Reg.TIME_TB_STAT, Reg.TIME_TICK_STAT, Reg.TIME_HANDOVER, Reg.TIME_TICK_CTRL]
    omega
  have hset : fld (setSource s k) (Reg.TIME_TB_STAT_STATE b) = fld s (Reg.TIME_TB_STAT_STATE b) := by
    unfold setSource
    extract_lets s1
    split
    · exact fld_setReg_ne s1 _ _ (by simp only [Reg.TIME_TB_STAT, Reg.TIME_CFG]; omega)
    · exact fld_setReg_ne s1 _ _ (by simp only [Reg.TIME_TB_STAT, Reg.TIME_TICK_CTRL]; omega)
  rcases switchTo_cases k c s with ⟨-, d, x, e⟩ | ⟨-, c1, c2, e⟩
  · have hh : ¬ handReg (Reg.TIME_TB_STAT_STATE b).off := by
      simp only [handReg, Reg.TIME_TB_STAT, Reg.TIME_HANDOVER, Reg.TIME_TICK_CTRL]
      omega
    rw [tbState, e, switchSlewed, hap.raise _ _ (by decide), (moves_fixTb3 _).fld_eq hap.copy, (moves_setHandD _ d).fld_eq hh, hset, tbState]
  · rw [tbState, e, fld_switchDone hap (by decide : 1 < 16), hset, tbState]

theorem tbState_refDropped {b : Nat} (hb : b < 3) (s : State) :
    tbState (refDropped b s) b = if b ∈ s.time.locked then tbHoldover else tbFree := by
  have h3 : ∀ c : Prop, (c ∨ b = 3) ↔ c := fun c => ⟨fun h => h.resolve_right (by omega), .inl⟩
  have hval : ∀ c : Prop, [Decidable c] → (if c then tbHoldover else tbFree) % 2 ^ (1 - 0 + 1) = if c then tbHoldover else tbFree := by
    intro c _
    split <;> rfl
  unfold refDropped
  extract_lets s1 s2 own
  rw [tbState, fld_setFld_ne _ (Reg.TIME_TB_STAT_SLEWING b) (Reg.TIME_TB_STAT_STATE b) 0 ⟨Nat.le_refl 2, (by decide : 2 < 64)⟩ (Nat.zero_le 1)
    (.inr (.inl (by decide : 1 < 2)))]
  show fld s1 (Reg.TIME_TB_STAT_STATE b) = _
  simp only [s1, setTbState, h3]
  exact (fld_setFld_self s _ (by decide)).trans (hval _)

theorem tbState_refLost {b : Nat} (hb : b < 3) {s : State} (h : tbState s b = tbLocked ∨ tbState s b = tbAcquiring) :
    tbState (refLost b s) b = if b ∈ s.time.locked then tbHoldover else tbFree := by
  have hc : (decide (tbState s b = tbLocked) || decide (tbState s b = tbAcquiring) || decide (b = 3)) = true := by simp [h]
  have hfix : tbState (fixTb3 (refDropped b s)) b = if b ∈ s.time.locked then tbHoldover else tbFree := by
    rw [tbState, (moves_fixTb3 _).fld_eq (not_copyReg (.inl (by simp only [Reg.TIME_TB_STAT]; omega))), ← tbState, tbState_refDropped hb]
  rw [refLost_eq, if_pos hc]
  rcases refSwitched_cases b (fixTb3 (refDropped b s)) with e | e
  · rw [e, hfix]
  · rw [e, tbState_switchTo _ _ _ hb, hfix]

/-! ### PTP messages -/

/-- What a PTP message or timeout may change. -/
theorem changes_setPtp (s : State) (d : Nat) (p : PtpState) : Changes tmParts timeReg s (setPtp s d p) :=
  ⟨(Whole.runs_time s _).frame.mono (by decide), fun _ _ => rfl, List.prefix_refl _⟩

theorem ptpOf_setPtp (s : State) (d : Nat) (p : PtpState) : ptpOf (setPtp s d p) d = p := tblGet_set_same _ _ _ _

theorem ptpOf_moves {w : Nat → Prop} {s t : State} (h : Moves w s t) (d : Nat) : ptpOf t d = ptpOf s d := by
  rw [ptpOf, h.ptp, ptpOf]

theorem ptpReg_range {d : Nat} (hd : d < 2) : 0x390000 ≤ Reg.TIME_PTP_CFG d ∧ Reg.TIME_PTP_CFG d + 0x20 < 0x3905A0 := by
  simp only [Reg.TIME_PTP_CFG]
  omega

end Sys2Proof.Timing
end

section
/-! PROOFS. O29: PTP messages and timeouts act on their bases (R449 to R451). -/

namespace Sys2Proof.Timing

set_option Elab.async false

open Machine HostPort Stray

/-! ### The domains' registers -/

theorem moves_ptpReg (s : State) {o : Nat} (v : DWord) (h : 0x390500 ≤ o ∧ o < 0x3905A0) : Moves timeReg s (setReg s o v) :=
  moves_setReg s v (by omega) (by omega) (.inl (by omega))

theorem ptpRegs_range {d : Nat} (hd : d < 2) : (0x390500 ≤ Reg.TIME_PTP_CNT d ∧ Reg.TIME_PTP_CNT d < 0x3905A0) ∧
    (0x390500 ≤ Reg.TIME_PTP_STAT d ∧ Reg.TIME_PTP_STAT d < 0x3905A0) ∧ (0x390500 ≤ Reg.TIME_PTP_GM d ∧ Reg.TIME_PTP_GM d < 0x3905A0) := by
  simp only [Reg.TIME_PTP_CNT, Reg.TIME_PTP_STAT, Reg.TIME_PTP_GM]
  omega

theorem ptpRegs_distinct (d : Nat) : Reg.TIME_PTP_CNT d ≠ Reg.TIME_PTP_STAT d ∧ Reg.TIME_PTP_CNT d ≠ Reg.TIME_PTP_GM d := by
  simp only [Reg.TIME_PTP_CNT, Reg.TIME_PTP_STAT, Reg.TIME_PTP_GM]
  omega

/-- What the record of an offset of base `b` and what follows may write. -/
def offReg (b o : Nat) : Prop := o = Reg.TIME_TB_OFFSET b ∨ stepReg b o

theorem moves_offsetRegs {b : Nat} (hb : b < 4) (off : Int) (limit cause : Nat) (s : State) :
    Moves (offReg b) s (offsetSeen b off limit cause s) := by
  rw [offsetSeen_eq]
  refine Moves.trans (moves_setReg s _ ?_ ?_ (.inl rfl)) ((moves_offsetActs hb _ _ _ _).mono fun _ => .inr)
  · simp only [Reg.TIME_TB_OFFSET]
    omega
  · simp only [Reg.TIME_TB_OFFSET]
    omega

theorem not_offReg_ptp {b o : Nat} (hb : b < 4) (h : 0x390500 ≤ o ∧ o < 0x3905A0) : ¬ offReg b o := by
  rintro (e | e | e | e | ⟨e1, e2⟩ | e)
  · simp only [Reg.TIME_TB_OFFSET] at e
    omega
  · have := baseReg_range hb e
    omega
  · exact not_copyReg (.inr (by omega)) e
  · simp only [Reg.TIME_TICK_STAT] at e
    omega
  · omega
  · exact not_eventReg_time (by omega) (by omega) e

/-- A domain's state is what the time unit's own state says. -/
theorem ptpOf_congr {s t : State} (h : t.time = s.time) (d : Nat) : ptpOf t d = ptpOf s d := by rw [ptpOf, h, ptpOf]

/-! ### Messages -/

/-- A message to a domain while the client runs completes with its effect. -/
theorem completes_ptp {c : Instr} {d : Nat} {f : State → State} {s : State} {P : State → Prop} (hd : d < 2) (hr : ptpRuns s = true)
    (hx : exec c s = done (fun s => if d < 2 ∧ ptpRuns s then f s else s) s) (hs : s.settled)
    (hc : Changes tmParts timeReg (fresh s) (f (fresh s)))
    (hP : ∀ t, (∀ o, reg t o = reg (f (fresh s)) o) → t.time = (f (fresh s)).time → (∀ e ∈ (f (fresh s)).out, Sent e t) → P t) :
    Completes c s P :=
  completes_to hx (if_pos ⟨hd, hr⟩) (settled_of_frame hc.frame (by decide) (settled_fresh hs)) fun t ht =>
    hP t (fun o => ht.regs o id) (ht.frame .time List.not_mem_nil) fun _ he => ht.sent he

/-- The counts and the offset's record, once an offset has been judged. -/
def ptpJudged (d : Nat) (ms : Int) (s : State) : State :=
  let p := ptpOf s d
  offsetSeen (d + 1) (p.mpd - ms) (200 * 65536) 1 (incSat (setPtp s d { p with wait := none, ms := some ms }) (Reg.TIME_PTP_CNT_SYNC d) 1)

theorem ptpOffset_eq (d : Nat) (rx : Int) (origin : Nat) (corr : Int) (s : State) : ptpOffset d rx origin corr s =
    (let t := ptpJudged d (wrapDiff (rx - ((origin * 65536 : Nat) : Int) - corr)) s
    if tbState t (d + 1) = tbLocked then setFld t (Reg.TIME_PTP_STAT_PORT_STATE d) 9 else t) := rfl

/-- From `s` to `t` an offset `ms` of domain `d` has been judged. -/
structure Judged (d : Nat) (ms : Int) (s t : State) : Prop where
  changes : Changes tmParts timeReg s t
  ptp : ptpOf t d = { ptpOf s d with wait := none, ms := some ms }
  counted : Counted (Reg.TIME_PTP_CNT_SYNC d) s t
  offset : reg t (Reg.TIME_TB_OFFSET (d + 1)) = BitVec.ofNat 64 (ofSigned 64 ((ptpOf s d).mpd - ms))

theorem judged_ptpJudged {d : Nat} (hd : d < 2) (ms : Int) (s : State) : Judged d ms s (ptpJudged d ms s) := by
  obtain ⟨hcnt, -, -⟩ := ptpRegs_range hd
  have hoff := moves_offsetSeen (b := d + 1) (by omega) ((ptpOf s d).mpd - ms) (200 * 65536) 1
    (incSat (setPtp s d { ptpOf s d with wait := none, ms := some ms }) (Reg.TIME_PTP_CNT_SYNC d) 1)
  refine ⟨((changes_setPtp s d _).trans (moves_ptpReg _ _ hcnt).changes).trans hoff.changes, ?_, ?_, reg_offsetSeen (by omega) _ _ _ _⟩
  · exact (ptpOf_moves hoff d).trans ((ptpOf_congr (incSat_time _ _ _) d).trans (ptpOf_setPtp s d _))
  · rw [Counted, ptpJudged, (moves_offsetRegs (b := d + 1) (by omega) _ _ _ _).fld_eq (not_offReg_ptp (by omega) hcnt),
      fld_incSat _ _ 1 ⟨(by decide : 0 ≤ 31), (by decide : 31 < 64)⟩]
    rfl

theorem judged_ptpOffset {d : Nat} (hd : d < 2) (rx : Int) (origin : Nat) (corr : Int) (s : State) :
    Judged d (wrapDiff (rx - ((origin * 65536 : Nat) : Int) - corr)) s (ptpOffset d rx origin corr s) := by
  rw [ptpOffset_eq]
  have h := judged_ptpJudged hd (wrapDiff (rx - ((origin * 65536 : Nat) : Int) - corr)) s
  generalize wrapDiff (rx - ((origin * 65536 : Nat) : Int) - corr) = ms at h ⊢
  obtain ⟨-, hstat, -⟩ := ptpRegs_range hd
  dsimp only
  split
  · obtain ⟨hc, hp, hn, ho⟩ := h
    refine ⟨hc.trans (moves_ptpReg _ _ hstat).changes, (ptpOf_congr (setFld_time _ _ _) d).trans hp, ?_, ?_⟩
    · rw [Counted]
      exact (fld_setReg_ne _ _ _ (ptpRegs_distinct d).1).trans hn
    · rw [reg_setFld_ne _ _ (by simp only [Reg.TIME_TB_OFFSET, Reg.TIME_PTP_STAT]; omega)]
      exact ho
  · exact h

/-- What is judged of the state in which a command begins holds of the state it leads to. -/
theorem Judged.after {d : Nat} {ms : Int} {s u t : State} (h : Judged d ms (fresh s) u) (hr : ∀ o, reg t o = reg u o) (ht : t.time = u.time) :
    (ptpOf t d).ms = some ms ∧ (ptpOf t d).wait = none ∧ Counted (Reg.TIME_PTP_CNT_SYNC d) s t ∧
    reg t (Reg.TIME_TB_OFFSET (d + 1)) = BitVec.ofNat 64 (ofSigned 64 ((ptpOf s d).mpd - ms)) := by
  have hp := (ptpOf_congr ht d).trans h.ptp
  exact ⟨by rw [hp], by rw [hp], (fld_congr_reg (hr _)).trans h.counted, (hr _).trans h.offset⟩

/-! ### Masters -/

theorem not_timeLost {b o : Nat} (hb : b < 4) (h : 0x390500 ≤ o ∧ o < 0x3905A0) (s : State) : reg (refLost b s) o = reg s o := by
  have hcopy : ¬ copyReg o := not_copyReg (.inr (by omega))
  have hdrop : reg (fixTb3 (refDropped b s)) o = reg s o := by
    rw [(moves_fixTb3 _).reg_eq hcopy, (moves_refDropped hb s).reg_eq fun e => by have := baseReg_range hb e; omega]
  have hswitch : ∀ k c t, reg (switchTo k c t) o = reg t o := fun k c t => by
    have hset : reg (setSource t k) o = reg t o := by
      unfold setSource
      extract_lets s1
      split
      · exact reg_setReg_ne s1 _ (by simp only [Reg.TIME_CFG]; omega)
      · exact reg_setReg_ne s1 _ (by simp only [Reg.TIME_TICK_CTRL]; omega)
    have hev : ¬ eventReg o := not_eventReg_time (by omega) (by omega)
    have hhand : ¬ handReg o := by simp only [handReg, Reg.TIME_HANDOVER, Reg.TIME_TICK_CTRL]; omega
    have hraise : ∀ (src : Nat) (cs : List Cap) (u : State), src < 256 → reg (raise src cs u) o = reg u o := fun src cs u hs =>
      (moves_raise (w := eventReg) cs u hs fun _ => id).reg_eq hev
    rcases switchTo_cases k c t with ⟨-, d, x, e⟩ | ⟨-, c1, c2, e⟩
    · rw [e, switchSlewed, hraise _ _ _ (by decide), (moves_fixTb3 _).reg_eq hcopy, (moves_setHandD _ d).reg_eq hhand, hset]
    · have hsweep : ¬ sweepReg o := fun h => h.elim (by simp only [Reg.TIME_TICK_STAT]; omega) fun h => h.elim (by omega) hev
      rw [e, switchDone, (moves_resweep _).reg_eq hsweep, hraise _ _ _ (by decide), incSat, reg_setFld_ne _ _ ?_, hraise _ _ _ (by decide), Timing.handEnded,
        (moves_fixTb3 _).reg_eq hcopy, (moves_setHandD _ 0).reg_eq hhand, hset]
      have := selBase_lt (raise evTimeSwitch c1 (Timing.handEnded (setSource t k)))
      simp only [Reg.TIME_TB_STAT]
      omega
  rw [refLost_eq]
  split
  · rcases refSwitched_cases b (fixTb3 (refDropped b s)) with e | e
    · rw [e, hdrop]
    · rw [e, hswitch, hdrop]
  · rfl

/-- The choice of a master keeps those that are known, and the domain's counts. -/
theorem selectMaster_effect {d : Nat} (hd : d < 2) (s : State) : Changes tmParts timeReg s (selectMaster d s) ∧
    (ptpOf (selectMaster d s) d).masters = (ptpOf s d).masters ∧ reg (selectMaster d s) (Reg.TIME_PTP_CNT d) = reg s (Reg.TIME_PTP_CNT d) := by
  obtain ⟨hcnt, hstat, hgm⟩ := ptpRegs_range hd
  obtain ⟨hs, hg⟩ := ptpRegs_distinct d
  unfold selectMaster
  extract_lets p
  split
  · have hlost := moves_refLost (b := d + 1) (by omega)
      (setFld (setPtp s d { p with sel := none, wait := none, ms := none }) (Reg.TIME_PTP_STAT_PORT_STATE d) 4)
    refine ⟨((changes_setPtp s d _).trans (moves_ptpReg _ _ hstat).changes).trans hlost.changes, ?_, ?_⟩
    · rw [ptpOf_moves hlost, ptpOf_congr (setFld_time _ _ _), ptpOf_setPtp]
    · rw [not_timeLost (by omega) hcnt, reg_setFld_ne _ _ hs]
      rfl
  · next f _ =>
    extract_lets s1
    have h1 : Moves timeReg s s1 := (moves_ptpReg s _ hgm).trans (moves_ptpReg _ _ hstat)
    have hr : reg s1 (Reg.TIME_PTP_CNT d) = reg s (Reg.TIME_PTP_CNT d) := (reg_setFld_ne _ _ hs).trans (reg_setReg_ne _ _ hg)
    have ht : ptpOf s1 d = p := ptpOf_moves h1 d
    clear_value s1
    split
    · exact ⟨h1.changes, by rw [ht], hr⟩
    · refine ⟨(h1.changes.trans (changes_setPtp s1 d _)).trans (moves_ptpReg _ _ hstat).changes, ?_, (reg_setFld_ne _ _ hs).trans hr⟩
      rw [ptpOf_congr (setFld_time _ _ _), ptpOf_setPtp]

theorem announceSeen_effect {d : Nat} (hd : d < 2) {m : AnnounceMsg} (hm : m.steps.toNat < 255) (s : State) :
    Changes tmParts timeReg s (announceSeen d m s) ∧ ∃ n, (⟨m.master, m, n⟩ : Foreign) ∈ (ptpOf (announceSeen d m s) d).masters := by
  unfold announceSeen
  rw [if_neg (by omega)]
  extract_lets p n l s1
  have hl : (ptpOf s1 d).masters = l := by rw [ptpOf_setPtp]
  have h1 : Changes tmParts timeReg s s1 := changes_setPtp s d _
  have hmem : (⟨m.master, m, min 2 (n + 1)⟩ : Foreign) ∈ l := List.mem_cons_self
  clear_value s1 l
  split
  · obtain ⟨hc, hk, -⟩ := selectMaster_effect hd s1
    exact ⟨h1.trans hc, _, by rw [hk, hl]; exact hmem⟩
  · exact ⟨h1, _, by rw [hl]; exact hmem⟩

theorem announceTimeout_effect {d : Nat} (hd : d < 2) (s : State) : Changes tmParts timeReg s (announceTimeout d s) ∧
    Counted (Reg.TIME_PTP_CNT_TIMEOUT d) s (announceTimeout d s) ∧
    ∀ f, f ∈ (ptpOf (announceTimeout d s) d).masters → some f.master ≠ (ptpOf s d).sel := by
  obtain ⟨hcnt, -, -⟩ := ptpRegs_range hd
  unfold announceTimeout
  extract_lets p l
  obtain ⟨hc, hk, hr⟩ := selectMaster_effect hd (incSat (setPtp s d { p with masters := l }) (Reg.TIME_PTP_CNT_TIMEOUT d) 1)
  refine ⟨((changes_setPtp s d _).trans (moves_ptpReg _ _ hcnt).changes).trans hc, ?_, fun f hf => ?_⟩
  · rw [Counted, fld_congr_reg hr, fld_incSat _ _ 1 ⟨(by decide : 32 ≤ 47), (by decide : 47 < 64)⟩]
    rfl
  · rw [hk, ptpOf_congr (incSat_time _ _ _), ptpOf_setPtp] at hf
    exact of_decide_eq_true (List.mem_filter.1 hf).2

/-- A Pdelay_Resp that was asked for. -/
theorem delayResp_effect {d : Nat} (hd : d < 2) {m : DelayRespMsg} {s : State} (hq : (ptpOf s d).asked = some m.seq.toNat)
    (hp : flag s (Reg.TIME_PTP_CFG_P2P d) = true) : Changes tmParts timeReg s (delayRespSeen d m s) ∧
    (ptpOf (delayRespSeen d m s) d).mpd = wrapDiff (rxStamp s m.t4 - txStamp s m.t3 - m.corr) / 2 ∧
    (ptpOf (delayRespSeen d m s) d).asked = none := by
  obtain ⟨-, hstat, -⟩ := ptpRegs_range hd
  rw [delayRespSeen, if_neg (by rw [hq]; simp), if_pos hp, setMpd]
  refine ⟨(changes_setPtp s d _).trans (moves_ptpReg _ _ hstat).changes, ?_, ?_⟩
  · rw [ptpOf_congr (setSat_time _ _ _), ptpOf_setPtp]
  · rw [ptpOf_congr (setSat_time _ _ _), ptpOf_setPtp]

/-- A request that goes out to the master or the peer. -/
theorem delayReqTimer_effect {d : Nat} {s : State} (h : flag s (Reg.TIME_PTP_CFG_P2P d) = true ∨ (ptpOf s d).sel ≠ none) :
    delayReqTimer d s = emit (setPtp s d { ptpOf s d with seq := ((ptpOf s d).seq + 1) % 65536, asked := some (((ptpOf s d).seq + 1) % 65536) })
      (.ptp d (if flag s (Reg.TIME_PTP_CFG_P2P d) then ptpPdelayReqKind else ptpDelayReqKind) (((ptpOf s d).seq + 1) % 65536) 0) := by
  rw [delayReqTimer]
  dsimp only
  split
  · rfl
  · next hp => rw [if_pos (Option.isSome_iff_ne_none.2 (h.resolve_left hp))]

theorem exec_sync (d : Nat) (m : SyncMsg) (s : State) :
    exec (.ptpSync d m) s = done (fun s => if d < 2 ∧ ptpRuns s then ptpSync d m s else s) s := rfl

theorem ptpSync_oneStep {d : Nat} {m : SyncMsg} {s : State} (hm : (ptpOf s d).sel = some m.master) (h : m.twoStep = false) :
    ptpSync d m s = ptpOffset d (rxStamp s m.rx) m.origin m.corr s := by
  rw [ptpSync, if_neg (by rw [hm]; simp), h, if_neg Bool.false_ne_true]

theorem ptpSync_twoStep {d : Nat} {m : SyncMsg} {s : State} (hm : (ptpOf s d).sel = some m.master) (h : m.twoStep = true) :
    ptpSync d m s = setPtp s d { ptpOf s d with wait := some (m.master, m.seq.toNat, rxStamp s m.rx, m.corr) } := by
  rw [ptpSync, if_neg (by rw [hm]; simp), if_pos h]

theorem ptpFollowUp_of {d : Nat} {m : FollowUpMsg} {rx c : Int} {s : State} (h : (ptpOf s d).wait = some (m.master, m.seq.toNat, rx, c)) :
    ptpFollowUp d m s = ptpOffset d rx m.origin (c + m.corr) s := by
  rw [ptpFollowUp, h]
  dsimp only
  rw [if_pos ⟨rfl, rfl⟩]

/-- An ARP request for the port's own address. -/
theorem completes_arp {s : State} (hs : s.settled) (hr : ptpRuns s = true) :
    Completes (.arpRequest (BitVec.ofNat 32 (fld s Reg.TIME_PTP_PORT_IPV4))) s (Sent (.arp (fld s Reg.TIME_PTP_PORT_IPV4))) := by
  have hx : ∀ a : Word, exec (.arpRequest a) s =
      done (fun s => if ptpRuns s ∧ a.toNat = fld s Reg.TIME_PTP_PORT_IPV4 then emit s (.arp a.toNat) else s) s := fun _ => rfl
  have ha : (BitVec.ofNat 32 (fld s Reg.TIME_PTP_PORT_IPV4)).toNat = fld s Reg.TIME_PTP_PORT_IPV4 :=
    (BitVec.toNat_ofNat _ _).trans (Nat.mod_eq_of_lt (fld_lt s Reg.TIME_PTP_PORT_IPV4))
  refine completes_to (hx _) (if_pos ⟨hr, ha⟩) (settled_of_frame (frame_emit _ _) (by simp) (settled_fresh hs)) fun t ht => ht.sent ?_
  rw [ha]
  exact List.mem_append_right _ List.mem_cons_self

/-- Settles O29. -/
theorem timeBasesFollowTheirReferences : Obligations.TimeBasesFollowTheirReferences := by
  unfold Obligations.TimeBasesFollowTheirReferences
  intro s d hs hd
  obtain ⟨hcnt, -, -⟩ := ptpRegs_range hd
  refine ⟨fun m hr hm h1 => ?_, fun m hr hm h2 => ?_, fun m rx c hr hw => ?_, fun m hr hm => ?_, fun m hr hq hp => ?_, fun hr => ?_,
    fun hr => ?_, fun id seq rx tx hr hp => ?_, fun hr hor => ?_, ?_, fun ht => ?_⟩
  · have hj := judged_ptpOffset hd (rxStamp (fresh s) m.rx) m.origin m.corr (fresh s)
    rw [← ptpSync_oneStep (s := fresh s) hm h1] at hj
    refine completes_ptp hd hr (exec_sync d m s) hs hj.changes fun t hreg htime _ => ?_
    obtain ⟨hms, -, hn, ho⟩ := hj.after hreg htime
    exact ⟨hms, hn, ho⟩
  · have he := ptpSync_twoStep (s := fresh s) hm h2
    refine completes_ptp hd hr (exec_sync d m s) hs (by rw [he]; exact changes_setPtp _ d _) fun t _ htime _ => ?_
    rw [ptpOf_congr htime, he, ptpOf_setPtp]
    rfl
  · have hj := judged_ptpOffset hd rx m.origin (c + m.corr) (fresh s)
    rw [← ptpFollowUp_of (s := fresh s) hw] at hj
    refine completes_ptp hd hr (rfl : exec (.ptpFollowUp d m) s = done _ s) hs hj.changes fun t hreg htime _ => ?_
    obtain ⟨hms, hwt, -, ho⟩ := hj.after hreg htime
    exact ⟨hwt, hms, ho⟩
  · obtain ⟨hc, n, hn⟩ := announceSeen_effect hd hm (fresh s)
    refine completes_ptp hd hr (rfl : exec (.announce d m) s = done _ s) hs hc fun t _ htime _ => ⟨n, ?_⟩
    rw [ptpOf_congr htime]
    exact hn
  · obtain ⟨hc, hv, ha⟩ := delayResp_effect hd (s := fresh s) hq hp
    refine completes_ptp hd hr (rfl : exec (.ptpDelayResp d m) s = done _ s) hs hc fun t _ htime _ => ?_
    rw [ptpOf_congr htime]
    exact ⟨hv, ha⟩
  · refine completes_ptp hd hr (rfl : exec (.ptpIgnoredMessage d) s = done _ s) hs (moves_ptpReg _ _ hcnt).changes fun t hreg _ _ => ?_
    rw [Counted, fld_congr_reg (hreg _)]
    exact fld_incSat (fresh s) _ 1 ⟨(by decide : 48 ≤ 63), (by decide : 63 < 64)⟩
  · exact completes_arp hs hr
  · refine completes_ptp (f := pdelayReq d seq rx tx) hd hr rfl hs ?_ fun t _ _ hout => hout _ ?_
    · rw [pdelayReq, if_pos (by exact hp)]
      exact changes_emit _ _
    · rw [pdelayReq, if_pos (by exact hp)]
      exact List.mem_append_right _ List.mem_cons_self
  · have he := delayReqTimer_effect (s := fresh s) hor
    refine completes_ptp hd hr (rfl : exec (.ptpDelayReqTimer d) s = done _ s) hs ?_ fun t _ htime hout => ⟨?_, hout _ ?_⟩
    · rw [he]
      exact (changes_setPtp _ d _).trans (changes_emit _ _)
    · rw [ptpOf_congr htime, he, ptpOf_congr (emit_time _ _), ptpOf_setPtp]
      rfl
    · rw [he]
      exact List.mem_append_right _ List.mem_cons_self
  · obtain ⟨hc, hn, hm⟩ := announceTimeout_effect hd (fresh s)
    have hx : exec (.announceReceiptTimeout d) s = done (fun s => if d < 2 then announceTimeout d s else s) s := rfl
    refine completes_to hx (if_pos hd) (settled_of_frame hc.frame (by decide) (settled_fresh hs)) fun t ht => ⟨(ht.fld_eq id).trans hn, ?_⟩
    rw [ptpOf_congr (ht.frame .time List.not_mem_nil)]
    exact hm
  · have hx : exec (.syncTimeout d) s = done (fun s => if d < 2 then refLost (d + 1) s else s) s := rfl
    refine completes_to hx (if_pos hd) ((moves_refLost (by omega) _).settled (settled_fresh hs)) fun t htc => ?_
    rw [tbState, htc.fld_eq id]
    exact tbState_refLost (by omega) ht

end Sys2Proof.Timing
end

section
/-! PROOFS. O30: SYNC_IN is qualified (R443, R556). -/

namespace Sys2Proof.Timing

set_option Elab.async false

open Machine HostPort Stray

/-- The kinds of state that an edge of SYNC_IN or its loss may change. -/
def syncParts : List Part := [.inputs] ++ errParts ++ tmParts

theorem changes_anyReg (s : State) {o : Nat} (v : DWord) (h : 0x3E0000 ≤ o) (k : o < 0x400000) :
    Changes syncParts (fun _ => True) s (setReg s o v) :=
  changes_setReg s o v (by rw [blockOf_mgmt h k]; decide) trivial (by show o ≠ 0x18; omega)

theorem changes_inputs (s : State) (x : Tbl InputQual) : Changes syncParts (fun _ => True) s { s with inputs := x } :=
  changes_of_frame (fun p hq => by
    cases p <;> first | exact absurd (by decide) hq | exact fun _ _ _ => rfl | rfl | simp [Part.same]) rfl rfl

theorem changes_timeState (s : State) (x : TimeState) : Changes syncParts (fun _ => True) s { s with time := x } :=
  changes_of_frame (fun p hq => by
    cases p <;> first | exact absurd (by decide) hq | exact fun _ _ _ => rfl | rfl | simp [Part.same]) rfl rfl

theorem Moves.sync_changes {w : Nat → Prop} {s t : State} (h : Moves w s t) : Changes syncParts (fun _ => True) s t :=
  h.changes.mono (by decide) fun _ _ => trivial

/-- The fault as it is recorded and raised. -/
def faultRaised (i cause : Nat) (s : State) : State :=
  raiseErr unitMgmt 0 evInputFault cause [(8, i), (8, cause)]
    (setFld (setInput s i { inputOf s i with fault := some s.ns }) ⟨Reg.MGMT_IN_STAT, 7 + i, 7 + i⟩ 1)

theorem inputFault_cases (i cause : Nat) (s : State) :
    inputFault i cause s = faultRaised i cause s ∨ inputFault i cause s = s ∧ inputQuiet s i = false := by
  unfold inputFault
  extract_lets q recent s1
  by_cases hr : recent = true
  · rw [if_pos hr]
    refine .inr ⟨rfl, ?_⟩
    simp only [recent, q] at hr
    unfold inputQuiet
    cases hf : (inputOf s i).fault with
    | none => simp [hf] at hr
    | some x =>
      simp only [hf, decide_eq_true_eq] at hr
      simp only [decide_eq_false_iff_not]
      omega
  · rw [if_neg hr]
    exact .inl rfl

theorem changes_faultRaised {s : State} (hc : s.calm) (i cause : Nat) :
    Changes syncParts (fun _ => True) s (faultRaised i cause s) ∧ (faultRaised i cause s).time = s.time ∧
    Ember evInputFault (faultRaised i cause s) := by
  unfold faultRaised
  have h1 : Changes syncParts (fun _ => True) s
      (setFld (setInput s i { inputOf s i with fault := some s.ns }) ⟨Reg.MGMT_IN_STAT, 7 + i, 7 + i⟩ 1) :=
    (changes_inputs s _).trans (changes_anyReg _ _ (by show 0x3E0000 ≤ 0x3E0310; decide) (by show 0x3E0310 < 0x400000; decide))
  have ht : (setFld (setInput s i { inputOf s i with fault := some s.ns }) ⟨Reg.MGMT_IN_STAT, 7 + i, 7 + i⟩ 1).time = s.time := rfl
  have hf : (setFld (setInput s i { inputOf s i with fault := some s.ns }) ⟨Reg.MGMT_IN_STAT, 7 + i, 7 + i⟩ 1).followUps = s.followUps := rfl
  generalize setFld (setInput s i { inputOf s i with fault := some s.ns }) ⟨Reg.MGMT_IN_STAT, 7 + i, 7 + i⟩ 1 = u at h1 ht hf
  have hu : u.calm := calm_of_followUps hf hc
  have hr := changes_raiseErr hu unitMgmt 0 evInputFault cause [(8, i), (8, cause)] (by decide)
  exact ⟨h1.trans (hr.mono (by decide) fun _ _ => trivial), (hr.frame .time (by decide)).trans ht,
    ember_raiseErr_calm hu _ _ _ _ _ (by decide)⟩

/-- An input's fault leaves the time unit alone, and is raised where none was within 10 ms. -/
theorem inputFault_effect {s : State} (hc : s.calm) (i cause : Nat) :
    Changes syncParts (fun _ => True) s (inputFault i cause s) ∧ (inputFault i cause s).time = s.time ∧
    (inputQuiet s i = true → Ember evInputFault (inputFault i cause s)) := by
  obtain ⟨hch, ht, he⟩ := changes_faultRaised hc i cause
  rcases inputFault_cases i cause s with h | ⟨h, hq⟩
  · rw [h]
    exact ⟨hch, ht, fun _ => he⟩
  · rw [h]
    exact ⟨.refl s, rfl, fun hq' => absurd (hq.symm.trans hq') Bool.false_ne_true⟩

/-! ### Edges -/

/-- The edge noted, and the excess judged. -/
def edgeNoted (s : State) : State :=
  let l := recentEdges s inSync (syncPeriod s)
  let u := setInput s inSync { inputOf s inSync with edges := l }
  if 2 < l.length then inputFault inSync 4 { u with time := { u.time with syncBad := some s.ns } }
  else if (u.time.syncBad.map fun b => decide (b + syncPeriod s ≤ s.ns)).getD false then { u with time := { u.time with syncBad := none } }
  else u

/-- What follows, with the edges that may lie one period before. -/
def edgeJudged (t p : Nat) (before : List Nat) (s : State) : State :=
  let good := s.time.syncBad.isNone &&
    match s.time.syncGood with
    | some g => onPeriod s g t
    | none => before.any fun e => onPeriod s e t
  let s := { s with time := { s.time with syncPrev := t :: before.filter fun e => decide (t ≤ e + p + 2000) } }
  if !good then incSat s ⟨Reg.MGMT_IN_STAT, 31, 16⟩ 1 else
  let s := { s with time := { s.time with syncGood := some t } }
  if flag s Reg.TIME_CFG_SYNC_DISC && decide (p ≠ 0) then
    offsetSeen 0 (syncOffset s) (100 * 65536 + 1) 3 s
  else s

theorem syncEdge_eq (s : State) : syncEdge s =
    edgeJudged s.ns (syncPeriod s) (if s.time.syncBad.isNone then s.time.syncPrev else []) (edgeNoted s) := rfl

theorem edgeNoted_effect {s : State} (hc : s.calm) : Changes syncParts (fun _ => True) s (edgeNoted s) ∧
    ((recentEdges s inSync (syncPeriod s)).length ≤ 2 → s.time.syncBad = none → ∃ x, edgeNoted s = setInput s inSync x) := by
  unfold edgeNoted
  extract_lets l x u
  have hu : Changes syncParts (fun _ => True) s u := changes_inputs s _
  have ht : u.time = s.time := rfl
  have hf : u.followUps = s.followUps := rfl
  have hx : ∃ x, u = setInput s inSync x := ⟨_, rfl⟩
  clear_value u
  split
  · next h =>
    have hcalm : State.calm { u with time := { u.time with syncBad := some s.ns } } := calm_of_followUps hf hc
    obtain ⟨h1, -, -⟩ := inputFault_effect hcalm inSync 4
    exact ⟨(hu.trans (changes_timeState u _)).trans h1, fun hl => absurd hl (Nat.not_le.2 h)⟩
  · split
    · next hb =>
      refine ⟨hu.trans (changes_timeState u _), fun _ hn => ?_⟩
      rw [ht, hn] at hb
      exact absurd hb Bool.false_ne_true
    · exact ⟨hu, fun _ _ => hx⟩

theorem edgeJudged_effect (t p : Nat) (before : List Nat) (s : State) : Changes syncParts (fun _ => True) s (edgeJudged t p before s) ∧
    (edgeJudged t p before s).time.syncPrev.head? = some t ∧
    (∀ g, s.time.syncBad = none → s.time.syncGood = some g → onPeriod s g t = true → (edgeJudged t p before s).time.syncGood = some t) := by
  unfold edgeJudged
  extract_lets good x s1 y s2
  have h1 : Changes syncParts (fun _ => True) s s1 := changes_timeState s _
  have hp1 : s1.time.syncPrev.head? = some t := rfl
  have h2 : Changes syncParts (fun _ => True) s1 s2 := changes_timeState s1 _
  have hp2 : s2.time.syncPrev.head? = some t := rfl
  have hg2 : s2.time.syncGood = some t := rfl
  clear_value s1 s2
  split
  · next hn =>
    refine ⟨h1.trans (changes_anyReg s1 _ (by decide) (by decide)), by rw [incSat_time]; exact hp1, fun g hb hg ho => ?_⟩
    have : good = true := by simp only [good, hb, hg, ho, Option.isNone_none, Bool.and_self]
    rw [this] at hn
    exact absurd hn (by decide)
  · split
    · have hm := moves_offsetSeen (b := 0) (by decide) (syncOffset s2) (100 * 65536 + 1) 3 s2
      obtain ⟨hp, hg, -⟩ := hm.sync
      exact ⟨(h1.trans h2).trans hm.sync_changes, by rw [hp]; exact hp2, fun _ _ _ _ => hg.trans hg2⟩
    · exact ⟨h1.trans h2, hp2, fun _ _ _ _ => hg2⟩

theorem syncEdge_effect {s : State} (hc : s.calm) : Changes syncParts (fun _ => True) s (syncEdge s) ∧
    (syncEdge s).time.syncPrev.head? = some s.ns ∧
    (∀ g, s.time.syncBad = none → s.time.syncGood = some g → onPeriod s g s.ns = true → (recentEdges s inSync (syncPeriod s)).length ≤ 2 →
      (syncEdge s).time.syncGood = some s.ns) := by
  obtain ⟨hn, ht⟩ := edgeNoted_effect hc
  obtain ⟨hj, hp, hg⟩ := edgeJudged_effect s.ns (syncPeriod s) (if s.time.syncBad.isNone then s.time.syncPrev else []) (edgeNoted s)
  rw [syncEdge_eq]
  refine ⟨hn.trans hj, hp, fun g hb hgood ho hl => ?_⟩
  obtain ⟨x, hx⟩ := ht hl hb
  rw [hx] at hg ⊢
  exact hg g hb hgood ho

/-! ### Loss -/

theorem syncLoss_effect {s : State} (hc : s.calm) (hg : s.time.syncGood ≠ none) : Changes syncParts (fun _ => True) s (syncLoss s) ∧
    (syncLoss s).time.syncGood = none ∧ (inputQuiet s inSync = true → Ember evInputFault (syncLoss s)) := by
  rw [syncLoss, if_neg hg]
  have h0 : Changes syncParts (fun _ => True) s { s with time := { s.time with syncGood := none, syncPrev := [] } } := changes_timeState s _
  have hcalm : State.calm { s with time := { s.time with syncGood := none, syncPrev := [] } } := hc
  obtain ⟨h1, ht, he⟩ := inputFault_effect hcalm inSync 3
  have hgood : (inputFault inSync 3 { s with time := { s.time with syncGood := none, syncPrev := [] } }).time.syncGood = none := by rw [ht]
  dsimp only
  split
  · have hm := moves_refLost (b := 0) (by decide) (inputFault inSync 3 { s with time := { s.time with syncGood := none, syncPrev := [] } })
    obtain ⟨-, hs, -⟩ := hm.sync
    exact ⟨(h0.trans h1).trans hm.sync_changes, hs.trans hgood, fun hq => hm.embers _ (by decide) (he hq)⟩
  · exact ⟨h0.trans h1, hgood, he⟩

/-- Settles O30. -/
theorem syncInIsQualified : Obligations.SyncInIsQualified := by
  unfold Obligations.SyncInIsQualified
  intro s hs hc
  have hcf : (fresh s).calm := hc
  have hx : exec .syncInEdge s = done (fun s => if lamp s = .off then s else syncEdge s) s := rfl
  obtain ⟨hch, hp, hg⟩ := syncEdge_effect hcf
  have hset : (syncEdge (fresh s)).settled := settled_of_frame hch.frame (by decide) (settled_fresh hs)
  refine ⟨fun hl => ?_, fun g hl hb hgood ho hlen => ?_, fun hgood hq => ?_⟩
  · refine completes_to hx (if_neg hl) hset fun t ht => ?_
    rw [show t.time = _ from ht.frame .time List.not_mem_nil]
    exact hp
  · refine completes_to hx (if_neg hl) hset fun t ht => ?_
    rw [show t.time = _ from ht.frame .time List.not_mem_nil]
    exact hg g hb hgood ho hlen
  · obtain ⟨hl, hn, he⟩ := syncLoss_effect hcf hgood
    refine completes_done (rfl : exec .syncLoss s = done syncLoss s) (settled_of_frame hl.frame (by decide) (settled_fresh hs)) fun t ht => ?_
    refine ⟨Ember.of_changes (he hq) ht, ?_⟩
    rw [show t.time = _ from ht.frame .time List.not_mem_nil]
    exact hn

end Sys2Proof.Timing
end

section
/-! PROOFS. Accesses of device memory: what opening rows changes beside the bytes, and that writes and reads of sound lines store and
answer what they should. -/

namespace Sys2Proof.Stray

set_option Elab.async false

open Machine HostPort

/-! ### Opening a row (R319, R338 to R345) -/

/-- The registers that opening a row may change: of a channel the debt of refreshes, the hammer table's hits and the injection armed, and
what events record. (With no channel populated, the map's channels have no bound.) -/
def rowReg (o : Nat) : Prop :=
  eventReg o ∧ o < 0x3E5000 ∨ 0x80000 ≤ o ∧ (o % 0x10000 = 0x68 ∨ o % 0x10000 = 0x78 ∨ o % 0x10000 = 0x80)

/-- The kinds of state that opening a row may change. -/
def rowParts : List Part := [.dram, .draws, .messages] ++ allRegs

theorem not_rowReg {o : Nat} (h : o < 0x48 ∨ 0x50 < o ∧ o < 0x80000 ∨
    0x80000 ≤ o ∧ (o < 0x3E0100 ∨ 0x3E5000 ≤ o) ∧ o % 0x10000 ≠ 0x68 ∧ o % 0x10000 ≠ 0x78 ∧ o % 0x10000 ≠ 0x80) : ¬ rowReg o := by
  rintro (⟨he, hlt⟩ | he)
  · exact not_eventReg (by omega) (by omega) he
  · omega

theorem ite_lt_of {c : Prop} [Decidable c] {a b n : Nat} (ha : a < n) (hb : b < n) : (if c then a else b) < n := by
  split
  · exact ha
  · exact hb

theorem blockOf_lt (o : Nat) : blockOf o < 21 := by
  unfold blockOf
  repeat' apply ite_lt_of
  all_goals decide

theorem regs_blockOf_mem (o : Nat) : Part.regs (blockOf o) ∈ rowParts :=
  List.mem_append_right _ (List.mem_map.2 ⟨_, List.mem_range.2 (blockOf_lt o), rfl⟩)

/-- What no access of memory changes of the DRAM's state: its population, its arbiters and the counts of its correction windows. -/
structure DramKept (d e : MemState) : Prop where
  pop : e.pop = d.pop
  arb : e.arb = d.arb
  stalled : e.stalled = d.stalled
  ceWin : e.ceWin = d.ceWin

theorem DramKept.refl (d : MemState) : DramKept d d := ⟨rfl, rfl, rfl, rfl⟩

theorem DramKept.trans {d e f : MemState} (h : DramKept d e) (k : DramKept e f) : DramKept d f :=
  ⟨k.pop.trans h.pop, k.arb.trans h.arb, k.stalled.trans h.stalled, k.ceWin.trans h.ceWin⟩

/-- From `s` to `t` rows have been opened: device memory, the symbols stored and the population are as they were. -/
structure Rows (s t : State) : Prop where
  changes : Changes rowParts rowReg s t
  errs : t.dram.errs = s.dram.errs
  kept : DramKept s.dram t.dram

theorem Rows.refl (s : State) : Rows s s := ⟨.refl s, rfl, .refl _⟩

theorem Rows.trans {s t u : State} (h : Rows s t) (k : Rows t u) : Rows s u :=
  ⟨h.changes.trans k.changes, k.errs.trans h.errs, h.kept.trans k.kept⟩

theorem Rows.mem {s t : State} (h : Rows s t) : t.mem = s.mem := (h.changes.frame .memory (by decide)).1
theorem Rows.poison {s t : State} (h : Rows s t) : t.poison = s.poison := (h.changes.frame .memory (by decide)).2

theorem rows_dram {s : State} {d : MemState} (he : d.errs = s.dram.errs) (hk : DramKept s.dram d) : Rows s { s with dram := d } :=
  ⟨changes_of_frame (fun p hq => by cases p <;> first | exact absurd (by decide) hq | exact fun _ _ _ => rfl | rfl | simp [Part.same]) rfl rfl,
    he, hk⟩

theorem rows_free (s : State) (n : Nat) : Rows s { s with free := n } :=
  ⟨changes_of_frame (fun p hq => by cases p <;> first | exact absurd (by decide) hq | exact fun _ _ _ => rfl | rfl | simp [Part.same]) rfl rfl,
    rfl, .refl _⟩

theorem rows_setReg (s : State) {o : Nat} (v : DWord) (h : 0x80000 ≤ o ∧ (o % 0x10000 = 0x68 ∨ o % 0x10000 = 0x78 ∨ o % 0x10000 = 0x80)) :
    Rows s (setReg s o v) :=
  ⟨changes_setReg s o v (regs_blockOf_mem o) (.inr h) (by show o ≠ 0x18; omega), rfl, .refl _⟩

/-- The events' records end below 0x3E5000. -/
theorem reg_raise_above {src : Nat} (cs : List Cap) (s : State) {o : Nat} (h : src < 256) (ho : 0x3E5000 ≤ o) :
    reg (raise src cs s) o = reg s o := by
  have hcnt : o ≠ Reg.MGMT_EV_CNT src := by simp only [Reg.MGMT_EV_CNT]; omega
  have hcounted : reg (counted src s) o = reg s o := reg_counted_ne s (by simp only [emberFld, Reg.MGMT_EV_PEND]; omega) hcnt
  rw [raise, reg_recordEvent _ _ _ _ (by omega), ← hcounted]
  generalize counted src s = u
  by_cases hv : fld u (Reg.MGMT_EV_CNT_FIRST_VALID src) = 1
  · rw [keepFirst_valid _ _ hv]
  · rw [keepFirst_invalid _ _ hv, reg_storeFirst_ne _ _ _ _ hcnt, storeData, forAll_same (fun t => reg t o) _ _ ?_ _]
    · exact reg_setReg_ne _ _ (by simp only [Reg.MGMT_EV_TIME]; omega)
    · intro i hi t
      refine reg_setReg_ne t _ ?_
      simp only [List.mem_cons, List.not_mem_nil, or_false] at hi
      simp only [Reg.MGMT_EV_DATA]
      omega

theorem rows_raise (src : Nat) (cs : List Cap) (s : State) (h : src < 256) : Rows s (raise src cs s) := by
  have kc := changes_raise src cs s h
  refine ⟨⟨kc.frame.mono (by decide), fun o ho => ?_, kc.out⟩, by rw [kc.frame .dram (by decide)],
    by rw [kc.frame .dram (by decide)]; exact .refl _⟩
  by_cases hlt : o < 0x3E5000
  · exact kc.regs o fun he => ho (.inl ⟨he, hlt⟩)
  · exact reg_raise_above cs s h (by omega)

theorem rows_sampleRow (c rank bank row : Nat) (s : State) : Rows s (sampleRow c rank bank row s) :=
  (rows_free s (s.free + 2)).trans (rows_dram rfl ⟨rfl, rfl, rfl, rfl⟩)

/-- The row's count in the hammer table. -/
theorem rows_hammerActivate (c : Nat) (rank bank row : Nat) (s : State) : Rows s (hammerActivate c rank bank row s) := by
  unfold hammerActivate
  extract_lets l hit l1 d1 s1 s2
  clear_value l hit l1
  have h1 : Rows s s1 := rows_dram rfl ⟨rfl, rfl, rfl, rfl⟩
  clear_value s1
  have h2 : Rows s s2 := h1.trans (rows_setReg s1 _ (o := 0x80078 + 0x10000 * c) (by omega))
  clear_value s2
  by_cases hh : hit = true
  · rw [if_pos hh]
    by_cases hr : s2.dram.hammerRaised.contains c = true
    · rw [if_pos hr]
      exact h2
    · rw [if_neg hr]
      have h3 : Rows s2 { s2 with dram := { s2.dram with hammerRaised := setInsert c s2.dram.hammerRaised } } := rows_dram rfl ⟨rfl, rfl, rfl, rfl⟩
      exact (h2.trans h3).trans (rows_raise evHammerTable _ _ (by decide))
  · rw [if_neg hh]
    exact rows_dram rfl ⟨rfl, rfl, rfl, rfl⟩

theorem rows_activate (c : Nat) (rank bank row : Nat) (s : State) : Rows s (activate c rank bank row s) := by
  unfold activate
  extract_lets s1
  have h : Rows s s1 := rows_sampleRow c rank bank row s
  split
  · exact h.trans (rows_hammerActivate _ rank bank row s1)
  · exact h

theorem rows_setBank (i : Nat) (b : Bank) (s : State) : Rows s (setBank i b s) := rows_dram rfl ⟨rfl, rfl, rfl, rfl⟩

theorem rows_setDebt (c : Nat) (unit v : Nat) (s : State) : Rows s (setDebt c unit v s) :=
  (rows_dram (d := { s.dram with debt := tblSet 0 s.dram.debt (8 * c + unit) v }) rfl ⟨rfl, rfl, rfl, rfl⟩).trans
    (rows_setReg _ _ (o := 0x80068 + 0x10000 * c) (by omega))

theorem rows_refreshIdle (c : Nat) (unit : Nat) (s : State) : Rows s (refreshIdle c unit s) := by
  unfold refreshIdle
  split
  · exact rows_setDebt _ unit 0 s
  · exact .refl s

theorem rows_bankOpenRow (c : Nat) (rank bank row : Nat) (s : State) : Rows s (bankOpenRow c rank bank row s) := by
  unfold bankOpenRow
  extract_lets b
  refine .trans ?_ (rows_setBank _ _ _)
  split
  · exact .refl s
  · exact rows_activate _ _ _ _ s

theorem rows_bankAccess (c : Nat) (rank bank row : Nat) (s : State) : Rows s (bankAccess c rank bank row s) := by
  unfold bankAccess
  extract_lets s1 b
  have h : Rows s s1 := rows_bankOpenRow _ rank bank row s
  split
  · exact h.trans ((rows_setBank _ _ s1).trans (rows_refreshIdle _ _ _))
  · exact h

theorem rows_writeAccess (pl : DramPlace) (full : Bool) (s : State) : Rows s (writeAccess pl full s) := by
  unfold writeAccess
  extract_lets p s1 s2
  have h1 : Rows s s1 := by
    show Rows s (ite _ _ _)
    split
    · exact .refl s
    · exact rows_bankOpenRow _ _ _ _ s
  have h2 : Rows s s2 := h1.trans (rows_bankAccess _ _ _ _ s1)
  split
  · exact h2.trans (rows_bankAccess _ _ _ _ s2)
  · exact h2

/-! ### What accesses leave settled -/

/-- The registers that settling reads besides GEN_STATE: of the wick lanes and of the rails. -/
def lightReg (o : Nat) : Prop := o = Reg.WLN_CTRL ∨ o = Reg.RAIL_STAT ∨ ∃ g, g < 24 ∧ (o = Reg.WLN_GCFG g ∨ o = Reg.WLN_GSTAT g)

theorem not_rowReg_light {o : Nat} (h : lightReg o) : ¬ rowReg o := by
  obtain rfl | rfl | ⟨g, hg, rfl | rfl⟩ := h <;> exact not_rowReg (.inr (.inr (by lia)))

/-- A settled state stays settled where neither what settling reads, nor the raster or the registers of the light, have changed. -/
theorem settled_of_changes {ps : List Part} {w : Nat → Prop} {s t : State} (h : Changes ps w s t)
    (hd : ∀ p ∈ idleParts ++ [.lamp, .scan], p ∉ ps) (hw : ∀ o, lightReg o → ¬ w o) (hs : s.settled) : t.settled := by
  have hm : ∀ {p}, p ∈ idleParts ++ [.lamp, .scan] → p ∉ ps := fun hp => hd _ hp
  have hscan : t.scan = s.scan := h.frame .scan (hm (by simp))
  have hgen : reg t Reg.GEN_STATE = reg s Reg.GEN_STATE := h.frame .lamp (hm (by simp))
  obtain ⟨-, hwant, -⟩ := h.frame .sequence (hm (by simp [idleParts]))
  have hl : lamp t = lamp s := lamp_congr (fld_congr_reg hgen)
  have hr : ∀ f : Fld, lightReg f.off → fld t f = fld s f := fun f hf => h.fld_eq (hw _ hf)
  have hg : groupsReady t = groupsReady s := by
    rw [Bool.eq_iff_iff]
    simp only [groupsReady, flag, hr Reg.WLN_CTRL_ALLOW_DEGRADED (.inl rfl), Bool.or_eq_true, List.all_eq_true, groups, List.mem_range]
    refine or_congr_right (forall_congr' fun g => imp_congr_right fun hlt => ?_)
    rw [hr (Reg.WLN_GCFG_GEN g) (.inr (.inr ⟨g, hlt, .inl rfl⟩)), hr (Reg.WLN_GSTAT_STATE g) (.inr (.inr ⟨g, hlt, .inr rfl⟩))]
  have hdue : lightDue t = lightDue s := by
    simp only [lightDue, railsGood, flag, hg, hwant, hl, fld_congr_reg (f := Reg.GEN_STATE_TEST) hgen, hr Reg.RAIL_STAT_USE (.inr (.inl rfl)),
      hr Reg.RAIL_STAT_PGOOD (.inr (.inl rfl))]
  exact settled_of_kept h.frame (fun p hp => hm (List.mem_append_left _ hp)) hs (by rw [hscan]) (.inl hl) (hdue.trans hs.light)

/-! ### Sound lines -/

/-- The line lies below the capacity, stores no wrong symbol, and ranks in service serve it. -/
def SoundLine (s : State) (line : Nat) : Prop :=
  64 * line < capacity s ∧ tblGet 0 s.dram.errs line = 0 ∧
    rankDead s (placeOf s line).ch (physRank s (placeOf s line).ch (placeOf s line).rank) = false ∧
    rankDead s (placeOf s line).ch (servingRank s (placeOf s line)) = false

/-- The registers that a line's place and service rest on: the population and the capacity, and of a channel its ranks and their migration. -/
def placeReg (o : Nat) : Prop := o = Reg.MFB_STAT ∨ o = Reg.MFB_CAPACITY ∨ ∃ c, o = Reg.DMC_RANKMAP c ∨ o = Reg.DMC_RANKSTATE c ∨ o = Reg.DMC_MIGRATE c

/-- What a line's place and service rest on is as it was. -/
structure Placing (s t : State) : Prop where
  reg : ∀ o, placeReg o → reg t o = reg s o
  pop : t.dram.pop = s.dram.pop

theorem Placing.fld {s t : State} (h : Placing s t) {f : Fld} (hf : placeReg f.off) : fld t f = fld s f := fld_congr_reg (h.reg _ hf)

theorem Placing.placeOf {s t : State} (h : Placing s t) (line : Nat) : placeOf t line = placeOf s line := by
  simp only [Machine.placeOf, isDdr5, nch, dramRows, h.pop, h.fld (f := Reg.MFB_STAT_TYPE) (.inl rfl), h.fld (f := Reg.MFB_STAT_NCH) (.inl rfl)]

theorem Placing.rankState {s t : State} (h : Placing s t) (c p : Nat) : rankState t c p = rankState s c p :=
  h.fld (.inr (.inr ⟨c, .inr (.inl rfl)⟩))

theorem Placing.physRank {s t : State} (h : Placing s t) (c r : Nat) : physRank t c r = physRank s c r :=
  h.fld (.inr (.inr ⟨c, .inl rfl⟩))

theorem Placing.servingRank {s t : State} (h : Placing s t) (pl : DramPlace) : servingRank t pl = servingRank s pl := by
  simp only [Machine.servingRank, h.rankState, h.physRank, h.fld (f := Reg.DMC_MIGRATE_PTR pl.ch) (.inr (.inr ⟨pl.ch, .inr (.inr rfl)⟩)),
    h.fld (f := Reg.DMC_MIGRATE_DST pl.ch) (.inr (.inr ⟨pl.ch, .inr (.inr rfl)⟩))]

theorem Placing.soundLine {s t : State} (h : Placing s t) {line : Nat} (he : tblGet 0 t.dram.errs line = tblGet 0 s.dram.errs line)
    (hs : SoundLine s line) : SoundLine t line := by
  obtain ⟨hcap, herr, hphys, hserve⟩ := hs
  simp only [SoundLine, capacity, rankDead, h.placeOf, h.rankState, h.physRank, h.servingRank, he,
    h.fld (f := Reg.MFB_CAPACITY_BYTES) (.inr (.inl rfl))]
  exact ⟨hcap, herr, hphys, hserve⟩

/-- The registers of a line's place are no registers that an access changes. -/
theorem not_rowReg_place {o : Nat} (h : placeReg o) : ¬ rowReg o := by
  obtain rfl | rfl | ⟨c, rfl | rfl | rfl⟩ := h
  · exact not_rowReg (by decide)
  · exact not_rowReg (by decide)
  all_goals exact not_rowReg (.inr (.inr (by lia)))

end Sys2Proof.Stray
end

section
/-! PROOFS. Writes and reads of sound lines; O25: the host's accesses of memory. -/

namespace Sys2Proof.Stray

set_option Elab.async false

open Machine HostPort

theorem Rows.placing {s t : State} (h : Rows s t) : Placing s t := ⟨fun _ ho => h.changes.regs _ (not_rowReg_place ho), h.kept.pop⟩

/-! ### What a write does beside its bytes -/

/-- The kinds of state that a write may change. -/
def storeParts : List Part := .memory :: rowParts

/-- From `s` to `t` rows have been opened, and the symbols and the poison of one line may have changed. -/
structure Beside (line : Nat) (s t : State) : Prop where
  changes : Changes storeParts rowReg s t
  mem : t.mem = s.mem
  errs : ∀ l, l ≠ line → tblGet 0 t.dram.errs l = tblGet 0 s.dram.errs l
  kept : DramKept s.dram t.dram

theorem Beside.trans {line : Nat} {s t u : State} (h : Beside line s t) (k : Beside line t u) : Beside line s u :=
  ⟨h.changes.trans k.changes, k.mem.trans h.mem, fun l hl => (k.errs l hl).trans (h.errs l hl), h.kept.trans k.kept⟩

theorem Rows.beside {s t : State} (h : Rows s t) (line : Nat) : Beside line s t :=
  ⟨h.changes.mono (List.subset_cons_self _ _) fun _ x => x, h.mem, fun _ _ => by rw [h.errs], h.kept⟩

theorem beside_poison (line : Nat) (s : State) (p : List Nat) : Beside line s { s with poison := p } :=
  ⟨changes_of_frame (fun p hq => by cases p <;> first | exact absurd (by decide) hq | exact fun _ _ _ => rfl | rfl | simp [Part.same]) rfl rfl,
    rfl, fun _ _ => rfl, .refl _⟩

theorem beside_errs (line v : Nat) (s : State) : Beside line s { s with dram := { s.dram with errs := tblSet 0 s.dram.errs line v } } :=
  ⟨changes_of_frame (fun p hq => by cases p <;> first | exact absurd (by decide) hq | exact fun _ _ _ => rfl | rfl | simp [Part.same]) rfl rfl,
    rfl, fun _ hl => tblGet_set_ne 0 _ v hl, ⟨rfl, rfl, rfl, rfl⟩⟩

theorem beside_ite {line : Nat} {c : Prop} [Decidable c] {s t u : State} (ht : Beside line s t) (hu : Beside line s u) :
    Beside line s (if c then t else u) := by
  split
  · exact ht
  · exact hu

theorem beside_injectWrite (c line : Nat) (s : State) : Beside line s (injectWrite c line s) := by
  unfold injectWrite
  refine beside_ite ?_ ((Rows.refl s).beside line)
  extract_lets m s1
  have h1 : Beside line s s1 := beside_ite (beside_poison _ _ _) (beside_poison _ _ _)
  exact (h1.trans (beside_errs line _ s1)).trans ((rows_setReg _ _ (o := 0x80080 + 0x10000 * c) (by omega)).beside line)

/-- A sound line takes the bytes. -/
theorem lineStore_sound {line o : Nat} {data : Bytes} {s : State} (poison : Bool) (h : SoundLine s line) :
    Beside line { s with mem := tblSetRun 0#8 s.mem (64 * line + o) data } (lineStore line o data poison s) := by
  obtain ⟨-, herr, hlive, -⟩ := h
  unfold lineStore
  extract_lets pl full s1 s2 s3 s4 d5 s5
  have h1 : s1 = s := by
    show ite _ _ _ = s
    rw [mergeSource_clean herr, ite_self]
  rw [if_neg (by rw [hlive]; exact Bool.false_ne_true)]
  have h2 : Beside line s2 s3 := beside_errs line 0 s2
  have h4 : Beside line s3 s4 := beside_ite (beside_poison _ _ _) (beside_ite (beside_poison _ _ _) ((Rows.refl s3).beside line))
  have h5 : Beside line s4 s5 := beside_ite ((rows_dram (s := s4) (d := { s4.dram with tgtLost := setErase line s4.dram.tgtLost }) rfl ⟨rfl, rfl, rfl, rfl⟩).beside line) ((Rows.refl s4).beside line)
  rw [← h1]
  exact ((h2.trans h4).trans h5).trans (beside_injectWrite _ line s5)

/-- The bytes are stored, and rows have been opened and one line's symbols replaced besides. -/
structure Wrote (line a : Nat) (data : Bytes) (s t : State) : Prop where
  changes : Changes storeParts rowReg s t
  mem : t.mem = tblSetRun 0#8 s.mem a data
  errs : ∀ l, l ≠ line → tblGet 0 t.dram.errs l = tblGet 0 s.dram.errs l
  kept : DramKept s.dram t.dram

theorem changes_mem (s : State) (m : Tbl Byte) : Changes storeParts rowReg s { s with mem := m } :=
  changes_of_frame (fun p hq => by cases p <;> first | exact absurd (by decide) hq | exact fun _ _ _ => rfl | rfl | simp [Part.same]) rfl rfl

theorem wrote_lineWrite {line o : Nat} {data : Bytes} {s : State} (poison : Bool) (h : SoundLine s line) :
    Wrote line (64 * line + o) data s (lineWrite line o data poison s) := by
  unfold lineWrite
  rw [if_neg (by have := h.1; omega)]
  extract_lets d s1
  have h1 : Rows s s1 := rows_dram rfl ⟨rfl, rfl, rfl, rfl⟩
  have hrows : Rows s (writeAccess (placeOf s1 line) (decide (data.length = 64)) s1) := h1.trans (rows_writeAccess _ _ s1)
  generalize writeAccess (placeOf s1 line) (decide (data.length = 64)) s1 = u at hrows ⊢
  have k := lineStore_sound (o := o) (data := data) poison (hrows.placing.soundLine (by rw [hrows.errs]) h)
  refine ⟨((hrows.beside line).changes.trans (changes_mem u _)).trans k.changes, ?_, fun l hl => ?_, hrows.kept.trans k.kept⟩
  · rw [k.mem, hrows.mem]
  · rw [k.errs l hl]
    exact congrArg (tblGet 0 · l) hrows.errs

/-! ### A write of several lines -/

/-- The bytes are stored, and no others; the symbols of other lines are as they were. -/
structure Writes (a : Nat) (data : Bytes) (s t : State) : Prop where
  changes : Changes storeParts rowReg s t
  stored : Stored a data s t
  errs : ∀ l, 64 * l + 64 ≤ a ∨ a + data.length ≤ 64 * l → tblGet 0 t.dram.errs l = tblGet 0 s.dram.errs l
  kept : DramKept s.dram t.dram

theorem Writes.placing {a : Nat} {data : Bytes} {s t : State} (h : Writes a data s t) : Placing s t :=
  ⟨fun _ ho => h.changes.regs _ (not_rowReg_place ho), h.kept.pop⟩

theorem Writes.nil (a : Nat) (s : State) : Writes a [] s s :=
  ⟨.refl s, fun b => by simp, fun _ _ => rfl, .refl _⟩

theorem writes_lineWrite {a : Nat} {data : Bytes} {s : State} (poison : Bool) (_ : data.length ≤ 64 - a % 64) (_ : 0 < data.length)
    (h : SoundLine s (a / 64)) : Writes a data s (lineWrite (a / 64) (a % 64) data poison s) := by
  have hw := wrote_lineWrite (o := a % 64) (data := data) poison h
  rw [Nat.div_add_mod] at hw
  exact ⟨hw.changes, fun b => by rw [hw.mem, tblGet_setRun], fun l hl => hw.errs l (by omega), hw.kept⟩

/-- A store up to a line's end, and the rest. -/
theorem Writes.append {a m : Nat} {data : Bytes} {s t u : State} (h : Writes a (data.take m) s t) (k : Writes (a + m) (data.drop m) t u)
    (hm : m ≤ data.length) : Writes a data s u := by
  have hl : (data.take m).length = m := by rw [List.length_take]; omega
  have hd : (data.drop m).length = data.length - m := List.length_drop
  refine ⟨h.changes.trans k.changes, fun b => ?_, fun l hl' => ?_, h.kept.trans k.kept⟩
  · rw [k.stored b, h.stored b, hl, hd]
    simp only [List.getD_eq_getElem?_getD, List.getElem?_drop, List.getElem?_take]
    by_cases h1 : a + m ≤ b ∧ b < a + m + (data.length - m)
    · rw [if_pos h1, if_pos (by omega), show m + (b - (a + m)) = b - a by omega]
    · rw [if_neg h1]
      by_cases h2 : a ≤ b ∧ b < a + m
      · rw [if_pos h2, if_pos (by omega), if_pos (by omega)]
      · rw [if_neg h2, if_neg (by omega)]
  · rw [k.errs l (by omega), h.errs l (by omega)]

theorem lineCount_eq {a n : Nat} (hn : 0 < n) : lineCount a n = lineCount (a + (64 - a % 64)) (n - (64 - a % 64)) + 1 := by
  unfold lineCount
  rw [if_neg (by omega)]
  split <;> omega

/-- Soundness of what remains past a line's end. -/
theorem sound_rest {a : Nat} {data : Bytes} {s t : State} (h : sound s a data.length) (k : Writes a (data.take (64 - a % 64)) s t) :
    sound t (a + (64 - a % 64)) (data.drop (64 - a % 64)).length := by
  intro line h1 h2
  rw [List.length_drop] at h2
  have hl : (data.take (64 - a % 64)).length ≤ 64 - a % 64 := by
    rw [List.length_take]
    omega
  exact k.placing.soundLine (k.errs line (by omega)) (h line (by omega) (by omega))

/-- One line's write and then the rest are the write of them all. -/
theorem writes_step {a : Nat} {data : Bytes} {s u : State} {poison : Bool} (hn : 0 < data.length) (h : sound s a data.length)
    (hrest : Writes (a + (64 - a % 64)) (data.drop (64 - a % 64)) (lineWrite (a / 64) (a % 64) (data.take (64 - a % 64)) poison s) u) :
    Writes a data s u := by
  have hlen : (data.take (64 - a % 64)).length = min (64 - a % 64) data.length := List.length_take
  have hfirst : Writes a (data.take (64 - a % 64)) s (lineWrite (a / 64) (a % 64) (data.take (64 - a % 64)) poison s) :=
    writes_lineWrite poison (by omega) (by omega) (h _ le_rfl (by omega))
  by_cases hm : 64 - a % 64 ≤ data.length
  · exact hfirst.append hrest hm
  · have ht : data.take (64 - a % 64) = data := List.take_of_length_le (by omega)
    have hd : data.drop (64 - a % 64) = [] := List.drop_eq_nil_of_le (by omega)
    rw [hd] at hrest
    rw [ht] at hfirst hrest
    exact ⟨hfirst.changes.trans hrest.changes, fun b => by rw [hrest.stored b, ← hfirst.stored b]; simp,
      fun l hl => by rw [hrest.errs l (by simp; omega), hfirst.errs l hl], hfirst.kept.trans hrest.kept⟩

theorem writes_linesWrite (poison : Bool) {k a : Nat} {data : Bytes} {s : State} (hk : k = lineCount a data.length)
    (h : sound s a data.length) : Writes a data s (linesWrite poison k a data s) := by
  induction k generalizing a data s with
  | zero =>
    have hn : data.length = 0 := by
      by_contra hne
      rw [lineCount_eq (by omega)] at hk
      omega
    rw [List.length_eq_zero_iff.1 hn]
    exact .nil a s
  | succ k ih =>
    have hn : 0 < data.length := by
      rcases Nat.eq_zero_or_pos data.length with e | e
      · rw [e] at hk
        exact absurd hk (by simp [lineCount])
      · exact e
    rw [lineCount_eq hn, Nat.succ_inj] at hk
    refine writes_step hn h (ih (by rw [List.length_drop]; exact hk) (sound_rest h ?_))
    exact writes_lineWrite poison (by rw [List.length_take]; omega) (by rw [List.length_take]; omega) (h _ le_rfl (by omega))

/-- A write of sound lines stores its bytes. -/
theorem writes_memWrite (a : Nat) (data : Bytes) (poison : Bool) {s : State} (h : sound s a data.length) :
    Writes a data s (memWrite a data poison s) := writes_linesWrite poison rfl h

/-! ### Reads -/

/-- A read of a sound line that is not poisoned answers its bytes, and opens rows at most. -/
theorem lineRead_clean {line : Nat} {s : State} (grp : Nat) (h : SoundLine s line) (hp : linePoisoned s line = false) :
    Rows s (lineRead grp line 0 s).1 ∧ (lineRead grp line 0 s).2 = some (lineBytes s line) := by
  obtain ⟨hcap, herr, hphys, hserve⟩ := h
  unfold lineRead
  rw [if_neg (by omega)]
  extract_lets d s1 pl
  have h1 : Rows s s1 := rows_dram rfl ⟨rfl, rfl, rfl, rfl⟩
  have hrows : Rows s (bankAccess pl.ch (servingRank s1 pl) pl.bank pl.row s1) := h1.trans (rows_bankAccess _ _ _ _ s1)
  generalize bankAccess pl.ch (servingRank s1 pl) pl.bank pl.row s1 = u at hrows ⊢
  obtain ⟨-, herru, -, hserveu⟩ := hrows.placing.soundLine (by rw [hrows.errs]) ⟨hcap, herr, hphys, hserve⟩
  have hpois : linePoisoned u line = false := by rw [linePoisoned, hrows.poison]; exact hp
  have hgood : eccRead u line 0 = .good none (lineBytes u line) := by
    have hd : devicesOf (Nat.lor 0 0) (lineDevices u) = [] := by simp [devicesOf, bitOf]
    simp only [eccRead, herru, hd, hpois, Bool.false_eq_true, if_false]
  have hbytes : lineBytes u line = lineBytes s line := by rw [lineBytes, hrows.mem, lineBytes]
  have hdec : lineDecode grp line 0 u = (u, some (lineBytes s line)) := by
    unfold lineDecode
    rw [if_neg (by rw [hserveu]; exact Bool.false_ne_true), hgood, eccEffects_clean _ _ _ herru, hbytes]
  rw [hdec]
  exact ⟨hrows, rfl⟩

theorem tblGetRun_append (t : Tbl Byte) (a m n : Nat) : tblGetRun 0#8 t a m ++ tblGetRun 0#8 t (a + m) n = tblGetRun 0#8 t a (m + n) := by
  induction m generalizing a with
  | zero => rw [Nat.zero_add]; rfl
  | succ m ih =>
    have h := ih (a + 1)
    rw [show a + 1 + m = a + (m + 1) by omega] at h
    rw [Nat.succ_add]
    exact congrArg (tblGet 0#8 t a :: ·) h

/-- A read of sound lines, none of them poisoned, answers their bytes. -/
theorem linesRead_clean {k line : Nat} {s : State} (grp : Nat) (h : ∀ l, line ≤ l → l < line + k → SoundLine s l ∧ linePoisoned s l = false) :
    Rows s (linesRead grp k line s).1 ∧ (linesRead grp k line s).2 = (tblGetRun 0#8 s.mem (64 * line) (64 * k), false) := by
  induction k generalizing line s with
  | zero => exact ⟨.refl s, rfl⟩
  | succ k ih =>
    obtain ⟨hrow, hval⟩ := lineRead_clean grp (h line le_rfl (by omega)).1 (h line le_rfl (by omega)).2
    rw [linesRead, hval]
    generalize (lineRead grp line 0 s).1 = u at hrow ⊢
    obtain ⟨hrest, hbytes⟩ := ih (line := line + 1) (s := u) fun l h1 h2 =>
      ⟨hrow.placing.soundLine (by rw [hrow.errs]) (h l (by omega) (by omega)).1, by
        rw [linePoisoned, hrow.poison]
        exact (h l (by omega) (by omega)).2⟩
    refine ⟨hrow.trans hrest, ?_⟩
    dsimp only
    rw [hbytes, Option.getD_some, hrow.mem, show 64 * (line + 1) = 64 * line + 64 by omega, lineBytes, tblGetRun_append]
    simp [Nat.mul_add, Nat.add_comm]

theorem sliceB_tblGetRun {t : Tbl Byte} {a o n m : Nat} (h : o + n ≤ m) : sliceB (tblGetRun 0#8 t a m) o n = tblGetRun 0#8 t (a + o) n := by
  have hsplit : tblGetRun 0#8 t a m = tblGetRun 0#8 t a o ++ (tblGetRun 0#8 t (a + o) n ++ tblGetRun 0#8 t (a + o + n) (m - (o + n))) := by
    rw [tblGetRun_append, tblGetRun_append, show o + (n + (m - (o + n))) = m by omega]
  have htake : ((tblGetRun 0#8 t a m).drop o).take n = tblGetRun 0#8 t (a + o) n := by
    rw [hsplit, List.drop_left' (tblGetRun_length _ _ _ _), List.take_left' (tblGetRun_length _ _ _ _)]
  simp only [sliceB, htake, tblGetRun_length, Nat.sub_self, List.replicate_zero, List.append_nil]

/-- A read of bytes that can be read answers them. -/
theorem memRead_clean {a n : Nat} {s : State} (grp : Nat) (h : clean s a n) :
    Rows s (memRead grp a n s).1 ∧ (memRead grp a n s).2 = (tblGetRun 0#8 s.mem a n, false) := by
  obtain ⟨hsound, hpois⟩ := h
  have hk : ∀ l, a / 64 ≤ l → l < a / 64 + lineCount a n → 64 * l < a + n := fun l h1 h2 => by
    unfold lineCount at h2
    split at h2 <;> omega
  obtain ⟨hrows, hval⟩ := linesRead_clean (k := lineCount a n) (line := a / 64) grp fun l h1 h2 => ⟨hsound l h1 (hk l h1 h2), hpois l h1 (hk l h1 h2)⟩
  refine ⟨hrows, ?_⟩
  have hlen : a % 64 + n ≤ 64 * lineCount a n ∨ n = 0 := by
    unfold lineCount
    split <;> omega
  rw [memRead, hval]
  dsimp only
  rcases hlen with hlen | rfl
  · rw [sliceB_tblGetRun hlen, Nat.div_add_mod]
  · simp [sliceB, tblGetRun]

/-! ### The host's accesses (R397 to R399, R408) -/

/-- The registers that a host write may change. -/
def hostReg (o : Nat) : Prop := o = Reg.SCAN_LEASE_VIOL ∨ rowReg o

/-- The kinds of state that a host write may change. -/
def hostParts : List Part := .link :: storeParts

theorem not_hostReg_light {o : Nat} (h : lightReg o) : ¬ hostReg o := by
  rintro (e | e)
  · obtain h | h | ⟨g, hg, h | h⟩ := h <;> lia
  · exact not_rowReg_light h e

theorem changes_leaseRaised (s : State) (b : Bool) : Changes hostParts hostReg s { s with leaseRaised := b } :=
  changes_of_frame (fun p hq => by cases p <;> first | exact absurd (by decide) hq | exact fun _ _ _ => rfl | rfl | simp [Part.same]) rfl rfl

theorem changes_leaseViol (s : State) (f : Fld) (v : Nat) (h : f.off = Reg.SCAN_LEASE_VIOL) : Changes hostParts hostReg s (setFld s f v) :=
  changes_setFld s f v (List.mem_cons_of_mem _ (List.mem_cons_of_mem _ (regs_blockOf_mem _))) (.inl h) (by rw [h]; decide)

theorem changes_leaseCount (s : State) : Changes hostParts hostReg s (incSat s Reg.SCAN_LEASE_VIOL_COUNT 1) := by
  rw [incSat]
  exact changes_leaseViol s _ _ rfl

/-- A write into a lease is recorded, and the first since the link came up is raised. -/
theorem hostLease_cases (a n : Nat) (s : State) : hostLease a n s = s ∨ ∃ v cs,
    let u := incSat (setFld s Reg.SCAN_LEASE_VIOL_ADDR v) Reg.SCAN_LEASE_VIOL_COUNT 1
    hostLease a n s = if u.leaseRaised then u else raise evLeaseViolation cs { u with leaseRaised := true } := by
  unfold hostLease
  split
  · exact .inl rfl
  · exact .inr ⟨_, _, rfl⟩

theorem hostLease_effect (a n : Nat) (s : State) : Changes hostParts hostReg s (hostLease a n s) ∧
    (hostLease a n s).mem = s.mem ∧ (hostLease a n s).dram = s.dram := by
  obtain e | ⟨v, cs, e⟩ := hostLease_cases a n s
  · rw [e]
    exact ⟨.refl s, rfl, rfl⟩
  · have hc := (changes_leaseViol s Reg.SCAN_LEASE_VIOL_ADDR v rfl).trans (changes_leaseCount _)
    have hm : (incSat (setFld s Reg.SCAN_LEASE_VIOL_ADDR v) Reg.SCAN_LEASE_VIOL_COUNT 1).mem = s.mem :=
      (incSat_mem _ _ _).trans (setFld_mem _ _ _)
    have hd : (incSat (setFld s Reg.SCAN_LEASE_VIOL_ADDR v) Reg.SCAN_LEASE_VIOL_COUNT 1).dram = s.dram :=
      (incSat_dram _ _ _).trans (setFld_dram _ _ _)
    rw [e]
    generalize incSat (setFld s Reg.SCAN_LEASE_VIOL_ADDR v) Reg.SCAN_LEASE_VIOL_COUNT 1 = u at hc hm hd ⊢
    split
    · exact ⟨hc, hm, hd⟩
    · have hr := rows_raise evLeaseViolation cs { u with leaseRaised := true } (by decide)
      exact ⟨(hc.trans (changes_leaseRaised u true)).trans (hr.changes.mono (by decide) fun _ h => .inr h), hr.mem.trans hm,
        (dram_raise _ cs _ (by decide)).trans hd⟩

/-- A host write of sound lines stores its bytes. -/
theorem hostWrite_effect {a : Nat} {data : Bytes} {s : State} (poison : Bool) (h : sound s a data.length) :
    Changes hostParts hostReg s (hostWrite a data poison s) ∧ Stored a data s (hostWrite a data poison s) := by
  have hw := writes_memWrite a data poison h
  obtain ⟨hc, hm, -⟩ := hostLease_effect a data.length (memWrite a data poison s)
  refine ⟨(hw.changes.mono (by decide) fun _ h => .inr h).trans hc, fun b => ?_⟩
  rw [hostWrite, hm]
  exact hw.stored b

/-- A command that is such a write completes with the bytes stored. -/
theorem completes_hostWrite {c : Instr} {f : State → State} {a : Nat} {data : Bytes} {poison : Bool} {s : State} (hs : s.settled)
    (hx : exec c s = done f s) (hf : f (fresh s) = hostWrite a data poison (fresh s)) (h : sound s a data.length) :
    Completes c s (Stored a data s) := by
  obtain ⟨hc, hst⟩ := hostWrite_effect (s := fresh s) poison h
  refine completes_done hx (hf ▸ settled_of_changes hc (by decide) (fun _ => not_hostReg_light) (settled_fresh hs)) fun t ht b => ?_
  rw [(ht.frame .memory (by decide)).1, hf]
  exact hst b

/-- A host read of bytes that can be read sends them. -/
theorem completes_hostRead {c : Instr} {f : State → State} {io : Bool} {a n : Nat} {s : State} (hs : s.settled)
    (hx : exec c s = done f s) (hf : f (fresh s) = hostRead io a n (fresh s)) (h : clean s a n) :
    Completes c s (fun t => Sent (.hostData (tblGetRun 0#8 s.mem a n) false) t ∧ t.mem = s.mem) := by
  obtain ⟨hrows, hval⟩ := memRead_clean (s := fresh s) grpHost h
  have he : hostRead io a n (fresh s) = emit (memRead grpHost a n (fresh s)).1 (.hostData (tblGetRun 0#8 s.mem a n) false) := by
    rw [hostRead, hval]
    simp only [Bool.and_false, Bool.false_eq_true, if_false]
    rfl
  have hemit := changes_emit (ps := rowParts) (w := rowReg) (memRead grpHost a n (fresh s)).1 (.hostData (tblGetRun 0#8 s.mem a n) false)
  have hset : (f (fresh s)).settled := by
    rw [hf, he]
    exact settled_of_changes (hrows.changes.trans hemit) (by decide) (fun _ => not_rowReg_light) (settled_fresh hs)
  refine completes_done hx hset fun t ht => ⟨ht.sent ?_, ?_⟩
  · rw [hf, he]
    exact List.mem_append_right _ List.mem_cons_self
  · rw [(ht.frame .memory (by decide)).1, hf, he]
    exact hrows.mem

/-- Settles O25: the access is one of sound lines, wherever it was mapped. -/
theorem hostMemoryAccesses : Obligations.HostMemoryAccesses := by
  unfold Obligations.HostMemoryAccesses
  refine fun s hs => ⟨fun addr a data p hm ha h => completes_hostWrite (poison := p) hs rfl ?_ h,
    fun addr a n hm ha h hp => completes_hostRead (io := false) hs rfl ?_ ⟨h, hp⟩,
    fun off data p hm hb hin hcap h => completes_hostWrite (poison := p) hs rfl ?_ h, fun off n hm hb hin hcap h hp => ?_⟩
  · simp only [show cxlMem (fresh s) = true from hm, show hostMap (fresh s) addr data.length = some a from ha, if_true]
  · simp only [show cxlMem (fresh s) = true from hm, show hostMap (fresh s) addr n = some a from ha, if_true]
  · have hhit := (Bool.and_eq_true _ _).mpr ⟨show inHdm (fresh s) (fld (fresh s) Reg.HOST_APER_BASE + off) data.length = true from hin,
      decide_eq_true (show fld (fresh s) Reg.HOST_APER_BASE + off + data.length ≤ capacity (fresh s) from hcap)⟩
    rw [if_pos ⟨hm, hb⟩, aperture]
    dsimp only [accessBytes]
    exact if_pos hhit
  · have hhit := (Bool.and_eq_true _ _).mpr ⟨show inHdm (fresh s) (fld (fresh s) Reg.HOST_APER_BASE + off) n = true from hin,
      decide_eq_true (show fld (fresh s) Reg.HOST_APER_BASE + off + n ≤ capacity (fresh s) from hcap)⟩
    obtain ⟨t, hx, hsent, -⟩ := completes_hostRead (c := .apertureAccess off (.read n)) (io := true) hs rfl (by
      rw [if_pos ⟨hm, hb⟩, aperture]
      dsimp only [accessBytes]
      exact if_pos hhit) ⟨h, hp⟩
    exact ⟨t, hx, hsent⟩

end Sys2Proof.Stray
end

section
/-! PROOFS. O40: the fabric's requests. A request alone takes a tag, is granted, is served and releases its tag. -/

namespace Sys2Proof.Stray

set_option Elab.async false

open Machine HostPort

/-! ### One channel's arbiter -/

/-- Channel `c`'s arbiter alone holds anything. -/
def OneArb (c : Nat) (a : Arbiter) (s : State) : Prop := s.dram.arb = tblSet {} [] c a

theorem tblSet_single {α : Type} [DecidableEq α] (d : α) (c : Nat) (a b : α) : tblSet d (tblSet d [] c a) c b = tblSet d [] c b := by
  unfold tblSet
  split_ifs <;> simp [tblErase, tblPut]

theorem OneArb.arbOf {c : Nat} {a : Arbiter} {s : State} (h : OneArb c a s) : arbOf s c = a := by
  rw [Machine.arbOf, h, tblGet_set_same]

theorem OneArb.heldReqs {c : Nat} {a : Arbiter} {s : State} (h : OneArb c a s) : heldReqs s = a.held := by
  rw [Machine.heldReqs, h]
  unfold tblSet
  split
  · next e => rw [e]; rfl
  · simp [tblPut]

theorem OneArb.setArb {c : Nat} {a : Arbiter} {s : State} (h : OneArb c a s) (b : Arbiter) : OneArb c b (setArb c b s) := by
  show tblSet {} s.dram.arb c b = _
  rw [h, tblSet_single]

theorem OneArb.kept {c : Nat} {a : Arbiter} {s t : State} (h : OneArb c a s) (k : DramKept s.dram t.dram) : OneArb c a t := k.arb.trans h

/-! ### Level 2 and level 3 with one request (R314 to R320) -/

theorem groupClass_le (g : Nat) : groupClass g ≤ 3 := by
  unfold groupClass
  split_ifs <;> omega

theorem nextRound_single (last x : Nat) : nextRound last [x] = x := by
  unfold nextRound
  by_cases h : last ≤ x <;> simp [h]

theorem roundPick_single (a : Arbiter) (h : HeldReq) : roundPick a [h] = some h := by
  have hk : min 3 (groupClass h.req.group) = groupClass h.req.group := Nat.min_eq_right (groupClass_le _)
  simp [roundPick, hk, nextRound_single]

theorem levelTwo_single {a : Arbiter} {h : HeldReq} (promoted : List Nat) (ha : a.waiting = [h]) (hr : roomFor a h = true) :
    ∃ round, levelTwo promoted a = some (h, round) := by
  have hg : grantable a [] a.waiting = [h] := by simp [ha, grantable, hr]
  unfold levelTwo
  rw [hg]
  dsimp only
  split
  · exact ⟨false, rfl⟩
  · split
    · next k hk => exact ⟨false, by rw [List.mem_singleton.1 (List.mem_of_find?_eq_some hk)]⟩
    · exact ⟨true, by rw [roundPick_single]; rfl⟩

theorem eldest_filter_single (s : State) (p : HeldReq → Bool) (h : HeldReq) :
    eldest s ([h].filter p) = if p h = true then some h else none := by
  by_cases hp : p h = true <;> simp [hp, eldest]

/-- A channel with one queued request serves it. -/
theorem schedule_single {a : Arbiter} {h : HeldReq} (s : State) (ha : a.reads = [h] ∧ a.writes = [] ∧ a.draining = false ∨ a.reads = [] ∧ a.writes = [h]) :
    schedule s a = some h := by
  have hpool : (if drains a then a.writes else a.reads) = [h] ∧ (if drains a then a.reads else a.writes) = [] ∧ a.reads ++ a.writes = [h] := by
    rcases ha with ⟨hr, hw, hd⟩ | ⟨hr, hw⟩
    · simp [drains, hr, hw, hd]
    · simp [drains, hr, hw]
  unfold schedule
  simp only [hpool.1, hpool.2.1, hpool.2.2, eldest_filter_single]
  split
  · rfl
  · split
    · rfl
    · split
      · rfl
      · simp [eldest]

/-! ### A request's issue, grant and release -/

/-- The registers of the tags. -/
def tagReg (o : Nat) : Prop := 0x40040 ≤ o ∧ o < 0x4005C

theorem tagClient_lt (g : Nat) : tagClient g < 7 := by
  unfold tagClient
  split_ifs <;> omega

theorem changes_tagReg (s : State) {i : Nat} (v : DWord) (h : i < 7) : Changes rowParts tagReg s (setReg s (Reg.MFB_TAGS i) v) :=
  changes_setReg s _ v (regs_blockOf_mem _) ⟨by lia, by lia⟩ (by lia)

theorem changes_fixTags (s : State) {i : Nat} (h : i < 7) : Changes rowParts tagReg s (fixTags i s) :=
  (changes_tagReg s _ h).trans (changes_tagReg _ _ h)

theorem dram_fixTags (i : Nat) (s : State) : (fixTags i s).dram = s.dram := rfl

/-- The tags in use follow the requests held. -/
theorem inUse_fixTags {i : Nat} {s : State} (h : heldReqs s = []) : fld (fixTags i s) (Reg.MFB_TAGS_IN_USE i) = 0 := by
  rw [fixTags, h]
  exact (fld_setFld_apart _ _ (by decide)).trans (fld_setFld_self _ _ (by decide))

theorem changes_dram {w : Nat → Prop} (s : State) (d : MemState) : Changes rowParts w s { s with dram := d } :=
  changes_of_frame (fun p hq => by cases p <;> first | exact absurd (by decide) hq | exact fun _ _ _ => rfl | rfl | simp [Part.same]) rfl rfl

/-- From `s` to `t` tags were taken or released and requests moved; the rest of the DRAM's state is as it was. -/
structure Tagged (s t : State) : Prop where
  changes : Changes rowParts tagReg s t
  errs : t.dram.errs = s.dram.errs
  pop : t.dram.pop = s.dram.pop
  stalled : t.dram.stalled = s.dram.stalled
  ceWin : t.dram.ceWin = s.dram.ceWin
  selfRefresh : t.dram.selfRefresh = s.dram.selfRefresh

theorem Tagged.trans {s t u : State} (h : Tagged s t) (k : Tagged t u) : Tagged s u :=
  ⟨h.changes.trans k.changes, k.errs.trans h.errs, k.pop.trans h.pop, k.stalled.trans h.stalled, k.ceWin.trans h.ceWin,
    k.selfRefresh.trans h.selfRefresh⟩

theorem tagged_setArb (c : Nat) (a : Arbiter) (s : State) : Tagged s (setArb c a s) := ⟨changes_dram s _, rfl, rfl, rfl, rfl, rfl⟩

theorem tagged_fixTags (s : State) {i : Nat} (h : i < 7) : Tagged s (fixTags i s) := ⟨changes_fixTags s h, rfl, rfl, rfl, rfl, rfl⟩

theorem Tagged.placing {s t : State} (h : Tagged s t) : Placing s t := by
  refine ⟨fun o ho => h.changes.regs o ?_, h.pop⟩
  rintro ⟨h1, h2⟩
  obtain rfl | rfl | ⟨c, rfl | rfl | rfl⟩ := ho <;> revert h1 h2 <;> lia

/-- A request that is alone takes a tag and waits. -/
theorem issue_alone {q : MemReq} {s : State} (harb : s.dram.arb = []) (ht : (tagRange s q).2 ≠ 0)
    (hchk : issueCheck s q = .ok) (hcap : 64 * (q.addr / 64) < capacity s) :
    ∃ h : HeldReq, h.req = q ∧ OneArb (reqCh s q) { waiting := [h] } (issue q s) ∧ Tagged s (issue q s) := by
  have hheld : heldReqs s = [] := by rw [heldReqs, harb]; rfl
  have hfree : ∃ t, freeTagOf s q = some t := by
    obtain ⟨n, hn⟩ := Nat.exists_eq_succ_of_ne_zero ht
    have hall : ∀ t, tagHeld s t = false := fun t => by rw [tagHeld, hheld]; rfl
    exact ⟨(tagRange s q).1, by simp [freeTagOf, hall, hn, List.range_succ_eq_map]⟩
  obtain ⟨t, hfree⟩ := hfree
  have ha : arbOf s (reqCh s q) = {} := by rw [arbOf, harb]; rfl
  have he : issue q s = fixTags (tagClient q.group) (setArb (reqCh s q) { waiting := [⟨t, time50 s, q, false⟩] } s) := by
    rw [issue, if_neg (fun h => ht h.2), if_neg (fun h => h hchk), if_neg (by omega), takeTag, hfree]
    dsimp only
    rw [ha]
    rfl
  rw [he]
  refine ⟨⟨t, time50 s, q, false⟩, rfl, ?_, (tagged_setArb _ _ s).trans (tagged_fixTags _ (tagClient_lt _))⟩
  rw [OneArb, dram_fixTags, ← harb]
  rfl

/-- The tags that are released: with nothing held or stalled, none of the client's is in use. -/
theorem released_alone {h : HeldReq} {s : State} (hheld : heldReqs s = []) (hst : s.dram.stalled = []) :
    Tagged s (released h s) ∧ (released h s).dram.arb = s.dram.arb ∧
      fld (released h s) (Reg.MFB_TAGS_IN_USE (tagClient h.req.group)) = 0 ∧ (released h s).mem = s.mem := by
  have hd : Tagged s { s with dram := { s.dram with promoted := setErase h.tag s.dram.promoted } } := ⟨changes_dram s _, rfl, rfl, rfl, rfl, rfl⟩
  have he : released h s = fixTags (tagClient h.req.group) { s with dram := { s.dram with promoted := setErase h.tag s.dram.promoted } } := by
    rw [released, unstall, dram_fixTags]
    dsimp only
    rw [hst]
    rfl
  rw [he]
  exact ⟨hd.trans (tagged_fixTags _ (tagClient_lt _)), rfl, inUse_fixTags hheld, rfl⟩

/-- Level 2 grants a request that waits alone. -/
theorem grantOne_single {c : Nat} {h : HeldReq} {s : State} (ha : OneArb c { waiting := [h] } s) :
    ∃ a, (a.waiting = [] ∧ a.draining = false) ∧
      (if h.req.write.isSome = true then a.reads = [] ∧ ∃ p, a.writes = [{ h with prom := p }] else a.reads = [h] ∧ a.writes = []) ∧
      grantOne c s = if h.req.write.isSome = true then (acceptWrite h (setArb c a s), some true) else (setArb c a s, some false) := by
  obtain ⟨round, hr⟩ := levelTwo_single (a := { waiting := [h] }) (h := h) s.dram.promoted rfl (by simp [roomFor])
  refine ⟨Arbiter.granted { waiting := [h] } s.dram.promoted h round, ?_, ?_, ?_⟩
  · unfold Arbiter.granted
    split_ifs <;> simp
  · unfold Arbiter.granted
    by_cases hw : h.req.write.isSome = true
    · rw [if_pos hw]
      cases round <;> simp [hw]
    · rw [if_neg hw]
      cases round <;> simp [hw]
  · rw [grantOne, ha.arbOf, hr]

theorem Tagged.channelRuns {s t : State} (h : Tagged s t) (c : Nat) : channelRuns t c = channelRuns s c := by
  rw [Machine.channelRuns, nch, h.placing.fld (f := Reg.MFB_STAT_NCH) (.inl rfl), h.selfRefresh, Machine.channelRuns, nch]

theorem Tagged.sound {s t : State} (h : Tagged s t) {line : Nat} (hl : SoundLine s line) : SoundLine t line :=
  h.placing.soundLine (by rw [h.errs]) hl

theorem Tagged.mem {s t : State} (h : Tagged s t) : t.mem = s.mem := (h.changes.frame .memory (by decide)).1
theorem Tagged.poison {s t : State} (h : Tagged s t) : t.poison = s.poison := (h.changes.frame .memory (by decide)).2

/-- What the statement has of a request that is alone. -/
structure Alone (s : State) (q : MemReq) : Prop where
  arb : s.dram.arb = []
  stalled : s.dram.stalled = []
  runs : channelRuns s (reqCh s q) = true
  tags : (tagRange s q).2 ≠ 0
  line : SoundLine s (q.addr / 64)

/-- A read that is alone reads its line, and releases its tag. -/
theorem memReadReturn_alone {s : State} {q : MemReq} (ha : Alone s q) (hq : q.write = none) (bad : Nat) :
    ∃ h v, h.req = q ∧ Tagged s v ∧ (∃ a, OneArb (reqCh s q) a v ∧ a.held = []) ∧
      memReadReturn (reqCh s q) [q] bad s = released h (lineRead q.group (q.addr / 64) bad v).1 := by
  obtain ⟨h, hreq, hone, htag⟩ := issue_alone ha.arb ha.tags (by rw [issueCheck, if_pos (.inl (by rw [hq]; rfl))]) ha.line.1
  have hw : ¬ h.req.write.isSome = true := by rw [hreq, hq]; exact Bool.false_ne_true
  obtain ⟨a, ⟨hwait, hdrain⟩, hqueue, hgrant⟩ := grantOne_single hone
  rw [if_neg hw] at hqueue hgrant
  obtain ⟨hreads, hwrites⟩ := hqueue
  generalize hu : issue q s = u at hone htag hgrant
  have hv : OneArb (reqCh s q) a (setArb (reqCh s q) a u) := hone.setArb a
  have hall : grantAll (reqCh s q) (arbOf u (reqCh s q)).waiting.length u = setArb (reqCh s q) a u := by
    rw [hone.arbOf]
    show (if (grantOne _ u).2 = none then (grantOne _ u).1 else grantAll _ 0 (grantOne _ u).1) = _
    rw [hgrant]
    rfl
  have hsched : schedule (setArb (reqCh s q) a u) (arbOf (setArb (reqCh s q) a u) (reqCh s q)) = some h := by
    rw [hv.arbOf]
    exact schedule_single _ (.inl ⟨hreads, hwrites, hdrain⟩)
  have hrun : memReadReturn (reqCh s q) [q] bad s = serveRead (reqCh s q) bad h (setArb (reqCh s q) a u) := by
    rw [memReadReturn, List.foldl_cons, List.foldl_nil, hu]
    rw [htag.channelRuns, ha.runs, if_pos rfl, hone.arbOf]
    show channelRun _ _ 2 u = _
    rw [channelRun, hall, hsched]
    exact if_neg hw
  generalize hb : ({ a with reads := a.reads.erase h, draining := drains a } : Arbiter).ran (rowHit (setArb (reqCh s q) a u) h)
    (reqBank (setArb (reqCh s q) a u) h) = b
  have hbheld : b.held = [] := by
    rw [← hb]
    simp [Arbiter.ran, Arbiter.held, hreads, hwait]
  refine ⟨h, setArb (reqCh s q) b (setArb (reqCh s q) a u), hreq, (htag.trans (tagged_setArb _ _ _)).trans (tagged_setArb _ _ _),
    ⟨b, hv.setArb b, hbheld⟩, ?_⟩
  have hnone : (a.writes.any fun w => decide (w.req.addr / 64 = q.addr / 64)) = false := by rw [hwrites]; rfl
  rw [hrun, serveRead]
  simp only [hv.arbOf, hreq, hnone, Bool.false_eq_true, if_false, hb]

/-! ### Reads -/

/-- The registers that a request's course may change. -/
def fabricReg (o : Nat) : Prop := tagReg o ∨ hostReg o

theorem not_tagReg_light {o : Nat} (h : lightReg o) : ¬ tagReg o := by
  rintro ⟨h1, h2⟩
  obtain rfl | rfl | ⟨g, hg, rfl | rfl⟩ := h <;> revert h1 h2 <;> lia

theorem not_fabricReg_light {o : Nat} (h : lightReg o) : ¬ fabricReg o := by
  rintro (e | e)
  · exact not_tagReg_light h e
  · exact not_hostReg_light h e

theorem Tagged.fabric {s t : State} (h : Tagged s t) : Changes hostParts fabricReg s t := h.changes.mono (by decide) fun _ => .inl

/-- A read that is alone, of a line without an error, completes. -/
theorem completes_read {s : State} {q : MemReq} (hs : s.settled) (ha : Alone s q) (hq : q.write = none)
    (hp : linePoisoned s (q.addr / 64) = false) : Completes (.memReadReturn (reqCh s q) [q] 0) s (fun t =>
      heldReqs t = [] ∧ fld t (Reg.MFB_TAGS_IN_USE (tagClient q.group)) = 0 ∧ t.mem = s.mem) := by
  obtain ⟨h, v, hreq, htag, ⟨a, hone, hheld⟩, he⟩ := memReadReturn_alone (s := fresh s) ⟨ha.arb, ha.stalled, ha.runs, ha.tags, ha.line⟩ hq 0
  obtain ⟨hrows, -⟩ := lineRead_clean (s := v) q.group (htag.sound (s := fresh s) ha.line) (by
    rw [linePoisoned, htag.poison]
    exact hp)
  generalize (lineRead q.group (q.addr / 64) 0 v).1 = x at hrows he
  have honex := hone.kept hrows.kept
  have hnone : heldReqs x = [] := honex.heldReqs.trans hheld
  obtain ⟨hrel, harb, huse, hmem⟩ := released_alone (h := h) hnone ((hrows.kept.stalled.trans htag.stalled).trans ha.stalled)
  have hc : Changes hostParts fabricReg (fresh s) (released h x) :=
    (htag.fabric.trans (hrows.changes.mono (by decide) fun _ k => .inr (.inr k))).trans hrel.fabric
  refine completes_done rfl (settled_of_changes (by exact he ▸ hc) (by decide) (fun _ => not_fabricReg_light) (settled_fresh hs)) fun t ht => ?_
  have hd : t.dram = (released h x).dram := by
    rw [ht.frame .dram (by decide)]
    exact congrArg State.dram he
  refine ⟨?_, ?_, ?_⟩
  · rw [heldReqs, hd, harb]
    exact hnone
  · rw [ht.fld_eq id, ← huse, hreq]
    exact congrArg (fld · _) he
  · rw [(ht.frame .memory (by decide)).1]
    exact (congrArg State.mem he).trans (hmem.trans (hrows.mem.trans htag.mem))

end Sys2Proof.Stray
end

section
/-! PROOFS. O40: a read with one wrong device, a write, and requests that starve. -/

namespace Sys2Proof.Stray

set_option Elab.async false

open Machine HostPort

/-! ### One wrong device (R322 to R325) -/

/-- The registers that a read with one wrong device may change: of its channel also the counts of its ranks, the last error and the
poisoned reads. -/
def correctReg (o : Nat) : Prop := rowReg o ∨ 0x80000 ≤ o ∧ (0x30 ≤ o % 0x10000 ∧ o % 0x10000 < 0x40 ∨ o % 0x10000 = 0x50 ∨ o % 0x10000 = 0x58)

/-- The kinds of state that it may change. -/
def correctParts : List Part := .log :: hostParts

theorem not_correctReg_light {o : Nat} (h : lightReg o) : ¬ correctReg o := by
  rintro (e | e)
  · exact not_rowReg_light h e
  · obtain rfl | rfl | ⟨g, hg, rfl | rfl⟩ := h <;> revert e <;> lia

theorem changes_correctReg (s : State) {o : Nat} (v : DWord)
    (h : 0x80000 ≤ o ∧ (0x30 ≤ o % 0x10000 ∧ o % 0x10000 < 0x40 ∨ o % 0x10000 = 0x50 ∨ o % 0x10000 = 0x58)) :
    Changes correctParts correctReg s (setReg s o v) :=
  changes_setReg s o v (List.mem_cons_of_mem _ (List.mem_cons_of_mem _ (List.mem_cons_of_mem _ (regs_blockOf_mem o)))) (.inr h)
    (by show o ≠ 0x18; omega)

theorem changes_log (s : State) (l : LampLog) : Changes correctParts correctReg s { s with log := l } :=
  changes_of_frame (fun p hq => by cases p <;> first | exact absurd (by decide) hq | exact fun _ _ _ => rfl | rfl | simp [Part.same]) rfl rfl

theorem Rows.correct {s t : State} (h : Rows s t) : Changes correctParts correctReg s t := h.changes.mono (by decide) fun _ => .inl

/-- The record of a corrected error: counted, its device kept, raised. -/
structure Corrected (c p d : Nat) (s t : State) : Prop where
  changes : Changes correctParts correctReg s t
  ember : Ember evMemCe t
  count : Counted (Reg.DMC_ECC_CE_COUNT c p) s t
  device : fld t (Reg.DMC_ECC_CE_DEVICE c p) = d
  mem : ∀ b, tblGet 0#8 t.mem b = tblGet 0#8 s.mem b
  arb : t.dram.arb = s.dram.arb
  stalled : t.dram.stalled = s.dram.stalled

/-- The registers and the event of a corrected error. -/
def correctedRecord (c p d addr : Nat) (s : State) : State :=
  raise evMemCe [(64, addr), (8, c), (8, p), (8, d)] (eccLast c addr 1 p d (setFld (incSat (incSat s (Reg.DMC_ECC_CE_COUNT c p) 1)
    (Reg.DMC_ECC_CE_WINDOW c p) 1) (Reg.DMC_ECC_CE_DEVICE c p) d))

theorem correctedRecord_effect {c p d : Nat} (addr : Nat) (hp : p < 4) (hd : d < 32) (s : State) : Corrected c p d s (correctedRecord c p d addr s) := by
  have hce : 0x80000 ≤ Reg.DMC_ECC_CE c p ∧ 0x30 ≤ Reg.DMC_ECC_CE c p % 0x10000 ∧ Reg.DMC_ECC_CE c p % 0x10000 < 0x40 := by lia
  have hlast : Reg.DMC_ECC_LAST c % 0x10000 = 0x50 := by lia
  have hne : Reg.DMC_ECC_CE c p ≠ Reg.DMC_ECC_LAST c := by lia
  generalize hu : setFld (incSat (incSat s (Reg.DMC_ECC_CE_COUNT c p) 1) (Reg.DMC_ECC_CE_WINDOW c p) 1) (Reg.DMC_ECC_CE_DEVICE c p) d = u
  have h1 : Changes correctParts correctReg s u := by
    rw [← hu]
    have hset : ∀ (x : State) (v : DWord), Changes correctParts correctReg x (setReg x (Reg.DMC_ECC_CE c p) v) :=
      fun x v => changes_correctReg x v ⟨hce.1, .inl hce.2⟩
    exact ((hset s _).trans (hset _ _)).trans (hset _ _)
  have hl : Changes correctParts correctReg u (eccLast c addr 1 p d u) := changes_correctReg u _ ⟨by lia, .inr (.inl hlast)⟩
  have hr := rows_raise evMemCe [(64, (addr : Int)), (8, (c : Int)), (8, (p : Int)), (8, (d : Int))] (eccLast c addr 1 p d u) (by decide)
  have hreg : reg (correctedRecord c p d addr s) (Reg.DMC_ECC_CE c p) = reg u (Reg.DMC_ECC_CE c p) := by
    rw [correctedRecord, hu, hr.changes.regs _ (not_rowReg (.inr (.inr ⟨hce.1, by lia⟩)))]
    exact reg_setReg_ne u _ hne
  have hcount : fld u (Reg.DMC_ECC_CE_COUNT c p) = satAdd 16 (fld s (Reg.DMC_ECC_CE_COUNT c p)) 1 := by
    rw [← hu, fld_setFld_apart _ _ (by decide), incSat, fld_setFld_apart _ _ (by decide), fld_incSat _ _ _ ⟨(by decide : 0 ≤ 15), (by decide : 15 < 64)⟩]
    rfl
  have hdev : fld u (Reg.DMC_ECC_CE_DEVICE c p) = d := by
    rw [← hu, fld_setFld_self _ _ (by decide)]
    exact Nat.mod_eq_of_lt hd
  have hdram : u.dram = s.dram := by
    rw [← hu, setFld_dram, incSat_dram, incSat_dram]
  have hmem : u.mem = s.mem := by
    rw [← hu, setFld_mem, incSat_mem, incSat_mem]
  refine ⟨?_, ?_, (fld_congr_reg hreg).trans hcount, (fld_congr_reg hreg).trans hdev, fun b => ?_, ?_, ?_⟩
  · rw [correctedRecord, hu]
    exact (h1.trans hl).trans hr.correct
  · exact ember_raise _ _ _ (by decide)
  · rw [correctedRecord, hu, hr.mem, eccLast, setReg_mem, hmem]
  · rw [correctedRecord, hu, hr.kept.arb, eccLast, setReg_dram, hdram]
  · rw [correctedRecord, hu, hr.kept.stalled, eccLast, setReg_dram, hdram]

/-- A change of what the record does not speak of, before it. -/
theorem Corrected.after {c p d : Nat} {s t u : State} (h : Changes correctParts correctReg s t)
    (hce : reg t (Reg.DMC_ECC_CE c p) = reg s (Reg.DMC_ECC_CE c p)) (hm : ∀ b, tblGet 0#8 t.mem b = tblGet 0#8 s.mem b)
    (ha : t.dram.arb = s.dram.arb) (hst : t.dram.stalled = s.dram.stalled) (k : Corrected c p d t u) : Corrected c p d s u :=
  ⟨h.trans k.changes, k.ember, k.count.trans (by rw [fld_congr_reg (f := Reg.DMC_ECC_CE_COUNT c p) hce]), k.device,
    fun b => (k.mem b).trans (hm b), k.arb.trans ha, k.stalled.trans hst⟩

/-- Rows opened, or a poisoned line reported, after it. -/
theorem Corrected.before {c p d : Nat} {s t u : State} (h : Corrected c p d s t) (k : Changes correctParts correctReg t u)
    (hce : reg u (Reg.DMC_ECC_CE c p) = reg t (Reg.DMC_ECC_CE c p)) (he : Ember evMemCe t → Ember evMemCe u) (hm : u.mem = t.mem)
    (ha : u.dram.arb = t.dram.arb) (hst : u.dram.stalled = t.dram.stalled) : Corrected c p d s u :=
  ⟨h.changes.trans k, he h.ember, (fld_congr_reg hce).trans h.count, (fld_congr_reg hce).trans h.device,
    fun b => by rw [hm]; exact h.mem b, ha.trans h.arb, hst.trans h.stalled⟩

theorem not_rowReg_ce (c p : Nat) (hp : p < 4) : ¬ rowReg (Reg.DMC_ECC_CE c p) := not_rowReg (.inr (.inr (by lia)))

theorem not_correctReg_cfg (c : Nat) : ¬ correctReg (Reg.DMC_ECC_CFG c) := by
  rintro (e | e)
  · exact not_rowReg (.inr (.inr (by lia))) e
  · revert e
    lia

/-- An error below the threshold is recorded, and no more. -/
theorem correctedError_effect {c p d : Nat} (addr : Nat) {s : State} (hp : p < 4) (hd : d < 32)
    (ht : tblGet 0 s.dram.ceWin (4 * c + p) + 1 ≤ fld s (Reg.DMC_ECC_CFG_CE_THRESH c)) : Corrected c p d s (correctedError c p d addr s) := by
  unfold correctedError
  extract_lets w ce dr s1 lg s2 s3 s4 s5
  have h1 : Changes correctParts correctReg s s1 := (changes_dram (w := correctReg) s _).mono (qs := correctParts) (by decide) fun _ h => h
  have h2 : Changes correctParts correctReg s s2 := h1.trans (changes_log s1 _)
  have hrec : Corrected c p d s2 s5 := correctedRecord_effect addr hp hd s2
  have hth : fld s5 (Reg.DMC_ECC_CFG_CE_THRESH c) = fld s (Reg.DMC_ECC_CFG_CE_THRESH c) :=
    (h2.trans hrec.changes).fld_eq (not_correctReg_cfg c)
  rw [if_neg (by rw [hth]; exact Nat.not_lt.2 ht)]
  exact hrec.after h2 rfl (fun _ => rfl) rfl rfl

theorem bitOf_two_pow (d k : Nat) : bitOf (2 ^ d) k = decide (k = d) := by
  have h : (2 ^ d).testBit k = decide (d = k) := Nat.testBit_two_pow
  rw [Nat.testBit_eq_decide_div_mod_eq] at h
  rw [bitOf, h]
  exact decide_eq_decide.2 eq_comm

theorem devicesOf_two_pow {d n : Nat} (h : d < n) : devicesOf (2 ^ d) n = [d] := by
  unfold devicesOf
  simp only [bitOf_two_pow]
  have hc : (List.range n).count d = 1 := List.count_eq_one_of_mem List.nodup_range (List.mem_range.2 h)
  have hf := List.filter_eq d (l := List.range n)
  rw [hc] at hf
  simpa using hf

theorem lineDevices_le (s : State) : lineDevices s ≤ 18 := by
  unfold lineDevices
  split <;> omega

/-- A sound line read with one wrong device is corrected, and written back as it stood. -/
theorem eccEffects_one {line d p : Nat} {s : State} {c : Nat} (hp : p < 4) (hd : d < lineDevices s) (he : tblGet 0 s.dram.errs line = 0)
    (ht : tblGet 0 s.dram.ceWin (4 * c + p) + 1 ≤ fld s (Reg.DMC_ECC_CFG_CE_THRESH c)) :
    Corrected c p d s (eccEffects c p line (2 ^ d) s) ∧
      ((∃ b, eccRead s line (2 ^ d) = .good (some d) b) ∨ eccRead s line (2 ^ d) = .poisoned (some d)) := by
  have hmask : Nat.lor 0 (2 ^ d) = 2 ^ d := Nat.zero_or _
  have hr : eccRead s line (2 ^ d) = if linePoisoned s line then .poisoned (some d) else .good (some d) (lineBytes s line) := by
    rw [eccRead, he, hmask, devicesOf_two_pow hd]
  have hd32 : d < 32 := by
    have := lineDevices_le s
    omega
  have hfree : (if 2 ^ d ≠ 0 ∧ 3 ≤ (devicesOf (Nat.lor (tblGet 0 s.dram.errs line) (2 ^ d)) (lineDevices s)).length then
      { s with free := s.free + 64 } else s) = s := by
    rw [he, hmask, devicesOf_two_pow hd]
    exact if_neg fun h => absurd h.2 (by simp)
  unfold eccEffects
  dsimp only
  rw [hfree, hr]
  by_cases hpois : linePoisoned s line = true
  · rw [if_pos hpois]
    refine ⟨?_, .inr rfl⟩
    have hb : Beside line s (clearErrs line s) := beside_errs line 0 s
    exact (correctedError_effect (64 * line) (s := clearErrs line s) hp hd32 ht).after (hb.changes.mono (by decide) fun _ => .inl) rfl (fun _ => rfl) rfl rfl
  · rw [if_neg hpois]
    refine ⟨?_, .inl ⟨_, rfl⟩⟩
    have hb : Changes correctParts correctReg s (lineRewrite line (lineBytes s line) s) :=
      ((changes_mem s _).trans (beside_errs line 0 _).changes).mono (by decide) fun _ => .inl
    refine (correctedError_effect (64 * line) (s := lineRewrite line (lineBytes s line) s) hp hd32 ht).after hb rfl (fun b => ?_) rfl rfl
    show tblGet 0#8 (tblSetRun 0#8 s.mem (64 * line) (tblGetRun 0#8 s.mem (64 * line) 64)) b = _
    rw [tblGet_setRun, tblGetRun_length]
    split
    · next h =>
      rw [tblGetRun_getD _ _ _ _ _ (by omega)]
      exact congrArg (tblGet 0#8 s.mem) (by omega)
    · rfl

/-- A poisoned line that is read is counted, and raised at most. -/
theorem poisonReturned_cases (c addr grp p : Nat) (s : State) :
    let u := incSat s (Reg.DMC_UE_CNT_POISON_READ c) 1
    poisonReturned c addr grp false p s = u ∨ ∃ l cs,
      poisonReturned c addr grp false p s = raise evMemPoison cs { u with dram := { u.dram with poisonAt := l } } := by
  unfold poisonReturned
  extract_lets s1 s2 t
  have e2 : s2 = s1 := if_neg Bool.false_ne_true
  clear_value t s2
  subst e2
  by_cases ht : t = 0 ∨ t + 1000000 ≤ s1.ns + 1
  · rw [if_pos ht]
    exact .inr ⟨_, _, rfl⟩
  · rw [if_neg ht]
    exact .inl rfl

/-- It leaves the record of a corrected error. -/
theorem Corrected.poisonReturned {c p d : Nat} {s t : State} (hp : p < 4) (h : Corrected c p d s t) (addr grp q : Nat) :
    Corrected c p d s (poisonReturned c addr grp false q t) := by
  have hne : Reg.DMC_ECC_CE c p ≠ Reg.DMC_UE_CNT c := by lia
  have hu : Corrected c p d s (incSat t (Reg.DMC_UE_CNT_POISON_READ c) 1) :=
    h.before (changes_correctReg t _ ⟨by lia, .inr (.inr (by lia))⟩) (reg_setReg_ne t _ hne) (fun he => Timing.ember_setReg he _ (by lia) (by decide)) rfl rfl rfl
  have hc := poisonReturned_cases c addr grp q t
  generalize incSat t (Reg.DMC_UE_CNT_POISON_READ c) 1 = u at hu hc
  obtain e | ⟨l, cs, e⟩ := hc
  · rw [e]
    exact hu
  · rw [e]
    have hr := rows_raise evMemPoison cs { u with dram := { u.dram with poisonAt := l } } (by decide)
    exact hu.before (((changes_dram (w := correctReg) u _).mono (by decide) fun _ h => h).trans hr.correct) (hr.changes.regs _ (not_rowReg_ce c p hp))
      (fun he => Timing.ember_raise_keeps (by decide) cs he) hr.mem hr.kept.arb hr.kept.stalled

/-- A read of a sound line with one wrong device corrects it. -/
theorem lineRead_one {line d : Nat} {s : State} (grp : Nat) (h : SoundLine s line) (hd : d < lineDevices s)
    (ht : tblGet 0 s.dram.ceWin (4 * (placeOf s line).ch + servingRank s (placeOf s line)) + 1 ≤ fld s (Reg.DMC_ECC_CFG_CE_THRESH (placeOf s line).ch)) :
    Corrected (placeOf s line).ch (servingRank s (placeOf s line)) d s (lineRead grp line (2 ^ d) s).1 := by
  obtain ⟨hcap, herr, hphys, hserve⟩ := h
  have hp : servingRank s (placeOf s line) < 4 := by
    have hphys : physRank s (placeOf s line).ch (placeOf s line).rank < 4 := by
      have hlt := fld_lt s (Reg.DMC_RANKMAP_PRANK (placeOf s line).ch (placeOf s line).rank)
      rwa [show 4 * (placeOf s line).rank + 1 - (4 * (placeOf s line).rank + 0) + 1 = 2 by omega] at hlt
    unfold servingRank
    dsimp only
    split
    · exact fld_lt s (Reg.DMC_MIGRATE_DST (placeOf s line).ch)
    · exact hphys
  unfold lineRead
  rw [if_neg (by omega)]
  extract_lets dr s1 pl
  have h1 : Rows s s1 := rows_dram rfl ⟨rfl, rfl, rfl, rfl⟩
  have hrows : Rows s (bankAccess pl.ch (servingRank s1 pl) pl.bank pl.row s1) := h1.trans (rows_bankAccess _ _ _ _ s1)
  generalize bankAccess pl.ch (servingRank s1 pl) pl.bank pl.row s1 = u at hrows ⊢
  have hpl := hrows.placing
  obtain ⟨-, herru, -, hserveu⟩ := hpl.soundLine (by rw [hrows.errs]) ⟨hcap, herr, hphys, hserve⟩
  have hdev : lineDevices u = lineDevices s := by rw [lineDevices, isDdr5, hpl.fld (f := Reg.MFB_STAT_TYPE) (.inl rfl)]; rfl
  have hce := not_rowReg_ce (placeOf s line).ch (servingRank s (placeOf s line)) hp
  rw [hpl.placeOf, hpl.servingRank] at hserveu
  obtain ⟨heff, hread⟩ := eccEffects_one (line := line) (d := d) (p := servingRank s (placeOf s line)) (s := u) (c := (placeOf s line).ch) hp (by rw [hdev]; exact hd) herru (by
    rw [hrows.kept.ceWin, hrows.changes.fld_eq (fun k => not_correctReg_cfg (placeOf s line).ch (.inl k))]
    exact ht)
  have hcorr : Corrected (placeOf s line).ch (servingRank s (placeOf s line)) d s (eccEffects (placeOf s line).ch (servingRank s (placeOf s line)) line (2 ^ d) u) :=
    heff.after hrows.correct (hrows.changes.regs _ hce) (fun b => by rw [hrows.mem]) hrows.kept.arb hrows.kept.stalled
  unfold lineDecode
  dsimp only
  rw [hpl.placeOf, hpl.servingRank, if_neg (by rw [hserveu]; exact Bool.false_ne_true)]
  obtain ⟨b, hgood⟩ | hpois := hread
  · rw [hgood]
    exact hcorr
  · rw [hpois]
    exact hcorr.poisonReturned hp _ _ _

theorem not_fabric_correct_light {o : Nat} (h : lightReg o) : ¬ (fabricReg o ∨ correctReg o) := by
  rintro (e | e)
  · exact not_fabricReg_light h e
  · exact not_correctReg_light h e

/-- A read that is alone, of a line with one wrong device, completes. -/
theorem completes_read_one {s : State} {q : MemReq} (hs : s.settled) (ha : Alone s q) (hq : q.write = none) {d : Nat} (hd : d < lineDevices s)
    (ht : tblGet 0 s.dram.ceWin (4 * reqCh s q + servingRank s (placeOf s (q.addr / 64))) + 1 ≤ fld s (Reg.DMC_ECC_CFG_CE_THRESH (reqCh s q))) :
    Completes (.memReadReturn (reqCh s q) [q] (BitVec.ofNat 18 (2 ^ d))) s (fun t => heldReqs t = [] ∧ Ember evMemCe t ∧
      Counted (Reg.DMC_ECC_CE_COUNT (reqCh s q) (servingRank s (placeOf s (q.addr / 64)))) s t ∧
      fld t (Reg.DMC_ECC_CE_DEVICE (reqCh s q) (servingRank s (placeOf s (q.addr / 64)))) = d ∧ ∀ b, tblGet 0#8 t.mem b = tblGet 0#8 s.mem b) := by
  have hbad : (BitVec.ofNat 18 (2 ^ d)).toNat = 2 ^ d := by
    rw [BitVec.toNat_ofNat]
    exact Nat.mod_eq_of_lt (Nat.pow_lt_pow_right (by decide) (lt_of_lt_of_le hd (lineDevices_le s)))
  obtain ⟨h, v, hreq, htag, ⟨a, hone, hheld⟩, he⟩ := memReadReturn_alone (s := fresh s) ⟨ha.arb, ha.stalled, ha.runs, ha.tags, ha.line⟩ hq (2 ^ d)
  have hpl := htag.placing
  have hplace : placeOf v (q.addr / 64) = placeOf s (q.addr / 64) := hpl.placeOf _
  have hserve : servingRank v (placeOf s (q.addr / 64)) = servingRank s (placeOf s (q.addr / 64)) := hpl.servingRank _
  have hcfg : fld v (Reg.DMC_ECC_CFG_CE_THRESH (reqCh s q)) = fld s (Reg.DMC_ECC_CFG_CE_THRESH (reqCh s q)) :=
    htag.changes.fld_eq (fun k => by obtain ⟨h1, h2⟩ := k; revert h1 h2; lia)
  have hdev : lineDevices v = lineDevices s := by rw [lineDevices, isDdr5, hpl.fld (f := Reg.MFB_STAT_TYPE) (.inl rfl)]; rfl
  have hcorr := lineRead_one (d := d) (s := v) q.group (htag.sound (s := fresh s) ha.line) (by rw [hdev]; exact hd) (by
    rw [hplace, hserve, htag.ceWin]
    exact ht.trans_eq hcfg.symm)
  rw [hplace, hserve] at hcorr
  have hv : Corrected (reqCh s q) (servingRank s (placeOf s (q.addr / 64))) d v (lineRead q.group (q.addr / 64) (2 ^ d) v).1 := hcorr
  generalize (lineRead q.group (q.addr / 64) (2 ^ d) v).1 = x at hv he
  have honex : OneArb (reqCh s q) a x := hv.arb.trans hone
  have hnone : heldReqs x = [] := honex.heldReqs.trans hheld
  obtain ⟨hrel, harb, -, hmem⟩ := released_alone (h := h) hnone ((hv.stalled.trans htag.stalled).trans ha.stalled)
  have hce : ∀ {y z : State}, Tagged y z → reg z (Reg.DMC_ECC_CE (reqCh s q) (servingRank s (placeOf s (q.addr / 64)))) =
      reg y (Reg.DMC_ECC_CE (reqCh s q) (servingRank s (placeOf s (q.addr / 64)))) := fun k => k.changes.regs _ fun ⟨h1, h2⟩ => by revert h1 h2; lia
  have hc : Changes correctParts (fun o => fabricReg o ∨ correctReg o) (fresh s) (released h x) :=
    ((htag.fabric.mono (by decide) fun _ => .inl).trans (hv.changes.mono (by decide) fun _ => .inr)).trans (hrel.fabric.mono (by decide) fun _ => .inl)
  have hx : memReadReturn (reqCh s q) [q] (BitVec.ofNat 18 (2 ^ d)).toNat (fresh s) = released h x := by
    rw [hbad]
    exact he
  refine completes_done rfl (settled_of_changes (by exact hx ▸ hc) (by decide) (fun _ => not_fabric_correct_light) (settled_fresh hs)) fun t ht => ?_
  rw [hx] at ht
  have hreg := (ht.regs (Reg.DMC_ECC_CE (reqCh s q) (servingRank s (placeOf s (q.addr / 64)))) id).trans (hce hrel)
  refine ⟨?_, Ember.of_changes ?_ ht, ?_, (fld_congr_reg hreg).trans hv.device, fun b => ?_⟩
  · rw [heldReqs, ht.frame .dram (by decide), harb]
    exact hnone
  · rw [Ember, flag, hrel.changes.fld_eq (fun k => by obtain ⟨-, k⟩ := k; exact absurd k (by decide))]
    exact hv.ember
  · exact (fld_congr_reg hreg).trans (hv.count.trans (by rw [fld_congr_reg (f := Reg.DMC_ECC_CE_COUNT _ _) (hce htag)]; rfl))
  · rw [(ht.frame .memory (by decide)).1, hmem, hv.mem b, htag.mem]
    rfl

end Sys2Proof.Stray
end

section
/-! PROOFS. O40: a write that is alone, the order of grants, and requests that wait long. -/

namespace Sys2Proof.Stray

set_option Elab.async false

open Machine HostPort

/-! ### A write (R308, R312, R319) -/

/-- What the acceptance of a write does: its bytes are stored, and its tag is released. -/
theorem acceptWrite_alone {h : HeldReq} {c : Nat} {a : Arbiter} {w : State} (hl : SoundLine w (h.req.addr / 64)) (hone : OneArb c a w)
    (hheld : a.held = []) (hst : w.dram.stalled = []) :
    Changes hostParts fabricReg w (acceptWrite h w) ∧ OneArb c a (acceptWrite h w) ∧ Stored h.req.addr (reqData h.req) w (acceptWrite h w) := by
  have hb := lineStore_sound (o := h.req.addr % 64) (data := reqData h.req) ((h.req.write.map Prod.snd).getD false) hl
  unfold acceptWrite
  dsimp only
  generalize lineStore (h.req.addr / 64) (h.req.addr % 64) (reqData h.req) ((h.req.write.map Prod.snd).getD false) w = x at hb ⊢
  have hx : Changes hostParts fabricReg w x := ((changes_mem w _).trans hb.changes).mono (by decide) fun _ k => .inr (.inr k)
  have hmem : x.mem = tblSetRun 0#8 w.mem h.req.addr (reqData h.req) := by
    rw [hb.mem, ← Nat.div_add_mod h.req.addr 64]
    simp only [Nat.mul_add_div (by decide : 0 < 64), Nat.mul_add_mod, Nat.mod_mod, Nat.div_eq_of_lt (Nat.mod_lt _ (by decide : 0 < 64)), Nat.add_zero]
  have hlease : ∀ y, (y = x ∨ y = hostLease h.req.addr (reqData h.req).length x) → Changes hostParts fabricReg x y ∧ y.dram = x.dram ∧ y.mem = x.mem := by
    rintro y (rfl | rfl)
    · exact ⟨.refl y, rfl, rfl⟩
    · obtain ⟨hc, hm, hd⟩ := hostLease_effect h.req.addr (reqData h.req).length x
      exact ⟨hc.mono (fun _ k => k) fun _ => .inr, hd, hm⟩
  obtain ⟨hy, hyd, hym⟩ := hlease (if h.req.group = grpHost ∧ h.req.member = 0 then hostLease h.req.addr (reqData h.req).length x else x) (by
    split
    · exact .inr rfl
    · exact .inl rfl)
  generalize (if h.req.group = grpHost ∧ h.req.member = 0 then hostLease h.req.addr (reqData h.req).length x else x) = y at hy hyd hym ⊢
  have hstall : y.dram.stalled = [] := by rw [hyd, hb.kept.stalled]; exact hst
  have honey : OneArb c a y := by rw [OneArb, hyd, hb.kept.arb]; exact hone
  obtain ⟨hrel, harb, -, hzm⟩ := released_alone (h := h) (honey.heldReqs.trans hheld) hstall
  refine ⟨(hx.trans hy).trans hrel.fabric, harb.trans honey, fun b => ?_⟩
  rw [hzm, hym, hmem, tblGet_setRun]

/-- A queued write that is alone drains. -/
theorem batchRun_alone {c : Nat} {a : Arbiter} {h : HeldReq} {z : State} (hone : OneArb c a z) (hw : h.req.write.isSome = true)
    (hreads : a.reads = []) (hwait : a.waiting = []) (hwrites : a.writes = [h]) :
    ∃ b, OneArb c b (batchRun c (arbOf z c).writes.length z) ∧ b.held = [] ∧ b.writes = [] ∧
      Changes hostParts fabricReg z (batchRun c (arbOf z c).writes.length z) ∧ (batchRun c (arbOf z c).writes.length z).mem = z.mem := by
  have hdrains : drains a = true := by simp [drains, hreads, hwrites]
  have hrun : batchRun c (arbOf z c).writes.length z = serveWrite c h z := by
    rw [hone.arbOf, hwrites]
    show batchRun c 1 z = _
    rw [batchRun, hone.arbOf, hdrains, schedule_single z (.inr ⟨hreads, hwrites⟩)]
    simp only [Bool.not_true, Bool.false_eq_true, if_false, hw, if_true]
    rfl
  rw [hrun, serveWrite]
  dsimp only
  generalize hb : (({ arbOf z c with writes := (arbOf z c).writes.erase h, draining := drains (arbOf z c) } : Arbiter).ran (rowHit z h) (reqBank z h)) = b
  have hbq : b.held = [] ∧ b.writes = [] := by
    rw [← hb, hone.arbOf]
    simp [Arbiter.ran, Arbiter.held, hreads, hwait, hwrites]
  have hmoved : Rows (setArb c b z) { setArb c b z with dram := { (setArb c b z).dram with moved := (setArb c b z).dram.moved + 1 } } :=
    rows_dram rfl ⟨rfl, rfl, rfl, rfl⟩
  have hrows := hmoved.trans (rows_writeAccess (HeldReq.place (setArb c b z) h) (decide ((reqData h.req).length = 64)) _)
  refine ⟨b, (hone.setArb b).kept hrows.kept, hbq.1, hbq.2, ?_, hrows.mem⟩
  exact (tagged_setArb c b z).fabric.trans (hrows.changes.mono (by decide) fun _ k => .inr (.inr k))

theorem leaseHit_congr {s t : State} (h : ∀ o, reg t o = reg s o) (a n : Nat) : leaseHit t a n = leaseHit s a n := by
  have hf : ∀ f, fld t f = fld s f := fun f => fld_congr_reg (h f.off)
  have hl : leaseLen t = leaseLen s := funext fun e => by simp only [leaseLen, hf]
  have hb : leaseBase t = leaseBase s := funext fun e => by simp only [leaseBase, hf]
  rw [leaseHit, leaseHit, hl, hb]

theorem issueCheck_congr {s t : State} (h : ∀ o, reg t o = reg s o) (q : MemReq) : issueCheck t q = issueCheck s q := by
  unfold issueCheck writeCheck
  rw [inParts_congr h, leaseHit_congr h]

/-- A write that is alone is accepted, and drains. -/
theorem completes_writeAccept {s : State} {q : MemReq} (hs : s.settled) (ha : Alone s q) (hq : q.write ≠ none) (hchk : issueCheck s q = .ok) :
    Completes (.memWriteAccept (reqCh s q) [q]) s (fun t => Stored q.addr (reqData q) s t ∧ heldReqs t = [] ∧ (arbOf t (reqCh s q)).writes = []) := by
  obtain ⟨h, hreq, hone, htag⟩ := issue_alone (s := fresh s) ha.arb ha.tags ((issueCheck_congr (s := s) (t := fresh s) (fun _ => rfl) q).trans hchk) ha.line.1
  change OneArb (reqCh s q) _ _ at hone
  have hw : h.req.write.isSome = true := by rw [hreq]; exact Option.isSome_iff_ne_none.2 hq
  obtain ⟨a, ⟨hwait, -⟩, hqueue, hgrant⟩ := grantOne_single hone
  rw [if_pos hw] at hqueue hgrant
  obtain ⟨hreads, p, hwrites⟩ := hqueue
  have hheld : a.held = [] := by simp [Arbiter.held, hwait, hreads]
  generalize hu : issue q (fresh s) = u at hone htag hgrant
  have htag2 := htag.trans (tagged_setArb (reqCh s q) a u)
  obtain ⟨hacc, hz, hst⟩ := acceptWrite_alone (h := h) (w := setArb (reqCh s q) a u) (by rw [hreq]; exact htag2.sound (s := fresh s) ha.line)
    (hone.setArb a) hheld (htag2.stalled.trans ha.stalled)
  have hrun : memWriteAccept (reqCh s q) [q] (fresh s) =
      batchRun (reqCh s q) (arbOf (acceptWrite h (setArb (reqCh s q) a u)) (reqCh s q)).writes.length
        (acceptWrite h (setArb (reqCh s q) a u)) := by
    have hr : channelRuns u (reqCh s q) = true := (htag.channelRuns _).trans ha.runs
    have h0 : batchRun (reqCh s q) (arbOf u (reqCh s q)).writes.length u = u := by rw [OneArb.arbOf hone]; rfl
    have h1 : grantWrite (reqCh s q) (arbOf u (reqCh s q)).waiting.length u = acceptWrite h (setArb (reqCh s q) a u) := by
      rw [OneArb.arbOf hone]
      show grantWrite (reqCh s q) 1 u = _
      rw [grantWrite, hgrant]
    rw [memWriteAccept, List.foldl_cons, List.foldl_nil, hu, hr]
    simp only [Bool.not_true, Bool.false_eq_true, if_false, h0, h1]
  generalize acceptWrite h (setArb (reqCh s q) a u) = z at hacc hz hst hrun
  have hw' : ({ h with prom := p } : HeldReq).req.write.isSome = true := hw
  obtain ⟨b, hone', hbheld, hbw, hdrain, hmem⟩ := batchRun_alone hz hw' hreads hwait hwrites
  generalize batchRun (reqCh s q) (arbOf z (reqCh s q)).writes.length z = x at hone' hdrain hmem hrun
  have hc : Changes hostParts fabricReg (fresh s) x := (htag2.fabric.trans hacc).trans hdrain
  refine completes_done rfl (settled_of_changes (by exact hrun ▸ hc) (by decide) (fun _ => not_fabricReg_light) (settled_fresh hs)) fun t ht => ?_
  rw [hrun] at ht
  have hd : t.dram = x.dram := ht.frame .dram (by decide)
  refine ⟨fun k => ?_, ?_, ?_⟩
  · rw [(ht.frame .memory (by decide)).1, hmem, hst k, hreq, htag2.mem]
    rfl
  · rw [heldReqs, hd]
    exact hone'.heldReqs.trans hbheld
  · rw [arbOf, hd]
    exact (congrArg Arbiter.writes hone'.arbOf).trans hbw

/-! ### Grants (R314) -/

theorem mem_of_grantable {a : Arbiter} {seen l : List HeldReq} {h : HeldReq} (hm : h ∈ grantable a seen l) : h ∈ l := by
  induction l generalizing seen with
  | nil => exact hm
  | cons x l ih =>
    unfold grantable at hm
    dsimp only at hm
    split at hm
    · rcases List.mem_cons.1 hm with rfl | hm
      · exact List.mem_cons_self
      · exact List.mem_cons_of_mem _ (ih hm)
    · exact List.mem_cons_of_mem _ (ih hm)

theorem foldl_min_le (l : List Nat) (m : Nat) : l.foldl min m ≤ m ∧ (∀ x ∈ l, l.foldl min m ≤ x) ∧ (l.foldl min m = m ∨ l.foldl min m ∈ l) := by
  induction l generalizing m with
  | nil => exact ⟨le_rfl, fun _ h => absurd h List.not_mem_nil, .inl rfl⟩
  | cons y l ih =>
    obtain ⟨h1, h2, h3⟩ := ih (min m y)
    refine ⟨h1.trans (Nat.min_le_left _ _), fun x hx => ?_, ?_⟩
    · rcases List.mem_cons.1 hx with rfl | hx
      · exact h1.trans (Nat.min_le_right _ _)
      · exact h2 x hx
    · rcases h3 with h3 | h3
      · rcases Nat.le_total m y with e | e
        · exact .inl (h3.trans (Nat.min_eq_left e))
        · exact .inr (List.mem_cons.2 (.inl (h3.trans (Nat.min_eq_right e))))
      · exact .inr (List.mem_cons_of_mem _ h3)

theorem nextRound_mem (last : Nat) {l : List Nat} (hl : l ≠ []) : nextRound last l ∈ l := by
  unfold nextRound
  split
  · obtain ⟨x, t, rfl⟩ := List.exists_cons_of_ne_nil hl
    obtain ⟨-, -, h | h⟩ := foldl_min_le (x :: t) x
    · rw [List.headD_cons, h]
      exact List.mem_cons_self
    · exact h
  · next x t e =>
    have hx : ∀ y ∈ x :: t, y ∈ l := fun y hy => (List.mem_filter.1 (e ▸ hy)).1
    obtain ⟨-, -, h | h⟩ := foldl_min_le t x
    · rw [h]
      exact hx x List.mem_cons_self
    · exact hx _ (List.mem_cons_of_mem _ h)

/-- Level 1's and level 2's choice is of the first class that waits. -/
theorem roundPick_first {a : Arbiter} {l : List HeldReq} {h : HeldReq} (hp : roundPick a l = some h) :
    h ∈ l ∧ ∀ k ∈ l, groupClass h.req.group ≤ groupClass k.req.group := by
  unfold roundPick at hp
  extract_lets k gs g ms m at hp
  refine ⟨List.mem_of_find?_eq_some hp, fun x hx => ?_⟩
  have hf := List.find?_some hp
  have hg : h.req.group = g ∧ h.req.member = m := of_decide_eq_true hf
  obtain ⟨-, hle, hcase⟩ := foldl_min_le (l.map fun h => groupClass h.req.group) 3
  have hk : k ≤ groupClass x.req.group := hle _ (List.mem_map.2 ⟨x, hx, rfl⟩)
  have hgs : gs ≠ [] := by
    have hex : ∃ y ∈ l, groupClass y.req.group = k := by
      rcases hcase with h3 | hm
      · refine ⟨x, hx, Nat.le_antisymm ?_ hk⟩
        exact (groupClass_le _).trans_eq h3.symm
      · obtain ⟨y, hy, e⟩ := List.mem_map.1 hm
        exact ⟨y, hy, e⟩
    obtain ⟨y, hy, e⟩ := hex
    exact List.ne_nil_of_mem (List.mem_map.2 ⟨y, List.mem_filter.2 ⟨hy, decide_eq_true e⟩, rfl⟩)
  have hmem : g ∈ gs := nextRound_mem _ hgs
  obtain ⟨y, hy, e⟩ := List.mem_map.1 hmem
  have hcls : groupClass h.req.group = k := by
    rw [hg.1, ← e]
    exact of_decide_eq_true (List.mem_filter.1 hy).2
  rw [hcls]
  exact hk

theorem levelTwo_round {pr : List Nat} {a : Arbiter} {h : HeldReq} (hp : levelTwo pr a = some (h, true)) :
    h ∈ a.waiting ∧ ∀ k, k ∈ grantable a [] a.waiting → groupClass h.req.group ≤ groupClass k.req.group := by
  unfold levelTwo at hp
  dsimp only at hp
  split at hp
  · obtain ⟨x, -, e⟩ := Option.map_eq_some_iff.1 hp
    simp at e
  · split at hp
    · simp at hp
    · obtain ⟨x, hx, e⟩ := Option.map_eq_some_iff.1 hp
      obtain ⟨rfl, -⟩ := Prod.mk.inj e
      obtain ⟨h1, h2⟩ := roundPick_first hx
      exact ⟨mem_of_grantable h1, h2⟩

/-! ### Requests that wait long (R315, R318) -/

theorem completes_promote {s : State} {tag : Nat} {h : HeldReq} (hs : s.settled) (hr : reqOf s tag = some h)
    (hp : s.dram.promoted.contains tag = false) (hage : (fld s Reg.MFB_CFG_AGE_LIMIT : Int) ≤ h.age s) :
    Completes (.requestPromote tag) s (fun t => t.dram.promoted.contains tag = true ∧ reg t Reg.MFB_PROMOTED = reg s Reg.MFB_PROMOTED + 1) := by
  have he : requestPromote tag (fresh s) =
      setReg { fresh s with dram := { s.dram with promoted := setInsert tag s.dram.promoted } } Reg.MFB_PROMOTED (reg s Reg.MFB_PROMOTED + 1) := by
    have hno : (s.dram.promoted.contains tag || decide (h.age s < fld s Reg.MFB_CFG_AGE_LIMIT)) = false := by
      rw [hp, decide_eq_false (by omega)]
      rfl
    rw [requestPromote, show reqOf (fresh s) tag = some h from hr]
    exact if_neg (by exact (Bool.eq_false_iff.1 hno))
  have hc : Changes rowParts (· = Reg.MFB_PROMOTED) (fresh s) (requestPromote tag (fresh s)) := by
    rw [he]
    exact (changes_dram _ _).trans (changes_setReg _ _ _ (regs_blockOf_mem _) rfl (by decide))
  refine completes_done rfl (settled_of_changes hc (by decide) (fun o ho k => ?_) (settled_fresh hs)) fun t ht => ⟨?_, ?_⟩
  · subst k
    obtain k | k | ⟨g, -, k | k⟩ := ho <;> revert k <;> lia
  · rw [ht.frame .dram (by decide), he]
    exact List.contains_iff_mem.2 ((mem_setInsert _ _ _).2 (.inl rfl))
  · rw [ht.regs _ id, he]
    exact reg_setReg_same _ _ _

/-- The record of a request that starves. -/
def starveRecord (g c : Nat) (s : State) : State :=
  incSat (setFld (setFld s Reg.MFB_STARVE_GROUP g) Reg.MFB_STARVE_CH c) Reg.MFB_STARVE_COUNT 1

theorem starveRecord_effect (g c : Nat) (s : State) : Changes rowParts (· = Reg.MFB_STARVE) s (starveRecord g c s) ∧
    Counted Reg.MFB_STARVE_COUNT s (starveRecord g c s) ∧ fld (starveRecord g c s) Reg.MFB_STARVE_GROUP = g % 16 ∧
    fld (starveRecord g c s) Reg.MFB_STARVE_CH = c % 16 := by
  unfold starveRecord
  have hset : ∀ (x : State) (v : DWord), Changes rowParts (· = Reg.MFB_STARVE) x (setReg x Reg.MFB_STARVE v) :=
    fun x v => changes_setReg x _ v (regs_blockOf_mem _) rfl (by decide)
  refine ⟨((hset s _).trans (hset _ _)).trans (hset _ _), ?_, ?_, ?_⟩
  · rw [Counted, fld_incSat _ _ _ ⟨by decide, by decide⟩, fld_setFld_apart _ _ (by decide), fld_setFld_apart _ _ (by decide)]
    rfl
  · rw [incSat, fld_setFld_apart _ _ (by decide), fld_setFld_apart _ _ (by decide), fld_setFld_self _ _ (by decide)]
    rfl
  · rw [incSat, fld_setFld_apart _ _ (by decide), fld_setFld_self _ _ (by decide)]
    rfl

theorem completes_starve {s : State} {tag : Nat} {h : HeldReq} (hs : s.settled) (hr : reqOf s tag = some h)
    (hage : (starveLimit s : Int) ≤ h.age s) (hat : s.dram.starveAt = 0) : Completes (.arbStarve tag) s (fun t => Ember evArbStarve t ∧
      Counted Reg.MFB_STARVE_COUNT s t ∧ fld t Reg.MFB_STARVE_GROUP = h.req.group % 16 ∧ fld t Reg.MFB_STARVE_CH = reqCh s h.req % 16) := by
  obtain ⟨cs, he⟩ : ∃ cs, arbStarve tag (fresh s) =
      raise evArbStarve cs (starveRecord h.req.group (reqCh s h.req) { fresh s with dram := { s.dram with starveAt := s.ns + 1 } }) := by
    have hno : ¬ (h.age (fresh s) < starveLimit (fresh s) ∨ ((fresh s).dram.starveAt ≠ 0 ∧ (fresh s).ns + 1 < (fresh s).dram.starveAt + 1000000)) := by
      rintro (k | k)
      · exact absurd (lt_of_lt_of_le k hage) (lt_irrefl _)
      · exact k.1 hat
    rw [arbStarve, show reqOf (fresh s) tag = some h from hr]
    exact ⟨_, if_neg hno⟩
  have hd : Changes rowParts (· = Reg.MFB_STARVE) (fresh s) { fresh s with dram := { s.dram with starveAt := s.ns + 1 } } := changes_dram _ _
  have hreg0 : ∀ o, reg { fresh s with dram := { s.dram with starveAt := s.ns + 1 } } o = reg s o := fun _ => rfl
  generalize ({ fresh s with dram := { s.dram with starveAt := s.ns + 1 } } : State) = u at he hd hreg0
  obtain ⟨hc, hcount, hgrp, hch⟩ := starveRecord_effect h.req.group (reqCh s h.req) u
  generalize starveRecord h.req.group (reqCh s h.req) u = v at he hc hcount hgrp hch
  have hraise := rows_raise evArbStarve cs v (by decide)
  have hreg : reg (arbStarve tag (fresh s)) Reg.MFB_STARVE = reg v Reg.MFB_STARVE := by
    rw [he, hraise.changes.regs _ (not_rowReg (by decide))]
  have hall : Changes rowParts (fun o => o = Reg.MFB_STARVE ∨ rowReg o) (fresh s) (arbStarve tag (fresh s)) := by
    rw [he]
    exact ((hd.trans hc).mono (fun _ k => k) fun _ => .inl).trans (hraise.changes.mono (fun _ k => k) fun _ => .inr)
  refine completes_done rfl (settled_of_changes hall (by decide) (fun o ho k => ?_) (settled_fresh hs)) fun t ht => ?_
  · rcases k with k | k
    · subst k
      obtain k | k | ⟨g, -, k | k⟩ := ho <;> revert k <;> lia
    · exact not_rowReg_light ho k
  · have hf : ∀ f : Fld, f.off = Reg.MFB_STARVE → fld t f = fld v f := fun f hf =>
      (ht.fld_eq id).trans (fld_congr_reg (hf ▸ hreg))
    refine ⟨Ember.of_changes (he ▸ ember_raise _ _ _ (by decide)) ht, ?_, (hf _ rfl).trans hgrp, (hf _ rfl).trans hch⟩
    rw [Counted, hf _ rfl, hcount, fld_congr_reg (hreg0 _)]

/-- Settles O40: with the arbiters empty, a request's course has one choice at each level. -/
theorem memoryRequestsComplete : Obligations.MemoryRequestsComplete := by
  unfold Obligations.MemoryRequestsComplete
  refine ⟨fun s q hs harb hst hrun htags hsound => ?_, fun pr a h hp => levelTwo_round hp, fun s tag h hs hr =>
    ⟨fun hp hage => completes_promote hs hr hp hage, fun hage hat => completes_starve hs hr hage hat⟩⟩
  have ha : Alone s q := ⟨harb, hst, hrun, htags, hsound _ le_rfl (by omega)⟩
  exact ⟨fun hq => ⟨fun hp => completes_read hs ha hq hp, fun d hd ht => completes_read_one hs ha hq hd ht⟩,
    fun hq hchk => completes_writeAccept hs ha hq hchk⟩

end Sys2Proof.Stray
end

section
/-! PROOFS. O39: beacons and broadcasts of the chain. -/

namespace Sys2Proof.Timing

set_option Elab.async false

open Machine HostPort Stray

/-! ### Changes of the chain's state -/

/-- The registers of the chain and of the time unit, and the records of events. -/
def chainReg (o : Nat) : Prop := 0x380000 ≤ o ∧ o < 0x390000 ∨ timeReg o

/-- The kinds of state that a message of the chain may change. -/
def chainParts : List Part := [.chain, .regs 0x0E, .followUps] ++ tmParts

section Chain

variable {s t u : State}

theorem changes_chain {w : Nat → Prop} (s : State) (x : ChainState) : Changes chainParts w s { s with chain := x } :=
  changes_of_frame (fun p hq => by cases p <;> first | exact absurd (by decide) hq | exact fun _ _ _ => rfl | rfl | simp [Part.same]) rfl rfl

theorem changes_chainFld (s : State) (f : Fld) (v : Nat) (h : f.off = Reg.CHN_BEACON ∨ f.off = Reg.CHN_CNT) :
    Changes chainParts chainReg s (setFld s f v) := by
  refine changes_setFld s f v ?_ (.inl ?_) ?_ <;> rcases h with h | h <;> rw [h] <;> decide

theorem Moves.chain {w : Nat → Prop} (h : Moves w s t) (hw : ∀ o, w o → timeReg o) : Changes chainParts chainReg s t :=
  h.changes.mono (by decide) fun o ho => .inr (hw o ho)

theorem Moves.chain_eq {w : Nat → Prop} (h : Moves w s t) : t.chain = s.chain := h.changes.frame .chain (by decide)

theorem settled_chain {w : Nat → Prop} (h : Changes chainParts w s t) (hs : s.settled) : t.settled := settled_of_frame h.frame (by decide) hs

end Chain

/-! ### Beacons (R468 to R471) -/

/-- TICK_LO against the last tick issued: a slip is raised, and while dark the count follows. -/
theorem beaconTick_cases (lo : Nat) (s : State) : ∃ u, (u = s ∨ ∃ cs, u = raise evTickSlip cs { s with chain := { s.chain with slipAt := some s.ns } }) ∧
    (beaconTick lo s = u ∨ ∃ v k, beaconTick lo s = setNextTick (setReg u Reg.TIME_TICK_K0 v) k) := by
  unfold beaconTick
  extract_lets ch d due s1 k0
  by_cases hd : d = 0
  · exact ⟨s, .inl rfl, .inl (if_pos hd)⟩
  · rw [if_neg hd]
    refine ⟨s1, ?_, ?_⟩
    · by_cases hdue : due = true
      · exact .inr ⟨_, if_pos hdue⟩
      · exact .inl (if_neg hdue)
    · by_cases hlit : isLit s1 = true
      · exact .inl (if_pos hlit)
      · exact .inr ⟨_, _, if_neg hlit⟩

theorem beaconTick_effect (lo : Nat) (s : State) : Changes chainParts timeReg s (beaconTick lo s) ∧ (beaconTick lo s).chain.slew = s.chain.slew := by
  obtain ⟨u, hu, h⟩ := beaconTick_cases lo s
  have h1 : Changes chainParts timeReg s u ∧ u.chain.slew = s.chain.slew := by
    obtain rfl | ⟨cs, rfl⟩ := hu
    · exact ⟨.refl _, rfl⟩
    · have hr := moves_raise (w := timeReg) cs { s with chain := { s.chain with slipAt := some s.ns } } (by decide : evTickSlip < 256) fun _ => .inr
      exact ⟨(changes_chain s _).trans (hr.changes.mono (by decide) fun _ k => k), by rw [hr.chain_eq]⟩
  obtain e | ⟨v, k, e⟩ := h
  · rw [e]
    exact h1
  · rw [e]
    have hm : Moves timeReg u (setReg u Reg.TIME_TICK_K0 v) := moves_setReg u v (by decide) (by decide) (.inl (by decide))
    have hn : Moves timeReg (setReg u Reg.TIME_TICK_K0 v) (setNextTick (setReg u Reg.TIME_TICK_K0 v) k) := moves_time _ rfl ⟨rfl, rfl, rfl⟩
    have hall := hm.trans hn
    exact ⟨h1.1.trans (hall.changes.mono (by decide) fun _ k => k), by rw [hall.chain_eq]; exact h1.2⟩

/-- The fields that a valid beacon sets. -/
def beaconRead (c d1 : Nat) (off slew : Int) (s : State) : State :=
  let s := setSFld (setFld (setFld (setFld s Reg.CHN_BEACON_TICK_LO (bitsOf c 8 16)) Reg.CHN_BEACON_HOLD (bitsOf d1 48 1))
    Reg.CHN_BEACON_HOPS (bitsOf d1 56 8)) Reg.CHN_BEACON_OFFSET (off * 1000 / 65536)
  { s with chain := { s.chain with slew := slew, badRun := 0, heard := true } }

theorem beaconRead_effect (c d1 : Nat) (off slew : Int) (s : State) : Changes chainParts chainReg s (beaconRead c d1 off slew s) ∧
    fld (beaconRead c d1 off slew s) Reg.CHN_BEACON_TICK_LO = bitsOf c 8 16 ∧ fld (beaconRead c d1 off slew s) Reg.CHN_BEACON_HOLD = bitsOf d1 48 1 ∧
    fld (beaconRead c d1 off slew s) Reg.CHN_BEACON_HOPS = bitsOf d1 56 8 ∧ (beaconRead c d1 off slew s).chain.slew = slew := by
  have hset : ∀ (x : State) (f : Fld) (v : Nat), f.off = Reg.CHN_BEACON → Changes chainParts chainReg x (setFld x f v) :=
    fun x f v h => changes_chainFld x f v (.inl h)
  have hchain : ∀ (x : State) (f : Fld), fld { x with chain := { x.chain with slew := slew, badRun := 0, heard := true } } f = fld x f := fun _ _ => rfl
  unfold beaconRead
  dsimp only
  refine ⟨?_, ?_, ?_, ?_, rfl⟩
  · exact ((((hset s _ _ rfl).trans (hset _ _ _ rfl)).trans (hset _ _ _ rfl)).trans (hset _ _ _ rfl)).trans (changes_chain _ _)
  · rw [hchain, setSFld, fld_setFld_apart _ _ (by decide), fld_setFld_apart _ _ (by decide), fld_setFld_apart _ _ (by decide),
      fld_setFld_self _ _ (by decide)]
    exact Nat.mod_eq_of_lt (bitsOf_lt _ _ _)
  · rw [hchain, setSFld, fld_setFld_apart _ _ (by decide), fld_setFld_apart _ _ (by decide), fld_setFld_self _ _ (by decide)]
    exact Nat.mod_eq_of_lt (bitsOf_lt _ _ _)
  · rw [hchain, setSFld, fld_setFld_apart _ _ (by decide), fld_setFld_self _ _ (by decide)]
    exact Nat.mod_eq_of_lt (bitsOf_lt _ _ _)

theorem beacon_bad {m : BeaconMsg} {s : State}
    (h : crc32c (natLe m.ctrl.toNat 8 ++ natLe m.data1.toNat 8 ++ natLe m.data2.toNat 4) ≠ bitsOf m.data2.toNat 32 32) :
    beacon m s = incSat { s with chain := { s.chain with badRun := s.chain.badRun + 1, heard := true } } Reg.CHN_CNT_MISSED 1 := by
  rw [beacon, if_pos h]

theorem beacon_good {m : BeaconMsg} {s : State} (hh : isHead s = false)
    (h : crc32c (natLe m.ctrl.toNat 8 ++ natLe m.data1.toNat 8 ++ natLe m.data2.toNat 4) = bitsOf m.data2.toNat 32 32) :
    ∃ off, beacon m s = beaconTick (bitsOf m.ctrl.toNat 8 16) (offsetSeen 3 off (10 * 65536) 2
      (beaconRead m.ctrl.toNat m.data1.toNat off (toSigned 32 m.data2.toNat) s)) := by
  rw [beacon, if_neg (not_not.2 h), if_neg (by rw [hh]; exact Bool.false_ne_true)]
  exact ⟨_, rfl⟩

/-! ### Broadcasts (R458 to R461, R474) -/

theorem changes_counts (s : State) (f : Fld) (k : Nat) (h : f.off = Reg.CHN_CNT) : Changes chainParts chainReg s (incSat s f k) :=
  changes_chainFld s f _ (.inr h)

theorem sliceB_whole {b : Bytes} {n : Nat} (h : b.length = n) : sliceB b 0 n = b := by
  have ht : b.take n = b := List.take_of_length_le (by omega)
  simp only [sliceB, List.drop_zero, ht, h, Nat.sub_self, List.replicate_zero, List.append_nil]

/-- A valid broadcast that is not this unit's, and repeats none, is kept and goes on. -/
theorem bcastSeen_passing {c : DWord} {d : Bytes} {s : State} (hd : d.length = 80) (hcrc : crc32c d = bitsOf c.toNat 24 32)
    (hnew : ∀ x, x ∈ s.chain.copies → s.ns ≤ x.2.2 + 100000 → ¬ (x.1 = c ∧ x.2.1 = d)) (hme : bcastForMe s (bitsOf c.toNat 8 8) = false) :
    ∃ l, bcastSeen c d s = (let u := { s with chain := { s.chain with copies := (c, d, s.ns) :: l } }
      if portUp u 1 then chainSend 1 0x66 c.toNat d u else u) := by
  have hs : sliceB d 0 80 = d := sliceB_whole hd
  have hno : ¬ (s.chain.copies.filter fun x => decide (s.ns ≤ x.2.2 + 100000)).any (fun x => decide (x.1 = c ∧ x.2.1 = d)) = true := by
    rw [List.any_eq_true]
    rintro ⟨x, hx, he⟩
    obtain ⟨hm, hns⟩ := List.mem_filter.1 hx
    exact hnew x hm (of_decide_eq_true hns) (of_decide_eq_true he)
  refine ⟨s.chain.copies.filter fun x => decide (s.ns ≤ x.2.2 + 100000), ?_⟩
  unfold bcastSeen
  simp only [hs]
  rw [if_neg (not_not.2 hcrc), if_neg hno]
  refine if_neg ?_
  rw [Bool.not_eq_true, ← hme]
  split
  · unfold chainSend chainEmit
    dsimp only
    split
    · rfl
    · rfl
  · rfl

/-! ### The messages' commands -/

section Commands

variable {s : State}

/-- A port that hears a block keeps adapting: the chain's ports alone change. -/
theorem chainThaw_eq (p : Nat) (l : List Nat) (s : State) : ∃ x, chainThaw p l s = { s with chain := { s.chain with ports := x } } := ⟨_, rfl⟩

theorem completes_chain {w : Nat → Prop} {c : Instr} {f : State → State} {P : State → Prop} (hs : s.settled) (hx : exec c s = done f s)
    (hc : Changes chainParts w (fresh s) (f (fresh s))) (hP : ∀ t, Changes [] (fun _ => False) (f (fresh s)) t → P t) : Completes c s P :=
  completes_done hx (settled_chain hc (settled_fresh hs)) hP

theorem counted_incSat (s : State) (o hi lo : Nat) (h : lo ≤ hi) (k : hi < 64) : Counted ⟨o, hi, lo⟩ s (incSat s ⟨o, hi, lo⟩ 1) := by
  rw [Counted, fld_incSat _ _ _ ⟨h, k⟩]
  rfl

/-- A beacon with a bad CRC. -/
theorem completes_beaconBad {m : BeaconMsg} (hs : s.settled) (hon : chainOn s = true) (hp : portUp s 0 = true)
    (h : crc32c (natLe m.ctrl.toNat 8 ++ natLe m.data1.toNat 8 ++ natLe m.data2.toNat 4) ≠ bitsOf m.data2.toNat 32 32) :
    Completes (.beacon m) s (Counted Reg.CHN_CNT_MISSED s) := by
  obtain ⟨x, hx⟩ := chainThaw_eq 0 (inputFor (portOf (fresh s) 0) (fld (fresh s) (Reg.CHN_PORT_STAT_BLANE 0))).toList (fresh s)
  have he : (if chainOn (fresh s) = true ∧ portUp (fresh s) 0 = true then beacon m (chainThaw 0 (inputFor (portOf (fresh s) 0)
      (fld (fresh s) (Reg.CHN_PORT_STAT_BLANE 0))).toList (fresh s)) else fresh s) =
      incSat { fresh s with chain := { s.chain with ports := x, badRun := s.chain.badRun + 1, heard := true } } Reg.CHN_CNT_MISSED 1 := by
    rw [if_pos ⟨hon, hp⟩, hx, beacon_bad h]
    rfl
  refine completes_chain hs rfl (he ▸ (changes_chain _ _).trans (changes_counts _ _ _ rfl)) fun t ht => ?_
  rw [Counted, ht.fld_eq id]
  exact (congrArg (fld · _) he).trans (counted_incSat _ _ _ _ (by decide) (by decide))

/-- A valid beacon to a member. -/
theorem completes_beaconGood {m : BeaconMsg} (hs : s.settled) (hon : chainOn s = true) (hp : portUp s 0 = true) (hh : isHead s = false)
    (h : crc32c (natLe m.ctrl.toNat 8 ++ natLe m.data1.toNat 8 ++ natLe m.data2.toNat 4) = bitsOf m.data2.toNat 32 32) :
    Completes (.beacon m) s (fun t => fld t Reg.CHN_BEACON_TICK_LO = bitsOf m.ctrl.toNat 8 16 ∧
      fld t Reg.CHN_BEACON_HOLD = bitsOf m.data1.toNat 48 1 ∧ fld t Reg.CHN_BEACON_HOPS = bitsOf m.data1.toNat 56 8 ∧
      t.chain.slew = toSigned 32 m.data2.toNat) := by
  obtain ⟨x, hx⟩ := chainThaw_eq 0 (inputFor (portOf (fresh s) 0) (fld (fresh s) (Reg.CHN_PORT_STAT_BLANE 0))).toList (fresh s)
  have hthaw : Changes chainParts chainReg (fresh s) { fresh s with chain := { s.chain with ports := x } } := changes_chain _ _
  have hhead : isHead { fresh s with chain := { s.chain with ports := x } } = false := hh
  obtain ⟨off, hb⟩ := beacon_good hhead h
  have he : (if chainOn (fresh s) = true ∧ portUp (fresh s) 0 = true then beacon m (chainThaw 0 (inputFor (portOf (fresh s) 0)
      (fld (fresh s) (Reg.CHN_PORT_STAT_BLANE 0))).toList (fresh s)) else fresh s) =
      beacon m { fresh s with chain := { s.chain with ports := x } } := by
    rw [if_pos ⟨hon, hp⟩, hx]
    rfl
  rw [hb] at he
  generalize ({ fresh s with chain := { s.chain with ports := x } } : State) = u at hthaw he
  obtain ⟨hread, hlo, hhold, hhops, hslew⟩ := beaconRead_effect m.ctrl.toNat m.data1.toNat off (toSigned 32 m.data2.toNat) u
  generalize beaconRead m.ctrl.toNat m.data1.toNat off (toSigned 32 m.data2.toNat) u = v at hread hlo hhold hhops hslew he
  have hoff := moves_offsetSeen (by decide : 3 < 4) off (10 * 65536) 2 v
  obtain ⟨htick, hts⟩ := beaconTick_effect (bitsOf m.ctrl.toNat 8 16) (offsetSeen 3 off (10 * 65536) 2 v)
  refine completes_chain hs rfl (he ▸ ((hthaw.trans hread).trans (hoff.chain fun _ k => k)).trans (htick.mono (fun _ k => k) fun _ => .inr)) fun t ht => ?_
  have hreg : ∀ f : Fld, f.off = Reg.CHN_BEACON → fld t f = fld v f := fun f hf => by
    have hno : ¬ timeReg f.off := by
      rw [hf]
      rintro (k | k)
      · exact absurd k (by decide)
      · exact not_eventReg (.inr (by decide)) (.inl (by decide)) k
    rw [ht.fld_eq id]
    exact (congrArg (fld · f) he).trans ((htick.fld_eq hno).trans (hoff.fld_eq hno))
  refine ⟨(hreg _ rfl).trans hlo, (hreg _ rfl).trans hhold, (hreg _ rfl).trans hhops, ?_⟩
  rw [ht.frame .chain (by decide)]
  exact (congrArg (fun z : State => z.chain.slew) he).trans (hts.trans ((congrArg ChainState.slew hoff.chain_eq).trans hslew))

/-- A valid beacon to the head. -/
theorem completes_beaconHead {m : BeaconMsg} (hs : s.settled) (hon : chainOn s = true) (hp : portUp s 0 = true) (hh : isHead s = true)
    (h : crc32c (natLe m.ctrl.toNat 8 ++ natLe m.data1.toNat 8 ++ natLe m.data2.toNat 4) = bitsOf m.data2.toNat 32 32) :
    Completes (.beacon m) s (fun _ => True) := by
  obtain ⟨x, hx⟩ := chainThaw_eq 0 (inputFor (portOf (fresh s) 0) (fld (fresh s) (Reg.CHN_PORT_STAT_BLANE 0))).toList (fresh s)
  have he : (if chainOn (fresh s) = true ∧ portUp (fresh s) 0 = true then beacon m (chainThaw 0 (inputFor (portOf (fresh s) 0)
      (fld (fresh s) (Reg.CHN_PORT_STAT_BLANE 0))).toList (fresh s)) else fresh s) =
      { fresh s with chain := { s.chain with ports := x } } := by
    rw [if_pos ⟨hon, hp⟩, hx, beacon, if_neg (not_not.2 h)]
    exact if_pos hh
  exact completes_chain (w := chainReg) hs rfl (he ▸ changes_chain _ _) fun _ _ => trivial

theorem beaconLoss_member (hh : isHead s = false) : ∃ k cs, beaconLoss s =
    refLost 3 (raiseErr unitChn 0 evChainBeaconLoss 0 cs (incSat { s with chain := { s.chain with badRun := 0 } } Reg.CHN_CNT_MISSED k)) := by
  rw [beaconLoss, if_neg (by rw [hh]; exact Bool.false_ne_true)]
  exact ⟨_, _, rfl⟩

/-- Three intervals without a beacon. -/
theorem completes_beaconLoss (hs : s.settled) (hc : s.calm) (hon : chainOn s = true) (hh : isHead s = false) :
    Completes .chainBeaconLoss s (fun t => Ember evChainBeaconLoss t ∧ t.chain.badRun = 0) := by
  obtain ⟨k, cs, hl⟩ := beaconLoss_member (s := fresh s) hh
  have he : (if chainOn (fresh s) = true then beaconLoss (fresh s) else fresh s) =
      refLost 3 (raiseErr unitChn 0 evChainBeaconLoss 0 cs (incSat { fresh s with chain := { s.chain with badRun := 0 } } Reg.CHN_CNT_MISSED k)) :=
    (if_pos hon).trans hl
  have hcount : Changes chainParts chainReg (fresh s) (incSat { fresh s with chain := { s.chain with badRun := 0 } } Reg.CHN_CNT_MISSED k) :=
    (changes_chain _ _).trans (changes_counts _ _ _ rfl)
  have hbad : (incSat { fresh s with chain := { s.chain with badRun := 0 } } Reg.CHN_CNT_MISSED k).chain.badRun = 0 := rfl
  have hfu : (incSat { fresh s with chain := { s.chain with badRun := 0 } } Reg.CHN_CNT_MISSED k).followUps = s.followUps := rfl
  generalize incSat { fresh s with chain := { s.chain with badRun := 0 } } Reg.CHN_CNT_MISSED k = u at he hcount hbad hfu
  have hcalm : u.calm := calm_of_followUps hfu hc
  have hraise := changes_raiseErr hcalm unitChn 0 evChainBeaconLoss 0 cs (by decide)
  have hember := ember_raiseErr_calm hcalm unitChn 0 evChainBeaconLoss 0 cs (by decide)
  generalize raiseErr unitChn 0 evChainBeaconLoss 0 cs u = v at he hraise hember
  have hlost := moves_refLost (by decide : 3 < 4) v
  have hall : Changes chainParts (fun _ => True) (fresh s) (refLost 3 v) :=
    ((hcount.mono (fun _ k => k) fun _ _ => trivial).trans (hraise.mono (by decide) fun _ _ => trivial)).trans
      (hlost.changes.mono (by decide) fun _ _ => trivial)
  refine completes_chain hs rfl (he ▸ hall) fun t ht => ⟨Ember.of_changes (he ▸ hlost.embers _ (by decide) hember) ht, ?_⟩
  have hvc : v.chain = u.chain := hraise.frame .chain (by decide)
  rw [ht.frame .chain (by decide)]
  exact (congrArg (fun z : State => z.chain.badRun) he).trans (by rw [hlost.chain_eq, hvc]; exact hbad)

/-- A broadcast with a bad CRC. -/
theorem completes_bcastBad {c : DWord} {d : Bytes} (hs : s.settled) (hon : chainOn s = true) (hd : d.length = 80) (hp : portUp s 0 = true)
    (h : crc32c d ≠ bitsOf c.toNat 24 32) : Completes (.bcast c d) s (Counted Reg.CHN_CNT_BCAST_BAD s) := by
  obtain ⟨x, hx⟩ := chainThaw_eq 0 (usedInputs (fresh s) 0) (fresh s)
  have he : (if chainOn (fresh s) = true ∧ portUp (fresh s) 0 = true then bcastSeen c d (messageThaw 0 (fresh s)) else fresh s) =
      incSat { fresh s with chain := { s.chain with ports := x } } Reg.CHN_CNT_BCAST_BAD 1 := by
    rw [if_pos ⟨hon, hp⟩, messageThaw, hx, bcastSeen]
    exact if_pos (by rw [sliceB_whole hd]; exact h)
  refine completes_chain hs rfl (he ▸ (changes_chain _ _).trans (changes_counts _ _ _ rfl)) fun t ht => ?_
  rw [Counted, ht.fld_eq id]
  exact (congrArg (fld · _) he).trans (counted_incSat _ _ _ _ (by decide) (by decide))

theorem chainEmit_none {p : Nat} {lanes : List Nat} (type payload : Nat) (d : Bytes) (h : clockedLanes s p lanes = []) :
    chainEmit p lanes type payload d s = s := if_pos h

theorem chainEmit_some {p : Nat} {lanes : List Nat} (type payload : Nat) (d : Bytes) (h : clockedLanes s p lanes ≠ []) :
    chainEmit p lanes type payload d s = emit s (.chain p (clockedLanes s p lanes) type payload d) := if_neg h

theorem changes_chainEmit (p : Nat) (lanes : List Nat) (type payload : Nat) (d : Bytes) :
    Changes chainParts chainReg s (chainEmit p lanes type payload d s) := by
  by_cases h : clockedLanes s p lanes = []
  · rw [chainEmit_none type payload d h]
    exact .refl s
  · rw [chainEmit_some type payload d h]
    exact changes_emit s _

theorem chainEmit_chain (p : Nat) (lanes : List Nat) (type payload : Nat) (d : Bytes) :
    (chainEmit p lanes type payload d s).chain = s.chain := by
  by_cases h : clockedLanes s p lanes = []
  · rw [chainEmit_none type payload d h]
  · rw [chainEmit_some type payload d h]
    rfl

/-- A broadcast that goes on. -/
theorem completes_bcastPassing {c : DWord} {d : Bytes} (hs : s.settled) (hon : chainOn s = true) (hd : d.length = 80) (hp : portUp s 0 = true)
    (hcrc : crc32c d = bitsOf c.toNat 24 32) (hnew : ∀ x, x ∈ s.chain.copies → s.ns ≤ x.2.2 + 100000 → ¬ (x.1 = c ∧ x.2.1 = d))
    (hme : bcastForMe s (bitsOf c.toNat 8 8) = false) : Completes (.bcast c d) s (fun t => (c, d, s.ns) ∈ t.chain.copies ∧
      (portUp s 1 = true → clockedLanes s 1 (usedLanes s 1) ≠ [] → Sent (.chain 1 (clockedLanes s 1 (usedLanes s 1)) 0x66 c.toNat d) t)) := by
  obtain ⟨x, hx⟩ := chainThaw_eq 0 (usedInputs (fresh s) 0) (fresh s)
  obtain ⟨l, hl⟩ := bcastSeen_passing (s := { fresh s with chain := { s.chain with ports := x } }) hd hcrc hnew hme
  have he : (if chainOn (fresh s) = true ∧ portUp (fresh s) 0 = true then bcastSeen c d (messageThaw 0 (fresh s)) else fresh s) =
      if portUp s 1 = true then chainEmit 1 (usedLanes s 1) 0x66 c.toNat d
        { fresh s with chain := { s.chain with ports := x, copies := (c, d, s.ns) :: l } }
      else { fresh s with chain := { s.chain with ports := x, copies := (c, d, s.ns) :: l } } := by
    rw [if_pos ⟨hon, hp⟩, messageThaw, hx]
    exact hl
  have hu : Changes chainParts chainReg (fresh s) { fresh s with chain := { s.chain with ports := x, copies := (c, d, s.ns) :: l } } := changes_chain _ _
  have hlanes : clockedLanes { fresh s with chain := { s.chain with ports := x, copies := (c, d, s.ns) :: l } } 1 (usedLanes s 1) =
      clockedLanes s 1 (usedLanes s 1) := rfl
  have hcopy : (c, d, s.ns) ∈ ({ fresh s with chain := { s.chain with ports := x, copies := (c, d, s.ns) :: l } } : State).chain.copies := List.mem_cons_self
  generalize ({ fresh s with chain := { s.chain with ports := x, copies := (c, d, s.ns) :: l } } : State) = u at he hu hlanes hcopy
  have hend : Changes chainParts chainReg u (if portUp s 1 = true then chainEmit 1 (usedLanes s 1) 0x66 c.toNat d u else u) := by
    split
    · exact changes_chainEmit _ _ _ _ _
    · exact .refl u
  have hkept : (if portUp s 1 = true then chainEmit 1 (usedLanes s 1) 0x66 c.toNat d u else u).chain = u.chain := by
    split
    · exact chainEmit_chain _ _ _ _ _
    · rfl
  refine completes_chain hs rfl (he ▸ hu.trans hend) fun t ht => ⟨?_, fun hup hne => ht.sent ?_⟩
  · rw [ht.frame .chain (by decide)]
    exact (congrArg (fun z : State => (c, d, s.ns) ∈ z.chain.copies) he).mpr (hkept ▸ hcopy)
  · refine (congrArg (fun z : State => Emission.chain 1 (clockedLanes s 1 (usedLanes s 1)) 0x66 c.toNat d ∈ z.out) he).mpr ?_
    rw [if_pos hup, chainEmit_some _ _ _ (by rw [hlanes]; exact hne), hlanes]
    exact List.mem_append_right _ List.mem_cons_self

/-- The state with no broadcast held, which `bcastExecute` starts from. -/
def noneHeld (s : State) : State := { s with chain := { s.chain with held := [] } }

theorem bcastReady_nop {h : Held} (hop : dOp h.desc = 0x01) : bcastReady s h = true := by
  rw [bcastReady, hop]
  rfl

theorem bcastRun_nop {h : Held} (hop : dOp h.desc = 0x01) :
    ∃ v cs, bcastRun h s = raise 230 cs (setReg (incSat s Reg.CHN_CNT_BCAST 1) Reg.CHN_BCAST_LAST v) := by
  rw [bcastRun, show bcastCmd (dOp h.desc) = some cmdNop from by rw [hop]; rfl]
  exact ⟨_, _, rfl⟩

theorem bcastExecute_nop {h : Held} (hheld : s.chain.held = [h]) (hdue : bcastDue s h = true) (hop : dOp h.desc = 0x01) :
    ∃ v cs, bcastExecute s = raise 230 cs
      (setReg (incSat (noneHeld s) Reg.CHN_CNT_BCAST 1) Reg.CHN_BCAST_LAST v) := by
  obtain ⟨v, cs, hr⟩ := bcastRun_nop (s := noneHeld s) hop
  have hdue' : bcastDue (noneHeld s) h = true := hdue
  have hready : bcastReady (noneHeld s) h = true := bcastReady_nop hop
  refine ⟨v, cs, ?_⟩
  rw [← hr, bcastExecute, hheld]
  rw [show ({ s with chain := { s.chain with held := [] } } : State) = noneHeld s from rfl]
  generalize noneHeld s = u at hdue' hready ⊢
  rw [List.foldl_cons, List.foldl_nil, hdue', hready]
  rfl

/-- A held NOP that is due. -/
theorem completes_bcastNop {h : Held} (hs : s.settled) (hheld : s.chain.held = [h]) (hdue : bcastDue s h = true) (hop : dOp h.desc = 0x01) :
    Completes .bcastExecute s (fun t => t.chain.held = [] ∧ Counted Reg.CHN_CNT_BCAST s t ∧ Ember 230 t) := by
  obtain ⟨v, cs, he⟩ := bcastExecute_nop (s := fresh s) hheld hdue hop
  have hu : Changes chainParts chainReg (fresh s) (incSat (noneHeld (fresh s)) Reg.CHN_CNT_BCAST 1) :=
    (changes_chain _ _).trans (changes_counts _ _ _ rfl)
  have hcount : Counted Reg.CHN_CNT_BCAST s (incSat (noneHeld (fresh s)) Reg.CHN_CNT_BCAST 1) :=
    counted_incSat (noneHeld (fresh s)) _ _ _ (by decide) (by decide)
  have hnil : (incSat (noneHeld (fresh s)) Reg.CHN_CNT_BCAST 1).chain.held = [] := rfl
  generalize incSat (noneHeld (fresh s)) Reg.CHN_CNT_BCAST 1 = u at he hu hcount hnil
  have hlast : Changes chainParts chainReg u (setReg u Reg.CHN_BCAST_LAST v) :=
    changes_setReg u _ v (by decide) (.inl (by decide)) (by decide)
  have hr := moves_raise (w := timeReg) cs (setReg u Reg.CHN_BCAST_LAST v) (by decide : 230 < 256) fun _ => .inr
  have hall : Changes chainParts chainReg (fresh s) (bcastExecute (fresh s)) := by
    rw [he]
    exact (hu.trans hlast).trans (hr.chain fun _ k => k)
  have hember : Ember 230 (bcastExecute (fresh s)) := by
    rw [he]
    exact ember_raise _ _ _ (by decide)
  refine completes_chain hs rfl hall fun t ht => ⟨?_, ?_, Ember.of_changes hember ht⟩
  · rw [ht.frame .chain (by decide), he, hr.chain_eq]
    exact hnil
  · have hno : ¬ timeReg Reg.CHN_CNT := by
      rintro (k | k)
      · exact absurd k (by decide)
      · exact not_eventReg (.inr (by decide)) (.inl (by decide)) k
    have hreg : reg t Reg.CHN_CNT = reg u Reg.CHN_CNT := by
      rw [ht.regs _ id, he, hr.reg_eq hno, reg_setReg_ne u v (by decide)]
    exact (fld_congr_reg hreg).trans hcount

end Commands

/-- Settles O39: a valid beacon's fields outlast the servo and the ticks, and a broadcast's outcome is its own. -/
theorem beaconsAndBroadcasts : Obligations.BeaconsAndBroadcasts := by
  unfold Obligations.BeaconsAndBroadcasts
  refine fun s hs hc hon => ⟨fun m hp => ?_, fun hh => completes_beaconLoss hs hc hon hh,
    fun c d hd hp h => completes_bcastBad hs hon hd hp h,
    fun c d hd hp hcrc hnew hme => completes_bcastPassing hs hon hd hp hcrc hnew hme,
    fun h hheld hdue hop => completes_bcastNop hs hheld hdue hop⟩
  by_cases hcrc : crc32c (natLe m.ctrl.toNat 8 ++ natLe m.data1.toNat 8 ++ natLe m.data2.toNat 4) = bitsOf m.data2.toNat 32 32
  · cases hh : isHead s with
    | false =>
      obtain ⟨t, hx, ht⟩ := completes_beaconGood hs hon hp hh hcrc
      exact ⟨t, hx, (if_neg (not_not.2 hcrc)).mpr fun _ => ht⟩
    | true =>
      obtain ⟨t, hx, -⟩ := completes_beaconHead hs hon hp hh hcrc
      exact ⟨t, hx, (if_neg (not_not.2 hcrc)).mpr fun e => absurd e Bool.noConfusion⟩
  · obtain ⟨t, hx, ht⟩ := completes_beaconBad hs hon hp hcrc
    exact ⟨t, hx, (if_pos hcrc).mpr ht⟩

end Sys2Proof.Timing
end

section
/-! PROOFS. O33: the panel rails. A step of a sequence moves the rails and their registers alone; what it may let go on is the
light that a PLAY waits for. -/

namespace Sys2Proof.Rails

set_option Elab.async false

open Machine HostPort Stray

/-! ### Nothing but the light can go on -/

/-- Nothing is left to settle but the lighting that a PLAY may wait for. -/
structure Steady (s : State) : Prop where
  act : ∀ a, s.act = some a → a.begun = true → lamp s = .housekeeping
  orderly : s.orderly = none ∨ lamp s ≠ .darkFault
  halted : s.scan.halted = false
  lens : lensDue s = false
  vrm : s.vrmFailed = false ∨ nvmHas s isRingWrite = true

/-- What the lens driver waits for rests on its own state, VIN, the lens block and the core. -/
theorem lensDue_eq {s t : State} (hl : t.lens = s.lens) (hs : t.snuff = s.snuff) (hr : t.lensRun = s.lensRun)
    (hw : t.lensRewrite = s.lensRewrite) (hre : t.restarting = s.restarting) : lensDue t = lensDue s := by
  have hb : lensBusyWith t = lensBusyWith s := by rw [lensBusyWith, lensBusyWith, hl]
  have hf : forceReady t = forceReady s := funext fun f => by simp only [forceReady, hb, hs, hr]
  simp only [lensDue, lensFree, hf, hl, hs, hr, hw, hre]

/-- The registers that LIGHTING writes. -/
def lightWrite (o : Nat) : Prop := o = Reg.GEN_STATE ∨ o = Reg.CLK_TPLL_STEER

/-- The kinds of state that LIGHTING changes. -/
def lightParts : List Part := [.lamp, .scan, .dram, .sequence, .regs 0x10]

section

variable {s t u : State}

theorem Steady.settled (h : Steady s) (hl : lightDue s = false) : s.settled := ⟨h.act, h.orderly, h.halted, h.lens, hl, h.vrm⟩

theorem steady_of_settled (h : s.settled) : Steady s := ⟨h.act, h.orderly, h.halted, h.lens, h.vrm⟩

/-- What lighting starts from: the counts of the frame at zero, and no PLAY waiting. -/
def unwaited (s : State) : State := { frameCounts s with wantLight := false, rowZero := false }

theorem changes_unwaited (s : State) : Changes lightParts lightWrite s (unwaited s) :=
  changes_of_frame (fun p hq => by cases p <;> first | exact absurd (by decide) hq | exact fun _ _ _ => rfl | rfl | simp [Part.same, unwaited, frameCounts]) rfl rfl

theorem changes_setLamp (s : State) (l : Lamp) : Changes lightParts lightWrite s (setLamp s l) :=
  ⟨(frame_setLamp s l).mono (by decide), fun _ ho => reg_setFld_ne s _ fun e => ho (.inl e), List.prefix_refl _⟩

theorem changes_fixSteer (s : State) : Changes lightParts lightWrite s (fixSteer s) := by
  unfold fixSteer
  split
  · exact changes_setFld s _ _ (by decide) (.inr rfl) (by decide)
  · exact .refl s

theorem lightIfReady_cases (s : State) : lightDue s = false ∧ lightIfReady s = s ∨ lightDue s = true ∧
    (lightIfReady s = fixSteer (setLamp (unwaited s) .lighting) ∨ lightIfReady s = setLamp (setLamp (unwaited s) .lighting) .snuffed) := by
  cases h : lightDue s with
  | false => exact .inl ⟨rfl, lightIfReady_of s h⟩
  | true =>
    refine .inr ⟨rfl, ?_⟩
    rw [lightIfReady_due s h]
    extract_lets v
    split
    · exact .inl rfl
    · exact .inr rfl

theorem changes_lightIfReady (s : State) : Changes lightParts lightWrite s (lightIfReady s) := by
  obtain ⟨-, e⟩ | ⟨-, e | e⟩ := lightIfReady_cases s
  · rw [e]
    exact .refl s
  · rw [e]
    exact ((changes_unwaited s).trans (changes_setLamp _ _)).trans (changes_fixSteer _)
  · rw [e]
    exact ((changes_unwaited s).trans (changes_setLamp _ _)).trans (changes_setLamp _ _)

theorem lamp_fixSteer (s : State) : lamp (fixSteer s) = lamp s := by
  unfold fixSteer
  split
  · exact lamp_congr (fld_setFld_ne s _ _ _ ⟨by decide, by decide⟩ (by decide) (.inl (by decide)))
  · rfl

theorem scan_fixSteer (s : State) : (fixSteer s).scan = s.scan := by
  unfold fixSteer
  split <;> rfl

theorem orderly_fixSteer (s : State) : (fixSteer s).orderly = s.orderly := by
  unfold fixSteer
  split <;> rfl

theorem lamp_of_lightDue (h : lightDue s = true) : lamp s = .readyDark := by
  simp only [lightDue, Bool.and_eq_true, decide_eq_true_eq] at h
  obtain ⟨⟨⟨-, hl⟩, -⟩, -⟩ := h
  exact hl

/-- Lighting leaves nothing to settle. -/
theorem Steady.settled_lightIfReady (h : Steady s) : (lightIfReady s).settled := by
  obtain ⟨hl, e⟩ | ⟨hl, e⟩ := lightIfReady_cases s
  · rw [e]
    exact h.settled hl
  have hk := (changes_lightIfReady s).frame
  obtain ⟨-, hact, -⟩ := hk .structure (by decide)
  obtain ⟨-, -, hrun, hq, -, -, -⟩ := hk .store (by decide)
  obtain ⟨-, -, -, -, -, -, hv, -⟩ := hk .rails (by decide)
  have hlens : lensDue (lightIfReady s) = lensDue s := by
    obtain ⟨hlens, -⟩ := hk .lens (by decide)
    have hsn : (lightIfReady s).snuff = s.snuff := hk .snuff (by decide)
    obtain ⟨-, -, -, -, hr, hw, -⟩ := hk .store (by decide)
    obtain ⟨-, hre⟩ := hk .core (by decide)
    exact lensDue_eq hlens hsn hr hw hre
  have hlamp : lamp (lightIfReady s) = .lighting ∨ lamp (lightIfReady s) = .snuffed := by
    obtain e | e := e
    · exact .inl (by rw [e, lamp_fixSteer, lamp_setLamp])
    · exact .inr (by rw [e, lamp_setLamp])
  have hhalt : (lightIfReady s).scan.halted = s.scan.halted := by
    obtain e | e := e
    · rw [e, scan_fixSteer]
      rfl
    · rw [e]
      rfl
  refine ⟨fun a ha hb => ?_, .inr ?_, hhalt.trans h.halted, hlens.trans h.lens, ?_, ?_⟩
  · exact absurd ((h.act a (hact ▸ ha) hb).symm.trans (lamp_of_lightDue hl)) (by decide)
  · rcases hlamp with hl | hl <;> rw [hl] <;> decide
  · rcases hlamp with hl | hl <;> simp [lightDue, hl]
  · simp only [hv, nvmHas, hrun, hq]
    exact h.vrm

/-- Where nothing but the light can go on, settling lights. -/
theorem Steady.settleAll_eq (h : Steady s) : settleAll s = lightIfReady s := by
  have hn := h.settled_lightIfReady
  rw [settleAll]
  rw [show settleOnce s = settleOnce (lightIfReady s) from ?_, settleOnce_of_settled hn, settleOnce_of_settled hn]
  rw [settleOnce, settleOnce, vrmSettle_of s h.vrm, vrmSettle_of _ hn.vrm, lightIfReady_of _ hn.light]

/-- A command whose effect leaves nothing to settle but the light, or has lit already, completes. -/
theorem completes_steady {c : Instr} {x y : State} {q : List Instr} {P : State → Prop} (hx : exec c s = .next { settleAll x with pending := q })
    (hxy : x = y ∨ x = lightIfReady y) (hy : Steady y) (hP : ∀ t, Changes lightParts lightWrite y t → P t) : Completes c s P := by
  refine ⟨_, hx, hP _ ?_⟩
  have he : settleAll x = lightIfReady y := by
    obtain rfl | rfl := hxy
    · exact hy.settleAll_eq
    · exact settleAll_of_settled hy.settled_lightIfReady
  rw [he]
  exact (changes_lightIfReady y).trans (changes_pending _ _)

theorem Steady.setFld (h : Steady s) {f : Fld} {v : Nat} (hf : f.off ≠ Reg.GEN_STATE) : Steady (setFld s f v) := by
  have hl : lamp (Machine.setFld s f v) = lamp s := lamp_congr (fld_congr_reg (reg_setFld_ne s v (Ne.symm hf)))
  exact ⟨fun a ha hb => hl.trans (h.act a ha hb), by rw [hl]; exact h.orderly, h.halted, h.lens, h.vrm⟩

/-- What settling reads of other kinds than the rails. -/
def steadyParts : List Part := [.structure, .sequence, .lens, .snuff, .store, .core, .lamp, .scan]

theorem Steady.of_changes {ps : List Part} {w : Nat → Prop} (hs : Steady s) (h : Changes ps w s t) (hd : ∀ p ∈ steadyParts, p ∉ ps)
    (hv : t.vrmFailed = s.vrmFailed) : Steady t := by
  have hm : ∀ p, p ∈ steadyParts → Part.same s t p := fun p hp => h.frame p (hd p hp)
  obtain ⟨-, hact, -⟩ := hm .structure (by decide)
  obtain ⟨hord, -⟩ := hm .sequence (by decide)
  obtain ⟨hlens, -⟩ := hm .lens (by decide)
  have hsn : t.snuff = s.snuff := hm .snuff (by decide)
  obtain ⟨-, -, hrun, hq, hr, hw, -⟩ := hm .store (by decide)
  obtain ⟨-, hre⟩ := hm .core (by decide)
  have hgen : reg t Reg.GEN_STATE = reg s Reg.GEN_STATE := hm .lamp (by decide)
  have hscan : t.scan = s.scan := hm .scan (by decide)
  have hl : lamp t = lamp s := lamp_congr (fld_congr_reg hgen)
  refine ⟨fun a ha hb => hl.trans (hs.act a (hact ▸ ha) hb), ?_, by rw [hscan]; exact hs.halted, ?_, ?_⟩
  · rw [hord, hl]
    exact hs.orderly
  · rw [← hs.lens]
    exact lensDue_eq hlens hsn hr hw hre
  · simp only [hv, nvmHas, hrun, hq]
    exact hs.vrm

end

/-! ### Moves of the rails -/

/-- The kinds of state that a sequence of the rails changes. -/
def railParts : List Part := [.rails, .regs 0x11] ++ eventParts

/-- The registers of a sequence. -/
def seqReg (o : Nat) : Prop := o = Reg.RAIL_STAT ∨ o = Reg.RAIL_CTRL ∨ eventReg o

/-- A sequence of the rails moves. -/
structure Moved (s t : State) : Prop where
  changes : Changes railParts seqReg s t
  failed : t.vrmFailed = s.vrmFailed

section

variable {s t u : State}

theorem Moved.refl (s : State) : Moved s s := ⟨.refl s, rfl⟩

theorem Moved.trans (h : Moved s t) (k : Moved t u) : Moved s u := ⟨h.changes.trans k.changes, k.failed.trans h.failed⟩

theorem Moved.steady (h : Moved s t) (hs : Steady s) : Steady t := hs.of_changes h.changes (by decide) h.failed

theorem moved_setFld (s : State) (f : Fld) (v : Nat) (h : f.off = Reg.RAIL_STAT ∨ f.off = Reg.RAIL_CTRL) : Moved s (setFld s f v) := by
  refine ⟨changes_setFld s f v ?_ ?_ ?_, rfl⟩
  · rcases h with h | h <;> rw [h] <;> decide
  · rcases h with h | h
    · exact .inl h
    · exact .inr (.inl h)
  · rcases h with h | h <;> rw [h] <;> decide

theorem moved_rails (s : State) {rails : Tbl RailPhase} {at_ : Nat} {th fa he : Bool} :
    Moved s { s with rails := rails, railSeqAt := at_, railThen := th, railFaulted := fa, railHeld := he } :=
  ⟨changes_of_frame (fun p hq => by cases p <;> first | exact absurd (by decide) hq | exact fun _ _ _ => rfl | rfl | simp [Part.same]) rfl rfl, rfl⟩

theorem moved_raise {src : Nat} (cs : List Cap) (s : State) (h : src < 256) : Moved s (raise src cs s) := by
  have hr := changes_raise src cs s h
  obtain ⟨-, -, -, -, -, -, hv, -⟩ := hr.frame .rails (by decide)
  exact ⟨hr.mono (by decide) fun _ he => .inr (.inr he), hv⟩

theorem moved_setRail (s : State) (i : Nat) (p : RailPhase) : Moved s (setRail s i p) :=
  (moved_rails s (rails := tblSet .off s.rails i p)).trans (moved_setFld _ _ _ (.inl rfl))

theorem moved_railActs (up down : Nat) (s : State) : Moved s (railActs up down s) :=
  (moved_setFld s _ up (.inr rfl)).trans (moved_setFld _ _ down (.inr rfl))

theorem moved_railSeqDone (s : State) : Moved s (railSeqDone s) := by
  unfold railSeqDone
  extract_lets dir u
  have hu : Moved s u := ((moved_rails s (fa := false)).trans (moved_setFld _ _ 0 (.inl rfl))).trans (moved_railActs 0 0 _)
  exact hu.trans (moved_raise _ u (by decide))

/-! ### Phases -/

theorem railPhase_congr (h : t.rails = s.rails) (i : Nat) : railPhase t i = railPhase s i := by rw [railPhase, railPhase, h]

theorem railPhase_setFld (s : State) (f : Fld) (v i : Nat) : railPhase (setFld s f v) i = railPhase s i := rfl

theorem railPhase_setRail (s : State) (i : Nat) (p : RailPhase) (k : Nat) :
    railPhase (setRail s i p) k = if k = i then p else railPhase s k := by
  rw [railPhase, setRail_rails, tblGet_set]
  rfl

theorem rails_raise {src : Nat} (cs : List Cap) (s : State) (h : src < 256) : (raise src cs s).rails = s.rails := by
  obtain ⟨hr, -⟩ := (changes_raise src cs s h).frame .rails (by decide)
  exact hr

theorem railPhase_railSeqDone (s : State) (i : Nat) : railPhase (railSeqDone s) i = railPhase s i :=
  railPhase_congr (rails_raise _ _ (by decide)) i

theorem fld_railSeqDone (s : State) {f : Fld} (hf : f.off = Reg.RAIL_STAT) (hg : f.lo ≤ f.hi) (h : f.hi < 8 ∨ 9 < f.lo) :
    fld (railSeqDone s) f = fld s f := by
  have hr : fld (railSeqDone s) f = fld (railActs 0 0 (setFld { s with railFaulted := false } Reg.RAIL_STAT_SEQ 0)) f :=
    (changes_raise evRailSeq _ _ (by decide)).fld_eq (by rw [hf]; exact not_eventReg (.inr (by decide)) (.inl (by decide)))
  have hctrl : f.off ≠ Reg.RAIL_CTRL := by rw [hf]; decide
  rw [hr, railActs, fld_congr_reg (reg_setFld_ne _ _ hctrl), fld_congr_reg (reg_setFld_ne _ _ hctrl),
    fld_setFld_ne _ Reg.RAIL_STAT_SEQ f _ ⟨by decide, by decide⟩ hg (.inr h)]
  rfl

theorem pgood_railSeqDone (s : State) (i : Nat) :
    bitOf (fld (railSeqDone s) Reg.RAIL_STAT_PGOOD) i = bitOf (fld s Reg.RAIL_STAT_PGOOD) i := by
  rw [fld_railSeqDone s rfl (by decide) (.inl (by decide))]

/-- PGOOD of a rail is a bit of RAIL_STAT. -/
theorem bitOf_pgood (s : State) {i : Nat} (h : i < 4) :
    bitOf (fld s Reg.RAIL_STAT_PGOOD) i = decide (fld s ⟨Reg.RAIL_STAT, 4 + i, 4 + i⟩ = 1) := by
  simp only [bitOf, fld, bitsOf, Nat.sub_self, pow_one, Nat.zero_add, Nat.pow_add]
  interval_cases i <;> norm_num <;> omega

theorem bitOf_pgood_setRail (s : State) {i : Nat} (p : RailPhase) (k : Nat) (h : i < 4) (hk : k < 4) :
    bitOf (fld (setRail s k p) Reg.RAIL_STAT_PGOOD) i = if i = k then p.good else bitOf (fld s Reg.RAIL_STAT_PGOOD) i := by
  have hok : (⟨Reg.RAIL_STAT, 4 + k, 4 + k⟩ : Fld).ok := ⟨le_refl _, by show 4 + k < 64; omega⟩
  rw [bitOf_pgood _ h, bitOf_pgood _ h, setRail]
  split
  · next e =>
    subst e
    rw [fld_setFld_same _ _ _ hok]
    cases p.good <;> simp [b2n]
  · next e =>
    rw [fld_setFld_ne _ _ _ _ hok (le_refl _) (.inr (by show 4 + i < 4 + k ∨ 4 + k < 4 + i; omega))]
    rfl

/-- What lighting leaves of the rails. -/
theorem lit_rails (h : Changes lightParts lightWrite s t) (i : Nat) : railPhase t i = railPhase s i := by
  obtain ⟨hr, -⟩ := h.frame .rails (by decide)
  exact railPhase_congr hr i

theorem lit_fld (h : Changes lightParts lightWrite s t) {f : Fld} (hf : 0x3B0000 ≤ f.off) : fld t f = fld s f :=
  h.fld_eq fun e => by
    rcases e with e | e
    · rw [e] at hf
      exact absurd hf (by decide)
    · rw [e] at hf
      exact absurd hf (by decide)

end

/-! ### A ramp starts (R267) -/

section

variable {s : State} {i : Nat}

theorem completes_delay (hs : s.settled) (h : railPhase s i = .delay) :
    Completes (.railDelayExpire i) s (fun t => railPhase t i = .ramping) := by
  have hy : railDelayExpire i (fresh s) = setRail (fresh s) i .ramping := by
    rw [railDelayExpire, show railPhase (fresh s) i = .delay from h]
  refine completes_steady (x := railDelayExpire i (fresh s)) rfl (.inl hy) ((moved_setRail _ i _).steady (steady_of_settled (settled_fresh hs)))
    fun t ht => ?_
  rw [lit_rails ht, railPhase_setRail, if_pos rfl]

theorem completes_downDelay (hs : s.settled) (h : railPhase s i = .downDelay) (hd : downTurn s i = true) :
    Completes (.railDelayExpire i) s (fun t => railPhase t i = .down) := by
  have hy : railDelayExpire i (fresh s) = setRail (fresh s) i .down := by
    rw [railDelayExpire, show railPhase (fresh s) i = .downDelay from h]
    exact if_pos hd
  refine completes_steady (x := railDelayExpire i (fresh s)) rfl (.inl hy) ((moved_setRail _ i _).steady (steady_of_settled (settled_fresh hs)))
    fun t ht => ?_
  rw [lit_rails ht, railPhase_setRail, if_pos rfl]

/-! ### Power-good (R267, R268) -/

/-- What goes on with a power-up before any light. -/
def upOn (s : State) : State :=
  match nextUp s with
  | some k => setRail s k .delay
  | none => if fld s Reg.RAIL_STAT_SEQ = 1 then railSeqDone s else s

theorem moved_upOn (s : State) : Moved s (upOn s) := by
  unfold upOn
  split
  · exact moved_setRail s _ _
  · split
    · exact moved_railSeqDone s
    · exact .refl s

theorem upOn_some {s : State} {k : Nat} (h : nextUp s = some k) : upOn s = setRail s k .delay := by
  rw [upOn, h]

theorem upOn_none {s : State} (h : nextUp s = none) : upOn s = if fld s Reg.RAIL_STAT_SEQ = 1 then railSeqDone s else s := by
  rw [upOn, h]

theorem upNext_some {s : State} {k : Nat} (h : nextUp s = some k) : upNext s = setRail s k .delay := by
  rw [upNext, h]

/-- Without orderly dark a power-up that ends may light (R267, R270). -/
theorem upNext_eq {s : State} (ho : s.orderly = none) : upNext s = upOn s ∨ upNext s = lightIfReady (upOn s) := by
  cases h : nextUp s with
  | some k => exact .inl ((upNext_some h).trans (upOn_some h).symm)
  | none =>
    right
    have hno : (upOn s).orderly = none := by
      obtain ⟨e, -⟩ := (moved_upOn s).changes.frame .sequence (by decide)
      exact e.trans ho
    rw [upOn_none h] at hno ⊢
    rw [upNext, h]
    refine if_neg ?_
    rw [hno]
    simp

theorem nextUp_some {s : State} {k : Nat} (h : nextUp s = some k) : railUp s k = false ∧ k < 3 := by
  have hu := List.find?_some h
  have hm := List.mem_of_find?_eq_some h
  simp only [Bool.and_eq_true, Bool.not_eq_true'] at hu
  obtain ⟨-, hu⟩ := hu
  refine ⟨hu, ?_⟩
  simp only [upOrder, List.mem_cons, List.not_mem_nil, or_false] at hm
  omega

/-- A rail that is up stays as it is while the power-up goes on with another. -/
theorem upOn_keeps {s : State} {i : Nat} (h : railUp s i = true) (hi : i < 4) : railPhase (upOn s) i = railPhase s i ∧
    bitOf (fld (upOn s) Reg.RAIL_STAT_PGOOD) i = bitOf (fld s Reg.RAIL_STAT_PGOOD) i := by
  unfold upOn
  split
  · next k hk =>
    obtain ⟨hu, hlt⟩ := nextUp_some hk
    have hne : i ≠ k := fun e => by
      rw [e, hu] at h
      exact Bool.noConfusion h
    exact ⟨by rw [railPhase_setRail, if_neg hne], by rw [bitOf_pgood_setRail _ _ _ hi (by omega), if_neg hne]⟩
  · split
    · exact ⟨railPhase_railSeqDone s i, pgood_railSeqDone s i⟩
    · exact ⟨rfl, rfl⟩

/-- A power-up that goes on once rail `i` is power-good. -/
theorem railPowerGood_eq {s : State} (v : Int) (h : railPhase s i = .ramping) (ho : s.orderly = none) :
    ∃ y, Moved (setSFld (setRail s i .pgood) (Reg.RAIL_MEAS_V i) v) y ∧ (railPowerGood i v s = y ∨ railPowerGood i v s = lightIfReady y) ∧
      (i < 4 → railPhase y i = .pgood ∧ bitOf (fld y Reg.RAIL_STAT_PGOOD) i = true) := by
  have hup : railPhase (setSFld (setRail s i .pgood) (Reg.RAIL_MEAS_V i) v) i = .pgood :=
    (railPhase_setRail s i .pgood i).trans (if_pos rfl)
  have hbit : i < 4 → bitOf (fld (setSFld (setRail s i .pgood) (Reg.RAIL_MEAS_V i) v) Reg.RAIL_STAT_PGOOD) i = true := fun hi => by
    rw [setSFld, fld_congr_reg (reg_setFld_ne _ _ (by simp only [Reg.RAIL_STAT, Reg.RAIL_MEAS]; omega)),
      bitOf_pgood_setRail s _ _ hi hi, if_pos rfl]
    rfl
  have hord : (setSFld (setRail s i .pgood) (Reg.RAIL_MEAS_V i) v).orderly = none := ho
  rw [railPowerGood, if_pos h]
  dsimp only
  generalize setSFld (setRail s i .pgood) (Reg.RAIL_MEAS_V i) v = u at hup hbit hord
  split
  · exact ⟨railSeqDone u, moved_railSeqDone u, .inr rfl, fun hi =>
      ⟨(railPhase_railSeqDone u i).trans hup, (pgood_railSeqDone u i).trans (hbit hi)⟩⟩
  · refine ⟨upOn u, moved_upOn u, upNext_eq hord, fun hi => ?_⟩
    obtain ⟨hp, hb⟩ := upOn_keeps (s := u) (by rw [railUp, hup]; decide) hi
    exact ⟨hp.trans hup, hb.trans (hbit hi)⟩

theorem actRails_none {s : State} (h : s.act = none) : actRails s = s := by
  unfold actRails
  rw [h]

theorem orderlyEnd_none {s : State} (h : s.orderly = none) : orderlyEnd s = s := by
  unfold orderlyEnd
  rw [h]

theorem act_lightIfReady (s : State) : (lightIfReady s).act = s.act := by
  obtain ⟨-, h, -⟩ := (changes_lightIfReady s).frame .structure (by decide)
  exact h

theorem sfld_setSFld (s : State) {o : Nat} {v : Int} (h : -32768 ≤ v) (k : v ≤ 32767) : sfld (setSFld s ⟨o, 15, 0⟩ v) ⟨o, 15, 0⟩ = v := by
  rw [sfld, setSFld, fld_setFld_same _ _ _ ⟨Nat.zero_le 15, by show 15 < 64; decide⟩]
  simp only [clampI, ofSigned, toSigned]
  norm_num
  omega

theorem completes_powerGood (hs : s.settled) (hi : i < 4) (ho : s.orderly = none) (ha : s.act = none) {v : Int}
    (h : railPhase s i = .ramping) (hlo : -32768 ≤ v) (hhi : v ≤ 32767) : Completes (.railPowerGood i v) s (fun t =>
      railPhase t i = .pgood ∧ bitOf (fld t Reg.RAIL_STAT_PGOOD) i = true ∧ sfld t (Reg.RAIL_MEAS_V i) = v) := by
  obtain ⟨y, hm, hy, hp⟩ := railPowerGood_eq (s := fresh s) v h ho
  obtain ⟨hphase, hgood⟩ := hp hi
  have hmeas : Changes (railParts ++ [.regs 0x11]) (fun o => seqReg o ∨ o = Reg.RAIL_MEAS i) (fresh s)
      (setSFld (setRail (fresh s) i .pgood) (Reg.RAIL_MEAS_V i) v) :=
    ((moved_setRail (fresh s) i .pgood).changes.mono (by decide) fun _ e => .inl e).trans
      (changes_setFld _ _ _ (by
        rw [show blockOf (Reg.RAIL_MEAS_V i).off = 0x11 from blockOf_rail (by simp only [Reg.RAIL_MEAS]; omega)
          (by simp only [Reg.RAIL_MEAS]; omega)]
        decide) (.inr rfl) (by simp only [Reg.RAIL_MEAS, Reg.GEN_STATE]; omega))
  have hu := (steady_of_settled (settled_fresh hs)).of_changes hmeas (by decide) rfl
  have hact : y.act = none := by
    obtain ⟨-, e, -⟩ := (hmeas.frame.trans (hm.changes.frame.mono (by decide))) .structure (by decide)
    exact e.trans ha
  have hx : actRails (railPowerGood i v (fresh s)) = y ∨ actRails (railPowerGood i v (fresh s)) = lightIfReady y := by
    rcases hy with e | e
    · exact .inl (by rw [e, actRails_none hact])
    · exact .inr (by rw [e, actRails_none (by rw [act_lightIfReady, hact])])
  refine completes_steady (x := actRails (railPowerGood i v (fresh s))) rfl hx (hm.steady hu) fun t ht => ⟨?_, ?_, ?_⟩
  · rw [lit_rails ht, hphase]
  · rw [lit_fld ht (by decide)]
    exact hgood
  · have hne : ¬ seqReg (Reg.RAIL_MEAS i) := by
      rintro (e | e | e)
      · simp only [Reg.RAIL_MEAS, Reg.RAIL_STAT] at e
        omega
      · simp only [Reg.RAIL_MEAS, Reg.RAIL_CTRL] at e
        omega
      · exact not_eventReg (.inr (by simp only [Reg.RAIL_MEAS]; omega)) (.inl (by simp only [Reg.RAIL_MEAS]; omega)) e
    rw [sfld, lit_fld ht (by simp only [Reg.RAIL_MEAS]; omega), hm.changes.fld_eq hne]
    exact sfld_setSFld _ hlo hhi

/-! ### A ramp down ends (R267, R270) -/

theorem startRails_idle {s : State} (h : lamp s ≠ .housekeeping) : startRails s = s := by
  have hr : ∀ n, startRuns n s = false := fun n => by simp [startRuns, h]
  simp [startRails, hr]

theorem railRampDownDone_eq {s : State} (h : railPhase s i = .down) (hw : s.wantLight = false) (hl : lamp s ≠ .housekeeping) (hi : i < 4) :
    Moved s (railRampDownDone i s) ∧ railPhase (railRampDownDone i s) i = .off ∧
      bitOf (fld (railRampDownDone i s) Reg.RAIL_STAT_PGOOD) i = false := by
  have hu := moved_setRail s i .off
  have hoff : railPhase (setRail s i .off) i = .off := (railPhase_setRail s i .off i).trans (if_pos rfl)
  have hbit : bitOf (fld (setRail s i .off) Reg.RAIL_STAT_PGOOD) i = false := by
    rw [bitOf_pgood_setRail s _ _ hi hi, if_pos rfl]
    rfl
  rw [railRampDownDone, if_pos h]
  dsimp only
  generalize setRail s i .off = u at hu hoff hbit
  split
  · exact ⟨hu, hoff, hbit⟩
  have hv : Moved u (if fld u Reg.RAIL_STAT_SEQ = 2 then railSeqDone u else u) ∧
      railPhase (if fld u Reg.RAIL_STAT_SEQ = 2 then railSeqDone u else u) i = .off ∧
      bitOf (fld (if fld u Reg.RAIL_STAT_SEQ = 2 then railSeqDone u else u) Reg.RAIL_STAT_PGOOD) i = false := by
    split
    · exact ⟨moved_railSeqDone u, (railPhase_railSeqDone u i).trans hoff, (pgood_railSeqDone u i).trans hbit⟩
    · exact ⟨.refl u, hoff, hbit⟩
  generalize (if fld u Reg.RAIL_STAT_SEQ = 2 then railSeqDone u else u) = v at hv
  obtain ⟨hm, hp, hb⟩ := hv
  have hsv := hu.trans hm
  obtain ⟨-, hwant, -⟩ := hsv.changes.frame .sequence (by decide)
  have hlamp : lamp v = lamp s := lamp_congr (fld_congr_reg (hsv.changes.frame .lamp (by decide)))
  rw [if_neg (by rw [hwant, hw]; exact Bool.false_ne_true), startRails_idle (by rw [hlamp]; exact hl)]
  exact ⟨hsv, hp, hb⟩

theorem completes_rampDown (hs : s.settled) (hi : i < 4) (ho : s.orderly = none) (ha : s.act = none) (h : railPhase s i = .down)
    (hw : s.wantLight = false) (hl : lamp s ≠ .housekeeping) : Completes (.railRampDownDone i) s (fun t =>
      railPhase t i = .off ∧ bitOf (fld t Reg.RAIL_STAT_PGOOD) i = false) := by
  obtain ⟨hm, hp, hb⟩ := railRampDownDone_eq (s := fresh s) h hw hl hi
  obtain ⟨-, hact, -⟩ := hm.changes.frame .structure (by decide)
  obtain ⟨hord, -⟩ := hm.changes.frame .sequence (by decide)
  refine completes_steady (x := actRails (orderlyEnd (railRampDownDone i (fresh s)))) rfl (.inl ?_)
    (hm.steady (steady_of_settled (settled_fresh hs))) fun t ht => ⟨?_, ?_⟩
  · rw [orderlyEnd_none (hord.trans ho), actRails_none (hact.trans ha)]
  · rw [lit_rails ht, hp]
  · rw [lit_fld ht (by decide)]
    exact hb

/-! ### RAIL_CTRL.UP (R268, R270) -/

/-- HOST_WAIT for the rails ends, and step 9 of the start goes on. -/
def upWakes (s : State) : State :=
  if lamp s = .hostWait ∧ fld s Reg.STR_STAT_WHY = 2 then
    setFld (setFld (setLamp s .housekeeping) Reg.STR_STAT_STEP 9) Reg.STR_STAT_WHY 0
  else s

/-- VLCD takes its entry while it is off, and RAIL_CTRL.UP ends the hold after a fault. -/
def upReady (s : State) : State :=
  { (if hasLens s && !railUp s 3 then setVlcd (lensEntry s) s else s) with railHeld := false }

/-- A sequence up begins. -/
def upBegun (s : State) : State := { setFld s Reg.RAIL_STAT_SEQ 1 with railSeqAt := s.ns, railThen := true }

theorem steady_upWakes {s : State} (h : Steady s) : Steady (upWakes s) := by
  unfold upWakes
  split
  · next hw =>
    obtain ⟨hl, -⟩ := hw
    have hb : Steady (setLamp s .housekeeping) :=
      ⟨fun _ _ _ => lamp_setLamp s _, .inr (by rw [lamp_setLamp]; decide), h.halted, h.lens, h.vrm⟩
    exact (hb.setFld (by decide)).setFld (by decide)
  · exact h

theorem steady_upReady {s : State} (h : Steady s) : Steady (upReady s) := by
  have hv : Steady (if hasLens s && !railUp s 3 then setVlcd (lensEntry s) s else s) := by
    split
    · have hb : Steady { s with lens := { s.lens with vlcd := lensEntry s } } := ⟨h.act, h.orderly, h.halted, h.lens, h.vrm⟩
      exact hb.setFld (by decide)
    · exact h
  exact ⟨hv.act, hv.orderly, hv.halted, hv.lens, hv.vrm⟩

theorem upWakes_keeps (s : State) : (upWakes s).rails = s.rails ∧ reg (upWakes s) Reg.RAIL_STAT = reg s Reg.RAIL_STAT := by
  unfold upWakes
  split
  · refine ⟨rfl, ?_⟩
    rw [reg_setFld_ne _ _ (by decide), reg_setFld_ne _ _ (by decide), setLamp, reg_setFld_ne _ _ (by decide)]
  · exact ⟨rfl, rfl⟩

theorem upReady_keeps (s : State) : (upReady s).rails = s.rails ∧ reg (upReady s) Reg.RAIL_STAT = reg s Reg.RAIL_STAT := by
  have hv : (if hasLens s && !railUp s 3 then setVlcd (lensEntry s) s else s).rails = s.rails ∧
      reg (if hasLens s && !railUp s 3 then setVlcd (lensEntry s) s else s) Reg.RAIL_STAT = reg s Reg.RAIL_STAT := by
    split
    · exact ⟨rfl, reg_setFld_ne _ _ (by decide)⟩
    · exact ⟨rfl, rfl⟩
  exact hv

theorem moved_upBegun (s : State) : Moved s (upBegun s) := (moved_setFld s _ 1 (.inl rfl)).trans (moved_rails _)

theorem seq_setRail (s : State) {k : Nat} (p : RailPhase) (hk : k < 4) : fld (setRail s k p) Reg.RAIL_STAT_SEQ = fld s Reg.RAIL_STAT_SEQ := by
  rw [setRail, fld_setFld_ne _ _ _ _ ⟨le_refl _, by show 4 + k < 64; omega⟩ (by decide) (.inr (.inr (by show 4 + k < 8; omega)))]
  rfl

theorem railUpCmd_eq {s : State} (hd : isDark s = true) (hq : fld s Reg.RAIL_STAT_SEQ = 0) (hl : lamp s ≠ .off) :
    railUpCmd s = (let c := railsUp true true (upReady (upWakes s)); if fld c Reg.RAIL_STAT_SEQ = 1 then setFld c Reg.RAIL_CTRL_UP 1 else c) := by
  have hlit : isLit s = false := by simpa [isDark] using hd
  rw [railUpCmd, if_neg (by simp [hlit, hq, hl])]
  rfl

/-- RAIL_CTRL.UP starts a sequence with rail `k`. -/
theorem completes_up {k : Nat} (hs : s.settled) (hk : k < 4) (hd : isDark s = true) (hq : fld s Reg.RAIL_STAT_SEQ = 0) (hl : lamp s ≠ .off)
    (hup : railsUp true true (upReady (upWakes (freshWrite s))) = setRail (upBegun (upReady (upWakes (freshWrite s)))) k .delay) :
    Completes .railUp s (fun t => fld t Reg.RAIL_STAT_SEQ = 1 ∧ fld t Reg.RAIL_CTRL_UP = 1 ∧ railPhase t k = .delay) := by
  have hbase := steady_upReady (steady_upWakes (steady_of_settled (settled_freshWrite hs)))
  have hc := railUpCmd_eq (s := freshWrite s) hd hq hl
  rw [hup] at hc
  generalize upReady (upWakes (freshWrite s)) = u at hbase hc
  have hseq : fld (setRail (upBegun u) k .delay) Reg.RAIL_STAT_SEQ = 1 := by
    rw [seq_setRail _ _ hk]
    exact fld_setFld_same u Reg.RAIL_STAT_SEQ 1 ⟨by decide, by decide⟩
  have hphase : railPhase (setRail (upBegun u) k .delay) k = .delay := (railPhase_setRail _ k _ k).trans (if_pos rfl)
  have hm : Moved u (setRail (upBegun u) k .delay) := (moved_upBegun u).trans (moved_setRail _ k _)
  dsimp only at hc
  rw [if_pos hseq] at hc
  generalize setRail (upBegun u) k .delay = v at hseq hphase hm hc
  refine completes_steady (x := railUpCmd (freshWrite s)) rfl (.inl hc) ((hm.trans (moved_setFld v _ 1 (.inr rfl))).steady hbase)
    fun t ht => ⟨?_, ?_, ?_⟩
  · rw [lit_fld ht (by decide), fld_congr_reg (reg_setFld_ne _ _ (by decide))]
    exact hseq
  · rw [lit_fld ht (by decide)]
    exact fld_setFld_same v Reg.RAIL_CTRL_UP 1 ⟨by decide, by decide⟩
  · rw [lit_rails ht, railPhase_setFld]
    exact hphase

theorem railInUse_congr {s t : State} (h : reg t Reg.RAIL_STAT = reg s Reg.RAIL_STAT) (k : Nat) : railInUse t k = railInUse s k := by
  rw [railInUse, railInUse, fld_congr_reg h]

theorem railUp_congr {s t : State} (h : t.rails = s.rails) (k : Nat) : railUp t k = railUp s k := by
  rw [railUp, railUp, railPhase_congr h]

theorem upReady_rails (s : State) (k : Nat) : railInUse (upReady (upWakes s)) k = railInUse s k ∧ railUp (upReady (upWakes s)) k = railUp s k := by
  obtain ⟨hr, hreg⟩ := upReady_keeps (upWakes s)
  obtain ⟨kr, kreg⟩ := upWakes_keeps s
  exact ⟨railInUse_congr (hreg.trans kreg) k, railUp_congr (hr.trans kr) k⟩

/-- VLCD is first where it is in use and off (R268). -/
theorem railsUp_vlcd {u : State} (hu : railInUse u 3 = true) (ho : railUp u 3 = false) : railsUp true true u = setRail (upBegun u) 3 .delay := by
  rw [railsUp]
  exact if_pos (by rw [hu, ho]; rfl)

theorem nextUp_upBegun (u : State) : nextUp (upBegun u) = nextUp u := by
  have huse : ∀ k, railInUse (upBegun u) k = railInUse u k := fun k => by
    have e : fld (upBegun u) Reg.RAIL_STAT_USE = fld u Reg.RAIL_STAT_USE :=
      fld_setFld_ne u Reg.RAIL_STAT_SEQ _ 1 ⟨by decide, by decide⟩ (by decide) (.inr (.inl (by decide)))
    rw [railInUse, railInUse, e]
  have hup : ∀ k, railUp (upBegun u) k = railUp u k := fun k => railUp_congr rfl k
  simp only [nextUp, huse, hup]

/-- Else the emitter rails follow in their order. -/
theorem railsUp_emitter {u : State} {k : Nat} (hu : railInUse u 3 = false ∨ railUp u 3 = true) (hn : nextUp u = some k) :
    railsUp true true u = setRail (upBegun u) k .delay := by
  have hno : ¬ (true && railInUse u 3 && !railUp u 3) = true := by
    rcases hu with e | e <;> simp [e]
  rw [railsUp, if_neg hno, if_pos (by rw [hn]; rfl)]
  exact upNext_some ((nextUp_upBegun u).trans hn)

theorem nextUp_upReady (s : State) : nextUp (upReady (upWakes (freshWrite s))) = nextUp s := by
  have hk : ∀ k, (railInUse (upReady (upWakes (freshWrite s))) k && !railUp (upReady (upWakes (freshWrite s))) k) = (railInUse s k && !railUp s k) :=
    fun k => by
      obtain ⟨h1, h2⟩ := upReady_rails (freshWrite s) k
      rw [h1, h2]
      rfl
  simp only [nextUp, hk]

/-! ### RAIL_CTRL.DOWN (R268, R270) -/

theorem railPhase_forAll (l : List Nat) (p : RailPhase) (s : State) (k : Nat) :
    railPhase (forAll l (fun j s => setRail s j p) s) k = if k ∈ l then p else railPhase s k := by
  induction l generalizing s with
  | nil => rfl
  | cons j l ih =>
    rw [forAll_cons, ih, railPhase_setRail]
    by_cases h1 : k ∈ l
    · simp [h1]
    · by_cases h2 : k = j <;> simp [h1, h2]

/-- Rails that wait for their ramp up are off at once. -/
def undelay (s : State) : State := forAll downOrder (fun i s => if decide (railPhase s i = .delay) then setRail s i .off else s) s

theorem railPhase_forAll_undelay (l : List Nat) (s : State) (k : Nat) :
    railPhase (forAll l (fun i s => if decide (railPhase s i = .delay) then setRail s i .off else s) s) k =
      if k ∈ l ∧ railPhase s k = .delay then .off else railPhase s k := by
  induction l generalizing s with
  | nil => simp [forAll]
  | cons j l ih =>
    rw [forAll_cons, ih]
    by_cases hj : railPhase s j = .delay
    · have e : ∀ m, railPhase (if decide (railPhase s j = .delay) then setRail s j .off else s) m = if m = j then .off else railPhase s m := fun m => by
        rw [if_pos (decide_eq_true hj), railPhase_setRail]
      rw [e]
      by_cases h2 : k = j
      · subst h2
        simp [hj]
      · simp [h2]
    · have e : (if decide (railPhase s j = .delay) then setRail s j .off else s) = s := if_neg (by simpa using hj)
      rw [e]
      by_cases h2 : k = j
      · subst h2
        simp [hj]
      · simp [h2]

theorem moved_forAll {l : List Nat} {g : Nat → State → State} (hg : ∀ k ∈ l, ∀ t, Moved t (g k t)) (s : State) : Moved s (forAll l g s) :=
  forAll_keeps (Moved s) l g (fun k hk t ht => ht.trans (hg k hk t)) s (.refl s)

theorem moved_undelay (s : State) : Moved s (undelay s) :=
  moved_forAll (fun k _ t => by
    split
    · exact moved_setRail t k _
    · exact .refl t) s

theorem railPhase_undelay (s : State) (k : Nat) : railPhase (undelay s) k =
    if k ∈ downOrder ∧ railPhase s k = .delay then .off else railPhase s k := railPhase_forAll_undelay _ s k

/-- The time at which a sequence down begins. -/
def downTimed (n : Nat) (s : State) : State := { s with railSeqAt := n, railThen := false }

theorem moved_downTimed (n : Nat) (s : State) : Moved s (downTimed n s) := moved_rails s

theorem railPhase_downTimed (n : Nat) (s : State) (k : Nat) : railPhase (downTimed n s) k = railPhase s k := rfl

theorem fld_downTimed (n : Nat) (s : State) (f : Fld) : fld (downTimed n s) f = fld s f := rfl

/-- A sequence down is noted. -/
def downMark (s : State) : State := downTimed s.ns (setFld (setFld s Reg.RAIL_CTRL_UP 0) Reg.RAIL_STAT_SEQ 2)

/-- A sequence down begins. -/
def downBegun (s : State) : State := downMark (undelay s)

theorem downMark_eq (s : State) :
    ({ setFld (setFld s Reg.RAIL_CTRL_UP 0) Reg.RAIL_STAT_SEQ 2 with railSeqAt := s.ns, railThen := false } : State) = downMark s := by
  unfold downMark downTimed
  dsimp only

theorem moved_downMark (s : State) : Moved s (downMark s) :=
  ((moved_setFld s _ 0 (.inr rfl)).trans (moved_setFld _ _ 2 (.inl rfl))).trans (moved_downTimed _ _)

theorem railPhase_downMark (s : State) (k : Nat) : railPhase (downMark s) k = railPhase s k := by
  rw [downMark, railPhase_downTimed, railPhase_setFld, railPhase_setFld]

theorem seq_downMark (s : State) : fld (downMark s) Reg.RAIL_STAT_SEQ = 2 := by
  rw [downMark, fld_downTimed, fld_setFld_same _ _ _ ⟨by decide, by decide⟩]
  decide

/-- The rails `l` go down in their order, the first at once; with none the sequence ends unless VLCD is still on its way. -/
def goDown (l : List Nat) (s : State) : State :=
  match l with
  | [] => if railPhase s 3 = .down then s else railSeqDone s
  | i :: l => forAll l (fun j s => setRail s j .downDelay) (setRail s i .down)

/-- The rails that are up go down. -/
def downRun (s : State) : State := goDown (downOrder.filter (railUp (undelay s))) (downBegun s)

theorem downRun_eq (u : State) :
    (let ups := downOrder.filter (railUp u)
     let s := { setFld (setFld u Reg.RAIL_CTRL_UP 0) Reg.RAIL_STAT_SEQ 2 with railSeqAt := u.ns, railThen := false }
     match ups with
     | [] => if railPhase s 3 = .down then s else railSeqDone s
     | i :: t =>
       let s := setRail s i .down
       forAll t (fun j s => setRail s j .downDelay) s) = goDown (downOrder.filter (railUp u)) (downMark u) := by
  rw [downMark_eq]
  generalize downOrder.filter (railUp u) = l
  cases l <;> rfl

/-- A sequence down, where none runs and a rail is up. -/
def downFrom (s : State) : State :=
  if fld s Reg.RAIL_STAT_SEQ = 2 then s
  else if fld s Reg.RAIL_STAT_SEQ = 0 ∧ railPhase s 3 ≠ .down ∧ !downOrder.any (railUp s) then s else downRun s

/-- VLCD goes down first. -/
def vlcdFirst (s : State) : State := vlcdDown { s with railHeld := true }

theorem railsDown_false (s : State) : railsDown false s = downFrom s := by
  unfold railsDown downFrom
  simp only [Bool.false_eq_true, if_false]
  by_cases h2 : fld s Reg.RAIL_STAT_SEQ = 2
  · rw [if_pos h2, if_pos h2]
  by_cases h0 : fld s Reg.RAIL_STAT_SEQ = 0 ∧ railPhase s 3 ≠ .down ∧ (!downOrder.any (railUp s)) = true
  · rw [if_neg h2, if_neg h2, if_pos h0, if_pos h0]
  · rw [if_neg h2, if_neg h2, if_neg h0, if_neg h0]
    exact downRun_eq (undelay s)

theorem railsDown_true (s : State) : railsDown true s = downFrom (vlcdFirst s) := by
  rw [← railsDown_false]
  unfold railsDown vlcdFirst
  simp only [Bool.false_eq_true, if_false, if_true]

theorem moved_downBegun (s : State) : Moved s (downBegun s) := (moved_undelay s).trans (moved_downMark _)

theorem goDown_nil (s : State) : goDown [] s = if railPhase s 3 = .down then s else railSeqDone s := rfl

theorem moved_goDown (l : List Nat) (s : State) : Moved s (goDown l s) := by
  cases l with
  | nil =>
    rw [goDown_nil]
    split
    · exact .refl s
    · exact moved_railSeqDone s
  | cons i l => exact (moved_setRail s i _).trans (moved_forAll (fun j _ t => moved_setRail t j _) _)

theorem moved_downRun (s : State) : Moved s (downRun s) := (moved_downBegun s).trans (moved_goDown _ _)

theorem railPhase_goDown_nil (s : State) (k : Nat) : railPhase (goDown [] s) k = railPhase s k := by
  rw [goDown_nil]
  split
  · rfl
  · exact railPhase_railSeqDone s k

theorem railPhase_goDown_cons (i : Nat) (l : List Nat) (s : State) (k : Nat) :
    railPhase (goDown (i :: l) s) k = if k ∈ l then .downDelay else if k = i then .down else railPhase s k :=
  (railPhase_forAll l .downDelay _ k).trans (by rw [railPhase_setRail])

theorem railPhase_downBegun (s : State) (k : Nat) : railPhase (downBegun s) k = railPhase (undelay s) k := railPhase_downMark _ k

theorem mem_downOrder {k : Nat} : k ∈ downOrder ↔ k < 3 := by
  simp only [downOrder, List.mem_cons, List.not_mem_nil, or_false]
  omega

/-- A rail that does not go down stays as it is. -/
theorem railPhase_goDown_ne {l : List Nat} {s : State} {k : Nat} (h : k ∉ l) : railPhase (goDown l s) k = railPhase s k := by
  cases l with
  | nil => exact railPhase_goDown_nil s k
  | cons i l => rw [railPhase_goDown_cons, if_neg (fun hk => h (List.mem_cons_of_mem _ hk)), if_neg (fun hk : k = i => h (hk ▸ List.mem_cons_self))]

theorem railPhase_goDown_mem {l : List Nat} {s : State} {k : Nat} (h : k ∈ l) :
    railPhase (goDown l s) k = .down ∨ railPhase (goDown l s) k = .downDelay := by
  cases l with
  | nil => exact absurd h List.not_mem_nil
  | cons i l =>
    rw [railPhase_goDown_cons]
    by_cases h1 : k ∈ l
    · exact .inr (if_pos h1)
    · obtain rfl | h2 := List.mem_cons.1 h
      · exact .inl (by rw [if_neg h1, if_pos rfl])
      · exact absurd h2 h1

/-- An emitter rail is then off or on its way down. -/
theorem railPhase_downRun (s : State) {k : Nat} (h : k < 3) :
    railPhase (downRun s) k = .off ∨ railPhase (downRun s) k = .down ∨ railPhase (downRun s) k = .downDelay := by
  by_cases hm : k ∈ downOrder.filter (railUp (undelay s))
  · exact .inr (railPhase_goDown_mem hm)
  · refine .inl ((railPhase_goDown_ne hm).trans ?_)
    have hu : ¬ railUp (undelay s) k = true := fun hu => hm (List.mem_filter.2 ⟨mem_downOrder.2 h, hu⟩)
    rw [railPhase_downBegun]
    simpa [railUp] using hu

/-- VLCD has no place in that order. -/
theorem railPhase_downRun_vlcd (s : State) : railPhase (downRun s) 3 = railPhase s 3 := by
  have hm : 3 ∉ downOrder.filter (railUp (undelay s)) := fun hk => absurd (mem_downOrder.1 (List.mem_of_mem_filter hk)) (by decide)
  rw [downRun, railPhase_goDown_ne hm, railPhase_downBegun, railPhase_undelay, if_neg (by simp [mem_downOrder])]

/-- A rail that is up and does not wait for its ramp. -/
theorem railUp_undelay (s : State) {k : Nat} (h : k ∈ downOrder) :
    railUp (undelay s) k = (railUp s k && decide (railPhase s k ≠ .delay)) := by
  rw [railUp, railUp, railPhase_undelay]
  by_cases hd : railPhase s k = .delay <;> simp [h, hd]

theorem seq_downBegun (s : State) : fld (downBegun s) Reg.RAIL_STAT_SEQ = 2 := seq_downMark _

theorem seq_goDown_cons {i : Nat} {l : List Nat} (hl : ∀ k ∈ i :: l, k < 4) (s : State) :
    fld (goDown (i :: l) s) Reg.RAIL_STAT_SEQ = fld s Reg.RAIL_STAT_SEQ :=
  (forAll_keeps (fun t => fld t Reg.RAIL_STAT_SEQ = fld (setRail s i .down) Reg.RAIL_STAT_SEQ) l _
    (fun k hk t ht => (seq_setRail t _ (hl k (List.mem_cons_of_mem _ hk))).trans ht) (setRail s i .down) rfl).trans
    (seq_setRail s _ (hl i List.mem_cons_self))

/-- The first rail that is up goes down at once. -/
theorem downRun_first {s : State} {j : Nat} (h : downOrder.find? (fun k => railUp s k && decide (railPhase s k ≠ .delay)) = some j) :
    railPhase (downRun s) j = .down ∧ fld (downRun s) Reg.RAIL_STAT_SEQ = 2 := by
  have hf : downOrder.filter (railUp (undelay s)) = downOrder.filter fun k => railUp s k && decide (railPhase s k ≠ .delay) :=
    List.filter_congr fun k hk => railUp_undelay s hk
  have hnd : (downOrder.filter (railUp (undelay s))).Nodup := List.Nodup.filter _ (by decide)
  have hh : (downOrder.filter (railUp (undelay s))).head? = some j := by rw [hf, List.head?_filter, h]
  have hlt : ∀ k, k ∈ downOrder.filter (railUp (undelay s)) → k < 4 := fun k hk => by
    have := mem_downOrder.1 (List.mem_of_mem_filter hk)
    omega
  rw [downRun]
  generalize downOrder.filter (railUp (undelay s)) = l at hnd hh hlt
  cases l with
  | nil => exact absurd hh (by simp)
  | cons i l =>
    obtain rfl : i = j := by simpa using hh
    refine ⟨?_, (seq_goDown_cons hlt _).trans (seq_downBegun s)⟩
    rw [railPhase_goDown_cons, if_neg (List.nodup_cons.1 hnd).1, if_pos rfl]

/-- RAIL_CTRL.DOWN starts a sequence down with the first rail that is up. -/
theorem completes_down {j : Nat} (hs : s.settled) (hd : isDark s = true) (hq : fld s Reg.RAIL_STAT_SEQ = 0)
    (h : downOrder.find? (fun k => railUp s k && decide (railPhase s k ≠ .delay)) = some j) : Completes .railDown s (fun t =>
      fld t Reg.RAIL_STAT_SEQ = 2 ∧ fld t Reg.RAIL_CTRL_DOWN = 1 ∧ railPhase t j = .down) := by
  have hup : railUp s j = true := by
    have := List.find?_some h
    rw [Bool.and_eq_true] at this
    exact this.1
  have hany : downOrder.any (railUp (freshWrite s)) = true := List.any_eq_true.2 ⟨j, List.mem_of_find?_eq_some h, hup⟩
  have hlit : isLit (freshWrite s) = false := by
    have e : isLit s = false := by simpa [isDark] using hd
    exact e
  have hq' : fld (freshWrite s) Reg.RAIL_STAT_SEQ = 0 := hq
  obtain ⟨hphase, hseq⟩ := downRun_first (s := freshWrite s) h
  have hx : railDownCmd (freshWrite s) = setFld (downRun (freshWrite s)) Reg.RAIL_CTRL_DOWN 1 := by
    rw [railDownCmd, if_neg (by simp [hlit, hq', hany]), railsDown_false, downFrom,
      if_neg (by rw [hq']; decide), if_neg (by simp [hany])]
  have hm := moved_downRun (freshWrite s)
  generalize downRun (freshWrite s) = v at hphase hseq hx hm
  refine completes_steady (x := railDownCmd (freshWrite s)) rfl (.inl hx)
    ((hm.trans (moved_setFld v _ 1 (.inr rfl))).steady (steady_of_settled (settled_freshWrite hs))) fun t ht => ⟨?_, ?_, ?_⟩
  · rw [lit_fld ht (by decide), fld_congr_reg (reg_setFld_ne _ _ (by decide))]
    exact hseq
  · rw [lit_fld ht (by decide)]
    exact fld_setFld_same v Reg.RAIL_CTRL_DOWN 1 ⟨by decide, by decide⟩
  · rw [lit_rails ht, railPhase_setFld]
    exact hphase

end

end Sys2Proof.Rails
end

section
/-! PROOFS. O33: faults of the panel rails. What a fault of a rail records outlasts the errors and completions that follow it. -/

namespace Sys2Proof.Rails

set_option Elab.async false

open Machine HostPort Stray

/-! ### An error that escalates nothing -/

/-- An error of this source and cause runs, waits or merges at its unit. -/
def Joinable (s : State) (blk idx src cause : Nat) : Prop :=
  (fuUnit s blk idx).waiting.length < 4 ∨ (⟨src, cause⟩ : FollowUp) ∈ (fuUnit s blk idx).waiting

section

variable {s t u : State} {blk idx src cause : Nat}

theorem followUp_joinable (data : Nat) (h : Joinable s blk idx src cause) :
    followUp blk idx src cause data s = (followQueue blk idx src cause s).1 := by
  have hq : (followQueue blk idx src cause s).2 = false := by
    unfold followQueue
    extract_lets v f
    split
    · rfl
    · next hrun =>
      split
      · rfl
      · next hc =>
        obtain h | h := h
        · rw [if_neg (by show ¬ 4 ≤ (fuUnit s blk idx).waiting.length; omega)]
        · exact absurd (List.contains_iff_mem.2 h) hc
  unfold followUp
  simp only [hq, Bool.false_eq_true, if_false]

theorem changes_followQueue (blk idx src cause : Nat) (s : State) :
    Changes errParts errReg s (followQueue blk idx src cause s).1 :=
  ⟨(frame_followQueue blk idx src cause s).mono (by decide), fun _ ho => reg_followQueue _ _ _ _ _ fun e => ho (.inl e),
    by rw [out_followQueue]⟩

theorem joinable_congr (hf : t.followUps = s.followUps) (h : Joinable s blk idx src cause) : Joinable t blk idx src cause := by
  rw [Joinable, fuUnit, hf]
  exact h

/-- An error at another unit leaves a unit's follow-ups alone; one that joins its own can join again. -/
theorem joinable_followQueue {b i sr ca : Nat} (h : Joinable s blk idx src cause)
    (hk : unitKey b i ≠ unitKey blk idx ∨ (⟨sr, ca⟩ : FollowUp) = ⟨src, cause⟩ ∧ b = blk ∧ i = idx) :
    Joinable (followQueue b i sr ca s).1 blk idx src cause := by
  unfold followQueue
  extract_lets v f s1
  split
  · next hrun =>
    rw [Joinable, fuUnit, tblGet_set]
    obtain hk | ⟨-, rfl, rfl⟩ := hk
    · rw [if_neg (Ne.symm hk)]
      exact h
    · rw [if_pos rfl]
      exact h
  · split
    · exact h
    · next hc =>
      split
      · exact joinable_congr (by rw [setFld_followUps, setFld_followUps, setFld_followUps]) h
      · have h1 : Joinable s1 blk idx src cause := by
          rw [Joinable, fuUnit, show s1.followUps = tblSet {} s.followUps (unitKey b i) { v with waiting := v.waiting ++ [f] } from rfl, tblGet_set]
          obtain hk | ⟨hf, rfl, rfl⟩ := hk
          · rw [if_neg (Ne.symm hk)]
            exact h
          · rw [if_pos rfl]
            exact .inr (List.mem_append_right _ (by rw [show f = ⟨src, cause⟩ from hf]; exact List.mem_singleton_self _))
        exact joinable_congr (by rw [setPeak, setFld_followUps]) h1

end

section

variable {s : State} {blk idx src cause : Nat}

/-- An error at another unit leaves room where there was. -/
theorem joinable_raiseErr {b i sr ca : Nat} (cs : List Cap) (hsrc : sr < 256) (hj : Joinable s b i sr ca) (h : Joinable s blk idx src cause)
    (hk : unitKey b i ≠ unitKey blk idx) : Joinable (raiseErr b i sr ca cs s) blk idx src cause := by
  have hf : (raise sr cs s).followUps = s.followUps := (changes_raise sr cs s hsrc).frame .followUps (by decide)
  rw [raiseErr, followUp_joinable _ (joinable_congr hf hj)]
  exact joinable_followQueue (joinable_congr hf h) (.inl hk)

end

/-! ### What a fault records -/

/-- The rails, the record of their faults, the RAIL path and the event of a fault are as they were, and a ring's error can still join. -/
structure Shut (s t : State) : Prop where
  rails : t.rails = s.rails
  fault : reg t Reg.RAIL_FAULT_STAT = reg s Reg.RAIL_FAULT_STAT
  path : pathHolds s 3 = true → pathHolds t 3 = true
  ember : Ember evRailFault s → Ember evRailFault t
  room : Joinable s unitCmd 0 evCmdRingErr 3 → Joinable t unitCmd 0 evCmdRingErr 3

/-- Nothing of what lets something else go on has changed, but that an activation may have ended. -/
structure Idle (s t : State) : Prop where
  gen : reg t Reg.GEN_STATE = reg s Reg.GEN_STATE
  want : t.wantLight = s.wantLight
  orderly : t.orderly = s.orderly
  halted : t.scan.halted = s.scan.halted
  failed : t.vrmFailed = s.vrmFailed
  run : t.nvmRun = s.nvmRun
  queue : t.nvmQueue = s.nvmQueue
  act : t.act = s.act ∨ t.act = none

/-- Both. -/
structure Still (s t : State) : Prop where
  shut : Shut s t
  idle : Idle s t

section

variable {s t u : State}

theorem Shut.refl (s : State) : Shut s s := ⟨rfl, rfl, id, id, id⟩

theorem Shut.trans (h : Shut s t) (k : Shut t u) : Shut s u :=
  ⟨k.rails.trans h.rails, k.fault.trans h.fault, fun x => k.path (h.path x), fun x => k.ember (h.ember x), fun x => k.room (h.room x)⟩

theorem Idle.refl (s : State) : Idle s s := ⟨rfl, rfl, rfl, rfl, rfl, rfl, rfl, .inl rfl⟩

theorem Idle.trans (h : Idle s t) (k : Idle t u) : Idle s u :=
  ⟨k.gen.trans h.gen, k.want.trans h.want, k.orderly.trans h.orderly, k.halted.trans h.halted, k.failed.trans h.failed,
    k.run.trans h.run, k.queue.trans h.queue, by
      rcases k.act with e | e
      · rw [e]
        exact h.act
      · exact .inr e⟩

theorem Still.refl (s : State) : Still s s := ⟨.refl s, .refl s⟩

theorem Still.trans (h : Still s t) (k : Still t u) : Still s u := ⟨h.shut.trans k.shut, h.idle.trans k.idle⟩

theorem Still.forAll {l : List Nat} {g : Nat → State → State} (hg : ∀ n t, Still t (g n t)) (s : State) : Still s (Machine.forAll l g s) :=
  forAll_keeps (Still s) l g (fun n _ t ht => ht.trans (hg n t)) s (.refl s)

/-- The registers that a fault's record stands in. -/
def faultReg (o : Nat) : Prop := o = Reg.RAIL_FAULT_STAT ∨ o = Reg.MGMT_SNUFF_STAT ∨ o = (emberFld evRailFault).off

theorem ember_congr (h : reg t (emberFld evRailFault).off = reg s (emberFld evRailFault).off) (he : Ember evRailFault s) :
    Ember evRailFault t := by
  rw [Ember, flag, fld_congr_reg h]
  exact he

theorem still_setReg (s : State) {o : Nat} (v : DWord) (h : ¬ faultReg o) (hg : o ≠ Reg.GEN_STATE) : Still s (setReg s o v) := by
  have hne : ∀ k, faultReg k → reg (setReg s o v) k = reg s k := fun k hk => reg_setReg_ne s v fun e => h (e ▸ hk)
  refine ⟨⟨rfl, hne _ (.inl rfl), fun hp => ?_, fun he => ember_congr (hne _ (.inr (.inr rfl))) he, id⟩,
    ⟨reg_setReg_ne s v (Ne.symm hg), rfl, rfl, rfl, rfl, rfl, rfl, .inl rfl⟩⟩
  rw [pathHolds_congr (hne _ (.inr (.inl rfl)))]
  exact hp

theorem still_setFld (s : State) {f : Fld} (v : Nat) (h : ¬ faultReg f.off) (hg : f.off ≠ Reg.GEN_STATE) : Still s (setFld s f v) :=
  still_setReg s _ h hg

/-- Below the lens driver and the management core only RAIL_FAULT_STAT is one of these. -/
theorem not_faultReg {o : Nat} (h : o < 0x3E0000) (hr : o ≠ Reg.RAIL_FAULT_STAT) : ¬ faultReg o := by
  rintro (e | e | e)
  · exact hr e
  · rw [e] at h
    exact absurd h (by decide)
  · rw [e] at h
    exact absurd h (by decide)

theorem still_of_parts {ps : List Part} {w : Nat → Prop} (h : Changes ps w s t)
    (hd : ∀ p ∈ [Part.rails, .lamp, .sequence, .structure, .store, .scan, .followUps], p ∉ ps) (hw : ∀ o, faultReg o → ¬ w o) : Still s t := by
  obtain ⟨hrails, -, -, -, -, -, hv, -⟩ := h.frame .rails (hd _ (by decide))
  obtain ⟨hord, hwant, -⟩ := h.frame .sequence (hd _ (by decide))
  obtain ⟨-, hact, -⟩ := h.frame .structure (hd _ (by decide))
  obtain ⟨-, -, hrun, hq, -⟩ := h.frame .store (hd _ (by decide))
  have hscan : t.scan = s.scan := h.frame .scan (hd _ (by decide))
  have hfu : t.followUps = s.followUps := h.frame .followUps (hd _ (by decide))
  exact ⟨⟨hrails, h.regs _ (hw _ (.inl rfl)), fun hp => (pathHolds_congr (h.regs _ (hw _ (.inr (.inl rfl)))) 3).trans hp,
    ember_congr (h.regs _ (hw _ (.inr (.inr rfl)))), joinable_congr hfu⟩,
    ⟨h.frame .lamp (hd _ (by decide)), hwant, hord, by rw [hscan], hv, hrun, hq, .inl hact⟩⟩

theorem still_raise {src : Nat} (cs : List Cap) (s : State) (h : src < 256) : Still s (raise src cs s) := by
  have hr := changes_raise src cs s h
  obtain ⟨hrails, -, -, -, -, -, hv, -⟩ := hr.frame .rails (by decide)
  obtain ⟨hord, hwant, -⟩ := hr.frame .sequence (by decide)
  obtain ⟨-, hact, -⟩ := hr.frame .structure (by decide)
  obtain ⟨-, -, hrun, hq, -⟩ := hr.frame .store (by decide)
  have hscan : (raise src cs s).scan = s.scan := hr.frame .scan (by decide)
  have hfu : (raise src cs s).followUps = s.followUps := hr.frame .followUps (by decide)
  have hpath : reg (raise src cs s) Reg.MGMT_SNUFF_STAT = reg s Reg.MGMT_SNUFF_STAT :=
    hr.regs _ (not_eventReg (.inr (by decide)) (.inr (by decide)))
  exact ⟨⟨hrails, hr.regs _ (not_eventReg (.inr (by decide)) (.inl (by decide))), fun hp => (pathHolds_congr hpath 3).trans hp,
    fun he => Timing.ember_raise_keeps (by decide) cs he, joinable_congr hfu⟩,
    ⟨hr.frame .lamp (by decide), hwant, hord, by rw [hscan], hv, hrun, hq, .inl hact⟩⟩

/-- An error that can join, at the rings' unit or at another, changes none of these. -/
theorem still_raiseErr {blk idx src cause : Nat} (cs : List Cap) (hsrc : src < 256) (h : Joinable s blk idx src cause)
    (hk : unitKey blk idx ≠ unitKey unitCmd 0 ∨ (⟨src, cause⟩ : FollowUp) = ⟨evCmdRingErr, 3⟩ ∧ blk = unitCmd ∧ idx = 0) :
    Still s (raiseErr blk idx src cause cs s) := by
  have hr := still_raise cs s hsrc
  have hf : (raise src cs s).followUps = s.followUps := (changes_raise src cs s hsrc).frame .followUps (by decide)
  rw [raiseErr, followUp_joinable _ (joinable_congr hf h)]
  refine hr.trans ?_
  generalize raise src cs s = v
  have hq := changes_followQueue blk idx src cause v
  have hreg : ∀ o, faultReg o → reg (followQueue blk idx src cause v).1 o = reg v o := fun o ho =>
    reg_followQueue _ _ _ _ _ fun e => by
      rcases ho with e' | e' | e' <;> rw [e'] at e <;> exact absurd e (by decide)
  obtain ⟨hrails, -, -, -, -, -, hv, -⟩ := hq.frame .rails (by decide)
  obtain ⟨hord, hwant, -⟩ := hq.frame .sequence (by decide)
  obtain ⟨-, hact, -⟩ := hq.frame .structure (by decide)
  obtain ⟨-, -, hrun, hqu, -⟩ := hq.frame .store (by decide)
  have hscan : (followQueue blk idx src cause v).1.scan = v.scan := hq.frame .scan (by decide)
  exact ⟨⟨hrails, hreg _ (.inl rfl), fun hp => (pathHolds_congr (hreg _ (.inr (.inl rfl))) 3).trans hp,
    ember_congr (hreg _ (.inr (.inr rfl))), fun hj => joinable_followQueue hj hk⟩,
    ⟨hq.frame .lamp (by decide), hwant, hord, by rw [hscan], hv, hrun, hqu, .inl hact⟩⟩

/-! ### Completions -/

theorem still_rings (s : State) (x : Tbl Ring) : Still s { s with rings := x } :=
  ⟨⟨rfl, rfl, id, id, id⟩, ⟨rfl, rfl, rfl, rfl, rfl, rfl, rfl, .inl rfl⟩⟩

theorem still_act (s : State) : Still s { s with act := none } :=
  ⟨⟨rfl, rfl, id, id, id⟩, ⟨rfl, rfl, rfl, rfl, rfl, rfl, rfl, .inr rfl⟩⟩

theorem still_lens (s : State) (x : LensState) : Still s { s with lens := x } :=
  ⟨⟨rfl, rfl, id, id, id⟩, ⟨rfl, rfl, rfl, rfl, rfl, rfl, rfl, .inl rfl⟩⟩

theorem still_lensBlock (s : State) (m : Tbl Byte) (b : Tbl Nat) (r : Option NvmWr) (w : List Nat) :
    Still s { s with nvm := m, nvmBad := b, lensRun := r, lensRewrite := w } :=
  ⟨⟨rfl, rfl, id, id, id⟩, ⟨rfl, rfl, rfl, rfl, rfl, rfl, rfl, .inl rfl⟩⟩

theorem still_emit (s : State) (e : Emission) : Still s (emit s e) :=
  still_of_parts (ps := []) (w := fun _ => False) (changes_emit s e) (by simp) fun _ _ => id

theorem still_vecOccur (v : Nat) (s : State) : Still s (vecOccur v s) :=
  still_of_parts (changes_vecOccur v s) (by decide) fun o ho hm => by
    rcases hm with e | e <;> rcases ho with e' | e' | e' <;> rw [e'] at e <;> exact absurd e (by decide)

/-- A field of a ring's registers. -/
theorem still_ringFld (s : State) {f : Fld} (v : Nat) (h : 0x10100 ≤ f.off ∧ f.off < 0x10300) : Still s (setFld s f v) :=
  still_setFld s v (not_faultReg (by omega) (by rintro e; rw [e] at h; exact absurd h.2 (by decide)))
    (by rintro e; rw [e] at h; exact absurd h.1 (by decide))

theorem still_ringDone {r : Nat} (h : r < 8) (s : State) : Still s (ringDone r s) :=
  (still_ringFld s _ (by simp only [Reg.CMD_RING_STAT]; omega)).trans (still_rings _ _)

theorem still_ringError {r : Nat} (h : r < 8) {s : State} (hj : Joinable s unitCmd 0 evCmdRingErr 3) : Still s (ringError r 3 s) := by
  unfold ringError
  extract_lets u
  have hu : Still s u := ((still_ringFld s _ (by simp only [Reg.CMD_RING_STAT]; omega)).trans
    (still_ringFld _ _ (by simp only [Reg.CMD_RING_STAT]; omega))).trans
    (still_ringFld _ _ (by simp only [Reg.CMD_RING_CTRL]; omega))
  exact hu.trans (still_raiseErr _ (by decide) (hu.shut.room hj) (.inr ⟨rfl, rfl, rfl⟩))

theorem still_cqWrite {r : Nat} (h : r < 8) (tag st op detail : Nat) (irq authed : Bool) (value : Nat) {s : State}
    (hj : Joinable s unitCmd 0 evCmdRingErr 3) : Still s (cqWrite r tag st op detail irq authed value s) := by
  unfold cqWrite
  extract_lets s1 s2 x t s3 s4 _ s5
  have h1 : Still s s1 := still_ringDone h s
  have h2 : Still s1 s2 := still_ringFld s1 _ (by simp only [Reg.CMD_RING_STAT]; omega)
  have h3 : Still s1 s3 := still_emit s1 _
  have h4 : Still s3 s4 := by
    show Still s3 (ite _ _ _)
    split
    · exact (still_ringFld s3 _ (by simp only [Reg.CMD_CQ_PTR]; omega)).trans
        (still_ringFld _ _ (by simp only [Reg.CMD_CQ_PTR]; omega))
    · exact still_ringFld s3 _ (by simp only [Reg.CMD_CQ_PTR]; omega)
  have h5 : Still s4 s5 := still_rings s4 _
  split
  · have h6 := (h1.trans h2).trans (still_rings s2 (tblSet {} s2.rings r { x with errors := x.errors + 1, doomed := x.taken.length }))
    exact h6.trans (still_ringError h (h6.shut.room hj))
  · split
    · exact (((h1.trans h3).trans h4).trans h5).trans (still_vecOccur _ s5)
    · exact ((h1.trans h3).trans h4).trans h5

/-- A completion changes none of these, where a ring's error can join. -/
theorem still_complete (j : Job) (st detail value : Nat) {s : State} (hj : Joinable s unitCmd 0 evCmdRingErr 3) :
    Still s (complete j st detail value s) := by
  unfold complete
  extract_lets v
  split
  · next r g e _ =>
    split
    · exact .refl s
    · next hr =>
      have h8 : r < 8 := by
        rw [not_or] at hr
        omega
      split
      · exact (still_ringDone h8 s).trans (still_ringFld _ _ (by simp only [Reg.CMD_RING_STAT]; omega))
      · exact still_cqWrite h8 _ _ _ _ _ _ _ hj
  · extract_lets u
    have hu : Still s u := still_setReg s _ (not_faultReg (by decide) (by decide)) (by decide)
    exact hu.trans (still_raise _ u (by decide))
  · exact .refl s

/-! ### The lens driver goes on -/

/-- A target stands in bits that a fault's record does not use. -/
theorem still_lensTarget (s : State) (z v : Nat) : Still s (setFld s (lensTarget z) v) := by
  have hoff : (lensTarget z).off = 0x3C0400 + 4 * (z / 8) := rfl
  have hok : (lensTarget z).ok := ⟨by simp only [lensTarget]; omega, by simp only [lensTarget]; omega⟩
  have hge : ∀ o, o < 0x3C0400 → reg (setFld s (lensTarget z) v) o = reg s o := fun o ho => reg_setFld_ne s v (by omega)
  refine ⟨⟨rfl, hge _ (by decide), fun hp => ?_, fun he => ?_, id⟩, ⟨hge _ (by decide), rfl, rfl, rfl, rfl, rfl, rfl, .inl rfl⟩⟩
  · rw [pathHolds_eq] at hp ⊢
    rwa [fld_setFld_ne s _ _ v hok (by decide) (.inr (by simp only [lensTarget]; omega))]
  · rw [Ember, flag, fld_setFld_ne s _ _ v hok (by decide) (.inr (.inr (by
      simp only [lensTarget, emberFld, evRailFault]
      omega)))]
    exact he

theorem still_setTargets (l : List Nat) : ∀ (z : Nat) (s : State), Still s (setTargets z l s) := by
  induction l with
  | nil => exact fun _ s => .refl s
  | cons n l ih =>
    intro z s
    rw [setTargets]
    refine .trans ?_ (ih (z + 1) _)
    split
    · exact .refl s
    · exact still_lensTarget s z n

theorem still_setCommon (s : State) (c v : Nat) : Still s (setCommon s c v) :=
  still_setFld s v (not_faultReg (by show Reg.LENS_CSTATE < _; decide) (by show Reg.LENS_CSTATE ≠ _; decide)) (by show Reg.LENS_CSTATE ≠ _; decide)

theorem still_nvmWriteLens (w : NvmWr) (s : State) : Still s (nvmWriteLens w s) := by
  unfold nvmWriteLens nvmBegin nvmProgram
  dsimp only
  rw [if_pos rfl]
  exact ((still_lensBlock s _ _ _ _).trans (still_setFld _ _ (not_faultReg (by decide) (by decide)) (by decide))).trans
    (still_setFld _ _ (not_faultReg (by decide) (by decide)) (by decide))

theorem still_lensOpenWrite (c : Nat) (s : State) : Still s (lensOpenWrite c s) := by
  unfold lensOpenWrite
  extract_lets x _ u
  have hu : Still s u := still_lens s _
  exact hu.trans (still_nvmWriteLens _ u)

theorem still_lensDoneWrite (c : Nat) (s : State) : Still s (lensDoneWrite c s) := by
  unfold lensDoneWrite
  extract_lets _ u
  have hu : Still s u := still_lens s _
  exact hu.trans (still_nvmWriteLens _ u)

theorem still_lensGoOn (s : State) : Still s (lensGoOn s) := by
  unfold lensGoOn
  split
  · exact .refl s
  split
  · exact still_lensOpenWrite _ s
  · split
    · exact .refl s
    · exact still_lensDoneWrite _ s
  · exact .refl s

theorem still_forceOne (c mode level : Nat) (s : State) : Still s (forceOne c mode level s) := by
  unfold forceOne
  extract_lets s1 _ s2 ls
  have h1 : Still s s1 := still_setTargets _ _ s
  have h2 : Still s1 s2 := still_lens s1 _
  split
  · exact (h1.trans h2).trans (still_setCommon s2 c 3)
  · exact (h1.trans h2).trans (still_nvmWriteLens _ s2)

theorem still_forceNext (k : Nat) : ∀ s : State, Still s (forceNext k s) := by
  induction k with
  | zero => exact fun s => .refl s
  | succ k ih =>
    intro s
    rw [forceNext]
    split
    · exact .refl s
    · exact ((still_lens s _).trans (still_forceOne _ _ _ _)).trans (ih _)

theorem still_forceDone {s : State} (hj : Joinable s unitCmd 0 evCmdRingErr 3) : Still s (forceDone s) := by
  unfold forceDone
  extract_lets u
  have hu : Still s u := still_forceNext _ s
  split
  · split
    · have h1 := hu.trans (still_lens u { u.lens with forceJob := none })
      exact h1.trans (still_complete _ _ _ _ (h1.shut.room hj))
    · exact hu
  · exact hu

theorem still_lensRewriteNext (s : State) : Still s (lensRewriteNext s) := by
  unfold lensRewriteNext
  split
  · exact .refl s
  split
  · exact still_lensBlock s _ _ _ _
  · exact (still_lensBlock s _ _ _ _).trans (still_nvmWriteLens _ _)

theorem still_lensSettle {s : State} (hj : Joinable s unitCmd 0 evCmdRingErr 3) : Still s (lensSettle s) := by
  unfold lensSettle
  split
  · have h1 := still_lensGoOn s
    exact (h1.trans (still_forceDone (h1.shut.room hj))).trans (still_lensRewriteNext _)
  · exact .refl s

theorem still_lensGiveUp (c : Nat) (s : State) : Still s (lensGiveUp c s) := by
  unfold lensGiveUp
  extract_lets u
  have hu : Still s u := by
    show Still s (ite _ _ _)
    split
    · exact still_setCommon s c 3
    · exact still_setCommon s c _
  exact hu.trans (still_lens u _)

/-- The driver stops, or gives its update up; a LENS_FAULT can join its common's unit. -/
theorem still_lensAbort {s : State} (hj : ∀ c, Joinable s unitLens c evLensFault 3) : Still s (lensAbort s) := by
  unfold lensAbort
  split
  · next c _ _ =>
    unfold lensFault lensStop
    extract_lets u
    have hu : Still s u := (still_setCommon s c 3).trans (still_setFld _ _ (not_faultReg (by decide) (by decide)) (by decide))
    have hf : u.followUps = s.followUps := rfl
    have h1 := (hu.trans (still_lens u { u.lens with phase := .idle, last := c, grounded := true })).trans (still_emit _ .lensGround)
    refine (h1.trans (still_setFld _ _ (not_faultReg (by decide) (by decide)) (by decide))).trans
      (still_raiseErr _ (by decide) (joinable_congr ?_ (hj c)) (.inl ?_))
    · exact hf
    · simp only [unitKey, unitLens, unitCmd]
      omega
  · next c _ => exact still_lensGiveUp c s
  · next c _ => exact still_lensGiveUp c s
  · exact .refl s

/-! ### What settling goes on with after a fault -/

/-- After a fault neither a regulator nor a light nor a step of an activation goes on: what is left are the lens driver and completions. -/
structure Ended (s : State) : Prop where
  halted : s.scan.halted = false
  orderly : s.orderly = none ∨ lamp s ≠ .darkFault
  vrm : s.vrmFailed = false ∨ nvmHas s isRingWrite = true
  dark : s.wantLight = false ∨ lamp s ≠ .readyDark
  act : ∀ a, s.act = some a → a.begun = true → a.taken = true ∨ lamp s = .housekeeping
  room : Joinable s unitCmd 0 evCmdRingErr 3

theorem Still.ended (h : Still s t) (hs : Ended s) : Ended t := by
  have hl : lamp t = lamp s := lamp_congr (fld_congr_reg h.idle.gen)
  refine ⟨h.idle.halted.trans hs.halted, by rw [h.idle.orderly, hl]; exact hs.orderly, ?_, by rw [h.idle.want, hl]; exact hs.dark,
    fun a ha hb => ?_, h.shut.room hs.room⟩
  · rw [h.idle.failed, show nvmHas t isRingWrite = nvmHas s isRingWrite from by simp only [nvmHas, h.idle.run, h.idle.queue]]
    exact hs.vrm
  · rw [hl]
    rcases h.idle.act with e | e
    · exact hs.act a (e ▸ ha) hb
    · rw [e] at ha
      exact absurd ha (by simp)

theorem Ended.light (h : Ended s) : lightDue s = false := by
  rcases h.dark with e | e <;> simp [lightDue, e]

theorem still_settleAct (h : Ended s) : Still s (settleAct s) := by
  cases ha : s.act with
  | none => rw [settleAct_of s fun a hs => by rw [ha] at hs; exact absurd hs (by simp)]; exact .refl s
  | some a =>
    rw [settleAct_act s a ha]
    split
    · next hb =>
      obtain ⟨hb, hl⟩ := hb
      have htaken : a.taken = true := (h.act a ha hb).resolve_right hl
      have hin : actInForce s = s := by
        rw [actInForce, ha]
        exact if_neg (by simp [htaken])
      rw [hin]
      have h1 := still_act s
      exact h1.trans (still_complete _ _ _ _ (h1.shut.room h.room))
    · exact .refl s

theorem Ended.settleOnce (h : Ended s) : Still s (settleOnce s) := by
  have h1 := still_lensSettle h.room
  have he := h1.ended h
  rw [Machine.settleOnce, vrmSettle_of s h.vrm, lightIfReady_of s h.light, settleHalt_of _ he.halted, settleDark_of _ he.orderly]
  exact h1.trans (still_settleAct he)

theorem Ended.settleAll (h : Ended s) : Still s (settleAll s) := h.settleOnce.trans (h.settleOnce.ended h).settleOnce

end

/-! ### A fault (R271 to R273) -/

section

variable {s : State} {i : Nat}

/-- The RAIL path asserts. -/
theorem shut_assertPath (s : State) : Shut s (assertPath 3 s) ∧ pathHolds (assertPath 3 s) 3 = true := by
  have hc := changes_assertPath 3 s
  obtain ⟨hrails, -⟩ := hc.frame .rails (by decide)
  have hfu : (assertPath 3 s).followUps = s.followUps := hc.frame .followUps (by decide)
  refine ⟨⟨hrails, hc.regs _ (not_snuffReg (.inr (by decide)) (.inl (by decide)) (by decide)), fun _ => pathHolds_assertPath s (by decide),
    fun he => ?_, joinable_congr hfu⟩, pathHolds_assertPath s (by decide)⟩
  cases hp : pathHolds s 3 with
  | true => rwa [assertPath_held hp]
  | false =>
    obtain ⟨cs, e⟩ := assertPath_free hp
    rw [e]
    refine Timing.ember_raise_keeps (by decide) cs (ember_congr ?_ he)
    rw [reg_snuffBlank, reg_snuffMark 3 s (by decide) (by decide)]

theorem lamp_assertPath_or (p : Nat) (s : State) : lamp (assertPath p s) = lamp s ∨ isLit s = true ∧ lamp (assertPath p s) = .snuffed := by
  cases hp : pathHolds s p with
  | true => exact .inl (by rw [assertPath_held hp])
  | false =>
    obtain ⟨cs, e⟩ := assertPath_free hp
    have hg : reg (assertPath p s) Reg.GEN_STATE = reg (snuffMark p s) Reg.GEN_STATE := by
      rw [e, (changes_raise evSnuff cs _ (by decide)).regs _ (not_eventReg (by decide) (by decide)), reg_snuffBlank]
    cases hl : isLit s with
    | true => exact .inr ⟨rfl, (lamp_congr (fld_congr_reg hg)).trans (lamp_snuffMark p hl)⟩
    | false => exact .inl (lamp_congr (fld_congr_reg (hg.trans (genState_snuffMark p hl))))

/-- What is left to go on with after the RAIL path of a settled state's fault has asserted. -/
theorem ended_railFaultLamp {u : State} (hh : u.scan.halted = false) (ho : u.orderly = none ∨ lamp u ≠ .darkFault)
    (hv : u.vrmFailed = false ∨ nvmHas u isRingWrite = true) (ha : ∀ a, u.act = some a → a.begun = true → lamp u = .housekeeping)
    (hr : Joinable u unitCmd 0 evCmdRingErr 3) : Ended (railFaultLamp u) ∧ Shut u (railFaultLamp u) := by
  unfold railFaultLamp
  split
  · next h9 =>
    have htaken : ∀ a, u.act = some a → a.taken = true := fun a e => by
      simp only [startRuns, Bool.and_eq_true, e] at h9
      obtain ⟨-, ht⟩ := h9
      exact ht
    have hlow : ∀ o, faultReg o → reg (setLamp u .hostWait) o = reg u o := fun o ho =>
      reg_setFld_ne _ _ (by rcases ho with e | e | e <;> rw [e] <;> decide)
    have hE : Ended (setLamp u .hostWait) :=
      ⟨hh, .inr (by rw [lamp_setLamp]; decide), hv, .inr (by rw [lamp_setLamp]; decide), fun a e _ => .inl (htaken a e), hr⟩
    have hS : Shut u (setLamp u .hostWait) :=
      ⟨rfl, hlow _ (.inl rfl), fun hp => (pathHolds_congr (hlow _ (.inr (.inl rfl))) 3).trans hp, ember_congr (hlow _ (.inr (.inr rfl))), id⟩
    generalize setLamp u .hostWait = v at hE hS
    have ht : ∀ w, Still w (startTimed w) := fun w => by
      unfold startTimed
      split
      · exact .refl w
      · exact still_setFld w _ (not_faultReg (by decide) (by decide)) (by decide)
    have h2 := ((still_setFld v (f := Reg.STR_STAT_WHY) 2 (not_faultReg (by decide) (by decide)) (by decide)).trans
      (still_setFld _ (f := Reg.STR_STAT_FAIL_STEP) 9 (not_faultReg (by decide) (by decide)) (by decide))).trans (ht _)
    exact ⟨h2.ended hE, hS.trans h2.shut⟩
  · have hact : ∀ a, u.act = some a → a.begun = true → a.taken = true ∨ lamp u = .housekeeping := fun a e b => .inr (ha a e b)
    split
    · have hE : Ended { u with wantLight := false } := ⟨hh, ho, hv, .inl rfl, hact, hr⟩
      have hS : Shut u { u with wantLight := false } := ⟨rfl, rfl, id, id, id⟩
      have hf : Still { u with wantLight := false } (setFld { u with wantLight := false } Reg.REEL_STATE_STATE 2) :=
        still_setFld _ _ (not_faultReg (by decide) (by decide)) (by decide)
      exact ⟨hf.ended hE, hS.trans hf.shut⟩
    · next hw => exact ⟨⟨hh, ho, hv, .inl (by simpa using hw), hact, hr⟩, .refl u⟩

/-- Of a settled state's fault the RAIL path leaves neither a light nor a regulator nor a step to go on with. -/
theorem ended_assertPath {v : State} (hs : s.settled) (h : Idle s v) (hj : Joinable v unitCmd 0 evCmdRingErr 3) :
    Ended (railFaultLamp (assertPath 3 v)) ∧ Shut (assertPath 3 v) (railFaultLamp (assertPath 3 v)) := by
  have hc := changes_assertPath 3 v
  obtain ⟨hord, -⟩ := hc.frame .sequence (by decide)
  obtain ⟨-, hact, -⟩ := hc.frame .structure (by decide)
  obtain ⟨-, -, hrun, hq, -⟩ := hc.frame .store (by decide)
  obtain ⟨-, -, -, -, -, -, hf, -⟩ := hc.frame .rails (by decide)
  obtain ⟨hshut, -⟩ := shut_assertPath v
  have hl : lamp v = lamp s := lamp_congr (fld_congr_reg h.gen)
  refine ended_railFaultLamp ((halted_assertPath 3 v).trans (h.halted.trans hs.halted)) ?_ ?_ (fun a ha hb => ?_) (hshut.room hj)
  · rw [hord, h.orderly]
    refine hs.orderly.imp_right fun hne => ?_
    rcases lamp_assertPath_or 3 v with e | ⟨-, e⟩
    · rwa [e, hl]
    · rw [e]
      decide
  · rw [hf, h.failed, show nvmHas (assertPath 3 v) isRingWrite = nvmHas s isRingWrite from by simp only [nvmHas, hrun, hq, h.run, h.queue]]
    exact hs.vrm
  · have hk : lamp v = .housekeeping := by
      rw [hact] at ha
      rcases h.act with e | e
      · exact hl.trans (hs.act a (e ▸ ha) hb)
      · rw [e] at ha
        exact absurd ha (by simp)
    rcases lamp_assertPath_or 3 v with e | ⟨hlit, -⟩
    · rw [e, hk]
    · rw [isLit, hk] at hlit
      exact absurd hlit (by decide)

/-- What RAIL_FAULT leaves: the record, the path, the event. -/
theorem settled_fault {c : State} {w : Nat → Prop} (hs : s.settled) (hc : s.calm) (hm : Changes railParts w s c)
    (hv : c.vrmFailed = s.vrmFailed) (k : Nat) (cs : List Cap) :
    Shut c (settleAll (railFaultLamp (assertPath 3 (lensAbort (raiseErr unitRail 0 evRailFault k cs c))))) ∧
    pathHolds (settleAll (railFaultLamp (assertPath 3 (lensAbort (raiseErr unitRail 0 evRailFault k cs c))))) 3 = true ∧
    Ember evRailFault (settleAll (railFaultLamp (assertPath 3 (lensAbort (raiseErr unitRail 0 evRailFault k cs c))))) := by
  have hcalm : c.calm := calm_of_followUps (hm.frame .followUps (by decide)) hc
  have hsc : Idle s c := by
    obtain ⟨hord, hwant, -⟩ := hm.frame .sequence (by decide)
    obtain ⟨-, hact, -⟩ := hm.frame .structure (by decide)
    obtain ⟨-, -, hrun, hq, -⟩ := hm.frame .store (by decide)
    exact ⟨hm.frame .lamp (by decide), hwant, hord, by rw [hm.frame .scan (by decide)], hv, hrun, hq, .inl hact⟩
  have hjc : ∀ blk idx src cause, Joinable c blk idx src cause := fun _ _ _ _ => .inl (hcalm _)
  have hraise : Still c (raiseErr unitRail 0 evRailFault k cs c) := still_raiseErr cs (by decide) (hjc _ _ _ _) (.inl (by decide))
  have hlens : ∀ n, Joinable (raiseErr unitRail 0 evRailFault k cs c) unitLens n evLensFault 3 := fun n =>
    joinable_raiseErr cs (by decide) (hjc _ _ _ _) (hjc _ _ _ _) (by simp only [unitKey, unitLens, unitRail]; omega)
  have hembc : Ember evRailFault (raiseErr unitRail 0 evRailFault k cs c) := ember_raiseErr_calm hcalm _ _ _ _ _ (by decide)
  generalize raiseErr unitRail 0 evRailFault k cs c = d at hraise hlens hembc ⊢
  have habort := still_lensAbort hlens
  have hsd : Idle s (lensAbort d) := hsc.trans (hraise.trans habort).idle
  have hcd : Still c (lensAbort d) := hraise.trans habort
  have hemb := habort.shut.ember hembc
  generalize lensAbort d = v at hsd hcd hemb ⊢
  obtain ⟨hshut, hpath⟩ := shut_assertPath v
  obtain ⟨hE, hS⟩ := ended_assertPath hs hsd (hcd.shut.room (hjc _ _ _ _))
  have hend := hE.settleAll.shut
  exact ⟨((hcd.shut.trans hshut).trans hS).trans hend, hend.path (hS.path hpath), hend.ember (hS.ember (hshut.ember hemb))⟩

theorem seq_vlcdFirst (s : State) : fld (vlcdFirst s) Reg.RAIL_STAT_SEQ = fld s Reg.RAIL_STAT_SEQ := by
  unfold vlcdFirst vlcdDown
  split
  · exact seq_setRail _ _ (by decide)
  · exact seq_setRail _ _ (by decide)
  · exact seq_setRail _ _ (by decide)
  · rfl

theorem moved_vlcdFirst (s : State) : Moved s (vlcdFirst s) := by
  have h : Moved s { s with railHeld := true } := moved_rails s
  unfold vlcdFirst vlcdDown
  split
  · exact h.trans (moved_setRail _ _ _)
  · exact h.trans (moved_setRail _ _ _)
  · exact h.trans (moved_setRail _ _ _)
  · exact h

/-- VLCD is then off or on its way down. -/
theorem railPhase_vlcdFirst (s : State) :
    railPhase (vlcdFirst s) 3 = .off ∨ railPhase (vlcdFirst s) 3 = .down ∨ railPhase (vlcdFirst s) 3 = .downDelay := by
  have hset : ∀ (u : State) p, railPhase (setRail u 3 p) 3 = p := fun u p => (railPhase_setRail u 3 p 3).trans (if_pos rfl)
  unfold vlcdFirst vlcdDown
  generalize ({ s with railHeld := true } : State) = u
  split
  · exact .inl (hset u _)
  · exact .inr (.inl (hset u _))
  · exact .inr (.inl (hset u _))
  · next h1 h2 h3 =>
    cases h : railPhase u 3
    · exact .inl rfl
    · exact absurd h h1
    · exact absurd h h2
    · exact absurd h h3
    · exact .inr (.inr rfl)
    · exact .inr (.inl rfl)

theorem moved_downFrom (s : State) : Moved s (downFrom s) := by
  unfold downFrom
  split
  · exact .refl s
  · split
    · exact .refl s
    · exact moved_downRun s

/-- Where no sequence down ran, every rail is then off or on its way down. -/
theorem railPhase_railsDown {u : State} {i : Nat} (hq : fld u Reg.RAIL_STAT_SEQ ≠ 2) (hi : i < 4) :
    railPhase (railsDown true u) i = .off ∨ railPhase (railsDown true u) i = .down ∨ railPhase (railsDown true u) i = .downDelay := by
  rw [railsDown_true]
  have hv := railPhase_vlcdFirst u
  have hseq := seq_vlcdFirst u
  generalize vlcdFirst u = v at hv hseq
  unfold downFrom
  rw [if_neg (by rw [hseq]; exact hq)]
  split
  · next h =>
    obtain ⟨-, -, hno⟩ := h
    obtain h3 | rfl : i < 3 ∨ i = 3 := by omega
    · refine .inl ?_
      simp only [Bool.not_eq_true', List.any_eq_false, railUp] at hno
      simpa using hno i (mem_downOrder.2 h3)
    · exact hv
  · obtain h3 | rfl : i < 3 ∨ i = 3 := by omega
    · exact railPhase_downRun v h3
    · rw [railPhase_downRun_vlcd]
      exact hv

/-- The record of a rail's fault. -/
theorem railNote_effect (s : State) (hi : i < 4) : Changes railParts (fun o => o = Reg.RAIL_FAULT_STAT) s (railNote i s) ∧
    bitOf (reg (railNote i s) Reg.RAIL_FAULT_STAT).toNat i = true := by
  have hset : ∀ (u : State) (f : Fld) v, f.off = Reg.RAIL_FAULT_STAT → Changes railParts (fun o => o = Reg.RAIL_FAULT_STAT) u (setFld u f v) :=
    fun u f v h => changes_setFld u f v (by rw [h]; decide) h (by rw [h]; decide)
  refine ⟨(hset s ⟨Reg.RAIL_FAULT_STAT, i, i⟩ 1 rfl).trans (hset _ Reg.RAIL_FAULT_STAT_COUNT _ rfl), ?_⟩
  have hf : fld (railNote i s) ⟨Reg.RAIL_FAULT_STAT, i, i⟩ = 1 := by
    rw [railNote, incSat, fld_setFld_ne _ Reg.RAIL_FAULT_STAT_COUNT _ _ ⟨by decide, by decide⟩ (le_refl i) (.inr (.inl (by show i < 16; omega))),
      fld_setFld_same s ⟨Reg.RAIL_FAULT_STAT, i, i⟩ 1 ⟨le_refl i, by show i < 64; omega⟩]
    simp
  rw [fld] at hf
  simp only [Nat.sub_self, Nat.zero_add] at hf
  rw [bitOf_eq, hf]
  rfl

/-- RAIL_FAULT and a ramp that misses power-good. -/
theorem completes_fault {c : Instr} {kind : Nat} {v : Int} {f : State → State} (hs : s.settled) (hc : s.calm) (hi : i < 4)
    (hno : ¬ (s.railFaulted = true ∧ fld s Reg.RAIL_STAT_SEQ = 2)) (hx : exec c s = done f s) (hf : f (fresh s) = railFault i kind v (fresh s)) :
    Completes c s (fun t => (bitOf (reg t Reg.RAIL_FAULT_STAT).toNat i = true ∧ pathHolds t 3 = true ∧ Ember evRailFault t) ∧
      (fld s Reg.RAIL_STAT_SEQ ≠ 2 → railPhase t i = .off ∨ railPhase t i = .down ∨ railPhase t i = .downDelay)) := by
  obtain ⟨hnote, hbit⟩ := railNote_effect (fresh s) hi
  obtain ⟨-, -, -, hfaulted, -, -, hfail, -⟩ : Part.same (fresh s) (railNote i (fresh s)) .rails :=
    ⟨rfl, rfl, rfl, rfl, rfl, rfl, rfl, rfl⟩
  have hseq : fld (railNote i (fresh s)) Reg.RAIL_STAT_SEQ = fld s Reg.RAIL_STAT_SEQ := hnote.fld_eq (by decide)
  have hrun : railFault i kind v (fresh s) = railFaultLamp (assertPath 3 (lensAbort (raiseErr unitRail 0 evRailFault kind
      [(8, i), (8, kind), (16, v)] (railsDown true { railNote i (fresh s) with railFaulted := true })))) := by
    rw [railFault]
    refine if_neg ?_
    rw [Bool.and_eq_true, decide_eq_true_eq, hseq, hfaulted]
    exact hno
  have hmark : Moved (railNote i (fresh s)) { railNote i (fresh s) with railFaulted := true } := moved_rails _
  have hdown : Moved { railNote i (fresh s) with railFaulted := true } (railsDown true { railNote i (fresh s) with railFaulted := true }) := by
    rw [railsDown_true]
    exact (moved_vlcdFirst _).trans (moved_downFrom _)
  have hall := hmark.trans hdown
  have hch : Changes railParts (fun _ => True) (fresh s) (railsDown true { railNote i (fresh s) with railFaulted := true }) :=
    (hnote.mono (fun _ k => k) fun _ _ => trivial).trans (hall.changes.mono (fun _ k => k) fun _ _ => trivial)
  have hfs : reg (railsDown true { railNote i (fresh s) with railFaulted := true }) Reg.RAIL_FAULT_STAT = reg (railNote i (fresh s)) Reg.RAIL_FAULT_STAT :=
    hall.changes.regs _ (by
      rintro (e | e | e)
      · exact absurd e (by decide)
      · exact absurd e (by decide)
      · exact not_eventReg (.inr (by decide)) (.inl (by decide)) e)
  have hphase : fld s Reg.RAIL_STAT_SEQ ≠ 2 → _ := fun hq =>
    railPhase_railsDown (u := { railNote i (fresh s) with railFaulted := true }) (i := i) (by
      rw [show fld { railNote i (fresh s) with railFaulted := true } Reg.RAIL_STAT_SEQ = _ from hseq]
      exact hq) hi
  obtain ⟨hshut, hpath, hemb⟩ := settled_fault (settled_fresh hs) hc hch (hall.failed.trans hfail) kind [(8, i), (8, kind), (16, v)]
  rw [← hrun, ← hf] at hshut hpath hemb
  have hp : Changes [] (fun _ => False) (settleAll (f (fresh s))) { settleAll (f (fresh s)) with pending := s.pending } := changes_pending _ _
  refine ⟨_, hx, ⟨?_, ?_, Ember.of_changes hemb hp⟩, fun hq => ?_⟩
  · rw [hp.regs _ id, hshut.fault, hfs]
    exact hbit
  · rw [pathHolds_congr (hp.regs _ id)]
    exact hpath
  · rw [railPhase_congr (s := railsDown true { railNote i (fresh s) with railFaulted := true })
      ((show ({ settleAll (f (fresh s)) with pending := s.pending } : State).rails = _ from rfl).trans hshut.rails)]
    exact hphase hq

end

/-- Settles O33: a step of a sequence moves its rail and lets no more than the light go on, and what a fault records outlasts
the completions that follow. -/
theorem railsSequence : Obligations.RailsSequence := by
  unfold Obligations.RailsSequence
  intro s i hs hi
  refine ⟨completes_delay hs, completes_downDelay hs,
    fun ho ha => ⟨fun v h hlo hhi => completes_powerGood hs hi ho ha h hlo hhi, fun h hw hl => completes_rampDown hs hi ho ha h hw hl⟩,
    fun hd hq hl => ⟨fun huse hoff => ?_, fun j hu hn => ?_⟩, fun j hd hq h => completes_down hs hd hq h, fun hc hno => ⟨fun k v hg => ?_, fun v hr => ?_⟩⟩
  · obtain ⟨h1, h2⟩ := upReady_rails (freshWrite s) 3
    exact completes_up hs (by decide) hd hq hl (railsUp_vlcd (h1.trans huse) (h2.trans (by
      rw [show railUp (freshWrite s) 3 = railUp s 3 from rfl, railUp, hoff]
      decide)))
  · obtain ⟨h1, h2⟩ := upReady_rails (freshWrite s) 3
    obtain ⟨-, hj⟩ := nextUp_some hn
    exact completes_up hs (by omega) hd hq hl
      (railsUp_emitter (hu.imp (fun e => h1.trans e) fun e => h2.trans e) ((nextUp_upReady s).trans hn))
  · obtain ⟨t, ht, hP, hph⟩ := completes_fault (kind := k) (v := v) (c := .railFault i k v) hs hc hi hno rfl
      (if_pos (by rw [show railPhase (fresh s) i = railPhase s i from rfl, hg, decide_eq_true hi]; rfl))
    refine ⟨t, ht, hP, fun hq e => ?_⟩
    rcases hph hq with e' | e' | e' <;> rw [e'] at e <;> exact absurd e (by decide)
  · obtain ⟨t, ht, hP, hph⟩ := completes_fault (kind := 4) (v := v) (c := .railRampTimeout i v) hs hc hi hno rfl
      (if_pos (show railPhase (fresh s) i = .ramping from hr))
    refine ⟨t, ht, hP, fun hq e => ?_⟩
    rcases hph hq with e' | e' | e' <;> rw [e'] at e <;> exact absurd e (by decide)

end Sys2Proof.Rails
end

section
/-! PROOFS. O6: every step leaves nothing to settle. One round of settling leaves the light alone to settle, unless it enters DARK_FAULT; in
DARK_FAULT nothing escalates again, and the second round leaves nothing. -/

namespace Sys2Proof.Settling

set_option Elab.async false

open Machine HostPort Kept Rails

/-! ### DARK_FAULT lasts while things settle -/

theorem lower_dark : Lower False fun s => lamp s = .darkFault where
  still h k := h.lamp.trans k
  awake k hn := hn k
  lampTo hl _ := by
    obtain rfl := hl.resolve_left id
    exact lamp_setLamp _ _
  orderlyTo _ k := (lamp_congr (fld_congr rfl _)).trans k
  joined _ k := (lamp_followQueue _ _ _ _ _).trans k

theorem lamp_darkFault {s : State} (why path src data noted : Nat) (cs : List Cap) (ho : lamp s ≠ .off) :
    lamp (darkFault why path src data noted cs s) = .darkFault := by
  by_cases hd : lamp s = .darkFault
  · exact lower_dark.darkFault hd
  · rw [darkFault, if_neg ho, if_neg hd]
    exact lower_dark.core (lower_dark.stopRaster (lower_dark.darkStops (lamp_setLamp _ _)))

/-! ### What completions leave -/

/-- What settling reads, but for the light, is as it was. -/
structure Quiet (s t : State) : Prop where
  lamp : lamp t = lamp s
  orderly : t.orderly = s.orderly
  phase : t.lens.phase = s.lens.phase
  forced : t.lens.forced = s.lens.forced
  job : t.lens.forceJob = s.lens.forceJob
  lensRun : t.lensRun = s.lensRun
  rewrite : t.lensRewrite = s.lensRewrite
  snuff : t.snuff = s.snuff
  core : t.restarting = s.restarting
  halted : t.scan.halted = s.scan.halted
  failed : t.vrmFailed = s.vrmFailed
  act : t.act = s.act
  run : t.nvmRun = s.nvmRun
  queue : t.nvmQueue = s.nvmQueue

/-- All this is as it was, or DARK_FAULT has been entered. -/
def Tame (s t : State) : Prop := Quiet s t ∨ Machine.lamp s ≠ .darkFault ∧ Machine.lamp t = .darkFault

section

variable {s t u : State}

theorem Quiet.refl (s : State) : Quiet s s := ⟨rfl, rfl, rfl, rfl, rfl, rfl, rfl, rfl, rfl, rfl, rfl, rfl, rfl, rfl⟩

theorem Quiet.trans (h : Quiet s t) (k : Quiet t u) : Quiet s u :=
  ⟨k.lamp.trans h.lamp, k.orderly.trans h.orderly, k.phase.trans h.phase, k.forced.trans h.forced, k.job.trans h.job,
    k.lensRun.trans h.lensRun, k.rewrite.trans h.rewrite, k.snuff.trans h.snuff, k.core.trans h.core, k.halted.trans h.halted,
    k.failed.trans h.failed, k.act.trans h.act, k.run.trans h.run, k.queue.trans h.queue⟩

theorem quiet_of_level (h : Level s t) : Quiet s t :=
  ⟨h.lamp, h.orderly, h.phase, h.forced, h.job, h.lensRun, h.rewrite, h.snuff, h.core, h.halted, h.failed, h.act, h.run, h.queue⟩

theorem quiet_followJoin (blk idx src cause : Nat) (s : State) : Quiet s (followJoin blk idx src cause s) := by
  have hk := frame_followQueue blk idx src cause s
  obtain ⟨hord, -⟩ := hk .sequence (by decide)
  obtain ⟨hlens, -⟩ := hk .lens (by decide)
  obtain ⟨-, -, hrun, hq, hlr, hrw, -⟩ := hk .store (by decide)
  have hsn : (followJoin blk idx src cause s).snuff = s.snuff := hk .snuff (by decide)
  obtain ⟨-, hre⟩ := hk .core (by decide)
  have hsc : (followJoin blk idx src cause s).scan = s.scan := hk .scan (by decide)
  obtain ⟨-, -, -, -, -, -, hv, -⟩ := hk .rails (by decide)
  obtain ⟨-, hact, -⟩ := hk .structure (by decide)
  exact ⟨lamp_followQueue _ _ _ _ _, hord, congrArg LensState.phase hlens, congrArg LensState.forced hlens,
    congrArg LensState.forceJob hlens, hlr, hrw, hsn, hre, congrArg ScanState.halted hsc, hv, hact, hrun, hq⟩

theorem low_tame (s : State) : Low (Tame s) where
  still h k := k.imp (fun k => k.trans (quiet_of_level h)) fun ⟨hs, hk⟩ => ⟨hs, h.lamp.trans hk⟩
  joined _ k := k.imp (fun k => k.trans (quiet_followJoin _ _ _ _ _)) fun ⟨hs, hk⟩ => ⟨hs, (lamp_followQueue _ _ _ _ _).trans hk⟩
  escalated ho hd k := by
    rcases k with k | ⟨-, hk⟩
    · exact .inr ⟨k.lamp ▸ hd, lamp_darkFault _ _ _ _ _ _ ho⟩
    · exact absurd hk hd

theorem Tame.refl (s : State) : Tame s s := .inl (.refl s)

/-- Where no DARK_FAULT is entered all this is as it was. -/
theorem Tame.quiet (h : Tame s t) (hd : Machine.lamp s = .darkFault ∨ Machine.lamp t ≠ .darkFault) : Quiet s t :=
  h.resolve_right fun ⟨hs, ht⟩ => hd.elim hs fun hd => hd ht

end

/-! ### The regulators of a failure -/

/-- No regulators stay on after a failure whose ring entry is written. -/
def VrmDone (s : State) : Prop := s.vrmFailed = false ∨ nvmHas s isRingWrite = true

section

variable {s t : State}

theorem vrmDone_congr (hf : t.vrmFailed = s.vrmFailed) (hr : t.nvmRun = s.nvmRun) (hq : t.nvmQueue = s.nvmQueue) (h : VrmDone s) : VrmDone t := by
  simpa only [VrmDone, nvmHas, hf, hr, hq] using h

theorem failed_vrmAllOff (s : State) : (vrmAllOff s).vrmFailed = s.vrmFailed := by
  unfold vrmAllOff
  refine forAll_same State.vrmFailed _ _ (fun o _ u => forAll_same State.vrmFailed _ _ (fun r _ v => ?_) u) _
  have hs : ∀ w : State, (if vrmState w r = 4 then w else setVrm w r 1).vrmFailed = w.vrmFailed := fun w => by
    split
    · rfl
    · exact setFld_vrmFailed _ _ _
  exact hs _

theorem vrmDone_vrmSettle (s : State) : VrmDone (vrmSettle s) := by
  unfold vrmSettle
  split
  · exact .inl (failed_vrmAllOff _)
  · next h =>
    cases hv : s.vrmFailed with
    | false => exact .inl hv
    | true => exact .inr (by simpa [hv] using h)

theorem vrmDone_lightIfReady (h : VrmDone s) : VrmDone (lightIfReady s) := by
  have hk := (changes_lightIfReady s).frame
  obtain ⟨-, -, hrun, hq, -, -, -⟩ := hk .store (by decide)
  obtain ⟨-, -, -, -, -, -, hv, -⟩ := hk .rails (by decide)
  exact vrmDone_congr hv hrun hq h

end

/-! ### The lens driver -/

/-- An update waits for what is there: VIN, and the management core. -/
def waits (s : State) : Bool :=
  match s.lens.phase with
  | .ready _ => s.snuff.vinHigh
  | .ended _ => s.snuff.vinHigh && !s.restarting
  | _ => false

/-- Neither an update nor the command of a LENS_FORCE could go on while the lens block writes nothing. -/
structure Waiting (s : State) : Prop where
  update : s.lensRun = none → waits s = false
  job : s.lensRun = none → s.lens.forceJob = none ∨ s.lens.forced ≠ []
  forced : ∀ f ∈ s.lens.forced, forceReady s f = false

section

variable {s t u : State}

theorem lensDue_eq_false : lensDue s = false ↔ (lensFree s = true → s.lensRewrite = []) ∧ Waiting s := by
  have hw : lensDue s = ((lensFree s && !s.lensRewrite.isEmpty) ||
      (s.lensRun.isNone && (waits s || (s.lens.forceJob.isSome && s.lens.forced.isEmpty))) || s.lens.forced.any (forceReady s)) := by
    unfold lensDue waits
    rfl
  rw [hw]
  simp only [Bool.or_eq_false_iff, Bool.and_eq_false_imp, List.any_eq_false, Bool.not_eq_true]
  constructor
  · rintro ⟨⟨h1, h2⟩, h3⟩
    refine ⟨fun hf => ?_, fun hr => ?_, fun hr => ?_, h3⟩
    · simpa using h1 hf
    · exact (h2 (by simp [hr])).1
    · have := (h2 (by simp [hr])).2
      cases hj : s.lens.forceJob with
      | none => exact .inl rfl
      | some j => exact .inr (by simpa [hj] using this)
  · rintro ⟨h1, h2, h3, h4⟩
    refine ⟨⟨fun hf => by simp [h1 hf], fun hr => ?_⟩, h4⟩
    have hr : s.lensRun = none := by simpa using hr
    refine ⟨h2 hr, fun hj => ?_⟩
    rcases h3 hr with h3 | h3
    · simp [h3] at hj
    · simpa using h3

theorem waiting_congr (hp : t.lens.phase = s.lens.phase) (hf : t.lens.forced = s.lens.forced) (hj : t.lens.forceJob = s.lens.forceJob)
    (hr : t.lensRun = s.lensRun) (hs : t.snuff = s.snuff) (hc : t.restarting = s.restarting) (h : Waiting s) : Waiting t := by
  have hw : waits t = waits s := by simp only [waits, hp, hs, hc]
  have hb : lensBusyWith t = lensBusyWith s := by simp only [lensBusyWith, hp]
  refine ⟨fun k => hw.trans (h.update (hr ▸ k)), fun k => ?_, fun f hm => ?_⟩
  · rw [hj, hf]
    exact h.job (hr ▸ k)
  · rw [hf] at hm
    have := h.forced f hm
    simpa only [forceReady, hb, hr, hs] using this

theorem Quiet.waiting (h : Quiet s t) (k : Waiting s) : Waiting t := waiting_congr h.phase h.forced h.job h.lensRun h.snuff h.core k

theorem Quiet.lensDue (h : Quiet s t) (k : Machine.lensDue s = false) : Machine.lensDue t = false := by
  rw [lensDue_eq_false] at *
  obtain ⟨hf, hw⟩ := k
  refine ⟨fun hl => h.rewrite.trans (hf ?_), h.waiting hw⟩
  simpa only [lensFree, h.lensRun, h.snuff] using hl

theorem Quiet.vrmDone (h : Quiet s t) (k : VrmDone s) : VrmDone t := vrmDone_congr h.failed h.run h.queue k

/-! #### A write of the lens block -/

theorem lensRun_nvmWriteLens (w : NvmWr) (s : State) : (nvmWriteLens w s).lensRun = some w := by
  unfold nvmWriteLens nvmBegin
  extract_lets
  rw [if_pos rfl, setFld_lensRun, setFld_lensRun]

/-- Work of the lens driver that leaves its update where it is: a write may begin. -/
structure Works (s t : State) : Prop where
  phase : t.lens.phase = s.lens.phase
  job : t.lens.forceJob = s.lens.forceJob
  forced : t.lens.forced = s.lens.forced
  snuff : t.snuff = s.snuff
  core : t.restarting = s.restarting
  lensRun : t.lensRun = none → s.lensRun = none

theorem Works.refl (s : State) : Works s s := ⟨rfl, rfl, rfl, rfl, rfl, id⟩

theorem Works.trans (h : Works s t) (k : Works t u) : Works s u :=
  ⟨k.phase.trans h.phase, k.job.trans h.job, k.forced.trans h.forced, k.snuff.trans h.snuff, k.core.trans h.core,
    fun r => h.lensRun (k.lensRun r)⟩

theorem works_setFld (s : State) (f : Fld) (v : Nat) : Works s (setFld s f v) := ⟨rfl, rfl, rfl, rfl, rfl, id⟩

theorem works_nvmWriteLens (w : NvmWr) (s : State) : Works s (nvmWriteLens w s) := by
  have h1 : ∀ off data, Works s { nvmProgram off data s with lensRun := some w } := fun _ _ => ⟨rfl, rfl, rfl, rfl, rfl, nofun⟩
  unfold nvmWriteLens nvmBegin
  extract_lets
  rw [if_pos rfl]
  exact ((h1 _ _).trans (works_setFld _ _ _)).trans (works_setFld _ _ _)

theorem works_setTargets (l : List Nat) : ∀ (z : Nat) (s : State), Works s (setTargets z l s) := by
  induction l with
  | nil => exact fun z s => .refl s
  | cons n l ih =>
    intro z s
    rw [setTargets]
    split
    · exact ih _ _
    · exact (works_setFld s _ n).trans (ih _ _)

theorem works_forceOne (c mode level : Nat) (s : State) : Works s (forceOne c mode level s) := by
  have h1 := works_setTargets (List.replicate 96 level) (96 * c) s
  have h2 : ∀ u : State, Works u { u with lens := { u.lens with faults := tblSet 0 u.lens.faults c 0 } } :=
    fun _ => ⟨rfl, rfl, rfl, rfl, rfl, id⟩
  unfold forceOne
  split
  · exact (h1.trans (h2 _)).trans (works_setFld _ _ _)
  · exact (h1.trans (h2 _)).trans (works_nvmWriteLens _ _)

theorem Works.waits (h : Works s t) (k : s.lensRun = none → Settling.waits s = false) (hr : t.lensRun = none) : Settling.waits t = false := by
  simpa only [Settling.waits, h.phase, h.snuff, h.core] using k (h.lensRun hr)

/-- An update that could go on has. -/
theorem waits_lensGoOn (s : State) (hr : (lensGoOn s).lensRun = none) : waits (lensGoOn s) = false := by
  have hw : ∀ w u, (nvmWriteLens w u).lensRun ≠ none := fun w u => by
    rw [lensRun_nvmWriteLens]
    exact nofun
  unfold lensGoOn at hr ⊢
  split at hr
  · next hf =>
    rw [if_pos hf]
    have hv : s.snuff.vinHigh = false := by simpa [lensFree, hr] using hf
    unfold waits
    split <;> simp [hv]
  · next hf =>
    rw [if_neg hf]
    split at hr
    · exact absurd hr (hw _ _)
    · split at hr
      · next c hp hre => simp [waits, hp, hre]
      · exact absurd hr (hw _ _)
    · next hp he =>
      unfold waits
      split
      · next c hc => exact absurd hc (hp c)
      · next c hc => exact absurd hc (he c)
      · rfl

/-- The work of a LENS_FORCE, but for what of it waits. -/
structure Forces (s t : State) : Prop where
  phase : t.lens.phase = s.lens.phase
  job : t.lens.forceJob = s.lens.forceJob
  snuff : t.snuff = s.snuff
  core : t.restarting = s.restarting
  lensRun : t.lensRun = none → s.lensRun = none

/-- What of a LENS_FORCE could go on has. -/
theorem forceNext_done (k : Nat) : ∀ s : State, s.lens.forced.length ≤ k →
    Forces s (forceNext k s) ∧ ∀ f ∈ (forceNext k s).lens.forced, forceReady (forceNext k s) f = false := by
  induction k with
  | zero =>
    intro s hk
    have h0 : s.lens.forced = [] := List.length_eq_zero_iff.1 (by omega)
    refine ⟨⟨rfl, rfl, rfl, rfl, id⟩, fun f hf => ?_⟩
    rw [forceNext, h0] at hf
    exact absurd hf (List.not_mem_nil)
  | succ k ih =>
    intro s hk
    rw [forceNext]
    split
    · next hn => exact ⟨⟨rfl, rfl, rfl, rfl, id⟩, fun f hf => by simpa using List.find?_eq_none.1 hn f hf⟩
    · next f hf =>
      extract_lets _ u
      have hw := works_forceOne f.1 f.2.1 f.2.2 u
      have hlt : u.lens.forced.length < s.lens.forced.length :=
        List.length_filter_lt_length_iff_exists.2 ⟨f, List.mem_of_find?_eq_some hf, by simp⟩
      obtain ⟨hF, hn⟩ := ih (forceOne f.1 f.2.1 f.2.2 u) (by rw [hw.forced]; omega)
      exact ⟨⟨hF.phase.trans hw.phase, hF.job.trans hw.job, hF.snuff.trans hw.snuff, hF.core.trans hw.core,
        fun h => hw.lensRun (hF.lensRun h)⟩, hn⟩

theorem Forces.waits (h : Forces s t) (k : s.lensRun = none → Settling.waits s = false) (hr : t.lensRun = none) : Settling.waits t = false := by
  simpa only [Settling.waits, h.phase, h.snuff, h.core] using k (h.lensRun hr)

/-- A LENS_FORCE that has done its work completes. -/
def unforced (s : State) : State := { s with lens := { s.lens with forceJob := none } }

theorem lamp_unforced (s : State) : lamp (unforced s) = lamp s := lamp_congr (fld_congr rfl _)

theorem forceDone_cases (s : State) : (∃ u j, u = forceNext s.lens.forced.length s ∧ u.lens.forced = [] ∧ u.lensRun = none ∧
      forceDone s = complete j stOK 0 j.counter (unforced u)) ∨
    ∃ u, u = forceNext s.lens.forced.length s ∧ forceDone s = u ∧ (u.lensRun = none → u.lens.forceJob = none ∨ u.lens.forced ≠ []) := by
  unfold forceDone
  extract_lets u
  split
  · next j hj =>
    split
    · next hc => exact .inl ⟨u, j, rfl, hc.1, hc.2, rfl⟩
    · next hc => exact .inr ⟨u, rfl, rfl, fun hr => .inr fun hf => hc ⟨hf, hr⟩⟩
  · next hj => exact .inr ⟨u, rfl, rfl, fun _ => .inl hj⟩

theorem quiet_complete (j : Job) (st detail value : Nat) (hd : lamp s = .darkFault ∨ lamp (complete j st detail value s) ≠ .darkFault) :
    Quiet s (complete j st detail value s) := ((low_tame s).complete (.refl s)).quiet hd

/-- After a LENS_FORCE has gone on nothing waits but rewritten groups, unless its completion enters DARK_FAULT. -/
theorem waiting_forceDone (hw : s.lensRun = none → waits s = false)
    (hd : lamp s = .darkFault ∨ lamp (forceDone s) ≠ .darkFault) : Waiting (forceDone s) := by
  obtain ⟨hF, hn⟩ := forceNext_done s.lens.forced.length s le_rfl
  have hlamp : lamp (forceNext s.lens.forced.length s) = lamp s := lamp_congr (fld_congr_reg (still_forceNext _ s).idle.gen)
  obtain ⟨u, j, hu, hf, hr, e⟩ | ⟨u, hu, e, hj⟩ := forceDone_cases s
  · rw [e] at hd ⊢
    rw [← hu] at hF hlamp
    refine (quiet_complete j _ _ _ (hd.imp_left ((lamp_unforced u).trans hlamp).trans)).waiting ⟨hF.waits hw, fun _ => .inl rfl, fun f hm => ?_⟩
    rw [show (unforced u).lens.forced = [] from hf] at hm
    exact absurd hm List.not_mem_nil
  · rw [e]
    rw [← hu] at hF hn
    exact ⟨hF.waits hw, hj, hn⟩

/-- While the lens block writes, no more waits than before. -/
theorem waiting_write {w : NvmWr} (hk : Works s t) (hr : t.lensRun = some w) (h : Waiting s) : Waiting t := by
  have hb : lensBusyWith t = lensBusyWith s := by simp only [lensBusyWith, hk.phase]
  refine ⟨fun hn => absurd (hr.symm.trans hn) nofun, fun hn => absurd (hr.symm.trans hn) nofun, fun f hm => ?_⟩
  have := h.forced f (hk.forced ▸ hm)
  simp only [forceReady, hb, hr, Bool.and_eq_false_imp] at this ⊢
  intro hx
  have hm := this hx
  simp only [Bool.or_eq_false_iff] at hm ⊢
  exact ⟨hm.1, rfl⟩

/-- With nothing else waiting, rewriting a group leaves nothing. -/
theorem lensDue_lensRewriteNext (h : Waiting s) : lensDue (lensRewriteNext s) = false := by
  rw [lensDue_eq_false]
  unfold lensRewriteNext
  split
  · next hf => exact ⟨fun hl => absurd hl (by simpa using hf), h⟩
  · next hf =>
    have hr : s.lensRun = none := by
      have : lensFree s = true := by simpa using hf
      simp only [lensFree, Bool.and_eq_true, Option.isNone_iff_eq_none] at this
      exact this.1
    split
    · exact ⟨fun _ => rfl, waiting_congr (s := s) rfl rfl rfl rfl rfl rfl h⟩
    · next g l _ =>
      have hl : Waiting { s with lensRewrite := l } := waiting_congr (s := s) rfl rfl rfl rfl rfl rfl h
      exact ⟨fun hf => absurd hf (by simp [lensFree, lensRun_nvmWriteLens]),
        waiting_write (works_nvmWriteLens _ _) (lensRun_nvmWriteLens _ _) hl⟩

theorem lamp_lensGoOn (s : State) : lamp (lensGoOn s) = lamp s := lamp_congr (fld_congr_reg (still_lensGoOn s).idle.gen)

/-- The lens driver settles. -/
theorem lensDue_lensSettle (hd : lamp s = .darkFault ∨ lamp (lensSettle s) ≠ .darkFault) : lensDue (lensSettle s) = false := by
  unfold lensSettle at hd ⊢
  split at hd
  · next hl =>
    rw [if_pos hl]
    refine lensDue_lensRewriteNext (waiting_forceDone (waits_lensGoOn s) (hd.imp (lamp_lensGoOn s).trans fun hn h => hn ?_))
    exact lower_dark.lensRewriteNext h
  · next hl =>
    rw [if_neg hl]
    simpa using hl

theorem vrmDone_forceDone (hv : VrmDone s) (hd : lamp s = .darkFault ∨ lamp (forceDone s) ≠ .darkFault) : VrmDone (forceDone s) := by
  have hi := (still_forceNext s.lens.forced.length s).idle
  have hlamp : lamp (forceNext s.lens.forced.length s) = lamp s := lamp_congr (fld_congr_reg hi.gen)
  have hv : VrmDone (forceNext s.lens.forced.length s) := vrmDone_congr hi.failed hi.run hi.queue hv
  obtain ⟨u, j, hu, -, -, e⟩ | ⟨u, hu, e, -⟩ := forceDone_cases s
  · rw [e] at hd ⊢
    rw [← hu] at hv hlamp
    exact (quiet_complete j _ _ _ (hd.imp_left ((lamp_unforced u).trans hlamp).trans)).vrmDone (s := unforced u) hv
  · rw [e, hu]
    exact hv

theorem vrmDone_lensSettle (hv : VrmDone s) (hd : lamp s = .darkFault ∨ lamp (lensSettle s) ≠ .darkFault) : VrmDone (lensSettle s) := by
  unfold lensSettle at hd ⊢
  split at hd
  · next hl =>
    rw [if_pos hl]
    have hg := (still_lensGoOn s).idle
    have hf := vrmDone_forceDone (vrmDone_congr hg.failed hg.run hg.queue hv)
      (hd.imp (lamp_lensGoOn s).trans fun hn h => hn (lower_dark.lensRewriteNext h))
    have hr := (still_lensRewriteNext (forceDone (lensGoOn s))).idle
    exact vrmDone_congr hr.failed hr.run hr.queue hf
  · next hl =>
    rw [if_neg hl]
    exact hv

end

/-! ### A round of settling -/

section

variable {s : State}

/-- What waited for a boundary point takes effect. -/
theorem settleHalt_effect (hd : lamp s = .darkFault ∨ lamp (settleHalt s) ≠ .darkFault) :
    (settleHalt s).scan.halted = false ∧ (lensDue s = false → lensDue (settleHalt s) = false) ∧ (VrmDone s → VrmDone (settleHalt s)) := by
  unfold settleHalt at hd ⊢
  split at hd
  · next hh =>
    rw [if_pos hh]
    have hq := ((low_tame { s with scan := { s.scan with halted := false } }).settleStopped (.refl _)).quiet (hd.imp_left id)
    exact ⟨hq.halted, hq.lensDue, hq.vrmDone⟩
  · next hh =>
    rw [if_neg hh]
    exact ⟨by simpa using hh, id, id⟩

/-- GO_DARKs that DARK_FAULT has cut short end. -/
theorem settleDark_effect (hd : lamp s = .darkFault ∨ lamp (settleDark s) ≠ .darkFault) :
    ((settleDark s).orderly = none ∨ lamp (settleDark s) ≠ .darkFault) ∧ (settleDark s).scan.halted = s.scan.halted ∧
      (lensDue s = false → lensDue (settleDark s) = false) ∧ (VrmDone s → VrmDone (settleDark s)) := by
  unfold settleDark at hd ⊢
  split at hd
  · next o ho =>
    split at hd
    · next hl =>
      rw [if_pos hl]
      have hq := (foldlK (P := Tame { s with orderly := none }) (l := o.jobs)
        (fun _ j h => (low_tame { s with orderly := none }).complete (j := j) (st := stDeviceState) (detail := 0) (value := 0) h) (.refl _)).quiet (.inl hl)
      exact ⟨.inl hq.orderly, hq.halted, hq.lensDue, hq.vrmDone⟩
    · next hl =>
      rw [if_neg hl]
      exact ⟨.inr hl, rfl, id, id⟩
  · next ho => exact ⟨.inl ho, rfl, id, id⟩

theorem Quiet.withoutAct {t : State} (h : Quiet s t) : Quiet { s with act := none } { t with act := none } :=
  ⟨h.lamp, h.orderly, h.phase, h.forced, h.job, h.lensRun, h.rewrite, h.snuff, h.core, h.halted, h.failed, rfl, h.run, h.queue⟩

/-- An image comes into force. -/
theorem quiet_actInForce (hd : lamp s = .darkFault ∨ lamp (actInForce s) ≠ .darkFault) :
    Quiet { s with act := none } { actInForce s with act := none } := by
  unfold actInForce at hd ⊢
  split at hd
  · next a ha =>
    dsimp only
    split at hd
    · next hb =>
      rw [if_pos hb]
      exact ((((low_tame { s with act := some { a with taken := true } }).imageTake (b := a.image) (src := a.source) (.refl _)).quiet
        (hd.imp_left id)).withoutAct : Quiet { s with act := none } _)
    · next hb =>
      rw [if_neg hb]
      exact .refl _
  · exact .refl _

/-- An activation whose steps have ended completes. -/
theorem settleAct_effect (hd : lamp s = .darkFault ∨ lamp (settleAct s) ≠ .darkFault) :
    (∀ a, (settleAct s).act = some a → a.begun = true → lamp (settleAct s) = .housekeeping) ∧ lamp (settleAct s) = lamp s ∧
      (settleAct s).orderly = s.orderly ∧ (settleAct s).scan.halted = s.scan.halted ∧
      (lensDue s = false → lensDue (settleAct s) = false) ∧ (VrmDone s → VrmDone (settleAct s)) := by
  unfold settleAct at hd ⊢
  split at hd
  · next a ha =>
    dsimp only
    split at hd
    · next hb =>
      rw [if_pos hb]
      have hq2 := ((low_tame { actInForce s with act := none }).complete (j := a.job) (st := stOK) (detail := 0) (value := 0) (.refl _)).quiet
        (hd.imp_left fun h => lower_dark.actInForce h)
      have hq := (quiet_actInForce (hd.imp_right fun hn h => hn (hq2.lamp.trans h))).trans hq2
      exact ⟨fun b hs => absurd (hq.act.symm.trans hs) nofun, hq.lamp, hq.orderly, hq.halted, hq.lensDue, hq.vrmDone⟩
    · next hb =>
      rw [if_neg hb]
      refine ⟨fun b hs hbb => ?_, rfl, rfl, rfl, id, id⟩
      obtain rfl : a = b := by simpa [ha] using hs
      simpa [hbb] using hb
  · next ha => exact ⟨fun b hb => absurd (ha.symm.trans hb) nofun, rfl, rfl, rfl, id, id⟩

/-- A round of settling leaves the light alone to settle, unless it enters DARK_FAULT. -/
theorem steady_settleOnce (hd : lamp s = .darkFault ∨ lamp (settleOnce s) ≠ .darkFault) : Steady (settleOnce s) := by
  unfold settleOnce at hd ⊢
  have hv := vrmDone_lightIfReady (vrmDone_vrmSettle s)
  have hp : lamp s = .darkFault → lamp (lightIfReady (vrmSettle s)) = .darkFault := fun h => lower_dark.lightIfReady (lower_dark.vrmSettle h)
  generalize lightIfReady (vrmSettle s) = s2 at hv hp hd ⊢
  have hd := hd.imp_left hp
  have h6 := settleAct_effect (hd.imp_left fun h => lower_dark.settleDark (lower_dark.settleHalt (lower_dark.lensSettle h)))
  have hd := hd.imp_right fun hn h => hn (lower_dark.settleAct h)
  have h5 := settleDark_effect (hd.imp_left fun h => lower_dark.settleHalt (lower_dark.lensSettle h))
  have hd := hd.imp_right fun hn h => hn (lower_dark.settleDark h)
  have h4 := settleHalt_effect (hd.imp_left fun h => lower_dark.lensSettle h)
  have hd := hd.imp_right fun hn h => hn (lower_dark.settleHalt h)
  have h3 := lensDue_lensSettle hd
  have h3' := vrmDone_lensSettle hv hd
  obtain ⟨hact, hlamp, hord, hhalt, hl6, hv6⟩ := h6
  obtain ⟨hord5, hhalt5, hl5, hv5⟩ := h5
  obtain ⟨hhalt4, hl4, hv4⟩ := h4
  exact ⟨hact, by rw [hlamp, hord]; exact hord5, hhalt.trans (hhalt5.trans hhalt4), hl6 (hl5 (hl4 h3)), hv6 (hv5 (hv4 h3'))⟩

theorem settleOnce_of_steady (h : Steady s) : settleOnce s = lightIfReady s := by
  have hn := h.settled_lightIfReady
  rw [show settleOnce s = settleOnce (lightIfReady s) from ?_, settleOnce_of_settled hn]
  rw [settleOnce, settleOnce, vrmSettle_of s h.vrm, vrmSettle_of _ hn.vrm, lightIfReady_of _ hn.light]

/-- What is left to settle settles. -/
theorem settled_settleAll (s : State) : (settleAll s).settled := by
  rw [settleAll]
  by_cases hd : lamp (settleOnce s) = .darkFault
  · have h2 := steady_settleOnce (.inl hd)
    refine h2.settled ?_
    rw [lightDue, lower_dark.settleOnce hd]
    simp
  · have h1 := steady_settleOnce (.inr hd)
    rw [settleOnce_of_steady h1]
    exact h1.settled_lightIfReady

end

/-! ### Every step -/

theorem exec_settles (c : Instr) (s : State) : ∃ x, exec c s = .next { settleAll x with pending := s.pending } := by
  cases c <;> exact ⟨_, rfl⟩

theorem settled_pending {s : State} (q : List Instr) (h : s.settled) : { s with pending := q }.settled := by
  obtain ⟨h1, h2, h3, h4, h5, h6⟩ := h
  exact ⟨h1, h2, h3, h4, h5, h6⟩

theorem settled_idle {s : State} (hq : s.pending = []) (h : s.settled) : (idle s).settled := by
  obtain ⟨t, ht, -, -, -, hf⟩ := Whole.emptyQueueLetsTimePass s hq
  have hstep : step s = .next (idle s) := by simp only [step, hq]
  obtain rfl : idle s = t := by simpa using hstep.symm.trans ht
  exact settled_of_frame hf (by decide) h

/-- Settles O6, by one round of settling and another, and by the moves of the lens driver's units. -/
theorem everyStepSettlesActivations : Obligations.EveryStepSettlesActivations := by
  unfold Obligations.EveryStepSettlesActivations
  intro s t hst
  refine ⟨fun h => ?_, fun h => ?_⟩
  · cases hq : s.pending with
    | nil =>
      have hstep : step s = .next (idle s) := by simp only [step, hq]
      obtain rfl : idle s = t := by simpa using hstep.symm.trans hst
      exact settled_idle hq h
    | cons c q =>
      have hstep : step s = exec c { s with pending := q } := by simp only [step, hq]
      obtain ⟨x, hx⟩ := exec_settles c { s with pending := q }
      obtain rfl : { settleAll x with pending := q } = t := by simpa using (hstep.trans hx).symm.trans hst
      exact settled_pending q (settled_settleAll x)
  · exact closed_lensUnits.step (fun h => h) trivial h hst

end Sys2Proof.Settling
end

section
/-! PROOFS. O55: an uncorrectable error on the way of a row and the retirement of its rank are two errors of one unit. -/

namespace Sys2Proof.Stray

set_option Elab.async false

open Machine

/-- A lit head whose only lantern builds the row of one wick. The line of the lenslet record has lost two devices, a spare rank waits for its
rank to retire, and the channel's follow-ups have room for one. -/
def strayRow : State :=
  { regs := [(Reg.GEN_STATE, 5#64), (Reg.MFB_STAT, 16#64), (Reg.MFB_CAPACITY, 1024#64), (Reg.DMC_RANKSTATE 0, 33#64),
      (Reg.LANT_STAT 0, 1#64), (Reg.RMAP_STAT, 0#64), (Reg.SCAN_W_COLS 0, 65536#64)]
    dram := { pop := some ⟨1, 1, 1, 1, 8, 2400, 17, false, []⟩, errs := [(0, 3)] }, followUps := [(unitKey unitDmc 0, roomForOne)]
    scan := { force := [(Reg.SCAN_ACT_ROWS_A.off, 1#64)] } }

theorem settled_strayRow : strayRow.settled := State.settled_of_none rfl rfl rfl (by decide) (by decide) rfl

/-- Refutes O55: the lenslet record's line is lost and its rank retires, two errors of the channel's unit, of which the second escalates;
DARK_FAULT starts the quad's rows again. -/
theorem not_lanternsBuildFailAndJoin : ¬ Obligations.LanternsBuildFailAndJoin := by
  unfold Obligations.LanternsBuildFailAndJoin
  intro h
  obtain ⟨hrow, -⟩ := h strayRow 0 settled_strayRow (calm_of_single rfl (by decide))
  obtain ⟨hnext, -⟩ := of_completes (hrow 0 [] (by decide +kernel) fun a ha => absurd ha List.not_mem_nil)
  exact absurd hnext (by decide +kernel)

end Sys2Proof.Stray
end

section
/-! PROOFS. What outlasts whatever a command lets go on: the descriptors taken, the rings' pointers and sizes, the host keys, the fetches that
run, and the writes of the store. -/

namespace Sys2Proof.Lasting

set_option Elab.async false

open Machine HostPort Kept

/-- What no settling changes, with the registers `W` among those it does not write. -/
structure Lasts (W : Nat → Prop) (s t : State) : Prop where
  regs : ∀ o, W o → reg t o = reg s o
  taken : ∀ r, (ring t r).taken = (ring s r).taken
  turn : t.rrRing = s.rrRing
  fetches : t.reel.fetches = s.reel.fetches
  reads : t.nvmReads = s.nvmReads
  keys : t.keyPend = s.keyPend
  writes : ∀ w, InStore s w → InStore t w
  out : s.out <+: t.out

/-- Settling leaves device memory as well. -/
structure Stays (W : Nat → Prop) (s t : State) : Prop extends Lasts W s t where
  mem : t.mem = s.mem
  poison : t.poison = s.poison

section

variable {W : Nat → Prop} {s t u : State}

theorem Lasts.refl (s : State) : Lasts W s s :=
  ⟨fun _ _ => rfl, fun _ => rfl, rfl, rfl, rfl, rfl, fun _ => id, List.prefix_refl _⟩

theorem Stays.refl (s : State) : Stays W s s := ⟨.refl s, rfl, rfl⟩

theorem Lasts.trans (h : Lasts W s t) (k : Lasts W t u) : Lasts W s u :=
  ⟨fun o ho => (k.regs o ho).trans (h.regs o ho), fun r => (k.taken r).trans (h.taken r), k.turn.trans h.turn,
    k.fetches.trans h.fetches, k.reads.trans h.reads, k.keys.trans h.keys, fun w hw => k.writes w (h.writes w hw), h.out.trans k.out⟩

theorem Stays.trans (h : Stays W s t) (k : Stays W t u) : Stays W s u :=
  ⟨h.toLasts.trans k.toLasts, k.mem.trans h.mem, k.poison.trans h.poison⟩

theorem stays_setReg {o : Nat} (v : DWord) (h : ¬ W o) (s : State) : Stays W s (setReg s o v) :=
  ⟨⟨fun _ hk => reg_setReg_ne s v fun e => h (e ▸ hk), fun _ => rfl, rfl, rfl, rfl, rfl, fun _ => id, List.prefix_refl _⟩, rfl, rfl⟩

theorem stays_followUps (s : State) (x : Tbl FuUnit) : Stays W s { s with followUps := x } :=
  ⟨⟨fun _ _ => rfl, fun _ => rfl, rfl, rfl, rfl, rfl, fun _ => id, List.prefix_refl _⟩, rfl, rfl⟩

variable (hW : ∀ o, W o → firmReg o)
include hW

theorem stays_firm (h : Firm s t) : Stays W s t :=
  ⟨⟨fun o ho => h.regs o (hW o ho), h.taken, h.turn, h.fetches, h.reads, h.keys, h.writes, h.out⟩, h.mem, h.poison⟩

theorem not_of_plain {o : Nat} (h : ¬ firmReg o) : ¬ W o := fun ho => h (hW o ho)

theorem stays_followJoin (blk idx src cause : Nat) (s : State) : Stays W s (followJoin blk idx src cause s) := by
  have hesc : ¬ W Reg.MGMT_ESC := not_of_plain hW (by unfold firmReg; decide)
  unfold followJoin followQueue
  extract_lets v f s1
  split
  · exact stays_followUps s _
  · split
    · exact .refl s
    · split
      · exact ((stays_setReg _ hesc _).trans (stays_setReg _ hesc _)).trans (stays_setReg _ hesc _)
      · exact (stays_followUps s _).trans (stays_setReg _ hesc _)

theorem stays_setLamp (l : Lamp) (s : State) : Stays W s (setLamp s l) := stays_setReg _ (not_of_plain hW (by unfold firmReg; decide)) s

omit hW in
theorem stays_orderly (s : State) (o : Option Orderly) : Stays W s { s with orderly := o } :=
  ⟨⟨fun _ _ => rfl, fun _ => rfl, rfl, rfl, rfl, rfl, fun _ => id, List.prefix_refl _⟩, rfl, rfl⟩

theorem lower_stays (s : State) : Lower True (Stays W s) where
  still h k := k.trans (stays_firm hW h)
  awake _ _ := trivial
  lampTo _ k := k.trans (stays_setLamp hW _ _)
  orderlyTo _ k := k.trans (stays_orderly _ _)
  joined _ k := k.trans (stays_followJoin hW _ _ _ _ _)

theorem mem_lasts (s : State) : Mem True (Lasts W s) where
  still h k := k.trans (stays_firm hW h).toLasts
  awake _ _ := trivial
  lampTo _ k := k.trans (stays_setLamp hW _ _).toLasts
  orderlyTo _ k := k.trans (stays_orderly _ _).toLasts
  joined _ k := k.trans (stays_followJoin hW _ _ _ _ _).toLasts
  stored _ _ k := k.trans ⟨fun _ _ => rfl, fun _ => rfl, rfl, rfl, rfl, rfl, fun _ => id, List.prefix_refl _⟩

/-- What a command has done of this kind it has done. -/
theorem completes_lasting {c : Instr} {f : State → State} {s : State} {P : State → Prop} (hx : exec c s = done f s)
    (hP : ∀ t, Stays W (f (fresh s)) t → P t) : Completes c s P :=
  ⟨_, hx, hP _ (((lower_stays hW _).settleAll (.refl _)).trans
    ⟨⟨fun _ _ => rfl, fun _ => rfl, rfl, rfl, rfl, rfl, fun _ => id, List.prefix_refl _⟩, rfl, rfl⟩)⟩

end

end Sys2Proof.Lasting
end

section
/-! PROOFS. O19: the rings start, stop and reset, and descriptors are taken. -/

namespace Sys2Proof.Rings

set_option Elab.async false

open Machine HostPort Stray Kept Lasting

/-- Commands of the rings that write their registers, or note completions read. -/
def ringParts : List Part := [.regs 0x02, .rings]

section

variable {s t : State} {r : Nat}

theorem frame_ringReg (s : State) {o : Nat} (v : DWord) (h : 0x10000 ≤ o ∧ o < 0x20000) : Frame ringParts s (setReg s o v) :=
  (frame_setReg s o v (by simp only [Reg.GEN_STATE]; omega)).mono (by rw [blockOf_cmd h.1 h.2]; decide)

theorem frame_ofRing (hr : r < 8) (s : State) {o : Nat} (v : DWord) (h : ofRing r o) : Frame ringParts s (setReg s o v) :=
  frame_ringReg s v (by simp only [ofRing] at h; omega)

/-- A write to a ring's registers completes, where it changes the rings alone. -/
theorem completes_ring {c : Instr} {f : State → State} {P : State → Prop} (hs : s.settled) (hr : r < 8)
    (hx : exec c s = doneWrite (fun s => if r < 8 then f s else s) s) (hf : Frame ringParts (freshWrite s) (f (freshWrite s)))
    (hP : ∀ t, (∀ o, reg t o = reg (f (freshWrite s)) o) → P t) : Completes c s P :=
  completes_write hx (if_pos hr) (settled_of_frame hf (by decide) (settled_freshWrite hs)) fun t ht => hP t fun o => ht.regs o id

theorem completes_enable (hs : s.settled) (hr : r < 8) (hn : ringRuns s r = false) (ho : ringOk s r = true) :
    Completes (.ringEnable r) s (fun t => ringRuns t r = true ∧ fld t (Reg.CMD_RING_CTRL_EN r) = 1) := by
  obtain ⟨-, hctrl, -, hstat⟩ := ofRing_regs r
  have hne := (ringRegs_distinct r).2.2.2.1
  have he : ringEnable r (freshWrite s) =
      setFld (setFld (freshWrite s) (Reg.CMD_RING_CTRL_EN r) 1) (Reg.CMD_RING_STAT_STATE r) 1 := by
    rw [ringEnable, if_neg (by rw [show ringRuns (freshWrite s) r = ringRuns s r from rfl, hn]; decide),
      if_pos (show ringOk (freshWrite s) r = true from ho)]
  refine completes_ring (f := ringEnable r) hs hr rfl (by
    rw [he]
    exact (frame_ofRing hr _ _ hctrl).trans (frame_ofRing hr _ _ hstat)) fun t ht => ⟨?_, ?_⟩
  · rw [ringRuns, fld_congr_reg (ht _), he, fld_setFld_self _ 1 (by decide)]
    rfl
  · rw [fld_congr_reg (ht _), he, fld_congr_reg (reg_setFld_ne _ _ hne.symm), fld_setFld_self _ 1 (by decide)]
    rfl

theorem completes_enableFails (hs : s.settled) (hr : r < 8) (hn : ringRuns s r = false) (ho : ringOk s r = false) (hc : s.calm) :
    Completes (.ringEnable r) s (fun t => fld t (Reg.CMD_RING_STAT_STATE r) = 2 ∧ fld t (Reg.CMD_RING_STAT_ERR r) = 1 ∧
      fld t (Reg.CMD_RING_CTRL_EN r) = 0 ∧ Ember evCmdRingErr t) := by
  have he : ringEnable r (freshWrite s) = ringError r 1 (freshWrite s) := by
    rw [ringEnable, if_neg (by rw [show ringRuns (freshWrite s) r = ringRuns s r from rfl, hn]; decide),
      if_neg (by rw [show ringOk (freshWrite s) r = ringOk s r from rfl, ho]; decide)]
  obtain ⟨hf, hstate, herr, -, hember⟩ := ringError_effect (s := freshWrite s) hc 1 hr
  have hx : exec (.ringEnable r) s = doneWrite (fun s => if r < 8 then ringEnable r s else s) s := rfl
  refine completes_write hx ((if_pos hr).trans he) (settled_of_frame hf (by decide) (settled_freshWrite hs)) fun t ht => ?_
  have hstop := frame_ringStopped r 1 (freshWrite s) hr
  have hcalm : (ringStopped r 1 (freshWrite s)).calm := calm_of_followUps (hstop .followUps (by decide)) hc
  have hctl : reg (ringError r 1 (freshWrite s)) (Reg.CMD_RING_CTRL r) = reg (ringStopped r 1 (freshWrite s)) (Reg.CMD_RING_CTRL r) := by
    rw [ringError_eq]
    exact frame_raiseErr_calm hcalm unitCmd 0 evCmdRingErr 1 _ (by decide) (.regs 0x02) (by decide) _
      (blockOf_cmd (by simp only [Reg.CMD_RING_CTRL]; omega) (by simp only [Reg.CMD_RING_CTRL]; omega)) (by simp only [Reg.CMD_RING_CTRL, Reg.GEN_STATE]; omega)
  refine ⟨by rw [ht.fld_eq id, hstate], by rw [ht.fld_eq id, herr], ?_, ?_⟩
  · rw [ht.fld_eq id, fld_congr_reg hctl, ringStopped, fld_setFld_self _ 0 (by decide)]
    rfl
  · rw [Ember, flag, ht.fld_eq id]
    exact hember

theorem completes_disable (hs : s.settled) (hr : r < 8) (hn : ringRuns s r = true) :
    Completes (.ringDisable r) s (fun t => fld t (Reg.CMD_RING_STAT_STATE r) = 0 ∧ fld t (Reg.CMD_RING_CTRL_EN r) = 0) := by
  obtain ⟨-, hctrl, -, hstat⟩ := ofRing_regs r
  have hne := (ringRegs_distinct r).2.2.2.1
  have he : ringDisable r (freshWrite s) =
      setFld (setFld (freshWrite s) (Reg.CMD_RING_CTRL_EN r) 0) (Reg.CMD_RING_STAT_STATE r) 0 := by
    unfold ringDisable
    extract_lets u
    have hu : ringRuns u r = ringRuns s r := by rw [ringRuns, fld_congr_reg (reg_setFld_ne _ _ hne)]; rfl
    rw [if_pos (hu.trans hn)]
  refine completes_ring (f := ringDisable r) hs hr rfl (by
    rw [he]
    exact (frame_ofRing hr _ _ hctrl).trans (frame_ofRing hr _ _ hstat)) fun t ht => ⟨?_, ?_⟩
  · rw [fld_congr_reg (ht _), he, fld_setFld_self _ 0 (by decide), Nat.zero_mod]
  · rw [fld_congr_reg (ht _), he, fld_congr_reg (reg_setFld_ne _ _ hne.symm), fld_setFld_self _ 0 (by decide), Nat.zero_mod]

theorem resetOf_cqPtr : ∀ r, r < 8 → resetOf (Reg.CMD_CQ_PTR r) = 0x10000000#64 := by decide +kernel

theorem completes_reset (hs : s.settled) (hr : r < 8) (hn : ringRuns s r = false) :
    Completes (.ringReset r) s (fun t => fld t (Reg.CMD_RING_PTR_HEAD r) = 0 ∧ fld t (Reg.CMD_RING_PTR_TAIL r) = 0 ∧
      fld t (Reg.CMD_CQ_PTR_HEAD r) = 0 ∧ fld t (Reg.CMD_CQ_PTR_TAIL r) = 0 ∧ fld t (Reg.CMD_CQ_PTR_PHASE r) = 1 ∧
      fld t (Reg.CMD_RING_STAT_LOST r) = 0) := by
  obtain ⟨hptr, -, hcq, hstat⟩ := ofRing_regs r
  have hne := (ringRegs_distinct r).2.2.1
  have he : ringReset r (freshWrite s) = ringClear r (freshWrite s) := by
    rw [ringReset, if_neg (by rw [show ringRuns (freshWrite s) r = ringRuns s r from rfl, hn]; decide)]
  have hcqr : reg (ringClear r (freshWrite s)) (Reg.CMD_CQ_PTR r) = 0x10000000#64 := by
    rw [reg_ringClear, reg_setFld_ne _ _ hne.symm, resetReg, reg_setReg_same, resetOf_cqPtr r hr]
  refine completes_ring (f := ringReset r) hs hr rfl (by
    rw [he]
    exact (((frame_ofRing hr _ _ hptr).trans (frame_ofRing hr _ _ hcq)).trans (frame_ofRing hr _ _ hstat)).trans
      ((frame_setRing _ r _).mono (by decide))) fun t ht => ?_
  have hp : reg t (Reg.CMD_RING_PTR r) = 0 := (ht _).trans (by rw [he]; exact reg_ringClear_ptr hr _)
  have hq : reg t (Reg.CMD_CQ_PTR r) = 0x10000000#64 := (ht _).trans (by rw [he]; exact hcqr)
  refine ⟨fld_of_reg_zero hp, fld_of_reg_zero hp, ?_, ?_, ?_, ?_⟩
  · rw [fld, hq]
    show bitsOf 0x10000000 0 12 = 0
    decide
  · rw [fld, hq]
    show bitsOf 0x10000000 16 12 = 0
    decide
  · rw [fld, hq]
    show bitsOf 0x10000000 28 1 = 1
    decide
  · rw [fld_congr_reg (ht _), he, fld_congr_reg (reg_ringClear r _ _), fld_setFld_self _ 0 (by decide), Nat.zero_mod]

theorem completes_cqHead (hs : s.settled) (hr : r < 8) (head : BitVec 12) :
    Completes (.cqHeadWrite r head) s (fun t => fld t (Reg.CMD_CQ_PTR_HEAD r) = head.toNat) := by
  obtain ⟨-, -, hcq, -⟩ := ofRing_regs r
  refine completes_ring (f := cqHead r head.toNat) hs hr rfl
    ((frame_ofRing hr _ _ hcq).trans ((frame_setRing _ r _).mono (by decide))) fun t ht => ?_
  rw [fld_congr_reg (ht _), cqHead, fld_congr_reg (reg_setRing _ _ _ _), fld_setFld_self _ _ (by decide)]
  exact Nat.mod_eq_of_lt head.isLt

/-! ### A descriptor is taken -/

/-- The registers of a ring that taking a descriptor rests on. -/
def takeReg (r o : Nat) : Prop := o = Reg.CMD_RING_PTR r ∨ o = Reg.CMD_RING_CFG r

theorem firm_takeReg (hr : r < 8) (o : Nat) (h : takeReg r o) : firmReg o := by
  simp only [takeReg, Reg.CMD_RING_PTR, Reg.CMD_RING_CFG] at h
  unfold firmReg
  omega

/-- An unpoisoned descriptor with a known opcode stands behind those taken. -/
theorem takeFrom_known {h : Nat} {d : Bytes} {u : State} (hh : fld s (Reg.CMD_RING_PTR_HEAD r) = h)
    (hm : memRead grpHost (fld s (Reg.CMD_RING_BASE_BASE r) + 64 * h) 64 s = (u, d, false)) (hd : knownOp (dOp d) = true) :
    (ring (takeFrom r s) r).taken = (ring u r).taken ++ [d] ∧ (takeFrom r s).rrRing = r ∧
      fld (takeFrom r s) (Reg.CMD_RING_PTR_HEAD r) = (h + 1) % ringSize u r % 4096 := by
  have hne := (ringRegs_distinct r).1
  unfold takeFrom
  subst hh
  extract_lets _ m e s1 s2 x s3
  have hm : m = (u, d, false) := hm
  clear_value m
  subst hm
  rw [if_neg Bool.false_ne_true, if_pos (show knownOp (dOp e) = true from hd)]
  refine ⟨?_, rfl, ?_⟩
  · rw [ring_setRing_same]
    show (ring s3 r).taken ++ [d] = _
    rw [ring_setRing_same]
    rfl
  · have hk : reg s2 (Reg.CMD_RING_PTR r) = reg s1 (Reg.CMD_RING_PTR r) :=
      reg_setFld_ne s1 (f := Reg.CMD_RING_STAT_INFLIGHT r) _ hne
    have h1 : fld s1 (Reg.CMD_RING_PTR_HEAD r) = (fld s (Reg.CMD_RING_PTR_HEAD r) + 1) % ringSize u r % 2 ^ 12 :=
      fld_setFld_same u (Reg.CMD_RING_PTR_HEAD r) _ ⟨by simp, by simp⟩
    exact Eq.trans (fld_congr_reg hk) h1

theorem completes_take (hr : r < 8) (hf : (ringOrder s).find? (takeable s) = some r) {h : Nat} (hh : fld s (Reg.CMD_RING_PTR_HEAD r) = h)
    {d : Bytes} {u : State} (hm : memRead grpHost (fld s (Reg.CMD_RING_BASE_BASE r) + 64 * h) 64 (fresh s) = (u, d, false))
    (hd : knownOp (dOp d) = true) : Completes .descriptorTake s (fun t => (ring t r).taken = (ring s r).taken ++ [d] ∧ t.rrRing = r ∧
      fld t (Reg.CMD_RING_PTR_HEAD r) = (h + 1) % ringSize s r % 4096) := by
  have hu : Lasts (takeReg r) (fresh s) u := of_pair hm ((mem_lasts (firm_takeReg hr) (fresh s)).memRead (.refl _))
  have he : takeNext (fresh s) = takeFrom r (fresh s) := by
    rw [takeNext, show (ringOrder (fresh s)).find? (takeable (fresh s)) = some r from hf]
  obtain ⟨htaken, hturn, hhead⟩ := takeFrom_known (s := fresh s) hh hm hd
  refine completes_lasting (firm_takeReg hr) (f := takeNext) rfl fun t ht => ?_
  rw [he] at ht
  have hsize : ringSize u r = ringSize s r := by
    rw [ringSize, ringSize, fld_congr_reg (hu.regs _ (.inr rfl))]
    rfl
  refine ⟨?_, ht.turn.trans hturn, ?_⟩
  · rw [ht.taken, htaken, hu.taken]
    rfl
  · rw [fld_congr_reg (ht.regs _ (.inl rfl)), hhead, hsize]

end

/-- Settles O19, a clause at a time. -/
theorem ringsStartStopAndReset : Obligations.RingsStartStopAndReset := by
  unfold Obligations.RingsStartStopAndReset
  exact fun s r hs hr => ⟨completes_enable hs hr, completes_enableFails hs hr, completes_disable hs hr, completes_reset hs hr,
    completes_cqHead hs hr, fun hf hp hd => completes_take hr hf rfl (Prod.ext rfl (Prod.ext rfl hp)) hd⟩

end Sys2Proof.Rings
end

section
/-! PROOFS. What a client stores where it may write sound memory (R308 to R310). -/

namespace Sys2Proof.Clients

set_option Elab.async false

open Machine HostPort Stray

/-! ### Partitions -/

section

variable {s t : State}

/-- The registers of the partitions. -/
def partReg (o : Nat) : Prop := 0x40000 ≤ o ∧ o < 0x50000

theorem not_rowReg_part {o : Nat} (h : partReg o) : ¬ rowReg o := by
  simp only [partReg] at h
  exact not_rowReg (by omega)

theorem partFlag_congr (h : ∀ o, partReg o → reg t o = reg s o) {i : Nat} (hi : i < 16) (b : Nat) :
    partFlag t i b = partFlag s i b ∧ partBase t i = partBase s i ∧ partSize t i = partSize s i := by
  have hinfo : reg t (Reg.MFB_PART_INFO i) = reg s (Reg.MFB_PART_INFO i) := h _ (by simp only [partReg, Reg.MFB_PART_INFO]; omega)
  have hbase : reg t (Reg.MFB_PART_BASE i) = reg s (Reg.MFB_PART_BASE i) := h _ (by simp only [partReg, Reg.MFB_PART_BASE]; omega)
  exact ⟨by rw [partFlag, partFlag, fld_congr_reg hinfo], fld_congr_reg hbase, fld_congr_reg hinfo⟩

/-- Partition `i` has flag `b` and holds the byte at `a`. -/
def holds (s : State) (b a i : Nat) : Bool :=
  partFlag s i b && decide (partBase s i ≤ a) && decide (a < partBase s i + partSize s i)

theorem find_congr {p q : Nat → Bool} {l : List Nat} (h : ∀ i ∈ l, p i = q i) : l.find? p = l.find? q := by
  induction l with
  | nil => rfl
  | cons i l ih => rw [List.find?_cons, List.find?_cons, h i (by simp), ih fun k hk => h k (by simp [hk])]

theorem inPartsF_congr (h : ∀ o, partReg o → reg t o = reg s o) (b k : Nat) : ∀ a n, inPartsF t b k a n = inPartsF s b k a n := by
  induction k with
  | zero => exact fun _ _ => rfl
  | succ k ih =>
    intro a n
    have hf : (List.range 16).find? (holds t b a) = (List.range 16).find? (holds s b a) := find_congr fun i hi => by
      obtain ⟨h1, h2, h3⟩ := partFlag_congr h (List.mem_range.1 hi) b
      rw [holds, holds, h1, h2, h3]
    rw [inPartsF, inPartsF]
    split
    · rfl
    · change (match (List.range 16).find? (holds t b a) with
        | none => false
        | some i => inPartsF t b k (a + min n (partBase t i + partSize t i - a)) (n - min n (partBase t i + partSize t i - a))) =
        match (List.range 16).find? (holds s b a) with
        | none => false
        | some i => inPartsF s b k (a + min n (partBase s i + partSize s i - a)) (n - min n (partBase s i + partSize s i - a))
      rw [hf]
      cases he : (List.range 16).find? (holds s b a) with
      | none => rfl
      | some i =>
        obtain ⟨-, h2, h3⟩ := partFlag_congr h (List.mem_range.1 (List.mem_of_find?_eq_some he)) b
        simp only [h2, h3, ih]

/-- The host's group and the management core's may write what their partitions hold. -/
theorem writeCheck_congr (h : ∀ o, partReg o → reg t o = reg s o) {grp : Nat} (hg : grp ≠ grp2d ∧ grp ≠ grpLossless) (a n : Nat) :
    writeCheck t grp a n = writeCheck s grp a n := by
  simp only [writeCheck, inParts, inPartsF_congr h, hg.1, hg.2, or_self, if_false]

theorem mayWrite_congr (h : ∀ o, partReg o → reg t o = reg s o) {grp a n : Nat} (hg : grp ≠ grp2d ∧ grp ≠ grpLossless)
    (hm : mayWrite s grp a n) : mayWrite t grp a n := fun b m h1 h2 h3 h4 => by
  rw [writeCheck_congr h hg]
  exact hm b m h1 h2 h3 h4

theorem mayWrite_sub {grp a n b m : Nat} (hm : mayWrite s grp a n) (h1 : a ≤ b) (h2 : b + m ≤ a + n) : mayWrite s grp b m :=
  fun c k hc hk hck hk' => hm c k (by omega) hk (by omega) hk'

end

/-! ### A client's write -/

section

variable {s t : State} {grp : Nat}

theorem Writes.parts {a : Nat} {data : Bytes} (h : Writes a data s t) : ∀ o, partReg o → reg t o = reg s o :=
  fun _ ho => h.changes.regs _ (not_rowReg_part ho)

theorem writes_clientLines (poison : Bool) (hg : grp ≠ grp2d ∧ grp ≠ grpLossless) {k a : Nat} {data : Bytes} {s : State}
    (hk : k = lineCount a data.length) (h : sound s a data.length) (hm : mayWrite s grp a data.length) :
    Writes a data s (clientLines grp poison k a data s) := by
  induction k generalizing a data s with
  | zero =>
    have hn : data.length = 0 := by
      by_contra hne
      rw [lineCount_eq (by omega)] at hk
      omega
    rw [List.length_eq_zero_iff.1 hn]
    exact .nil a s
  | succ k ih =>
    have hn : 0 < data.length := by
      rcases Nat.eq_zero_or_pos data.length with e | e
      · rw [e] at hk
        exact absurd hk (by simp [lineCount])
      · exact e
    have hfirst : Writes a (data.take (64 - a % 64)) s (lineWrite (a / 64) (a % 64) (data.take (64 - a % 64)) poison s) :=
      writes_lineWrite poison (by rw [List.length_take]; omega) (by rw [List.length_take]; omega) (h _ le_rfl (by omega))
    rw [lineCount_eq hn, Nat.succ_inj] at hk
    have ht : data.take (min data.length (64 - a % 64)) = data.take (64 - a % 64) := by
      by_cases hd : data.length ≤ 64 - a % 64
      · rw [List.take_of_length_le hd, List.take_of_length_le (show data.length ≤ min data.length (64 - a % 64) by omega)]
      · rw [show min data.length (64 - a % 64) = 64 - a % 64 by omega]
    rw [clientLines, if_pos (hm a (min data.length (64 - a % 64)) le_rfl (by omega) (by omega) (by omega)), ht]
    refine writes_step (poison := poison) hn h ?_
    by_cases hd : 64 - a % 64 ≤ data.length
    · rw [show min data.length (64 - a % 64) = 64 - a % 64 by omega]
      refine ih (by rw [List.length_drop]; exact hk) (sound_rest h hfirst) (mayWrite_congr (Writes.parts hfirst) hg (mayWrite_sub hm (by omega) ?_))
      rw [List.length_drop]
      omega
    · have e1 : data.drop (min data.length (64 - a % 64)) = [] := List.drop_eq_nil_of_le (by omega)
      have e2 : data.drop (64 - a % 64) = [] := List.drop_eq_nil_of_le (by omega)
      have ek : k = 0 := by rw [hk, show data.length - (64 - a % 64) = 0 by omega, lineCount, if_pos rfl]
      rw [ek, e1, e2]
      exact .nil _ _

theorem writes_clientWrite (poison : Bool) (hg : grp ≠ grp2d ∧ grp ≠ grpLossless) {a : Nat} {data : Bytes} (h : sound s a data.length)
    (hm : mayWrite s grp a data.length) : Writes a data s (clientWrite grp a data poison s) :=
  writes_clientLines poison hg rfl h hm

end

end Sys2Proof.Clients
end

section
/-! PROOFS. O50: the commands on the store. -/

namespace Sys2Proof.StoreCommands

set_option Elab.async false

open Machine HostPort Stray Kept Lasting Clients

section

variable {s t : State} {r : Nat} {d : Bytes}

/-! ### The state a command executes in -/

theorem reg_accepted (r : Nat) (d : Bytes) (s : State) {o : Nat} (h : o < 0x11008 ∨ 0x11080 ≤ o) : reg (accepted r d s) o = reg s o :=
  (changes_acceptFront r d (fresh s)).regs o (by unfold keyReg; omega)

theorem fld_accepted (r : Nat) (d : Bytes) (s : State) {f : Fld} (h : f.off < 0x11008 ∨ 0x11080 ≤ f.off) :
    fld (accepted r d s) f = fld s f := fld_congr_reg (reg_accepted r d s h)

theorem frame_accepted (r : Nat) (d : Bytes) (s : State) (p : Part) (h : p ∉ [Part.rings, .regs 0x02]) : Part.same (fresh s) (accepted r d s) p :=
  (changes_acceptFront r d (fresh s)).frame p h

/-- A ready command leaves what its run leaves, with what settling keeps. -/
theorem completes_runs {W : Nat → Prop} {c : Instr} {k : Cmd} {u : State} {P : State → Prop} (hW : ∀ o, W o → firmReg o)
    (hx : exec c s = done (runRing k r) s) (h : ready k r d (fresh s) = true)
    (hu : k.run (jobOf (.ring r s.flr (ring s r).errors) d) d (accepted r d s) = u) (hP : ∀ t, Stays W u t → P t) : Completes c s P := by
  refine completes_lasting hW hx fun t ht => hP t ?_
  rwa [runRing_ready h, show k.run (jobOf (.ring r (fresh s).flr (ring (fresh s) r).errors) d) d (acceptFront r d (fresh s)) = u from hu] at ht

/-! ### Writes -/

/-- No register matters. -/
abbrev noReg (_ : Nat) : Prop := False

theorem noReg_firm (o : Nat) (h : noReg o) : firmReg o := h.elim

theorem inStore_nvmWrite (w : NvmWr) (s : State) : InStore (nvmWrite w s) w := by
  have h := (lower_stays noReg_firm { s with nvmQueue := nvmEnqueue w s.nvmQueue }).nvmStart
    ((lower_stays noReg_firm { s with nvmQueue := nvmEnqueue w s.nvmQueue }).nvmFixQueue (.refl _))
  exact h.writes w (.inr ((mem_nvmEnqueue w _ w).2 (.inl rfl)))

theorem nvmHas_of_inStore {p : NvmWhy → Bool} {w : NvmWr} (h : InStore s w) (hp : p w.why = true) : nvmHas s p = true := by
  rw [nvmHas]
  rcases h with h | h
  · simp [h, hp]
  · rw [List.any_eq_true.2 ⟨w, h, hp⟩, Bool.true_or]

/-- A command that writes the store has its write running or waiting. -/
theorem completes_writes {c : Instr} {k : Cmd} {p : NvmWhy → Bool} (hx : exec c s = done (runRing k r) s) (h : ready k r d (fresh s) = true)
    (hu : ∃ w v, k.run (jobOf (.ring r s.flr (ring s r).errors) d) d (accepted r d s) = nvmWrite w v ∧ p w.why = true) :
    Completes c s (fun t => nvmHas t p = true) := by
  obtain ⟨w, v, hu, hp⟩ := hu
  exact completes_runs noReg_firm hx h hu fun _ ht => nvmHas_of_inStore (ht.writes w (inStore_nvmWrite w v)) hp

theorem imageWithin_accepted (r : Nat) (d : Bytes) (s : State) {i : Nat} (hi : i < 4) (lo up : Int) (n : Nat) :
    imageWithin (accepted r d s) i lo up n = imageWithin s i lo up n := by
  have himg : (accepted r d s).img = s.img := (frame_accepted r d s .structure (by decide)).1
  have huse : railInUse (accepted r d s) i = railInUse s i := by
    rw [railInUse, railInUse, fld_accepted r d s (by decide)]
  have hlens : ∀ b, lensVlcd (accepted r d s) b = lensVlcd s b := fun b => by
    simp only [lensVlcd, secNat, sec, himg]
  have hlim : fld (accepted r d s) (Reg.RAIL_CFG_ILIM i) = fld s (Reg.RAIL_CFG_ILIM i) :=
    fld_accepted r d s (by simp only [Reg.RAIL_CFG]; omega)
  have htgt : sfld (accepted r d s) (Reg.RAIL_CFG_TARGET i) = sfld s (Reg.RAIL_CFG_TARGET i) := by
    rw [sfld, sfld, fld_accepted r d s (by simp only [Reg.RAIL_CFG]; omega)]
  simp only [imageWithin, huse, hlens, hlim, htgt]

theorem railLimitsOk_accepted (r : Nat) (d : Bytes) (s : State) : railLimitsOk (accepted r d s) d = railLimitsOk s d := by
  unfold railLimitsOk
  extract_lets i
  by_cases hi : i < 4
  · simp only [imageWithin_accepted r d s hi]
  · simp only [hi, decide_false, Bool.false_and]

theorem completes_railLimits (h : ready cmdRailLimits r d s = true) (hd : isDark s = true) (ho : railLimitsOk s d = true) :
    Completes (.railLimits r) s (fun t => nvmHas t isRailWrite = true) := by
  have hlit : isLit (accepted r d s) = false := by
    have hl : lamp (accepted r d s) = lamp s := lamp_congr (fld_accepted r d s (by decide))
    rw [isLit, hl]
    simpa only [isDark, isLit, Bool.not_eq_true'] using hd
  refine completes_writes rfl h ?_
  show ∃ w v, railLimitsRun _ d (accepted r d s) = nvmWrite w v ∧ isRailWrite w.why = true
  rw [railLimitsRun, hlit, railLimitsOk_accepted, ho]
  exact ⟨_, _, rfl, rfl⟩

theorem completes_nvmProtect (h : ready cmdNvmProtect r d s = true) :
    Completes (.nvmProtect r) s (fun t => nvmHas t isProtection = true) :=
  completes_writes rfl h ⟨_, _, rfl, rfl⟩

theorem completes_nvmPassword (h : ready cmdNvmPassword r d s = true)
    (hop : dByte d 4 = 1 ∨ dByte d 4 = 0 ∧ allZero (sliceB d 8 16) = false) :
    Completes (.nvmPassword r) s (fun t => nvmHas t isProtection = true) := by
  have hrun : ∀ j u, ∃ bp digest pw, nvmPasswordRun j d u = protectWrite bp digest j pw u := fun j u => by
    unfold nvmPasswordRun
    rcases hop with h1 | ⟨h0, hz⟩
    · exact ⟨_, _, _, by rw [if_neg (by simp [h1]), if_neg (by simp [h1])]⟩
    · exact ⟨_, _, _, by rw [if_neg (by simp [h0, hz]), if_pos h0]⟩
  obtain ⟨bp, digest, pw, he⟩ := hrun (jobOf (.ring r s.flr (ring s r).errors) d) (accepted r d s)
  exact completes_writes rfl h ⟨_, _, he, rfl⟩

theorem completes_chainPin (h : ready cmdChainPin r d s = true)
    (hop : dByte d 4 = 1 ∨ dByte d 4 = 0 ∧ dByte d 5 ≠ 0 ∧ dByte d 5 ≠ 255) :
    Completes (.chainPin r) s (fun t => nvmHas t isPinWrite = true) := by
  refine completes_writes rfl h ?_
  show ∃ w v, chainPinRun _ d (accepted r d s) = nvmWrite w v ∧ isPinWrite w.why = true
  unfold chainPinRun
  extract_lets op a v
  rw [if_neg (by omega)]
  exact ⟨_, _, rfl, rfl⟩

/-! ### Keys -/

/-- The registers of slot `k`'s state. -/
def slotReg (k o : Nat) : Prop := o = (Reg.CMD_KEY_STAT_BUSY k).off

theorem firm_slotReg {k : Nat} (hk : k < 4) (o : Nat) (h : slotReg k o) : firmReg o := by
  simp only [slotReg, Reg.CMD_KEY_STAT] at h
  unfold firmReg
  omega

theorem lower_keyNextWrite {R : Prop} {P : State → Prop} (hP : Lower R P) {p : KeyPend} (h : P s) : P (keyNextWrite p s) := by
  unfold keyNextWrite
  split
  · exact hP.nvmWrite h
  · split
    · exact hP.nvmWrite h
    · exact hP.nvmWrite h

/-- A key change that starts keeps its slot busy and waits for its writes. -/
theorem completes_startKey {c : Instr} {k : Cmd} {n : Nat} (hn : n < 4) (hx : exec c s = done (runRing k r) s)
    (h : ready k r d (fresh s) = true)
    (hu : ∃ key permit, k.run (jobOf (.ring r s.flr (ring s r).errors) d) d (accepted r d s) =
      startKey ⟨n, jobOf (.ring r s.flr (ring s r).errors) d, key, permit⟩ (accepted r d s)) :
    Completes c s (fun t => slotBusy t n = true ∧ ∃ q, keyPending t n = some q) := by
  obtain ⟨key, permit, hu⟩ := hu
  generalize hp : KeyPend.mk n (jobOf (.ring r s.flr (ring s r).errors) d) key permit = p at hu
  obtain rfl : p.slot = n := by rw [← hp]
  refine completes_runs (firm_slotReg hn) hx h hu fun t ht => ?_
  obtain hk := (lower_keyNextWrite (lower_stays (firm_slotReg hn) _) (p := p) (.refl _)).trans ht
  constructor
  · rw [slotBusy, flag, fld_congr_reg (hk.regs _ rfl), fld_setFld_self _ 1 (by decide)]
    rfl
  · rw [keyPending, hk.keys, ← Option.isSome_iff_exists, List.find?_isSome]
    exact ⟨p, List.mem_append_right _ (List.mem_singleton_self p), decide_eq_true rfl⟩

theorem completes_keyRotate (h : ready cmdKeyRotate r d s = true) (hs : dSlot d = dByte d 4) :
    Completes (.keyRotate r) s (fun t => slotBusy t (dByte d 4) = true ∧ ∃ p, keyPending t (dByte d 4) = some p) := by
  refine completes_startKey (hs ▸ dSlot_lt d) rfl h ?_
  have he : ∀ j u, j.slot = dByte d 4 → ∃ key permit, keyRotateRun j d u = startKey ⟨dByte d 4, j, key, permit⟩ u := fun j u hj =>
    ⟨_, _, if_neg (not_not.2 hj)⟩
  exact he _ _ hs

/-- A KEY_LOAD that is none of R433's provisioning descriptors is authenticated like any command. -/
theorem exec_keyLoad (hp : klPlain d = false) (h : ready cmdKeyLoad r d s = true) :
    exec (.keyLoad r) s = done (runRing cmdKeyLoad r) s := by
  have he : ringKeyLoad r (fresh s) = runRing cmdKeyLoad r (fresh s) := by
    have hfront : (ring (fresh s) r).taken.head? = some d := by
      simp only [ready, Bool.and_eq_true, decide_eq_true_eq] at h
      obtain ⟨⟨⟨⟨⟨⟨⟨-, hh⟩, -⟩, -⟩, -⟩, -⟩, -⟩, -⟩ := h
      exact hh
    obtain ⟨ds, ht⟩ := List.head?_eq_some_iff.1 hfront
    simp only [ringKeyLoad, ht, isProvisioning, hp, Bool.false_and, Bool.and_false, Bool.false_eq_true, if_false]
  show done (ringKeyLoad r) s = _
  rw [done, done, he]

theorem completes_keyLoad (h : ready cmdKeyLoad r d s = true) (hb : klBodyOk d = true) (hc : klClear d = true) (hp : klPlain d = false)
    (ht : klTarget d < 4) (hs : dSlot d = klTarget d ∨ dSlot d = 1) (hsrc : klSrc d = 0) (hdig : allZero (klDigest d) = true)
    (hperm : klPermit d = 0) : Completes (.keyLoad r) s (fun t => slotBusy t (klTarget d) = true ∧ ∃ p, keyPending t (klTarget d) = some p) := by
  have hslot : ¬ (dSlot d ≠ klTarget d ∧ dSlot d ≠ 1) := by omega
  have hlt : ¬ 3 < klTarget d := by omega
  refine completes_startKey ht (exec_keyLoad hp h) h ⟨none, 0, ?_⟩
  show keyLoadRun _ d _ = _
  unfold keyLoadRun
  extract_lets k
  rw [if_neg (by simp [jobOf, k, hb, hc, hp, hsrc, hdig, hperm, hslot, hlt, subMask]), if_neg (by simp [hc, hp]), if_pos hc]

/-! ### NVM_READ -/

theorem accessStatus_congr (h : fld t Reg.NVM_STAT_SESSION = fld s Reg.NVM_STAT_SESSION) (h' : fld t Reg.NVM_STAT_PW_SET = fld s Reg.NVM_STAT_PW_SET)
    (a : Access) : accessStatus t a = accessStatus s a := by
  have hok : sessionOk t = sessionOk s := by rw [sessionOk, sessionOk, flag, flag, flag, flag, h, h']
  cases a with
  | allowed => rfl
  | refused => rfl
  | session => rw [accessStatus, accessStatus, hok]

theorem accessStatus_accepted (r : Nat) (d : Bytes) (s : State) (a : Access) : accessStatus (accepted r d s) a = accessStatus s a :=
  accessStatus_congr (fld_accepted r d s (by decide)) (fld_accepted r d s (by decide)) a

theorem pageBusy_accepted (r : Nat) (d : Bytes) (s : State) (p : Nat) : pageBusy (accepted r d s) p = pageBusy s p := by
  obtain ⟨-, -, hrun, -, hlens, -⟩ := frame_accepted r d s .store (by decide)
  rw [pageBusy, pageBusy, hrun, hlens]
  rfl

theorem inParts_accepted (r : Nat) (d : Bytes) (s : State) (b a n : Nat) : inParts (accepted r d s) b a n = inParts s b a n :=
  inPartsF_congr (fun o ho => reg_accepted r d s (by simp only [partReg] at ho; omega)) b 17 a n

theorem completes_nvmRead (h : ready cmdNvmRead r d s = true) (h1 : 1 ≤ nrLen d) (h2 : nrLen d ≤ 65536) (h3 : nrOff d + nrLen d ≤ 2097152)
    (hin : inParts s (grantBit grpMgmt) (nrDst d) (nrLen d) = true)
    (hpages : ((pagesOf (nrOff d) (nrLen d)).all fun p => decide (accessStatus s (pageRead p) = none) && !pageBusy s p) = true) :
    Completes (.nvmRead r) s (fun t => t.nvmReads = s.nvmReads ++ [(jobOf (.ring r s.flr (ring s r).errors) d, d)]) := by
  have hreads : (accepted r d s).nvmReads = s.nvmReads := by
    obtain ⟨-, -, -, -, -, -, -, -, -, -, hr⟩ := frame_accepted r d s .store (by decide)
    exact hr
  simp only [List.all_eq_true, Bool.and_eq_true, decide_eq_true_eq, Bool.not_eq_true'] at hpages
  have hfree : (pagesOf (nrOff d) (nrLen d)).findSome? (fun p => accessStatus (accepted r d s) (pageRead p)) = none :=
    List.findSome?_eq_none_iff.2 fun p hp => (accessStatus_accepted r d s _).trans (hpages p hp).1
  have hidle : (pagesOf (nrOff d) (nrLen d)).any (pageBusy (accepted r d s)) = false :=
    List.any_eq_false.2 fun p hp => by rw [pageBusy_accepted, (hpages p hp).2]; decide
  refine completes_runs (u := { accepted r d s with nvmReads := (accepted r d s).nvmReads ++ [(jobOf (.ring r s.flr (ring s r).errors) d, d)] })
    noReg_firm rfl h ?_ fun t ht => ht.reads.trans (by rw [← hreads])
  show nvmReadRun _ d _ = _
  unfold nvmReadRun
  extract_lets o n p
  have hgo : ¬ (n = 0 ∨ 65536 < n ∨ 2097152 < o + n ∨ (!inParts (accepted r d s) (grantBit grpMgmt) (nrDst d) n) = true) := by
    rw [inParts_accepted]
    simp only [n, o, hin, Bool.not_true, Bool.false_eq_true, or_false]
    omega
  rw [if_neg hgo]
  simp only [o, n, hfree, hidle, Bool.false_eq_true, if_false]
  rfl

/-! ### NVM_WRITE -/

theorem completes_nvmWrite (h : ready cmdNvmWrite r d s = true) (h1 : 1 ≤ nrLen d) (h2 : nrOff d % 256 + nrLen d ≤ 256)
    (h3 : nrOff d + nrLen d ≤ 2097152) (hacc : accessStatus s (pageWrite s (nrOff d / 256)) = none) (ho : nrOff d % 8 = 0) (hn : nrLen d % 8 = 0) :
    Completes (.nvmWrite r) s (fun t => ∃ w, (t.nvmRun = some w ∨ w ∈ t.nvmQueue) ∧ w.page = nrOff d / 256 ∧ w.off = nrOff d % 256 ∧
      w.data.length = nrLen d ∧ w.why = .host (jobOf (.ring r s.flr (ring s r).errors) d)) := by
  have hpage : pageWrite (accepted r d s) (nrOff d / 256) = pageWrite s (nrOff d / 256) := by
    have hb : blockProtected (accepted r d s) (nrOff d / 256) = blockProtected s (nrOff d / 256) := by
      rw [blockProtected, blockProtected, fld_accepted r d s (by decide)]
    rw [pageWrite, pageWrite, hb]
  generalize hm : memRead grpMgmt (nrDst d) (nrLen d) (accepted r d s) = m
  have hlen : m.2.1.length = nrLen d := by
    rw [← hm, memRead]
    simp [sliceB]
  refine completes_runs (u := nvmWrite ⟨nrOff d / 256, nrOff d % 256, m.2.1, 5, .host (jobOf (.ring r s.flr (ring s r).errors) d)⟩ m.1)
    noReg_firm rfl h ?_ fun t ht => ⟨_, ht.writes _ (inStore_nvmWrite _ _), rfl, rfl, hlen, rfl⟩
  show nvmWriteRun _ d _ = _
  have hmerge : ∀ o u, o % 8 = 0 → mergeRead o u = u := fun o u ho => if_pos (.inl ho)
  have hlost : ∀ u, partLost u (nrOff d) (nrLen d) = false := fun u => by
    simp [partLost, ho, show (nrOff d + nrLen d) % 8 = 0 by omega]
  unfold nvmWriteRun
  extract_lets o n p u v m'
  have hu : u = accepted r d s := hmerge _ _ ho
  have hv : v = accepted r d s := by
    show (if _ then _ else _) = _
    rw [if_neg (not_and_of_not_left _ (not_not.2 ho)), hu]
    exact hmerge _ _ (by omega)
  have hm' : m' = m := by rw [← hm, ← hv]
  have hgo : ¬ (n = 0 ∨ 256 < n ∨ 2097152 < o + n ∨ 256 < o % 256 + n) := by omega
  rw [if_neg hgo, accessStatus_accepted, show p = nrOff d / 256 from rfl, hpage, hacc, hm']
  exact if_neg (by rw [hlost]; decide)

/-! ### A copy finishes -/

/-- Groups that read without error are read and nothing else happens (R502). -/
theorem nvmTouch_clean {reader off n : Nat} (h : ∀ g, off / 8 ≤ g → 8 * g < off + n → tblGet 0 s.nvmBad g = 0) :
    nvmTouch reader off n s = s := by
  unfold nvmTouch
  split
  · rfl
  · refine forAll_keeps (· = s) _ _ (fun g hg u hu => ?_) _ rfl
    obtain ⟨p, hp, rfl⟩ := List.mem_map.1 hg
    have hr : off / 8 ≤ p.1 ∧ p.1 ≤ (off + n - 1) / 8 := by simpa using (List.mem_filter.1 hp).2
    rw [hu, nvmGroupRead, h p.1 hr.1 (by omega)]
    rfl

theorem nvmAnyLost_clean {off n : Nat} (h : ∀ g, off / 8 ≤ g → 8 * g < off + n → tblGet 0 s.nvmBad g = 0) :
    nvmAnyLost s off n = false := by
  rcases Nat.eq_zero_or_pos n with rfl | hn
  · rfl
  · rw [nvmAnyLost, Bool.and_eq_false_iff]
    refine .inr (List.any_eq_false.2 fun i hi => ?_)
    have hlt := List.mem_range.1 hi
    rw [nvmLost, h (off / 8 + i) (by omega) (by omega)]
    decide

theorem nvm_of_writes {a : Nat} {data : Bytes} (h : Writes a data s t) : t.nvm = s.nvm := (h.changes.frame .store (by decide)).1

theorem nvmBytes_length (s : State) (off n : Nat) : (nvmBytes s off n).length = n := tblGetRun_length _ _ _ _

theorem take_nvmBytes (s : State) (off : Nat) {m n : Nat} (h : m ≤ n) : (nvmBytes s off n).take m = nvmBytes s off m := by
  have ha := tblGetRun_append s.nvm off m (n - m)
  rw [Nat.add_sub_cancel' h] at ha
  rw [nvmBytes, ← ha]
  exact List.take_left' (tblGetRun_length _ _ _ _)

theorem drop_nvmBytes (s : State) (off : Nat) {m n : Nat} (h : m ≤ n) : (nvmBytes s off n).drop m = nvmBytes s (off + m) (n - m) := by
  have ha := tblGetRun_append s.nvm off m (n - m)
  rw [Nat.add_sub_cancel' h] at ha
  rw [nvmBytes, ← ha]
  exact List.drop_left' (tblGetRun_length _ _ _ _)

/-- The copy stores the array's bytes, line after line. -/
theorem writes_nvmCopy {k off dst n : Nat} {s : State} (hk : n < k) (h : sound s dst n) (hm : mayWrite s grpMgmt dst n) :
    Writes dst (nvmBytes s off n) s (nvmCopy k off dst n s) := by
  induction k generalizing off dst n s with
  | zero => omega
  | succ k ih =>
    rw [nvmCopy]
    rcases Nat.eq_zero_or_pos n with rfl | hn
    · exact .nil dst s
    rw [if_neg (by omega)]
    extract_lets m
    have hmn : m ≤ n := Nat.min_le_left _ _
    have hfirst : Writes dst (nvmBytes s off m) s (clientWrite grpMgmt dst (nvmBytes s off m) (nvmAnyLost s off m) s) := by
      refine writes_clientWrite _ (by decide) ?_ ?_
      · rw [nvmBytes_length]
        exact fun line h1 h2 => h line h1 (by omega)
      · rw [nvmBytes_length]
        exact mayWrite_sub hm le_rfl (by omega)
    generalize hu : clientWrite grpMgmt dst (nvmBytes s off m) (nvmAnyLost s off m) s = u at hfirst ⊢
    rw [← take_nvmBytes s off hmn] at hfirst
    refine hfirst.append ?_ (by rw [nvmBytes_length]; exact hmn)
    rw [drop_nvmBytes s off hmn]
    have hnvm : nvmBytes u (off + m) (n - m) = nvmBytes s (off + m) (n - m) := by rw [nvmBytes, nvm_of_writes hfirst]; rfl
    rw [← hnvm]
    rcases Nat.eq_zero_or_pos (n - m) with h0 | h0
    · rw [h0]
      have hz : nvmCopy k (off + m) (dst + m) 0 u = u := by
        cases k with
        | zero => rfl
        | succ k => rw [nvmCopy, if_pos rfl]
      rw [hz]
      exact .nil _ _
    · have hline : m = 64 - dst % 64 := by omega
      refine ih (by omega) (fun line h1 h2 => ?_) (mayWrite_congr (Clients.Writes.parts hfirst) (by decide) (mayWrite_sub hm (by omega) (by omega)))
      refine hfirst.placing.soundLine (hfirst.errs line ?_) (h line (by omega) (by omega))
      rw [List.length_take, nvmBytes_length]
      omega

/-- A copy's command completes, and settling keeps device memory. -/
theorem stays_nvmComplete (j : Job) (st value page : Nat) (s : State) : Stays noReg s (nvmComplete j st value page s) := by
  have hl := (lower_stays noReg_firm s).low
  unfold nvmComplete
  extract_lets cap s1 s2
  exact hl.complete (iteK (fun _ => hl.raise (iteK (fun _ => hl.raise (.refl s)) fun _ => .refl s))
    fun _ => iteK (fun _ => hl.raise (.refl s)) fun _ => .refl s)

theorem completed_of_prefix {tag op st detail : Nat} (h : s.out <+: t.out) (hc : completed tag op st detail s = true) :
    completed tag op st detail t = true := by
  obtain ⟨e, he, hp⟩ := List.any_eq_true.1 hc
  exact List.any_eq_true.2 ⟨e, h.subset he, hp⟩

/-- An open job is open where link, rings and resets are as they were. -/
theorem jobOpen_of_same {j : Job} (h : jobOpen s j = true) (hl : fld t Reg.HOST_LINK_MODE = fld s Reg.HOST_LINK_MODE) (hf : t.flr = s.flr)
    (hr : t.rings = s.rings) : jobOpen t j = true := by
  rw [← h]
  unfold jobOpen openRing ring
  rw [hl, hf, hr]

theorem completed_nvmComplete {j : Job} (h : jobOpen s j = true) (value page : Nat) :
    completed j.tag j.opcode stOK 0 (nvmComplete j 0 value page s) = true := by
  unfold nvmComplete
  extract_lets cap s1 s2
  have h1 : Changes eventParts eventReg s s1 := by
    show Changes eventParts eventReg s (if _ then _ else _)
    split
    · exact changes_raise evNvmDone cap s (by decide)
    · exact .refl s
  have he : s2 = s1 := if_neg (by omega)
  rw [he]
  have ho : jobOpen s1 j = true := jobOpen_of_same h (h1.fld_eq (not_eventReg (by decide) (by decide))) (h1.frame .resets (by decide))
    (h1.frame .rings (by decide)).1
  exact (complete_effect ho value (by decide) (by decide)).2 _ (.refl _)

theorem completes_copy {j : Job} {e : Bytes} {l : List (Job × Bytes)} (h : s.nvmReads = (j, e) :: l) :
    Completes .nvmReadCopyDone s (fun t => t.nvmReads = l ∧
      (1 ≤ nrLen e → (∀ g, nrOff e / 8 ≤ g → 8 * g < nrOff e + nrLen e → tblGet 0 s.nvmBad g = 0) →
        mayWrite s grpMgmt (nrDst e) (nrLen e) → sound s (nrDst e) (nrLen e) →
        Stored (nrDst e) (nvmBytes s (nrOff e) (nrLen e)) s t ∧
        (jobOpen s j = true → completed j.tag j.opcode stOK 0 t = true))) := by
  refine completes_lasting noReg_firm (f := nvmReadCopyDone) rfl fun t ht => ?_
  have he : ∀ p, p = { fresh s with nvmReads := l } → nvmReadCopyDone (fresh s) =
      nvmComplete j (if nvmAnyLost (nvmTouch 1 (nrOff e) (nrLen e) p) (nrOff e) (nrLen e) then 0x86 else 0x00) (nrLen e) (nrOff e / 256)
        (nvmCopy (nrLen e + 1) (nrOff e) (nrDst e) (nrLen e) (nvmTouch 1 (nrOff e) (nrLen e) p)) := by
    rintro _ rfl
    rw [nvmReadCopyDone, show (fresh s).nvmReads = (j, e) :: l from h]
  rw [he _ rfl] at ht
  generalize hp : ({ fresh s with nvmReads := l } : State) = p at ht
  have hreads : p.nvmReads = l := by rw [← hp]
  have hbad : p.nvmBad = s.nvmBad := by rw [← hp]; rfl
  have hregs : ∀ o, reg p o = reg s o := fun o => by rw [← hp]; rfl
  have hmem : p.mem = s.mem ∧ p.nvm = s.nvm ∧ p.dram = s.dram ∧ p.flr = s.flr ∧ p.rings = s.rings := by rw [← hp]; exact ⟨rfl, rfl, rfl, rfl, rfl⟩
  clear hp he h
  obtain ⟨hmem, hnvm, hdram, hflr, hrings⟩ := hmem
  refine ⟨?_, fun _ hclean hmay hsound => ?_⟩
  · have hm := mem_lasts noReg_firm p
    have hu := hm.nvmCopy (a0 := nrLen e + 1) (a1 := nrOff e) (a2 := nrDst e) (a3 := nrLen e)
      (hm.nvmTouch (reader := 1) (off := nrOff e) (n := nrLen e) (.refl p))
    exact ((hu.trans (stays_nvmComplete j _ _ _ _).toLasts).trans ht.toLasts).reads.trans hreads
  · have hc : ∀ g, nrOff e / 8 ≤ g → 8 * g < nrOff e + nrLen e → tblGet 0 p.nvmBad g = 0 := hbad ▸ hclean
    rw [nvmTouch_clean hc, nvmAnyLost_clean hc] at ht
    have hw : Writes (nrDst e) (nvmBytes p (nrOff e) (nrLen e)) p (nvmCopy (nrLen e + 1) (nrOff e) (nrDst e) (nrLen e) p) := by
      have hplace : Placing s p := ⟨fun o _ => hregs o, by rw [hdram]⟩
      exact writes_nvmCopy (Nat.lt_succ_self _) (fun line h1 h2 => hplace.soundLine (by rw [hdram]) (hsound line h1 h2))
        (mayWrite_congr (fun o _ => hregs o) (by decide) hmay)
    have hs := (stays_nvmComplete j 0 (nrLen e) (nrOff e / 256) _).trans ht
    refine ⟨fun b => ?_, fun hj => ?_⟩
    · rw [hs.mem, hw.stored b, hmem, nvmBytes, hnvm]
      rfl
    · refine completed_of_prefix ht.out (completed_nvmComplete ?_ _ _)
      have hjp : jobOpen p j = true := jobOpen_of_same hj (fld_congr_reg (hregs _)) hflr hrings
      exact jobOpen_of_same hjp (hw.changes.fld_eq (not_rowReg (by decide))) (hw.changes.frame .resets (by decide))
        (hw.changes.frame .rings (by decide)).1

end

/-- Settles O50, a command at a time. -/
theorem storeCommandsQueueTheirWrites : Obligations.StoreCommandsQueueTheirWrites := by
  unfold Obligations.StoreCommandsQueueTheirWrites
  exact fun s r d _ => ⟨completes_railLimits, completes_nvmProtect, completes_nvmPassword, completes_chainPin, completes_keyRotate,
    completes_keyLoad, completes_nvmRead, fun j e l => completes_copy, completes_nvmWrite⟩

end Sys2Proof.StoreCommands
end

section
/-! PROOFS. What the reel's own moves change: its cursor, its level, its play state. -/

namespace Sys2Proof.Reel

set_option Elab.async false

open Machine HostPort Stray Rails Kept Lasting Clients StoreCommands

/-- The kinds of state that the reel's moves change. -/
def reelParts : List Part := [.reel, .regs 0x06, .regs 0x07, .regs 0x08] ++ eventParts

/-- The registers of the reel, of the layer decoder and of the lossless engine, and those of events. -/
def reelReg (o : Nat) : Prop := 0x100000 ≤ o ∧ o < 0x150000 ∨ eventReg o

section

variable {s t u : State}

theorem changes_reel {w : Nat → Prop} (s : State) (x : ReelState) : Changes reelParts w s { s with reel := x } :=
  changes_of_frame (fun p hq => by cases p <;> first | exact absurd (by decide) hq | exact fun _ _ _ => rfl | rfl | simp [Part.same]) rfl rfl

theorem changes_reelFld (s : State) (f : Fld) (v : Nat) (h : blockOf f.off ∈ [6, 7, 8] ∧ 0x100000 ≤ f.off ∧ f.off < 0x150000) :
    Changes reelParts reelReg s (setFld s f v) := by
  refine changes_setFld s f v ?_ (.inl h.2) (by simp only [Reg.GEN_STATE]; omega)
  have hb := h.1
  simp only [List.mem_cons, List.not_mem_nil, or_false] at hb
  rcases hb with hb | hb | hb <;> rw [hb] <;> decide

theorem not_reelReg {o : Nat} (h : ¬ (0x48 ≤ o ∧ o ≤ 0x50)) (k : o < 0x100000 ∨ 0x150000 ≤ o ∧ (o < 0x3E0100 ∨ 0x3E0120 ≤ o) ∧ o < 0x3E1000) :
    ¬ reelReg o := by
  rintro (hr | hr)
  · omega
  · exact not_eventReg (by omega) (by omega) hr

/-! ### The level -/

/-- The level is read again: REEL_LEVEL and REEL_STATE.LOW_ARMED may change, and REEL_LOW may be raised (R121, R122). -/
structure Checked (s t : State) : Prop where
  changes : Changes ([.regs 0x06] ++ eventParts) (fun o => o = Reg.REEL_STATE ∨ o = Reg.REEL_LEVEL ∨ eventReg o) s t
  state : playState t = playState s

theorem Checked.refl (s : State) : Checked s s := ⟨.refl s, rfl⟩

theorem Checked.trans (h : Checked s t) (k : Checked t u) : Checked s u := ⟨h.changes.trans k.changes, k.state.trans h.state⟩

theorem Checked.reel (h : Checked s t) : Changes reelParts reelReg s t :=
  h.changes.mono (by decide) fun o ho => by
    rcases ho with rfl | rfl | ho
    · exact .inl (by decide)
    · exact .inl (by decide)
    · exact .inr ho

theorem Checked.reg (h : Checked s t) {o : Nat} (ho : 0x100000 ≤ o ∧ o < 0x150000) (h1 : o ≠ Reg.REEL_STATE) (h2 : o ≠ Reg.REEL_LEVEL) :
    reg t o = reg s o :=
  h.changes.regs o fun hc => by
    rcases hc with hc | hc | hc
    · exact h1 hc
    · exact h2 hc
    · exact not_eventReg (by omega) (by omega) hc

theorem checked_raise (cs : List Cap) (s : State) : Checked s (raise evReelLow cs s) := by
  have hr := changes_raise evReelLow cs s (by decide)
  exact ⟨hr.mono (by decide) fun _ ho => .inr (.inr ho), hr.fld_eq (not_eventReg (by decide) (by decide))⟩

theorem checked_armed (s : State) (v : Nat) : Checked s (setFld s Reg.REEL_STATE_LOW_ARMED v) :=
  ⟨changes_setFld s _ v (by decide) (.inl rfl) (by decide),
    fld_setFld_ne s Reg.REEL_STATE_LOW_ARMED Reg.REEL_STATE_STATE v ⟨by decide, by decide⟩ (by decide) (.inr (.inl (by decide)))⟩

theorem checked_level (s : State) (v : Nat) : Checked s (setFld s Reg.REEL_LEVEL_LEVEL v) :=
  ⟨changes_setFld s _ v (by decide) (.inr (.inl rfl)) (by decide), fld_congr_reg (reg_setFld_ne s v (by decide))⟩

theorem checked_lowNow (s : State) : Checked s (lowNow s) := by
  unfold lowNow
  split
  · exact (checked_armed s 0).trans (checked_raise _ _)
  · exact .refl s

theorem checked_reelCheck (s : State) : Checked s (reelCheck s) := by
  unfold reelCheck
  extract_lets old v s1 high s2
  have h1 : Checked s s1 := checked_level s v
  have h2 : Checked s s2 := by
    show Checked s (if _ then _ else _)
    split
    · exact h1.trans (checked_armed s1 1)
    · exact h1
  split
  · exact h2.trans (checked_lowNow s2)
  · exact h2

/-! ### Play state and cursor -/

/-- The cursor stands at span `n`, offset `o`. -/
def CursorAt (n o : Nat) (s : State) : Prop := fld s Reg.REEL_CURSOR_SPAN = n ∧ fld s Reg.REEL_CURSOR_OFFSET = o

theorem cursorAt_congr {n o : Nat} (h : reg t Reg.REEL_CURSOR = reg s Reg.REEL_CURSOR) (hc : CursorAt n o s) : CursorAt n o t :=
  ⟨(fld_congr_reg h).trans hc.1, (fld_congr_reg h).trans hc.2⟩

theorem enterPlaying_effect (s : State) : Changes reelParts reelReg s (enterPlaying s) ∧ playState (enterPlaying s) = plPlaying ∧
    reg (enterPlaying s) Reg.REEL_CURSOR = reg s Reg.REEL_CURSOR := by
  have hp : playState (setFld s Reg.REEL_STATE_STATE plPlaying) = plPlaying := by
    rw [playState, fld_setFld_self _ _ (by decide)]
    rfl
  have hc : Checked (setFld s Reg.REEL_STATE_STATE plPlaying) (enterPlaying s) := (checked_reelCheck _).trans (checked_lowNow _)
  exact ⟨(changes_reelFld s _ _ (by decide)).trans hc.reel, hc.state.trans hp,
    (hc.reg (by decide) (by decide) (by decide)).trans (reg_setFld_ne s _ (by decide))⟩

/-- A move of the reel that leaves the play state. -/
structure Moves (s t : State) : Prop where
  changes : Changes reelParts reelReg s t
  state : playState t = playState s

theorem Moves.trans (h : Moves s t) (k : Moves t u) : Moves s u := ⟨h.changes.trans k.changes, k.state.trans h.state⟩

theorem moves_reel (s : State) (x : ReelState) : Moves s { s with reel := x } := ⟨changes_reel s x, rfl⟩

theorem moves_setFld (s : State) (f : Fld) (v : Nat)
    (h : (blockOf f.off ∈ [6, 7, 8] ∧ 0x100000 ≤ f.off ∧ f.off < 0x150000) ∧ Reg.REEL_STATE ≠ f.off) : Moves s (setFld s f v) :=
  ⟨changes_reelFld s f v h.1, fld_congr_reg (reg_setFld_ne s v h.2)⟩

theorem Checked.moves (h : Checked s t) : Moves s t := ⟨h.reel, h.state⟩

theorem setCursor_effect (n o : Nat) (s : State) : Moves s (setCursor n o s) ∧ CursorAt (n % 65536) (o % 2 ^ 32) (setCursor n o s) := by
  have hc := checked_reelCheck (setFld (setFld s Reg.REEL_CURSOR_SPAN n) Reg.REEL_CURSOR_OFFSET o)
  refine ⟨((moves_setFld s _ n (by decide)).trans (moves_setFld _ _ o (by decide))).trans hc.moves,
    cursorAt_congr (hc.reg (by decide) (by decide) (by decide)) ⟨?_, ?_⟩⟩
  · rw [fld_setFld_ne _ Reg.REEL_CURSOR_OFFSET Reg.REEL_CURSOR_SPAN _ ⟨by decide, by decide⟩ (by decide) (.inr (.inr (by decide))),
      fld_setFld_self _ _ (by decide)]
    rfl
  · rw [fld_setFld_self _ _ (by decide)]

theorem moves_setNc (x : Option Decode) (s : State) : Moves s (setNc x s) := by
  unfold setNc fixPipe0 fixNc
  refine .trans ?_ (moves_setFld _ _ _ (by decide))
  split
  · exact (((moves_reel s _).trans (moves_setFld _ _ _ (by decide))).trans (moves_setFld _ _ _ (by decide))).trans (moves_setFld _ _ _ (by decide))
  · exact (((moves_reel s _).trans (moves_setFld _ _ _ (by decide))).trans (moves_setFld _ _ _ (by decide))).trans (moves_setFld _ _ _ (by decide))

theorem moves_setToff (d : Bytes) (s : State) : Moves s (setToff d s) :=
  ⟨changes_setReg s Reg.REEL_TOFF _ (by decide) (.inl (by decide)) (by decide), fld_congr_reg (reg_setReg_ne s _ (by decide))⟩

/-- The cursor moves to the target of a PLAY or SEEK. -/
theorem reelMove_effect (d : Bytes) (still : Bool) (s : State) :
    Moves s (reelMove d still s) ∧ CursorAt (leAt d 6 2) (leAt d 8 4) (reelMove d still s) := by
  unfold reelMove
  extract_lets s1 x s2
  have h2 : Moves s s2 := (moves_setNc none s).trans (moves_reel s1 _)
  obtain ⟨hm, hc⟩ := setCursor_effect (leAt d 6 2) (leAt d 8 4) (setToff d s2)
  rw [Nat.mod_eq_of_lt (show leAt d 6 2 < 65536 from leAt_lt d 6 2), Nat.mod_eq_of_lt (show leAt d 8 4 < 2 ^ 32 from leAt_lt d 8 4)] at hc
  exact ⟨(h2.trans (moves_setToff d s2)).trans hm, hc⟩

/-! ### The light -/

/-- The registers of a start of the light. -/
def startReg (o : Nat) : Prop := seqReg o ∨ lightWrite o

/-- The kinds of state that a start of the light changes. -/
def startParts : List Part := railParts ++ lightParts

/-- The light is waited for, started, or waits for its rails (R533). -/
structure Lights (s t : State) : Prop where
  changes : Changes startParts startReg s t
  steady : Steady s → Steady t

theorem lights_moved (h : Moved s t) : Lights s t :=
  ⟨h.changes.mono (by decide) fun _ ho => .inl ho, h.steady⟩

theorem lights_wanted (s : State) : Lights s { s with wantLight := true } :=
  ⟨changes_of_frame (fun p hq => by cases p <;> first | exact absurd (by decide) hq | exact fun _ _ _ => rfl | rfl | simp [Part.same]) rfl rfl,
    fun h => ⟨h.act, h.orderly, h.halted, h.lens, h.vrm⟩⟩

theorem lights_ifReady (s : State) : Lights s (lightIfReady s) :=
  ⟨(changes_lightIfReady s).mono (by decide) fun _ ho => .inr ho, fun h => steady_of_settled h.settled_lightIfReady⟩

theorem Lights.trans (h : Lights s t) (k : Lights t u) : Lights s u := ⟨h.changes.trans k.changes, k.steady ∘ h.steady⟩

theorem lights_railsUp (s : State) : Lights s (railsUp false true s) := by
  unfold railsUp
  extract_lets u start
  rw [if_neg (by simp)]
  split
  · next hn =>
    obtain ⟨k, hk⟩ := Option.isSome_iff_exists.1 ((Bool.true_and _).symm.trans hn)
    rw [show start = upBegun s from rfl, upNext_some ((nextUp_upBegun s).trans hk)]
    exact lights_moved ((moved_upBegun s).trans (moved_setRail _ _ _))
  · exact lights_ifReady s

theorem lights_playLights (s : State) : Lights s (playLights s) := by
  unfold playLights
  split
  · extract_lets s1
    split
    · exact (lights_wanted s).trans (lights_railsUp s1)
    · exact lights_wanted s
  · exact ⟨.refl s, id⟩

theorem not_startReg_low {o : Nat} (h : o < 0x200000) (k : o ≠ Reg.GEN_STATE ∧ ¬ (0x48 ≤ o ∧ o ≤ 0x50)) : ¬ startReg o := by
  rintro ((hr | hr | hr) | (hr | hr))
  · simp only [Reg.RAIL_STAT] at hr
    omega
  · simp only [Reg.RAIL_CTRL] at hr
    omega
  · exact not_eventReg (by omega) (by omega) hr
  · exact k.1 hr
  · simp only [Reg.CLK_TPLL_STEER] at hr
    omega

theorem not_startReg {o : Nat} (h : 0x100000 ≤ o ∧ o < 0x200000) : ¬ startReg o :=
  not_startReg_low h.2 ⟨by simp only [Reg.GEN_STATE]; omega, by omega⟩

end

/-! ### Commands that answer -/

section

variable {s : State} {r : Nat} {d : Bytes}

/-- What a command's answer and the light after it change. -/
def answerParts : List Part := complParts ++ lightParts

/-- The registers that a command's answer and the light after it write. -/
def answerReg (o : Nat) : Prop := complReg o ∨ lightWrite o

theorem not_answerReg {o : Nat} (h : 0x100000 ≤ o ∧ o < 0x200000) : ¬ answerReg o := by
  rintro (hr | hr)
  · exact not_complReg (by omega) (by omega) hr
  · exact not_startReg h (.inr hr)

/-- A ready command whose run leads to a state with nothing to settle but the light, and completes there, answers. -/
theorem completes_answer {c : Instr} {k : Cmd} {v : State} {P : State → Prop} (hx : exec c s = done (runRing k r) s)
    (h : ready k r d (fresh s) = true)
    (hu : k.run (jobOf (.ring r s.flr (ring s r).errors) d) d (accepted r d s) =
      complete (jobOf (.ring r s.flr (ring s r).errors) d) stOK 0 0 v)
    (hv : Steady v) (hl : fld v Reg.HOST_LINK_MODE = fld s Reg.HOST_LINK_MODE) (hf : v.flr = s.flr)
    (hr : (ring v r).errors = (ring s r).errors)
    (hP : ∀ t, answered d stOK t = true → Changes answerParts answerReg v t → P t) : Completes c s P := by
  have hopen : openRing s r = true := openRing_of_ready (s := fresh s) h
  have hj : jobOpen v (jobOf (.ring r s.flr (ring s r).errors) d) = true := jobOpen_congr hopen hl hf hr (a := dAuth d)
  generalize hje : jobOf (.ring r s.flr (ring s r).errors) d = j at hu hj
  obtain ⟨hc, hd⟩ := complete_effect hj 0 (st := stOK) (detail := 0) (by decide) (by decide)
  have hs : Steady (complete j stOK 0 0 v) := by
    obtain ⟨-, -, -, -, -, -, hvrm, -⟩ := hc.frame .rails (by decide)
    exact hv.of_changes hc (by decide) hvrm
  have he : runRing k r (fresh s) = complete j stOK 0 0 v := by
    rw [runRing_ready h]
    exact (congrArg (fun j => k.run j d (accepted r d s)) hje).trans hu
  refine completes_steady (x := complete j stOK 0 0 v) (hx.trans (by rw [done, he])) (.inl rfl) hs fun t ht => hP t ?_ ?_
  · have ha := completed_of_prefix ht.out (hd _ (.refl _))
    rw [← hje] at ha
    exact ha
  · exact (hc.mono (by decide) fun _ ho => .inl ho).trans (ht.mono (by decide) fun _ ho => .inr ho)

theorem steady_accepted (hs : s.settled) : Steady (accepted r d s) :=
  steady_of_settled (settled_of_frame (changes_acceptFront r d (fresh s)).frame (by decide) (settled_fresh hs))

/-- A move of the reel leaves what a command's answer rests on. -/
theorem answer_kept {v : State} {ps : List Part} {w : Nat → Prop} (h : Changes ps w (accepted r d s) v) (hp : Part.rings ∉ ps ∧ Part.resets ∉ ps)
    (hw : ¬ w Reg.HOST_LINK_MODE.off) : fld v Reg.HOST_LINK_MODE = fld s Reg.HOST_LINK_MODE ∧ v.flr = s.flr ∧ (ring v r).errors = (ring s r).errors := by
  refine ⟨(h.fld_eq hw).trans (fld_accepted r d s (by decide)), (h.frame .resets hp.2).trans (frame_accepted r d s .resets (by decide)), ?_⟩
  rw [ring, (h.frame .rings hp.1).1]
  exact errors_acceptFront r d (fresh s)

/-! ### PLAY and SEEK (R112, R114, R533) -/

theorem spanRaw_congr {t : State} (himg : t.img = s.img) (hmem : t.mem = s.mem) (n : Nat) : spanRaw t n = spanRaw s n := by
  have ha : spanAt t n = spanAt s n := by simp only [spanAt, secNat, sec, himg]
  simp only [spanRaw, ha, hmem]

theorem spanOf_accepted (r : Nat) (d : Bytes) (s : State) (n : Nat) : spanOf (accepted r d s) n = spanOf s n := by
  have himg : (accepted r d s).img = s.img := (frame_accepted r d s .structure (by decide)).1
  have hmem : (accepted r d s).mem = s.mem := (frame_accepted r d s .memory (by decide)).1
  simp only [spanOf, himg, spanRaw_congr himg hmem]

theorem targetOk_accepted (r : Nat) (d : Bytes) (s : State) : targetOk (accepted r d s) d = targetOk s d := by
  simp only [targetOk, spanOf_accepted]

theorem playBarred_accepted (r : Nat) (d : Bytes) (s : State) : playBarred (accepted r d s) = playBarred s := by
  have hlamp : lamp (accepted r d s) = lamp s := lamp_congr (fld_accepted r d s (by decide))
  have hlow : lowPath (accepted r d s) = lowPath s := lowPath_congr (reg_accepted r d s (by decide))
  have htest : flag (accepted r d s) Reg.GEN_STATE_TEST = flag s Reg.GEN_STATE_TEST := by rw [flag, flag, fld_accepted r d s (by decide)]
  have hallow : flag (accepted r d s) Reg.WLN_CTRL_ALLOW_DEGRADED = flag s Reg.WLN_CTRL_ALLOW_DEGRADED := by
    rw [flag, flag, fld_accepted r d s (by decide)]
  have hon : groupOn (accepted r d s) = groupOn s := funext fun g => by
    rw [groupOn, groupOn, fld_accepted r d s (by simp only [Reg.WLN_GCFG]; omega)]
  have hup : groupUp (accepted r d s) = groupUp s := funext fun g => by
    rw [groupUp, groupUp, groupState, groupState, fld_accepted r d s (by simp only [Reg.WLN_GSTAT]; omega)]
  unfold playBarred
  rw [hlamp, hlow, htest, hallow, hon, hup]

theorem playState_accepted (r : Nat) (d : Bytes) (s : State) : playState (accepted r d s) = playState s := fld_accepted r d s (by decide)

theorem steady_moves {t : State} (h : Changes reelParts reelReg s t) (hs : Steady s) : Steady t := by
  obtain ⟨-, -, -, -, -, -, hv, -⟩ := h.frame .rails (by decide)
  exact hs.of_changes h (by decide) hv

theorem completes_play (hs : s.settled) (h : ready cmdPlay r d s = true) (hb : playBarred s = false) (hres : bitOf (dByte d 4) 0 = false)
    (hp : playState s ≠ plPlaying) (ht : targetOk s d = true) :
    Completes (.play r) s (fun t => answered d stOK t = true ∧ playState t = plPlaying ∧
      fld t Reg.REEL_CURSOR_SPAN = leAt d 6 2 ∧ fld t Reg.REEL_CURSOR_OFFSET = leAt d 8 4) := by
  obtain ⟨hm, hc⟩ := reelMove_effect d false (setFld (accepted r d s) Reg.REEL_STATE_STATE plPaused)
  generalize hq : reelMove d false (setFld (accepted r d s) Reg.REEL_STATE_STATE plPaused) = q at hm hc
  obtain ⟨he, hst, hcur⟩ := enterPlaying_effect q
  have hq' : Changes reelParts reelReg (accepted r d s) (enterPlaying q) := ((changes_reelFld _ _ _ (by decide)).trans hm.changes).trans he
  have hl := lights_playLights (enterPlaying q)
  have hall : Changes (reelParts ++ startParts) (fun o => reelReg o ∨ startReg o) (accepted r d s) (playLights (enterPlaying q)) :=
    (hq'.mono (by decide) fun _ ho => .inl ho).trans (hl.changes.mono (by decide) fun _ ho => .inr ho)
  obtain ⟨hlink, hflr, herr⟩ := answer_kept hall (by decide) (by
    rintro (ho | ho)
    · exact not_reelReg (by decide) (by decide) ho
    · exact not_startReg_low (by decide) (by decide) ho)
  refine completes_answer (k := cmdPlay) rfl h ?_ (hl.steady (steady_moves hq' (steady_accepted hs))) hlink hflr herr fun t ha hk => ?_
  · show playRun _ d _ = _
    simp only [playRun, playBarred_accepted, hb, hres, Bool.false_eq_true, if_false, playState_accepted, hp, decide_false, targetOk_accepted, ht,
      Bool.not_true, Bool.and_false, hq]
  · have hreg : ∀ o, 0x100000 ≤ o ∧ o < 0x200000 → reg t o = reg (enterPlaying q) o := fun o ho =>
      (hk.regs o (not_answerReg ho)).trans (hl.changes.regs o (not_startReg ho))
    obtain ⟨h1, h2⟩ := cursorAt_congr ((hreg _ (by decide)).trans hcur) hc
    exact ⟨ha, (fld_congr_reg (hreg _ (by decide))).trans hst, h1, h2⟩

theorem completes_seek (hs : s.settled) (h : ready cmdSeek r d s = true) (hp : playState s ≠ plStopped) (ht : targetOk s d = true) :
    Completes (.seek r) s (fun t => answered d stOK t = true ∧ fld t Reg.REEL_CURSOR_SPAN = leAt d 6 2 ∧
      fld t Reg.REEL_CURSOR_OFFSET = leAt d 8 4) := by
  obtain ⟨hm, hc⟩ := reelMove_effect d (decide (playState s = plPaused)) (accepted r d s)
  generalize hq : reelMove d (decide (playState s = plPaused)) (accepted r d s) = q at hm hc
  obtain ⟨v, hv, hcv, he⟩ : ∃ v, Changes reelParts reelReg (accepted r d s) v ∧ CursorAt (leAt d 6 2) (leAt d 8 4) v ∧
      v = if playState s = plEnded then enterPlaying q else q := by
    split
    · obtain ⟨he, -, hcur⟩ := enterPlaying_effect q
      exact ⟨_, hm.changes.trans he, cursorAt_congr hcur hc, rfl⟩
    · exact ⟨_, hm.changes, hc, rfl⟩
  obtain ⟨hlink, hflr, herr⟩ := answer_kept hv (by decide) (not_reelReg (by decide) (by decide))
  refine completes_answer (k := cmdSeek) rfl h ?_ (steady_moves hv (steady_accepted hs)) hlink hflr herr fun t ha hk => ?_
  · show seekRun _ d _ = _
    unfold seekRun
    extract_lets st v'
    have hst : st = playState s := playState_accepted r d s
    rw [if_neg (by rw [hst]; exact hp), if_neg (by rw [targetOk_accepted, ht]; decide)]
    show complete _ stOK 0 0 (if st = plEnded then enterPlaying (reelMove d (decide (st = plPaused)) _) else reelMove d (decide (st = plPaused)) _) = _
    rw [hst, hq, ← he]
  · have h1 := cursorAt_congr (hk.regs _ (not_answerReg (by decide))) hcv
    exact ⟨ha, h1.1, h1.2⟩

end

end Sys2Proof.Reel
end

section
/-! PROOFS. O49: the commands of the reel, and the units of its fetches. -/

namespace Sys2Proof.Reel

set_option Elab.async false

open Machine HostPort Stray Rails Kept Lasting Clients StoreCommands

/-! ### REEL_MAP (R102, R103) -/

section

variable {s t : State} {r : Nat} {d : Bytes}

theorem leAt_natLe (v n : Nat) (rest : Bytes) : leAt (natLe v n ++ rest) 0 n = v % 256 ^ n := by
  rw [leAt, sliceB, List.drop_zero, List.take_left' (natLe_length v n), natLe_length, Nat.sub_self, List.replicate_zero, List.append_nil,
    leNat_natLe]

theorem leAt_append (x rest : Bytes) (o n : Nat) : leAt (x ++ rest) (x.length + o) n = leAt rest o n := by
  rw [leAt, leAt, sliceB, sliceB, ← List.drop_drop, List.drop_left]

/-- What a store put there reads there. -/
theorem tblGetRun_of_stored {a : Nat} {data : Bytes} (h : Stored a data s t) : tblGetRun 0#8 t.mem a data.length = data := by
  refine List.ext_getElem (tblGetRun_length _ _ _ _) fun k h1 h2 => ?_
  have hk := tblGetRun_getD 0#8 t.mem a data.length k h2
  rw [List.getD_eq_getElem _ _ h1, h (a + k), if_pos (by omega), Nat.add_sub_cancel_left, List.getD_eq_getElem _ _ h2] at hk
  exact hk

/-- A store within a line that may be written. -/
theorem writes_clientLine {grp a : Nat} {data : Bytes} (poison : Bool) (hn : 0 < data.length) (hl : a % 64 + data.length ≤ 64)
    (hc : writeCheck s grp a data.length = .ok) (h : SoundLine s (a / 64)) : Writes a data s (clientWrite grp a data poison s) := by
  have h1 : lineCount a data.length = 1 := by
    rw [lineCount, if_neg (by omega)]
    omega
  have hm : min data.length (64 - a % 64) = data.length := by omega
  rw [clientWrite, h1, clientLines, clientLines, hm, List.take_length, if_pos hc]
  exact writes_lineWrite poison (by omega) hn h

/-- An entry of the span table as it stands in memory (Table 4-1). -/
def spanBytes (e : Span) : Bytes :=
  natLe e.start 4 ++ (natLe e.len 4 ++ (natLe e.fill 4 ++ (natLe e.next 2 ++ (natLe (e.flags % 4) 2 ++ (natLe e.toff 8 ++ natLe 0 8)))))

theorem spanBytes_length (e : Span) : (spanBytes e).length = 32 := by simp [spanBytes, natLe_length]

theorem setSpan_eq (n : Nat) (e : Span) (s : State) : setSpan n e s = clientWrite grpHost (spanAt s n) (spanBytes e) false s := by
  simp only [setSpan, spanBytes, List.append_assoc]

theorem spanRaw_of_stored {n : Nat} {e : Span} (himg : t.img = s.img) (h : Stored (spanAt s n) (spanBytes e) s t) :
    (spanRaw t n).start = e.start % 2 ^ 32 ∧ (spanRaw t n).len = e.len % 2 ^ 32 ∧ (spanRaw t n).fill = e.fill % 2 ^ 32 := by
  have ha : spanAt t n = spanAt s n := by simp only [spanAt, secNat, sec, himg]
  have hb := tblGetRun_of_stored h
  rw [spanBytes_length] at hb
  have hraw : (spanRaw t n).start = leAt (spanBytes e) 0 4 ∧ (spanRaw t n).len = leAt (spanBytes e) 4 4 ∧ (spanRaw t n).fill = leAt (spanBytes e) 8 4 := by
    simp only [spanRaw, ha, hb, and_self]
  obtain ⟨h1, h2, h3⟩ := hraw
  have hskip : ∀ v rest o, leAt (natLe v 4 ++ rest) (4 + o) 4 = leAt rest o 4 := fun v rest o => by
    have := leAt_append (natLe v 4) rest o 4
    rwa [natLe_length] at this
  refine ⟨h1.trans (leAt_natLe _ _ _), ?_, ?_⟩
  · exact h2.trans ((hskip _ _ 0).trans (leAt_natLe _ _ _))
  · exact h3.trans ((hskip _ _ 4).trans ((hskip _ _ 0).trans (leAt_natLe _ _ _)))

theorem cursorOn_accepted (r : Nat) (d : Bytes) (s : State) (n : Nat) : cursorOn (accepted r d s) n = cursorOn s n := by
  have hreel : (accepted r d s).reel = s.reel := frame_accepted r d s .reel (by decide)
  simp only [cursorOn, cursor, playState_accepted, hreel, fld_accepted r d s (f := Reg.REEL_CURSOR_SPAN) (by decide),
    fld_accepted r d s (f := Reg.REEL_CURSOR_OFFSET) (by decide)]
  rfl

theorem reelUnits_accepted (r : Nat) (d : Bytes) (s : State) : reelUnits (accepted r d s) = reelUnits s := by
  rw [reelUnits, reelUnits, fld_accepted r d s (by decide)]

/-- The entry that a SET puts into the table. -/
def setEntry (d : Bytes) : Span := ⟨leAt d 8 4, leAt d 12 4, leAt d 16 4, leAt d 20 2, dByte d 5 % 4 / 2 * 2 + 1, leAt d 24 8⟩

/-- A SET that the table takes writes its entry. -/
theorem reelMapOp_set (h0 : dByte d 4 = 0) (hok : (reelMapOp d s).2 = stOK) :
    reelMapOp d (accepted r d s) = (setSpan (leAt d 6 2) (setEntry d) (accepted r d s), stOK) := by
  have himg : (accepted r d s).img = s.img := (frame_accepted r d s .structure (by decide)).1
  unfold reelMapOp at hok ⊢
  rw [h0] at hok ⊢
  simp only at hok ⊢
  split at hok
  · exact absurd (show stSpanRange = stOK from hok) (by decide)
  next hn =>
  split at hok
  · exact absurd (show stSpanBusy = stOK from hok) (by decide)
  next hc =>
  rw [if_neg (by rw [himg, reelUnits_accepted]; exact hn), if_neg (by rw [cursorOn_accepted]; exact hc)]
  rfl

theorem place_accepted (r : Nat) (d : Bytes) (s : State) : Placing s (accepted r d s) :=
  ⟨fun o ho => reg_accepted r d s (.inr (by
    rcases ho with rfl | rfl | ⟨c, rfl | rfl | rfl⟩
    · decide
    · decide
    · simp only [Reg.DMC_RANKMAP]; omega
    · simp only [Reg.DMC_RANKSTATE]; omega
    · simp only [Reg.DMC_MIGRATE]; omega)), by rw [show (accepted r d s).dram = s.dram from frame_accepted r d s .dram (by decide)]⟩

theorem completes_reelMap (hs : s.settled) (h : ready cmdReelMap r d s = true) (h0 : dByte d 4 = 0) (hok : (reelMapOp d s).2 = stOK)
    (ha : spanAt s (leAt d 6 2) % 32 = 0) (hw : writeCheck s grpHost (spanAt s (leAt d 6 2)) 32 = .ok)
    (hsound : sound s (spanAt s (leAt d 6 2)) 32) : Completes (.reelMap r) s (fun t =>
      answered d stOK t = true ∧ (spanRaw t (leAt d 6 2)).start = leAt d 8 4 ∧
      (spanRaw t (leAt d 6 2)).len = leAt d 12 4 ∧ (spanRaw t (leAt d 6 2)).fill = leAt d 16 4) := by
  have himg : (accepted r d s).img = s.img := (frame_accepted r d s .structure (by decide)).1
  have haddr : spanAt (accepted r d s) (leAt d 6 2) = spanAt s (leAt d 6 2) := by simp only [spanAt, secNat, sec, himg]
  have hwr : Writes (spanAt (accepted r d s) (leAt d 6 2)) (spanBytes (setEntry d)) (accepted r d s)
      (setSpan (leAt d 6 2) (setEntry d) (accepted r d s)) := by
    rw [setSpan_eq, haddr]
    refine writes_clientLine false (by rw [spanBytes_length]; decide) (by rw [spanBytes_length]; omega) ?_ ?_
    · rw [spanBytes_length, writeCheck_congr (fun o ho => reg_accepted r d s (by simp only [partReg] at ho; omega)) (by decide)]
      exact hw
    · exact (place_accepted r d s).soundLine (by rw [show (accepted r d s).dram = s.dram from frame_accepted r d s .dram (by decide)])
        (hsound _ le_rfl (by omega))
  generalize hq : setSpan (leAt d 6 2) (setEntry d) (accepted r d s) = q at hwr
  obtain ⟨v, hv, hrun⟩ : ∃ v, Changes reelParts reelReg q v ∧ ∀ j, cmdReelMap.run j d (accepted r d s) = complete j stOK 0 0 v := by
    refine ⟨_, ?_, fun j => by simp only [cmdReelMap, reelMapOp_set h0 hok, hq]; rfl⟩
    split
    · exact (changes_reel q _).trans (checked_reelCheck _).reel
    · exact (checked_reelCheck q).reel
  have hall : Changes (Stray.storeParts ++ reelParts) (fun o => rowReg o ∨ reelReg o) (accepted r d s) v :=
    (hwr.changes.mono (by decide) fun _ ho => .inl ho).trans (hv.mono (by decide) fun _ ho => .inr ho)
  obtain ⟨hlink, hflr, herr⟩ := answer_kept hall (by decide) (by
    rintro (ho | ho)
    · exact not_rowReg (by decide) ho
    · exact not_reelReg (by decide) (by decide) ho)
  have hsteady : Steady v := by
    obtain ⟨-, -, -, -, -, -, hvrm, -⟩ := hall.frame .rails (by decide)
    exact (steady_accepted hs).of_changes hall (by decide) hvrm
  refine completes_answer (k := cmdReelMap) rfl h (hrun _) hsteady hlink hflr herr fun t hans hk => ?_
  have hst : Stored (spanAt (accepted r d s) (leAt d 6 2)) (spanBytes (setEntry d)) (accepted r d s) t := fun b => by
    rw [(hk.frame .memory (by decide)).1, (hv.frame .memory (by decide)).1]
    exact hwr.stored b
  obtain ⟨h1, h2, h3⟩ := spanRaw_of_stored ((hk.frame .structure (by decide)).1.trans (hall.frame .structure (by decide)).1) hst
  exact ⟨hans, h1.trans (Nat.mod_eq_of_lt (leAt_lt d 8 4)), h2.trans (Nat.mod_eq_of_lt (leAt_lt d 12 4)),
    h3.trans (Nat.mod_eq_of_lt (leAt_lt d 16 4))⟩

/-! ### REEL_FETCH (R105) -/

/-- The register of the fetches. -/
def fetchReg (o : Nat) : Prop := o = Reg.REEL_FETCH_STAT

theorem firm_fetchReg (o : Nat) (h : fetchReg o) : firmReg o := .inr (.inr h)

theorem liveFetches_congr (h : t.reel.fetches = s.reel.fetches) : liveFetches t = liveFetches s := by rw [liveFetches, liveFetches, h]

theorem fetchOk_accepted (r : Nat) (d : Bytes) (s : State) (adv : Bool) (n dst count : Nat) :
    fetchOk (accepted r d s) adv n dst count = fetchOk s adv n dst count := by
  have hlive : liveFetches (accepted r d s) = liveFetches s :=
    liveFetches_congr (by rw [show (accepted r d s).reel = s.reel from frame_accepted r d s .reel (by decide)])
  have hbase : reelBase (accepted r d s) = reelBase s := fld_accepted r d s (by decide)
  have hw : ∀ a m, writeCheck (accepted r d s) grpHost a m = writeCheck s grpHost a m := fun a m =>
    writeCheck_congr (fun o ho => reg_accepted r d s (by simp only [partReg] at ho; omega)) (by decide) a m
  simp only [fetchOk, reelUnits_accepted, hbase, hw, spanOf_accepted, claimedFill, hlive]
  rfl

theorem completes_fetch (h : ready cmdReelFetch r d s = true) (hsrc : leAt d 24 8 % 64 = 0) (h1 : 1 ≤ leAt d 12 4) (h2 : leAt d 12 4 ≤ 262144)
    (himg : s.img.isSome = true) (hok : fetchOk s (bitOf (dByte d 4) 0) (leAt d 6 2) (leAt d 8 4) (leAt d 12 4) = true) :
    Completes (.reelFetch r) s (fun t => (liveFetches t).length = (liveFetches s).length + 1 ∧
      fld t Reg.REEL_FETCH_STAT_RUNNING = (liveFetches s).length + 1) := by
  have hroom : (liveFetches s).length < 8 := by
    simp only [ready, Bool.and_eq_true] at h
    obtain ⟨⟨⟨-, hr⟩, -⟩, -⟩ := h
    exact of_decide_eq_true hr
  have hreel : (accepted r d s).reel = s.reel := frame_accepted r d s .reel (by decide)
  have hacc : (accepted r d s).img = s.img := (frame_accepted r d s .structure (by decide)).1
  obtain ⟨f, x, hrun, hdone⟩ : ∃ (f : Fetch) (x : State),
      reelFetchRun (jobOf (.ring r s.flr (ring s r).errors) d) d (accepted r d s) = setFetches (s.reel.fetches ++ [f]) x ∧ f.done = false := by
    unfold reelFetchRun
    extract_lets adv n dst count f
    rw [if_neg (by omega), if_neg (by rw [hacc, fetchOk_accepted, hok, ← Option.not_isSome, himg]; decide), hreel]
    exact ⟨f, _, rfl, rfl⟩
  have hlen : ∀ y : State, y.reel.fetches = s.reel.fetches ++ [f] → (liveFetches y).length = (liveFetches s).length + 1 := fun y hy => by
    simp [liveFetches, hy, hdone]
  refine completes_runs firm_fetchReg rfl h hrun fun t ht => ?_
  have hf : t.reel.fetches = s.reel.fetches ++ [f] := ht.fetches.trans rfl
  refine ⟨hlen t hf, ?_⟩
  rw [fld_congr_reg (ht.regs Reg.REEL_FETCH_STAT rfl), setFetches, fld_setFld_self _ _ (by decide), hlen _ rfl]
  exact Nat.mod_eq_of_lt (by omega)

/-! ### Units land, fail and complete (R105 to R107) -/

theorem live_of_getElem {f : Nat} {x : Fetch} (h : (liveFetches s)[f]? = some x) : x.done = false := by
  have hm := (List.mem_filter.1 (List.mem_of_getElem? h)).2
  simpa using hm

/-- A unit that may be written lands. -/
theorem unitLanded_eq {u a : Nat} {x : Fetch} (data : Bytes) (hadv : x.adv = false) (hu : u < x.count) (ho : x.inOrder ≤ u)
    (hahead : x.ahead.contains u = false) (ha : reelBase s + (x.dst + u) * reelUnit = a) (hw : writeCheck s grpHost a reelUnit = .ok) :
    ∃ g, unitLanded x u data s = reelCheck (putFetch x g (memWrite a (sliceB data 0 reelUnit) false s)) := by
  have hno : ¬ (x.count ≤ u ∨ u < x.inOrder ∨ x.ahead.contains u = true) := by
    rw [hahead]
    simp only [Bool.false_eq_true, or_false]
    omega
  simp only [unitLanded, if_neg hno, ha, hw, hadv, Bool.false_eq_true, if_false]
  exact ⟨_, rfl⟩

theorem mem_putFetch (f g : Fetch) (s : State) : (putFetch f g s).mem = s.mem := rfl

theorem completes_unit {f u : Nat} {x : Fetch} {data : Bytes} (h : (liveFetches s)[f]? = some x) (hadv : x.adv = false) (hu : u < x.count)
    (ho : x.inOrder ≤ u) (hahead : x.ahead.contains u = false) (hw : writeCheck s grpHost (reelBase s + (x.dst + u) * reelUnit) reelUnit = .ok)
    (hsound : sound s (reelBase s + (x.dst + u) * reelUnit) reelUnit) :
    Completes (.fetchUnitLanded f u data) s (Stored (reelBase s + (x.dst + u) * reelUnit) (sliceB data 0 reelUnit) s) := by
  generalize ha : reelBase s + (x.dst + u) * reelUnit = a at hw hsound ⊢
  have hlen : (sliceB data 0 reelUnit).length = reelUnit := by simp [sliceB]
  have hplace : Placing s (fresh s) := ⟨fun _ _ => rfl, rfl⟩
  have hwr : Writes a (sliceB data 0 reelUnit) (fresh s) (memWrite a (sliceB data 0 reelUnit) false (fresh s)) := by
    refine writes_memWrite a _ false ?_
    rw [hlen]
    exact fun line h1 h2 => hplace.soundLine rfl (hsound line h1 h2)
  have hmem0 : (fresh s).mem = s.mem := rfl
  refine completes_lasting noReg_firm (f := fun s => match (liveFetches s)[f]? with
    | some x => unitLanded x u data s
    | none => s) rfl fun t ht => ?_
  rw [show (liveFetches (fresh s))[f]? = some x from h] at ht
  have ha' : reelBase (fresh s) + (x.dst + u) * reelUnit = a := by
    rw [show reelBase (fresh s) = reelBase s from rfl]
    exact ha
  have hw' : writeCheck (fresh s) grpHost a reelUnit = .ok := by
    rw [writeCheck_congr (s := s) (t := fresh s) (fun _ _ => rfl) (by decide)]
    exact hw
  obtain ⟨g, hg⟩ := unitLanded_eq data hadv hu ho hahead ha' hw'
  have hmem : t.mem = (memWrite a (sliceB data 0 reelUnit) false (fresh s)).mem :=
    ht.mem.trans ((congrArg State.mem hg).trans (((checked_reelCheck _).changes.frame .memory (by decide)).1.trans (mem_putFetch _ _ _)))
  intro b
  rw [hmem, hwr.stored b, hmem0]

/-- Its units failed counted, the fetch is noted no more. -/
structure Dropped (x : Fetch) (n : Nat) (t : State) : Prop where
  failed : fld t Reg.REEL_FETCH_STAT_FAILED = n
  gone : x ∉ t.reel.fetches

/-- FAILED as it is with another list of fetches. -/
theorem failed_setFetches (l : List Fetch) (s : State) : fld (setFetches l s) Reg.REEL_FETCH_STAT_FAILED = fld s Reg.REEL_FETCH_STAT_FAILED :=
  fld_setFld_ne _ Reg.REEL_FETCH_STAT_RUNNING Reg.REEL_FETCH_STAT_FAILED _ ⟨by decide, by decide⟩ (by decide) (.inr (.inr (by decide)))

theorem Dropped.lasts {x : Fetch} {n : Nat} (h : Dropped x n s) (k : Lasts fetchReg s t) : Dropped x n t :=
  ⟨(fld_congr_reg (k.regs Reg.REEL_FETCH_STAT rfl)).trans h.failed, by rw [k.fetches]; exact h.gone⟩

theorem fillOver_sub (n : Nat) (l : List Fetch) (pos : Nat) : (fillOver n l pos).2 ⊆ l := by
  induction l generalizing pos with
  | nil => exact List.Subset.refl _
  | cons f l ih =>
    unfold fillOver
    split
    · exact List.cons_subset_cons f (ih pos)
    · split
      · exact List.cons_subset_cons f (ih pos)
      · extract_lets r
        have hr : r.2 ⊆ l := ih _
        split
        · exact List.subset_cons_of_subset f hr
        · exact List.cons_subset_cons f hr

theorem dropped_fixFill {x : Fetch} {n : Nat} (k : Nat) (h : Dropped x n s) : Dropped x n (fixFill k s) := by
  unfold fixFill
  split
  · exact h
  next e _ =>
    extract_lets r y s1
    have h1 : Dropped x n s1 := ⟨h.failed, fun hm => h.gone (fillOver_sub _ _ _ hm)⟩
    have hm := mem_lasts firm_fetchReg s1
    refine h1.lasts (hm.low.reelCheck ?_)
    rw [setSpan_eq]
    exact hm.clientWrite (.refl s1)

/-- A fetch that ends is noted no more, or as done. -/
theorem dropped_fetchEnd {x : Fetch} {n : Nat} (hx : x.done = false) (h : fld s Reg.REEL_FETCH_STAT_FAILED = n) :
    Dropped x n (fetchEnd x s) := by
  unfold fetchEnd
  extract_lets s1
  have h1 : Dropped x n s1 := by
    show Dropped x n (if _ then _ else _)
    split
    · refine ⟨(failed_setFetches _ _).trans h, fun hm => ?_⟩
      obtain ⟨y, -, hy⟩ := List.mem_map.1 (show x ∈ s.reel.fetches.map _ from hm)
      split at hy
      · rw [← hy] at hx
        exact Bool.noConfusion hx
      · next hne => exact hne (by rw [hy])
    · refine ⟨(failed_setFetches _ _).trans h, fun hm => ?_⟩
      have := (List.mem_filter.1 (show x ∈ s.reel.fetches.filter _ from hm)).2
      simp at this
  split
  · exact dropped_fixFill _ h1
  · exact h1

theorem completes_readError {f u : Nat} {x : Fetch} (h : (liveFetches s)[f]? = some x) (hu : u < x.count) :
    Completes (.fetchReadError f u) s (fun t => Counted Reg.REEL_FETCH_STAT_FAILED s t ∧ x ∉ t.reel.fetches) := by
  have hdrop : ∀ n v, fld v Reg.REEL_FETCH_STAT_FAILED = n → Dropped x n (fetchStop x stFetchSrc v) := fun n v hv => by
    unfold fetchStop
    extract_lets gone s1 s2
    have h1 : fld s1 Reg.REEL_FETCH_STAT_FAILED = n := (failed_setFetches _ _).trans hv
    have h2 : Dropped x n s2 := (dropped_fetchEnd (live_of_getElem h) h1).lasts ((mem_lasts firm_fetchReg _).low.complete (.refl _))
    exact h2.lasts (foldlK (fun _ _ hk => (mem_lasts firm_fetchReg s2).low.complete hk) (.refl s2))
  refine completes_lasting firm_fetchReg (f := fun s => match (liveFetches s)[f]? with
    | some x => if u < x.count then fetchStop x stFetchSrc (incSat s Reg.REEL_FETCH_STAT_FAILED 1) else s
    | none => s) rfl fun t ht => ?_
  rw [show (liveFetches (fresh s))[f]? = some x from h] at ht
  simp only [hu, if_true] at ht
  obtain ⟨hf, hg⟩ := (hdrop _ _ rfl).lasts ht.toLasts
  exact ⟨hf.trans (Timing.counted_incSat (fresh s) _ _ _ (by decide) (by decide)), hg⟩

theorem completes_fetchDone {f : Nat} {x : Fetch} (h : (liveFetches s)[f]? = some x) (hadv : x.adv = false) (ho : x.count ≤ x.inOrder)
    (hj : jobOpen s x.job = true) : Completes (.fetchComplete f) s (fun t => completed x.job.tag x.job.opcode stOK 0 t = true ∧ x ∉ t.reel.fetches) := by
  refine completes_lasting firm_fetchReg (f := fun s => match (liveFetches s)[f]? with
    | some x => fetchComplete x s
    | none => s) rfl fun t ht => ?_
  rw [show (liveFetches (fresh s))[f]? = some x from h] at ht
  have he : fetchComplete x (fresh s) = complete x.job stOK 0 x.count (setFetches (s.reel.fetches.filter fun y => decide (y.id ≠ x.id)) (fresh s)) := by
    unfold fetchComplete fetchEnd
    simp only [hadv, Bool.false_eq_true, if_false, Nat.not_lt.2 ho]
    rfl
  have hopen : jobOpen (setFetches (s.reel.fetches.filter fun y => decide (y.id ≠ x.id)) (fresh s)) x.job = true :=
    jobOpen_of_same hj (fld_congr_reg (reg_setFld_ne _ _ (by decide))) rfl rfl
  have hd : Dropped x (fld (fresh s) Reg.REEL_FETCH_STAT_FAILED) (fetchEnd x (fresh s)) := dropped_fetchEnd (live_of_getElem h) rfl
  have hk : Dropped x (fld (fresh s) Reg.REEL_FETCH_STAT_FAILED) (fetchComplete x (fresh s)) := by
    rw [fetchComplete, if_neg (by omega)]
    exact hd.lasts ((mem_lasts firm_fetchReg _).low.complete (.refl _))
  refine ⟨completed_of_prefix ht.out ?_, (hk.lasts ht.toLasts).gone⟩
  show completed _ _ _ _ (fetchComplete x (fresh s)) = true
  rw [he]
  exact (complete_effect hopen _ (by decide) (by decide)).2 _ (.refl _)

/-! ### REEL_WM (R122) -/

theorem completes_watermark (hs : s.settled) (v : DWord) : Completes (.reelWmWrite v) s (fun t => reg t Reg.REEL_WM = v) := by
  have hw : Changes reelParts reelReg (freshWrite s) (setFld (setReg (freshWrite s) Reg.REEL_WM v) Reg.REEL_STATE_LOW_ARMED 1) :=
    (changes_setReg _ Reg.REEL_WM v (by decide) (.inl (by decide)) (by decide)).trans (changes_reelFld _ _ 1 (by decide))
  have hc := checked_lowNow (setFld (setReg (freshWrite s) Reg.REEL_WM v) Reg.REEL_STATE_LOW_ARMED 1)
  refine completes_write (f := reelWmWrite v) rfl rfl (settled_of_frame (hw.trans hc.reel).frame (by decide) (settled_freshWrite hs)) fun t ht => ?_
  rw [ht.regs _ id]
  refine (hc.reg (by decide) (by decide) (by decide)).trans ?_
  rw [reg_setFld_ne _ _ (by decide), reg_setReg_same]

end

/-- Settles O49, a command at a time. -/
theorem reelCommandsAnswer : Obligations.ReelCommandsAnswer := by
  unfold Obligations.ReelCommandsAnswer
  exact fun s r d hs => ⟨completes_reelMap hs, completes_fetch, completes_play hs, completes_seek hs,
    fun f u x data h hadv hu ho ha => completes_unit h hadv hu ho ha, fun f u x => completes_readError, fun f x => completes_fetchDone,
    completes_watermark hs⟩

end Sys2Proof.Reel
end

section
/-! PROOFS. O58: with a population of no channels, a line's channel is out of range, and its controller's refresh debt stands in the ray
mapper's registers. -/

namespace Sys2Proof.Stray

set_option Elab.async false

open Machine

/-- The table of a uniformity image of one word for wick 0. -/
def oneEntry : Bytes := natLe 0 4 ++ natLe 1 4 ++ natLe 80 8

/-- The header of that image but for its CRC. -/
def oneHeader : Bytes :=
  natLe 0x565A5554 4 ++ natLe 0x0100 2 ++ natLe 64 2 ++ natLe 1 4 ++ natLe 84 4 ++ natLe (crc32c oneEntry) 4 ++ natLe 0 40

/-- The image but for its word, which is 0. -/
def oneTable : Bytes := oneHeader ++ natLe (crc32c oneHeader) 4 ++ oneEntry

/-- As many zeros as the image has bytes. -/
def unpackedZeros : Bytes := List.replicate 84 0#8

/-- Those zeros in a stored block of a gzip member. -/
def packedZeros : Bytes :=
  natLe 0x00088B1F 4 ++ natLe 0xFF00 6 ++ natLe 0xFFAB005401 5 ++ unpackedZeros ++ natLe (crc32 unpackedZeros) 4 ++ natLe 84 4

/-- Dark, with a population of no channels, so that the lines of the packed push are channel 28's. That channel owes refreshes of two
units, one of them of the bank that the lines are in, and that bank closes after an access. The staging region holds an image already and
takes no write. -/
def strayStage : State :=
  { regs := [(Reg.GEN_STATE, 3#64), (Reg.MFB_CAPACITY, 0x10000#64), (Reg.RMAP_UNI_STAGE, 0x2000#64), (Reg.RMAP_UNI_STAGE_SIZE, 84#64),
      (Reg.SCAN_W_COLS 0, 0x10000#64)]
    mem := tblSetRun 0#8 (tblSetRun 0#8 [] 0x1C00 packedZeros) 0x2000 oneTable
    dram := { debt := [(8 * 28, 1), (8 * 28 + 1, 1)], banks := [((28 * 4) * 64, ⟨0, none, none⟩)] }
    rmap := { push := some ⟨{}, 0x1C00, 107, true, [], false⟩ }
    hle := { uni := some 1 } }

theorem settled_strayStage : strayStage.settled := State.settled_of_none rfl rfl rfl (by decide +kernel) (by decide +kernel) rfl

theorem gunzip_strayStage :
    gunzip (peekRange (fresh strayStage) grpLossless 0x1C00 107) (fld strayStage Reg.RMAP_UNI_STAGE_SIZE_SIZE) = .ok unpackedZeros := by
  decide +kernel

/-- The staging region as the obligation has it, where the push is read and unpacked, holds an image. -/
theorem image_strayStage : (uniImage (uniStage strayStage) unpackedZeros.length (clientWrite grpLossless (uniStage strayStage) unpackedZeros false
    (pipeBytes 107 unpackedZeros.length (uniFree (memRead grpLossless 0x1C00 107 (fresh strayStage)).1)))).2.isSome = true := by
  decide +kernel

/-- Refutes O58: the read of the push writes BEHIND of channel 28, whose address is RMAP_UNI_STAGE's; at the staging region's new address
there is no image, and no push begins. -/
theorem not_mapsTablesAndStructuresAreLoaded : ¬ Obligations.MapsTablesAndStructuresAreLoaded := by
  unfold Obligations.MapsTablesAndStructuresAreLoaded
  intro h
  obtain ⟨-, -, -, hunpack, -⟩ := h strayStage 0 [] settled_strayStage
  obtain ⟨es, hes⟩ := Option.isSome_iff_exists.1 image_strayStage
  obtain ⟨-, q, hq, -⟩ := of_completes (hunpack _ _ es rfl rfl rfl gunzip_strayStage hes)
  have hnone : (after .uniUnpackDone strayStage).rmap.push.isNone = true := by decide +kernel
  rw [hq] at hnone
  exact Bool.false_ne_true hnone

end Sys2Proof.Stray
end
